-- ==== Sys2Proof/Word.lean ====
section
/-!
DEFINITION. The word types of the Swemo 9600 model: bytes, register words (R4: every register is 32 bits wide) and the
wider words of handles, accumulators and times. Nothing here computes; the bit-field helpers stand in Machine/Bits.lean.
-/
namespace Sys2Proof

/-- One byte of memory, of a frame or of an instruction. -/
abbrev Byte := BitVec 8

/-- A register, descriptor word or engine register: 32 bits (R4). -/
abbrev Word := BitVec 32

/-- An engine accumulator: 64 bits (R173). -/
abbrev DWord := BitVec 64

end Sys2Proof
end

