-- ==== Sys2Proof/Machine/Tab.lean ====
section
/-!
DEFINITION. Sparse tables keyed by a natural number, and memory as such a table of bytes in one canonical form. Both are
lists of pairs in rising order of the key. A table has no entry where the default applies; memory has no entry for a byte
that is 0, which is what an unlisted byte reads as (R39, R271).
-/
namespace Sys2Proof.Machine

/-- A sparse table. -/
abbrev Tab (α : Type) := List (Nat × α)

/-- The entry at a key. -/
def tfind {α : Type} : Tab α → Nat → Option α
  | [], _ => none
  | (a, v) :: t, k => if a = k then some v else tfind t k

/-- The entry at a key, or the default of the table. -/
def tget {α : Type} (d : α) (t : Tab α) (k : Nat) : α := (tfind t k).getD d

/-- The table without the entry at a key. -/
def terase {α : Type} : Tab α → Nat → Tab α
  | [], _ => []
  | (a, v) :: t, k => if a = k then terase t k else (a, v) :: terase t k

/-- The table with `v` at key `k`, keys in rising order. -/
def tset {α : Type} : Tab α → Nat → α → Tab α
  | [], k, v => [(k, v)]
  | (a, u) :: t, k, v =>
    if a < k then (a, u) :: tset t k v
    else if a = k then (k, v) :: t
    else (k, v) :: (a, u) :: t

/-- The table with `f` applied to the entry at `k`, which is `d` when there is none. -/
def tmod {α : Type} (d : α) (t : Tab α) (k : Nat) (f : α → α) : Tab α := tset t k (f (tget d t k))

/-- The keys of a table. -/
def tkeys {α : Type} (t : Tab α) : List Nat := t.map Prod.fst

/-- Keys in strictly rising order, each above `lo` when `lo` is given. -/
def tsorted {α : Type} : Tab α → Bool
  | [] => true
  | [_] => true
  | (a, _) :: (b, w) :: t => a < b && tsorted ((b, w) :: t)

/-! ### Memory -/

/-- Memory: bytes by key, no entry for a zero byte. -/
abbrev Memory := List Host.Cell

/-- What a byte that nothing is listed for reads as: Boot fills every memory with zero codewords (R39, R271).
DESIGN CHOICE, log entry 8. -/
def Memory.unlisted : Byte := 0

/-- The byte at a key. DESIGN CHOICE, log entry 8. -/
def mget (m : Memory) (a : Nat) : Byte := tget Memory.unlisted m a

/-- The memory with one byte written; the canonical form is kept. -/
def mset (m : Memory) (a : Nat) (b : Byte) : Memory :=
  if b = Memory.unlisted then terase m a else tset m a b

/-- `n` bytes from key `a` on. -/
def mread (m : Memory) (a : Nat) : Nat → List Byte
  | 0 => []
  | n + 1 => mget m a :: mread m (a + 1) n

/-- Bytes written from key `a` on. -/
def mwrite (m : Memory) (a : Nat) : List Byte → Memory
  | [] => m
  | b :: t => mwrite (mset m a b) (a + 1) t

/-- The canonical form: keys strictly rising, no zero byte listed. -/
def Memory.wf (m : Memory) : Bool := tsorted m && m.all (fun c => c.2 != Memory.unlisted)

/-- The listed bytes with keys in `[a, a + n)`. -/
def mslice (m : Memory) (a n : Nat) : Memory := m.filter (fun c => a ≤ c.1 && c.1 < a + n)

/-- The memory with every byte of `[a, a + n)` zero. -/
def mclear (m : Memory) (a n : Nat) : Memory := m.filter (fun c => !(a ≤ c.1 && c.1 < a + n))

/-- The listed bytes `cells`, written over `[a, a + n)`, which is cleared first. -/
def mrestore (m : Memory) (a n : Nat) (cells : Memory) : Memory :=
  cells.foldl (fun m c => mset m c.1 c.2) (mclear m a n)

end Sys2Proof.Machine
end

