-- ==== Sys2Proof/Machine/Inputs.lean ====
section
/-!
DEFINITION. Types of the operands that the rows of the opcode table carry. What the outside world decides (who makes an
access, what a pin or a lane carried, what a codeword check found, the bytes of a frame) is an operand of the step; what
the device decides is computed by the step from the state.
-/
namespace Sys2Proof

/-- Who makes an access (R7, R474, R535): the host over PCIe, a local-bus master, an engine, or the device itself. -/
inductive Initiator where
  | pcie
  | lb
  | engine (e : Fin 96)
  | internal
  deriving DecidableEq, Repr

/-- What the symbol code found when a codeword was read (R260, R261). -/
inductive Ecc where
  | clean
  /-- one symbol corrected; its number 0-35 -/
  | corrected (sym : Fin 36)
  | uncorr
  deriving DecidableEq, Repr

/-- The codeword checks of the local memories that one engine step reads: instruction store, and X or Y (R161, R163). -/
structure LocalEcc where
  fetch : Ecc
  data : Ecc
  deriving DecidableEq, Repr

/-- The target regions between which an engine's far accesses are ordered (R133, R144). -/
inductive Region where
  | bank | ext | dev
  deriving DecidableEq, Repr

/-- The two atomics of R198. -/
inductive AtomicOp where
  | add | swap
  deriving DecidableEq, Repr

/-- The parties of the sleep agreement (R48). -/
inductive SleepParty where
  | cutter | scan | sec | hbr
  deriving DecidableEq, Repr

/-- The boot flash as the boot ROM finds it (R55, R497, XMC register map): the header's bytes and the two register values it
carries, and the images in flash order, each a 256-byte image header followed by its payload. -/
structure BootFlash where
  header : List Byte
  xmcCfg : Word
  flushCfg : Word
  images : List (List Byte)
  deriving DecidableEq, Repr

/-- An instant at a pin or a lane: how many quarter-nanoseconds before the present tick it lies. -/
abbrev Back := Fin 16




/-- The scheduled event that enters the commit horizon (R109). -/
inductive CommitTarget where
  /-- output `i` of engine `e`'s output queue: a PIN output with a short-time release -/
  | shortOut (e : Fin 96) (i : Nat)
  /-- wave-time output `i` of treadle `n` -/
  | waveOut (n : Fin 16) (i : Nat)
  /-- the next entry of pattern table `t` that has not been committed -/
  | pattern (t : Fin 8)
  /-- the start or stop that waits for TRD_START_AT -/
  | start
  deriving DecidableEq, Repr

/-- What a read of external memory and its repetition find (R262). -/
structure ExtRead where
  ecc : Ecc
  retry : Ecc
  deriving DecidableEq, Repr

/-- One access at a bank port in one slot (R251-R253). -/
structure PortAccess where
  /-- byte address within the bank's 256 KiB -/
  addr : Fin 262144
  /-- bytes of the access -/
  size : Fin 17
  write : Bool
  data : List Byte
  /-- an RMW atomic (R198) with the operand in `data` -/
  atomic : Option AtomicOp
  /-- the far access of this engine that the port serves; none for another requester -/
  eng : Option (Fin 96)
  /-- what the check of the row found -/
  ecc : Ecc
  deriving DecidableEq, Repr

/-- An event handed to an engine's queue by a block (R146), with the number of nanoseconds since its stamp. -/
structure EventIn where
  chan : Fin 512
  src : Fin 16
  unit : Byte
  /-- short time, quarter and map generation of the stamp -/
  st : Word
  quarter : Fin 4
  gen : Fin 16
  seq : BitVec 16
  payload : Word
  deriving DecidableEq, Repr

/-- A frame as the PCS hands it to the MAC: destination address to last FCS byte (R280). -/
structure RxFrame where
  bytes : List Byte
  /-- a PCS error code between the SFD and the end (R282) -/
  symErr : Bool
  /-- an odd number of nibbles (R282, 100BASE-FX) -/
  oddNibble : Bool
  /-- the stamp point passed this many quarter-nanoseconds before the present tick (R81, R82) -/
  back : Back
  /-- what the checks of the port's datapath find (R260, R265) -/
  path : Ecc
  deriving DecidableEq, Repr

/-- What a port's PCS reports (R279, R299). -/
structure LinkFacts where
  sync : Bool
  anDone : Bool
  /-- the SGMII in-band word: link up, half duplex -/
  inbandUp : Bool
  half : Bool
  hiBer : Bool
  /-- resolved speed, coded as dp_speed -/
  speed : Fin 5
  deriving DecidableEq, Repr

/-- The two heartbeat paths (R349). -/
inductive HbPath where
  | ring | hbo
  deriving DecidableEq, Repr

namespace Machine

/-- An open load-delay slot: the pending destination, value and remaining slot count (R142, R158). -/
structure DelaySlot where
  /-- destination register: w number; a load into a pair opens two -/
  dest : Nat
  value : Word
  left : Nat
  deriving DecidableEq, Repr

/-- A modulo-register write that has not taken effect yet (R138). -/
structure ModWrite where
  idx : Nat
  value : Word
  left : Nat
  deriving DecidableEq, Repr

/-- A channel context: the frame of R158 and the input bookkeeping of R139. -/
structure Ctx where
  /-- w0-w15 -/
  w : Tab Word
  /-- x0-x3 (0-3) and y0-y3 (4-7) -/
  ar : Tab (BitVec 16)
  /-- accumulator a0 -/
  a0 : BitVec 72
  /-- accumulator a1 -/
  a1 : BitVec 72
  /-- c0: Z N C V T L in bits 0-5 -/
  flags : Word
  /-- c1 -/
  rcnt : Word
  /-- c4 as latched by a read of c3 -/
  wtimeHi : Word
  /-- c5, c6 and the quarter-nanosecond of the current input -/
  cinSt : Word
  cinRel : Word
  cinQ : Nat
  /-- c7: budget left this period -/
  budget : Nat
  /-- EP_XMOD[0-3] (0-3) and EP_YMOD[0-3] (4-7) as post-modifies see them, and writes on their way (R138) -/
  mods : Tab Word
  modW : List ModWrite
  /-- program counter, an offset in the code window -/
  pc : Nat
  /-- open load-delay slots (R142) -/
  delay : List DelaySlot
  /-- a repeat is in progress -/
  repOn : Bool
  /-- poisoned w registers (R145) -/
  poison : List Nat
  deriving DecidableEq, Repr

end Machine

/-- A pattern book record (R236, R345, R346) as it comes off the ring. -/
inductive BookRecord where
  /-- a journalled event of the active device's channel `chan` in pack `pack`, stamped at node `node` -/
  | event (node : Fin 8) (pack : BitVec 16) (ev : EventIn)
  /-- a checkpoint of channel `chan`: full, or the epoch after the last one; the context frame and the state bytes that it
  carries, and the stamp and seq of its last sealed input -/
  | checkpoint (node : Fin 8) (chan : Fin 512) (pack : BitVec 16) (full : Bool) (epoch : Nat) (ctx : Machine.Ctx)
      (cells : List (Nat × Byte)) (sealed : Option (Word × BitVec 16)) (late : Nat)
  /-- the redundancy-state record: RED_PAIR_SEQ of each pair -/
  | redState (seqs : List (BitVec 16))
  deriving DecidableEq, Repr

/-- A CAN frame off the bus: the two control words and the data bytes of the frame record (R400). -/
structure CanRx where
  w0 : Word
  w1 : Word
  data : List Byte
  /-- quarter-nanoseconds since the sample point of the last-but-one end-of-frame bit -/
  back : Back
  /-- nanoseconds from the SOF edge to the stamp -/
  sofAgo : Nat
  deriving DecidableEq, Repr

/-- How a CAN transmission attempt ended (R403, R404). -/
inductive TxEnd where
  | sent | lostArb
  /-- a bus error, coded as ERR.lec: 1 stuff, 2 form, 3 ack, 4 bit 1, 5 bit 0, 6 CRC; true in the data phase -/
  | error (code : Fin 8) (dataPhase : Bool)
  deriving DecidableEq, Repr

/-- What the always-on wake decoder saw (R417, R418). -/
inductive WakeFrame where
  | classical (w0 : Word) (dlc : Fin 16) (data : List Byte)
  | fd
  | erroneous
  deriving DecidableEq, Repr

/-- The host's two ports (R474). -/
inductive HostPort where
  | pcie | lb
  deriving DecidableEq, Repr

/-- The address spaces a host access may name (LEDGER word 1). -/
inductive HostSpace where
  | bar0 | bar2 | bar4 | lbTarget | obw
  deriving DecidableEq, Repr

/-- A host write as the bridge takes it (R474). -/
structure HostWrite where
  port : HostPort
  space : HostSpace
  addr : Nat
  be : BitVec 4
  data : Word
  /-- PCIe requester ID; 0xFFFF for the local bus -/
  tag : BitVec 16
  deriving DecidableEq, Repr

/-- What an outbound local-bus cycle met (R479, R480). -/
inductive ObResult where
  /-- acknowledged, with the data read -/
  | ack (data : Word)
  /-- an external master selected the device: the request backs off -/
  | crossed
  /-- not acknowledged -/
  | timeout
  deriving DecidableEq, Repr

end Sys2Proof
end

