-- ==== Sys2Proof/Syntax.lean ====
section
/-!
DEFINITION. The commands of the block: one constructor per row of spec/opcode_table.json, in the table's order
(SHT_GROUP_TRIGGER apart, which stands beside STROBE). Each
docstring is the row's rule and summary; operand types stand in Machine/Inputs.lean. `who` is the initiator of a
register access, `val` the word written, `m` the codeword checks of a Zelek step, `withHost` says that a host write of
the same register landed in the same clock.
-/
namespace Sys2Proof

/-- A command: a register access, a Zelek or shuttle instruction step, a protocol event, or an event on a pin or lane.
DESIGN CHOICE, log entry 1. -/
inductive Instr where
  /-- R7: A write to a register that has no row of its own acts according to its access code. -/
  | registerWrite (who : Initiator) (addr : Nat) (be : BitVec 4) (val : Word) (hwSet : Word)
  /-- R35: POR_N is sampled low and the whole device enters reset with its outputs made safe. -/
  | porAssert
  /-- R514: POR_N is released, the straps are sampled, PWR_EN_MAIN rises, and the main domain is released when PG_MAIN is high. -/
  | porRelease (straps : BitVec 6) (pgMain : Bool)
  /-- R516: An always-on rail stays below its threshold for 1 µs and a POR is asserted. -/
  | aonSupplyLow (core io ns : Nat)
  /-- R516: The always-on rails rise above their release thresholds and the POR is released. -/
  | aonSupplyRecover (core io : Nat)
  /-- R519: WARM_N is seen low on 10 consecutive samples and a WARM reset is asserted. -/
  | warmPin (seen : Nat)
  /-- R9: A keyed write of PWR_RESET_CMD starts a WARM reset. -/
  | warmResetCmd (who : Initiator) (val : Word)
  /-- R30: A write of PWR_MODE_REQ is judged and makes, or refuses, a mode transition. -/
  | modeRequest (who : Initiator) (val : Word) (withHost : Bool)
  /-- R538: The last output of the inputs stamped before the stop boundary is released or late, and the device enters Stop. -/
  | runStopDrained
  /-- R38: The boot ROM finishes verification and loading and moves the device to Stop, Provision or Safe. -/
  | bootRomComplete (b : BootFlash) (ddrOk : Bool)
  /-- R537: PG_MAIN falls while the main domain runs, and the main domain is held in reset. -/
  | pgMainFall
  /-- R537: PG_MAIN rises and the main domain is released into Boot. -/
  | pgMainRise
  /-- R43: PG_MAIN fails to rise within 50 ms of a wake, PWR_EN_MAIN goes low and event 0x0B is logged. -/
  | pgMainTimeout
  /-- R43: One second after a failed wake, PWR_EN_MAIN rises again and a new 50 ms is counted. -/
  | pwrEnRetry
  /-- R44: WAKE is sampled high; it wakes the device or aborts a sleep agreement. -/
  | wakePinHigh
  /-- R45: A local switch input is debounced on the 10 µs grid and meets its match rule. -/
  | lswDebounced (i : Fin 4) (level : Bool) (seen : Nat)
  /-- R45: A comparator value is debounced and meets its match rule. -/
  | cmpDebounced (c : Fin 8) (mv seen : Nat)
  /-- R48: A party of the sleep agreement completes its part and agrees. -/
  | sleepPartyAgree (p : SleepParty)
  /-- R48: The agreement timeout elapses before every party agrees, and the request completes with TIMEOUT. -/
  | sleepAgreeTimeout
  /-- R50: Power-down completes, PG_MAIN is low and Holdover is entered and logged. -/
  | holdoverEntry
  /-- R51: A wake held pending through power-down is acted on at the next always-on tick. -/
  | pendingWakeAct
  /-- R52: PFW_SENSE stays below threshold for the debounce time, the warning is set and the flush starts. -/
  | pfwAssert (mv seen : Nat)
  /-- R53: The retained-area flush finishes writing its slot with header and digest. -/
  | retainedFlushComplete (ecc : Ecc)
  /-- R58: PFW_SENSE stays above threshold for recover_ms, the recovery is logged and a WARM reset follows. -/
  | pfwRecover (mv ms : Nat)
  /-- R419: The false-wake test is made at the timeout or on reaching Stop, and a false wake returns the device to Holdover. -/
  | falseWakeCheck (n : Fin 2)
  /-- R69: The short time wraps, TB_WRAP_CNT advances and the wrap bell rings. -/
  | shortTimeWrap
  /-- R64: At a TAI second boundary the anchor is re-established and the second bell rings. -/
  | taiSecond
  /-- R69: A read of TB_ST latches TB_WRAP_CNT into TB_ST_HI in the same tick. -/
  | tbStRead (who : Initiator)
  /-- R60: A read of TB_TAI_NS latches the seconds and fraction registers. -/
  | taiRead (who : Initiator)
  /-- R64: A read of TB_ANCHOR_ST latches the rest of the anchor. -/
  | anchorRead (who : Initiator)
  /-- R78: A commit of d_ms and d_p is judged by the jump state machine and updates the servo. -/
  | servoCommit (who : Initiator) (val : Word) (withSet withForce : Bool)
  /-- R78: TB_JUMP_CMD.force applies the pending candidate. -/
  | jumpForce (who : Initiator) (val : Word)
  /-- R78: TB_TAI_SET_CMD sets TAI, drops the candidate and re-anchors. -/
  | taiSet (who : Initiator) (val : Word)
  /-- R78: No commit is judged for the loss time, and the servo enters FREERUN. -/
  | servoLoss
  /-- R94: A PPS_IN edge is stamped, rings its bell and commits to the servo when source is 1. -/
  | ppsInEdge (rising : Bool) (back : Fin 16) (withSet withForce : Bool)
  /-- R95: A write of TB_CLK_CFG.ref changes the time-base reference and starts a relock. -/
  | refSelect (who : Initiator) (val : Word)
  /-- R95: The time-base PLL relocks, the held counters resume and relock_ns is reported. -/
  | tbPllRelock
  /-- R518: The selected time-base reference stops; the PLL holds and ref_lock goes to 0. -/
  | tbRefLost
  /-- R86: The hardware responder sends a Pdelay_Resp to a received Pdelay_Req. -/
  | pdelayResponse (p : Fin 20) (back : Back)
  /-- R89: A read of TB_TSQ_ENTRY word 3 by the owning party pops the queue head. -/
  | tsqPop (who : Initiator) (p : Fin 20)
  /-- R97: A carry or borrow of a treadle accumulator moves the cycle count. -/
  | treadleCarry (n : Fin 16)
  /-- R115: A step pulse delayed by a running pulse or direction set-up is driven at the next free tick. -/
  | stepPulseDelayed (n : Fin 16)
  /-- R112: The accumulator crosses a strobe boundary, and the strobe starts shuttle groups and posts events. -/
  | strobe (n : Fin 16)
  /-- R436: A strobe triggers a shuttle group and may resync its dividers. -/
  | shtGroupTrigger (g : Fin 4) (n : Fin 16)
  /-- R99: A write of TRD_INC_HI applies the held low word and the high word of the increment. -/
  | incApply (who : Initiator) (n : Fin 16) (hi : Word)
  /-- R99: A read of TRD_INC_LO returns the increment in use and latches its high bits. -/
  | incRead (who : Initiator) (n : Fin 16)
  /-- R99: A read of TRD_ACC_LO latches TRD_ACC_HI and TRD_CYCLE. -/
  | accRead (who : Initiator) (n : Fin 16)
  /-- R100: A write of TRD_CFG.mode changes the mode, or is refused. -/
  | treadleModeWrite (who : Initiator) (n : Fin 16) (val : Word)
  /-- R103: A mains zero crossing is stamped and judged by the lock state machine. -/
  | zcCrossing (n : Fin 16) (back : Fin 16)
  /-- R106: A write of TRD_PHASE_ADJ steps the wave time on the next tick. -/
  | phaseAdjust (who : Initiator) (n : Fin 16) (adj : Word)
  /-- R108: A wave-time compare reaches its target. -/
  | waveCompareReached (n : Fin 16) (i : Nat)
  /-- R109: A scheduled event enters the commit horizon and can no longer be cancelled. -/
  | eventCommit (t : CommitTarget)
  /-- R109: A committed wave-time event not reached after 32 ticks fires and sets wave_slip. -/
  | waveSlipFire (t : CommitTarget)
  /-- R117: At each ramp period the ramp generator changes the increment. -/
  | rampPeriod (n : Fin 16)
  /-- R118: TRD_RAMP_CMD.go starts or replans a ramp. -/
  | rampGo (who : Initiator) (n : Fin 16)
  /-- R118: TRD_RAMP_CMD.stop decelerates the treadle to zero. -/
  | rampStop (who : Initiator) (n : Fin 16)
  /-- R119: TRD_GRP_CFG.go starts a coupled group move, or completes with GRP_ERR. -/
  | groupGo (who : Initiator) (g : Fin 4) (val : Word)
  /-- R122: The master phase reaches a pattern entry, which fires its pin action and event. -/
  | patternEntryFire (t : Fin 8)
  /-- R124: A cam follower issues one step toward its computed position. -/
  | camFollowStep (t : Fin 8)
  /-- R126: A write of TRD_LATCH_CFG.arm arms an edge latch. -/
  | latchArm (who : Initiator) (l : Fin 8) (val : Word)
  /-- R126: An armed latch captures the stamp and treadle value on its edge and disarms. -/
  | latchCapture (l : Fin 8) (rising : Bool) (back : Fin 16)
  /-- R127: A read of TRD_LATCH word 3 re-arms the latch. -/
  | latchRearm (who : Initiator) (l : Fin 8)
  /-- R130: TRD_START starts every masked treadle in OFF into its run mode. -/
  | treadleStart (who : Initiator) (val : Word)
  /-- R130: TRD_START with stop puts every masked treadle into OFF. -/
  | treadleStop (who : Initiator) (val : Word)
  /-- R130: A start or stop armed at TRD_START_AT acts when the short-time target is reached. -/
  | treadleStartAt
  /-- R186: nop does nothing for one cycle. -/
  | nop (e : Fin 96) (m : LocalEcc)
  /-- R194: ret jumps to w15. -/
  | ret (e : Fin 96) (m : LocalEcc)
  /-- R209: fence holds until every far load and far store of the channel is complete. -/
  | fence (e : Fin 96) (m : LocalEcc)
  /-- R139: rdc reads a control register into a w register. -/
  | rdc (e : Fin 96) (m : LocalEcc)
  /-- R208: wrc writes the flags or rcnt. -/
  | wrc (e : Fin 96) (m : LocalEcc)
  /-- R186: mov copies a register or an immediate into a register. -/
  | mov (e : Fin 96) (m : LocalEcc)
  /-- R190: wra writes an address register from a w register. -/
  | wra (e : Fin 96) (m : LocalEcc)
  /-- R190: rda reads an address register into a w register. -/
  | rda (e : Fin 96) (m : LocalEcc)
  /-- R189: push decrements w14 and stores a register to X. -/
  | push (e : Fin 96) (m : LocalEcc)
  /-- R187: pop loads a register from X and increments w14. -/
  | pop (e : Fin 96) (m : LocalEcc)
  /-- R187: ld loads a zero-extended value from local or far memory. -/
  | ld (e : Fin 96) (m : LocalEcc)
  /-- R187: lds loads a sign-extended byte or halfword. -/
  | lds (e : Fin 96) (m : LocalEcc)
  /-- R188: st stores a register to local or far memory. -/
  | st (e : Fin 96) (m : LocalEcc)
  /-- R188: sti stores an immediate to memory. -/
  | sti (e : Fin 96) (m : LocalEcc)
  /-- R190: lda forms an address without accessing memory. -/
  | lda (e : Fin 96) (m : LocalEcc)
  /-- R191: add adds a register or immediate and sets Z, N, C and V. -/
  | add (e : Fin 96) (m : LocalEcc)
  /-- R191: sub subtracts and sets Z, N, C and V. -/
  | sub (e : Fin 96) (m : LocalEcc)
  /-- R191: adc adds with carry. -/
  | adc (e : Fin 96) (m : LocalEcc)
  /-- R191: sbc subtracts with borrow. -/
  | sbc (e : Fin 96) (m : LocalEcc)
  /-- R191: and performs a bitwise AND. -/
  | and_ (e : Fin 96) (m : LocalEcc)
  /-- R191: or performs a bitwise OR. -/
  | or_ (e : Fin 96) (m : LocalEcc)
  /-- R191: xor performs a bitwise XOR. -/
  | xor_ (e : Fin 96) (m : LocalEcc)
  /-- R191: cmp sets the flags of a subtraction without writing. -/
  | cmp (e : Fin 96) (m : LocalEcc)
  /-- R191: tst sets the flags of an AND without writing. -/
  | tst (e : Fin 96) (m : LocalEcc)
  /-- R191: neg negates a register. -/
  | neg (e : Fin 96) (m : LocalEcc)
  /-- R191: not inverts a register. -/
  | not_ (e : Fin 96) (m : LocalEcc)
  /-- R191: mul gives the low 32 bits of a product. -/
  | mul (e : Fin 96) (m : LocalEcc)
  /-- R191: mulh gives the high word of a signed product. -/
  | mulh (e : Fin 96) (m : LocalEcc)
  /-- R191: mulhu gives the high word of an unsigned product. -/
  | mulhu (e : Fin 96) (m : LocalEcc)
  /-- R191: min keeps the signed lesser of two registers. -/
  | min (e : Fin 96) (m : LocalEcc)
  /-- R191: max keeps the signed greater of two registers. -/
  | max (e : Fin 96) (m : LocalEcc)
  /-- R192: shl shifts left. -/
  | shl (e : Fin 96) (m : LocalEcc)
  /-- R192: shr shifts right logically. -/
  | shr (e : Fin 96) (m : LocalEcc)
  /-- R192: sar shifts right arithmetically. -/
  | sar (e : Fin 96) (m : LocalEcc)
  /-- R192: rol rotates left. -/
  | rol (e : Fin 96) (m : LocalEcc)
  /-- R192: ror rotates right. -/
  | ror (e : Fin 96) (m : LocalEcc)
  /-- R186: clz counts leading zeros. -/
  | clz (e : Fin 96) (m : LocalEcc)
  /-- R186: popc counts one bits. -/
  | popc (e : Fin 96) (m : LocalEcc)
  /-- R186: bswap reverses byte order. -/
  | bswap (e : Fin 96) (m : LocalEcc)
  /-- R193: bfx extracts a zero-extended bit field. -/
  | bfx (e : Fin 96) (m : LocalEcc)
  /-- R193: bfxs extracts a sign-extended bit field. -/
  | bfxs (e : Fin 96) (m : LocalEcc)
  /-- R193: bfi inserts a bit field. -/
  | bfi (e : Fin 96) (m : LocalEcc)
  /-- R193: bfc clears a bit field. -/
  | bfc (e : Fin 96) (m : LocalEcc)
  /-- R193: bfs sets a bit field. -/
  | bfs (e : Fin 96) (m : LocalEcc)
  /-- R186: btst tests a bit into Z. -/
  | btst (e : Fin 96) (m : LocalEcc)
  /-- R186: bset tests and sets a bit. -/
  | bset (e : Fin 96) (m : LocalEcc)
  /-- R186: bclr tests and clears a bit. -/
  | bclr (e : Fin 96) (m : LocalEcc)
  /-- R180: A conditional branch tests c0 and branches by an s8 or s32 displacement. -/
  | bCond (e : Fin 96) (m : LocalEcc)
  /-- R180: b.late branches when L is 1. -/
  | bLate (e : Fin 96) (m : LocalEcc)
  /-- R180: b.ontime branches when L is 0. -/
  | bOntime (e : Fin 96) (m : LocalEcc)
  /-- R180: b.tc branches when T is 0. -/
  | bTc (e : Fin 96) (m : LocalEcc)
  /-- R194: call saves the return address in w15 and branches. -/
  | call (e : Fin 96) (m : LocalEcc)
  /-- R194: call ws branches to a register and saves the return address. -/
  | callR (e : Fin 96) (m : LocalEcc)
  /-- R194: jmp ws branches to a register. -/
  | jmpR (e : Fin 96) (m : LocalEcc)
  /-- R194: dbnz decrements a register and branches while it is not zero. -/
  | dbnz (e : Fin 96) (m : LocalEcc)
  /-- R195: mac multiplies X and Y words into an accumulator with post-modify. -/
  | mac (e : Fin 96) (m : LocalEcc)
  /-- R195: msu subtracts the product of X and Y words from an accumulator. -/
  | msu (e : Fin 96) (m : LocalEcc)
  /-- R195: mac.r accumulates the product of two registers. -/
  | macR (e : Fin 96) (m : LocalEcc)
  /-- R195: msu.r subtracts the product of two registers. -/
  | msuR (e : Fin 96) (m : LocalEcc)
  /-- R175: clra clears an accumulator. -/
  | clra (e : Fin 96) (m : LocalEcc)
  /-- R196: ashr shifts an accumulator right arithmetically. -/
  | ashr (e : Fin 96) (m : LocalEcc)
  /-- R196: mvfa moves a part of an accumulator to a register, saturating for part 3. -/
  | mvfa (e : Fin 96) (m : LocalEcc)
  /-- R186: mvta sign-extends a register into an accumulator. -/
  | mvta (e : Fin 96) (m : LocalEcc)
  /-- R197: crc.b steps a CRC over a byte. -/
  | crcB (e : Fin 96) (m : LocalEcc)
  /-- R197: crc.h steps a CRC over a halfword. -/
  | crcH (e : Fin 96) (m : LocalEcc)
  /-- R197: crc.w steps a CRC over a word. -/
  | crcW (e : Fin 96) (m : LocalEcc)
  /-- R197: crc.m steps a CRC over a memory byte and post-increments the address register. -/
  | crcM (e : Fin 96) (m : LocalEcc)
  /-- R198: aadd atomically adds at a bank word and returns the old value. -/
  | aadd (e : Fin 96) (m : LocalEcc)
  /-- R198: aswap atomically swaps a bank word and returns the old value. -/
  | aswap (e : Fin 96) (m : LocalEcc)
  /-- R200: take seals the current input and pops the earliest visible event. -/
  | take (e : Fin 96) (m : LocalEcc)
  /-- R201: give places an output with the current input's release time in the output queue. -/
  | give (e : Fin 96) (m : LocalEcc)
  /-- R205: wait seals the current input and ends the activation. -/
  | wait (e : Fin 96) (m : LocalEcc)
  /-- R206: stamp writes the slack to the seal deadline and sets T. -/
  | stamp (e : Fin 96) (m : LocalEcc)
  /-- R207: bell gives an output that rings a bit of the mailbox receiver's bell register. -/
  | bell (e : Fin 96) (m : LocalEcc)
  /-- R160: The target of a parked AT instruction is reached, and the channel becomes ready. -/
  | atTargetReached (c : Fin 512)
  /-- R144: Far-load data arrives and releases any instruction held for it. -/
  | farLoadReturn (e : Fin 96) (r : Region) (ecc : Ecc) (retry : Ecc)
  /-- R144: A posted far store is performed at its target. -/
  | farStorePerform (e : Fin 96) (r : Region) (ecc : Ecc) (retry : Ecc)
  /-- R253: A bank port serves an access, and two ports meeting on a row resolve by rule. -/
  | bankAccess (b : Fin 64) (a : Option PortAccess) (p : Option PortAccess)
  /-- R261: The corrected codeword is written back in an RMW slot, unless a write has intervened. -/
  | writeBack (b : Fin 64) (row : Fin 16384) (intervened : Bool)
  /-- R256: An ORD atomic's 256 ns hold ends, and the preceding held atomics on the word and the atomic itself are applied in stamp order. -/
  | ordHoldEnd (b : Fin 64) (ecc : Ecc)
  /-- R266: Every strike counter above zero falls by one at each decay period. -/
  | strikeDecay
  /-- R263: The bank scrubber reads and checks the next row. -/
  | scrubRow (b : Fin 64) (ecc : Ecc)
  /-- R264: The external-memory scrubber reads and checks the next codeword. -/
  | xmcScrub (ecc : Ecc) (retry : Ecc)
  /-- R272: A DDR4 refresh is issued, or postponed within its limits. -/
  | ddrRefresh
  /-- R269: perm and retired differ for more than 10 µs, and the disagreement is flagged. -/
  | memDisagree (r : Fin 254)
  /-- R149: An event arrives in an engine's event queue, or is dropped when its quota is full. -/
  | eventPost (ev : EventIn)
  /-- R148: An event reaches its visibility time, and its channel may become ready. -/
  | eventVisible (e : Fin 96)
  /-- R155: The scheduler dispatches the ready channel with the earliest deadline. -/
  | dispatch (e : Fin 96) (save restore : Ecc)
  /-- R159: A channel's budget reaches 0 and the channel is suspended. -/
  | budgetExhausted (e : Fin 96)
  /-- R153: The seal deadline of an unsealed input passes, and the input becomes late. -/
  | sealDeadline (c : Fin 512)
  /-- R154: A sealed output reaches its release time and is released to its target. -/
  | outputRelease (e : Fin 96) (ecc : Ecc)
  /-- R131: A write of ENG_CTRL.en enables the engine, or disables it at its next preemption point. -/
  | engineEnable (who : Initiator) (e : Fin 96) (val : Word)
  /-- R131: A write of ENG_CTRL.halt_req requests a halt at the next preemption point. -/
  | engineHaltRequest (who : Initiator) (e : Fin 96) (val : Word)
  /-- R132: ENG_CTRL.reset asserts an ENGINE reset, or is refused. -/
  | engineReset (who : Initiator) (e : Fin 96) (val : Word)
  /-- R166: The engine reaches its preemption point and becomes OFF, HALTED or FROZEN. -/
  | engineStopPoint (e : Fin 96)
  /-- R167: ENG_DBG_CTRL.step executes one instruction of a frozen slot. -/
  | debugStep (who : Initiator) (e : Fin 96) (val : Word) (m : LocalEcc)
  /-- R168: The program counter matches an enabled breakpoint; the engine stops and may request Hold. -/
  | breakpointHit (e : Fin 96)
  /-- R166: An access to ENG_DBG_DATA reads or writes the selected register of the selected slot. -/
  | debugDataAccess (who : Initiator) (e : Fin 96) (write : Bool) (val : Word)
  /-- R137: A host write through BAR2 to an engine's local memory is accepted or discarded. -/
  | hostLocalMemWrite (i : HostPort) (addr : Nat) (be : BitVec 4) (val : Word)
  /-- R214: CREATE checks a descriptor, admits it and creates a channel. -/
  | create (k : Fin 4) (who : Initiator)
  /-- R220: START arms a channel to run from a period boundary. -/
  | start (k : Fin 4) (who : Initiator)
  /-- R221: STOP stops a channel at its next period boundary. -/
  | stop (k : Fin 4) (who : Initiator)
  /-- R221: DESTROY frees a channel's resources and advances its generation. -/
  | destroy (k : Fin 4) (who : Initiator)
  /-- R218: QUERY returns a channel's state and late count, and may clear the late flag. -/
  | query (k : Fin 4) (who : Initiator)
  /-- R237: MIGRATE starts a voluntary migration of a channel to another engine. -/
  | migrate (k : Fin 4) (who : Initiator)
  /-- R234: CHECKPOINT takes a full checkpoint of a channel. -/
  | checkpoint (k : Fin 4) (who : Initiator)
  /-- R465: OPEN with kind 0x02 opens a mailbox between two parties. -/
  | openMailbox (k : Fin 4) (who : Initiator)
  /-- R485: OPEN with kind 0x03 copies the staged route into a frame-bridge route. -/
  | openRoute (k : Fin 4) (who : Initiator)
  /-- R121: OPEN with kind 0x04 issues a pattern handle to its owning channel. -/
  | openPattern (k : Fin 4) (who : Initiator)
  /-- R218: OPEN with kind 0x05 reserves switch capacity on a port and class. -/
  | openStreamReservation (k : Fin 4) (who : Initiator)
  /-- R466: CLOSE closes a mailbox, route or other object and advances its generation. -/
  | close (k : Fin 4) (who : Initiator)
  /-- R218: An unknown Cutter command code completes with ILLEGAL_CMD. -/
  | unknownCutterCmd (k : Fin 4) (who : Initiator) (code : Byte)
  /-- R225: A channel's period boundary posts PERIOD and reloads the budget. -/
  | periodBoundary (c : Fin 512)
  /-- R221: The last output of a stopping channel is released or late, and the channel enters CREATED. -/
  | channelStopComplete (c : Fin 512)
  /-- R234: A checkpoint epoch opens at its interval, and the checkpoint is taken at the next qualifying seal. -/
  | checkpointEpoch (c : Fin 512)
  /-- R239: The journal replay ends, and the channel returns to RUNNING. -/
  | recoveryComplete (c : Fin 512)
  /-- R249: The Cutter compares its table with the engines' slot tables and flags disagreement. -/
  | tableCompare (ecc : Ecc)
  /-- R249: CUT_CTRL.resync rebuilds the Cutter's table from the slots. -/
  | resync (who : Initiator)
  /-- R282: A port receives a whole frame, checks it and passes it to the lookup pipeline. -/
  | frameReceive (p : Fin 20) (f : RxFrame)
  /-- R327: After 64 bytes a qualifying frame begins cut-through on an idle egress. -/
  | cutThroughStart (p : Fin 20) (hdr : List Byte) (back : Back)
  /-- R292: A pause hold's quanta run out and the class transmits again. -/
  | pauseHoldExpire (p : Fin 20) (q : Fin 8)
  /-- R294: A hold longer than wdog_us is broken by the watchdog. -/
  | pauseWatchdog (p : Fin 20) (q : Fin 8)
  /-- R295: The ignore period after a break ends, and pause frames are honoured again. -/
  | pauseIgnoreEnd (p : Fin 20) (q : Fin 8)
  /-- R311: A free port selects the highest eligible class and starts its head frame. -/
  | egressSelect (p : Fin 22) (ecc : Ecc)
  /-- R281: A port finishes transmitting a frame. -/
  | frameTransmitEnd (p : Fin 20) (seen : Option (List Byte)) (cell : Ecc)
  /-- R297: An intended frame is not seen within 1 µs, and a port output fault is recorded. -/
  | monitorMissing (p : Fin 20)
  /-- R299: The data-path view of a port's link changes. -/
  | linkStateChange (p : Fin 20) (l : LinkFacts)
  /-- R304: An MDIO master auto-polls a port's PHY at poll_ms. -/
  | mdioPoll (m : Fin 2) (p : Fin 20)
  /-- R305: MAC_MDIO_CMD op 0 starts a Clause 22 write. -/
  | mdioC22Write (who : Initiator) (m : Fin 2) (val : Word) (withHost : Bool)
  /-- R305: MAC_MDIO_CMD op 1 starts a Clause 22 read. -/
  | mdioC22Read (who : Initiator) (m : Fin 2) (val : Word) (withHost : Bool)
  /-- R305: MAC_MDIO_CMD op 2 starts a Clause 45 write. -/
  | mdioC45Write (who : Initiator) (m : Fin 2) (val : Word) (withHost : Bool)
  /-- R305: MAC_MDIO_CMD op 3 starts a Clause 45 read. -/
  | mdioC45Read (who : Initiator) (m : Fin 2) (val : Word) (withHost : Bool)
  /-- R305: An MDIO command completes, advances seq and rings mdio_done. -/
  | mdioComplete (m : Fin 2) (answer : Option (BitVec 16)) (speed : Fin 5)
  /-- R290: MAC_TALLY_CLR clears all 48 tallies of a port. -/
  | tallyClear (who : Initiator) (p : Fin 20) (val : Word)
  /-- R289: A read of tally word 0 latches bits [39:32] into word 1. -/
  | tallyRead (who : Initiator) (p : Fin 20) (i : Fin 48)
  /-- R310: FDB op 0 looks up an entry. -/
  | fdbLookup (who : Initiator)
  /-- R310: FDB op 1 inserts a static entry. -/
  | fdbInsertStatic (who : Initiator)
  /-- R310: FDB op 2 deletes an entry. -/
  | fdbDelete (who : Initiator)
  /-- R310: FDB op 3 flushes the dynamic entries of the named ports. -/
  | fdbFlushDynamic (who : Initiator)
  /-- R310: FDB op 4 reads an entry by index. -/
  | fdbReadEntry (who : Initiator)
  /-- R309: A dynamic FDB entry older than age_s is removed. -/
  | fdbAgeOut (i : Fin 16384)
  /-- R317: SWC_GATE_CMD.install installs an administrative gate list window. -/
  | gateInstall (who : Initiator) (p : Fin 20) (val : Word)
  /-- R317: SWC_GATE_CMD.stop ends the gate list and applies idle_gates. -/
  | gateStop (who : Initiator) (p : Fin 20) (val : Word)
  /-- R318: An installed list reaches its start instant and becomes the operating list. -/
  | gateListStart (p : Fin 20)
  /-- R316: The gate list moves to its next entry. -/
  | gateEntryChange (p : Fin 20)
  /-- R324: Bolt-store frames are filled back on chip when the queue falls below half of spill_thresh. -/
  | boltFill (p : Fin 22) (q : Fin 8) (ecc retry : Ecc)
  /-- R332: mgmt_state and dp_state differ for more than 10 µs. -/
  | swcPortDisagree (p : Fin 20)
  /-- R348: At each heartbeat boundary a device sends its heartbeat on both paths. -/
  | heartbeatSend
  /-- R349: A heartbeat arrives on a path and is judged valid or not. -/
  | heartbeatReceive (path : HbPath) (msg : List Byte)
  /-- R351: At window_ns after a peer boundary the miss counts are updated. -/
  | heartbeatMissCheck
  /-- R364: RED_CMD.takeover makes a spare take over. -/
  | takeoverCmd (who : Initiator) (val : Word)
  /-- R364: RED_CMD.relinquish sets the heartbeat state RELINQUISH. -/
  | relinquishCmd (who : Initiator) (val : Word)
  /-- R361: A channel's takeover replay ends and the channel becomes RUNNING. -/
  | takeoverReplayDone (c : Fin 512)
  /-- R345: The spare's Cutter takes a pattern book record, maps its stamps and files it. -/
  | bookRecordReceive (r : BookRecord)
  /-- R363: role and gate_open disagree for more than 10 µs. -/
  | redDisagree
  /-- R381: SLV_CTRL.en set to 1 starts relaying and the LISTEN timer. -/
  | ringEnable (who : Initiator) (val : Word)
  /-- R381: SLV_CTRL.en set to 0 turns insertion and relay off. -/
  | ringDisable (who : Initiator) (val : Word)
  /-- R371: At a round start the loom digest is computed and G advances. -/
  | roundStart (linkDly : BitVec 16)
  /-- R374: An owner with an open guardian path inserts its slot frame. -/
  | slotInsert (k : Fin 80)
  /-- R378: A slot frame is received, checked and accepted. -/
  | slotFrameReceive (k : Fin 80) (bytes : List Byte) (path : Ecc)
  /-- R381: The LISTEN timer expires, and a cold-start node originates rounds. -/
  | listenTimeout
  /-- R381: A cold-start frame does not return within 4 rounds, and the node returns to LISTEN. -/
  | coldstartTimeout
  /-- R381: No valid TIME frame arrives for the allowed rounds, and the node leaves SYNC. -/
  | timeFrameLoss
  /-- R383: A node loses its forward input and loops onto its return lane. -/
  | ringInputLost
  /-- R383: A return-lane input loses lock or gets remote fault, and the node loops its forward stream. -/
  | returnLaneFault
  /-- R387: SLV_CMD.close schedules the closing of a folded line. -/
  | ringClose (who : Initiator) (val : Word)
  /-- R387: At the closing round the looping nodes restore their paths. -/
  | closingRound
  /-- R392: The expected and seen nodes differ for two rounds. -/
  | slvDisagree
  /-- R397: MDB_CTRL.en starts a controller integrating. -/
  | canEnable (who : Initiator) (n : Fin 8) (val : Word)
  /-- R397: Eleven recessive bits are seen, and the controller becomes ERROR_ACTIVE. -/
  | canIntegrationDone (n : Fin 8)
  /-- R407: A valid CAN frame is stamped, filtered and sent to its destination. -/
  | canFrameReceive (n : Fin 8) (f : CanRx)
  /-- R403: A transmission attempt ends and the request completes with its result. -/
  | canTxEnd (n : Fin 8) (b : Fin 33) (r : TxEnd) (tdcv : BitVec 7)
  /-- R398: The 128 recessive sequences of recovery complete and the controller integrates. -/
  | canRecoveryDone (n : Fin 8)
  /-- R402: The host sets pend of a host-owned transmit buffer. -/
  | canPend (who : Initiator) (n : Fin 8) (b : Fin 32)
  /-- R406: A write of abort ends a pending or transmitting request. -/
  | canAbort (who : Initiator) (n : Fin 8) (b : Fin 32)
  /-- R409: MDB_RXQ_POP frees the head of a host receive queue. -/
  | canRxqPop (who : Initiator) (n : Fin 8) (q : Fin 2) (val : Word)
  /-- R412: A read of a receive buffer's record word 0 clears nd. -/
  | receiveBufferRead (who : Initiator) (n : Fin 8) (b : Fin 32)
  /-- R414: A time master requests its reference message at a cycle boundary. -/
  | ttCycleBoundary (n : Fin 8)
  /-- R415: A time-triggered trigger fires at its mark. -/
  | ttTrigger (n : Fin 8) (t : Fin 64)
  /-- R416: A write of 0 to MDB_TT_STAT.level clears S1. -/
  | ttLevelClear (who : Initiator) (n : Fin 8) (val : Word)
  /-- R418: The always-on wake filter decodes a frame and may wake the device. -/
  | mdbWakeFrame (n : Fin 2) (f : WakeFrame)
  /-- R419: MDB_WAKE_STAT.confirm confirms a wake as not false. -/
  | wakeConfirm (who : Initiator) (n : Fin 2) (val : Word)
  /-- R429: Shuttle BR branches on its condition. -/
  | shtBr (n : Fin 32) (pads : BitVec 64)
  /-- R429: Shuttle LOOP decrements s0 or s1 and branches while it is non-zero. -/
  | shtLoop (n : Fin 32) (pads : BitVec 64)
  /-- R432: Shuttle WAIT begins waiting for a level, edge, time or trigger. -/
  | shtWait (n : Fin 32) (pads : BitVec 64)
  /-- R432: A shuttle WAIT's condition holds, and it completes and sets the stamp. -/
  | shtWaitComplete (n : Fin 32) (pads : BitVec 64) (back : Nat)
  /-- R430: Shuttle GET shifts bits into IBS and may stow. -/
  | shtGet (n : Fin 32) (pads : BitVec 64)
  /-- R430: Shuttle PUT shifts bits out of OBS and may fetch. -/
  | shtPut (n : Fin 32) (pads : BitVec 64)
  /-- R429: Shuttle PINS sets pin levels or drive enables. -/
  | shtPins (n : Fin 32) (pads : BitVec 64)
  /-- R429: Shuttle LOAD writes an immediate to s0 or s1. -/
  | shtLoad (n : Fin 32) (pads : BitVec 64)
  /-- R429: Shuttle COPY moves a value between pins, registers, shifters and stamps. -/
  | shtCopy (n : Fin 32) (pads : BitVec 64)
  /-- R431: Shuttle STOW moves IBS into the up FIFO. -/
  | shtStow (n : Fin 32) (pads : BitVec 64)
  /-- R431: Shuttle FETCH moves a down FIFO word into OBS. -/
  | shtFetch (n : Fin 32) (pads : BitVec 64)
  /-- R429: Shuttle BELL sets a bell bit and may wait for it to clear. -/
  | shtBell (n : Fin 32) (pads : BitVec 64)
  /-- R431: A stalled blocking STOW or FETCH completes when the FIFO has room or data. -/
  | shtStallRetry (n : Fin 32) (pads : BitVec 64)
  /-- R434: A word leaves the up FIFO as a SHUTTLE event to the channel. -/
  | shtUpDrain (n : Fin 32)
  /-- R434: A read of SHT_UPF pops the oldest up FIFO word. -/
  | shtUpfRead (who : Initiator) (n : Fin 32)
  /-- R435: A write of SHT_DNF places a word in the down FIFO, or drops it. -/
  | shtDnfWrite (who : Initiator) (n : Fin 32) (val : Word)
  /-- R435: SHT_CTRL.flush_up empties the up FIFO. -/
  | shtFlushUp (who : Initiator) (n : Fin 32)
  /-- R435: SHT_CTRL.flush_dn empties the down FIFO. -/
  | shtFlushDn (who : Initiator) (n : Fin 32)
  /-- R426: A write of SHT_CTRL.en starts or stops a shuttle. -/
  | shtEnable (who : Initiator) (n : Fin 32) (val : Word)
  /-- R437: SHT_GRP_CTRL starts the masked shuttles together. -/
  | shtGroupStart (who : Initiator) (g : Fin 4) (val : Word)
  /-- R437: SHT_GRP_CTRL with stop stops the masked shuttles together. -/
  | shtGroupStop (who : Initiator) (g : Fin 4) (val : Word)
  /-- R438: An injected instruction executes at the next tick in place of the program's. -/
  | shtInject (n : Fin 32) (pads : BitVec 64)
  /-- R439: SHT_LOAD.go restarts the shuttle at a new program counter. -/
  | shtLoadGo (n : Fin 32)
  /-- R425: A driven pad is sensed and compared with its driven level. -/
  | padSense (i : Fin 64) (level : Bool)
  /-- R458: SCN_CTRL.run checks the tasks and enters RUN. -/
  | scanRun (who : Initiator) (val : Word)
  /-- R458: SCN_CTRL.stop enters STOP after the next commit instant. -/
  | scanStop (who : Initiator) (val : Word)
  /-- R458: SCN_CTRL.hold enters HOLD. -/
  | scanHold (who : Initiator) (val : Word)
  /-- R458: SCN_CTRL.release returns from HOLD to RUN at the next latch instant. -/
  | scanRelease (who : Initiator) (val : Word)
  /-- R461: SCN_CTRL.change checks a new task set and makes an on-line change pending. -/
  | scanChange (who : Initiator) (val : Word)
  /-- R445: At the latch instant the published halves are frozen and copied into the input image. -/
  | scanLatch (ecc : Ecc)
  /-- R445: At t_E the copy is complete and ERROR then LATCH events are posted. -/
  | scanCopyDone
  /-- R447: At t_K − 64 ns the cycle is judged committed or overrun. -/
  | scanSealJudge
  /-- R447: At t_K the outputs are staged, the retained log is applied and any change is transferred. -/
  | scanCommit (ecc : Ecc)
  /-- R445: At t_D the COMMIT events are posted to the stations. -/
  | scanOutputDone
  /-- R453: A write of SCN_STN_PUB publishes a station's fill half, or reports a drop. -/
  | stationPublish (who : Initiator) (s : Fin 64) (val : Word)
  /-- R449: A write to the retained area enters the pending log or the stable copy. -/
  | retainedWrite (who : Initiator) (i : Fin 65536) (val : Word)
  /-- R471: MBX_SEND sends the staged host message to the other party. -/
  | mbxSend (who : Initiator) (m : Fin 256) (val : Word)
  /-- R470: MBX_POP frees a slot toward the host. -/
  | mbxPop (who : Initiator) (val : Word)
  /-- R474: The bridge accepts a host write at once and gives it a write sequence. -/
  | hostWriteAccept (w : HostWrite)
  /-- R474: A posted host write is performed at its target, or fails. -/
  | hostWritePerform (i : HostPort) (ob : ObResult) (ecc : Ecc) (retry : Ecc)
  /-- R476: A non-posted host read completes after earlier writes, or fails when the pending flag is set. -/
  | hostRead (i : HostPort) (space : HostSpace) (addr : Nat) (be : BitVec 4) (ecc : Ecc) (retry : Ecc)
  /-- R476: A read of HBR_FENCE returns and clears the initiator's pending flag. -/
  | fenceRead (i : HostPort)
  /-- R477: A local-bus read with LB_LOCK_N takes the bridge semaphore. -/
  | lockedRead (addr : Nat) (ecc : Ecc) (retry : Ecc)
  /-- R477: LB_LOCK_N is deasserted without a write, and the semaphore is released. -/
  | lockDeassert
  /-- R477: The semaphore is held longer than hold_max_us and is released and counted. -/
  | lockHoldTimeout
  /-- R478: An engine read of HBR_SEM takes the semaphore when it is free. -/
  | semRead (e : Fin 96) (withLocked : Bool)
  /-- R478: An engine write of 1 to HBR_SEM releases the semaphore. -/
  | semRelease (e : Fin 96) (val : Word)
  /-- R479: A PCIe access to the outbound window becomes a local-bus master cycle. -/
  | outboundAccess (write : Bool) (ofs : Fin 524288) (be : BitVec 4) (val : Word) (tag : BitVec 16) (ob : ObResult)
  /-- R480: A backed-off outbound cycle is retried after retry_ns, or abandoned. -/
  | crossingRetry (ob : ObResult)
  /-- R474: An outbound write is not acknowledged in time and fails with LB_TIMEOUT. -/
  | lbWriteTimeout
  /-- R481: The LB_IRQ inputs are sampled and matching inputs set host bell bits. -/
  | irqPollSample (level : BitVec 16)
  /-- R484: The host advances a transmit ring tail to queue frames. -/
  | txRingTailWrite (who : Initiator) (r : Fin 4) (val : Word)
  /-- R484: The bridge injects the next transmit-ring frame into PH and writes back its status. -/
  | txDescriptorServe (r : Fin 4) (desc : List Word) (frame : List Byte) (ring buf : ExtRead)
  /-- R489: The frame bridge builds one output from a queued source frame and delivers it. -/
  | fbrBuild
  /-- R520: PCIE_PERST_N resets the PCIe link and clears the PCIe pending flag. -/
  | perstAssert
  /-- R495: PROVISION generates the identity key and sets PROVISIONED. -/
  | provision (who : Initiator) (val : Word) (withHost : Bool)
  /-- R494: FIELD writes lifecycle word 1. -/
  | field (who : Initiator) (val : Word) (withHost : Bool) (miss : Word)
  /-- R496: RETIRE destroys the identity key and writes lifecycle word 2. -/
  | retire (who : Initiator) (val : Word) (withHost : Bool) (miss : Word)
  /-- R501: ATTEST signs the nonce and measurements with the identity key. -/
  | attest (who : Initiator) (val : Word) (withHost : Bool)
  /-- R500: EXTEND extends measurement register M3. -/
  | extend (who : Initiator) (val : Word) (withHost : Bool)
  /-- R499: ROLLFWD advances an anti-rollback counter. -/
  | rollfwd (who : Initiator) (val : Word) (withHost : Bool)
  /-- R493: OTP_PROG ORs a value into an OTP word and reads it back. -/
  | otpProg (who : Initiator) (val : Word) (withHost : Bool) (miss : Word)
  /-- R507: DBG_CHAL writes a fresh debug challenge. -/
  | dbgChal (who : Initiator) (val : Word) (withHost : Bool)
  /-- R507: DBG_UNLOCK verifies a signed challenge and unlocks debug. -/
  | dbgUnlock (who : Initiator) (val : Word) (withHost : Bool)
  /-- R507: DBG_LOCK locks debug. -/
  | dbgLock (who : Initiator) (val : Word) (withHost : Bool)
  /-- R506: RNG_RESTART reruns the start-up tests of the random generator. -/
  | rngRestart (who : Initiator) (val : Word) (withHost : Bool) (healthy : Bool)
  /-- R494: An unknown security command completes with ILLEGAL_CMD. -/
  | unknownSecCmd (who : Initiator) (val : Word) (withHost : Bool)
  /-- R502: SEC_KEY_CMD writes a key slot from SEC_KEY_WR. -/
  | keyWrite (who : Initiator) (val : Word)
  /-- R502: SEC_KEY_CMD with erase erases a key slot. -/
  | keyErase (who : Initiator) (val : Word)
  /-- R503: SEC_CQ_GO submits a cipher job, or refuses it. -/
  | cipherGo (who : Initiator) (q : Fin 16) (val : Word)
  /-- R504: A cipher job completes and posts a CIPHER event. -/
  | cipherJobDone (q : Fin 16) (ecc : Ecc)
  /-- R506: A read of SEC_RNG returns the next random word, or counts an underrun. -/
  | rngRead (who : Initiator) (held : Fin 65)
  /-- R506: A failed health test stops the random generator. -/
  | rngHealthFail
  /-- R518: A core, switch or DDR4 PLL loses lock, and the device enters reset state until POR. -/
  | pllLockLoss
  /-- R530: The TAP EXTEST instruction drives the pads from the boundary register where allowed. -/
  | extest
  /-- R529: The TAP IDCODE instruction selects the device identification register. -/
  | idcode
  /-- R529: The TAP SAMPLE/PRELOAD instruction samples the pads and preloads the boundary register. -/
  | samplePreload (pads : BitVec 912) (shiftIn : BitVec 912)
  /-- R530: The TAP CLAMP instruction holds the pads with BYPASS selected where allowed. -/
  | clamp
  /-- R530: The TAP HIGHZ instruction sets every output to high impedance where allowed. -/
  | highz
  /-- R529: The TAP BYPASS instruction selects the one-bit bypass register. -/
  | bypass
  /-- R30: WARM_N returns high after a taken low level, the WARM reset is released and the device passes to Boot. -/
  | warmNRelease
  /-- R237: With CUT_CTRL.auto_defrag at 1 the Cutter starts a voluntary migration of a channel on its own. -/
  | automaticMove (c : Fin 512)
  /-- R387: A failed ring hop has held block lock for 1 ms, and the link_ok bell rings so that a close may be accepted. -/
  | failedHopLockHeld (laneA : Bool)
  /-- R397: A controller detects a bus error while receiving, signals it and advances its receive error count, possibly entering ERROR_PASSIVE. -/
  | canBusError (n : Fin 8) (code : Fin 8) (dataPhase : Bool)
  /-- R415: A TX trigger's frame cannot start SOF within tx_window_ntu, the request ends with result 3 and the level rises to S1. -/
  | txWindowMissed (n : Fin 8) (t : Fin 64)
  /-- R183: An engine issues a byte string that breaks the encoding rules and raises ILLEGAL in stage D. -/
  | illegalInstruction (e : Fin 96) (m : LocalEcc)
  /-- R433: A shuttle fetches a reserved opcode or field and stops in FAULT. -/
  | shtIllegalInstruction (n : Fin 32) (pads : BitVec 64)
  deriving DecidableEq, Repr

end Sys2Proof
end

