-- ==== Sys2Proof/Decode.lean ====
section
/-!
DEFINITION. The commands of the opcode table carry no bits: a command reaches the block as an access, a frame, a level on a
pin or a step of one of its engines, and no word spells one. The Zelek and shuttle instructions, which the block fetches
from its own stores, are decoded in Machine/ZelekDecode.lean and Machine/ShuttleOps.lean.
-/
namespace Sys2Proof

/-- The command that a word spells by the table's bits: none, since no row gives bits. DESIGN CHOICE, log entry 7. -/
def decodeTableWord (_nbits _w : Nat) : Option Instr := none

end Sys2Proof
end

