-- ==== Sys2Proof/Machine/Bits.lean ====
section
/-!
DEFINITION. Bit fields, saturating counts, byte order (R3) and the checksums that several chapters share.
Every width and every position is the spec's; the functions are total and structural, so that Lean's kernel evaluates them.
-/
namespace Sys2Proof.Machine

/-- The mask of a field `[hi:lo]` of a register word. -/
def maskOf (hi lo : Nat) : Word := BitVec.ofNat 32 ((2 ^ (hi + 1 - lo) - 1) * 2 ^ lo)

/-- The unsigned value of the field `[hi:lo]`. -/
def fld (w : Word) (hi lo : Nat) : Nat := (w.toNat >>> lo) % 2 ^ (hi + 1 - lo)

/-- `w` with the field `[hi:lo]` set to `v` (taken modulo the field's width). -/
def setFld (w : Word) (hi lo v : Nat) : Word :=
  (w &&& ~~~ (maskOf hi lo)) ||| (BitVec.ofNat 32 (v * 2 ^ lo) &&& maskOf hi lo)

/-- Bit `i` of a word. -/
def bitOf (w : Word) (i : Nat) : Bool := w.toNat.testBit i

/-- A bit as a number. -/
def b2n (b : Bool) : Nat := if b then 1 else 0

/-- `w` with bit `i` set to `b`. -/
def setBit (w : Word) (i : Nat) (b : Bool) : Word := setFld w i i (b2n b)

/-- A word from a natural number, modulo 2^32. -/
def w32 (n : Nat) : Word := BitVec.ofNat 32 n

/-- A count that stops at its field's highest value (the "saturating" counters of the register maps). -/
def satAdd (width a b : Nat) : Nat := if a + b < 2 ^ width then a + b else 2 ^ width - 1

/-- A sequence number that wraps at its field's width. -/
def wrapAdd (width a b : Nat) : Nat := (a + b) % 2 ^ width

/-- The signed value of the low `width` bits of `n`. -/
def sx (width n : Nat) : Int :=
  let m := n % 2 ^ width
  if m < 2 ^ (width - 1) then (m : Int) else (m : Int) - 2 ^ width

/-- Two's complement of an integer at `width` bits. -/
def tc (width : Nat) (i : Int) : Nat := (i % (2 ^ width : Int)).toNat

/-- An integer held between two bounds. -/
def clampInt (lo hi i : Int) : Int := if i < lo then lo else if hi < i then hi else i

/-- The magnitude of an integer. -/
def absInt (i : Int) : Nat := i.natAbs

/-- Little-endian value of a list of bytes (R3): the first byte is the lowest. -/
def leVal : List Byte → Nat
  | [] => 0
  | b :: t => b.toNat + 256 * leVal t

/-- The `n` bytes of a value, lowest first (R3). -/
def leBytes : Nat → Nat → List Byte
  | 0, _ => []
  | n + 1, v => BitVec.ofNat 8 v :: leBytes n (v / 256)

/-- Big-endian value of a list of bytes, as Ethernet fields are sent. -/
def beVal (l : List Byte) : Nat := leVal l.reverse

/-- The `n` bytes of a value, highest first. -/
def beBytes (n v : Nat) : List Byte := (leBytes n v).reverse

/-- Byte `i` of a list, 0 past its end. -/
def byteAt (l : List Byte) (i : Nat) : Byte := (l[i]?).getD 0

/-- `n` bytes of a list from offset `i`, as a big-endian number. -/
def beAt (l : List Byte) (i n : Nat) : Nat := beVal ((l.drop i).take n)

/-- `n` bytes of a list from offset `i`, as a little-endian number. -/
def leAt (l : List Byte) (i n : Nat) : Nat := leVal ((l.drop i).take n)

/-- `l` with its bytes from offset `i` replaced by `new`; nothing grows past the end of `l`. -/
def overwrite (l : List Byte) (i : Nat) (new : List Byte) : List Byte :=
  (l.take i ++ new ++ l.drop (i + new.length)).take l.length

/-- One step of a reflected CRC of width 32: eight shifts. -/
def crcBits (poly : Word) : Nat → Word → Word
  | 0, c => c
  | n + 1, c => crcBits poly n (if c.getLsbD 0 then (c >>> 1) ^^^ poly else c >>> 1)

/-- A reflected CRC over bytes from a start value, without the closing inversion. -/
def crcBytes (poly : Word) : Word → List Byte → Word
  | c, [] => c
  | c, b :: t => crcBytes poly (crcBits poly 8 (c ^^^ (b.zeroExtend 32))) t

/-- CRC-32 of IEEE 802.3 (reflected polynomial 0xEDB8_8320, start and end inverted). -/
def crc32 (l : List Byte) : Word := ~~~ (crcBytes 0xEDB88320 0xFFFFFFFF l)

/-- CRC-32C (reflected polynomial 0x82F6_3B78, start and end inverted), the digest of the loom table and of R233. -/
def crc32c (l : List Byte) : Word := ~~~ (crcBytes 0x82F63B78 0xFFFFFFFF l)

/-- Serial comparison of 16-bit sequence numbers: `a` is newer than `b`. -/
def serialNewer (width a b : Nat) : Bool :=
  let d := (a + 2 ^ width - b % 2 ^ width) % 2 ^ width
  0 < d && d < 2 ^ (width - 1)

/-- Ceiling of a quotient; 0 for a divisor of 0 never arises (callers divide by positive constants). -/
def ceilDiv (a b : Nat) : Nat := if b = 0 then 0 else (a + b - 1) / b

end Sys2Proof.Machine
end

