-- ==== Sys2Proof/Config.lean ====
section
/-!
DEFINITION. What an implementation fixes and the spec does not: the unit's own identity, the results of the cryptographic
functions that the spec names by their standards, and the free values. None has a body, so no proof can use a value of it.
-/
namespace Sys2Proof.Config

/-- A value that the spec leaves open; its argument is the counter `Dev.freeCtr`, so each use is a new one.
DESIGN CHOICE, log entry 10. -/
opaque freeWord : Nat → Word

/-- Rate of the host port PH in Mb/s, which the spec does not give (R315). DESIGN CHOICE, log entry 92. -/
opaque phRate : Nat

/-- Where the edges of the 80 MHz CAN clock lie, in quarter-nanoseconds modulo 50, against the ticks (R395, R408, R414): the spec
does not say. DESIGN CHOICE, log entry 93. -/
opaque canPhase : Nat

/-- How a STROBE event's payload carries the cycle count and k (R113): the spec does not lay it out.
DESIGN CHOICE, log entry 43. -/
opaque strobePayload : Nat → Nat → Word

/-- What a content of the boundary register drives on shuttle pin `i` (R529): the spec does not say which cells are the pin's.
DESIGN CHOICE, log entry 78. -/
opaque padCell : BitVec 912 → Nat → Option Bool

/-- The words of the physical noise source after conditioning (R506), by the number of words drawn.
DESIGN CHOICE, log entry 11. -/
opaque randomWord : Nat → Word

/-- The unique ID in OTP words 77 and 78, written at manufacture (R491). -/
opaque uid : BitVec 64

/-- SHA-384 of a byte string (R491, R497, R500, R503). DESIGN CHOICE, log entry 11. -/
opaque sha384 : List Byte → BitVec 384

/-- SHA-256 of a byte string (R53, R503). DESIGN CHOICE, log entry 11. -/
opaque sha256 : List Byte → BitVec 256

/-- HMAC-SHA-256 of a byte string under a key (R503). DESIGN CHOICE, log entry 11. -/
opaque hmac256 : List Byte → List Byte → BitVec 256

/-- Whether a signature (r then s, big-endian) of a digest verifies under a P-384 public key (X then Y, big-endian).
DESIGN CHOICE, log entry 11. -/
opaque p384Verify : List Byte → List Byte → List Byte → Bool

/-- The same on P-256 (R503 op 7). DESIGN CHOICE, log entry 11. -/
opaque p256Verify : List Byte → List Byte → List Byte → Bool

/-- An ECDSA P-384 signature (96 bytes as one number) of a digest under a private key (R501).
DESIGN CHOICE, log entry 11. -/
opaque p384Sign : List Byte → List Byte → BitVec 768

/-- The P-384 public key (96 bytes as one number) of a private key (R495). -/
opaque p384Public : List Byte → BitVec 768

/-- AES-GCM encryption under a key: byte `i` of the output for a key, an IV, AAD and plaintext (IEEE 802.1AE, R503).
DESIGN CHOICE, log entry 11. -/
opaque gcmByte : List Byte → List Byte → List Byte → List Byte → Nat → Byte

/-- The AES-GCM tag (and, for an empty text, GMAC) of a key, an IV, AAD and ciphertext.
DESIGN CHOICE, log entry 11. -/
opaque gcmTag : List Byte → List Byte → List Byte → List Byte → BitVec 128

/-- The IV of an extended-packet-number suite for an SCI and a packet number: the salt and SSCI have no register (R505).
DESIGN CHOICE, log entry 11. -/
opaque xpnIv : List Byte → Nat → List Byte

/-- The hash bucket of a MAC address and VID in the FDB (R309). DESIGN CHOICE, log entry 11. -/
opaque fdbHash : Nat → Nat → BitVec 12

end Sys2Proof.Config
end

