-- ==== Sys2Proof/Machine/Types.lean ====
section
/-!
DEFINITION. The parts of the state: one structure per block of the device, holding what the block keeps beside its
registers, and the records that its queues and tables are made of. Registers themselves stand in `Dev.regs`.
Instants called ns count `TimeBase.now`; short times are words.
-/
namespace Sys2Proof.Machine

/-! ### Power, modes and the always-on domain (02_modes_startup_holdover.md, 19_pins_electrical.md) -/

/-- The eight operating modes (R27), in the order of their codes. -/
inductive Mode where
  | holdover | boot | provision | stop | run | hold | spare | safe
  deriving DecidableEq, Repr

/-- A mode transition in progress, which PWR_MODE.busy shows (R32). -/
inductive Transition where
  /-- no transition: PWR_MODE.busy is 0 -/
  | idle
  /-- Run to Stop: waiting for the last output stamped before the stop boundary (R538) -/
  | draining
  /-- a sleep agreement asked for in mode `src` at time `since`; one flag per party that has agreed (R48) -/
  | agreeing (src : Mode) (since : Nat) (cutter scan sec hbr : Bool)
  /-- past the commit point, powering down toward Holdover (R50) -/
  | powerDown
  deriving DecidableEq, Repr

/-- The 64-byte header of a flush slot (R53): sequence number, length of the image, SHA-256 digest. -/
structure FlushHead where
  seq : Word
  length : Word
  digest : BitVec 256
  deriving DecidableEq, Repr

/-- One slot of the retained-area flush target (R53): its header and its image. -/
structure FlushSlot where
  head : FlushHead
  img : List Host.Cell
  deriving DecidableEq, Repr

/-- What brought the main domain out of reset last; it decides what Boot reloads (R39, R54). -/
inductive ReleaseKind where
  | por | warm | holdoverExit | pgLost
  deriving DecidableEq, Repr

/-- The always-on domain, its pins and the mode sequencer. Registers of PWR that software writes stand in `Dev.regs`. -/
structure Pwr where
  /-- PWR_MODE.mode (R27) -/
  mode : Mode
  /-- PWR_MODE.busy and what it waits for -/
  trans : Transition
  /-- PWR_MODE.req_status, the code of R30 and R34 -/
  reqStatus : Nat
  /-- POR_N is low, or has been taken low (R519) -/
  porLow : Bool
  /-- the always-on supply monitor asserts a POR (R516) -/
  supplyLow : Bool
  /-- WARM_N has been taken low and not yet released (R519) -/
  warmLow : Bool
  /-- PG_MAIN as last seen (R514, R537) -/
  pgMain : Bool
  /-- the level of PWR_EN_MAIN (R43, R514) -/
  pwrEn : Bool
  /-- the main domain is out of reset -/
  mainUp : Bool
  /-- a core, switch or DDR4 PLL has lost lock: reset state until the next POR (R518) -/
  pllLost : Bool
  /-- what released the main domain last -/
  release : ReleaseKind
  /-- instant at which PWR_EN_MAIN rose for a wake; PG_MAIN must follow within 50 ms (R43) -/
  wakeSince : Option Nat
  /-- instant at which PWR_EN_MAIN fell after a failed wake; it rises one second later (R43) -/
  retrySince : Option Nat
  /-- a wake that waits to be acted on (R50, R51) -/
  wakePending : Bool
  /-- the sleep under way was begun by a false wake, not by a request (R46) -/
  ownSleep : Bool
  /-- the main domain is held in reset because PG_MAIN fell (R537) -/
  pgHeld : Bool
  /-- the power-fail warning stands: PFW_SENSE fell and has not recovered (R52, R58) -/
  pfw : Bool
  /-- the slot a retained-area flush is writing; none when no flush runs (R53) -/
  flushing : Option Bool
  /-- the image the running flush copies: the area as of the last completed commit (R52) -/
  flushImg : List Host.Cell
  /-- the sequence number of the running flush (R53) -/
  flushSeq : Word
  /-- the running flush belongs to a sleep agreement (R53, R57) -/
  flushForSleep : Bool
  /-- the scan unit's flush for the sleep has completed (R57) -/
  sleepFlushed : Bool
  /-- page of 4 KiB of the boot flash at which the running flush began its slot (R53) -/
  flushPage : Nat
  /-- the slots that flushes have completed in the boot flash, by the page at which each begins (R53) -/
  flash : Tab FlushSlot
  /-- the holdover counter, u64 ns (R41), and its fraction in 2^-48 ns -/
  holdCnt : Nat
  holdFrac : Nat
  /-- entries written to the event log so far, and the u16 sequence of the next one (R59) -/
  logCount : Nat
  logSeq : Nat
  /-- instant of the release of the POR, from which the grids of the always-on samples run (R45) -/
  porAt : Nat
  /-- BANK_SEL straps as sampled at POR_N release (R512) -/
  straps : BitVec 6
  /-- debounced levels of LSW0-LSW3, and of the comparators, 1 above threshold (R45) -/
  lsw : BitVec 4
  cmp : BitVec 8
  /-- instant of the last wake, from which the false-wake timeout counts (R419) -/
  wokeAt : Nat
  /-- a frame accepted by a keep_awake filter, or a confirm write, has come since the wake (R419) -/
  wakeKept : Bool
  /-- the last wake had no source but the selective-wake filters (R419) -/
  wakeByMdbOnly : Bool
  deriving DecidableEq, Repr

/-! ### Time base (03_time_base.md) -/

/-- A port, pin or event stamp: short time, quarter-nanosecond and map generation (R82). -/
structure Stamp where
  st : Word
  quarter : Nat
  gen : Nat
  deriving DecidableEq, Repr

/-- An anchor: one tick's short time, TAI seconds and TAI nanoseconds, and the map generation (R64). -/
structure Anchor where
  st : Word
  sec : Nat
  ns : Nat
  gen : Nat
  deriving DecidableEq, Repr

/-- One entry of a transmit time-stamp queue (R87-R90). -/
structure TsqEntry where
  stamp : Stamp
  ptp : Bool
  tag : Nat
  seq : Nat
  /-- the entry occupies one of the eight reserved places -/
  reserved : Bool
  deriving DecidableEq, Repr

/-- The time base: its counters, the servo, the jump state machine and the transmit time-stamp queues. -/
structure TimeBase where
  /-- nanoseconds since the last POR: the model's own clock of real time, from which long timeouts count -/
  now : Nat
  /-- the short time (R61) -/
  st : Word
  /-- TAI seconds (u48), nanoseconds and the 48 fraction bits below them (R60) -/
  sec : Nat
  ns : Nat
  frac : Nat
  /-- the servo's frequency correction y and integrator i, s48 in 2^-48 (R73) -/
  y : Int
  i : Int
  /-- the staged d_ms and d_p of TB_SRV_MS_LO/HI and TB_SRV_PD -/
  msLo : Word
  msHi : Word
  /-- the staged d_p of TB_SRV_PD (R73) -/
  pd : Word
  /-- the jump candidate, in 2^-16 ns (R76) -/
  candidate : Int
  /-- time of the last judged commit, or of reset release (R78) -/
  lossBase : Nat
  /-- the anchor as it stands; the anchor registers hold what the last read latched (R64) -/
  anchor : Anchor
  /-- the time-base PLL is relocking, so the counters hold (R95) -/
  relocking : Bool
  /-- instant at which that relock began: the time lost counts from it (R95) -/
  relockAt : Nat
  /-- instants of the latest advances of the map generation, newest first: they label a stamp taken before them (R82) -/
  genSteps : List Nat
  /-- the level of TB_10M_OUT (R92) -/
  out10m : Bool
  /-- the short time has wrapped, a TAI second boundary has passed, and SHORT_TIME_WRAP or TAI_SECOND is due -/
  wrapDue : Bool
  secondDue : Bool
  /-- time of the last rising edge of PPS_OUT (R93) -/
  ppsAt : Option Nat
  /-- a PPS_IN stamp has been latched and not read yet (R94) -/
  ppsUnread : Bool
  /-- stamp queues by port, oldest first -/
  tsq : Tab (List TsqEntry)
  /-- the u16 stamp sequence of each port (R90) -/
  tsqSeq : Tab Nat
  deriving DecidableEq, Repr

/-! ### Treadles (04_treadles_wave_time.md) -/

/-- A wave-time output that a treadle holds (R110): its channel, pin action and target. -/
structure WaveOut where
  /-- context key of the channel that gave it (R110) -/
  chan : Nat
  /-- the input of that context that gave it -/
  inId : Nat
  /-- the engine that judged the input, whose late counter a cancellation advances (R242) -/
  eng : Nat
  /-- the PIN descriptor word of R201 -/
  desc : Word
  /-- u64 wave-time target -/
  target : Nat
  /-- committed under R109 -/
  committed : Bool
  /-- tick (4 ns units of `TimeBase.now`) of the commit -/
  commitTick : Nat
  deriving DecidableEq, Repr

/-- What a running ramp does (R117-R119). -/
inductive RampPhase where
  | none
  | speed
  | position
  | stopping
  /-- the remaining steps at increment accel (R117) -/
  | finish
  deriving DecidableEq, Repr

/-- One treadle's internal state. -/
structure Treadle where
  /-- u48 accumulator, s48 increment and u32 cycle count (R96, R97) -/
  acc : Nat
  inc : Int
  cycle : Nat
  /-- a carry (1) or borrow (-1) of the accumulator that the cycle count has still to follow (R97) -/
  carry : Int
  /-- the low word held by a write of TRD_INC_LO (R99) -/
  incLo : Word
  /-- the lock loop's integrator i (R102) -/
  integ : Int
  /-- a phase step that the next tick applies, in 2^-32 cycle (R106) -/
  adjPend : Int
  /-- TRD_PHASE_OFS before the writes of the tick `ofsAt`, against which a crossing of that tick is measured (R107) -/
  ofsOld : Word
  ofsAt : Option Nat
  /-- ACQUIRE: the stamp of the previous crossing, in quarter-nanoseconds of the short time (R103) -/
  lastCross : Option Nat
  /-- ACQUIRE: the phase has been aligned -/
  aligned : Bool
  /-- the counts "count" and "out" of R103 -/
  count : Nat
  out : Nat
  /-- whole cycles ended since the cycle that holds the last crossing in window or write (R103) -/
  missed : Nat
  /-- the present cycle holds a crossing in window, or a write -/
  hit : Bool
  /-- last strobe fired: cycle count and k; and the direction it was fired in (R114) -/
  lastStrobe : Option (Nat × Nat)
  /-- the direction in which the last strobe fired (R114) -/
  lastUp : Bool
  /-- step output: first tick at which a pulse may be driven, and pulses that wait (R115) -/
  stepFree : Nat
  stepWait : Nat
  /-- level of the direction output: forward (R115) -/
  dirUp : Bool
  /-- the step pin is high until this instant, ns (R115) -/
  pulseEnd : Option Nat
  /-- the running ramp, its target position, and the instant of its last period, ns (R117) -/
  ramp : RampPhase
  goal : Int
  rampAt : Nat
  /-- wave-time outputs handed to this treadle (R110) -/
  wave : List WaveOut
  /-- in a running group move: the leader's number and this member's ratio (R119) -/
  leader : Option Nat
  ratio : Nat
  deriving DecidableEq, Repr

/-- A pattern event that has passed the commit stage (R109, R123). -/
structure PatCommit where
  /-- the entry's position over all cycles -/
  pos : Nat
  /-- the entry as it was committed -/
  word : Word
  /-- the claim gate was open (R355); every output was suppressed (R356) -/
  gate : Bool
  demoted : Bool
  /-- tick (4 ns units of `TimeBase.now`) of the commit -/
  commitTick : Nat
  deriving DecidableEq, Repr

/-- An entry of a pattern table that has been written: what it held before, while that can still count (R125). -/
structure PatOld where
  /-- the entry before its last write -/
  before : Word
  /-- instant of that write, ns -/
  at_ : Nat
  deriving DecidableEq, Repr

/-- The treadle block beside its registers. -/
structure TreadleBlock where
  /-- the treadles, by number (R96) -/
  t : Tab Treadle
  /-- the TRD_START word that waits for TRD_START_AT, and who wrote it (R130) -/
  startAt : Option (Initiator × Word)
  /-- starts and stops that have passed the commit stage, with their targets (R109) -/
  startDue : List (Initiator × Word × Word)
  /-- strobe triggers on their way to the shuttle groups: treadle and interpolated stamp, by group (R436) -/
  trigDue : Tab (Nat × Stamp)
  /-- last fired position (cycle count, entry) of each pattern table (R122) -/
  patPos : Tab (Option (Nat × Nat))
  /-- the pattern handle's owning channel, by table (R121) -/
  patOwner : Tab (Option Nat)
  /-- the pattern events that have passed the commit stage, by table, in their order (R109, R355) -/
  patCommit : Tab (List PatCommit)
  /-- entries in whose place an older value still counts, by 1,024 × table + entry (R125) -/
  patOld : Tab PatOld
  /-- instant of the last capture of each edge latch, ns (R127) -/
  latchAt : Tab Nat
  deriving DecidableEq, Repr

/-! ### Engines and channels (05-08) -/

/-- One event entry (R146) in an engine's queue. -/
structure Ev where
  src : Nat
  unit : Nat
  chan : Nat
  overrun : Bool
  breach : Bool
  late : Bool
  stamp : Stamp
  seq : Nat
  payload : Word
  /-- the event has reached its visibility time (R148) -/
  visible : Bool
  /-- receive slot that it tells of: kind, entry and slot of `SlotUse` (R328) -/
  ring : Option (Nat × Nat × Nat)
  deriving DecidableEq, Repr

/-- A far access of an engine, in program order (R144). -/
structure FarOp where
  /-- context key of the channel: its index, or 512 + index for a migration shadow -/
  key : Nat
  /-- the region that serves it (R134) -/
  region : Region
  /-- physical byte key in `Dev.mem`, or the BAR0 offset for a device register -/
  addr : Nat
  /-- bytes: 1, 2, 4 or 8 -/
  size : Nat
  /-- a store, or a load into `dest` -/
  store : Bool
  /-- what a store writes, or the operand of an atomic -/
  value : DWord
  /-- register that takes the load -/
  dest : Nat
  /-- sign-extend the loaded value (lds) -/
  signed : Bool
  /-- an atomic: aadd or aswap with operand `value` (R198) -/
  atomic : Option AtomicOp
  /-- an atomic with ORD, and whether it has entered its bank's ordering buffer (R255) -/
  ord : Bool
  entered : Bool
  /-- the copy of a give: number of the output that takes the bytes (R202) -/
  copy : Option Nat
  /-- stamp that an ORD atomic carries (R199) -/
  st : Word
  /-- quarter-nanosecond of that stamp (R199) -/
  quarter : Nat
  /-- the bank port has served it: the value, and whether it is poisoned -/
  arrived : Option (DWord × Bool)
  deriving DecidableEq, Repr

/-- The scheduling state of a slot (ENG_SLOT word 0). -/
inductive SlotState where
  | waiting | ready | running | preempted | parked | suspended | faulted
  deriving DecidableEq, Repr

/-- A channel on an engine: its context and its scheduling state. Key 0-511 is the channel, 512-1023 its shadow. -/
structure Act where
  /-- its registers (R158) -/
  ctx : Ctx
  /-- scheduling state of the slot (R154, R155) -/
  st : SlotState
  /-- an activation is under way: dispatched, and not ended by wait (R155) -/
  open_ : Bool
  /-- the current input (R151), none when sealed and nothing taken since -/
  input : Option Ev
  /-- the current input has been judged late (R153) -/
  inputLate : Bool
  /-- outputs and bells given for the current input (R152) -/
  given : Nat
  /-- how many inputs the context has taken: it names the current input -/
  inId : Nat
  /-- an instruction is held in D since this instant, in quarter-nanoseconds, and what less than a cycle has been left uncharged
  of its holds (R144, R159) -/
  heldAt : Option Nat
  heldPart : Nat
  /-- AT: the register target of the parked instruction, and that it has been reached (R160) -/
  atTarget : Word
  /-- the target of AT has been reached (R160) -/
  atGo : Bool
  /-- stamp of the latest event taken (R148) -/
  lastTaken : Option Stamp
  /-- stamp and seq of the last sealed input (R234) -/
  lastSealed : Option (Word × Nat)
  /-- the next delivered event carries overrun (R149) -/
  dropped : Bool
  /-- the blocks and rows stored to since the last checkpoint; none before the first (R235) -/
  stored : Option (List Nat)
  /-- physical placement (R133): engine, slot, X and Y window offsets, code window -/
  eng : Nat
  slot : Nat
  xBase : Nat
  yBase : Nat
  codeBase : Nat
  codeLen : Nat
  /-- far window w maps to this key of `Dev.mem` -/
  winPhys : Tab Nat
  deriving DecidableEq, Repr

/-- An output in an engine's output queue (R152). -/
structure Out where
  /-- context key of the giver, and which of its inputs the output belongs to -/
  key : Nat
  /-- the input of that context to which it belongs (R152) -/
  inId : Nat
  /-- number of the output on its engine, by which its far copy finds it (R202) -/
  id : Nat
  /-- descriptor word of R201; kind 14 is the SAFE late action that waits for the release time, with its pins in `pair` (R216); kind 15 is a bell (R207) -/
  desc : Word
  /-- the data pair -/
  pair : DWord
  /-- bytes copied at the give (R202) -/
  data : List Byte
  /-- release time, and stamp of the input -/
  rel : Word
  inSt : Word
  /-- the input has been sealed -/
  isSealed : Bool
  /-- the output has passed the commit stage (R109) -/
  committed : Bool
  /-- the input that gave it; none for a pending late action (R242) -/
  inEv : Option Ev
  /-- given while debug-stepping (R167) -/
  stepped : Bool
  /-- suppressed: a migration shadow's output, or a replayed one due at or before F (R237, R239) -/
  muted : Bool
  deriving DecidableEq, Repr

/-- One engine's queues and run state. -/
structure Engine where
  /-- key of the channel that runs or is frozen -/
  cur : Option Nat
  /-- key whose context is still loaded (R158) -/
  loaded : Option Nat
  /-- taken out of use until a WARM or POR reset (R132) -/
  retired : Bool
  /-- stopped at its preemption point: HALTED, FROZEN or OFF (R131) -/
  stopped : Bool
  /-- keys by slot, `none` for a free slot (R155) -/
  slots : Tab (Option Nat)
  /-- event queue of 128 entries, oldest first (R147, R149) -/
  evq : List Ev
  /-- highest fill of the event queue since it was cleared -/
  evqHigh : Nat
  /-- output queue of 64 entries, oldest first (R152) -/
  outq : List Out
  /-- highest fill of the output queue since it was cleared -/
  outqHigh : Nat
  /-- number of the next output -/
  outSeq : Nat
  /-- far accesses not yet complete, oldest first (R144) -/
  far : List FarOp
  /-- u64 busy cycles -/
  busy : Nat
  /-- u16 sequence of ENG_EXC -/
  excSeq : Nat
  deriving DecidableEq, Repr

/-- Channel states of R219, in the order of their codes. -/
inductive ChanState where
  | free | created | armed | running | stopping | faulted | recovering | migrating
  deriving DecidableEq, Repr

/-- A checkpoint (R234): context, dirty memory, last sealed input, late count. -/
structure Ckpt where
  ctx : Ctx
  cells : List Host.Cell
  lastSealed : Option (Word × Nat)
  lateCount : Nat
  epoch : Nat
  full : Bool
  deriving DecidableEq, Repr

/-- An open checkpoint epoch (R234): its boundary, and the channel's state at the first seal that qualifies so far. -/
structure Epoch where
  /-- stamp of the boundary -/
  at_ : Word
  /-- the state at that seal, none before it -/
  state : Option Ckpt
  deriving DecidableEq, Repr

/-- A migration under way (R237). -/
structure Migration where
  /-- the command port that asked, none for an automatic move -/
  port : Option Nat
  /-- boundary P1 has passed: the shadow receives events from then on -/
  p1 : Option Word
  /-- the shadow has been restored from the checkpoint of P1 -/
  shadowUp : Bool
  /-- boundaries seen, the first P1 included (R238) -/
  tries : Nat
  /-- switched over at S: the original drains outputs of inputs stamped before S -/
  switched : Option Word
  /-- a STOP or DESTROY has ended it after the switch-over: the original only drains (R240) -/
  aborted : Bool
  /-- the original and the shadow as their last seals left them: what the digests of R237 are over -/
  sealOld : Option Ckpt
  sealNew : Option Ckpt
  deriving DecidableEq, Repr

/-- One channel as the Cutter holds it. -/
structure Chan where
  /-- state of R219 -/
  st : ChanState
  /-- the 48 descriptor words of CREATE (R213) -/
  desc : Tab Word
  /-- CUT_CHAN.node: the ring node that holds it (R391) -/
  node : Nat
  /-- that node is another one than this device (R391) -/
  remote : Bool
  /-- settle time of the channel, ns (R218) -/
  settle : Nat
  /-- the channel has been late in this period, CUT_CHAN.late (R241) -/
  late : Bool
  /-- late count (R241) -/
  lateCount : Nat
  /-- START with at: the short-time target (R220) -/
  startAt : Option Word
  /-- next period boundary: short time, or the count of M ÷ N multiples in wave time (R225) -/
  next : Word
  nextWave : Nat
  /-- the channel stops at its next boundary; once passed, the boundary's stamp P (R221) -/
  stopReq : Bool
  stopAt : Option Word
  /-- last checkpoint, the open epochs, oldest first, and the number of the last one (R234) -/
  ckpt : Option Ckpt
  epochOpen : List Epoch
  epochs : Nat
  /-- an epoch is due to open at the next boundary, and whether it is a full one; instant of the last opening -/
  ckptWanted : Bool
  ckptFull : Bool
  epochAt : Nat
  /-- events journaled since the last checkpoint (R236) -/
  journal : List Ev
  /-- CHECKPOINT commands wait for the checkpoint on these ports -/
  ckptPorts : List Nat
  /-- a DESTROY waits for the stop on this port (R221) -/
  destroyPort : Option Nat
  /-- the migration under way (R237) -/
  mig : Option Migration
  /-- recovery: the clock F of the fault or of the START (R220, R239), and whether it is a takeover's (R361) -/
  recF : Option Word
  takeover : Bool
  /-- the state to which a channel that was not running returns after its recovery (R239) -/
  backTo : Option ChanState
  /-- the journal events that the replay has still to take (R239) -/
  replay : Nat
  /-- sequence of the channel's PERIOD events -/
  periodSeq : Nat
  /-- the key of the channel's journal in the Cutter pool (R229, R236) -/
  journalAt : Option Nat
  deriving DecidableEq, Repr

/-- The Cutter beside its registers and channels. -/
structure Cutter where
  /-- generation of each index by kind; 0 while unissued (R12, R223) -/
  genChan : Tab Nat
  genMbx : Tab Nat
  genRoute : Tab Nat
  genPat : Tab Nat
  genRes : Tab Nat
  /-- the channels, by index (R219) -/
  chans : Tab Chan
  /-- contexts by key: 0-511 channels, 512-1023 migration shadows (R237) -/
  acts : Tab Act
  /-- the 96 engines (R131) -/
  engines : Tab Engine
  /-- stream reservations: port, class, rate in kb/s, cells (R218) -/
  reserv : Tab (Option (Nat × Nat × Nat × Nat))
  /-- u16 count of engine events by block (R150) -/
  evtSeq : Tab Nat
  /-- management view of the slots: engine and slot the Cutter believes each channel holds (R249) -/
  mgmt : Tab (Option (Nat × Nat))
  /-- channels whose two views disagree: no placement change until resync or destroy (R249) -/
  held : List Nat
  /-- commands that wait for Hold to end (R222): command code by port -/
  waiting : Tab Nat
  /-- offset in the pack store of the image of each CUT_PACK entry (R497) -/
  packOfs : Tab Nat
  deriving DecidableEq, Repr

/-! ### Memory block and external memory (09_memory.md) -/

/-- An ORD atomic in a bank's ordering buffer (R255, R256). -/
structure OrdEntry where
  /-- the engine that issued it (R255) -/
  eng : Nat
  /-- context key of the channel -/
  key : Nat
  /-- key of the word in `Dev.mem` -/
  addr : Nat
  /-- bytes of the operand -/
  size : Nat
  /-- aadd or aswap (R198) -/
  op : AtomicOp
  /-- the operand -/
  value : DWord
  /-- register that takes the old value -/
  dest : Nat
  /-- stamp of the current input: short time and quarter -/
  st : Word
  quarter : Nat
  /-- arrival, ns of `TimeBase.now`, and order of arrival -/
  arrival : Nat
  order : Nat
  deriving DecidableEq, Repr

/-- The bank controllers, scrubbers and classifier, beside the MEM and XMC registers. -/
structure MemBlock where
  /-- ordering buffer of each bank, oldest arrival first -/
  ord : Tab (List OrdEntry)
  /-- order number of the next arrival (R256) -/
  ordSeq : Nat
  /-- stamp (short time, quarter) and arrival of the last ORD atomic applied to a word (R257) -/
  ordLast : Tab (Word × Nat × Nat)
  /-- next row that the scrubber reads in each bank, and banks whose pass is done (R263) -/
  scrubRow : Tab Nat
  scrubDone : List Nat
  /-- start of the bank scrubber's pass (R263); none before the first -/
  scrubAt : Option Nat
  /-- bank and row that the scrubber corrected last: its write-back is made whatever wb_en holds (R263) -/
  scrubFix : Option (Nat × Nat)
  /-- next codeword that the external scrubber reads, and start of its pass (R264) -/
  xmcPos : Nat
  xmcAt : Option Nat
  /-- the strike counters fell last at this time (R266) -/
  decayAt : Nat
  /-- refreshes postponed, and when a refresh fell due last (R272) -/
  postponed : Nat
  refAt : Nat
  /-- when a resource was classified permanent (R269) -/
  permAt : Tab Nat
  /-- MiB of external memory in use: XMC_CFG.size_mib as the last Boot took it; 0 when it refused the configuration (R270) -/
  extMib : Nat
  /-- u16 sequence of MEM_ERR_LOG -/
  logSeq : Nat
  deriving DecidableEq, Repr

/-! ### Ports and switch (10_ports_mac.md, 11_switch_core.md) -/

/-- A frame in the switch: its bytes with FCS and the metadata of R306. -/
structure QFrame where
  bytes : List Byte
  st : Word
  quarter : Nat
  gen : Nat
  inPort : Nat
  cls : Nat
  cut : Bool
  sampled : Bool
  truncated : Bool
  stomped : Bool
  red : Nat
  vid : Nat
  pcp : Nat
  tagged : Bool
  length : Nat
  etype : Nat
  inSeq : Nat
  redSeq : Nat
  lan : Nat
  /-- transmit descriptor bits of a channel output: tag, ts_req, onestep, cmd, chan_out -/
  tag : Nat
  tsReq : Bool
  onestep : Bool
  cmd : Bool
  chanOut : Bool
  enqSt : Word
  stored : Nat
  deriving DecidableEq, Repr

/-- Where a queued frame's cells are charged (R322). -/
inductive Charge where
  | reserve | pool | bolt
  /-- a cut-through copy, or one not charged -/
  | none
  /-- a cut-through copy that yielded, at the head of its class before the rest of it has arrived (R313) -/
  | arriving
  deriving DecidableEq, Repr

/-- A frame in a class queue. -/
structure QEntry where
  /-- the frame and its metadata (R306) -/
  f : QFrame
  /-- 128-byte cells it occupies -/
  cells : Nat
  /-- where the cells are charged (R322) -/
  charge : Charge
  /-- times it has been yielded (R313) -/
  yields : Nat
  /-- cell number of its first cell, which names the sub-bank (The cell buffer) -/
  cell : Nat
  /-- a copy that goes through PE: the subscription entry, and the SWC_CNT that counts it where it finds no room (R328) -/
  pe : Option (Nat × Nat)
  deriving DecidableEq, Repr

/-- A Pdelay_Req that waits for its response (R86): its bytes and receive stamp. -/
structure Pdelay where
  req : List Byte
  st : Word
  quarter : Nat
  deriving DecidableEq, Repr

/-- The frame a port is sending (R311-R314). -/
structure Sending where
  /-- the queue entry that is sent (R311) -/
  e : QEntry
  /-- the first preamble byte and the end of the last byte on the wire, ns of `TimeBase.now` -/
  since : Nat
  endAt : Nat
  /-- bytes as sent, after tags, one-step insertion and MACsec -/
  sent : List Byte
  /-- ended early: with an inverted FCS, or by loss of link -/
  stomp : Bool
  lost : Bool
  /-- the request that a hardware peer-delay response answers (R86) -/
  pdelay : Option Pdelay
  /-- it received a one-step insertion; MACsec protected it -/
  onestep : Bool
  secured : Bool
  deriving DecidableEq, Repr

/-- A cut-through in progress on an ingress port (R327). -/
structure CutThrough where
  /-- egress ports that take the frame while it arrives (R327) -/
  egress : List Nat
  /-- egress ports whose copy has yielded (R313) -/
  gone : List Nat
  /-- class at each egress -/
  cls : Nat
  /-- the pair's tentative key, when the frame is redundancy-tagged (R340) -/
  tentative : Option (Nat × Nat × Nat)
  deriving DecidableEq, Repr

/-- A frame that the transmit monitor expects (R296, R297). -/
structure Intent where
  /-- intended digest; none while the frame, a yielded cut-through, has not arrived whole -/
  dig : Option Word
  /-- digest of the frame seen in its place, while `dig` is not known -/
  seen : Option Word
  /-- instant at which its last byte is due -/
  due : Nat
  /-- a yielded cut-through: its ingress port, and the bytes that had left -/
  cut : Option (Nat × Nat)
  deriving DecidableEq, Repr

/-- One external port beside its registers. -/
structure MacPort where
  /-- the 48 u40 tallies (R288) -/
  tally : Tab Nat
  /-- instant at which each class's hold lapses, begins, and its ignore period ends (R292-R295) -/
  holdEnd : Tab Nat
  holdStart : Tab Nat
  ignoreEnd : Tab Nat
  /-- the frame in transmission (R311) -/
  sending : Option Sending
  /-- frames that the monitor has not matched yet, in the order sent (R296, R297) -/
  intended : List Intent
  /-- the previous completion of the management view found the two views different (R301) -/
  differed : Bool
  /-- u16 sequence of the frames received -/
  inSeq : Nat
  /-- the cut-through in progress (R327) -/
  cut : Option CutThrough
  /-- requests that wait for the hardware response, oldest first (R86) -/
  pdelay : List Pdelay
  /-- frame counters of sampling, received and transmitted (R331) -/
  sampRx : Nat
  sampTx : Nat
  /-- instant of the last poll of the port's PHY (R304) -/
  polled : Option Nat
  /-- instant from which a forwarded frame may start, its predecessor's gap over (R281) -/
  freeAt : Nat
  /-- deficit idle count of a port at 10 Gb/s, 0-3 bytes (R281) -/
  dic : Nat
  /-- instant of the last link-up: the phase of the code-group grid (R314) -/
  phase : Nat
  deriving DecidableEq, Repr

/-- An FDB entry (R309). -/
structure FdbEntry where
  mac : Nat
  vid : Nat
  ports : Nat
  static : Bool
  /-- instant of the last learning, ns -/
  age : Nat
  deriving DecidableEq, Repr

/-- A gate list installed or running on a port (R316-R321). -/
structure GateList where
  /-- first table entry (R316) -/
  start : Nat
  /-- number of entries -/
  len : Nat
  /-- the wave domain rather than TAI -/
  wave : Bool
  /-- treadle of the wave domain -/
  treadle : Nat
  /-- TAI domain: base in ns; wave domain: wave time -/
  base : Nat
  /-- cycle length in the unit of the domain -/
  cycle : Nat
  deriving DecidableEq, Repr

/-- Gate state of a port. -/
structure GatePort where
  /-- the list that runs (R318) -/
  oper : Option GateList
  /-- the list that was installed and waits (R317) -/
  admin : Option GateList
  /-- start instant of the pending list, short time; none while it lies more than 1 s ahead (R318) -/
  startAt : Option Word
  /-- the same instant, TAI ns since the epoch, as the install chose it (R318) -/
  startTai : Int
  /-- start of the present entry and of the present cycle, short time (TAI domain) or low word of wave time -/
  entrySt : Word
  cycleSt : Word
  /-- the map generation at which the running cycle was placed -/
  gen : Nat
  /-- the cycle in progress completes, then the list waits for its new phase (R318) -/
  gap : Bool
  /-- gate states since the last change of them (R315, R320) -/
  past : Nat
  deriving DecidableEq, Repr

/-- A MDIO master: the operation under way, or a poll (R304, R305). -/
inductive MdioOp where
  | idle
  | cmd (val : Word)
  /-- a poll of port `p`, and a command that waits for its end -/
  | poll (p : Nat) (wait : Option Word)
  deriving DecidableEq, Repr

/-- A receive-ring or mailbox slot in use until the input that took its event is sealed (R328, R390, R410, R469). -/
structure SlotUse where
  /-- 1 subscription, 2 ring receive buffer, 3 MDB queue, 4 mailbox slot -/
  kind : Nat
  /-- entry index of that kind, and slot number -/
  idx : Nat
  slot : Nat
  /-- the event that carries it: channel, source, unit, seq, stamp -/
  chan : Nat
  src : Nat
  unit : Nat
  seq : Nat
  st : Word
  deriving DecidableEq, Repr

/-- The switch core beside its registers. -/
structure Switch where
  /-- frames by queue, key 8 * port + class, head first -/
  q : Tab (List QEntry)
  /-- forwarding database, by bucket and way (R309) -/
  fdb : Tab FdbEntry
  /-- gate state by port (R316) -/
  gate : Tab GatePort
  /-- shaper credit in 2^-20 bits, and the instant it was brought up to (R315), by queue -/
  credit : Tab Int
  creditAt : Tab Nat
  /-- released channel outputs that wait to claim their port, in release order, with their context keys (R312) -/
  chanQ : Tab (List (Nat × QEntry))
  /-- cells that each queue held when the reserves became short (R326) -/
  limit : Tab Nat
  /-- lowest free pool seen since reset -/
  lowWater : Option Nat
  /-- next cell number to allocate -/
  nextCell : Nat
  /-- sequence of the commands completed by the FDB (R310): no register shows it -/
  fdbSeq : Nat
  /-- instant since which the two views of a port differ (R332) -/
  differ : Tab Nat
  /-- bits of spill traffic in the present millisecond, and that millisecond (R324) -/
  spillBits : Nat
  spillMs : Nat
  /-- receive-ring slots in use (R328) -/
  slots : List SlotUse
  /-- receive-ring copies dropped: the channel's next FRAME event carries overrun (R329), channels -/
  dropped : List Nat
  /-- tick of the last filling of each mailbox slot, by 2 x mailbox + party (R468, R8) -/
  fullAt : Tab Nat
  /-- tick in which each mailbox's lost flag was last set, by 2 x mailbox + party (R468, R8) -/
  lostAt : Tab Nat
  deriving DecidableEq, Repr

/-! ### Redundancy (12_redundancy_failover.md) -/

/-- An entry of a pair's duplicate table (R337-R340). -/
structure DupEntry where
  sa : Nat
  seq : Nat
  own : Bool
  tentative : Bool
  at_ : Nat
  deriving DecidableEq, Repr

/-- A frame held until a tentative entry resolves (R340). -/
structure HeldFrame where
  port : Nat
  sa : Nat
  seq : Nat
  f : QFrame
  deriving DecidableEq, Repr

/-- The pattern book of one channel on a spare (R345). -/
structure BookChan where
  /-- the newest full checkpoint with the epochs that follow it unbroken -/
  ckpt : Option Ckpt
  /-- an epoch is missing: only a full checkpoint mends it (R345) -/
  broken : Bool
  /-- the active device's entries, and the stamp of the newest of them (R347) -/
  entries : List Ev
  cut : Option Word
  deriving DecidableEq, Repr

/-- The redundancy block beside its registers. -/
structure Redundancy where
  /-- duplicate table of each pair (R337) -/
  dup : Tab (List DupEntry)
  /-- frames that a tentative entry holds (R340) -/
  held : List HeldFrame
  /-- heartbeat sequence sent, and last seen from the peer by path: 0 ring, 1 HBI -/
  hbSeq : Nat
  peerSeq : Tab Nat
  /-- own boundary last sent for, and peer boundary last judged, short time -/
  sentFor : Option Word
  checkedFor : Option Word
  /-- valid heartbeats for the peer boundary under watch, by path -/
  ringOk : Bool
  hboOk : Bool
  /-- consecutive mismatches of the peer's folds (R353) -/
  mismatch : Nat
  /-- peer periods left in which an equal claim from a lower node keeps the gate closed (R355) -/
  tie : Nat
  /-- running folds (R352) -/
  foldInt : Word
  foldObs : Word
  /-- the state RELINQUISH or TAKING applies (R348) -/
  relinquish : Bool
  /-- TAKING applies (R348, R360) -/
  taking : Bool
  /-- the spare has staged a takeover (R359) -/
  prepared : Bool
  /-- pattern book by channel (R345) -/
  book : Tab BookChan
  /-- newest RED_PAIR_SEQ record (R346) -/
  seqs : List Nat
  /-- records sent, or received by a spare (heartbeat word 4) -/
  bookCnt : Nat
  /-- instant since which role and gate disagree (R363) -/
  differ : Option Nat
  /-- the claim gate has closed against a higher claim: outputs are suppressed (R356) -/
  demoted : Bool
  deriving DecidableEq, Repr

/-! ### Selvedge ring (13_selvedge_ring.md) -/

/-- SLV_STAT.state (R381). -/
inductive RingState where
  | off | listen | coldstart | integrating | sync | passive | dupId
  deriving DecidableEq, Repr

/-- A RING output that waits for a slot (R389). -/
structure RingOut where
  destNode : Nat
  destChan : Nat
  srcChan : Nat
  seq : Nat
  rel : Word
  data : List Byte
  /-- instant at which it was queued, and whether its wait has been counted as longer than a round -/
  since : Nat
  late : Bool
  deriving DecidableEq, Repr

/-- The ring node beside its registers. -/
structure Ring where
  /-- SLV_STAT.state (R381) -/
  state : RingState
  /-- node followed, or leading -/
  follow : Nat
  /-- start of the timer of LISTEN or of the time without a valid TIME frame, ns -/
  timer : Nat
  /-- short time of the present round start (R371) -/
  grid : Word
  /-- the forward delay Δ by which its slots lie behind the grid (R375) -/
  delta : Nat
  /-- slot 0 frames accepted since LISTEN was left: the first sets the grid -/
  fresh : Bool
  /-- valid TIME frames in a row, and rounds since the last one -/
  goodTimes : Nat
  noTime : Nat
  /-- rounds since the first COLDSTART frame was sent -/
  coldRounds : Nat
  /-- Δ is being relearnt after a fold (R384) -/
  relearn : Bool
  /-- last phase error e against the node followed, ns (R376) -/
  error : Int
  /-- channel slot queue of 64 entries (R389) -/
  txq : List RingOut
  /-- CUTTER messages to send (R391) -/
  cutq : List (List Byte)
  /-- book queue of 4 KiB, in records (R391) -/
  bookq : List (List Byte)
  /-- u16 sequence toward each destination: key is node * 262144 + source * 512 + destination -/
  seqs : Tab Nat
  /-- nodes heard in this round and in the last one -/
  heard : Nat
  /-- rounds in a row in which the loom digests differed (R372) -/
  differRounds : Nat
  /-- the leader's folded and close_pending flags, and the closing round (R380, R387) -/
  folded : Bool
  closeRound : Option Nat
  /-- the failed hop of the A or B side has held block lock for 1 ms -/
  heldA : Bool
  heldB : Bool
  /-- slots in which this node inserted in the present round -/
  inserted : List Nat
  /-- rounds since the last servo commit made from a TIME frame (R380) -/
  servoRounds : Nat
  /-- entries of the loom table written in a tick: the tick, and what they held before it (R371) -/
  loomOld : Tab (Nat × Word)
  deriving DecidableEq, Repr

/-! ### Multi-drop bus (14_multidrop_bus.md) -/

/-- One controller beside its registers: message buffers stand in `MDB_BUF` words of `Dev.regs`. -/
structure Mdb where
  /-- receive queues A (0) and B (1): entries of 21 words, oldest first -/
  rxq : Tab (List (List Word))
  /-- u16 sequence of each receive queue (R409) -/
  rxSeq : Tab Nat
  /-- the next entry of the queue carries overrun (R409) -/
  rxLost : Tab Bool
  /-- by channel index: the channel's next MDB event carries overrun (R410) -/
  evLost : Tab Bool
  /-- shadow of a transmit buffer (R403) -/
  shadow : Tab (List Word)
  /-- buffer in transmission; 32 is the reference message -/
  sending : Option Nat
  /-- abort written while in transmission (R406) -/
  abortSending : Bool
  /-- sequence of the MDB events (R410) -/
  evSeq : Nat
  /-- the reference message is requested, and when its boundary was, in quarter-ns of `Dev.stLong` (R414) -/
  refPend : Option Nat
  /-- Ref_Mark in quarter-ns of `Dev.stLong`, none before tt_en (R413) -/
  refMark : Option Nat
  /-- the cycle boundary (in TAI) for which the reference was last requested -/
  refK : Nat
  /-- instant (quarter-ns of `Dev.stLong`) at which the boundaries were last looked at (R414) -/
  refSeen : Nat
  /-- boundary and SOF of the reference message in transmission, in quarter-ns of `Dev.stLong` -/
  refSof : Nat × Nat
  /-- triggers that have fired in the present cycle -/
  fired : List Nat
  /-- transmit and receive error counts of ISO 11898-1 (R397) -/
  txErr : Nat
  rxErr : Nat
  /-- buffers that TX and TX_ARB triggers have released, those of them that are sent once and never retried, and the TX
  window that runs: buffer, deadline in quarter-ns of `Dev.stLong` (R415) -/
  arb : List Nat
  once : List Nat
  window : Option (Nat × Nat)
  /-- tick of the latest frame in each receive buffer (R412) -/
  rxAt : Tab Nat
  /-- tick in which the attempt in transmission was offered, and ticks of the latest abort and of the latest trigger that set
  pend on an idle buffer, by buffer: what meets a delivery in one clock (R406) -/
  startAt : Nat
  abortAt : Tab Nat
  trigAt : Tab Nat
  /-- RX triggers whose buffer has had nd set since they fired -/
  rxSeen : List Nat
  deriving DecidableEq, Repr

/-! ### Shuttles and pins (15_shuttles.md, 19_pins_electrical.md) -/

/-- SHT_STAT.state (R426). -/
inductive ShtState where
  | off | run | wait | stall | fault | frozen | halted
  deriving DecidableEq, Repr

/-- What a stalled shuttle waits to do (R431). -/
inductive StallKind where
  | stow | fetch
  /-- the stow that a GET makes, the fetch that a PUT makes -/
  | getStow | putFetch
  deriving DecidableEq, Repr

/-- One shuttle. -/
structure Shuttle where
  /-- SHT_STAT.state (R426) -/
  state : ShtState
  /-- state to resume after FROZEN -/
  resume : ShtState
  /-- program counter, 0-31 (R428) -/
  pc : Nat
  /-- input shift register (R430) -/
  ibs : Word
  /-- bits in the input shift register -/
  ibCnt : Nat
  /-- output shift register (R430) -/
  obs : Word
  /-- bits left in the output shift register -/
  obLeft : Nat
  /-- scratch register S0 (R429) -/
  s0 : Word
  /-- scratch register S1 (R429) -/
  s1 : Word
  /-- stamp register, which events carry -/
  stamp : Stamp
  /-- FIFOs, oldest first; an up word carries the stamp and the seq of its stow -/
  up : List (Word × Stamp × Nat)
  /-- down FIFO, oldest first (R431) -/
  dn : List Word
  /-- the word that the last fetch took (R431) -/
  lastFetch : Word
  /-- sequence of the SHUTTLE events (R434) -/
  stowSeq : Nat
  /-- what the stalled shuttle waits to do (R431) -/
  stall : Option StallKind
  /-- bell bit that BELL with wait is held by -/
  bellWait : Option Nat
  /-- the instruction that a WAIT or a stall holds (R431, R432), and the tick at which it began, in quarter-nanoseconds -/
  inst : BitVec 16
  waitAt : Nat
  /-- a group trigger at or after the WAIT began (R432) -/
  trig : Option Stamp
  /-- the instruction of SHT_INJ that waits for the next tick (R438) -/
  inject : Option (BitVec 16)
  /-- SHT_LOAD.go waits for the next tick -/
  load : Option Nat
  /-- the latest tick or restart of the divider: instant in quarter-nanoseconds of `TimeBase.now`, the accumulator then, and the
  divider D in effect (R427) -/
  divAt : Nat
  divAcc : Nat
  divD : Nat
  /-- instant (`TimeBase.now`) from which the up FIFO may drain its next word (R434) -/
  drainAt : Nat
  /-- instructions written in a tick: the tick, and what stood there before it (R439) -/
  progOld : Tab (Nat × Nat)
  /-- words that engines have placed in the down FIFO in a tick: the tick, and how many (R435) -/
  dnEng : Nat × Nat
  /-- tick (plus one) of the latest group start (R437), and ticks of the shuttle's latest writes of s0 and s1 -/
  startAt : Nat
  sAt : Tab Nat
  /-- base clock of the trigger in `trig`, in quarter-nanoseconds (R436) -/
  trigAt : Nat
  deriving DecidableEq, Repr

/-- The 64 shuttle pins. -/
structure Pins where
  /-- level and drive-enable settings of each pin -/
  level : BitVec 64
  oe : BitVec 64
  /-- pads as last sensed -/
  pad : BitVec 64
  /-- a pin keeps its safe state until its source acts (R424) -/
  safe : BitVec 64
  /-- pins of COMMIT source: instant of the last action, and who made it: table 0-7, or 8 a channel output (R123, R423) -/
  acted : Tab (Nat × Nat)
  /-- command-class levels released on a pin that the observed fold has still to take (R352) -/
  obsDue : Tab Nat
  /-- SHT_GRP_CTRL words with `at` that wait for SHT_GRP_AT, by group, oldest first (R437) -/
  grpDue : Tab (List Word)
  /-- what the pads were driven to at the entry to Hold: driven at all, and the level (R440) -/
  heldOe : BitVec 64
  heldOut : BitVec 64
  deriving DecidableEq, Repr

/-! ### Scan unit (16_scan_bay_logic.md) -/

/-- SCN_STAT.state (R458). -/
inductive ScanState where
  | stop | run | hold
  deriving DecidableEq, Repr

/-- Where the running cycle stands (R445). -/
inductive ScanPhase where
  | idle | latched | copied | judged | committed
  deriving DecidableEq, Repr

/-- A station as it stood before the latch of tick `tick` (R454). -/
structure StnUndo where
  tick : Nat
  up : Bool
  published : Bool
  misses : Nat
  dropped : Bool
  last : List Byte
  deriving DecidableEq, Repr

/-- One station beside its registers (R452-R457). -/
structure Station where
  /-- the station is served (R454, R457) -/
  up : Bool
  /-- its buffer is being filled (R453) -/
  fill : Bool
  /-- a publish with ok = 1 waits for the next latch -/
  published : Bool
  /-- a publish between t_L and t_E is queued (R453) -/
  queued : Bool
  /-- consecutive latches without a publish (R454) -/
  misses : Nat
  /-- dropped since the last latch, or out -/
  dropped : Bool
  /-- bytes of the last latch -/
  last : List Byte
  /-- what a drop in the clock of the latch, or of the commit, takes back (R454) -/
  undo : Option StnUndo
  outUndo : Option (Nat × List Byte)
  deriving DecidableEq, Repr

/-- The scan unit. -/
structure Scan where
  /-- SCN_STAT.state (R458) -/
  state : ScanState
  /-- where the running cycle stands (R445) -/
  phase : ScanPhase
  /-- next latch instant; armed by run (R445, R458) -/
  nextLatch : Option Word
  /-- latch instant of the cycle, short time (R445) -/
  tL : Word
  /-- instant at which the copy completes (R445) -/
  tE : Word
  /-- commit instant of the cycle (R445) -/
  tK : Word
  /-- output instant of the cycle (R445) -/
  tD : Word
  /-- cycle number -/
  cycle : Nat
  /-- a stop takes effect after the next commit -/
  stopReq : Bool
  /-- a release of HOLD takes effect at the next latch (R458) -/
  releaseReq : Bool
  /-- the cycle's verdict, and what makes it an overrun beforehand: a full log (R450), a task's input lost to an exception -/
  commits : Bool
  withheld : Bool
  /-- the next cycle's log was found full (R450) -/
  withheldNext : Bool
  /-- stations valid at the commit instant: they receive COMMIT (R446) -/
  commitTo : List Nat
  /-- the tasks bound from the next latch on after a change (R462) -/
  nextTasks : Option (List Word)
  /-- the device's entry to Hold has put the scan into HOLD (R458) -/
  devHold : Bool
  /-- pending log (word index, value), oldest first; and the log of the next cycle (R450) -/
  log : List (Nat × Word)
  nextLog : List (Nat × Word)
  /-- consecutive overruns (R448) -/
  overruns : Nat
  /-- SCN_STAT.ret_valid (R54, R460) -/
  retValid : Bool
  /-- the last restart was a cold one (R460) -/
  coldRun : Bool
  /-- the cycle is the first after a restart (R460) -/
  firstCycle : Bool
  /-- the cycle is the first after a change (R462) -/
  afterChange : Bool
  /-- SCN_STAT.inst_active: which instance area is active (R462) -/
  instActive : Bool
  /-- the stations, by number (R452) -/
  stations : Tab Station
  /-- stations that changed at the last latch -/
  changed : List Nat
  /-- entry instants: the scan has not started yet (start target) -/
  started : Bool
  /-- handles of the bound tasks, the error task first (R443) -/
  tasks : List Word
  /-- sequence of the SCAN events -/
  seq : Nat
  deriving DecidableEq, Repr

/-! ### Bridges (17_mailboxes_bridges.md) -/

/-- Who holds the bridge semaphore (R477, R478). -/
inductive SemHolder where
  | free | lb
  | engine (e : Nat)
  deriving DecidableEq, Repr

/-- A posted write with its write sequence (R474). -/
structure Posted where
  w : HostWrite
  wseq : Nat
  deriving DecidableEq, Repr

/-- An outbound local-bus cycle under way (R479, R480). -/
structure Outbound where
  write : Bool
  ofs : Nat
  be : BitVec 4
  data : Word
  tag : Nat
  wseq : Nat
  /-- consecutive back-offs, the instant of the last one, and that of the request -/
  tries : Nat
  since : Nat
  began : Nat
  /-- the cycle of a write stands on the bus unacknowledged (R474) -/
  onBus : Bool
  deriving DecidableEq, Repr

/-- The host bridge beside its registers. -/
structure Bridge where
  /-- posted writes of the PCIe host, oldest first (R474) -/
  postPcie : List Posted
  /-- posted writes of the local bus, oldest first (R474) -/
  postLb : List Posted
  /-- who holds the semaphore (R477) -/
  sem : SemHolder
  /-- instant from which the hold time counts (R476) -/
  semSince : Nat
  /-- the outbound cycle under way (R479) -/
  ob : Option Outbound
  /-- last sample of the polled interrupt levels (R481) -/
  irqPrev : BitVec 16
  /-- instant of that sample, in ns (R481) -/
  irqAt : Nat
  /-- instant at which the frame bridge's work on its oldest source frame begins, in ns (R489) -/
  fbrAt : Nat
  /-- what the template words written last held before that tick, by word, with the tick (R490) -/
  tmplOld : Tab (Nat × Nat)
  /-- ledger entries written so far -/
  ledgerSeq : Nat
  /-- cause for which the write being performed has failed, 0 none (R474) -/
  fail : Nat
  /-- ring sequence of each receive ring -/
  ringSeq : Tab Nat
  /-- the value of the last read returned to each initiator: 0 PCIe, 1 local bus, 2 internal, 3 + e engine e; and whether in error -/
  lastRead : Tab (Word × Bool)
  deriving DecidableEq, Repr

/-- A source frame in the frame bridge (R486). -/
structure FbrSource where
  route : Nat
  /-- generation of the route when it was found (R12) -/
  rgen : Nat
  payload : List Byte
  /-- data length of an MDB source -/
  mdb : Bool
  st : Word
  quarter : Nat
  gen : Nat
  deriving DecidableEq, Repr

/-! ### Security unit (18_security_identity.md) and TAP -/

/-- A cipher job (R503). -/
structure Job where
  words : List Word
  chan : Nat
  st : Word
  quarter : Nat
  gen : Nat
  /-- the key, from the job's start on (R502) -/
  key : Option (List Word)
  /-- GO, in ns of `TimeBase.now` -/
  at_ : Nat
  deriving DecidableEq, Repr

/-- The security unit beside its registers. -/
structure Security where
  /-- OTP words 0-511 (R491); unlisted words are 0 -/
  otp : Tab Word
  /-- SEC_STAT.dbg_unlocked (R507) -/
  dbgUnlocked : Bool
  /-- failed unlocks since POR, saturating at 3 (R507) -/
  dbgFails : Nat
  /-- SEC_STAT.boot_fail (R498) -/
  bootFail : Nat
  /-- SEC_STAT.fail_img (R498) -/
  failImg : Nat
  /-- the health test of the generator has failed (R506) -/
  rngFail : Bool
  /-- the open debug challenge (R507) -/
  challenge : Option (List Word)
  /-- key slots 0-255 (R502): eight words each, none when erased -/
  keys : Tab (List Word)
  /-- staged key words -/
  keyWr : Tab Word
  /-- packet number of each secure association: key 2 s + its place in its pair (R505) -/
  pn : Tab Nat
  /-- cipher jobs by queue, oldest first (R503) -/
  jobs : Tab (List Job)
  /-- u16 sequence of the SECURITY events (R503) -/
  jobSeq : Nat
  /-- lowest version among the accepted images that name a counter (R499) -/
  booted : Tab Nat
  /-- public key of the device identity, words of SEC_ID_PUB (R495) -/
  idPub : List Word
  /-- measurement registers (R500) -/
  meas : Tab (List Byte)
  deriving DecidableEq, Repr

/-- TAP instructions (R529). -/
inductive TapInstr where
  | extest | idcode | sample | clamp | highz | bypass
  deriving DecidableEq, Repr

/-- The boundary-scan TAP. -/
structure Tap where
  /-- the instruction in the instruction register (R529) -/
  ir : TapInstr
  /-- the boundary register (R530) -/
  boundary : BitVec 912
  /-- pads as the last SAMPLE saw them -/
  sampled : BitVec 912
  /-- the bypass bit (R529) -/
  bypass : Bool
  deriving DecidableEq, Repr

/-! ### What leaves the device -/

/-- One thing the outside world can see, in the model's own observation list.
DESIGN CHOICE, log entry 9; DESIGN CHOICE, log entry 14. -/
inductive Obs where
  /-- an MSI-X message of vector `v` (R534) -/
  | msix (v : Nat)
  /-- a frame begins on port `p`, with the bytes to be sent -/
  | frame (p : Nat) (bytes : List Byte)
  /-- the frame in transmission on port `p` ends with an inverted FCS -/
  | stomp (p : Nat)
  /-- pin `i` takes a level; or goes high-impedance -/
  | pin (i : Nat) (level : Bool)
  | pinZ (i : Nat)
  /-- the pull of pin `i` becomes none 0, down 1 or up 2 (R521) -/
  | pull (i : Nat) (code : Nat)
  /-- the bridge writes host memory -/
  | dma (addr : Nat) (bytes : List Byte)
  /-- a value returned to an initiator, and whether the access completed in error -/
  | readData (who : Initiator) (value : Word) (err : Bool)
  /-- a local-bus master cycle -/
  | lbCycle (write : Bool) (addr : Nat) (be : BitVec 4) (data : Word)
  /-- a heartbeat on HBO, a slot frame on the ring -/
  | hbo (msg : List Byte)
  | ringFrame (slot : Nat) (bytes : List Byte)
  /-- a CAN frame offered to the bus of controller `n`: buffer (32 the reference message) and record words -/
  | canFrame (n : Nat) (buf : Nat) (rec : List Word)
  /-- controller `n` sends an error flag, or acknowledges a frame (R399) -/
  | canError (n : Nat)
  | canAck (n : Nat)
  /-- PPS_OUT becomes active for so many microseconds, with its active level (R91) -/
  | pps (us : Nat) (level : Bool)
  /-- the completion record of the frame with a tag, sent on port `p`, carries "no stamp" (R88) -/
  | noStamp (p : Nat) (tag : Nat)
  /-- an MDIO frame of master `m`, with its 32-bit preamble or without -/
  | mdio (m : Nat) (op : Nat) (val : Word) (data : Nat) (preamble : Bool)
  | pwrEn (level : Bool)
  /-- the TAP instruction that acts, and the identification code that IDCODE shifts out -/
  | tapOut (i : TapInstr)
  | tapId (code : Word)
  deriving DecidableEq, Repr

end Sys2Proof.Machine
end

