-- ==== Sys2Proof/Machine/Init.lean ====
section
/-!
DEFINITION. The value after reset of every part of the state that is not a register word, and of an entry that a sparse
table does not list. Where the spec gives no value the choice is logged in notes/assumptions/5.md.
-/
namespace Sys2Proof.Machine

def Stamp.zero : Stamp := ⟨0, 0, 0⟩

/-- The always-on domain right after the release of POR_N with main rails good: Boot (R30, R513, R514).
DESIGN CHOICE, log entry 5; DESIGN CHOICE, log entry 6. -/
def Pwr.init : Pwr :=
  { mode := .boot, trans := .idle, reqStatus := 0, porLow := false, supplyLow := false, warmLow := false,
    pgMain := true, pwrEn := true, mainUp := true, pllLost := false, release := .por, wakeSince := none,
    retrySince := none, wakePending := false, ownSleep := false, pgHeld := false, pfw := false, flushing := none, flushImg := [], flushSeq := 0, flushForSleep := false,
    sleepFlushed := false, flushPage := 0, flash := [], holdCnt := 0, holdFrac := 0, logCount := 0, logSeq := 0,
    porAt := 0, straps := 0, lsw := 0, cmp := 0, wokeAt := 0, wakeKept := false, wakeByMdbOnly := false }

/-- DESIGN CHOICE, log entry 5. -/
def TimeBase.init : TimeBase :=
  { now := 0, st := 0, sec := 0, ns := 0, frac := 0, y := 0, i := 0, msLo := 0, msHi := 0, pd := 0, candidate := 0,
    lossBase := 0, anchor := ⟨0, 0, 0, 0⟩, relocking := false, relockAt := 0, genSteps := [], out10m := false, wrapDue := false,
    secondDue := false, ppsAt := none, ppsUnread := false, tsq := [], tsqSeq := [] }

/-- DESIGN CHOICE, log entry 5. -/
def Treadle.init : Treadle :=
  { acc := 0, inc := 0, cycle := 0, carry := 0, incLo := 0, integ := 0, adjPend := 0, ofsOld := 0, ofsAt := none, lastCross := none, aligned := false, count := 0, out := 0,
    missed := 0, hit := false, lastStrobe := none, lastUp := true, stepFree := 0, stepWait := 0, dirUp := true,
    pulseEnd := none, ramp := .none, goal := 0, rampAt := 0, wave := [], leader := none, ratio := 0 }

def TreadleBlock.init : TreadleBlock := 
  { t := [], startAt := none, startDue := [], trigDue := [], patPos := [], patOwner := [], patCommit := [], patOld := [],
    latchAt := [] }

/-- DESIGN CHOICE, log entry 5. -/
def Ctx.init : Ctx :=
  { w := [], ar := [], a0 := 0, a1 := 0, flags := 0, rcnt := 0, wtimeHi := 0, cinSt := 0, cinRel := 0, cinQ := 0,
    budget := 0, mods := [], modW := [], pc := 0, delay := [], repOn := false, poison := [] }

/-- DESIGN CHOICE, log entry 5. -/
def Act.init : Act :=
  { ctx := Ctx.init, st := .waiting, open_ := false, input := none, inputLate := false, given := 0,
    inId := 0, heldAt := none, heldPart := 0, atTarget := 0, atGo := false, lastTaken := none, lastSealed := none, dropped := false, stored := none, eng := 0,
    slot := 0, xBase := 0, yBase := 0, codeBase := 0, codeLen := 0, winPhys := [] }

/-- DESIGN CHOICE, log entry 5. -/
def Engine.init : Engine :=
  { cur := none, loaded := none, retired := false, stopped := true, slots := [], evq := [], evqHigh := 0, outq := [],
    outqHigh := 0, outSeq := 0, far := [], busy := 0, excSeq := 0 }

/-- DESIGN CHOICE, log entry 5. -/
def Chan.init : Chan :=
  { st := .free, desc := [], node := 0, remote := false, settle := 0, late := false, lateCount := 0, startAt := none, next := 0,
    nextWave := 0, stopReq := false, stopAt := none, ckpt := none, epochOpen := [], epochs := 0, ckptWanted := false,
    ckptFull := false, epochAt := 0, journal := [],
    ckptPorts := [], destroyPort := none, mig := none, recF := none, takeover := false, backTo := none, replay := 0,
    periodSeq := 0, journalAt := none }

def Cutter.init : Cutter :=
  { genChan := [], genMbx := [], genRoute := [], genPat := [], genRes := [], chans := [], acts := [], engines := [],
    reserv := [], evtSeq := [], mgmt := [], held := [], waiting := [], packOfs := [] }

def MemBlock.init : MemBlock :=
  { ord := [], ordSeq := 0, ordLast := [], scrubRow := [], scrubDone := [], scrubAt := none, scrubFix := none,
    xmcPos := 0, xmcAt := none, decayAt := 0, postponed := 0, refAt := 0, permAt := [], extMib := 256,
    logSeq := 0 }

def MacPort.init : MacPort :=
  { tally := [], holdEnd := [], holdStart := [], ignoreEnd := [], sending := none, intended := [], dic := 0, differed := false,
    inSeq := 0, cut := none, pdelay := [], sampRx := 0, sampTx := 0, polled := none, freeAt := 0, phase := 0 }

def GatePort.init : GatePort :=
  { oper := none, admin := none, startAt := none, startTai := 0, entrySt := 0, cycleSt := 0, gen := 0, gap := false, past := 0xFF }

def Switch.init : Switch :=
  { q := [], fdb := [], gate := [], credit := [], creditAt := [], chanQ := [], limit := [], lowWater := none, nextCell := 0, fdbSeq := 0, differ := [], spillBits := 0,
    spillMs := 0, slots := [], dropped := [], fullAt := [], lostAt := [] }

def BookChan.init : BookChan := { ckpt := none, broken := true, entries := [], cut := none }

def Redundancy.init : Redundancy :=
  { dup := [], held := [], hbSeq := 0, peerSeq := [], sentFor := none, checkedFor := none, ringOk := false, hboOk := false, mismatch := 0, tie := 0,
    foldInt := 0, foldObs := 0, relinquish := false, taking := false, prepared := false, book := [], seqs := [],
    bookCnt := 0, differ := none, demoted := false }

def Ring.init : Ring :=
  { state := .off, follow := 0, timer := 0, grid := 0, delta := 0, fresh := true, goodTimes := 0, noTime := 0,
    coldRounds := 0, relearn := false, error := 0, txq := [], cutq := [], bookq := [], seqs := [], heard := 0,
    differRounds := 0, folded := false, closeRound := none, heldA := false, heldB := false, inserted := [],
    servoRounds := 0, loomOld := [] }

/-- DESIGN CHOICE, log entry 5. -/
def Mdb.init : Mdb :=
  { rxq := [], rxSeq := [], rxLost := [], evLost := [], shadow := [], sending := none, abortSending := false,
    evSeq := 0, refPend := none, refMark := none, refK := 0, refSeen := 0, refSof := (0, 0), fired := [], txErr := 0,
    rxErr := 0, arb := [], once := [], window := none, rxAt := [], startAt := 0,
    abortAt := [], trigAt := [], rxSeen := [] }

/-- DESIGN CHOICE, log entry 5. -/
def Shuttle.init : Shuttle :=
  { state := .off, resume := .off, pc := 0, ibs := 0, ibCnt := 0, obs := 0, obLeft := 0, s0 := 0, s1 := 0,
    stamp := Stamp.zero, up := [], dn := [], lastFetch := 0, stowSeq := 0, stall := none, bellWait := none,
    inst := 0, waitAt := 0, trig := none, inject := none, load := none, divAt := 0, divAcc := 0, divD := 0,
    drainAt := 0, progOld := [], dnEng := (0, 0), startAt := 0, sAt := [], trigAt := 0 }

/-- DESIGN CHOICE, log entry 6. -/
def Pins.init : Pins := { level := 0, oe := 0, pad := 0, safe := 0, acted := [], obsDue := [], grpDue := [], heldOe := 0, heldOut := 0 }

def Station.init : Station :=
  { up := false, fill := false, published := false, queued := false, misses := 0, dropped := false, last := [],
    undo := none, outUndo := none }

/-- DESIGN CHOICE, log entry 5. -/
def Scan.init : Scan :=
  { state := .stop, phase := .idle, nextLatch := none, tL := 0, tE := 0, tK := 0, tD := 0, cycle := 0, stopReq := false,
    releaseReq := false, commits := false, withheld := false, log := [], nextLog := [], overruns := 0,
    retValid := false, coldRun := false, firstCycle := false, afterChange := false, instActive := false,
    stations := [], changed := [], started := false, tasks := [], seq := 0, withheldNext := false, commitTo := [], nextTasks := none,
    devHold := false }

/-- DESIGN CHOICE, log entry 5. -/
def Bridge.init : Bridge :=
  { postPcie := [], postLb := [], sem := .free, semSince := 0, ob := none, irqPrev := 0,
    irqAt := 0, fbrAt := 0, tmplOld := [], ledgerSeq := 0, fail := 0, ringSeq := [], lastRead := [] }

/-- The security unit of a blank part: only the unique ID is programmed (R491, R507).
DESIGN CHOICE, log entry 5; DESIGN CHOICE, log entry 6. -/
def Security.init : Security :=
  { otp := [(77, Config.uid.truncate 32), (78, (Config.uid >>> 32).truncate 32)], dbgUnlocked := true, dbgFails := 0,
    bootFail := 0, failImg := 0, rngFail := false, challenge := none, keys := [], keyWr := [], pn := [], jobs := [], jobSeq := 0,
    booted := [], idPub := [], meas := [] }

def Tap.init : Tap := { ir := .idcode, boundary := 0, sampled := 0, bypass := false }

end Sys2Proof.Machine
end

