-- ==== Sys2Proof/Machine/RegMap.lean ====
section
/-!
DEFINITION. The register map of BAR0 (R531, R532): one row per register word of every chapter's register map, with its
address, its array dimensions, the access code of each field as a mask (R7) and the reset value with its domain (R10).
Every mask is read from the field tables of the chapter that the row's comment names; bits in no mask are reserved and
read 0 (R6). Array dimensions are (count, stride), outermost first.
-/
namespace Sys2Proof.Machine

/-- One row of a register map. -/
structure RegDesc where
  /-- the register's name in the manual, with `_Wn` for word n of a multi-word entry -/
  name : String
  /-- BAR0 offset of element 0 -/
  base : Nat
  /-- (count, stride) of each index, outermost first -/
  dims : List (Nat × Nat)
  /-- fields with access code RW -/
  rw : Word
  /-- fields with access code RO -/
  ro : Word
  /-- fields with access code W1C -/
  w1c : Word
  /-- fields with access code W1S -/
  w1s : Word
  /-- fields with access code WO -/
  wo : Word
  /-- fields with access code RC -/
  rc : Word
  /-- fields with access code RWL -/
  rwl : Word
  /-- value after POR -/
  rst : Word
  /-- bits that a WARM reset puts back to `rst` -/
  warm : Word
  /-- bits that an ENGINE reset puts back to `rst` -/
  eng : Word
  deriving DecidableEq, Repr
/-- Register map of DEV (spec/20_register_index.md). -/
def regMapDev : List RegDesc := [
  ⟨"DEV_ID", 0x0, [], 0x0, 0xFFFF, 0x0, 0x0, 0x0, 0x0, 0x0, 0x9600, 0x0, 0x0⟩,
  ⟨"DEV_REV", 0x4, [], 0x0, 0xFFFF, 0x0, 0x0, 0x0, 0x0, 0x0, 0x4201, 0x0, 0x0⟩,
  ⟨"DEV_ACC_ERR", 0x10, [], 0x0, 0x7FFE, 0x1, 0x0, 0x0, 0x0, 0x0, 0x0, 0x7FFF, 0x0⟩,
  ⟨"DEV_ACC_ADDR", 0x14, [], 0x0, 0xFFFFFFFF, 0x0, 0x0, 0x0, 0x0, 0x0, 0x0, 0xFFFFFFFF, 0x0⟩,
  ⟨"DEV_ACC_CNT", 0x18, [], 0x0, 0x0, 0x0, 0x0, 0x0, 0xFFFFFFFF, 0x0, 0x0, 0xFFFFFFFF, 0x0⟩,
  ⟨"DEV_BELL_MASK", 0x1C, [], 0x1, 0x0, 0x0, 0x0, 0x0, 0x0, 0x0, 0x0, 0x1, 0x0⟩]
/-- Register map of PWR (spec/02_modes_startup_holdover.md). -/
def regMapPwr : List RegDesc := [
  ⟨"PWR_MODE", 0x100000, [], 0x0, 0xFF, 0x0, 0x0, 0x0, 0x0, 0x0, 0x1, 0xFF, 0x0⟩,
  ⟨"PWR_MODE_REQ", 0x100004, [], 0x0, 0x0, 0x0, 0x0, 0xFF07, 0x0, 0x0, 0x0, 0x0, 0x0⟩,
  ⟨"PWR_RESET_CAUSE", 0x100008, [], 0x0, 0x0, 0x3F, 0x0, 0x0, 0x0, 0x0, 0x1, 0x0, 0x0⟩,
  ⟨"PWR_RESET_CMD", 0x10000C, [], 0x0, 0x0, 0x0, 0x0, 0xFFFFFFFF, 0x0, 0x0, 0x0, 0x0, 0x0⟩,
  ⟨"PWR_WAKE_CTRL", 0x100010, [], 0x3FFF, 0x4000, 0x0, 0x0, 0x0, 0x0, 0x0, 0x0, 0x0, 0x0⟩,
  ⟨"PWR_WAKE_CAUSE", 0x100014, [], 0x0, 0x0, 0x7FFF, 0x0, 0x0, 0x0, 0x0, 0x0, 0x0, 0x0⟩,
  ⟨"PWR_SLEEP_CFG", 0x100018, [], 0xFFFF, 0x0, 0x0, 0x0, 0x0, 0x0, 0x0, 0x7D0, 0x0, 0x0⟩,
  ⟨"PWR_PFW_CFG", 0x10001C, [], 0xFFFFFFFF, 0x0, 0x0, 0x0, 0x0, 0x0, 0x0, 0x0, 0x0, 0x0⟩,
  ⟨"PWR_PFW_STAT", 0x100020, [], 0x0, 0x2, 0x1, 0x0, 0x0, 0x0, 0x0, 0x0, 0x0, 0x0⟩,
  ⟨"PWR_FLUSH_CFG", 0x100024, [], 0x0, 0x0, 0x0, 0x0, 0x0, 0x0, 0xFFFFF0FF, 0x0, 0x0, 0x0⟩,
  ⟨"PWR_FLUSH_STAT", 0x100028, [], 0x0, 0xFFFF000F, 0x0, 0x0, 0x0, 0x0, 0x0, 0x0, 0xFFFF000F, 0x0⟩,
  ⟨"PWR_HOLD_CNT_LO", 0x10002C, [], 0x0, 0xFFFFFFFF, 0x0, 0x0, 0x0, 0x0, 0x0, 0x0, 0x0, 0x0⟩,
  ⟨"PWR_HOLD_CNT_HI", 0x100030, [], 0x0, 0xFFFFFFFF, 0x0, 0x0, 0x0, 0x0, 0x0, 0x0, 0x0, 0x0⟩,
  ⟨"PWR_HOLD_STAT", 0x100034, [], 0x0, 0x1, 0x0, 0x0, 0x0, 0x0, 0x0, 0x1, 0x0, 0x0⟩,
  ⟨"PWR_LSW_CFG", 0x100040, [(4, 0x4)], 0x7FFFF, 0x0, 0x0, 0x0, 0x0, 0x0, 0x0, 0x0, 0x0, 0x0⟩,
  ⟨"PWR_CMP_CFG", 0x100050, [(8, 0x4)], 0xFFFF3FFF, 0x0, 0x0, 0x0, 0x0, 0x0, 0x0, 0x0, 0x0, 0x0⟩,
  ⟨"PWR_LOG_STAT", 0x100070, [], 0x0, 0xFFFF00FF, 0x0, 0x0, 0x0, 0x0, 0x0, 0x0, 0x0, 0x0⟩,
  ⟨"PWR_LOG_W0", 0x101000, [(256, 0x10)], 0x0, 0xFFFFFFFF, 0x0, 0x0, 0x0, 0x0, 0x0, 0x0, 0x0, 0x0⟩,
  ⟨"PWR_LOG_W1", 0x101004, [(256, 0x10)], 0x0, 0xFFFFFFFF, 0x0, 0x0, 0x0, 0x0, 0x0, 0x0, 0x0, 0x0⟩,
  ⟨"PWR_LOG_W2", 0x101008, [(256, 0x10)], 0x0, 0xFFFFFFFF, 0x0, 0x0, 0x0, 0x0, 0x0, 0x0, 0x0, 0x0⟩,
  ⟨"PWR_LOG_W3", 0x10100C, [(256, 0x10)], 0x0, 0xFFFFFFFF, 0x0, 0x0, 0x0, 0x0, 0x0, 0x0, 0x0, 0x0⟩]
/-- Register map of TB (spec/03_time_base.md). -/
def regMapTb : List RegDesc := [
  ⟨"TB_CTRL", 0x200000, [], 0xF, 0x0, 0x0, 0x0, 0x0, 0x0, 0x0, 0x4, 0x0, 0x0⟩,
  ⟨"TB_STAT", 0x200004, [], 0x0, 0x3FF, 0x0, 0x0, 0x0, 0x0, 0x0, 0x0, 0x8, 0x0⟩,
  ⟨"TB_BELL", 0x200008, [], 0x0, 0x0, 0x1FF, 0x0, 0x0, 0x0, 0x0, 0x0, 0x1FF, 0x0⟩,
  ⟨"TB_BELL_MASK", 0x20000C, [], 0x1FF, 0x0, 0x0, 0x0, 0x0, 0x0, 0x0, 0x0, 0x1FF, 0x0⟩,
  ⟨"TB_ST", 0x200010, [], 0x0, 0xFFFFFFFF, 0x0, 0x0, 0x0, 0x0, 0x0, 0x0, 0xFFFFFFFF, 0x0⟩,
  ⟨"TB_ST_HI", 0x200014, [], 0x0, 0xFFFFFFFF, 0x0, 0x0, 0x0, 0x0, 0x0, 0x0, 0xFFFFFFFF, 0x0⟩,
  ⟨"TB_WRAP_CNT", 0x200018, [], 0x0, 0xFFFFFFFF, 0x0, 0x0, 0x0, 0x0, 0x0, 0x0, 0xFFFFFFFF, 0x0⟩,
  ⟨"TB_TAI_NS", 0x200020, [], 0x0, 0xFFFFFFFF, 0x0, 0x0, 0x0, 0x0, 0x0, 0x0, 0x0, 0x0⟩,
  ⟨"TB_TAI_SEC_LO", 0x200024, [], 0x0, 0xFFFFFFFF, 0x0, 0x0, 0x0, 0x0, 0x0, 0x0, 0x0, 0x0⟩,
  ⟨"TB_TAI_SEC_HI", 0x200028, [], 0x0, 0xFFFF, 0x0, 0x0, 0x0, 0x0, 0x0, 0x0, 0x0, 0x0⟩,
  ⟨"TB_TAI_FRAC", 0x20002C, [], 0x0, 0xFFFF, 0x0, 0x0, 0x0, 0x0, 0x0, 0x0, 0x0, 0x0⟩,
  ⟨"TB_TAI_SET_NS", 0x200030, [], 0xFFFFFFFF, 0x0, 0x0, 0x0, 0x0, 0x0, 0x0, 0x0, 0x0, 0x0⟩,
  ⟨"TB_TAI_SET_SEC_LO", 0x200034, [], 0xFFFFFFFF, 0x0, 0x0, 0x0, 0x0, 0x0, 0x0, 0x0, 0x0, 0x0⟩,
  ⟨"TB_TAI_SET_SEC_HI", 0x200038, [], 0xFFFFFFFF, 0x0, 0x0, 0x0, 0x0, 0x0, 0x0, 0x0, 0x0, 0x0⟩,
  ⟨"TB_TAI_SET_CMD", 0x20003C, [], 0x0, 0x2, 0x0, 0x0, 0x1, 0x0, 0x0, 0x0, 0x0, 0x0⟩,
  ⟨"TB_ANCHOR_ST", 0x200040, [], 0x0, 0xFFFFFFFF, 0x0, 0x0, 0x0, 0x0, 0x0, 0x0, 0xFFFFFFFF, 0x0⟩,
  ⟨"TB_ANCHOR_NS", 0x200044, [], 0x0, 0xFFFFFFFF, 0x0, 0x0, 0x0, 0x0, 0x0, 0x0, 0xFFFFFFFF, 0x0⟩,
  ⟨"TB_ANCHOR_SEC_LO", 0x200048, [], 0x0, 0xFFFFFFFF, 0x0, 0x0, 0x0, 0x0, 0x0, 0x0, 0xFFFFFFFF, 0x0⟩,
  ⟨"TB_ANCHOR_SEC_HI", 0x20004C, [], 0x0, 0xFFFFF, 0x0, 0x0, 0x0, 0x0, 0x0, 0x0, 0xFFFFF, 0x0⟩,
  ⟨"TB_SRV_CFG", 0x200050, [], 0x7F1, 0x0, 0x0, 0x0, 0x0, 0x0, 0x0, 0x20, 0x0, 0x0⟩,
  ⟨"TB_SRV_GAIN", 0x200054, [], 0xFFFFFFFF, 0x0, 0x0, 0x0, 0x0, 0x0, 0x0, 0x10008000, 0x0, 0x0⟩,
  ⟨"TB_FREQ_LIMIT", 0x200058, [], 0xFFFFF, 0x0, 0x0, 0x0, 0x0, 0x0, 0x0, 0x186A0, 0x0, 0x0⟩,
  ⟨"TB_SRV_MS_LO", 0x200060, [], 0x0, 0x0, 0x0, 0x0, 0xFFFFFFFF, 0x0, 0x0, 0x0, 0x0, 0x0⟩,
  ⟨"TB_SRV_MS_HI", 0x200064, [], 0x0, 0x0, 0x0, 0x0, 0xFFFFFFFF, 0x0, 0x0, 0x0, 0x0, 0x0⟩,
  ⟨"TB_SRV_PD", 0x200068, [], 0x0, 0x0, 0x0, 0x0, 0xFFFFFFFF, 0x0, 0x0, 0x0, 0x0, 0x0⟩,
  ⟨"TB_SRV_CMD", 0x20006C, [], 0x0, 0x0, 0x0, 0x0, 0x1, 0x0, 0x0, 0x0, 0x0, 0x0⟩,
  ⟨"TB_SRV_FREQ_LO", 0x200070, [], 0x0, 0xFFFFFFFF, 0x0, 0x0, 0x0, 0x0, 0x0, 0x0, 0x0, 0x0⟩,
  ⟨"TB_SRV_FREQ_HI", 0x200074, [], 0x0, 0xFFFFFFFF, 0x0, 0x0, 0x0, 0x0, 0x0, 0x0, 0x0, 0x0⟩,
  ⟨"TB_SRV_INTEG_LO", 0x200078, [], 0x0, 0xFFFFFFFF, 0x0, 0x0, 0x0, 0x0, 0x0, 0x0, 0x0, 0x0⟩,
  ⟨"TB_SRV_INTEG_HI", 0x20007C, [], 0x0, 0xFFFFFFFF, 0x0, 0x0, 0x0, 0x0, 0x0, 0x0, 0x0, 0x0⟩,
  ⟨"TB_SRV_LAST_LO", 0x200080, [], 0x0, 0xFFFFFFFF, 0x0, 0x0, 0x0, 0x0, 0x0, 0x0, 0xFFFFFFFF, 0x0⟩,
  ⟨"TB_SRV_LAST_HI", 0x200084, [], 0x0, 0xFFFFFFFF, 0x0, 0x0, 0x0, 0x0, 0x0, 0x0, 0xFFFFFFFF, 0x0⟩,
  ⟨"TB_JUMP_LIMIT", 0x200090, [], 0xFFFFFFFF, 0x0, 0x0, 0x0, 0x0, 0x0, 0x0, 0x3E8, 0x0, 0x0⟩,
  ⟨"TB_JUMP_CONFIRM", 0x200094, [], 0xFF, 0x0, 0x0, 0x0, 0x0, 0x0, 0x0, 0x4, 0x0, 0x0⟩,
  ⟨"TB_JUMP_TOL", 0x200098, [], 0xFFFFFFFF, 0x0, 0x0, 0x0, 0x0, 0x0, 0x0, 0xC8, 0x0, 0x0⟩,
  ⟨"TB_JUMP_CMD", 0x20009C, [], 0x0, 0x0, 0x0, 0x0, 0x1, 0x0, 0x0, 0x0, 0x0, 0x0⟩,
  ⟨"TB_JUMP_STAT", 0x2000A0, [], 0x0, 0xFFFF03FF, 0x0, 0x0, 0x0, 0x0, 0x0, 0x0, 0xFFFF03FF, 0x0⟩,
  ⟨"TB_JUMP_LAST_LO", 0x2000A4, [], 0x0, 0xFFFFFFFF, 0x0, 0x0, 0x0, 0x0, 0x0, 0x0, 0x0, 0x0⟩,
  ⟨"TB_JUMP_LAST_HI", 0x2000A8, [], 0x0, 0xFFFFFFFF, 0x0, 0x0, 0x0, 0x0, 0x0, 0x0, 0x0, 0x0⟩,
  ⟨"TB_PPS_OUT_CFG", 0x2000B0, [], 0xFFFFF003, 0x0, 0x0, 0x0, 0x0, 0x0, 0x0, 0x0, 0x0, 0x0⟩,
  ⟨"TB_PPS_IN_CFG", 0x2000B4, [], 0xFFFFFF03, 0x0, 0x4, 0x0, 0x0, 0x0, 0x0, 0x0, 0x0, 0x0⟩,
  ⟨"TB_PPS_IN_ST", 0x2000B8, [], 0x0, 0xFFFFFFFF, 0x0, 0x0, 0x0, 0x0, 0x0, 0x0, 0xFFFFFFFF, 0x0⟩,
  ⟨"TB_PPS_IN_FRAC", 0x2000BC, [], 0x0, 0x3F, 0x0, 0x0, 0x0, 0x0, 0x0, 0x0, 0x3F, 0x0⟩,
  ⟨"TB_CLK_CFG", 0x2000C0, [], 0x1, 0xFFFFFF00, 0x0, 0x0, 0x0, 0x0, 0x0, 0x0, 0x0, 0x0⟩,
  ⟨"TB_CLOCK_ID_LO", 0x2000C8, [], 0xFFFFFFFF, 0x0, 0x0, 0x0, 0x0, 0x0, 0x0, 0x0, 0x0, 0x0⟩,
  ⟨"TB_CLOCK_ID_HI", 0x2000CC, [], 0xFFFFFFFF, 0x0, 0x0, 0x0, 0x0, 0x0, 0x0, 0x0, 0x0, 0x0⟩,
  ⟨"TB_PORT_CFG", 0x200100, [(20, 0x4)], 0x1F, 0x0, 0x0, 0x0, 0x0, 0x0, 0x0, 0x0, 0x0, 0x0⟩,
  ⟨"TB_PORT_LAT", 0x200180, [(20, 0x4)], 0xFFFFFFFF, 0x0, 0x0, 0x0, 0x0, 0x0, 0x0, 0x0, 0x0, 0x0⟩,
  ⟨"TB_PORT_LINK_DLY", 0x200200, [(20, 0x4)], 0xFFFFFFFF, 0x0, 0x0, 0x0, 0x0, 0x0, 0x0, 0x0, 0x0, 0x0⟩,
  ⟨"TB_TSQ_LOST", 0x200280, [(20, 0x4)], 0x0, 0x0, 0x0, 0x0, 0x0, 0xFFFFFFFF, 0x0, 0x0, 0xFFFFFFFF, 0x0⟩,
  ⟨"TB_TSQ_STAT", 0x200300, [(20, 0x4)], 0x0, 0xF3F, 0x0, 0x0, 0x0, 0x0, 0x0, 0x0, 0xF3F, 0x0⟩,
  ⟨"TB_TSQ_ENTRY_W0", 0x201000, [(20, 0x10)], 0x0, 0xFFFFFFFF, 0x0, 0x0, 0x0, 0x0, 0x0, 0x0, 0xFFFFFFFF, 0x0⟩,
  ⟨"TB_TSQ_ENTRY_W1", 0x201004, [(20, 0x10)], 0x0, 0xFFFF007F, 0x0, 0x0, 0x0, 0x0, 0x0, 0x0, 0xFFFF007F, 0x0⟩,
  ⟨"TB_TSQ_ENTRY_W2", 0x201008, [(20, 0x10)], 0x0, 0xFFFF, 0x0, 0x0, 0x0, 0x0, 0x0, 0x0, 0xFFFF, 0x0⟩,
  ⟨"TB_TSQ_ENTRY_W3", 0x20100C, [(20, 0x10)], 0x0, 0x1, 0x0, 0x0, 0x0, 0x0, 0x0, 0x0, 0x1, 0x0⟩]
/-- Register map of TRD (spec/04_treadles_wave_time.md). -/
def regMapTrd : List RegDesc := [
  ⟨"TRD_CTRL", 0x300000, [], 0x1, 0x0, 0x0, 0x0, 0x0, 0x0, 0x0, 0x0, 0x1, 0x0⟩,
  ⟨"TRD_BELL", 0x300004, [], 0x0, 0xFFFF, 0xFFFF0000, 0x0, 0x0, 0x0, 0x0, 0x0, 0xFFFFFFFF, 0x0⟩,
  ⟨"TRD_BELL_MASK", 0x300008, [], 0xFFFFFFFF, 0x0, 0x0, 0x0, 0x0, 0x0, 0x0, 0x0, 0xFFFFFFFF, 0x0⟩,
  ⟨"TRD_START", 0x30000C, [], 0x0, 0x0, 0x0, 0x0, 0x3FFFF, 0x0, 0x0, 0x0, 0x0, 0x0⟩,
  ⟨"TRD_START_AT", 0x300010, [], 0xFFFFFFFF, 0x0, 0x0, 0x0, 0x0, 0x0, 0x0, 0x0, 0xFFFFFFFF, 0x0⟩,
  ⟨"TRD_GRP_CFG", 0x300020, [(4, 0x4)], 0xFFFF, 0xE0000, 0x0, 0x0, 0x10000, 0x0, 0x0, 0x0, 0xEFFFF, 0x0⟩,
  ⟨"TRD_PAT_GRP", 0x300030, [], 0x1FFFFF, 0x0, 0x0, 0x0, 0x0, 0x0, 0x0, 0x0, 0x1FFFFF, 0x0⟩,
  ⟨"TRD_LATCH_CFG", 0x300040, [(8, 0x4)], 0x3FFF, 0x0, 0x0, 0x4000, 0x0, 0x0, 0x0, 0x0, 0x7FFF, 0x0⟩,
  ⟨"TRD_LATCH_W0", 0x300100, [(8, 0x10)], 0x0, 0xFFFFFFFF, 0x0, 0x0, 0x0, 0x0, 0x0, 0x0, 0xFFFFFFFF, 0x0⟩,
  ⟨"TRD_LATCH_W1", 0x300104, [(8, 0x10)], 0x0, 0xFFFF003F, 0x0, 0x0, 0x0, 0x0, 0x0, 0x0, 0xFFFF003F, 0x0⟩,
  ⟨"TRD_LATCH_W2", 0x300108, [(8, 0x10), (2, 0x4)], 0x0, 0xFFFFFFFF, 0x0, 0x0, 0x0, 0x0, 0x0, 0x0, 0xFFFFFFFF, 0x0⟩,
  ⟨"TRD_PAT_CFG", 0x300200, [(8, 0x4)], 0xFFFF003F, 0x0, 0x0, 0x0, 0x0, 0x0, 0x0, 0x0, 0xFFFF003F, 0x0⟩,
  ⟨"TRD_PAT_LIFT", 0x300220, [(8, 0x4)], 0xFFFFFFFF, 0x0, 0x0, 0x0, 0x0, 0x0, 0x0, 0x0, 0xFFFFFFFF, 0x0⟩,
  ⟨"TRD_CFG", 0x301000, [(16, 0x80)], 0x77, 0x0, 0x0, 0x0, 0x0, 0x0, 0x0, 0x0, 0x77, 0x0⟩,
  ⟨"TRD_INC_LO", 0x301004, [(16, 0x80)], 0xFFFFFFFF, 0x0, 0x0, 0x0, 0x0, 0x0, 0x0, 0x0, 0xFFFFFFFF, 0x0⟩,
  ⟨"TRD_INC_HI", 0x301008, [(16, 0x80)], 0xFFFF, 0x0, 0x0, 0x0, 0x0, 0x0, 0x0, 0x0, 0xFFFF, 0x0⟩,
  ⟨"TRD_ACC_LO", 0x30100C, [(16, 0x80)], 0x0, 0xFFFFFFFF, 0x0, 0x0, 0x0, 0x0, 0x0, 0x0, 0xFFFFFFFF, 0x0⟩,
  ⟨"TRD_ACC_HI", 0x301010, [(16, 0x80)], 0x0, 0xFFFF, 0x0, 0x0, 0x0, 0x0, 0x0, 0x0, 0xFFFF, 0x0⟩,
  ⟨"TRD_CYCLE", 0x301014, [(16, 0x80)], 0x0, 0xFFFFFFFF, 0x0, 0x0, 0x0, 0x0, 0x0, 0x0, 0xFFFFFFFF, 0x0⟩,
  ⟨"TRD_LOCK_CFG", 0x301018, [(16, 0x80)], 0xFFFF03FF, 0x0, 0x0, 0x0, 0x0, 0x0, 0x0, 0x4000200, 0xFFFF03FF, 0x0⟩,
  ⟨"TRD_LOCK_GAIN", 0x30101C, [(16, 0x80)], 0xFFFFFFFF, 0x0, 0x0, 0x0, 0x0, 0x0, 0x0, 0x8004000, 0xFFFFFFFF, 0x0⟩,
  ⟨"TRD_LOCK_MIN", 0x301020, [(16, 0x80)], 0xFFFFFFFF, 0x0, 0x0, 0x0, 0x0, 0x0, 0x0, 0x0, 0xFFFFFFFF, 0x0⟩,
  ⟨"TRD_LOCK_MAX", 0x301024, [(16, 0x80)], 0xFFFFFFFF, 0x0, 0x0, 0x0, 0x0, 0x0, 0x0, 0x0, 0xFFFFFFFF, 0x0⟩,
  ⟨"TRD_LOCK_ACCEPT", 0x301028, [(16, 0x80)], 0xFFFFFFFF, 0x0, 0x0, 0x0, 0x0, 0x0, 0x0, 0x4000000, 0xFFFFFFFF, 0x0⟩,
  ⟨"TRD_PHASE_OFS", 0x30102C, [(16, 0x80)], 0xFFFFFFFF, 0x0, 0x0, 0x0, 0x0, 0x0, 0x0, 0x0, 0xFFFFFFFF, 0x0⟩,
  ⟨"TRD_PHASE_ADJ", 0x301030, [(16, 0x80)], 0x0, 0x0, 0x0, 0x0, 0xFFFFFFFF, 0x0, 0x0, 0x0, 0x0, 0x0⟩,
  ⟨"TRD_LOCK_STAT", 0x301034, [(16, 0x80)], 0x0, 0xFFFF03, 0x0, 0x0, 0x0, 0x0, 0x0, 0x0, 0xFFFF03, 0x0⟩,
  ⟨"TRD_LOCK_ERR", 0x301038, [(16, 0x80)], 0x0, 0xFFFFFFFF, 0x0, 0x0, 0x0, 0x0, 0x0, 0x0, 0xFFFFFFFF, 0x0⟩,
  ⟨"TRD_STRB_CFG", 0x301040, [(16, 0x80)], 0x1FFFFF, 0x0, 0x0, 0x0, 0x0, 0x0, 0x0, 0x0, 0x1FFFFF, 0x0⟩,
  ⟨"TRD_STEP_CFG", 0x301044, [(16, 0x80)], 0xFFF3FFF, 0x0, 0x0, 0x0, 0x0, 0x0, 0x0, 0x0, 0xFFF3FFF, 0x0⟩,
  ⟨"TRD_POS", 0x301048, [(16, 0x80)], 0xFFFFFFFF, 0x0, 0x0, 0x0, 0x0, 0x0, 0x0, 0x0, 0xFFFFFFFF, 0x0⟩,
  ⟨"TRD_RAMP_CFG", 0x30104C, [(16, 0x80)], 0xFFFF0001, 0x0, 0x0, 0x0, 0x0, 0x0, 0x0, 0x0, 0xFFFF0001, 0x0⟩,
  ⟨"TRD_RAMP_ACCEL", 0x301050, [(16, 0x80)], 0xFFFFFFFF, 0x0, 0x0, 0x0, 0x0, 0x0, 0x0, 0x0, 0xFFFFFFFF, 0x0⟩,
  ⟨"TRD_RAMP_VMAX", 0x301054, [(16, 0x80)], 0x7FFFFFFF, 0x0, 0x0, 0x0, 0x0, 0x0, 0x0, 0x0, 0x7FFFFFFF, 0x0⟩,
  ⟨"TRD_RAMP_TARGET", 0x301058, [(16, 0x80)], 0xFFFFFFFF, 0x0, 0x0, 0x0, 0x0, 0x0, 0x0, 0x0, 0xFFFFFFFF, 0x0⟩,
  ⟨"TRD_RAMP_CMD", 0x30105C, [(16, 0x80)], 0x0, 0x0, 0x0, 0x0, 0x3, 0x0, 0x0, 0x0, 0x0, 0x0⟩,
  ⟨"TRD_TSTAT", 0x301060, [(16, 0x80)], 0x0, 0x0, 0xFFF, 0x0, 0x0, 0x0, 0x0, 0x0, 0xFFF, 0x0⟩,
  ⟨"TRD_TSTAT_MASK", 0x301064, [(16, 0x80)], 0xFFF, 0x0, 0x0, 0x0, 0x0, 0x0, 0x0, 0x0, 0xFFF, 0x0⟩,
  ⟨"TRD_PAT_TAB", 0x308000, [(8, 0x1000), (1024, 0x4)], 0xFFFFFFFF, 0x0, 0x0, 0x0, 0x0, 0x0, 0x0, 0x0, 0x0, 0x0⟩]
/-- Register map of CUT (spec/08_channels_cutter.md). -/
def regMapCut : List RegDesc := [
  ⟨"CUT_CTRL", 0x400000, [], 0x3, 0x0, 0x0, 0x0, 0x4, 0x0, 0x0, 0x2, 0x3, 0x0⟩,
  ⟨"CUT_STAT", 0x400004, [], 0x0, 0x3, 0x0, 0x0, 0x0, 0x0, 0x0, 0x0, 0x3, 0x0⟩,
  ⟨"CUT_BELL", 0x400008, [], 0x0, 0x0, 0x7FF, 0x0, 0x0, 0x0, 0x0, 0x0, 0x7FF, 0x0⟩,
  ⟨"CUT_BELL_MASK", 0x40000C, [], 0x7FF, 0x0, 0x0, 0x0, 0x0, 0x0, 0x0, 0x0, 0x7FF, 0x0⟩,
  ⟨"CUT_CKPT_CFG", 0x400010, [], 0xFF0001, 0x0, 0x0, 0x0, 0x0, 0x0, 0x0, 0x400000, 0xFF0001, 0x0⟩,
  ⟨"CUT_CHAN_COUNT", 0x400014, [], 0x0, 0x3FF, 0x0, 0x0, 0x0, 0x0, 0x0, 0x0, 0x3FF, 0x0⟩,
  ⟨"CUT_LATE_TOTAL", 0x400018, [], 0x0, 0x0, 0x0, 0x0, 0x0, 0xFFFFFFFF, 0x0, 0x0, 0xFFFFFFFF, 0x0⟩,
  ⟨"CUT_MIGRATE_CNT", 0x40001C, [], 0x0, 0x0, 0x0, 0x0, 0x0, 0xFFFFFFFF, 0x0, 0x0, 0xFFFFFFFF, 0x0⟩,
  ⟨"CUT_PORT_SHARE", 0x400020, [(20, 0x4)], 0x7F, 0x0, 0x0, 0x0, 0x0, 0x0, 0x0, 0x4B, 0x7F, 0x0⟩,
  ⟨"CUT_WITHHELD", 0x400070, [], 0x0, 0x0, 0x0, 0x0, 0x0, 0xFFFFFFFF, 0x0, 0x0, 0xFFFFFFFF, 0x0⟩,
  ⟨"CUT_BANK_LOAD", 0x400080, [(64, 0x4)], 0x0, 0xFFFFFFFF, 0x0, 0x0, 0x0, 0x0, 0x0, 0x0, 0xFFFFFFFF, 0x0⟩,
  ⟨"CUT_ENG_LOAD", 0x400200, [(96, 0x4)], 0x0, 0x3F03FF, 0x0, 0x0, 0x0, 0x0, 0x0, 0x0, 0x3F03FF, 0x0⟩,
  ⟨"CUT_CMD", 0x400400, [(4, 0x100)], 0x0, 0x0, 0x0, 0x0, 0xFF, 0x0, 0x0, 0x0, 0x0, 0x0⟩,
  ⟨"CUT_CMD_STAT", 0x400404, [(4, 0x100)], 0x0, 0xFFFF01FF, 0x0, 0x0, 0x0, 0x0, 0x0, 0x0, 0xFFFF01FF, 0x0⟩,
  ⟨"CUT_ARG", 0x400408, [(4, 0x100), (4, 0x4)], 0xFFFFFFFF, 0x0, 0x0, 0x0, 0x0, 0x0, 0x0, 0x0, 0xFFFFFFFF, 0x0⟩,
  ⟨"CUT_RES", 0x400418, [(4, 0x100), (2, 0x4)], 0x0, 0xFFFFFFFF, 0x0, 0x0, 0x0, 0x0, 0x0, 0x0, 0xFFFFFFFF, 0x0⟩,
  ⟨"CUT_DESC", 0x400440, [(4, 0x100), (48, 0x4)], 0xFFFFFFFF, 0x0, 0x0, 0x0, 0x0, 0x0, 0x0, 0x0, 0xFFFFFFFF, 0x0⟩,
  ⟨"CUT_CHAN_W0", 0x400800, [(512, 0x10)], 0x0, 0xFFFFFFFF, 0x0, 0x0, 0x0, 0x0, 0x0, 0x0, 0xFFFFFFFF, 0x0⟩,
  ⟨"CUT_CHAN_W1", 0x400804, [(512, 0x10)], 0x0, 0x3FFF, 0x0, 0x0, 0x0, 0x0, 0x0, 0x0, 0x3FFF, 0x0⟩,
  ⟨"CUT_CHAN_W2", 0x400808, [(512, 0x10)], 0x0, 0xFFFFFFFF, 0x0, 0x0, 0x0, 0x0, 0x0, 0x0, 0xFFFFFFFF, 0x0⟩,
  ⟨"CUT_CHAN_W3", 0x40080C, [(512, 0x10)], 0x0, 0xFFFFFFFF, 0x0, 0x0, 0x0, 0x0, 0x0, 0x0, 0xFFFFFFFF, 0x0⟩,
  ⟨"CUT_PACK_W0", 0x402800, [(64, 0x8)], 0x0, 0xFFFFFFFF, 0x0, 0x0, 0x0, 0x0, 0x0, 0x0, 0xFFFFFFFF, 0x0⟩,
  ⟨"CUT_PACK_W1", 0x402804, [(64, 0x8)], 0x0, 0xFFFF, 0x0, 0x0, 0x0, 0x0, 0x0, 0x0, 0xFFFF, 0x0⟩,
  ⟨"CUT_EVT_SUB", 0x402A00, [(19, 0x4)], 0xFFFFFFFF, 0x0, 0x0, 0x0, 0x0, 0x0, 0x0, 0x0, 0xFFFFFFFF, 0x0⟩]
/-- Register map of MBX (spec/17_mailboxes_bridges.md). -/
def regMapMbx : List RegDesc := [
  ⟨"MBX_HBELL", 0x500000, [(2, 0x10)], 0x0, 0x0, 0xFFFFFFFF, 0x0, 0x0, 0x0, 0x0, 0x0, 0xFFFFFFFF, 0x0⟩,
  ⟨"MBX_HMASK", 0x500004, [(2, 0x10)], 0xFFFFFFFF, 0x0, 0x0, 0x0, 0x0, 0x0, 0x0, 0x0, 0xFFFFFFFF, 0x0⟩,
  ⟨"MBX_CBELL", 0x500020, [], 0x0, 0x0, 0xFFFFFFFF, 0x0, 0x0, 0x0, 0x0, 0x0, 0xFFFFFFFF, 0x0⟩,
  ⟨"MBX_CMASK", 0x500024, [], 0xFFFFFFFF, 0x0, 0x0, 0x0, 0x0, 0x0, 0x0, 0x0, 0xFFFFFFFF, 0x0⟩,
  ⟨"MBX_SBELL", 0x500028, [], 0x0, 0x0, 0xFFFFFFFF, 0x0, 0x0, 0x0, 0x0, 0x0, 0xFFFFFFFF, 0x0⟩,
  ⟨"MBX_SMASK", 0x50002C, [], 0xFFFFFFFF, 0x0, 0x0, 0x0, 0x0, 0x0, 0x0, 0x0, 0xFFFFFFFF, 0x0⟩,
  ⟨"MBX_YBELL", 0x500030, [], 0x0, 0x0, 0xFFFFFFFF, 0x0, 0x0, 0x0, 0x0, 0x0, 0xFFFFFFFF, 0x0⟩,
  ⟨"MBX_YMASK", 0x500034, [], 0xFFFFFFFF, 0x0, 0x0, 0x0, 0x0, 0x0, 0x0, 0x0, 0xFFFFFFFF, 0x0⟩,
  ⟨"MBX_HFULL", 0x500040, [(8, 0x4)], 0x0, 0xFFFFFFFF, 0x0, 0x0, 0x0, 0x0, 0x0, 0x0, 0xFFFFFFFF, 0x0⟩,
  ⟨"MBX_CNT", 0x500060, [(3, 0x4)], 0x0, 0x0, 0x0, 0x0, 0x0, 0xFFFFFFFF, 0x0, 0x0, 0xFFFFFFFF, 0x0⟩,
  ⟨"MBX_POP", 0x500070, [], 0x0, 0x0, 0x0, 0x0, 0x1FF, 0x0, 0x0, 0x0, 0x0, 0x0⟩,
  ⟨"MBX_EBELL", 0x500100, [(96, 0x8)], 0x0, 0x0, 0xFFFFFFFF, 0x0, 0x0, 0x0, 0x0, 0x0, 0xFFFFFFFF, 0x0⟩,
  ⟨"MBX_EMASK", 0x500104, [(96, 0x8)], 0xFFFFFFFF, 0x0, 0x0, 0x0, 0x0, 0x0, 0x0, 0x0, 0xFFFFFFFF, 0x0⟩,
  ⟨"MBX_PARTY", 0x501000, [(256, 0x80), (2, 0x4)], 0x0, 0xFFFFFFFF, 0x0, 0x0, 0x0, 0x0, 0x0, 0x0, 0xFFFFFFFF, 0x0⟩,
  ⟨"MBX_MSTAT", 0x501008, [(256, 0x80)], 0x0, 0x9F1F0FFF, 0x0, 0x0, 0x0, 0x0, 0x0, 0x0, 0x9F1F0FFF, 0x0⟩,
  ⟨"MBX_SEND", 0x50100C, [(256, 0x80)], 0x0, 0x0, 0x0, 0x0, 0xFFF0000F, 0x0, 0x0, 0x0, 0x0, 0x0⟩,
  ⟨"MBX_TX", 0x501010, [(256, 0x80), (8, 0x4)], 0xFFFFFFFF, 0x0, 0x0, 0x0, 0x0, 0x0, 0x0, 0x0, 0xFFFFFFFF, 0x0⟩,
  ⟨"MBX_RXSTAT", 0x501030, [(256, 0x80), (2, 0x8)], 0x0, 0xFFFF003F, 0x0, 0x0, 0x0, 0x0, 0x0, 0x0, 0xFFFF003F, 0x0⟩,
  ⟨"MBX_RXST", 0x501034, [(256, 0x80), (2, 0x8)], 0x0, 0xFFFFFFFF, 0x0, 0x0, 0x0, 0x0, 0x0, 0x0, 0xFFFFFFFF, 0x0⟩,
  ⟨"MBX_RX", 0x501040, [(256, 0x80), (2, 0x20), (8, 0x4)], 0x0, 0xFFFFFFFF, 0x0, 0x0, 0x0, 0x0, 0x0, 0x0, 0xFFFFFFFF, 0x0⟩]
/-- Register map of HBR (spec/17_mailboxes_bridges.md). -/
def regMapHbr : List RegDesc := [
  ⟨"HBR_CTRL", 0x600000, [], 0x7, 0x0, 0x0, 0x0, 0x0, 0x0, 0x0, 0x1, 0x7, 0x0⟩,
  ⟨"HBR_STAT", 0x600004, [], 0x0, 0xF, 0x0, 0x0, 0x0, 0x0, 0x0, 0x0, 0xF, 0x0⟩,
  ⟨"HBR_BELL", 0x600008, [], 0x0, 0x0, 0x3FF, 0x0, 0x0, 0x0, 0x0, 0x0, 0x3FF, 0x0⟩,
  ⟨"HBR_BELL_MASK", 0x60000C, [], 0x3FF, 0x0, 0x0, 0x0, 0x0, 0x0, 0x0, 0x0, 0x3FF, 0x0⟩,
  ⟨"HBR_FENCE", 0x600010, [], 0x0, 0x0, 0x0, 0x0, 0x0, 0x1, 0x0, 0x0, 0x1, 0x0⟩,
  ⟨"HBR_LEDGER_HEAD", 0x600014, [], 0x0, 0xFFFF003F, 0x0, 0x0, 0x0, 0x0, 0x0, 0x0, 0xFFFF003F, 0x0⟩,
  ⟨"HBR_WSEQ", 0x600018, [(2, 0x4)], 0x0, 0xFFFF, 0x0, 0x0, 0x0, 0x0, 0x0, 0x0, 0xFFFF, 0x0⟩,
  ⟨"HBR_LOCK_CFG", 0x600020, [], 0xFFFF, 0x0, 0x0, 0x0, 0x0, 0x0, 0x0, 0xA, 0xFFFF, 0x0⟩,
  ⟨"HBR_SEM", 0x600024, [], 0x1, 0x0, 0x0, 0x0, 0x0, 0x0, 0x0, 0x0, 0x1, 0x0⟩,
  ⟨"HBR_LB_CFG", 0x600028, [], 0xFFFFFFFF, 0x0, 0x0, 0x0, 0x0, 0x0, 0x0, 0x640814, 0xFFFFFFFF, 0x0⟩,
  ⟨"HBR_OBW_BASE", 0x60002C, [], 0xFFF80000, 0x0, 0x0, 0x0, 0x0, 0x0, 0x0, 0x0, 0xFFF80000, 0x0⟩,
  ⟨"HBR_OB_STAT", 0x600030, [], 0x0, 0x0, 0x0, 0x0, 0x0, 0xFFFFFFFF, 0x0, 0x0, 0xFFFFFFFF, 0x0⟩,
  ⟨"HBR_IRQ_POLL", 0x600038, [], 0xFFFF, 0x0, 0x0, 0x0, 0x0, 0x0, 0x0, 0x9, 0xFFFF, 0x0⟩,
  ⟨"HBR_IRQ_CFG", 0x600040, [(16, 0x4)], 0x3FF, 0x0, 0x0, 0x0, 0x0, 0x0, 0x0, 0x0, 0x3FF, 0x0⟩,
  ⟨"HBR_IRQ_ST", 0x600080, [(16, 0x4)], 0x0, 0xFFFFFFFF, 0x0, 0x0, 0x0, 0x0, 0x0, 0x0, 0xFFFFFFFF, 0x0⟩,
  ⟨"HBR_CNT", 0x6000C0, [(4, 0x4)], 0x0, 0x0, 0x0, 0x0, 0x0, 0xFFFFFFFF, 0x0, 0x0, 0xFFFFFFFF, 0x0⟩,
  ⟨"HBR_RING_BASE_LO", 0x600100, [(8, 0x20)], 0xFFFFFFFF, 0x0, 0x0, 0x0, 0x0, 0x0, 0x0, 0x0, 0xFFFFFFFF, 0x0⟩,
  ⟨"HBR_RING_BASE_HI", 0x600104, [(8, 0x20)], 0xFFFFFFFF, 0x0, 0x0, 0x0, 0x0, 0x0, 0x0, 0x0, 0xFFFFFFFF, 0x0⟩,
  ⟨"HBR_RING_CFG", 0x600108, [(8, 0x20)], 0x3FFF003F, 0x0, 0x0, 0x0, 0x0, 0x0, 0x0, 0x0, 0x3FFF003F, 0x0⟩,
  ⟨"HBR_RING_HEAD", 0x60010C, [(8, 0x20)], 0x0, 0xFFF, 0x0, 0x0, 0x0, 0x0, 0x0, 0x0, 0xFFF, 0x0⟩,
  ⟨"HBR_RING_TAIL", 0x600110, [(8, 0x20)], 0xFFF, 0x0, 0x0, 0x0, 0x0, 0x0, 0x0, 0x0, 0xFFF, 0x0⟩,
  ⟨"HBR_RXR_MAP", 0x600200, [], 0xFFFF, 0x0, 0x0, 0x0, 0x0, 0x0, 0x0, 0x0, 0xFFFF, 0x0⟩,
  ⟨"HBR_LEDGER_W0", 0x600400, [(64, 0x10)], 0x0, 0xFFFFFFFF, 0x0, 0x0, 0x0, 0x0, 0x0, 0x0, 0xFFFFFFFF, 0x0⟩,
  ⟨"HBR_LEDGER_W1", 0x600404, [(64, 0x10)], 0x0, 0xF07FFFF, 0x0, 0x0, 0x0, 0x0, 0x0, 0x0, 0xF07FFFF, 0x0⟩,
  ⟨"HBR_LEDGER_W2", 0x600408, [(64, 0x10)], 0x0, 0xFFFFFFFF, 0x0, 0x0, 0x0, 0x0, 0x0, 0x0, 0xFFFFFFFF, 0x0⟩,
  ⟨"HBR_LEDGER_W3", 0x60040C, [(64, 0x10)], 0x0, 0xFFFFFFFF, 0x0, 0x0, 0x0, 0x0, 0x0, 0x0, 0xFFFFFFFF, 0x0⟩]
/-- Register map of FBR (spec/17_mailboxes_bridges.md). -/
def regMapFbr : List RegDesc := [
  ⟨"FBR_CTRL", 0x700000, [], 0x1, 0x0, 0x0, 0x0, 0x0, 0x0, 0x0, 0x0, 0x1, 0x0⟩,
  ⟨"FBR_STAT", 0x700004, [], 0x0, 0x1FFF003F, 0x0, 0x0, 0x0, 0x0, 0x0, 0x0, 0x1FFF003F, 0x0⟩,
  ⟨"FBR_BELL", 0x700008, [], 0x0, 0x0, 0x1, 0x0, 0x0, 0x0, 0x0, 0x0, 0x1, 0x0⟩,
  ⟨"FBR_BELL_MASK", 0x70000C, [], 0x1, 0x0, 0x0, 0x0, 0x0, 0x0, 0x0, 0x0, 0x1, 0x0⟩,
  ⟨"FBR_DEFAULT", 0x700010, [], 0xFFFFFFFF, 0x0, 0x0, 0x0, 0x0, 0x0, 0x0, 0x0, 0xFFFFFFFF, 0x0⟩,
  ⟨"FBR_CNT", 0x700020, [(7, 0x4)], 0x0, 0x0, 0x0, 0x0, 0x0, 0xFFFFFFFF, 0x0, 0x0, 0xFFFFFFFF, 0x0⟩,
  ⟨"FBR_STAGE_W0", 0x700040, [], 0x1F, 0x80000000, 0x0, 0x0, 0x0, 0x0, 0x0, 0x0, 0x8000001F, 0x0⟩,
  ⟨"FBR_STAGE_W1", 0x700044, [], 0x1FFFFFFF, 0x0, 0x0, 0x0, 0x0, 0x0, 0x0, 0x0, 0x1FFFFFFF, 0x0⟩,
  ⟨"FBR_STAGE_W2", 0x700048, [], 0x3FF7FFF, 0x0, 0x0, 0x0, 0x0, 0x0, 0x0, 0x0, 0x3FF7FFF, 0x0⟩,
  ⟨"FBR_STAGE_W3", 0x70004C, [], 0xFFFFFFFF, 0x0, 0x0, 0x0, 0x0, 0x0, 0x0, 0x0, 0xFFFFFFFF, 0x0⟩,
  ⟨"FBR_STAGE_W4", 0x700050, [], 0xFFFF3FFF, 0x0, 0x0, 0x0, 0x0, 0x0, 0x0, 0x0, 0xFFFF3FFF, 0x0⟩,
  ⟨"FBR_STAGE_W5", 0x700054, [], 0x3FFFFFF, 0x0, 0x0, 0x0, 0x0, 0x0, 0x0, 0x0, 0x3FFFFFF, 0x0⟩,
  ⟨"FBR_STAGE_W6", 0x700058, [], 0xFF, 0xFFFF0000, 0x0, 0x0, 0x0, 0x0, 0x0, 0x0, 0xFFFF00FF, 0x0⟩,
  ⟨"FBR_STAGE_W7", 0x70005C, [], 0x0, 0x0, 0x0, 0x0, 0x0, 0x0, 0x0, 0x0, 0x0, 0x0⟩,
  ⟨"FBR_ROUTE_W0", 0x710000, [(4096, 0x20)], 0x0, 0x8000001F, 0x0, 0x0, 0x0, 0x0, 0x0, 0x0, 0x8000001F, 0x0⟩,
  ⟨"FBR_ROUTE_W1", 0x710004, [(4096, 0x20)], 0x0, 0x1FFFFFFF, 0x0, 0x0, 0x0, 0x0, 0x0, 0x0, 0x1FFFFFFF, 0x0⟩,
  ⟨"FBR_ROUTE_W2", 0x710008, [(4096, 0x20)], 0x0, 0x3FF7FFF, 0x0, 0x0, 0x0, 0x0, 0x0, 0x0, 0x3FF7FFF, 0x0⟩,
  ⟨"FBR_ROUTE_W3", 0x71000C, [(4096, 0x20)], 0x0, 0xFFFFFFFF, 0x0, 0x0, 0x0, 0x0, 0x0, 0x0, 0xFFFFFFFF, 0x0⟩,
  ⟨"FBR_ROUTE_W4", 0x710010, [(4096, 0x20)], 0x0, 0xFFFF3FFF, 0x0, 0x0, 0x0, 0x0, 0x0, 0x0, 0xFFFF3FFF, 0x0⟩,
  ⟨"FBR_ROUTE_W5", 0x710014, [(4096, 0x20)], 0x0, 0x3FFFFFF, 0x0, 0x0, 0x0, 0x0, 0x0, 0x0, 0x3FFFFFF, 0x0⟩,
  ⟨"FBR_ROUTE_W6", 0x710018, [(4096, 0x20)], 0x0, 0xFFFF00FF, 0x0, 0x0, 0x0, 0x0, 0x0, 0x0, 0xFFFF00FF, 0x0⟩,
  ⟨"FBR_ROUTE_W7", 0x71001C, [(4096, 0x20)], 0x0, 0x0, 0x0, 0x0, 0x0, 0x0, 0x0, 0x0, 0x0, 0x0⟩,
  ⟨"FBR_TMPL", 0x740000, [(4096, 0x4)], 0xFFFFFFFF, 0x0, 0x0, 0x0, 0x0, 0x0, 0x0, 0x0, 0x0, 0x0⟩]
/-- Register map of MEM (spec/09_memory.md). -/
def regMapMem : List RegDesc := [
  ⟨"MEM_CTRL", 0x800000, [], 0x3, 0x0, 0x0, 0x0, 0x0, 0x0, 0x0, 0x3, 0x3, 0x0⟩,
  ⟨"MEM_STAT", 0x800004, [], 0x0, 0x3, 0x0, 0x0, 0x0, 0x0, 0x0, 0x0, 0x3, 0x0⟩,
  ⟨"MEM_BELL", 0x800008, [], 0x0, 0x0, 0x7F, 0x0, 0x0, 0x0, 0x0, 0x0, 0x7F, 0x0⟩,
  ⟨"MEM_BELL_MASK", 0x80000C, [], 0x7F, 0x0, 0x0, 0x0, 0x0, 0x0, 0x0, 0x0, 0x7F, 0x0⟩,
  ⟨"MEM_SCRUB_CFG", 0x800010, [], 0xFFFF, 0x0, 0x0, 0x0, 0x0, 0x0, 0x0, 0xC8, 0xFFFF, 0x0⟩,
  ⟨"MEM_SCRUB_STAT", 0x800014, [], 0x0, 0x3FFFFF, 0x0, 0x0, 0x0, 0x0, 0x0, 0x0, 0x3FFFFF, 0x0⟩,
  ⟨"MEM_ORD_STAT", 0x800018, [], 0x0, 0x0, 0x0, 0x0, 0x0, 0x1FFFFF, 0x0, 0x0, 0x1FFFFF, 0x0⟩,
  ⟨"MEM_FC_CFG", 0x800020, [], 0x0, 0x0, 0x0, 0x0, 0x0, 0x0, 0xFFFF1F, 0x630F, 0x0, 0x0⟩,
  ⟨"MEM_ERR_HEAD", 0x800030, [], 0x0, 0xFFFF001F, 0x0, 0x0, 0x0, 0x0, 0x0, 0x0, 0xFFFF001F, 0x0⟩,
  ⟨"MEM_BANK_STAT", 0x800100, [(64, 0x4)], 0x0, 0x3F, 0x0, 0x0, 0x0, 0x0, 0x0, 0x0, 0x3F, 0x0⟩,
  ⟨"MEM_BANK_CNT", 0x800200, [(64, 0x4)], 0x0, 0x0, 0x0, 0x0, 0x0, 0xFFFFFFFF, 0x0, 0x0, 0xFFFFFFFF, 0x0⟩,
  ⟨"MEM_FC_RES", 0x800400, [(254, 0x4)], 0x0, 0xFFFF007F, 0x0, 0x0, 0x0, 0x0, 0x0, 0x0, 0xFFFF007F, 0x0⟩,
  ⟨"MEM_ERR_LOG_W0", 0x800800, [(32, 0x10)], 0x0, 0xFFFFFFFF, 0x0, 0x0, 0x0, 0x0, 0x0, 0x0, 0xFFFFFFFF, 0x0⟩,
  ⟨"MEM_ERR_LOG_W1", 0x800804, [(32, 0x10)], 0x0, 0x3F0FFF, 0x0, 0x0, 0x0, 0x0, 0x0, 0x0, 0x3F0FFF, 0x0⟩,
  ⟨"MEM_ERR_LOG_W2", 0x800808, [(32, 0x10)], 0x0, 0xFFFFFFFF, 0x0, 0x0, 0x0, 0x0, 0x0, 0x0, 0xFFFFFFFF, 0x0⟩,
  ⟨"MEM_ERR_LOG_W3", 0x80080C, [(32, 0x10)], 0x0, 0x1FFFF, 0x0, 0x0, 0x0, 0x0, 0x0, 0x0, 0x1FFFF, 0x0⟩]
/-- Register map of XMC (spec/09_memory.md). -/
def regMapXmc : List RegDesc := [
  ⟨"XMC_CTRL", 0x900000, [], 0x6, 0x0, 0x0, 0x0, 0x0, 0x0, 0x0, 0x4, 0x6, 0x0⟩,
  ⟨"XMC_STAT", 0x900004, [], 0x0, 0xFF01, 0x0, 0x0, 0x0, 0x0, 0x0, 0x0, 0xFF01, 0x0⟩,
  ⟨"XMC_BELL", 0x900008, [], 0x0, 0x0, 0x7, 0x0, 0x0, 0x0, 0x0, 0x0, 0x7, 0x0⟩,
  ⟨"XMC_BELL_MASK", 0x90000C, [], 0x7, 0x0, 0x0, 0x0, 0x0, 0x0, 0x0, 0x0, 0x7, 0x0⟩,
  ⟨"XMC_CFG", 0x900010, [], 0x0, 0x0, 0x0, 0x0, 0x0, 0x0, 0x3FFF00F7, 0x1000041, 0x0, 0x0⟩,
  ⟨"XMC_SCRUB_CFG", 0x900014, [], 0xFFFF, 0x0, 0x0, 0x0, 0x0, 0x0, 0x0, 0x3C, 0xFFFF, 0x0⟩,
  ⟨"XMC_BOLT_BASE", 0x900020, [], 0x3FFF, 0x0, 0x0, 0x0, 0x0, 0x0, 0x0, 0x0, 0x3FFF, 0x0⟩,
  ⟨"XMC_BOLT_SIZE", 0x900024, [], 0x3FFF, 0x0, 0x0, 0x0, 0x0, 0x0, 0x0, 0x0, 0x3FFF, 0x0⟩,
  ⟨"XMC_POOL_BASE", 0x900028, [], 0x3FFF, 0x0, 0x0, 0x0, 0x0, 0x0, 0x0, 0x0, 0x3FFF, 0x0⟩,
  ⟨"XMC_POOL_SIZE", 0x90002C, [], 0x3FFF, 0x0, 0x0, 0x0, 0x0, 0x0, 0x0, 0x0, 0x3FFF, 0x0⟩,
  ⟨"XMC_HOST_WIN", 0x900030, [], 0x7, 0x0, 0x0, 0x0, 0x0, 0x0, 0x0, 0x0, 0x7, 0x0⟩,
  ⟨"XMC_CNT_CORR", 0x900040, [], 0x0, 0x0, 0x0, 0x0, 0x0, 0xFFFFFFFF, 0x0, 0x0, 0xFFFFFFFF, 0x0⟩,
  ⟨"XMC_CNT_UNCORR", 0x900044, [], 0x0, 0x0, 0x0, 0x0, 0x0, 0xFFFFFFFF, 0x0, 0x0, 0xFFFFFFFF, 0x0⟩,
  ⟨"XMC_CNT_RETRY", 0x900048, [], 0x0, 0x0, 0x0, 0x0, 0x0, 0xFFFFFFFF, 0x0, 0x0, 0xFFFFFFFF, 0x0⟩,
  ⟨"XMC_RETIRED_LO", 0x900050, [], 0x0, 0xFFFFFFFF, 0x0, 0x0, 0x0, 0x0, 0x0, 0x0, 0xFFFFFFFF, 0x0⟩,
  ⟨"XMC_RETIRED_HI", 0x900054, [], 0x0, 0xFFFFFFFF, 0x0, 0x0, 0x0, 0x0, 0x0, 0x0, 0xFFFFFFFF, 0x0⟩]
/-- Register map of MAC (spec/10_ports_mac.md). -/
def regMapMac : List RegDesc := [
  ⟨"MAC_CTRL", 0xA00000, [(20, 0x10000)], 0x3FFF0007, 0x0, 0x0, 0x0, 0x0, 0x0, 0x0, 0x6000006, 0x3FFF0007, 0x0⟩,
  ⟨"MAC_IF_CFG", 0xA00004, [(20, 0x10000)], 0x33F, 0x0, 0x0, 0x0, 0x0, 0x0, 0x0, 0x8, 0x33F, 0x0⟩,
  ⟨"MAC_STAT", 0xA00008, [(20, 0x10000)], 0x0, 0x1F, 0x0, 0x0, 0x0, 0x0, 0x0, 0x0, 0x1F, 0x0⟩,
  ⟨"MAC_BELL", 0xA0000C, [(20, 0x10000)], 0x0, 0x10, 0x6F, 0x0, 0x0, 0x0, 0x0, 0x0, 0x7F, 0x0⟩,
  ⟨"MAC_BELL_MASK", 0xA00010, [(20, 0x10000)], 0x7F, 0x0, 0x0, 0x0, 0x0, 0x0, 0x0, 0x0, 0x7F, 0x0⟩,
  ⟨"MAC_VLAN_CFG", 0xA00014, [(20, 0x10000)], 0x1FFFF, 0x0, 0x0, 0x0, 0x0, 0x0, 0x0, 0x1, 0x1FFFF, 0x0⟩,
  ⟨"MAC_PAUSE_CFG", 0xA00018, [(20, 0x10000)], 0xFF03, 0x0, 0x0, 0x0, 0x0, 0x0, 0x0, 0x0, 0xFF03, 0x0⟩,
  ⟨"MAC_PAUSE_WDOG", 0xA0001C, [(20, 0x10000)], 0xFFFFF, 0x0, 0x0, 0x0, 0x0, 0x0, 0x0, 0x2710, 0xFFFFF, 0x0⟩,
  ⟨"MAC_PAUSE_STAT", 0xA00020, [(20, 0x10000)], 0x0, 0xFFFF, 0x0, 0x0, 0x0, 0x0, 0x0, 0x0, 0xFFFF, 0x0⟩,
  ⟨"MAC_LINK_CFG", 0xA00024, [(20, 0x10000)], 0xFFFF1FFF, 0x0, 0x0, 0x0, 0x0, 0x0, 0x0, 0x640002, 0xFFFF1FFF, 0x0⟩,
  ⟨"MAC_LINK_STAT", 0xA00028, [(20, 0x10000)], 0x0, 0xFFFF01FF, 0x0, 0x0, 0x0, 0x0, 0x0, 0x0, 0xFFFF01FF, 0x0⟩,
  ⟨"MAC_VLAN_TPID", 0xA0002C, [(20, 0x10000)], 0xFFFF, 0x0, 0x0, 0x0, 0x0, 0x0, 0x0, 0x88A8, 0xFFFF, 0x0⟩,
  ⟨"MAC_MON_CFG", 0xA00030, [(20, 0x10000)], 0x1, 0x0, 0x0, 0x0, 0x0, 0x0, 0x0, 0x1, 0x1, 0x0⟩,
  ⟨"MAC_MON_MISMATCH", 0xA00034, [(20, 0x10000)], 0x0, 0x0, 0x0, 0x0, 0x0, 0xFFFFFFFF, 0x0, 0x0, 0xFFFFFFFF, 0x0⟩,
  ⟨"MAC_MON_LAST", 0xA00038, [(20, 0x10000)], 0x0, 0xFFFFFFFF, 0x0, 0x0, 0x0, 0x0, 0x0, 0x0, 0xFFFFFFFF, 0x0⟩,
  ⟨"MAC_MON_DIGEST", 0xA0003C, [(20, 0x10000)], 0x0, 0xFFFFFFFF, 0x0, 0x0, 0x0, 0x0, 0x0, 0x0, 0xFFFFFFFF, 0x0⟩,
  ⟨"MAC_SEC_CFG", 0xA00040, [(20, 0x10000)], 0xFFFF001F, 0x0, 0x0, 0x0, 0x0, 0x0, 0x0, 0x2, 0xFFFF001F, 0x0⟩,
  ⟨"MAC_SEC_STAT", 0xA00044, [(20, 0x10000)], 0x0, 0x0, 0x0, 0x0, 0x0, 0xFFFFFFFF, 0x0, 0x0, 0xFFFFFFFF, 0x0⟩,
  ⟨"MAC_TALLY_CLR", 0xA00060, [(20, 0x10000)], 0x0, 0x0, 0x0, 0x0, 0x1, 0x0, 0x0, 0x0, 0x0, 0x0⟩,
  ⟨"MAC_TALLY_BELL_LO", 0xA00064, [(20, 0x10000)], 0x0, 0x0, 0xFFFFFFFF, 0x0, 0x0, 0x0, 0x0, 0x0, 0xFFFFFFFF, 0x0⟩,
  ⟨"MAC_TALLY_BELL_HI", 0xA00068, [(20, 0x10000)], 0x0, 0x0, 0xFFFF, 0x0, 0x0, 0x0, 0x0, 0x0, 0xFFFF, 0x0⟩,
  ⟨"MAC_TALLY_MASK_LO", 0xA0006C, [(20, 0x10000)], 0xFFFFFFFF, 0x0, 0x0, 0x0, 0x0, 0x0, 0x0, 0x0, 0xFFFFFFFF, 0x0⟩,
  ⟨"MAC_TALLY_MASK_HI", 0xA00070, [(20, 0x10000)], 0xFFFF, 0x0, 0x0, 0x0, 0x0, 0x0, 0x0, 0x0, 0xFFFF, 0x0⟩,
  ⟨"MAC_TALLY_W0", 0xA00800, [(20, 0x10000), (48, 0x8)], 0x0, 0xFFFFFFFF, 0x0, 0x0, 0x0, 0x0, 0x0, 0x0, 0xFFFFFFFF, 0x0⟩,
  ⟨"MAC_TALLY_W1", 0xA00804, [(20, 0x10000), (48, 0x8)], 0x0, 0xFF, 0x0, 0x0, 0x0, 0x0, 0x0, 0x0, 0xFF, 0x0⟩,
  ⟨"MAC_MDIO_CFG", 0xB40000, [(2, 0x4)], 0x1FF, 0x0, 0x0, 0x0, 0x0, 0x0, 0x0, 0x4F, 0x1FF, 0x0⟩,
  ⟨"MAC_MDIO_CMD", 0xB40010, [(2, 0x10)], 0x0, 0x0, 0x0, 0x0, 0xFFFF0FFF, 0x0, 0x0, 0x0, 0x0, 0x0⟩,
  ⟨"MAC_MDIO_DATA", 0xB40014, [(2, 0x10)], 0xFFFF, 0x0, 0x0, 0x0, 0x0, 0x0, 0x0, 0x0, 0xFFFF, 0x0⟩,
  ⟨"MAC_MDIO_STAT", 0xB40018, [(2, 0x10)], 0x0, 0xFFFF0001, 0x0, 0x0, 0x0, 0x0, 0x0, 0x0, 0xFFFF0001, 0x0⟩,
  ⟨"MAC_GLB_BELL", 0xB40040, [], 0x0, 0x0, 0x3, 0x0, 0x0, 0x0, 0x0, 0x0, 0x3, 0x0⟩,
  ⟨"MAC_GLB_BELL_MASK", 0xB40044, [], 0x3, 0x0, 0x0, 0x0, 0x0, 0x0, 0x0, 0x0, 0x3, 0x0⟩]
/-- Register map of SWC (spec/11_switch_core.md). -/
def regMapSwc : List RegDesc := [
  ⟨"SWC_CTRL", 0xC00000, [], 0xF, 0x0, 0x0, 0x0, 0x0, 0x0, 0x0, 0x6, 0xF, 0x0⟩,
  ⟨"SWC_STAT", 0xC00004, [], 0x0, 0xFF03, 0x0, 0x0, 0x0, 0x0, 0x0, 0x0, 0xFF03, 0x0⟩,
  ⟨"SWC_BELL", 0xC00008, [], 0x0, 0x0, 0xFF, 0x0, 0x0, 0x0, 0x0, 0x0, 0xFF, 0x0⟩,
  ⟨"SWC_BELL_MASK", 0xC0000C, [], 0xFF, 0x0, 0x0, 0x0, 0x0, 0x0, 0x0, 0x0, 0xFF, 0x0⟩,
  ⟨"SWC_POOL_STAT", 0xC00010, [], 0x0, 0xFFFFFFFF, 0x0, 0x0, 0x0, 0x0, 0x0, 0x0, 0xFFFFFFFF, 0x0⟩,
  ⟨"SWC_BOLT_STAT", 0xC00014, [], 0x0, 0x3FFFFFF, 0x0, 0x0, 0x0, 0x0, 0x0, 0x0, 0x3FFFFFF, 0x0⟩,
  ⟨"SWC_FDB_CFG", 0xC00018, [], 0xFFFF, 0x0, 0x0, 0x0, 0x0, 0x0, 0x0, 0x12C, 0xFFFF, 0x0⟩,
  ⟨"SWC_SPILL_CFG", 0xC0001C, [], 0x1FFFF, 0x0, 0x0, 0x0, 0x0, 0x0, 0x0, 0x13E80, 0x1FFFF, 0x0⟩,
  ⟨"SWC_FDB_CMD", 0xC00020, [], 0x0, 0x0, 0x0, 0x0, 0x7, 0x0, 0x0, 0x0, 0x0, 0x0⟩,
  ⟨"SWC_FDB_ARG_W0", 0xC00024, [], 0xFFFFFFFF, 0x0, 0x0, 0x0, 0x0, 0x0, 0x0, 0x0, 0xFFFFFFFF, 0x0⟩,
  ⟨"SWC_FDB_ARG_W1", 0xC00028, [], 0xFFFFFFF, 0x0, 0x0, 0x0, 0x0, 0x0, 0x0, 0x0, 0xFFFFFFF, 0x0⟩,
  ⟨"SWC_FDB_ARG_W2", 0xC0002C, [], 0x3FFFFF, 0x0, 0x0, 0x0, 0x0, 0x0, 0x0, 0x0, 0x3FFFFF, 0x0⟩,
  ⟨"SWC_FDB_RES_W0", 0xC00030, [], 0x0, 0xFFFF, 0x0, 0x0, 0x0, 0x0, 0x0, 0x0, 0xFFFF, 0x0⟩,
  ⟨"SWC_FDB_RES_W1", 0xC00034, [], 0x0, 0x3FFFFF, 0x0, 0x0, 0x0, 0x0, 0x0, 0x0, 0x3FFFFF, 0x0⟩,
  ⟨"SWC_FDB_STAT", 0xC00038, [], 0x0, 0x7FFF000F, 0x0, 0x0, 0x0, 0x0, 0x0, 0x0, 0x7FFF000F, 0x0⟩,
  ⟨"SWC_CNT", 0xC00080, [(16, 0x4)], 0x0, 0x0, 0x0, 0x0, 0x0, 0xFFFFFFFF, 0x0, 0x0, 0xFFFFFFFF, 0x0⟩,
  ⟨"SWC_PORT_CFG", 0xC10000, [(22, 0x1000)], 0xF7, 0x0, 0x0, 0x0, 0x0, 0x0, 0x0, 0x10, 0xF7, 0x0⟩,
  ⟨"SWC_PORT_STAT", 0xC10004, [(22, 0x1000)], 0x0, 0x7, 0x0, 0x0, 0x0, 0x0, 0x0, 0x0, 0x7, 0x0⟩,
  ⟨"SWC_PCP_MAP", 0xC10008, [(22, 0x1000)], 0xFFFFFF, 0x0, 0x0, 0x0, 0x0, 0x0, 0x0, 0xFAC688, 0xFFFFFF, 0x0⟩,
  ⟨"SWC_SAMP_CFG", 0xC1000C, [(22, 0x1000)], 0xFFFFFFFF, 0x0, 0x0, 0x0, 0x0, 0x0, 0x0, 0x0, 0xFFFFFFFF, 0x0⟩,
  ⟨"SWC_SAMP_DEST", 0xC10010, [(22, 0x1000)], 0xFFFFFFFF, 0x0, 0x0, 0x0, 0x0, 0x0, 0x0, 0x0, 0xFFFFFFFF, 0x0⟩,
  ⟨"SWC_GATE_CFG", 0xC10020, [(22, 0x1000)], 0xFFFF1F, 0x0, 0x0, 0x0, 0x0, 0x0, 0x0, 0xFFFF00, 0xFFFF1F, 0x0⟩,
  ⟨"SWC_GATE_ADMIN", 0xC10024, [(22, 0x1000)], 0x1FFFF, 0x0, 0x0, 0x0, 0x0, 0x0, 0x0, 0x0, 0x1FFFF, 0x0⟩,
  ⟨"SWC_GATE_BASE_LO", 0xC10028, [(22, 0x1000)], 0xFFFFFFFF, 0x0, 0x0, 0x0, 0x0, 0x0, 0x0, 0x0, 0xFFFFFFFF, 0x0⟩,
  ⟨"SWC_GATE_BASE_HI", 0xC1002C, [(22, 0x1000)], 0xFFFFFFFF, 0x0, 0x0, 0x0, 0x0, 0x0, 0x0, 0x0, 0xFFFFFFFF, 0x0⟩,
  ⟨"SWC_GATE_BASE_NS", 0xC10030, [(22, 0x1000)], 0xFFFFFFFF, 0x0, 0x0, 0x0, 0x0, 0x0, 0x0, 0x0, 0xFFFFFFFF, 0x0⟩,
  ⟨"SWC_GATE_CYCLE", 0xC10034, [(22, 0x1000)], 0xFFFFFFFF, 0x0, 0x0, 0x0, 0x0, 0x0, 0x0, 0x0, 0xFFFFFFFF, 0x0⟩,
  ⟨"SWC_GATE_CMD", 0xC10038, [(22, 0x1000)], 0x0, 0x0, 0x0, 0x0, 0x3, 0x0, 0x0, 0x0, 0x0, 0x0⟩,
  ⟨"SWC_GATE_STAT", 0xC1003C, [(22, 0x1000)], 0x0, 0x1FFFFF, 0x0, 0x0, 0x0, 0x0, 0x0, 0x0, 0x1FFFFF, 0x0⟩,
  ⟨"SWC_GATE_OPER", 0xC10040, [(22, 0x1000)], 0x0, 0x1FFFF, 0x0, 0x0, 0x0, 0x0, 0x0, 0x0, 0x1FFFF, 0x0⟩,
  ⟨"SWC_GATE_CNT", 0xC10044, [(22, 0x1000)], 0x0, 0x0, 0x0, 0x0, 0x0, 0xFFFFFFFF, 0x0, 0x0, 0xFFFFFFFF, 0x0⟩,
  ⟨"SWC_EGR_CNT", 0xC10080, [(22, 0x1000), (8, 0x4)], 0x0, 0x0, 0x0, 0x0, 0x0, 0xFFFFFFFF, 0x0, 0x0, 0xFFFFFFFF, 0x0⟩,
  ⟨"SWC_Q_LIM", 0xC10100, [(22, 0x1000), (8, 0x20)], 0xFFFFFFFF, 0x0, 0x0, 0x0, 0x0, 0x0, 0x0, 0x10000010, 0xFFFFFFFF, 0x0⟩,
  ⟨"SWC_Q_AGE", 0xC10104, [(22, 0x1000), (8, 0x20)], 0x800FFFFF, 0x0, 0x0, 0x0, 0x0, 0x0, 0x0, 0x800186A0, 0x800FFFFF, 0x0⟩,
  ⟨"SWC_Q_MODE", 0xC10108, [(22, 0x1000), (8, 0x20)], 0xFFFF0007, 0x0, 0x0, 0x0, 0x0, 0x0, 0x0, 0x0, 0xFFFF0007, 0x0⟩,
  ⟨"SWC_CBS_SLOPE", 0xC1010C, [(22, 0x1000), (8, 0x20)], 0xFFFFFFFF, 0x0, 0x0, 0x0, 0x0, 0x0, 0x0, 0x0, 0xFFFFFFFF, 0x0⟩,
  ⟨"SWC_CBS_HI", 0xC10110, [(22, 0x1000), (8, 0x20)], 0xFFFFFFFF, 0x0, 0x0, 0x0, 0x0, 0x0, 0x0, 0x0, 0xFFFFFFFF, 0x0⟩,
  ⟨"SWC_CBS_LO", 0xC10114, [(22, 0x1000), (8, 0x20)], 0xFFFFFFFF, 0x0, 0x0, 0x0, 0x0, 0x0, 0x0, 0x0, 0xFFFFFFFF, 0x0⟩,
  ⟨"SWC_Q_STAT", 0xC10118, [(22, 0x1000), (8, 0x20)], 0x0, 0xFFFFFFFF, 0x0, 0x0, 0x0, 0x0, 0x0, 0x0, 0xFFFFFFFF, 0x0⟩,
  ⟨"SWC_CBS_CREDIT", 0xC1011C, [(22, 0x1000), (8, 0x20)], 0x0, 0xFFFFFFFF, 0x0, 0x0, 0x0, 0x0, 0x0, 0x0, 0xFFFFFFFF, 0x0⟩,
  ⟨"SWC_GATE_TAB_W0", 0xC40000, [(20, 0x800), (256, 0x8)], 0xFF, 0x0, 0x0, 0x0, 0x0, 0x0, 0x0, 0x0, 0xFF, 0x0⟩,
  ⟨"SWC_GATE_TAB_W1", 0xC40004, [(20, 0x800), (256, 0x8)], 0xFFFFFFFF, 0x0, 0x0, 0x0, 0x0, 0x0, 0x0, 0x0, 0xFFFFFFFF, 0x0⟩,
  ⟨"SWC_VLAN_W0", 0xC80000, [(4096, 0x8)], 0x803FFFFF, 0x0, 0x0, 0x0, 0x0, 0x0, 0x0, 0x0, 0x803FFFFF, 0x0⟩,
  ⟨"SWC_VLAN_W1", 0xC80004, [(4096, 0x8)], 0x3FFFFF, 0x0, 0x0, 0x0, 0x0, 0x0, 0x0, 0x0, 0x3FFFFF, 0x0⟩,
  ⟨"SWC_SUB_W0", 0xCA0000, [(1024, 0x20)], 0xFFFFFFFF, 0x0, 0x0, 0x0, 0x0, 0x0, 0x0, 0x0, 0xFFFFFFFF, 0x0⟩,
  ⟨"SWC_SUB_W1", 0xCA0004, [(1024, 0x20)], 0x7FFFFFFF, 0x0, 0x0, 0x0, 0x0, 0x0, 0x0, 0x0, 0x7FFFFFFF, 0x0⟩,
  ⟨"SWC_SUB_W2", 0xCA0008, [(1024, 0x20)], 0xFFFFFFFF, 0x0, 0x0, 0x0, 0x0, 0x0, 0x0, 0x0, 0xFFFFFFFF, 0x0⟩,
  ⟨"SWC_SUB_W3", 0xCA000C, [(1024, 0x20)], 0x3, 0x0, 0x0, 0x0, 0x0, 0x0, 0x0, 0x0, 0x3, 0x0⟩,
  ⟨"SWC_SUB_W4", 0xCA0010, [(1024, 0x20)], 0xFFFFFFFF, 0x0, 0x0, 0x0, 0x0, 0x0, 0x0, 0x0, 0xFFFFFFFF, 0x0⟩,
  ⟨"SWC_SUB_W5", 0xCA0014, [(1024, 0x20)], 0xFFF07, 0x0, 0x0, 0x0, 0x0, 0x0, 0x0, 0x0, 0xFFF07, 0x0⟩,
  ⟨"SWC_SUB_W6", 0xCA0018, [(1024, 0x20)], 0xFFFFFFFF, 0x0, 0x0, 0x0, 0x0, 0x0, 0x0, 0x0, 0xFFFFFFFF, 0x0⟩,
  ⟨"SWC_SUB_W7", 0xCA001C, [(1024, 0x20)], 0x0, 0xFF, 0x0, 0x0, 0x0, 0x0, 0x0, 0x0, 0xFF, 0x0⟩]
/-- Register map of RED (spec/12_redundancy_failover.md). -/
def regMapRed : List RegDesc := [
  ⟨"RED_CTRL", 0xE00000, [], 0xFFFF001F, 0x0, 0x0, 0x0, 0x0, 0x0, 0x0, 0x10000000, 0xFFFF001F, 0x0⟩,
  ⟨"RED_STAT", 0xE00004, [], 0x0, 0xFF, 0x0, 0x0, 0x0, 0x0, 0x0, 0x0, 0xFF, 0x0⟩,
  ⟨"RED_BELL", 0xE00008, [], 0x0, 0x0, 0x7FF, 0x0, 0x0, 0x0, 0x0, 0x0, 0x7FF, 0x0⟩,
  ⟨"RED_BELL_MASK", 0xE0000C, [], 0x7FF, 0x0, 0x0, 0x0, 0x0, 0x0, 0x0, 0x0, 0x7FF, 0x0⟩,
  ⟨"RED_HB_CFG", 0xE00010, [], 0x7FFFFF, 0x0, 0x0, 0x0, 0x0, 0x0, 0x0, 0x6080A8, 0x7FFFFF, 0x0⟩,
  ⟨"RED_DET_CFG", 0xE00014, [], 0xFFF0FFF, 0x0, 0x0, 0x0, 0x0, 0x0, 0x0, 0x3E80013, 0xFFF0FFF, 0x0⟩,
  ⟨"RED_CLAIM", 0xE00018, [], 0xFFFF, 0xFFFF0000, 0x0, 0x0, 0x0, 0x0, 0x0, 0x0, 0xFFFFFFFF, 0x0⟩,
  ⟨"RED_CMD", 0xE0001C, [], 0x0, 0x0, 0x0, 0x0, 0xFF03, 0x0, 0x0, 0x0, 0x0, 0x0⟩,
  ⟨"RED_PEER_STAT", 0xE00020, [], 0x0, 0xFFFF071F, 0x0, 0x0, 0x0, 0x0, 0x0, 0x0, 0xFFFF071F, 0x0⟩,
  ⟨"RED_PATH_STAT", 0xE00024, [], 0x0, 0x30FFF, 0x0, 0x0, 0x0, 0x0, 0x0, 0x0, 0x30FFF, 0x0⟩,
  ⟨"RED_HB_CNT", 0xE00028, [], 0x0, 0x0, 0x0, 0x0, 0x0, 0xFFFFFFFF, 0x0, 0x0, 0xFFFFFFFF, 0x0⟩,
  ⟨"RED_FOLD_INT", 0xE0002C, [], 0x0, 0xFFFFFFFF, 0x0, 0x0, 0x0, 0x0, 0x0, 0x0, 0xFFFFFFFF, 0x0⟩,
  ⟨"RED_FOLD_OBS", 0xE00030, [], 0x0, 0xFFFFFFFF, 0x0, 0x0, 0x0, 0x0, 0x0, 0x0, 0xFFFFFFFF, 0x0⟩,
  ⟨"RED_TAKE_STAT", 0xE00034, [], 0x0, 0xFFFF07FF, 0x0, 0x0, 0x0, 0x0, 0x0, 0x0, 0xFFFF07FF, 0x0⟩,
  ⟨"RED_TAKE_ST", 0xE00038, [], 0x0, 0xFFFFFFFF, 0x0, 0x0, 0x0, 0x0, 0x0, 0x0, 0xFFFFFFFF, 0x0⟩,
  ⟨"RED_GATE_CNT", 0xE0003C, [], 0x0, 0x0, 0x0, 0x0, 0x0, 0xFFFFFFFF, 0x0, 0x0, 0xFFFFFFFF, 0x0⟩,
  ⟨"RED_BOOK_STAT", 0xE00040, [], 0x0, 0x3FF03FF, 0x0, 0x0, 0x0, 0x0, 0x0, 0x0, 0x3FF03FF, 0x0⟩,
  ⟨"RED_BOOK_CNT", 0xE00044, [], 0x0, 0x0, 0x0, 0x0, 0x0, 0xFFFFFFFF, 0x0, 0x0, 0xFFFFFFFF, 0x0⟩,
  ⟨"RED_PAIR_CFG", 0xE00100, [(10, 0x10)], 0xFFF1FFFF, 0x0, 0x0, 0x0, 0x0, 0x0, 0x0, 0x19000040, 0xFFF1FFFF, 0x0⟩,
  ⟨"RED_PAIR_STAT", 0xE00104, [(10, 0x10)], 0x0, 0x7FF000F, 0x0, 0x0, 0x0, 0x0, 0x0, 0x0, 0x7FF000F, 0x0⟩,
  ⟨"RED_PAIR_SEQ", 0xE00108, [(10, 0x10)], 0x0, 0xFFFF, 0x0, 0x0, 0x0, 0x0, 0x0, 0x0, 0xFFFF, 0x0⟩,
  ⟨"RED_PAIR_CNT", 0xE00200, [(10, 0x20), (8, 0x4)], 0x0, 0x0, 0x0, 0x0, 0x0, 0xFFFFFFFF, 0x0, 0x0, 0xFFFFFFFF, 0x0⟩]
/-- Register map of SLV (spec/13_selvedge_ring.md). -/
def regMapSlv : List RegDesc := [
  ⟨"SLV_CTRL", 0xF00000, [], 0xF, 0x0, 0x0, 0x0, 0x0, 0x0, 0x0, 0x0, 0xF, 0x0⟩,
  ⟨"SLV_NODE_CFG", 0xF00004, [], 0x7, 0x0, 0x0, 0x0, 0x0, 0x0, 0x0, 0x0, 0x7, 0x0⟩,
  ⟨"SLV_STAT", 0xF00008, [], 0x0, 0x3FFF, 0x0, 0x0, 0x0, 0x0, 0x0, 0x0, 0x3FFF, 0x0⟩,
  ⟨"SLV_BELL", 0xF0000C, [], 0x0, 0x0, 0x3FF, 0x0, 0x0, 0x0, 0x0, 0x0, 0x3FF, 0x0⟩,
  ⟨"SLV_BELL_MASK", 0xF00010, [], 0x3FF, 0x0, 0x0, 0x0, 0x0, 0x0, 0x0, 0x0, 0x3FF, 0x0⟩,
  ⟨"SLV_ALIGN_CFG", 0xF00014, [], 0xF, 0x0, 0x0, 0x0, 0x0, 0x0, 0x0, 0x2, 0xF, 0x0⟩,
  ⟨"SLV_ALIGN_STAT", 0xF00018, [], 0x0, 0xFFFFFFFF, 0x0, 0x0, 0x0, 0x0, 0x0, 0x0, 0xFFFFFFFF, 0x0⟩,
  ⟨"SLV_ROUND", 0xF0001C, [], 0x0, 0x7FFFFF, 0x0, 0x0, 0x0, 0x0, 0x0, 0x0, 0x7FFFFF, 0x0⟩,
  ⟨"SLV_GRID", 0xF00020, [], 0x0, 0xFFFFFFFF, 0x0, 0x0, 0x0, 0x0, 0x0, 0x0, 0xFFFFFFFF, 0x0⟩,
  ⟨"SLV_DELTA", 0xF00024, [], 0x0, 0xFFFF, 0x0, 0x0, 0x0, 0x0, 0x0, 0x0, 0xFFFF, 0x0⟩,
  ⟨"SLV_LINK_DLY", 0xF00028, [], 0x0, 0xFFFF, 0x0, 0x0, 0x0, 0x0, 0x0, 0x0, 0xFFFF, 0x0⟩,
  ⟨"SLV_CMD", 0xF0002C, [], 0x0, 0x0, 0x0, 0x0, 0xFF01, 0x0, 0x0, 0x0, 0x0, 0x0⟩,
  ⟨"SLV_TOPO", 0xF00030, [], 0xFF, 0xFF00, 0x0, 0x0, 0x0, 0x0, 0x0, 0x0, 0xFFFF, 0x0⟩,
  ⟨"SLV_LOOM_DIGEST", 0xF00034, [], 0x0, 0xFFFFFFFF, 0x0, 0x0, 0x0, 0x0, 0x0, 0x0, 0xFFFFFFFF, 0x0⟩,
  ⟨"SLV_LEAD_DIGEST", 0xF00038, [], 0x0, 0xFFFFFFFF, 0x0, 0x0, 0x0, 0x0, 0x0, 0x0, 0xFFFFFFFF, 0x0⟩,
  ⟨"SLV_MAP", 0xF00040, [(8, 0x4)], 0x0, 0xFFFFFFFF, 0x0, 0x0, 0x0, 0x0, 0x0, 0x0, 0xFFFFFFFF, 0x0⟩,
  ⟨"SLV_CNT", 0xF00080, [(16, 0x4)], 0x0, 0x0, 0x0, 0x0, 0x0, 0xFFFFFFFF, 0x0, 0x0, 0xFFFFFFFF, 0x0⟩,
  ⟨"SLV_LOOM", 0xF00100, [(80, 0x4)], 0xF, 0x0, 0x0, 0x0, 0x0, 0x0, 0x0, 0x0, 0xF, 0x0⟩,
  ⟨"SLV_RXB_W0", 0xF00400, [(64, 0x10)], 0xFFFFFFFF, 0x0, 0x0, 0x0, 0x0, 0x0, 0x0, 0x0, 0xFFFFFFFF, 0x0⟩,
  ⟨"SLV_RXB_W1", 0xF00404, [(64, 0x10)], 0x1FF07, 0x0, 0x0, 0x0, 0x0, 0x0, 0x0, 0x0, 0x1FF07, 0x0⟩,
  ⟨"SLV_RXB_W2", 0xF00408, [(64, 0x10)], 0xFFFFFFFF, 0x0, 0x0, 0x0, 0x0, 0x0, 0x0, 0x0, 0xFFFFFFFF, 0x0⟩,
  ⟨"SLV_RXB_W3", 0xF0040C, [(64, 0x10)], 0x0, 0xFF, 0x0, 0x0, 0x0, 0x0, 0x0, 0x0, 0xFF, 0x0⟩]
/-- Register map of MDB (spec/14_multidrop_bus.md). -/
def regMapMdb : List RegDesc := [
  ⟨"MDB_CTRL", 0x1000000, [(8, 0x1000)], 0x7FF, 0x0, 0x0, 0x0, 0x0, 0x0, 0x0, 0x0, 0x7FF, 0x0⟩,
  ⟨"MDB_STAT", 0x1000004, [(8, 0x1000)], 0x0, 0x7F, 0x0, 0x0, 0x0, 0x0, 0x0, 0x0, 0x7F, 0x0⟩,
  ⟨"MDB_BELL", 0x1000008, [(8, 0x1000)], 0x0, 0x0, 0x3FF, 0x0, 0x0, 0x0, 0x0, 0x0, 0x3FF, 0x0⟩,
  ⟨"MDB_BELL_MASK", 0x100000C, [(8, 0x1000)], 0x3FF, 0x0, 0x0, 0x0, 0x0, 0x0, 0x0, 0x0, 0x3FF, 0x0⟩,
  ⟨"MDB_NBT", 0x1000010, [(8, 0x1000)], 0x7FFFFFFF, 0x0, 0x0, 0x0, 0x0, 0x0, 0x0, 0xF1E3E01, 0x7FFFFFFF, 0x0⟩,
  ⟨"MDB_DBT", 0x1000014, [(8, 0x1000)], 0xF0F1F1F, 0x0, 0x0, 0x0, 0x0, 0x0, 0x0, 0x7071E00, 0xF0F1F1F, 0x0⟩,
  ⟨"MDB_TDC", 0x1000018, [(8, 0x1000)], 0xFF, 0x7F0000, 0x0, 0x0, 0x0, 0x0, 0x0, 0x0, 0x7F00FF, 0x0⟩,
  ⟨"MDB_ERR", 0x100001C, [(8, 0x1000)], 0x0, 0x3F7FFF, 0x0, 0x0, 0x0, 0x0, 0x0, 0x0, 0x3F7FFF, 0x0⟩,
  ⟨"MDB_RXQ_CFG_W0", 0x1000040, [(8, 0x1000), (2, 0x10)], 0xFFFFFFFF, 0x0, 0x0, 0x0, 0x0, 0x0, 0x0, 0x0, 0xFFFFFFFF, 0x0⟩,
  ⟨"MDB_RXQ_CFG_W1", 0x1000044, [(8, 0x1000), (2, 0x10)], 0xFF07, 0x0, 0x0, 0x0, 0x0, 0x0, 0x0, 0x0, 0xFF07, 0x0⟩,
  ⟨"MDB_RXQ_CFG_W2", 0x1000048, [(8, 0x1000), (2, 0x10)], 0xFFFFFFFF, 0x0, 0x0, 0x0, 0x0, 0x0, 0x0, 0x0, 0xFFFFFFFF, 0x0⟩,
  ⟨"MDB_RXQ_CFG_W3", 0x100004C, [(8, 0x1000), (2, 0x10)], 0x0, 0xFF, 0x0, 0x0, 0x0, 0x0, 0x0, 0x0, 0xFF, 0x0⟩,
  ⟨"MDB_RXQ_STAT", 0x1000060, [(8, 0x1000), (2, 0x4)], 0x0, 0x3F3F, 0x0, 0x0, 0x0, 0x0, 0x0, 0x0, 0x3F3F, 0x0⟩,
  ⟨"MDB_RXQ_POP", 0x1000068, [(8, 0x1000), (2, 0x4)], 0x0, 0x0, 0x0, 0x0, 0x1, 0x0, 0x0, 0x0, 0x0, 0x0⟩,
  ⟨"MDB_CNT", 0x1000070, [(8, 0x1000), (8, 0x4)], 0x0, 0x0, 0x0, 0x0, 0x0, 0xFFFFFFFF, 0x0, 0x0, 0xFFFFFFFF, 0x0⟩,
  ⟨"MDB_TT_CTRL", 0x1000090, [(8, 0x1000)], 0xFF01FF, 0x0, 0x0, 0x0, 0x0, 0x0, 0x0, 0x0, 0xFF01FF, 0x0⟩,
  ⟨"MDB_TT_CYCLE", 0x1000094, [(8, 0x1000)], 0xFFFFFFFF, 0x0, 0x0, 0x0, 0x0, 0x0, 0x0, 0x3E803E8, 0xFFFFFFFF, 0x0⟩,
  ⟨"MDB_TT_REFID", 0x1000098, [(8, 0x1000)], 0x3FFFFFFF, 0x0, 0x0, 0x0, 0x0, 0x0, 0x0, 0x0, 0x3FFFFFFF, 0x0⟩,
  ⟨"MDB_TT_PHASE", 0x100009C, [(8, 0x1000)], 0xFFFFFFFF, 0x0, 0x0, 0x0, 0x0, 0x0, 0x0, 0x0, 0xFFFFFFFF, 0x0⟩,
  ⟨"MDB_TT_STAT", 0x10000A0, [(8, 0x1000)], 0x3, 0x1FC, 0x0, 0x0, 0x0, 0x0, 0x0, 0x0, 0x1FF, 0x0⟩,
  ⟨"MDB_TT_REF_ST", 0x10000A4, [(8, 0x1000)], 0x0, 0xFFFFFFFF, 0x0, 0x0, 0x0, 0x0, 0x0, 0x0, 0xFFFFFFFF, 0x0⟩,
  ⟨"MDB_TT_SLIP", 0x10000A8, [(8, 0x1000)], 0x0, 0xFFFFFFFF, 0x0, 0x0, 0x0, 0x0, 0x0, 0x0, 0xFFFFFFFF, 0x0⟩,
  ⟨"MDB_RXQ_HEAD", 0x1000100, [(8, 0x1000), (2, 0x60), (21, 0x4)], 0x0, 0xFFFFFFFF, 0x0, 0x0, 0x0, 0x0, 0x0, 0x0, 0xFFFFFFFF, 0x0⟩,
  ⟨"MDB_WAKE_CFG", 0x10001C0, [(2, 0x1000)], 0xFF, 0x0, 0x0, 0x0, 0x0, 0x0, 0x0, 0x0, 0x0, 0x0⟩,
  ⟨"MDB_WAKE_ID", 0x10001C4, [(2, 0x1000)], 0x3FFFFFFF, 0x0, 0x0, 0x0, 0x0, 0x0, 0x0, 0x0, 0x0, 0x0⟩,
  ⟨"MDB_WAKE_IDMASK", 0x10001C8, [(2, 0x1000)], 0x3FFFFFFF, 0x0, 0x0, 0x0, 0x0, 0x0, 0x0, 0x0, 0x0, 0x0⟩,
  ⟨"MDB_WAKE_DMASK_LO", 0x10001CC, [(2, 0x1000)], 0xFFFFFFFF, 0x0, 0x0, 0x0, 0x0, 0x0, 0x0, 0x0, 0x0, 0x0⟩,
  ⟨"MDB_WAKE_DMASK_HI", 0x10001D0, [(2, 0x1000)], 0xFFFFFFFF, 0x0, 0x0, 0x0, 0x0, 0x0, 0x0, 0x0, 0x0, 0x0⟩,
  ⟨"MDB_WAKE_TIMEOUT", 0x10001D4, [(2, 0x1000)], 0xFFFF, 0x0, 0x0, 0x0, 0x0, 0x0, 0x0, 0x3E8, 0x0, 0x0⟩,
  ⟨"MDB_WAKE_STAT", 0x10001D8, [(2, 0x1000)], 0x0, 0xFF, 0x0, 0x100, 0x0, 0x0, 0x0, 0x0, 0x0, 0x0⟩,
  ⟨"MDB_TRIG_W0", 0x1000200, [(8, 0x1000), (64, 0x8)], 0xFFFFFF, 0x0, 0x0, 0x0, 0x0, 0x0, 0x0, 0x0, 0xFFFFFF, 0x0⟩,
  ⟨"MDB_TRIG_W1", 0x1000204, [(8, 0x1000), (64, 0x8)], 0x80003F07, 0x0, 0x0, 0x0, 0x0, 0x0, 0x0, 0x0, 0x80003F07, 0x0⟩,
  ⟨"MDB_FILT_W0", 0x1000400, [(8, 0x1000), (64, 0x8)], 0xFFFFFFFF, 0x0, 0x0, 0x0, 0x0, 0x0, 0x0, 0x0, 0xFFFFFFFF, 0x0⟩,
  ⟨"MDB_FILT_W1", 0x1000404, [(8, 0x1000), (64, 0x8)], 0xFFFFFFFF, 0x0, 0x0, 0x0, 0x0, 0x0, 0x0, 0x0, 0xFFFFFFFF, 0x0⟩,
  ⟨"MDB_BUF_W0", 0x1000600, [(8, 0x1000), (32, 0x50)], 0xFFFFF, 0x0, 0x0, 0x0, 0x0, 0x0, 0x0, 0x0, 0xFFFFF, 0x0⟩,
  ⟨"MDB_BUF_W1", 0x1000604, [(8, 0x1000), (32, 0x50)], 0x0, 0xFF3C, 0x0, 0x3, 0x0, 0x0, 0x0, 0x0, 0xFF3F, 0x0⟩,
  ⟨"MDB_BUF_W2", 0x1000608, [(8, 0x1000), (32, 0x50), (18, 0x4)], 0xFFFFFFFF, 0x0, 0x0, 0x0, 0x0, 0x0, 0x0, 0x0, 0xFFFFFFFF, 0x0⟩]
/-- Register map of SHT (spec/15_shuttles.md). -/
def regMapSht : List RegDesc := [
  ⟨"SHT_CTRL", 0x1100000, [(32, 0x400)], 0x1, 0x0, 0x0, 0x0, 0x6, 0x0, 0x0, 0x0, 0x1, 0x0⟩,
  ⟨"SHT_STAT", 0x1100004, [(32, 0x400)], 0x0, 0x3F3FFF, 0x0, 0x0, 0x0, 0x0, 0x0, 0x0, 0x3F3FFF, 0x0⟩,
  ⟨"SHT_CLKDIV", 0x1100008, [(32, 0x400)], 0xFFFFFFFF, 0x0, 0x0, 0x0, 0x0, 0x0, 0x0, 0x10000, 0xFFFFFFFF, 0x0⟩,
  ⟨"SHT_WIN", 0x110000C, [(32, 0x400)], 0xF7FF, 0x0, 0x0, 0x0, 0x0, 0x0, 0x0, 0x0, 0xF7FF, 0x0⟩,
  ⟨"SHT_FRAME", 0x1100010, [(32, 0x400)], 0x1F, 0x0, 0x0, 0x0, 0x0, 0x0, 0x0, 0x1F, 0x1F, 0x0⟩,
  ⟨"SHT_DEST", 0x1100014, [(32, 0x400)], 0xFFFFFFFF, 0x0, 0x0, 0x0, 0x0, 0x0, 0x0, 0x0, 0xFFFFFFFF, 0x0⟩,
  ⟨"SHT_DNF", 0x1100018, [(32, 0x400)], 0x0, 0x0, 0x0, 0x0, 0xFFFFFFFF, 0x0, 0x0, 0x0, 0x0, 0x0⟩,
  ⟨"SHT_UPF", 0x110001C, [(32, 0x400)], 0x0, 0xFFFFFFFF, 0x0, 0x0, 0x0, 0x0, 0x0, 0x0, 0xFFFFFFFF, 0x0⟩,
  ⟨"SHT_FIFO_STAT", 0x1100020, [(32, 0x400)], 0x0, 0xFFFF0077, 0x0, 0x0, 0x0, 0x0, 0x0, 0x0, 0xFFFF0077, 0x0⟩,
  ⟨"SHT_INJECT", 0x1100024, [(32, 0x400)], 0x0, 0x0, 0x0, 0x0, 0xFFFF, 0x0, 0x0, 0x0, 0x0, 0x0⟩,
  ⟨"SHT_LOAD", 0x1100028, [(32, 0x400)], 0x0, 0x0, 0x0, 0x0, 0x11F, 0x0, 0x0, 0x0, 0x0, 0x0⟩,
  ⟨"SHT_LOAD_CLEAR", 0x110002C, [(32, 0x400)], 0x1, 0x0, 0x0, 0x0, 0x0, 0x0, 0x0, 0x0, 0x1, 0x0⟩,
  ⟨"SHT_S0", 0x1100030, [(32, 0x400)], 0xFFFFFFFF, 0x0, 0x0, 0x0, 0x0, 0x0, 0x0, 0x0, 0xFFFFFFFF, 0x0⟩,
  ⟨"SHT_S1", 0x1100034, [(32, 0x400)], 0xFFFFFFFF, 0x0, 0x0, 0x0, 0x0, 0x0, 0x0, 0x0, 0xFFFFFFFF, 0x0⟩,
  ⟨"SHT_IBS", 0x1100038, [(32, 0x400)], 0x0, 0xFFFFFFFF, 0x0, 0x0, 0x0, 0x0, 0x0, 0x0, 0xFFFFFFFF, 0x0⟩,
  ⟨"SHT_OBS", 0x110003C, [(32, 0x400)], 0x0, 0xFFFFFFFF, 0x0, 0x0, 0x0, 0x0, 0x0, 0x0, 0xFFFFFFFF, 0x0⟩,
  ⟨"SHT_STAMP", 0x1100040, [(32, 0x400)], 0x0, 0xFFFFFFFF, 0x0, 0x0, 0x0, 0x0, 0x0, 0x0, 0xFFFFFFFF, 0x0⟩,
  ⟨"SHT_STAMP_Q", 0x1100044, [(32, 0x400)], 0x0, 0x3F, 0x0, 0x0, 0x0, 0x0, 0x0, 0x0, 0x3F, 0x0⟩,
  ⟨"SHT_BELL", 0x1100048, [(32, 0x400)], 0x0, 0x0, 0xFFFF, 0x0, 0x0, 0x0, 0x0, 0x0, 0xFFFF, 0x0⟩,
  ⟨"SHT_BELL_MASK", 0x110004C, [(32, 0x400)], 0xFFFF, 0x0, 0x0, 0x0, 0x0, 0x0, 0x0, 0x0, 0xFFFF, 0x0⟩,
  ⟨"SHT_CNT", 0x1100050, [(32, 0x400), (8, 0x4)], 0x0, 0x0, 0x0, 0x0, 0x0, 0xFFFFFFFF, 0x0, 0x0, 0xFFFFFFFF, 0x0⟩,
  ⟨"SHT_PROG", 0x1100080, [(32, 0x400), (32, 0x4)], 0xFFFF, 0x0, 0x0, 0x0, 0x0, 0x0, 0x0, 0x0, 0x0, 0x0⟩,
  ⟨"SHT_GRP_CFG", 0x1108000, [(4, 0x10)], 0x1F, 0x0, 0x0, 0x0, 0x0, 0x0, 0x0, 0x0, 0x1F, 0x0⟩,
  ⟨"SHT_GRP_CTRL", 0x1108004, [(4, 0x10)], 0x0, 0x0, 0x0, 0x0, 0x3FF, 0x0, 0x0, 0x0, 0x0, 0x0⟩,
  ⟨"SHT_GRP_AT", 0x1108008, [(4, 0x10)], 0xFFFFFFFF, 0x0, 0x0, 0x0, 0x0, 0x0, 0x0, 0x0, 0xFFFFFFFF, 0x0⟩,
  ⟨"SHT_GRP_TRIG", 0x110800C, [(4, 0x10)], 0x0, 0xFFFF, 0x0, 0x0, 0x0, 0x0, 0x0, 0x0, 0xFFFF, 0x0⟩,
  ⟨"SHT_PIN_CFG", 0x1108100, [(64, 0x4)], 0xFFFF, 0x0, 0x0, 0x0, 0x0, 0x0, 0x0, 0x1000, 0xFFFF, 0x0⟩,
  ⟨"SHT_PAD_IN_LO", 0x1108200, [], 0x0, 0xFFFFFFFF, 0x0, 0x0, 0x0, 0x0, 0x0, 0x0, 0xFFFFFFFF, 0x0⟩,
  ⟨"SHT_PAD_IN_HI", 0x1108204, [], 0x0, 0xFFFFFFFF, 0x0, 0x0, 0x0, 0x0, 0x0, 0x0, 0xFFFFFFFF, 0x0⟩,
  ⟨"SHT_PAD_OUT_LO", 0x1108208, [], 0x0, 0xFFFFFFFF, 0x0, 0x0, 0x0, 0x0, 0x0, 0x0, 0xFFFFFFFF, 0x0⟩,
  ⟨"SHT_PAD_OUT_HI", 0x110820C, [], 0x0, 0xFFFFFFFF, 0x0, 0x0, 0x0, 0x0, 0x0, 0x0, 0xFFFFFFFF, 0x0⟩,
  ⟨"SHT_PAD_OE_LO", 0x1108210, [], 0x0, 0xFFFFFFFF, 0x0, 0x0, 0x0, 0x0, 0x0, 0x0, 0xFFFFFFFF, 0x0⟩,
  ⟨"SHT_PAD_OE_HI", 0x1108214, [], 0x0, 0xFFFFFFFF, 0x0, 0x0, 0x0, 0x0, 0x0, 0x0, 0xFFFFFFFF, 0x0⟩,
  ⟨"SHT_PAD_DIS_LO", 0x1108218, [], 0x0, 0xFFFFFFFF, 0x0, 0x0, 0x0, 0x0, 0x0, 0x0, 0xFFFFFFFF, 0x0⟩,
  ⟨"SHT_PAD_DIS_HI", 0x110821C, [], 0x0, 0xFFFFFFFF, 0x0, 0x0, 0x0, 0x0, 0x0, 0x0, 0xFFFFFFFF, 0x0⟩,
  ⟨"SHT_GLB_BELL", 0x1108220, [], 0x0, 0x0, 0x7, 0x0, 0x0, 0x0, 0x0, 0x0, 0x7, 0x0⟩,
  ⟨"SHT_GLB_BELL_MASK", 0x1108224, [], 0x7, 0x0, 0x0, 0x0, 0x0, 0x0, 0x0, 0x0, 0x7, 0x0⟩,
  ⟨"SHT_GLB_CNT", 0x1108228, [], 0x0, 0x0, 0x0, 0x0, 0x0, 0xFFFFFFFF, 0x0, 0x0, 0xFFFFFFFF, 0x0⟩]
/-- Register map of SCN (spec/16_scan_bay_logic.md). -/
def regMapScn : List RegDesc := [
  ⟨"SCN_CTRL", 0x1200000, [], 0x30, 0x0, 0x0, 0x0, 0x4F, 0x0, 0x0, 0x0, 0x30, 0x0⟩,
  ⟨"SCN_STAT", 0x1200004, [], 0x0, 0xFFF3FFF, 0x0, 0x0, 0x0, 0x0, 0x0, 0x0, 0xFFF3FFF, 0x0⟩,
  ⟨"SCN_BELL", 0x1200008, [], 0x0, 0x0, 0x7F, 0x0, 0x0, 0x0, 0x0, 0x0, 0x7F, 0x0⟩,
  ⟨"SCN_BELL_MASK", 0x120000C, [], 0x7F, 0x0, 0x0, 0x0, 0x0, 0x0, 0x0, 0x0, 0x7F, 0x0⟩,
  ⟨"SCN_CFG", 0x1200010, [], 0x1F0FFFFF, 0x0, 0x0, 0x0, 0x0, 0x0, 0x0, 0x3E8, 0x1F0FFFFF, 0x0⟩,
  ⟨"SCN_IMG_CFG", 0x1200014, [], 0x1FFF1FFF, 0x0, 0x0, 0x0, 0x0, 0x0, 0x0, 0x0, 0x1FFF1FFF, 0x0⟩,
  ⟨"SCN_TIMING", 0x1200018, [], 0x0, 0xFFFFFFFF, 0x0, 0x0, 0x0, 0x0, 0x0, 0x14C800CD, 0xFFFFFFFF, 0x0⟩,
  ⟨"SCN_START_AT", 0x120001C, [], 0xFFFFFFFF, 0x0, 0x0, 0x0, 0x0, 0x0, 0x0, 0x0, 0xFFFFFFFF, 0x0⟩,
  ⟨"SCN_ERR_TASK", 0x1200020, [], 0xFFFFFFFF, 0x0, 0x0, 0x0, 0x0, 0x0, 0x0, 0x0, 0xFFFFFFFF, 0x0⟩,
  ⟨"SCN_INST_CFG", 0x1200024, [], 0x1FFF, 0x0, 0x0, 0x0, 0x0, 0x0, 0x0, 0x0, 0x1FFF, 0x0⟩,
  ⟨"SCN_CYCLE_CNT", 0x1200028, [], 0x0, 0xFFFFFFFF, 0x0, 0x0, 0x0, 0x0, 0x0, 0x0, 0xFFFFFFFF, 0x0⟩,
  ⟨"SCN_LAST_LATCH", 0x120002C, [], 0x0, 0xFFFFFFFF, 0x0, 0x0, 0x0, 0x0, 0x0, 0x0, 0xFFFFFFFF, 0x0⟩,
  ⟨"SCN_VALID_LO", 0x1200030, [], 0x0, 0xFFFFFFFF, 0x0, 0x0, 0x0, 0x0, 0x0, 0x0, 0xFFFFFFFF, 0x0⟩,
  ⟨"SCN_VALID_HI", 0x1200034, [], 0x0, 0xFFFFFFFF, 0x0, 0x0, 0x0, 0x0, 0x0, 0x0, 0xFFFFFFFF, 0x0⟩,
  ⟨"SCN_TASK", 0x1200040, [(16, 0x4)], 0xFFFFFFFF, 0x0, 0x0, 0x0, 0x0, 0x0, 0x0, 0x0, 0xFFFFFFFF, 0x0⟩,
  ⟨"SCN_CHG_TASK", 0x1200080, [(16, 0x4)], 0xFFFFFFFF, 0x0, 0x0, 0x0, 0x0, 0x0, 0x0, 0x0, 0xFFFFFFFF, 0x0⟩,
  ⟨"SCN_CNT", 0x12000C0, [(8, 0x4)], 0x0, 0x0, 0x0, 0x0, 0x0, 0xFFFFFFFF, 0x0, 0x0, 0xFFFFFFFF, 0x0⟩,
  ⟨"SCN_STN_CFG_W0", 0x1200100, [(64, 0x20)], 0xFFFFFFFF, 0x0, 0x0, 0x0, 0x0, 0x0, 0x0, 0x0, 0xFFFFFFFF, 0x0⟩,
  ⟨"SCN_STN_CFG_W1", 0x1200104, [(64, 0x20)], 0xFFFFFFFF, 0x0, 0x0, 0x0, 0x0, 0x0, 0x0, 0x0, 0xFFFFFFFF, 0x0⟩,
  ⟨"SCN_STN_CFG_W2", 0x1200108, [(64, 0x20)], 0xFFFFFFFF, 0x0, 0x0, 0x0, 0x0, 0x0, 0x0, 0x0, 0xFFFFFFFF, 0x0⟩,
  ⟨"SCN_STN_CFG_W3", 0x120010C, [(64, 0x20)], 0xFFFFFFFF, 0x0, 0x0, 0x0, 0x0, 0x0, 0x0, 0x0, 0xFFFFFFFF, 0x0⟩,
  ⟨"SCN_STN_CFG_W4", 0x1200110, [(64, 0x20)], 0xFFFFFFFF, 0x0, 0x0, 0x0, 0x0, 0x0, 0x0, 0x0, 0xFFFFFFFF, 0x0⟩,
  ⟨"SCN_STN_CFG_W5", 0x1200114, [(64, 0x20)], 0x8000FF07, 0x0, 0x0, 0x0, 0x0, 0x0, 0x0, 0x0, 0x8000FF07, 0x0⟩,
  ⟨"SCN_STN_PUB", 0x1200900, [(64, 0x4)], 0x0, 0x0, 0x0, 0x0, 0x3, 0x0, 0x0, 0x0, 0x0, 0x0⟩,
  ⟨"SCN_STN_STAT", 0x1200A00, [(64, 0x4)], 0x0, 0xFFFFFF07, 0x0, 0x0, 0x0, 0x0, 0x0, 0x0, 0xFFFFFF07, 0x0⟩,
  ⟨"SCN_STN_CNT", 0x1200B00, [(64, 0x4)], 0x0, 0x0, 0x0, 0x0, 0x0, 0xFFFFFFFF, 0x0, 0x0, 0xFFFFFFFF, 0x0⟩,
  ⟨"SCN_RET", 0x1280000, [(65536, 0x4)], 0xFFFFFFFF, 0x0, 0x0, 0x0, 0x0, 0x0, 0x0, 0x0, 0x0, 0x0⟩]
/-- Register map of SEC (spec/18_security_identity.md). -/
def regMapSec : List RegDesc := [
  ⟨"SEC_CTRL", 0x1300000, [], 0x3, 0x0, 0x0, 0x0, 0x0, 0x0, 0x0, 0x1, 0x3, 0x0⟩,
  ⟨"SEC_STAT", 0x1300004, [], 0x0, 0x1FFF, 0x0, 0x0, 0x0, 0x0, 0x0, 0x0, 0x0, 0x0⟩,
  ⟨"SEC_BELL", 0x1300008, [], 0x0, 0x0, 0xF, 0x0, 0x0, 0x0, 0x0, 0x0, 0xF, 0x0⟩,
  ⟨"SEC_BELL_MASK", 0x130000C, [], 0xF, 0x0, 0x0, 0x0, 0x0, 0x0, 0x0, 0x0, 0xF, 0x0⟩,
  ⟨"SEC_CMD", 0x1300010, [], 0x0, 0x0, 0x0, 0x0, 0xFFFF, 0x0, 0x0, 0x0, 0x0, 0x0⟩,
  ⟨"SEC_CMD_STAT", 0x1300014, [], 0x0, 0xFFFF010F, 0x0, 0x0, 0x0, 0x0, 0x0, 0x0, 0xFFFF010F, 0x0⟩,
  ⟨"SEC_CMD_ARG", 0x1300018, [], 0xFFFFFFFF, 0x0, 0x0, 0x0, 0x0, 0x0, 0x0, 0x0, 0xFFFFFFFF, 0x0⟩,
  ⟨"SEC_UID_LO", 0x1300020, [], 0x0, 0xFFFFFFFF, 0x0, 0x0, 0x0, 0x0, 0x0, 0x0, 0x0, 0x0⟩,
  ⟨"SEC_UID_HI", 0x1300024, [], 0x0, 0xFFFFFFFF, 0x0, 0x0, 0x0, 0x0, 0x0, 0x0, 0x0, 0x0⟩,
  ⟨"SEC_RNG", 0x1300028, [], 0x0, 0xFFFFFFFF, 0x0, 0x0, 0x0, 0x0, 0x0, 0x0, 0xFFFFFFFF, 0x0⟩,
  ⟨"SEC_RNG_STAT", 0x130002C, [], 0x0, 0xFFFF007F, 0x0, 0x0, 0x0, 0x0, 0x0, 0x0, 0xFFFF007F, 0x0⟩,
  ⟨"SEC_ROLL", 0x1300100, [(64, 0x4)], 0x0, 0xFF, 0x0, 0x0, 0x0, 0x0, 0x0, 0x0, 0x0, 0x0⟩,
  ⟨"SEC_BUF", 0x1300200, [(64, 0x4)], 0xFFFFFFFF, 0x0, 0x0, 0x0, 0x0, 0x0, 0x0, 0x0, 0xFFFFFFFF, 0x0⟩,
  ⟨"SEC_MEAS", 0x1300300, [(4, 0x30), (12, 0x4)], 0x0, 0xFFFFFFFF, 0x0, 0x0, 0x0, 0x0, 0x0, 0x0, 0xFFFFFFFF, 0x0⟩,
  ⟨"SEC_ID_PUB", 0x1300400, [(24, 0x4)], 0x0, 0xFFFFFFFF, 0x0, 0x0, 0x0, 0x0, 0x0, 0x0, 0x0, 0x0⟩,
  ⟨"SEC_CQ_CFG", 0x1300800, [(16, 0x40)], 0xFFFFFFFF, 0x0, 0x0, 0x0, 0x0, 0x0, 0x0, 0x0, 0xFFFFFFFF, 0x0⟩,
  ⟨"SEC_CQ_RES", 0x1300804, [(16, 0x40)], 0xFFFFFF1F, 0x0, 0x0, 0x0, 0x0, 0x0, 0x0, 0x0, 0xFFFFFF1F, 0x0⟩,
  ⟨"SEC_CQ_GO", 0x1300808, [(16, 0x40)], 0x0, 0x0, 0x0, 0x0, 0x1, 0x0, 0x0, 0x0, 0x0, 0x0⟩,
  ⟨"SEC_CQ_STAT", 0x130080C, [(16, 0x40)], 0x0, 0xF, 0x0, 0x0, 0x0, 0x0, 0x0, 0x0, 0xF, 0x0⟩,
  ⟨"SEC_CQ_JOB", 0x1300820, [(16, 0x40), (8, 0x4)], 0xFFFFFFFF, 0x0, 0x0, 0x0, 0x0, 0x0, 0x0, 0x0, 0xFFFFFFFF, 0x0⟩,
  ⟨"SEC_SC_W0", 0x1301000, [(64, 0x20)], 0x800007FF, 0x0, 0x0, 0x0, 0x0, 0x0, 0x0, 0x0, 0x800007FF, 0x0⟩,
  ⟨"SEC_SC_W1", 0x1301004, [(64, 0x20), (2, 0x4)], 0xFFFFFFFF, 0x0, 0x0, 0x0, 0x0, 0x0, 0x0, 0x0, 0xFFFFFFFF, 0x0⟩,
  ⟨"SEC_SC_W3", 0x130100C, [(64, 0x20), (2, 0x4)], 0xFFFFFFFF, 0x0, 0x0, 0x0, 0x0, 0x0, 0x0, 0x0, 0xFFFFFFFF, 0x0⟩,
  ⟨"SEC_SC_W5", 0x1301014, [(64, 0x20), (3, 0x4)], 0x0, 0x0, 0x0, 0x0, 0x0, 0x0, 0x0, 0x0, 0x0, 0x0⟩,
  ⟨"SEC_KEY_WR", 0x1301800, [(8, 0x4)], 0x0, 0x0, 0x0, 0x0, 0xFFFFFFFF, 0x0, 0x0, 0x0, 0x0, 0x0⟩,
  ⟨"SEC_KEY_CMD", 0x1301820, [], 0x0, 0x0, 0x0, 0x0, 0x1FF, 0x0, 0x0, 0x0, 0x0, 0x0⟩]
/-- Register map of ENG (spec/05_zelek_engines.md). -/
def regMapEng : List RegDesc := [
  ⟨"ENG_CTRL", 0x1400000, [(96, 0x1000)], 0x3, 0x0, 0x0, 0x0, 0x100, 0x0, 0x0, 0x0, 0x3, 0x3⟩,
  ⟨"ENG_STAT", 0x1400004, [(96, 0x1000)], 0x0, 0x3F3FF7, 0x0, 0x0, 0x0, 0x0, 0x0, 0x0, 0x3F3FF7, 0x3F3FF7⟩,
  ⟨"ENG_CFG", 0x1400008, [(96, 0x1000)], 0xFFF001F, 0x0, 0x0, 0x0, 0x0, 0x0, 0x0, 0x1000000, 0xFFF001F, 0x0⟩,
  ⟨"ENG_EXC", 0x140000C, [(96, 0x1000)], 0x0, 0xFFFF1FFF, 0x0, 0x0, 0x0, 0x0, 0x0, 0x0, 0xFFFF1FFF, 0xFFFF1FFF⟩,
  ⟨"ENG_EPC", 0x1400010, [(96, 0x1000)], 0x0, 0xFFFFFFFF, 0x0, 0x0, 0x0, 0x0, 0x0, 0x0, 0xFFFFFFFF, 0xFFFFFFFF⟩,
  ⟨"ENG_EADDR", 0x1400014, [(96, 0x1000)], 0x0, 0xFFFFFFFF, 0x0, 0x0, 0x0, 0x0, 0x0, 0x0, 0xFFFFFFFF, 0xFFFFFFFF⟩,
  ⟨"ENG_BELL", 0x1400018, [(96, 0x1000)], 0x0, 0x0, 0xFF, 0x0, 0x0, 0x0, 0x0, 0x0, 0xFF, 0xFF⟩,
  ⟨"ENG_BELL_MASK", 0x140001C, [(96, 0x1000)], 0xFF, 0x0, 0x0, 0x0, 0x0, 0x0, 0x0, 0x0, 0xFF, 0x0⟩,
  ⟨"ENG_EVQ_STAT", 0x1400020, [(96, 0x1000)], 0x0, 0xFFFF, 0x0, 0x0, 0x0, 0x0, 0x0, 0x0, 0xFFFF, 0xFFFF⟩,
  ⟨"ENG_EVQ_DROP", 0x1400024, [(96, 0x1000)], 0x0, 0x0, 0x0, 0x0, 0x0, 0xFFFFFFFF, 0x0, 0x0, 0xFFFFFFFF, 0xFFFFFFFF⟩,
  ⟨"ENG_OUTQ_STAT", 0x1400028, [(96, 0x1000)], 0x0, 0x7F7F, 0x0, 0x0, 0x0, 0x0, 0x0, 0x0, 0x7F7F, 0x7F7F⟩,
  ⟨"ENG_LATE", 0x140002C, [(96, 0x1000)], 0x0, 0x0, 0x0, 0x0, 0x0, 0xFFFFFFFF, 0x0, 0x0, 0xFFFFFFFF, 0xFFFFFFFF⟩,
  ⟨"ENG_BUDGET_OVR", 0x1400030, [(96, 0x1000)], 0x0, 0x0, 0x0, 0x0, 0x0, 0xFFFFFFFF, 0x0, 0x0, 0xFFFFFFFF, 0xFFFFFFFF⟩,
  ⟨"ENG_PREEMPT", 0x1400034, [(96, 0x1000)], 0x0, 0x0, 0x0, 0x0, 0x0, 0xFFFFFFFF, 0x0, 0x0, 0xFFFFFFFF, 0xFFFFFFFF⟩,
  ⟨"ENG_SETTLE_BRCH", 0x1400038, [(96, 0x1000)], 0x0, 0x0, 0x0, 0x0, 0x0, 0xFFFFFFFF, 0x0, 0x0, 0xFFFFFFFF, 0xFFFFFFFF⟩,
  ⟨"ENG_BUSY_LO", 0x1400040, [(96, 0x1000)], 0x0, 0xFFFFFFFF, 0x0, 0x0, 0x0, 0x0, 0x0, 0x0, 0xFFFFFFFF, 0x0⟩,
  ⟨"ENG_BUSY_HI", 0x1400044, [(96, 0x1000)], 0x0, 0xFFFFFFFF, 0x0, 0x0, 0x0, 0x0, 0x0, 0x0, 0xFFFFFFFF, 0x0⟩,
  ⟨"ENG_DBG_CTRL", 0x1400080, [(96, 0x1000)], 0x6, 0x0, 0x0, 0x0, 0x1, 0x0, 0x0, 0x0, 0x6, 0x0⟩,
  ⟨"ENG_DBG_SEL", 0x1400084, [(96, 0x1000)], 0xFF1F, 0x0, 0x0, 0x0, 0x0, 0x0, 0x0, 0x0, 0xFF1F, 0x0⟩,
  ⟨"ENG_DBG_DATA", 0x1400088, [(96, 0x1000)], 0xFFFFFFFF, 0x0, 0x0, 0x0, 0x0, 0x0, 0x0, 0x0, 0x0, 0x0⟩,
  ⟨"ENG_DBG_BP", 0x1400090, [(96, 0x1000), (4, 0x4)], 0xFFFFFFFF, 0x0, 0x0, 0x0, 0x0, 0x0, 0x0, 0x0, 0xFFFFFFFF, 0x0⟩,
  ⟨"ENG_SLOT_W0", 0x1400100, [(96, 0x1000), (32, 0x10)], 0x0, 0xF1FF, 0x0, 0x0, 0x0, 0x0, 0x0, 0x0, 0xF1FF, 0xF1FF⟩,
  ⟨"ENG_SLOT_W1", 0x1400104, [(96, 0x1000), (32, 0x10)], 0x0, 0xFFFFFFFF, 0x0, 0x0, 0x0, 0x0, 0x0, 0x0, 0xFFFFFFFF, 0xFFFFFFFF⟩,
  ⟨"ENG_SLOT_W2", 0x1400108, [(96, 0x1000), (32, 0x10)], 0x0, 0xFFFFFFFF, 0x0, 0x0, 0x0, 0x0, 0x0, 0x0, 0xFFFFFFFF, 0xFFFFFFFF⟩,
  ⟨"ENG_SLOT_W3", 0x140010C, [(96, 0x1000), (32, 0x10)], 0x0, 0xFFFFFF, 0x0, 0x0, 0x0, 0x0, 0x0, 0x0, 0xFFFFFF, 0xFFFFFF⟩]
/-- Whether offset `o` from a row's base addresses an element of an array with dimensions `dims`. -/
def inDims : Nat → List (Nat × Nat) → Bool
  | o, [] => o == 0
  | o, (c, s) :: t => o / s < c && inDims (o % s) t

/-- Whether the row covers the address. -/
def RegDesc.covers (d : RegDesc) (a : Nat) : Bool := d.base ≤ a && inDims (a - d.base) d.dims

/-- The map of the block that an address of BAR0 lies in (R532). -/
def blockMap (a : Nat) : List RegDesc :=
  if a < 0x100000 then regMapDev else
  if a < 0x200000 then regMapPwr else
  if a < 0x300000 then regMapTb else
  if a < 0x400000 then regMapTrd else
  if a < 0x500000 then regMapCut else
  if a < 0x600000 then regMapMbx else
  if a < 0x700000 then regMapHbr else
  if a < 0x800000 then regMapFbr else
  if a < 0x900000 then regMapMem else
  if a < 0xA00000 then regMapXmc else
  if a < 0xC00000 then regMapMac else
  if a < 0xE00000 then regMapSwc else
  if a < 0xF00000 then regMapRed else
  if a < 0x1000000 then regMapSlv else
  if a < 0x1100000 then regMapMdb else
  if a < 0x1200000 then regMapSht else
  if a < 0x1300000 then regMapScn else
  if a < 0x1400000 then regMapSec else
  if a < 0x1460000 then regMapEng else
  []

/-- The row that describes the register word at BAR0 offset `a`; none for an unassigned offset (R5, R531).
DEDUCED, log entry 81. -/
def regDesc (a : Nat) : Option RegDesc := (blockMap a).find? (fun d => d.covers a)

/-- MAC_IF_CFG of P16-P19 has its own reset value (spec/10_ports_mac.md, register map). -/
def resetOverride (a : Nat) : Option Word :=
  if a = 0xB00004 ∨ a = 0xB10004 ∨ a = 0xB20004 ∨ a = 0xB30004 then some 0xC else none

/-- The value of a register word after POR. DESIGN CHOICE, log entry 5. -/
def regReset (a : Nat) : Word :=
  match resetOverride a with
  | some v => v
  | none => match regDesc a with
    | some d => d.rst
    | none => 0

/-- What a WARM reset makes of a register word (R9, R10). -/
def warmValue (a : Nat) (v : Word) : Word :=
  match regDesc a with
  | some d => (v &&& ~~~ d.warm) ||| (regReset a &&& d.warm)
  | none => v

/-- What an ENGINE reset makes of a register word (R10). -/
def engineValue (a : Nat) (v : Word) : Word :=
  match regDesc a with
  | some d => (v &&& ~~~ d.eng) ||| (regReset a &&& d.eng)
  | none => v

/-! ### Addresses, one name per register (BAR0 offsets) -/
/-- PWR_MODE: Current mode and last request status (02_modes_startup_holdover.md) -/
abbrev PWR_MODE : Nat := 0x100000
/-- PWR_MODE_REQ: Mode request (02_modes_startup_holdover.md) -/
abbrev PWR_MODE_REQ : Nat := 0x100004
/-- PWR_RESET_CAUSE: Reset sources seen (02_modes_startup_holdover.md) -/
abbrev PWR_RESET_CAUSE : Nat := 0x100008
/-- PWR_RESET_CMD: Software WARM reset (02_modes_startup_holdover.md) -/
abbrev PWR_RESET_CMD : Nat := 0x10000C
/-- PWR_WAKE_CTRL: Wake source enables (02_modes_startup_holdover.md) -/
abbrev PWR_WAKE_CTRL : Nat := 0x100010
/-- PWR_WAKE_CAUSE: Wake sources fired (02_modes_startup_holdover.md) -/
abbrev PWR_WAKE_CAUSE : Nat := 0x100014
/-- PWR_SLEEP_CFG: Agreement timeout (02_modes_startup_holdover.md) -/
abbrev PWR_SLEEP_CFG : Nat := 0x100018
/-- PWR_PFW_CFG: Power-fail comparator (02_modes_startup_holdover.md) -/
abbrev PWR_PFW_CFG : Nat := 0x10001C
/-- PWR_PFW_STAT: Power-fail state (02_modes_startup_holdover.md) -/
abbrev PWR_PFW_STAT : Nat := 0x100020
/-- PWR_FLUSH_CFG: Retained-area flush target (02_modes_startup_holdover.md) -/
abbrev PWR_FLUSH_CFG : Nat := 0x100024
/-- PWR_FLUSH_STAT: Flush and reload state (02_modes_startup_holdover.md) -/
abbrev PWR_FLUSH_STAT : Nat := 0x100028
/-- PWR_HOLD_CNT_LO: Holdover counter [31:0] (02_modes_startup_holdover.md) -/
abbrev PWR_HOLD_CNT_LO : Nat := 0x10002C
/-- PWR_HOLD_CNT_HI: Holdover counter [63:32] (02_modes_startup_holdover.md) -/
abbrev PWR_HOLD_CNT_HI : Nat := 0x100030
/-- PWR_HOLD_STAT: Holdover counter state (02_modes_startup_holdover.md) -/
abbrev PWR_HOLD_STAT : Nat := 0x100034
/-- PWR_LSW_CFG: Local switch i = 0–3, stride 0x4 (02_modes_startup_holdover.md) -/
abbrev PWR_LSW_CFG (i : Nat) : Nat := 0x100040 + 0x4 * i
/-- PWR_CMP_CFG: Comparator c = 0–7, stride 0x4 (02_modes_startup_holdover.md) -/
abbrev PWR_CMP_CFG (c : Nat) : Nat := 0x100050 + 0x4 * c
/-- PWR_LOG_STAT: Event log state (02_modes_startup_holdover.md) -/
abbrev PWR_LOG_STAT : Nat := 0x100070
/-- PWR_LOG: Log entry i = 0–255, stride 0x10, four words (02_modes_startup_holdover.md) -/
abbrev PWR_LOG (i w : Nat) : Nat := 0x101000 + 0x10 * i + 0x4 * w
/-- TB_CTRL: Output and servo enables (03_time_base.md) -/
abbrev TB_CTRL : Nat := 0x200000
/-- TB_STAT: Validity, source, state (03_time_base.md) -/
abbrev TB_STAT : Nat := 0x200004
/-- TB_BELL: Bells (03_time_base.md) -/
abbrev TB_BELL : Nat := 0x200008
/-- TB_BELL_MASK: Bell masks (03_time_base.md) -/
abbrev TB_BELL_MASK : Nat := 0x20000C
/-- TB_ST: Short time; read latches TB_ST_HI (03_time_base.md) -/
abbrev TB_ST : Nat := 0x200010
/-- TB_ST_HI: Wrap count latched by TB_ST (03_time_base.md) -/
abbrev TB_ST_HI : Nat := 0x200014
/-- TB_WRAP_CNT: Wraps since reset release (03_time_base.md) -/
abbrev TB_WRAP_CNT : Nat := 0x200018
/-- TB_TAI_NS: TAI ns; read latches 0x024–0x02C (03_time_base.md) -/
abbrev TB_TAI_NS : Nat := 0x200020
/-- TB_TAI_SEC_LO: Seconds [31:0] (03_time_base.md) -/
abbrev TB_TAI_SEC_LO : Nat := 0x200024
/-- TB_TAI_SEC_HI: Seconds [47:32] (03_time_base.md) -/
abbrev TB_TAI_SEC_HI : Nat := 0x200028
/-- TB_TAI_FRAC: Fraction (03_time_base.md) -/
abbrev TB_TAI_FRAC : Nat := 0x20002C
/-- TB_TAI_SET_NS: Value to set (03_time_base.md) -/
abbrev TB_TAI_SET_NS : Nat := 0x200030
/-- TB_TAI_SET_SEC_LO: Value to set (03_time_base.md) -/
abbrev TB_TAI_SET_SEC_LO : Nat := 0x200034
/-- TB_TAI_SET_SEC_HI: Value to set (03_time_base.md) -/
abbrev TB_TAI_SET_SEC_HI : Nat := 0x200038
/-- TB_TAI_SET_CMD: Set TAI (03_time_base.md) -/
abbrev TB_TAI_SET_CMD : Nat := 0x20003C
/-- TB_ANCHOR_ST: Anchor short time; read latches 0x044–0x04C (03_time_base.md) -/
abbrev TB_ANCHOR_ST : Nat := 0x200040
/-- TB_ANCHOR_NS: Anchor TAI ns (03_time_base.md) -/
abbrev TB_ANCHOR_NS : Nat := 0x200044
/-- TB_ANCHOR_SEC_LO: Anchor seconds [31:0] (03_time_base.md) -/
abbrev TB_ANCHOR_SEC_LO : Nat := 0x200048
/-- TB_ANCHOR_SEC_HI: Anchor seconds [47:32], generation (03_time_base.md) -/
abbrev TB_ANCHOR_SEC_HI : Nat := 0x20004C
/-- TB_SRV_CFG: Source, interval, loss (03_time_base.md) -/
abbrev TB_SRV_CFG : Nat := 0x200050
/-- TB_SRV_GAIN: kp, ki (03_time_base.md) -/
abbrev TB_SRV_GAIN : Nat := 0x200054
/-- TB_FREQ_LIMIT: Clamp, ppb (03_time_base.md) -/
abbrev TB_FREQ_LIMIT : Nat := 0x200058
/-- TB_SRV_MS_LO: d_ms [31:0] (03_time_base.md) -/
abbrev TB_SRV_MS_LO : Nat := 0x200060
/-- TB_SRV_MS_HI: d_ms [63:32] (03_time_base.md) -/
abbrev TB_SRV_MS_HI : Nat := 0x200064
/-- TB_SRV_PD: d_p (03_time_base.md) -/
abbrev TB_SRV_PD : Nat := 0x200068
/-- TB_SRV_CMD: Commit (03_time_base.md) -/
abbrev TB_SRV_CMD : Nat := 0x20006C
/-- TB_SRV_FREQ_LO: y [31:0] (03_time_base.md) -/
abbrev TB_SRV_FREQ_LO : Nat := 0x200070
/-- TB_SRV_FREQ_HI: y [47:32], sign-extended (03_time_base.md) -/
abbrev TB_SRV_FREQ_HI : Nat := 0x200074
/-- TB_SRV_INTEG_LO: i [31:0] (03_time_base.md) -/
abbrev TB_SRV_INTEG_LO : Nat := 0x200078
/-- TB_SRV_INTEG_HI: i [47:32], sign-extended (03_time_base.md) -/
abbrev TB_SRV_INTEG_HI : Nat := 0x20007C
/-- TB_SRV_LAST_LO: Last θ [31:0] (03_time_base.md) -/
abbrev TB_SRV_LAST_LO : Nat := 0x200080
/-- TB_SRV_LAST_HI: Last θ [63:32] (03_time_base.md) -/
abbrev TB_SRV_LAST_HI : Nat := 0x200084
/-- TB_JUMP_LIMIT: Jump limit (03_time_base.md) -/
abbrev TB_JUMP_LIMIT : Nat := 0x200090
/-- TB_JUMP_CONFIRM: Confirmations (03_time_base.md) -/
abbrev TB_JUMP_CONFIRM : Nat := 0x200094
/-- TB_JUMP_TOL: Consistency tolerance (03_time_base.md) -/
abbrev TB_JUMP_TOL : Nat := 0x200098
/-- TB_JUMP_CMD: Force (03_time_base.md) -/
abbrev TB_JUMP_CMD : Nat := 0x20009C
/-- TB_JUMP_STAT: State, count, discards (03_time_base.md) -/
abbrev TB_JUMP_STAT : Nat := 0x2000A0
/-- TB_JUMP_LAST_LO: Last jump [31:0] (03_time_base.md) -/
abbrev TB_JUMP_LAST_LO : Nat := 0x2000A4
/-- TB_JUMP_LAST_HI: Last jump [63:32] (03_time_base.md) -/
abbrev TB_JUMP_LAST_HI : Nat := 0x2000A8
/-- TB_PPS_OUT_CFG: PPS out (03_time_base.md) -/
abbrev TB_PPS_OUT_CFG : Nat := 0x2000B0
/-- TB_PPS_IN_CFG: PPS in (03_time_base.md) -/
abbrev TB_PPS_IN_CFG : Nat := 0x2000B4
/-- TB_PPS_IN_ST: Edge short time (03_time_base.md) -/
abbrev TB_PPS_IN_ST : Nat := 0x2000B8
/-- TB_PPS_IN_FRAC: Edge quarter-ns (03_time_base.md) -/
abbrev TB_PPS_IN_FRAC : Nat := 0x2000BC
/-- TB_CLK_CFG: Reference (03_time_base.md) -/
abbrev TB_CLK_CFG : Nat := 0x2000C0
/-- TB_CLOCK_ID_LO: clockIdentity bytes 4–7 (03_time_base.md) -/
abbrev TB_CLOCK_ID_LO : Nat := 0x2000C8
/-- TB_CLOCK_ID_HI: clockIdentity bytes 0–3 (03_time_base.md) -/
abbrev TB_CLOCK_ID_HI : Nat := 0x2000CC
/-- TB_PORT_CFG: Per-port PTP, stride 0x4 (03_time_base.md) -/
abbrev TB_PORT_CFG (p : Nat) : Nat := 0x200100 + 0x4 * p
/-- TB_PORT_LAT: PHY corrections, stride 0x4 (03_time_base.md) -/
abbrev TB_PORT_LAT (p : Nat) : Nat := 0x200180 + 0x4 * p
/-- TB_PORT_LINK_DLY: Link delay, stride 0x4 (03_time_base.md) -/
abbrev TB_PORT_LINK_DLY (p : Nat) : Nat := 0x200200 + 0x4 * p
/-- TB_TSQ_LOST: Lost stamps, stride 0x4 (03_time_base.md) -/
abbrev TB_TSQ_LOST (p : Nat) : Nat := 0x200280 + 0x4 * p
/-- TB_TSQ_STAT: Occupancy, stride 0x4 (03_time_base.md) -/
abbrev TB_TSQ_STAT (p : Nat) : Nat := 0x200300 + 0x4 * p
/-- TB_TSQ_ENTRY: Queue head, stride 0x10, four words (03_time_base.md) -/
abbrev TB_TSQ_ENTRY (p w : Nat) : Nat := 0x201000 + 0x10 * p + 0x4 * w
/-- TRD_CTRL: Global behaviour (04_treadles_wave_time.md) -/
abbrev TRD_CTRL : Nat := 0x300000
/-- TRD_BELL: Summary bells (04_treadles_wave_time.md) -/
abbrev TRD_BELL : Nat := 0x300004
/-- TRD_BELL_MASK: Bell masks (04_treadles_wave_time.md) -/
abbrev TRD_BELL_MASK : Nat := 0x300008
/-- TRD_START: Synchronous start and stop (04_treadles_wave_time.md) -/
abbrev TRD_START : Nat := 0x30000C
/-- TRD_START_AT: Short-time start target (04_treadles_wave_time.md) -/
abbrev TRD_START_AT : Nat := 0x300010
/-- TRD_GRP_CFG: Coupled group g = 0–3, stride 0x4 (04_treadles_wave_time.md) -/
abbrev TRD_GRP_CFG (g : Nat) : Nat := 0x300020 + 0x4 * g
/-- TRD_PAT_GRP: Pattern group members and master (04_treadles_wave_time.md) -/
abbrev TRD_PAT_GRP : Nat := 0x300030
/-- TRD_LATCH_CFG: Edge latch l = 0–7, stride 0x4 (04_treadles_wave_time.md) -/
abbrev TRD_LATCH_CFG (l : Nat) : Nat := 0x300040 + 0x4 * l
/-- TRD_LATCH: Latch capture, stride 0x10, four words (04_treadles_wave_time.md) -/
abbrev TRD_LATCH (l w : Nat) : Nat := 0x300100 + 0x10 * l + 0x4 * w
/-- TRD_PAT_CFG: Table t = 0–7, stride 0x4 (04_treadles_wave_time.md) -/
abbrev TRD_PAT_CFG (t : Nat) : Nat := 0x300200 + 0x4 * t
/-- TRD_PAT_LIFT: Cam lift per cycle, stride 0x4 (04_treadles_wave_time.md) -/
abbrev TRD_PAT_LIFT (t : Nat) : Nat := 0x300220 + 0x4 * t
/-- TRD_CFG: Mode and run mode (04_treadles_wave_time.md) -/
abbrev TRD_CFG (n : Nat) : Nat := 0x301000 + 0x80 * n
/-- TRD_INC_LO: Increment [31:0] (04_treadles_wave_time.md) -/
abbrev TRD_INC_LO (n : Nat) : Nat := 0x301004 + 0x80 * n
/-- TRD_INC_HI: Increment [47:32]; write applies (04_treadles_wave_time.md) -/
abbrev TRD_INC_HI (n : Nat) : Nat := 0x301008 + 0x80 * n
/-- TRD_ACC_LO: Accumulator [31:0]; read latches (04_treadles_wave_time.md) -/
abbrev TRD_ACC_LO (n : Nat) : Nat := 0x30100C + 0x80 * n
/-- TRD_ACC_HI: Accumulator [47:32] (04_treadles_wave_time.md) -/
abbrev TRD_ACC_HI (n : Nat) : Nat := 0x301010 + 0x80 * n
/-- TRD_CYCLE: Cycle count (04_treadles_wave_time.md) -/
abbrev TRD_CYCLE (n : Nat) : Nat := 0x301014 + 0x80 * n
/-- TRD_LOCK_CFG: Source and counts (04_treadles_wave_time.md) -/
abbrev TRD_LOCK_CFG (n : Nat) : Nat := 0x301018 + 0x80 * n
/-- TRD_LOCK_GAIN: kp, ki (04_treadles_wave_time.md) -/
abbrev TRD_LOCK_GAIN (n : Nat) : Nat := 0x30101C + 0x80 * n
/-- TRD_LOCK_MIN: Lowest increment (04_treadles_wave_time.md) -/
abbrev TRD_LOCK_MIN (n : Nat) : Nat := 0x301020 + 0x80 * n
/-- TRD_LOCK_MAX: Highest increment (04_treadles_wave_time.md) -/
abbrev TRD_LOCK_MAX (n : Nat) : Nat := 0x301024 + 0x80 * n
/-- TRD_LOCK_ACCEPT: Phase window (04_treadles_wave_time.md) -/
abbrev TRD_LOCK_ACCEPT (n : Nat) : Nat := 0x301028 + 0x80 * n
/-- TRD_PHASE_OFS: Phase at crossing (04_treadles_wave_time.md) -/
abbrev TRD_PHASE_OFS (n : Nat) : Nat := 0x30102C + 0x80 * n
/-- TRD_PHASE_ADJ: Phase step (04_treadles_wave_time.md) -/
abbrev TRD_PHASE_ADJ (n : Nat) : Nat := 0x301030 + 0x80 * n
/-- TRD_LOCK_STAT: State and counts (04_treadles_wave_time.md) -/
abbrev TRD_LOCK_STAT (n : Nat) : Nat := 0x301034 + 0x80 * n
/-- TRD_LOCK_ERR: Last phase error (04_treadles_wave_time.md) -/
abbrev TRD_LOCK_ERR (n : Nat) : Nat := 0x301038 + 0x80 * n
/-- TRD_STRB_CFG: Strobes (04_treadles_wave_time.md) -/
abbrev TRD_STRB_CFG (n : Nat) : Nat := 0x301040 + 0x80 * n
/-- TRD_STEP_CFG: Step and direction (04_treadles_wave_time.md) -/
abbrev TRD_STEP_CFG (n : Nat) : Nat := 0x301044 + 0x80 * n
/-- TRD_POS: Step position (04_treadles_wave_time.md) -/
abbrev TRD_POS (n : Nat) : Nat := 0x301048 + 0x80 * n
/-- TRD_RAMP_CFG: Ramp kind and period (04_treadles_wave_time.md) -/
abbrev TRD_RAMP_CFG (n : Nat) : Nat := 0x30104C + 0x80 * n
/-- TRD_RAMP_ACCEL: Increment change per period (04_treadles_wave_time.md) -/
abbrev TRD_RAMP_ACCEL (n : Nat) : Nat := 0x301050 + 0x80 * n
/-- TRD_RAMP_VMAX: Speed limit (04_treadles_wave_time.md) -/
abbrev TRD_RAMP_VMAX (n : Nat) : Nat := 0x301054 + 0x80 * n
/-- TRD_RAMP_TARGET: Target or distance (04_treadles_wave_time.md) -/
abbrev TRD_RAMP_TARGET (n : Nat) : Nat := 0x301058 + 0x80 * n
/-- TRD_RAMP_CMD: Go and stop (04_treadles_wave_time.md) -/
abbrev TRD_RAMP_CMD (n : Nat) : Nat := 0x30105C + 0x80 * n
/-- TRD_TSTAT: Per-treadle bells (04_treadles_wave_time.md) -/
abbrev TRD_TSTAT (n : Nat) : Nat := 0x301060 + 0x80 * n
/-- TRD_TSTAT_MASK: Masks (04_treadles_wave_time.md) -/
abbrev TRD_TSTAT_MASK (n : Nat) : Nat := 0x301064 + 0x80 * n
/-- TRD_PAT_TAB: Entry i = 0–1,023 of table t (04_treadles_wave_time.md) -/
abbrev TRD_PAT_TAB (t i : Nat) : Nat := 0x308000 + 0x1000 * t + 0x4 * i
/-- ENG_CTRL: Enable, halt, reset (05_zelek_engines.md) -/
abbrev ENG_CTRL (e : Nat) : Nat := 0x1400000 + 0x1000 * e
/-- ENG_STAT: State and current channel (05_zelek_engines.md) -/
abbrev ENG_STAT (e : Nat) : Nat := 0x1400004 + 0x1000 * e
/-- ENG_CFG: Wave binding, repeat limit (05_zelek_engines.md) -/
abbrev ENG_CFG (e : Nat) : Nat := 0x1400008 + 0x1000 * e
/-- ENG_EXC: Last exception (05_zelek_engines.md) -/
abbrev ENG_EXC (e : Nat) : Nat := 0x140000C + 0x1000 * e
/-- ENG_EPC: Faulting program counter (05_zelek_engines.md) -/
abbrev ENG_EPC (e : Nat) : Nat := 0x1400010 + 0x1000 * e
/-- ENG_EADDR: Faulting address (05_zelek_engines.md) -/
abbrev ENG_EADDR (e : Nat) : Nat := 0x1400014 + 0x1000 * e
/-- ENG_BELL: Bells (05_zelek_engines.md) -/
abbrev ENG_BELL (e : Nat) : Nat := 0x1400018 + 0x1000 * e
/-- ENG_BELL_MASK: Bell masks (05_zelek_engines.md) -/
abbrev ENG_BELL_MASK (e : Nat) : Nat := 0x140001C + 0x1000 * e
/-- ENG_EVQ_STAT: Event queue occupancy (05_zelek_engines.md) -/
abbrev ENG_EVQ_STAT (e : Nat) : Nat := 0x1400020 + 0x1000 * e
/-- ENG_EVQ_DROP: Dropped events (05_zelek_engines.md) -/
abbrev ENG_EVQ_DROP (e : Nat) : Nat := 0x1400024 + 0x1000 * e
/-- ENG_OUTQ_STAT: Output queue occupancy (05_zelek_engines.md) -/
abbrev ENG_OUTQ_STAT (e : Nat) : Nat := 0x1400028 + 0x1000 * e
/-- ENG_LATE: Late inputs (05_zelek_engines.md) -/
abbrev ENG_LATE (e : Nat) : Nat := 0x140002C + 0x1000 * e
/-- ENG_BUDGET_OVR: Budget suspensions (05_zelek_engines.md) -/
abbrev ENG_BUDGET_OVR (e : Nat) : Nat := 0x1400030 + 0x1000 * e
/-- ENG_PREEMPT: Preemptions (05_zelek_engines.md) -/
abbrev ENG_PREEMPT (e : Nat) : Nat := 0x1400034 + 0x1000 * e
/-- ENG_SETTLE_BRCH: Settle breaches (05_zelek_engines.md) -/
abbrev ENG_SETTLE_BRCH (e : Nat) : Nat := 0x1400038 + 0x1000 * e
/-- ENG_BUSY_LO: Busy cycles [31:0]; read latches HI (05_zelek_engines.md) -/
abbrev ENG_BUSY_LO (e : Nat) : Nat := 0x1400040 + 0x1000 * e
/-- ENG_BUSY_HI: Busy cycles [63:32] (05_zelek_engines.md) -/
abbrev ENG_BUSY_HI (e : Nat) : Nat := 0x1400044 + 0x1000 * e
/-- ENG_DBG_CTRL: Step and breakpoints (05_zelek_engines.md) -/
abbrev ENG_DBG_CTRL (e : Nat) : Nat := 0x1400080 + 0x1000 * e
/-- ENG_DBG_SEL: Slot and register selector (05_zelek_engines.md) -/
abbrev ENG_DBG_SEL (e : Nat) : Nat := 0x1400084 + 0x1000 * e
/-- ENG_DBG_DATA: Selected register (05_zelek_engines.md) -/
abbrev ENG_DBG_DATA (e : Nat) : Nat := 0x1400088 + 0x1000 * e
/-- ENG_DBG_BP: Breakpoint k = 0–3, stride 0x4 (05_zelek_engines.md) -/
abbrev ENG_DBG_BP (e k : Nat) : Nat := 0x1400090 + 0x1000 * e + 0x4 * k
/-- ENG_SLOT: Slot s = 0–31, stride 0x10, four words (05_zelek_engines.md) -/
abbrev ENG_SLOT (e s w : Nat) : Nat := 0x1400100 + 0x1000 * e + 0x10 * s + 0x4 * w
/-- CUT_CTRL: Automatic moves, recovery (08_channels_cutter.md) -/
abbrev CUT_CTRL : Nat := 0x400000
/-- CUT_STAT: Disagreement, recovery (08_channels_cutter.md) -/
abbrev CUT_STAT : Nat := 0x400004
/-- CUT_BELL: Bells (08_channels_cutter.md) -/
abbrev CUT_BELL : Nat := 0x400008
/-- CUT_BELL_MASK: Bell masks (08_channels_cutter.md) -/
abbrev CUT_BELL_MASK : Nat := 0x40000C
/-- CUT_CKPT_CFG: Pattern book, full checkpoints (08_channels_cutter.md) -/
abbrev CUT_CKPT_CFG : Nat := 0x400010
/-- CUT_CHAN_COUNT: Live channels (08_channels_cutter.md) -/
abbrev CUT_CHAN_COUNT : Nat := 0x400014
/-- CUT_LATE_TOTAL: Late inputs, all channels (08_channels_cutter.md) -/
abbrev CUT_LATE_TOTAL : Nat := 0x400018
/-- CUT_MIGRATE_CNT: Migrations and recoveries (08_channels_cutter.md) -/
abbrev CUT_MIGRATE_CNT : Nat := 0x40001C
/-- CUT_PORT_SHARE: Port share p = 0–19, stride 0x4 (08_channels_cutter.md) -/
abbrev CUT_PORT_SHARE (p : Nat) : Nat := 0x400020 + 0x4 * p
/-- CUT_WITHHELD: Outputs withheld under R538 (08_channels_cutter.md) -/
abbrev CUT_WITHHELD : Nat := 0x400070
/-- CUT_BANK_LOAD: Admitted slots b = 0–63, stride 0x4 (08_channels_cutter.md) -/
abbrev CUT_BANK_LOAD (b : Nat) : Nat := 0x400080 + 0x4 * b
/-- CUT_ENG_LOAD: Admitted load e = 0–95, stride 0x4 (08_channels_cutter.md) -/
abbrev CUT_ENG_LOAD (e : Nat) : Nat := 0x400200 + 0x4 * e
/-- CUT_CMD: Command code (08_channels_cutter.md) -/
abbrev CUT_CMD (k : Nat) : Nat := 0x400400 + 0x100 * k
/-- CUT_CMD_STAT: Busy, status, sequence (08_channels_cutter.md) -/
abbrev CUT_CMD_STAT (k : Nat) : Nat := 0x400404 + 0x100 * k
/-- CUT_ARG: Argument j = 0–3, stride 0x4 (08_channels_cutter.md) -/
abbrev CUT_ARG (k j : Nat) : Nat := 0x400408 + 0x100 * k + 0x4 * j
/-- CUT_RES: Result j = 0–1, stride 0x4 (08_channels_cutter.md) -/
abbrev CUT_RES (k j : Nat) : Nat := 0x400418 + 0x100 * k + 0x4 * j
/-- CUT_DESC: Descriptor word i = 0–47, stride 0x4 (08_channels_cutter.md) -/
abbrev CUT_DESC (k i : Nat) : Nat := 0x400440 + 0x100 * k + 0x4 * i
/-- CUT_CHAN: Channel c = 0–511, stride 0x10, four words (08_channels_cutter.md) -/
abbrev CUT_CHAN (c w : Nat) : Nat := 0x400800 + 0x10 * c + 0x4 * w
/-- CUT_PACK: Pack i = 0–63, stride 0x8, two words (08_channels_cutter.md) -/
abbrev CUT_PACK (i w : Nat) : Nat := 0x402800 + 0x8 * i + 0x4 * w
/-- CUT_EVT_SUB: Engine-event subscriber of block b = 0–18, stride 0x4 (08_channels_cutter.md) -/
abbrev CUT_EVT_SUB (b : Nat) : Nat := 0x402A00 + 0x4 * b
/-- MEM_CTRL: Scrub and write-back enables (09_memory.md) -/
abbrev MEM_CTRL : Nat := 0x800000
/-- MEM_STAT: Disagreement, scrub state (09_memory.md) -/
abbrev MEM_STAT : Nat := 0x800004
/-- MEM_BELL: Bells (09_memory.md) -/
abbrev MEM_BELL : Nat := 0x800008
/-- MEM_BELL_MASK: Bell masks (09_memory.md) -/
abbrev MEM_BELL_MASK : Nat := 0x80000C
/-- MEM_SCRUB_CFG: Scrub period (09_memory.md) -/
abbrev MEM_SCRUB_CFG : Nat := 0x800010
/-- MEM_SCRUB_STAT: Passes, progress (09_memory.md) -/
abbrev MEM_SCRUB_STAT : Nat := 0x800014
/-- MEM_ORD_STAT: Ordering inversions (09_memory.md) -/
abbrev MEM_ORD_STAT : Nat := 0x800018
/-- MEM_FC_CFG: Threshold, decay (09_memory.md) -/
abbrev MEM_FC_CFG : Nat := 0x800020
/-- MEM_ERR_HEAD: Error log state (09_memory.md) -/
abbrev MEM_ERR_HEAD : Nat := 0x800030
/-- MEM_BANK_STAT: Bank b = 0–63, stride 0x4 (09_memory.md) -/
abbrev MEM_BANK_STAT (b : Nat) : Nat := 0x800100 + 0x4 * b
/-- MEM_BANK_CNT: Bank counters, stride 0x4 (09_memory.md) -/
abbrev MEM_BANK_CNT (b : Nat) : Nat := 0x800200 + 0x4 * b
/-- MEM_FC_RES: Resource r = 0x00–0xFD, stride 0x4 (09_memory.md) -/
abbrev MEM_FC_RES (r : Nat) : Nat := 0x800400 + 0x4 * r
/-- MEM_ERR_LOG: Entry i = 0–31, stride 0x10, four words (09_memory.md) -/
abbrev MEM_ERR_LOG (i w : Nat) : Nat := 0x800800 + 0x10 * i + 0x4 * w
/-- XMC_CTRL: Refresh rate, host protection (09_memory.md) -/
abbrev XMC_CTRL : Nat := 0x900000
/-- XMC_STAT: Training, retired regions (09_memory.md) -/
abbrev XMC_STAT : Nat := 0x900004
/-- XMC_BELL: Bells (09_memory.md) -/
abbrev XMC_BELL : Nat := 0x900008
/-- XMC_BELL_MASK: Bell masks (09_memory.md) -/
abbrev XMC_BELL_MASK : Nat := 0x90000C
/-- XMC_CFG: Devices and size (09_memory.md) -/
abbrev XMC_CFG : Nat := 0x900010
/-- XMC_SCRUB_CFG: Scrub period (09_memory.md) -/
abbrev XMC_SCRUB_CFG : Nat := 0x900014
/-- XMC_BOLT_BASE: Bolt store base (09_memory.md) -/
abbrev XMC_BOLT_BASE : Nat := 0x900020
/-- XMC_BOLT_SIZE: Bolt store size (09_memory.md) -/
abbrev XMC_BOLT_SIZE : Nat := 0x900024
/-- XMC_POOL_BASE: Cutter pool base (09_memory.md) -/
abbrev XMC_POOL_BASE : Nat := 0x900028
/-- XMC_POOL_SIZE: Cutter pool size (09_memory.md) -/
abbrev XMC_POOL_SIZE : Nat := 0x90002C
/-- XMC_HOST_WIN: BAR4 window (09_memory.md) -/
abbrev XMC_HOST_WIN : Nat := 0x900030
/-- XMC_CNT_CORR: Corrected codewords (09_memory.md) -/
abbrev XMC_CNT_CORR : Nat := 0x900040
/-- XMC_CNT_UNCORR: Uncorrectable after retry (09_memory.md) -/
abbrev XMC_CNT_UNCORR : Nat := 0x900044
/-- XMC_CNT_RETRY: Retries that succeeded (09_memory.md) -/
abbrev XMC_CNT_RETRY : Nat := 0x900048
/-- XMC_RETIRED_LO: Regions 0–31 retired (09_memory.md) -/
abbrev XMC_RETIRED_LO : Nat := 0x900050
/-- XMC_RETIRED_HI: Regions 32–63 retired (09_memory.md) -/
abbrev XMC_RETIRED_HI : Nat := 0x900054
/-- MAC_CTRL: Enables, max_len (10_ports_mac.md) -/
abbrev MAC_CTRL (p : Nat) : Nat := 0xA00000 + 0x10000 * p
/-- MAC_IF_CFG: Interface (10_ports_mac.md) -/
abbrev MAC_IF_CFG (p : Nat) : Nat := 0xA00004 + 0x10000 * p
/-- MAC_STAT: PCS and port state (10_ports_mac.md) -/
abbrev MAC_STAT (p : Nat) : Nat := 0xA00008 + 0x10000 * p
/-- MAC_BELL: Bells (10_ports_mac.md) -/
abbrev MAC_BELL (p : Nat) : Nat := 0xA0000C + 0x10000 * p
/-- MAC_BELL_MASK: Bell masks (10_ports_mac.md) -/
abbrev MAC_BELL_MASK (p : Nat) : Nat := 0xA00010 + 0x10000 * p
/-- MAC_VLAN_CFG: Port VID, default PCP and filter (10_ports_mac.md) -/
abbrev MAC_VLAN_CFG (p : Nat) : Nat := 0xA00014 + 0x10000 * p
/-- MAC_PAUSE_CFG: Flow control (10_ports_mac.md) -/
abbrev MAC_PAUSE_CFG (p : Nat) : Nat := 0xA00018 + 0x10000 * p
/-- MAC_PAUSE_WDOG: Watchdog (10_ports_mac.md) -/
abbrev MAC_PAUSE_WDOG (p : Nat) : Nat := 0xA0001C + 0x10000 * p
/-- MAC_PAUSE_STAT: Held and ignored classes (10_ports_mac.md) -/
abbrev MAC_PAUSE_STAT (p : Nat) : Nat := 0xA00020 + 0x10000 * p
/-- MAC_LINK_CFG: Management view source (10_ports_mac.md) -/
abbrev MAC_LINK_CFG (p : Nat) : Nat := 0xA00024 + 0x10000 * p
/-- MAC_LINK_STAT: Both views (10_ports_mac.md) -/
abbrev MAC_LINK_STAT (p : Nat) : Nat := 0xA00028 + 0x10000 * p
/-- MAC_VLAN_TPID: Second outer TPID (10_ports_mac.md) -/
abbrev MAC_VLAN_TPID (p : Nat) : Nat := 0xA0002C + 0x10000 * p
/-- MAC_MON_CFG: Monitor enable (10_ports_mac.md) -/
abbrev MAC_MON_CFG (p : Nat) : Nat := 0xA00030 + 0x10000 * p
/-- MAC_MON_MISMATCH: Output faults (10_ports_mac.md) -/
abbrev MAC_MON_MISMATCH (p : Nat) : Nat := 0xA00034 + 0x10000 * p
/-- MAC_MON_LAST: Time of last fault (10_ports_mac.md) -/
abbrev MAC_MON_LAST (p : Nat) : Nat := 0xA00038 + 0x10000 * p
/-- MAC_MON_DIGEST: Running digest (10_ports_mac.md) -/
abbrev MAC_MON_DIGEST (p : Nat) : Nat := 0xA0003C + 0x10000 * p
/-- MAC_SEC_CFG: MACsec SecY (10_ports_mac.md) -/
abbrev MAC_SEC_CFG (p : Nat) : Nat := 0xA00040 + 0x10000 * p
/-- MAC_SEC_STAT: MACsec counters (10_ports_mac.md) -/
abbrev MAC_SEC_STAT (p : Nat) : Nat := 0xA00044 + 0x10000 * p
/-- MAC_TALLY_CLR: Clear tallies (10_ports_mac.md) -/
abbrev MAC_TALLY_CLR (p : Nat) : Nat := 0xA00060 + 0x10000 * p
/-- MAC_TALLY_BELL_LO: Half-range bells, tallies 0–31 (10_ports_mac.md) -/
abbrev MAC_TALLY_BELL_LO (p : Nat) : Nat := 0xA00064 + 0x10000 * p
/-- MAC_TALLY_BELL_HI: Half-range bells, tallies 32–47 (10_ports_mac.md) -/
abbrev MAC_TALLY_BELL_HI (p : Nat) : Nat := 0xA00068 + 0x10000 * p
/-- MAC_TALLY_MASK_LO: Masks, tallies 0–31 (10_ports_mac.md) -/
abbrev MAC_TALLY_MASK_LO (p : Nat) : Nat := 0xA0006C + 0x10000 * p
/-- MAC_TALLY_MASK_HI: Masks, tallies 32–47 (10_ports_mac.md) -/
abbrev MAC_TALLY_MASK_HI (p : Nat) : Nat := 0xA00070 + 0x10000 * p
/-- MAC_TALLY: Tally i = 0–47, stride 0x8, two words (10_ports_mac.md) -/
abbrev MAC_TALLY (p i w : Nat) : Nat := 0xA00800 + 0x10000 * p + 0x8 * i + 0x4 * w
/-- MAC_MDIO_CFG: Master m = 0–1, stride 0x4 (10_ports_mac.md) -/
abbrev MAC_MDIO_CFG (m : Nat) : Nat := 0xB40000 + 0x4 * m
/-- MAC_MDIO_CMD: Command, stride 0x10 (10_ports_mac.md) -/
abbrev MAC_MDIO_CMD (m : Nat) : Nat := 0xB40010 + 0x10 * m
/-- MAC_MDIO_DATA: Write data, read result (10_ports_mac.md) -/
abbrev MAC_MDIO_DATA (m : Nat) : Nat := 0xB40014 + 0x10 * m
/-- MAC_MDIO_STAT: Busy and sequence (10_ports_mac.md) -/
abbrev MAC_MDIO_STAT (m : Nat) : Nat := 0xB40018 + 0x10 * m
/-- MAC_GLB_BELL: Bells (10_ports_mac.md) -/
abbrev MAC_GLB_BELL : Nat := 0xB40040
/-- MAC_GLB_BELL_MASK: Bell masks (10_ports_mac.md) -/
abbrev MAC_GLB_BELL_MASK : Nat := 0xB40044
/-- SWC_CTRL: Forwarding, learning, flooding (11_switch_core.md) -/
abbrev SWC_CTRL : Nat := 0xC00000
/-- SWC_STAT: Disagreement, reserve shortage (11_switch_core.md) -/
abbrev SWC_STAT : Nat := 0xC00004
/-- SWC_BELL: Bells (11_switch_core.md) -/
abbrev SWC_BELL : Nat := 0xC00008
/-- SWC_BELL_MASK: Bell masks (11_switch_core.md) -/
abbrev SWC_BELL_MASK : Nat := 0xC0000C
/-- SWC_POOL_STAT: Free cells (11_switch_core.md) -/
abbrev SWC_POOL_STAT : Nat := 0xC00010
/-- SWC_BOLT_STAT: Bolt store cells used (11_switch_core.md) -/
abbrev SWC_BOLT_STAT : Nat := 0xC00014
/-- SWC_FDB_CFG: FDB aging (11_switch_core.md) -/
abbrev SWC_FDB_CFG : Nat := 0xC00018
/-- SWC_SPILL_CFG: Spill enable and rate (11_switch_core.md) -/
abbrev SWC_SPILL_CFG : Nat := 0xC0001C
/-- SWC_FDB_CMD: FDB command (11_switch_core.md) -/
abbrev SWC_FDB_CMD : Nat := 0xC00020
/-- SWC_FDB_ARG: Argument j = 0–2, stride 0x4 (11_switch_core.md) -/
abbrev SWC_FDB_ARG (j : Nat) : Nat := 0xC00024 + 0x4 * j
/-- SWC_FDB_RES: Result j = 0–1, stride 0x4 (11_switch_core.md) -/
abbrev SWC_FDB_RES (j : Nat) : Nat := 0xC00030 + 0x4 * j
/-- SWC_FDB_STAT: Busy, status, use (11_switch_core.md) -/
abbrev SWC_FDB_STAT : Nat := 0xC00038
/-- SWC_CNT: Counter i = 0–15, stride 0x4 (11_switch_core.md) -/
abbrev SWC_CNT (i : Nat) : Nat := 0xC00080 + 0x4 * i
/-- SWC_PORT_CFG: State, learning, yields (11_switch_core.md) -/
abbrev SWC_PORT_CFG (p : Nat) : Nat := 0xC10000 + 0x1000 * p
/-- SWC_PORT_STAT: Data-path state (11_switch_core.md) -/
abbrev SWC_PORT_STAT (p : Nat) : Nat := 0xC10004 + 0x1000 * p
/-- SWC_PCP_MAP: PCP to class (11_switch_core.md) -/
abbrev SWC_PCP_MAP (p : Nat) : Nat := 0xC10008 + 0x1000 * p
/-- SWC_SAMP_CFG: Sampling ratios (11_switch_core.md) -/
abbrev SWC_SAMP_CFG (p : Nat) : Nat := 0xC1000C + 0x1000 * p
/-- SWC_SAMP_DEST: Sampling destination (11_switch_core.md) -/
abbrev SWC_SAMP_DEST (p : Nat) : Nat := 0xC10010 + 0x1000 * p
/-- SWC_GATE_CFG: Domain, treadle, gates (11_switch_core.md) -/
abbrev SWC_GATE_CFG (p : Nat) : Nat := 0xC10020 + 0x1000 * p
/-- SWC_GATE_ADMIN: Administrative window (11_switch_core.md) -/
abbrev SWC_GATE_ADMIN (p : Nat) : Nat := 0xC10024 + 0x1000 * p
/-- SWC_GATE_BASE_LO: Base [31:0] (11_switch_core.md) -/
abbrev SWC_GATE_BASE_LO (p : Nat) : Nat := 0xC10028 + 0x1000 * p
/-- SWC_GATE_BASE_HI: Base [63:32] (11_switch_core.md) -/
abbrev SWC_GATE_BASE_HI (p : Nat) : Nat := 0xC1002C + 0x1000 * p
/-- SWC_GATE_BASE_NS: Base ns, TAI domain (11_switch_core.md) -/
abbrev SWC_GATE_BASE_NS (p : Nat) : Nat := 0xC10030 + 0x1000 * p
/-- SWC_GATE_CYCLE: Cycle length (11_switch_core.md) -/
abbrev SWC_GATE_CYCLE (p : Nat) : Nat := 0xC10034 + 0x1000 * p
/-- SWC_GATE_CMD: Install, stop (11_switch_core.md) -/
abbrev SWC_GATE_CMD (p : Nat) : Nat := 0xC10038 + 0x1000 * p
/-- SWC_GATE_STAT: State, entry, gates (11_switch_core.md) -/
abbrev SWC_GATE_STAT (p : Nat) : Nat := 0xC1003C + 0x1000 * p
/-- SWC_GATE_OPER: Operating window (11_switch_core.md) -/
abbrev SWC_GATE_OPER (p : Nat) : Nat := 0xC10040 + 0x1000 * p
/-- SWC_GATE_CNT: Re-phases, overruns (11_switch_core.md) -/
abbrev SWC_GATE_CNT (p : Nat) : Nat := 0xC10044 + 0x1000 * p
/-- SWC_EGR_CNT: Egress counter i = 0–7, stride 0x4 (11_switch_core.md) -/
abbrev SWC_EGR_CNT (p i : Nat) : Nat := 0xC10080 + 0x1000 * p + 0x4 * i
/-- SWC_Q_LIM: Reserve, maximum (11_switch_core.md) -/
abbrev SWC_Q_LIM (p q : Nat) : Nat := 0xC10100 + 0x1000 * p + 0x20 * q
/-- SWC_Q_AGE: Age limit (11_switch_core.md) -/
abbrev SWC_Q_AGE (p q : Nat) : Nat := 0xC10104 + 0x1000 * p + 0x20 * q
/-- SWC_Q_MODE: Shaper, cut-through, spill (11_switch_core.md) -/
abbrev SWC_Q_MODE (p q : Nat) : Nat := 0xC10108 + 0x1000 * p + 0x20 * q
/-- SWC_CBS_SLOPE: Idle slope (11_switch_core.md) -/
abbrev SWC_CBS_SLOPE (p q : Nat) : Nat := 0xC1010C + 0x1000 * p + 0x20 * q
/-- SWC_CBS_HI: hiCredit (11_switch_core.md) -/
abbrev SWC_CBS_HI (p q : Nat) : Nat := 0xC10110 + 0x1000 * p + 0x20 * q
/-- SWC_CBS_LO: loCredit (11_switch_core.md) -/
abbrev SWC_CBS_LO (p q : Nat) : Nat := 0xC10114 + 0x1000 * p + 0x20 * q
/-- SWC_Q_STAT: Occupancy (11_switch_core.md) -/
abbrev SWC_Q_STAT (p q : Nat) : Nat := 0xC10118 + 0x1000 * p + 0x20 * q
/-- SWC_CBS_CREDIT: Current credit (11_switch_core.md) -/
abbrev SWC_CBS_CREDIT (p q : Nat) : Nat := 0xC1011C + 0x1000 * p + 0x20 * q
/-- SWC_GATE_TAB: Entry i = 0–255 of port p at 0x800 × p, stride 0x8, two words (11_switch_core.md) -/
abbrev SWC_GATE_TAB (p i w : Nat) : Nat := 0xC40000 + 0x800 * p + 0x8 * i + 0x4 * w
/-- SWC_VLAN: VID v = 0–4,095, stride 0x8, two words (11_switch_core.md) -/
abbrev SWC_VLAN (v w : Nat) : Nat := 0xC80000 + 0x8 * v + 0x4 * w
/-- SWC_SUB: Subscription i = 0–1,023, stride 0x20, eight words (11_switch_core.md) -/
abbrev SWC_SUB (i w : Nat) : Nat := 0xCA0000 + 0x20 * i + 0x4 * w
/-- RED_CTRL: Pairing, role, peer, sequence skip (12_redundancy_failover.md) -/
abbrev RED_CTRL : Nat := 0xE00000
/-- RED_STAT: Gate, disagreement, preparation (12_redundancy_failover.md) -/
abbrev RED_STAT : Nat := 0xE00004
/-- RED_BELL: Bells (12_redundancy_failover.md) -/
abbrev RED_BELL : Nat := 0xE00008
/-- RED_BELL_MASK: Bell masks (12_redundancy_failover.md) -/
abbrev RED_BELL_MASK : Nat := 0xE0000C
/-- RED_HB_CFG: Heartbeat slots and paths (12_redundancy_failover.md) -/
abbrev RED_HB_CFG : Nat := 0xE00010
/-- RED_DET_CFG: Detection limits, window (12_redundancy_failover.md) -/
abbrev RED_DET_CFG : Nat := 0xE00014
/-- RED_CLAIM: Own and highest claim (12_redundancy_failover.md) -/
abbrev RED_CLAIM : Nat := 0xE00018
/-- RED_CMD: Takeover, relinquish (12_redundancy_failover.md) -/
abbrev RED_CMD : Nat := 0xE0001C
/-- RED_PEER_STAT: Last valid heartbeat (12_redundancy_failover.md) -/
abbrev RED_PEER_STAT : Nat := 0xE00020
/-- RED_PATH_STAT: Miss counts, path faults (12_redundancy_failover.md) -/
abbrev RED_PATH_STAT : Nat := 0xE00024
/-- RED_HB_CNT: Heartbeat errors (12_redundancy_failover.md) -/
abbrev RED_HB_CNT : Nat := 0xE00028
/-- RED_FOLD_INT: Intended fold, last period (12_redundancy_failover.md) -/
abbrev RED_FOLD_INT : Nat := 0xE0002C
/-- RED_FOLD_OBS: Observed fold, last period (12_redundancy_failover.md) -/
abbrev RED_FOLD_OBS : Nat := 0xE00030
/-- RED_TAKE_STAT: Takeovers (12_redundancy_failover.md) -/
abbrev RED_TAKE_STAT : Nat := 0xE00034
/-- RED_TAKE_ST: Last takeover instant (12_redundancy_failover.md) -/
abbrev RED_TAKE_ST : Nat := 0xE00038
/-- RED_GATE_CNT: Blocked outputs (12_redundancy_failover.md) -/
abbrev RED_GATE_CNT : Nat := 0xE0003C
/-- RED_BOOK_STAT: Pattern book chains (12_redundancy_failover.md) -/
abbrev RED_BOOK_STAT : Nat := 0xE00040
/-- RED_BOOK_CNT: Book discards (12_redundancy_failover.md) -/
abbrev RED_BOOK_CNT : Nat := 0xE00044
/-- RED_PAIR_CFG: Pair mode (12_redundancy_failover.md) -/
abbrev RED_PAIR_CFG (k : Nat) : Nat := 0xE00100 + 0x10 * k
/-- RED_PAIR_STAT: Pair state (12_redundancy_failover.md) -/
abbrev RED_PAIR_STAT (k : Nat) : Nat := 0xE00104 + 0x10 * k
/-- RED_PAIR_SEQ: Next send sequence (12_redundancy_failover.md) -/
abbrev RED_PAIR_SEQ (k : Nat) : Nat := 0xE00108 + 0x10 * k
/-- RED_PAIR_CNT: Pair counters (12_redundancy_failover.md) -/
abbrev RED_PAIR_CNT (k i : Nat) : Nat := 0xE00200 + 0x20 * k + 0x4 * i
/-- SLV_CTRL: Enables (13_selvedge_ring.md) -/
abbrev SLV_CTRL : Nat := 0xF00000
/-- SLV_NODE_CFG: Node ID (13_selvedge_ring.md) -/
abbrev SLV_NODE_CFG : Nat := 0xF00004
/-- SLV_STAT: State and loops (13_selvedge_ring.md) -/
abbrev SLV_STAT : Nat := 0xF00008
/-- SLV_BELL: Bells (13_selvedge_ring.md) -/
abbrev SLV_BELL : Nat := 0xF0000C
/-- SLV_BELL_MASK: Bell masks (13_selvedge_ring.md) -/
abbrev SLV_BELL_MASK : Nat := 0xF00010
/-- SLV_ALIGN_CFG: Grid slew (13_selvedge_ring.md) -/
abbrev SLV_ALIGN_CFG : Nat := 0xF00014
/-- SLV_ALIGN_STAT: Alignment error (13_selvedge_ring.md) -/
abbrev SLV_ALIGN_STAT : Nat := 0xF00018
/-- SLV_ROUND: Round and slot (13_selvedge_ring.md) -/
abbrev SLV_ROUND : Nat := 0xF0001C
/-- SLV_GRID: G (13_selvedge_ring.md) -/
abbrev SLV_GRID : Nat := 0xF00020
/-- SLV_DELTA: Δ (13_selvedge_ring.md) -/
abbrev SLV_DELTA : Nat := 0xF00024
/-- SLV_LINK_DLY: Forward input link delay (13_selvedge_ring.md) -/
abbrev SLV_LINK_DLY : Nat := 0xF00028
/-- SLV_CMD: Close (13_selvedge_ring.md) -/
abbrev SLV_CMD : Nat := 0xF0002C
/-- SLV_TOPO: Expected and seen nodes (13_selvedge_ring.md) -/
abbrev SLV_TOPO : Nat := 0xF00030
/-- SLV_LOOM_DIGEST: Own digest (13_selvedge_ring.md) -/
abbrev SLV_LOOM_DIGEST : Nat := 0xF00034
/-- SLV_LEAD_DIGEST: Leader's digest (13_selvedge_ring.md) -/
abbrev SLV_LEAD_DIGEST : Nat := 0xF00038
/-- SLV_MAP: Map n = 0–7, stride 0x4 (13_selvedge_ring.md) -/
abbrev SLV_MAP (n : Nat) : Nat := 0xF00040 + 0x4 * n
/-- SLV_CNT: Counter i = 0–15, stride 0x4 (13_selvedge_ring.md) -/
abbrev SLV_CNT (i : Nat) : Nat := 0xF00080 + 0x4 * i
/-- SLV_LOOM: Slot k = 0–79, stride 0x4 (13_selvedge_ring.md) -/
abbrev SLV_LOOM (k : Nat) : Nat := 0xF00100 + 0x4 * k
/-- SLV_RXB: Receive buffer i = 0–63, stride 0x10, four words (13_selvedge_ring.md) -/
abbrev SLV_RXB (i w : Nat) : Nat := 0xF00400 + 0x10 * i + 0x4 * w
/-- MDB_CTRL: Enables, operation (14_multidrop_bus.md) -/
abbrev MDB_CTRL (n : Nat) : Nat := 0x1000000 + 0x1000 * n
/-- MDB_STAT: State (14_multidrop_bus.md) -/
abbrev MDB_STAT (n : Nat) : Nat := 0x1000004 + 0x1000 * n
/-- MDB_BELL: Bells (14_multidrop_bus.md) -/
abbrev MDB_BELL (n : Nat) : Nat := 0x1000008 + 0x1000 * n
/-- MDB_BELL_MASK: Bell masks (14_multidrop_bus.md) -/
abbrev MDB_BELL_MASK (n : Nat) : Nat := 0x100000C + 0x1000 * n
/-- MDB_NBT: Nominal bit timing (14_multidrop_bus.md) -/
abbrev MDB_NBT (n : Nat) : Nat := 0x1000010 + 0x1000 * n
/-- MDB_DBT: Data bit timing (14_multidrop_bus.md) -/
abbrev MDB_DBT (n : Nat) : Nat := 0x1000014 + 0x1000 * n
/-- MDB_TDC: Delay compensation (14_multidrop_bus.md) -/
abbrev MDB_TDC (n : Nat) : Nat := 0x1000018 + 0x1000 * n
/-- MDB_ERR: Error counters (14_multidrop_bus.md) -/
abbrev MDB_ERR (n : Nat) : Nat := 0x100001C + 0x1000 * n
/-- MDB_RXQ_CFG: Queue q = 0–1, stride 0x10, four words (14_multidrop_bus.md) -/
abbrev MDB_RXQ_CFG (n q w : Nat) : Nat := 0x1000040 + 0x1000 * n + 0x10 * q + 0x4 * w
/-- MDB_RXQ_STAT: Occupancy, stride 0x4 (14_multidrop_bus.md) -/
abbrev MDB_RXQ_STAT (n q : Nat) : Nat := 0x1000060 + 0x1000 * n + 0x4 * q
/-- MDB_RXQ_POP: Pop, stride 0x4 (14_multidrop_bus.md) -/
abbrev MDB_RXQ_POP (n q : Nat) : Nat := 0x1000068 + 0x1000 * n + 0x4 * q
/-- MDB_CNT: Counter i = 0–7, stride 0x4 (14_multidrop_bus.md) -/
abbrev MDB_CNT (n i : Nat) : Nat := 0x1000070 + 0x1000 * n + 0x4 * i
/-- MDB_TT_CTRL: Time-triggered control (14_multidrop_bus.md) -/
abbrev MDB_TT_CTRL (n : Nat) : Nat := 0x1000090 + 0x1000 * n
/-- MDB_TT_CYCLE: Cycle and unit (14_multidrop_bus.md) -/
abbrev MDB_TT_CYCLE (n : Nat) : Nat := 0x1000094 + 0x1000 * n
/-- MDB_TT_REFID: Reference identifier (14_multidrop_bus.md) -/
abbrev MDB_TT_REFID (n : Nat) : Nat := 0x1000098 + 0x1000 * n
/-- MDB_TT_PHASE: TAI phase (14_multidrop_bus.md) -/
abbrev MDB_TT_PHASE (n : Nat) : Nat := 0x100009C + 0x1000 * n
/-- MDB_TT_STAT: Level, count (14_multidrop_bus.md) -/
abbrev MDB_TT_STAT (n : Nat) : Nat := 0x10000A0 + 0x1000 * n
/-- MDB_TT_REF_ST: Last Ref_Mark (14_multidrop_bus.md) -/
abbrev MDB_TT_REF_ST (n : Nat) : Nat := 0x10000A4 + 0x1000 * n
/-- MDB_TT_SLIP: Reference lateness (14_multidrop_bus.md) -/
abbrev MDB_TT_SLIP (n : Nat) : Nat := 0x10000A8 + 0x1000 * n
/-- MDB_RXQ_HEAD: Head entry, stride 0x60, 21 words (14_multidrop_bus.md) -/
abbrev MDB_RXQ_HEAD (n q w : Nat) : Nat := 0x1000100 + 0x1000 * n + 0x60 * q + 0x4 * w
/-- MDB_WAKE_CFG: Wake filter (14_multidrop_bus.md) -/
abbrev MDB_WAKE_CFG (n : Nat) : Nat := 0x10001C0 + 0x1000 * n
/-- MDB_WAKE_ID: Wake identifier (14_multidrop_bus.md) -/
abbrev MDB_WAKE_ID (n : Nat) : Nat := 0x10001C4 + 0x1000 * n
/-- MDB_WAKE_IDMASK: Identifier mask (14_multidrop_bus.md) -/
abbrev MDB_WAKE_IDMASK (n : Nat) : Nat := 0x10001C8 + 0x1000 * n
/-- MDB_WAKE_DMASK_LO: Data mask bytes 0–3 (14_multidrop_bus.md) -/
abbrev MDB_WAKE_DMASK_LO (n : Nat) : Nat := 0x10001CC + 0x1000 * n
/-- MDB_WAKE_DMASK_HI: Data mask bytes 4–7 (14_multidrop_bus.md) -/
abbrev MDB_WAKE_DMASK_HI (n : Nat) : Nat := 0x10001D0 + 0x1000 * n
/-- MDB_WAKE_TIMEOUT: False-wake timeout (14_multidrop_bus.md) -/
abbrev MDB_WAKE_TIMEOUT (n : Nat) : Nat := 0x10001D4 + 0x1000 * n
/-- MDB_WAKE_STAT: Cause, counter (14_multidrop_bus.md) -/
abbrev MDB_WAKE_STAT (n : Nat) : Nat := 0x10001D8 + 0x1000 * n
/-- MDB_TRIG: Trigger t = 0–63, stride 0x8, two words (14_multidrop_bus.md) -/
abbrev MDB_TRIG (n t w : Nat) : Nat := 0x1000200 + 0x1000 * n + 0x8 * t + 0x4 * w
/-- MDB_FILT: Filter f = 0–63, stride 0x8, two words (14_multidrop_bus.md) -/
abbrev MDB_FILT (n f w : Nat) : Nat := 0x1000400 + 0x1000 * n + 0x8 * f + 0x4 * w
/-- MDB_BUF: Buffer b = 0–31, stride 0x50, 20 words (14_multidrop_bus.md) -/
abbrev MDB_BUF (n b w : Nat) : Nat := 0x1000600 + 0x1000 * n + 0x50 * b + 0x4 * w
/-- SHT_CTRL: Enable, FIFO flush (15_shuttles.md) -/
abbrev SHT_CTRL (n : Nat) : Nat := 0x1100000 + 0x400 * n
/-- SHT_STAT: State, pc, counts (15_shuttles.md) -/
abbrev SHT_STAT (n : Nat) : Nat := 0x1100004 + 0x400 * n
/-- SHT_CLKDIV: Divider (15_shuttles.md) -/
abbrev SHT_CLKDIV (n : Nat) : Nat := 0x1100008 + 0x400 * n
/-- SHT_WIN: Pin window (15_shuttles.md) -/
abbrev SHT_WIN (n : Nat) : Nat := 0x110000C + 0x400 * n
/-- SHT_FRAME: Word length (15_shuttles.md) -/
abbrev SHT_FRAME (n : Nat) : Nat := 0x1100010 + 0x400 * n
/-- SHT_DEST: Up FIFO destination (15_shuttles.md) -/
abbrev SHT_DEST (n : Nat) : Nat := 0x1100014 + 0x400 * n
/-- SHT_DNF: Down FIFO write (15_shuttles.md) -/
abbrev SHT_DNF (n : Nat) : Nat := 0x1100018 + 0x400 * n
/-- SHT_UPF: Up FIFO read; pops (15_shuttles.md) -/
abbrev SHT_UPF (n : Nat) : Nat := 0x110001C + 0x400 * n
/-- SHT_FIFO_STAT: Levels, push count (15_shuttles.md) -/
abbrev SHT_FIFO_STAT (n : Nat) : Nat := 0x1100020 + 0x400 * n
/-- SHT_INJECT: Injected instruction (15_shuttles.md) -/
abbrev SHT_INJECT (n : Nat) : Nat := 0x1100024 + 0x400 * n
/-- SHT_LOAD: Restart address (15_shuttles.md) -/
abbrev SHT_LOAD (n : Nat) : Nat := 0x1100028 + 0x400 * n
/-- SHT_LOAD_CLEAR: Clear on load (15_shuttles.md) -/
abbrev SHT_LOAD_CLEAR (n : Nat) : Nat := 0x110002C + 0x400 * n
/-- SHT_S0: s0 (15_shuttles.md) -/
abbrev SHT_S0 (n : Nat) : Nat := 0x1100030 + 0x400 * n
/-- SHT_S1: s1 (15_shuttles.md) -/
abbrev SHT_S1 (n : Nat) : Nat := 0x1100034 + 0x400 * n
/-- SHT_IBS: Inbound shifter (15_shuttles.md) -/
abbrev SHT_IBS (n : Nat) : Nat := 0x1100038 + 0x400 * n
/-- SHT_OBS: Outbound shifter (15_shuttles.md) -/
abbrev SHT_OBS (n : Nat) : Nat := 0x110003C + 0x400 * n
/-- SHT_STAMP: Stamp, ns (15_shuttles.md) -/
abbrev SHT_STAMP (n : Nat) : Nat := 0x1100040 + 0x400 * n
/-- SHT_STAMP_Q: Stamp quarter and generation (15_shuttles.md) -/
abbrev SHT_STAMP_Q (n : Nat) : Nat := 0x1100044 + 0x400 * n
/-- SHT_BELL: Bells (15_shuttles.md) -/
abbrev SHT_BELL (n : Nat) : Nat := 0x1100048 + 0x400 * n
/-- SHT_BELL_MASK: Bell masks (15_shuttles.md) -/
abbrev SHT_BELL_MASK (n : Nat) : Nat := 0x110004C + 0x400 * n
/-- SHT_CNT: Counter i = 0–7, stride 0x4 (15_shuttles.md) -/
abbrev SHT_CNT (n i : Nat) : Nat := 0x1100050 + 0x400 * n + 0x4 * i
/-- SHT_PROG: Instruction i = 0–31, stride 0x4 (15_shuttles.md) -/
abbrev SHT_PROG (n i : Nat) : Nat := 0x1100080 + 0x400 * n + 0x4 * i
/-- SHT_GRP_CFG: Group g = 0–3, stride 0x10 (15_shuttles.md) -/
abbrev SHT_GRP_CFG (g : Nat) : Nat := 0x1108000 + 0x10 * g
/-- SHT_GRP_CTRL: Start and stop (15_shuttles.md) -/
abbrev SHT_GRP_CTRL (g : Nat) : Nat := 0x1108004 + 0x10 * g
/-- SHT_GRP_AT: Start target (15_shuttles.md) -/
abbrev SHT_GRP_AT (g : Nat) : Nat := 0x1108008 + 0x10 * g
/-- SHT_GRP_TRIG: Trigger count (15_shuttles.md) -/
abbrev SHT_GRP_TRIG (g : Nat) : Nat := 0x110800C + 0x10 * g
/-- SHT_PIN_CFG: Pin i = 0–63, stride 0x4 (15_shuttles.md) -/
abbrev SHT_PIN_CFG (i : Nat) : Nat := 0x1108100 + 0x4 * i
/-- SHT_PAD_IN_LO: Sensed pad levels (15_shuttles.md) -/
abbrev SHT_PAD_IN_LO : Nat := 0x1108200
/-- SHT_PAD_IN_HI: Sensed pad levels (15_shuttles.md) -/
abbrev SHT_PAD_IN_HI : Nat := 0x1108204
/-- SHT_PAD_OUT_LO: Driven levels (15_shuttles.md) -/
abbrev SHT_PAD_OUT_LO : Nat := 0x1108208
/-- SHT_PAD_OUT_HI: Driven levels (15_shuttles.md) -/
abbrev SHT_PAD_OUT_HI : Nat := 0x110820C
/-- SHT_PAD_OE_LO: Output enables (15_shuttles.md) -/
abbrev SHT_PAD_OE_LO : Nat := 0x1108210
/-- SHT_PAD_OE_HI: Output enables (15_shuttles.md) -/
abbrev SHT_PAD_OE_HI : Nat := 0x1108214
/-- SHT_PAD_DIS_LO: Disagreement per R425 (15_shuttles.md) -/
abbrev SHT_PAD_DIS_LO : Nat := 0x1108218
/-- SHT_PAD_DIS_HI: Disagreement per R425 (15_shuttles.md) -/
abbrev SHT_PAD_DIS_HI : Nat := 0x110821C
/-- SHT_GLB_BELL: Bells (15_shuttles.md) -/
abbrev SHT_GLB_BELL : Nat := 0x1108220
/-- SHT_GLB_BELL_MASK: Bell masks (15_shuttles.md) -/
abbrev SHT_GLB_BELL_MASK : Nat := 0x1108224
/-- SHT_GLB_CNT: Pin counters (15_shuttles.md) -/
abbrev SHT_GLB_CNT : Nat := 0x1108228
/-- SCN_CTRL: Requests (16_scan_bay_logic.md) -/
abbrev SCN_CTRL : Nat := 0x1200000
/-- SCN_STAT: State, status (16_scan_bay_logic.md) -/
abbrev SCN_STAT : Nat := 0x1200004
/-- SCN_BELL: Bells (16_scan_bay_logic.md) -/
abbrev SCN_BELL : Nat := 0x1200008
/-- SCN_BELL_MASK: Bell masks (16_scan_bay_logic.md) -/
abbrev SCN_BELL_MASK : Nat := 0x120000C
/-- SCN_CFG: Period, overrun stop (16_scan_bay_logic.md) -/
abbrev SCN_CFG : Nat := 0x1200010
/-- SCN_IMG_CFG: Image sizes (16_scan_bay_logic.md) -/
abbrev SCN_IMG_CFG : Nat := 0x1200014
/-- SCN_TIMING: lat_ns, out_ns (16_scan_bay_logic.md) -/
abbrev SCN_TIMING : Nat := 0x1200018
/-- SCN_START_AT: Start target (16_scan_bay_logic.md) -/
abbrev SCN_START_AT : Nat := 0x120001C
/-- SCN_ERR_TASK: Error task handle (16_scan_bay_logic.md) -/
abbrev SCN_ERR_TASK : Nat := 0x1200020
/-- SCN_INST_CFG: Instance entries (16_scan_bay_logic.md) -/
abbrev SCN_INST_CFG : Nat := 0x1200024
/-- SCN_CYCLE_CNT: Cycles latched (16_scan_bay_logic.md) -/
abbrev SCN_CYCLE_CNT : Nat := 0x1200028
/-- SCN_LAST_LATCH: Last t_L (16_scan_bay_logic.md) -/
abbrev SCN_LAST_LATCH : Nat := 0x120002C
/-- SCN_VALID_LO: Stations 0–31 valid (16_scan_bay_logic.md) -/
abbrev SCN_VALID_LO : Nat := 0x1200030
/-- SCN_VALID_HI: Stations 32–63 valid (16_scan_bay_logic.md) -/
abbrev SCN_VALID_HI : Nat := 0x1200034
/-- SCN_TASK: Task i = 0–15, stride 0x4 (16_scan_bay_logic.md) -/
abbrev SCN_TASK (i : Nat) : Nat := 0x1200040 + 0x4 * i
/-- SCN_CHG_TASK: New task i, stride 0x4 (16_scan_bay_logic.md) -/
abbrev SCN_CHG_TASK (i : Nat) : Nat := 0x1200080 + 0x4 * i
/-- SCN_CNT: Counter i = 0–7, stride 0x4 (16_scan_bay_logic.md) -/
abbrev SCN_CNT (i : Nat) : Nat := 0x12000C0 + 0x4 * i
/-- SCN_STN_CFG: Station s = 0–63, stride 0x20, six words (16_scan_bay_logic.md) -/
abbrev SCN_STN_CFG (s w : Nat) : Nat := 0x1200100 + 0x20 * s + 0x4 * w
/-- SCN_STN_PUB: Publish, stride 0x4 (16_scan_bay_logic.md) -/
abbrev SCN_STN_PUB (s : Nat) : Nat := 0x1200900 + 0x4 * s
/-- SCN_STN_STAT: Station state, stride 0x4 (16_scan_bay_logic.md) -/
abbrev SCN_STN_STAT (s : Nat) : Nat := 0x1200A00 + 0x4 * s
/-- SCN_STN_CNT: Station counters, stride 0x4 (16_scan_bay_logic.md) -/
abbrev SCN_STN_CNT (s : Nat) : Nat := 0x1200B00 + 0x4 * s
/-- SCN_RET: Retained word i = 0–65,535 (16_scan_bay_logic.md) -/
abbrev SCN_RET (i : Nat) : Nat := 0x1280000 + 0x4 * i
/-- MBX_HBELL: Host bell register r = 0–1, stride 0x10 (17_mailboxes_bridges.md) -/
abbrev MBX_HBELL (r : Nat) : Nat := 0x500000 + 0x10 * r
/-- MBX_HMASK: Host masks, stride 0x10 (17_mailboxes_bridges.md) -/
abbrev MBX_HMASK (r : Nat) : Nat := 0x500004 + 0x10 * r
/-- MBX_CBELL: Cutter bell register (17_mailboxes_bridges.md) -/
abbrev MBX_CBELL : Nat := 0x500020
/-- MBX_CMASK: Cutter masks (17_mailboxes_bridges.md) -/
abbrev MBX_CMASK : Nat := 0x500024
/-- MBX_SBELL: Scan unit bell register (17_mailboxes_bridges.md) -/
abbrev MBX_SBELL : Nat := 0x500028
/-- MBX_SMASK: Scan unit masks (17_mailboxes_bridges.md) -/
abbrev MBX_SMASK : Nat := 0x50002C
/-- MBX_YBELL: Security unit bell register (17_mailboxes_bridges.md) -/
abbrev MBX_YBELL : Nat := 0x500030
/-- MBX_YMASK: Security unit masks (17_mailboxes_bridges.md) -/
abbrev MBX_YMASK : Nat := 0x500034
/-- MBX_HFULL: Slots toward the host full, i = 0–7, stride 0x4 (17_mailboxes_bridges.md) -/
abbrev MBX_HFULL (i : Nat) : Nat := 0x500040 + 0x4 * i
/-- MBX_CNT: Counter i = 0–2, stride 0x4 (17_mailboxes_bridges.md) -/
abbrev MBX_CNT (i : Nat) : Nat := 0x500060 + 0x4 * i
/-- MBX_POP: Free a host slot (17_mailboxes_bridges.md) -/
abbrev MBX_POP : Nat := 0x500070
/-- MBX_EBELL: Engine e = 0–95, stride 0x8 (17_mailboxes_bridges.md) -/
abbrev MBX_EBELL (e : Nat) : Nat := 0x500100 + 0x8 * e
/-- MBX_EMASK: Engine masks, stride 0x8 (17_mailboxes_bridges.md) -/
abbrev MBX_EMASK (e : Nat) : Nat := 0x500104 + 0x8 * e
/-- MBX_PARTY: Party d = 0–1, stride 0x4 (17_mailboxes_bridges.md) -/
abbrev MBX_PARTY (m d : Nat) : Nat := 0x501000 + 0x80 * m + 0x4 * d
/-- MBX_MSTAT: Generation, bits, valid (17_mailboxes_bridges.md) -/
abbrev MBX_MSTAT (m : Nat) : Nat := 0x501008 + 0x80 * m
/-- MBX_SEND: Host send (17_mailboxes_bridges.md) -/
abbrev MBX_SEND (m : Nat) : Nat := 0x50100C + 0x80 * m
/-- MBX_TX: Staging word w = 0–7, stride 0x4 (17_mailboxes_bridges.md) -/
abbrev MBX_TX (m w : Nat) : Nat := 0x501010 + 0x80 * m + 0x4 * w
/-- MBX_RXSTAT: Slot toward d, stride 0x8 (17_mailboxes_bridges.md) -/
abbrev MBX_RXSTAT (m d : Nat) : Nat := 0x501030 + 0x80 * m + 0x8 * d
/-- MBX_RXST: Delivery stamp, stride 0x8 (17_mailboxes_bridges.md) -/
abbrev MBX_RXST (m d : Nat) : Nat := 0x501034 + 0x80 * m + 0x8 * d
/-- MBX_RX: Message word w, stride 0x20 per d, 0x4 per w (17_mailboxes_bridges.md) -/
abbrev MBX_RX (m d w : Nat) : Nat := 0x501040 + 0x80 * m + 0x20 * d + 0x4 * w
/-- HBR_CTRL: Local bus enables (17_mailboxes_bridges.md) -/
abbrev HBR_CTRL : Nat := 0x600000
/-- HBR_STAT: Pending flags, semaphore (17_mailboxes_bridges.md) -/
abbrev HBR_STAT : Nat := 0x600004
/-- HBR_BELL: Bells (17_mailboxes_bridges.md) -/
abbrev HBR_BELL : Nat := 0x600008
/-- HBR_BELL_MASK: Bell masks (17_mailboxes_bridges.md) -/
abbrev HBR_BELL_MASK : Nat := 0x60000C
/-- HBR_FENCE: Own pending flag (17_mailboxes_bridges.md) -/
abbrev HBR_FENCE : Nat := 0x600010
/-- HBR_LEDGER_HEAD: Ledger state (17_mailboxes_bridges.md) -/
abbrev HBR_LEDGER_HEAD : Nat := 0x600014
/-- HBR_WSEQ: Initiator i = 0–1, stride 0x4 (17_mailboxes_bridges.md) -/
abbrev HBR_WSEQ (i : Nat) : Nat := 0x600018 + 0x4 * i
/-- HBR_LOCK_CFG: Hold limit (17_mailboxes_bridges.md) -/
abbrev HBR_LOCK_CFG : Nat := 0x600020
/-- HBR_SEM: Engine semaphore (17_mailboxes_bridges.md) -/
abbrev HBR_SEM : Nat := 0x600024
/-- HBR_LB_CFG: Retry and timeout (17_mailboxes_bridges.md) -/
abbrev HBR_LB_CFG : Nat := 0x600028
/-- HBR_OBW_BASE: Outbound window base (17_mailboxes_bridges.md) -/
abbrev HBR_OBW_BASE : Nat := 0x60002C
/-- HBR_OB_STAT: Crossings, failures (17_mailboxes_bridges.md) -/
abbrev HBR_OB_STAT : Nat := 0x600030
/-- HBR_IRQ_POLL: Poll period (17_mailboxes_bridges.md) -/
abbrev HBR_IRQ_POLL : Nat := 0x600038
/-- HBR_IRQ_CFG: Input i = 0–15, stride 0x4 (17_mailboxes_bridges.md) -/
abbrev HBR_IRQ_CFG (i : Nat) : Nat := 0x600040 + 0x4 * i
/-- HBR_IRQ_ST: Match stamp, stride 0x4 (17_mailboxes_bridges.md) -/
abbrev HBR_IRQ_ST (i : Nat) : Nat := 0x600080 + 0x4 * i
/-- HBR_CNT: Counter i = 0–3, stride 0x4 (17_mailboxes_bridges.md) -/
abbrev HBR_CNT (i : Nat) : Nat := 0x6000C0 + 0x4 * i
/-- HBR_RING_BASE_LO: Ring r = 0–7, stride 0x20 (17_mailboxes_bridges.md) -/
abbrev HBR_RING_BASE_LO (r : Nat) : Nat := 0x600100 + 0x20 * r
/-- HBR_RING_BASE_HI: Descriptor array [63:32] (17_mailboxes_bridges.md) -/
abbrev HBR_RING_BASE_HI (r : Nat) : Nat := 0x600104 + 0x20 * r
/-- HBR_RING_CFG: Size, buffer, location (17_mailboxes_bridges.md) -/
abbrev HBR_RING_CFG (r : Nat) : Nat := 0x600108 + 0x20 * r
/-- HBR_RING_HEAD: Device index (17_mailboxes_bridges.md) -/
abbrev HBR_RING_HEAD (r : Nat) : Nat := 0x60010C + 0x20 * r
/-- HBR_RING_TAIL: Host index (17_mailboxes_bridges.md) -/
abbrev HBR_RING_TAIL (r : Nat) : Nat := 0x600110 + 0x20 * r
/-- HBR_RXR_MAP: Class to receive ring (17_mailboxes_bridges.md) -/
abbrev HBR_RXR_MAP : Nat := 0x600200
/-- HBR_LEDGER: Entry i = 0–63, stride 0x10, four words (17_mailboxes_bridges.md) -/
abbrev HBR_LEDGER (i w : Nat) : Nat := 0x600400 + 0x10 * i + 0x4 * w
/-- FBR_CTRL: Enable (17_mailboxes_bridges.md) -/
abbrev FBR_CTRL : Nat := 0x700000
/-- FBR_STAT: Queue, routes (17_mailboxes_bridges.md) -/
abbrev FBR_STAT : Nat := 0x700004
/-- FBR_BELL: Bells (17_mailboxes_bridges.md) -/
abbrev FBR_BELL : Nat := 0x700008
/-- FBR_BELL_MASK: Bell masks (17_mailboxes_bridges.md) -/
abbrev FBR_BELL_MASK : Nat := 0x70000C
/-- FBR_DEFAULT: Default route handle (17_mailboxes_bridges.md) -/
abbrev FBR_DEFAULT : Nat := 0x700010
/-- FBR_CNT: Counter i = 0–6, stride 0x4 (17_mailboxes_bridges.md) -/
abbrev FBR_CNT (i : Nat) : Nat := 0x700020 + 0x4 * i
/-- FBR_STAGE: Staged route word w = 0–7, stride 0x4 (17_mailboxes_bridges.md) -/
abbrev FBR_STAGE (w : Nat) : Nat := 0x700040 + 0x4 * w
/-- FBR_ROUTE: Route i = 0–4,095, stride 0x20, eight words (17_mailboxes_bridges.md) -/
abbrev FBR_ROUTE (i w : Nat) : Nat := 0x710000 + 0x20 * i + 0x4 * w
/-- FBR_TMPL: Template word j = 0–4,095 (17_mailboxes_bridges.md) -/
abbrev FBR_TMPL (j : Nat) : Nat := 0x740000 + 0x4 * j
/-- SEC_CTRL: Enables (18_security_identity.md) -/
abbrev SEC_CTRL : Nat := 0x1300000
/-- SEC_STAT: Lifecycle, debug, boot result (18_security_identity.md) -/
abbrev SEC_STAT : Nat := 0x1300004
/-- SEC_BELL: Bells (18_security_identity.md) -/
abbrev SEC_BELL : Nat := 0x1300008
/-- SEC_BELL_MASK: Bell masks (18_security_identity.md) -/
abbrev SEC_BELL_MASK : Nat := 0x130000C
/-- SEC_CMD: Command (18_security_identity.md) -/
abbrev SEC_CMD : Nat := 0x1300010
/-- SEC_CMD_STAT: Busy, status, sequence (18_security_identity.md) -/
abbrev SEC_CMD_STAT : Nat := 0x1300014
/-- SEC_CMD_ARG: Argument (18_security_identity.md) -/
abbrev SEC_CMD_ARG : Nat := 0x1300018
/-- SEC_UID_LO: Unique ID, stride 0x4 (18_security_identity.md) -/
abbrev SEC_UID_LO : Nat := 0x1300020
/-- SEC_UID_HI: Unique ID, stride 0x4 (18_security_identity.md) -/
abbrev SEC_UID_HI : Nat := 0x1300024
/-- SEC_RNG: Random word (18_security_identity.md) -/
abbrev SEC_RNG : Nat := 0x1300028
/-- SEC_RNG_STAT: Generator state (18_security_identity.md) -/
abbrev SEC_RNG_STAT : Nat := 0x130002C
/-- SEC_ROLL: Counter c = 0–63, stride 0x4 (18_security_identity.md) -/
abbrev SEC_ROLL (c : Nat) : Nat := 0x1300100 + 0x4 * c
/-- SEC_BUF: Command buffer i = 0–63, stride 0x4 (18_security_identity.md) -/
abbrev SEC_BUF (i : Nat) : Nat := 0x1300200 + 0x4 * i
/-- SEC_MEAS: Measurement j = 0–3, w = 0–11, stride 0x30 (18_security_identity.md) -/
abbrev SEC_MEAS (j w : Nat) : Nat := 0x1300300 + 0x30 * j + 0x4 * w
/-- SEC_ID_PUB: Identity public key w = 0–23 (18_security_identity.md) -/
abbrev SEC_ID_PUB (w : Nat) : Nat := 0x1300400 + 0x4 * w
/-- SEC_CQ_CFG: Channel handle (18_security_identity.md) -/
abbrev SEC_CQ_CFG (q : Nat) : Nat := 0x1300800 + 0x40 * q
/-- SEC_CQ_RES: Reservation, bound (18_security_identity.md) -/
abbrev SEC_CQ_RES (q : Nat) : Nat := 0x1300804 + 0x40 * q
/-- SEC_CQ_GO: Submit job (18_security_identity.md) -/
abbrev SEC_CQ_GO (q : Nat) : Nat := 0x1300808 + 0x40 * q
/-- SEC_CQ_STAT: Jobs queued (18_security_identity.md) -/
abbrev SEC_CQ_STAT (q : Nat) : Nat := 0x130080C + 0x40 * q
/-- SEC_CQ_JOB: Job word w = 0–7 (18_security_identity.md) -/
abbrev SEC_CQ_JOB (q w : Nat) : Nat := 0x1300820 + 0x40 * q + 0x4 * w
/-- SEC_SC: Secure channel s = 0–63, stride 0x20, eight words (18_security_identity.md) -/
abbrev SEC_SC (s w : Nat) : Nat := 0x1301000 + 0x20 * s + 0x4 * w
/-- SEC_KEY_WR: Key word w = 0–7 (18_security_identity.md) -/
abbrev SEC_KEY_WR (w : Nat) : Nat := 0x1301800 + 0x4 * w
/-- SEC_KEY_CMD: Key slot command (18_security_identity.md) -/
abbrev SEC_KEY_CMD : Nat := 0x1301820
/-- DEV_ID: Part number (20_register_index.md) -/
abbrev DEV_ID : Nat := 0x0
/-- DEV_REV: Silicon revision (20_register_index.md) -/
abbrev DEV_REV : Nat := 0x4
/-- DEV_ACC_ERR: First refused access (20_register_index.md) -/
abbrev DEV_ACC_ERR : Nat := 0x10
/-- DEV_ACC_ADDR: Its address (20_register_index.md) -/
abbrev DEV_ACC_ADDR : Nat := 0x14
/-- DEV_ACC_CNT: Refused accesses (20_register_index.md) -/
abbrev DEV_ACC_CNT : Nat := 0x18
/-- DEV_BELL_MASK: Access-error interrupt mask (20_register_index.md) -/
abbrev DEV_BELL_MASK : Nat := 0x1C

end Sys2Proof.Machine
end

