-- ==== Sys2Proof/Machine/State.lean ====
section
/-!
DEFINITION. The state of the block, as plain data, and its value right after reset.
-/
namespace Sys2Proof.Machine

/-- Why the block stops with a fault. DESIGN CHOICE, log entry 4. -/
inductive Fault where
  /-- raised by a meaning whose command breaks `Instr.wf` (a frame longer than a port can carry, a record with the wrong
  number of words): no such thing can be offered to the device. Safe: the model stops where nothing real happens. -/
  | illFormed
  deriving DecidableEq, Repr

/-- Why the block refuses a command. -/
inductive Refusal where
  /-- raised by the arm of a row that has no meaning yet. Safe: the model stops. -/
  | notModelled (mnemonic : String)
  deriving DecidableEq, Repr

/-- Everything the spec gives the device, but for the queue of commands. -/
structure Dev where
  /-- register words that differ from their value after POR, by BAR0 offset (RegMap.lean) -/
  regs : Tab Word
  /-- local memories, banks, retained area and external memory (Ops.lean gives the keys) -/
  mem : Memory
  pwr : Pwr
  tb : TimeBase
  trd : TreadleBlock
  cut : Cutter
  memb : MemBlock
  mac : Tab MacPort
  /-- MDIO masters (R304) -/
  mdio : Tab MdioOp
  swc : Switch
  red : Redundancy
  slv : Ring
  mdb : Tab Mdb
  sht : Tab Shuttle
  pins : Pins
  scn : Scan
  hbr : Bridge
  fbr : List FbrSource
  sec : Security
  tap : Tap
  /-- what has left the device, newest first (the model's own) -/
  obs : List Obs
  /-- how many free values have been used (the model's own) -/
  freeCtr : Nat
  deriving DecidableEq, Repr

/-- The state of the block: the device and the commands that wait, first in first out. -/
structure State where
  pending : List Instr
  dev : Dev
  deriving DecidableEq, Repr

/-- The device right after the release of POR: every register at its reset value, every memory zero, mode Boot.
DESIGN CHOICE, log entry 5; DESIGN CHOICE, log entry 6; DESIGN CHOICE, log entry 8. -/
def Dev.reset : Dev :=
  { regs := [], mem := [], pwr := Pwr.init, tb := TimeBase.init, trd := TreadleBlock.init, cut := Cutter.init,
    memb := MemBlock.init, mac := [], mdio := [], swc := Switch.init, red := Redundancy.init, slv := Ring.init, mdb := [],
    sht := [], pins := Pins.init, scn := Scan.init, hbr := Bridge.init, fbr := [], sec := Security.init,
    tap := Tap.init, obs := [], freeCtr := 0 }

/-- The block right after reset: nothing waits. DESIGN CHOICE, log entry 6. -/
def State.reset : State := { pending := [], dev := Dev.reset }

end Sys2Proof.Machine
end

