-- ==== Sys2Proof/Machine/Ops.lean ====
section
/-!
DEFINITION. The named operations over the state that every block shares: register words and their fields, bells and MSI-X
vectors (R534), access errors (R535), compares against the short time (R67), the map generation, the event log (R59),
memory keys, and free values. A block's meaning is a function on `Dev`; `lift` makes it a step that leaves the queue alone.
-/
namespace Sys2Proof.Machine

/-- A meaning whose effect is a change of the device alone: it always completes. -/
def lift (f : Dev → Dev) (s : State) : Host.Outcome State Fault Refusal := .next { s with dev := f s.dev }

/-- The same for a command whose operands must be well-formed. DESIGN CHOICE, log entry 4. -/
def liftIf (ok : Bool) (f : Dev → Dev) (s : State) : Host.Outcome State Fault Refusal :=
  if ok then lift f s else .fault .illFormed

/-! ### Register words -/

/-- The stored value of a register word. -/
def Dev.r (d : Dev) (a : Nat) : Word := tget (regReset a) d.regs a

/-- The device with a register word stored. -/
def Dev.w (d : Dev) (a : Nat) (v : Word) : Dev := { d with regs := tset d.regs a v }

/-- A field of a register word. -/
def Dev.f (d : Dev) (a hi lo : Nat) : Nat := fld (d.r a) hi lo

/-- A bit of a register word. -/
def Dev.b (d : Dev) (a i : Nat) : Bool := bitOf (d.r a) i

/-- The device with a field stored. -/
def Dev.wf (d : Dev) (a hi lo v : Nat) : Dev := d.w a (setFld (d.r a) hi lo v)

/-- The device with a bit stored. -/
def Dev.wb (d : Dev) (a i : Nat) (v : Bool) : Dev := d.wf a i i (b2n v)

/-- A saturating count in a field (the counters of the register maps). -/
def Dev.satf (d : Dev) (a hi lo n : Nat) : Dev := d.wf a hi lo (satAdd (hi + 1 - lo) (d.f a hi lo) n)

/-- A wrapping count in a field. -/
def Dev.incf (d : Dev) (a hi lo n : Nat) : Dev := d.wf a hi lo (wrapAdd (hi + 1 - lo) (d.f a hi lo) n)

/-- A saturating count in a whole word. -/
def Dev.cnt (d : Dev) (a : Nat) (n : Nat := 1) : Dev := d.satf a 31 0 n

/-- What the outside world sees next. DESIGN CHOICE, log entry 14. -/
def Dev.emit (d : Dev) (o : Obs) : Dev := { d with obs := o :: d.obs }

/-- A free value, and the device with the counter advanced. DESIGN CHOICE, log entry 10. -/
def Dev.free (d : Dev) : Word × Dev := (Config.freeWord d.freeCtr, { d with freeCtr := d.freeCtr + 1 })

/-- Some free bytes. DESIGN CHOICE, log entry 10. -/
def Dev.freeBytes (d : Dev) : Nat → List Byte × Dev
  | 0 => ([], d)
  | n + 1 =>
    let (v, d) := d.free
    let (l, d) := d.freeBytes n
    (v.truncate 8 :: l, d)

/-- `f` applied for each of a list of numbers, in order. -/
def Dev.each (d : Dev) (l : List Nat) (f : Dev → Nat → Dev) : Dev := l.foldl f d

/-! ### Bell registers and vectors -/

/-- The bell registers of the device. -/
inductive BellReg where
  | dev | tb | trd | cut | hbell (r : Nat) | cbell | sbell | ybell | ebell (e : Nat) | hbr | fbr | mem | xmc
  | mac (p : Nat) | tallyLo (p : Nat) | tallyHi (p : Nat) | macGlb | swc | red | slv | mdb (n : Nat) | sht (n : Nat)
  | shtGlb | scn | sec | eng (e : Nat)
  deriving DecidableEq, Repr

/-- Address of the bell register. -/
def BellReg.addr : BellReg → Nat
  | .dev => DEV_ACC_ERR | .tb => TB_BELL | .trd => TRD_BELL | .cut => CUT_BELL | .hbell r => MBX_HBELL r
  | .cbell => MBX_CBELL | .sbell => MBX_SBELL | .ybell => MBX_YBELL | .ebell e => MBX_EBELL e | .hbr => HBR_BELL
  | .fbr => FBR_BELL | .mem => MEM_BELL | .xmc => XMC_BELL | .mac p => MAC_BELL p | .tallyLo p => MAC_TALLY_BELL_LO p
  | .tallyHi p => MAC_TALLY_BELL_HI p | .macGlb => MAC_GLB_BELL | .swc => SWC_BELL | .red => RED_BELL
  | .slv => SLV_BELL | .mdb n => MDB_BELL n | .sht n => SHT_BELL n | .shtGlb => SHT_GLB_BELL | .scn => SCN_BELL
  | .sec => SEC_BELL | .eng e => ENG_BELL e

/-- Address of its mask register. -/
def BellReg.mask : BellReg → Nat
  | .dev => DEV_BELL_MASK | .tb => TB_BELL_MASK | .trd => TRD_BELL_MASK | .cut => CUT_BELL_MASK
  | .hbell r => MBX_HMASK r | .cbell => MBX_CMASK | .sbell => MBX_SMASK | .ybell => MBX_YMASK | .ebell e => MBX_EMASK e
  | .hbr => HBR_BELL_MASK | .fbr => FBR_BELL_MASK | .mem => MEM_BELL_MASK | .xmc => XMC_BELL_MASK
  | .mac p => MAC_BELL_MASK p | .tallyLo p => MAC_TALLY_MASK_LO p | .tallyHi p => MAC_TALLY_MASK_HI p
  | .macGlb => MAC_GLB_BELL_MASK | .swc => SWC_BELL_MASK | .red => RED_BELL_MASK | .slv => SLV_BELL_MASK
  | .mdb n => MDB_BELL_MASK n | .sht n => SHT_BELL_MASK n | .shtGlb => SHT_GLB_BELL_MASK | .scn => SCN_BELL_MASK
  | .sec => SEC_BELL_MASK | .eng e => ENG_BELL_MASK e

/-- The MSI-X vector (R532); the tally bells reach it through MAC_BELL.tally. -/
def BellReg.vec : BellReg → Option Nat
  | .dev => some 0 | .tb => some 2 | .trd => some 3 | .cut => some 4 | .hbell r => some (5 + r) | .cbell => some 7
  | .sbell => some 7 | .ybell => some 7 | .ebell e => some (51 + e / 8) | .hbr => some 8 | .fbr => some 9
  | .mem => some 10 | .xmc => some 11 | .mac p => some (12 + p) | .tallyLo _ => none | .tallyHi _ => none
  | .macGlb => some 32 | .swc => some 33 | .red => some 34 | .slv => some 35 | .mdb n => some (36 + n)
  | .sht n => some (44 + n / 8) | .shtGlb => some 48 | .scn => some 49 | .sec => some 50 | .eng e => some (51 + e / 8)

/-- The bell registers that share a vector. -/
def vecRegs (v : Nat) : List BellReg :=
  if v = 0 then [.dev] else if v = 2 then [.tb] else if v = 3 then [.trd] else if v = 4 then [.cut]
  else if v = 5 then [.hbell 0] else if v = 6 then [.hbell 1] else if v = 7 then [.cbell, .sbell, .ybell]
  else if v = 8 then [.hbr] else if v = 9 then [.fbr] else if v = 10 then [.mem] else if v = 11 then [.xmc]
  else if v < 12 then [] else if v < 32 then [.mac (v - 12)] else if v = 32 then [.macGlb] else if v = 33 then [.swc]
  else if v = 34 then [.red] else if v = 35 then [.slv] else if v < 44 then [.mdb (v - 36)]
  else if v < 48 then (List.range 8).map (fun i => .sht (8 * (v - 44) + i)) else if v = 48 then [.shtGlb]
  else if v = 49 then [.scn] else if v = 50 then [.sec]
  else if v < 63 then
    (List.range 8).map (fun i => .eng (8 * (v - 51) + i)) ++ (List.range 8).map (fun i => .ebell (8 * (v - 51) + i))
  else []

/-- Block bit and unit under which the register raises engine events (R150); none for a register that raises none. -/
def BellReg.event : BellReg → Option (Nat × Nat)
  | .tb => some (2, 0xFF) | .trd => some (3, 0xFF) | .mac p => some (10, p) | .swc => some (11, 0xFF)
  | .red => some (12, 0xFF) | .slv => some (13, 0xFF) | .mdb n => some (14, n) | .sht n => some (15, n)
  | .shtGlb => some (15, 0xFF) | .scn => some (16, 0xFF) | .sec => some (17, 0xFF)
  | _ => none

/-- The bell register of which the address is the bell or the mask word. -/
def bellAt (a : Nat) : Option BellReg :=
  let l : List BellReg :=
    [.dev, .tb, .trd, .cut, .hbell 0, .hbell 1, .cbell, .sbell, .ybell, .hbr, .fbr, .mem, .xmc, .macGlb, .swc, .red, .slv,
     .shtGlb, .scn, .sec]
  match l.find? (fun b => b.addr == a || b.mask == a) with
  | some b => some b
  | none =>
    if 0x500100 ≤ a && a < 0x500400 then some (.ebell ((a - 0x500100) / 8))
    else if 0xA00000 ≤ a && a < 0xB40000 then
      let p := (a - 0xA00000) / 0x10000
      let o := a % 0x10000
      if o = 0xC || o = 0x10 then some (.mac p) else if o = 0x64 || o = 0x6C then some (.tallyLo p)
      else if o = 0x68 || o = 0x70 then some (.tallyHi p) else none
    else if 0x1000000 ≤ a && a < 0x1008000 then
      if a % 0x1000 = 8 || a % 0x1000 = 0xC then some (.mdb ((a - 0x1000000) / 0x1000)) else none
    else if 0x1100000 ≤ a && a < 0x1108000 then
      if a % 0x400 = 0x48 || a % 0x400 = 0x4C then some (.sht ((a - 0x1100000) / 0x400)) else none
    else if 0x1400000 ≤ a && a < 0x1460000 then
      if a % 0x1000 = 0x18 || a % 0x1000 = 0x1C then some (.eng ((a - 0x1400000) / 0x1000)) else none
    else none

/-- The unmasked bells that stand set in a register. -/
def Dev.unmasked (d : Dev) (b : BellReg) : Word :=
  match b with
  | .dev => d.r b.addr &&& d.r b.mask &&& 1
  | _ => d.r b.addr &&& d.r b.mask

/-- The OR of the unmasked bells of a vector (R534). -/
def Dev.vecOr (d : Dev) (v : Nat) : Bool := (vecRegs v).any (fun b => d.unmasked b != 0)

/-- A message when the OR of the vector has risen from `before` (R534). -/
def Dev.vecRise (d : Dev) (v : Option Nat) (before : Bool) : Dev :=
  match v with
  | some n => if !before && d.vecOr n then d.emit (.msix n) else d
  | none => d

/-- The bits of a bell register set, and the vector's message (R472, R534), without an engine event. -/
def Dev.setBell (d : Dev) (b : BellReg) (bits : Word) : Dev :=
  let before := match b.vec with | some v => d.vecOr v | none => false
  (d.w b.addr (d.r b.addr ||| bits)).vecRise b.vec before

/-! ### Access errors (R535) -/

/-- Code of an initiator in DEV_ACC_ERR. -/
def initCode : Initiator → Nat
  | .pcie => 0 | .lb => 1 | .engine _ => 2 | .internal => 3

/-- Engine number of an initiator, 0 when it is none. -/
def initEng : Initiator → Nat
  | .engine e => e.val
  | _ => 0

/-- The write being performed fails for a cause of R474; an earlier cause stands. -/
def Dev.failWrite (d : Dev) (cause : Nat) : Dev :=
  { d with hbr := { d.hbr with fail := if d.hbr.fail = 0 then cause else d.hbr.fail } }

/-- The address that a record of an access holds: an engine's own, or the offset or local-bus address given (R535).
DEDUCED, log entry 76. -/
def accAddr (who : Initiator) (addr : Nat) : Nat :=
  match who with
  | .engine _ => addr + 2 ^ 31
  | _ => addr

/-- The address of an access to a BAR that the local bus maps at `base`, as the initiator sees it.
DEDUCED, log entry 76. -/
def portAddr (who : Initiator) (base addr : Nat) : Nat := if who = .lb then base + addr else addr

/-- A refused access: the first is held, every one is counted (R535). Reasons: 1 partial byte enables, 2 unassigned,
3 locked RWL, 4 not allowed in this mode, 5 value or state refused, 6 not the owning party. -/
def Dev.accErr (d : Dev) (who : Initiator) (write : Bool) (reason addr : Nat) : Dev :=
  let d := (d.cnt DEV_ACC_CNT).failWrite 1
  if d.b DEV_ACC_ERR 0 then d
  else
    let rec_ := w32 (2 * initCode who + 8 * b2n write + 16 * reason + 256 * initEng who)
    let d := (d.w DEV_ACC_ERR rec_).w DEV_ACC_ADDR (w32 (accAddr who addr))
    d.setBell .dev 1

/-- A write refused for its value or for the present state. -/
def Dev.refuse (d : Dev) (who : Initiator) (addr : Nat) : Dev := d.accErr who true 5 addr

/-- A write refused for the present mode. -/
def Dev.refuseMode (d : Dev) (who : Initiator) (addr : Nat) : Dev := d.accErr who true 4 addr

/-- A write refused because another party owns the register. -/
def Dev.refuseOwner (d : Dev) (who : Initiator) (addr : Nat) : Dev := d.accErr who true 6 addr

/-- Whether registers can be reached at all: not in Holdover, nor while the main domain is in reset (R27, R35). -/
def Dev.hostUp (d : Dev) : Bool := d.pwr.mode != .holdover && d.pwr.mainUp

/-- In Boot and Provision only DEV, PWR and SEC answer (R28). -/
def Dev.blockOpen (d : Dev) (addr : Nat) : Bool :=
  !(d.pwr.mode == .boot || d.pwr.mode == .provision) || addr < 0x200000 || (0x1300000 ≤ addr && addr < 0x1400000)

/-- A write of a register of BAR0: performed as `f` where the mode lets it through (R27, R28). -/
def Dev.access (d : Dev) (who : Initiator) (addr : Nat) (f : Dev → Dev) : Dev :=
  if !d.hostUp then d else if d.blockOpen addr then f d else d.accErr who true 4 addr

/-- The initiator is the host, over PCIe or the local bus. -/
def isHost : Initiator → Bool
  | .pcie => true | .lb => true | _ => false

/-! ### Time -/

/-- A compare with target `t` has been reached at short time `now` (R67). -/
def reached (now t : Word) : Bool := (now - t).toNat < 2 ^ 31

/-- The order of two short times under R67: `a` lies before `b`. -/
def stBefore (a b : Word) : Bool := !(reached a b)

/-- The map generation (R64), TB_STAT and TB_ANCHOR_SEC_HI publish it. -/
def Dev.gen (d : Dev) : Nat := d.f TB_STAT 8 5

/-- The map generation at an instant `back` quarter-nanoseconds ago: it has advanced since by the steps that came after
(R64, R82). -/
def Dev.genBack (d : Dev) (back : Nat) : Nat :=
  (d.gen + 16 - (d.tb.genSteps.filter (fun t => decide (4 * d.tb.now < 4 * t + back))).length % 16) % 16

/-- The stamp of the present tick. -/
def Dev.stampNow (d : Dev) : Stamp := ⟨d.tb.st, 0, d.gen⟩

/-- The stamp of an instant `back` quarter-nanoseconds before the present tick (R82, R539). -/
def Dev.stampBack (d : Dev) (back : Nat) : Stamp :=
  ⟨d.tb.st - w32 (ceilDiv back 4), (4 - back % 4) % 4, d.genBack back⟩

/-- How many quarter-nanoseconds before the present tick the stamp of an edge lies that fell `back` before it: the point at or
before it on the 1 ns grid of ZC_IN inputs, or on the 2.5 ns grid of shuttle pins (R22, R539). The grid of pins starts with
the model's clock. DEDUCED, log entry 42. -/
def Dev.edgeBack (d : Dev) (zc : Bool) (back : Nat) : Nat :=
  if zc then ceilDiv back 4 * 4
  else
    let q := 4 * d.tb.now - back
    4 * d.tb.now - (q - q % 10)

/-- A 32-bit signed difference of short times. -/
def stDiff (a b : Word) : Int := sx 32 (a - b).toNat

/-- The present TAI in ns since the epoch. -/
def Dev.taiNs (d : Dev) : Nat := d.tb.sec * 1000000000 + d.tb.ns

/-- The short time with the wraps that TB_ST_HI counts above it, in ns (R63). -/
def Dev.stLong (d : Dev) : Nat :=
  ((d.r TB_WRAP_CNT).toNat + if d.tb.wrapDue then 1 else 0) * 2 ^ 32 + d.tb.st.toNat

/-- The short time of a TAI instant: within a map generation the two differ by what they differ by now (R65). -/
def Dev.taiToSt (d : Dev) (tai : Int) : Word :=
  BitVec.ofInt 32 ((d.tb.st.toNat : Int) + (tai - (d.taiNs : Int)))

/-- The TAI of a short time, in the present map generation (R65). -/
def Dev.stToTai (d : Dev) (s : Word) : Int := (d.taiNs : Int) + stDiff s d.tb.st

/-! ### Modes -/

/-- Code of a mode (R27). -/
def Mode.code : Mode → Nat
  | .holdover => 0 | .boot => 1 | .provision => 2 | .stop => 3 | .run => 4 | .hold => 5 | .spare => 6 | .safe => 7

/-- The device's mode. -/
def Dev.mode (d : Dev) : Mode := d.pwr.mode

/-- The mode is one of a list. -/
def Dev.modeIn (d : Dev) (l : List Mode) : Bool := l.contains d.pwr.mode

/-- An entry of the always-on event log (R59): a ring of 256, time from the holdover counter as a multiple of 100 ns. -/
def Dev.logEvent (d : Dev) (code source value : Nat) : Dev :=
  let i := d.pwr.logCount % 256
  let t := d.pwr.holdCnt / 100 * 100
  let d := d.w (PWR_LOG i 0) (w32 t)
  let d := d.w (PWR_LOG i 1) (w32 (t / 2 ^ 32))
  let d := d.w (PWR_LOG i 2) (w32 (code + 256 * source + 65536 * d.pwr.logSeq))
  let d := d.w (PWR_LOG i 3) (w32 value)
  let d := d.wf PWR_LOG_STAT 7 0 (i + 1)
  let d := if d.pwr.logCount < 256 then d else d.satf PWR_LOG_STAT 31 16 1
  { d with pwr := { d.pwr with logCount := d.pwr.logCount + 1, logSeq := wrapAdd 16 d.pwr.logSeq 1 } }

/-- The mode bell: vector 1 has no bell register, each ring sends one message (R34, R532). -/
def Dev.modeBell (d : Dev) : Dev := d.emit (.msix 1)

/-- A mode request completes with a status (R34). -/
def Dev.reqDone (d : Dev) (status : Nat) : Dev :=
  ({ d with pwr := { d.pwr with reqStatus := status } }).modeBell.logEvent 0x0C 0 status

/-- Debug is unlocked (R507). -/
def Dev.debug (d : Dev) : Bool := d.sec.dbgUnlocked

/-! ### Handles (R11-R14) -/

/-- The handle of an object. -/
def mkHandle (kind gen idx : Nat) : Word := w32 (kind * 2 ^ 24 + gen * 2 ^ 12 + idx)

/-- Kind, generation and index of a handle. -/
def hKind (h : Word) : Nat := fld h 31 24
def hGen (h : Word) : Nat := fld h 23 12
def hIdx (h : Word) : Nat := fld h 11 0

/-- The generation after a destruction (R12). -/
def nextGen (g : Nat) : Nat := if g = 0xFFF then 1 else g + 1

/-- Generations of a kind. -/
def Dev.gens (d : Dev) (kind : Nat) : Tab Nat :=
  if kind = 1 then d.cut.genChan else if kind = 2 then d.cut.genMbx else if kind = 3 then d.cut.genRoute
  else if kind = 4 then d.cut.genPat else d.cut.genRes

/-- The current generation of an index; 0 while it has not been issued. -/
def Dev.genOf (d : Dev) (kind idx : Nat) : Nat := tget 0 (d.gens kind) idx

/-- The device with the generation of an index set. -/
def Dev.setGen (d : Dev) (kind idx g : Nat) : Dev :=
  let c := d.cut
  if kind = 1 then { d with cut := { c with genChan := tset c.genChan idx g } }
  else if kind = 2 then { d with cut := { c with genMbx := tset c.genMbx idx g } }
  else if kind = 3 then { d with cut := { c with genRoute := tset c.genRoute idx g } }
  else if kind = 4 then { d with cut := { c with genPat := tset c.genPat idx g } }
  else { d with cut := { c with genRes := tset c.genRes idx g } }

/-- Channel `c` as the Cutter holds it, and the device with it changed. -/
def Dev.chan (d : Dev) (c : Nat) : Chan := tget Chan.init d.cut.chans c

def Dev.setChan (d : Dev) (c : Nat) (f : Chan → Chan) : Dev :=
  { d with cut := { d.cut with chans := tmod Chan.init d.cut.chans c f } }

/-- Engine `e`, and the device with it changed. -/
def Dev.eng (d : Dev) (e : Nat) : Engine := tget Engine.init d.cut.engines e

def Dev.setEng (d : Dev) (e : Nat) (f : Engine → Engine) : Dev :=
  { d with cut := { d.cut with engines := tmod Engine.init d.cut.engines e f } }

/-- The channel activation with a context key (0-511 the channel, 512-1023 its shadow), and the device with it changed. -/
def Dev.act (d : Dev) (k : Nat) : Act := tget Act.init d.cut.acts k

def Dev.setAct (d : Dev) (k : Nat) (f : Act → Act) : Dev :=
  { d with cut := { d.cut with acts := tmod Act.init d.cut.acts k f } }

/-- Descriptor word `i` of channel `c` (R213). -/
def Dev.desc (d : Dev) (c i : Nat) : Word := tget 0 (d.chan c).desc i

/-- The index holds an object of its kind: a channel not FREE, a mailbox or route whose valid bit is set, an issued pattern
handle or reservation. -/
def Dev.holds (d : Dev) (kind idx : Nat) : Bool :=
  if kind = 1 then (d.chan idx).st != .free
  else if kind = 2 then d.b (MBX_MSTAT idx) 31
  else if kind = 3 then d.b (FBR_ROUTE idx 0) 31
  else if kind = 4 then (tget none d.trd.patOwner idx).isSome
  else (tget none d.cut.reserv idx).isSome

/-- How many indices a kind has (R14, R121, R218). -/
def kindRange (kind : Nat) : Nat :=
  if kind = 1 then 512 else if kind = 2 then 256 else if kind = 3 then 4096 else if kind = 4 then 8
  else if kind = 5 then 256 else 0

/-- What the check of R13 answers. -/
inductive HandleCheck where
  | ok | badHandle | stale
  deriving DecidableEq, Repr

/-- The check of R13, in its order. -/
def Dev.checkHandle (d : Dev) (kind : Nat) (h : Word) : HandleCheck :=
  if hKind h ≠ kind then .badHandle
  else if kindRange kind ≤ hIdx h then .badHandle
  else if hGen h = 0 then .badHandle
  else if d.genOf kind (hIdx h) = 0 then .badHandle
  else if hGen h ≠ d.genOf kind (hIdx h) then .stale
  else if d.holds kind (hIdx h) then .ok else .badHandle

/-- The channel that a handle names; none when the handle is null, bad or stale. -/
def Dev.chanOf (d : Dev) (h : Word) : Option Nat :=
  if d.checkHandle 1 h = .ok then some (hIdx h) else none

/-- The channel holds register-grant bit `b` (R136): descriptor word of reg_grant. -/
def Dev.granted (d : Dev) (c b : Nat) : Bool := bitOf (d.desc c 12) b

/-! ### Memory keys -/

/-- Key of engine `e`'s instruction store, X and Y: the BAR2 offset (R531). -/
def keyInstr (e : Nat) : Nat := e * 0x10000
def keyX (e : Nat) : Nat := e * 0x10000 + 0x8000
def keyY (e : Nat) : Nat := e * 0x10000 + 0xC000

/-- Key of bank `b`: the BAR2 offset (R531). -/
def keyBank (b : Nat) : Nat := 0x1000000 + b * 0x40000

/-- Key of the retained area's stable copy (R449). -/
def keyRet : Nat := 0x8000000

/-- Key of external memory byte 0. -/
def keyExt : Nat := 0x100000000

/-- Key of a byte offset of the pack store (R497), which no bus reaches. DEDUCED, log entry 37. -/
def keyPack (o : Nat) : Nat := 0x10000000000 + o

/-- The bank of a key, when it lies in one. -/
def bankOfKey (k : Nat) : Option Nat :=
  if 0x1000000 ≤ k && k < 0x2000000 then some ((k - 0x1000000) / 0x40000) else none

/-- `n` bytes of memory, and memory written. -/
def Dev.mrd (d : Dev) (k n : Nat) : List Byte := mread d.mem k n

def Dev.mwr (d : Dev) (k : Nat) (l : List Byte) : Dev := { d with mem := mwrite d.mem k l }

/-- A 32-bit word of memory. -/
def Dev.mword (d : Dev) (k : Nat) : Word := w32 (leVal (d.mrd k 4))

def Dev.mwordSet (d : Dev) (k : Nat) (v : Word) : Dev := d.mwr k (leBytes 4 v.toNat)

/-! ### Parts of the state by index -/


def Dev.port (d : Dev) (p : Nat) : MacPort := tget MacPort.init d.mac p
def Dev.setPort (d : Dev) (p : Nat) (f : MacPort → MacPort) : Dev := { d with mac := tmod MacPort.init d.mac p f }
def Dev.trdl (d : Dev) (n : Nat) : Treadle := tget Treadle.init d.trd.t n
def Dev.setTrdl (d : Dev) (n : Nat) (f : Treadle → Treadle) : Dev :=
  { d with trd := { d.trd with t := tmod Treadle.init d.trd.t n f } }
def Dev.ctl (d : Dev) (n : Nat) : Mdb := tget Mdb.init d.mdb n
def Dev.setCtl (d : Dev) (n : Nat) (f : Mdb → Mdb) : Dev := { d with mdb := tmod Mdb.init d.mdb n f }
def Dev.shuttle (d : Dev) (n : Nat) : Shuttle := tget Shuttle.init d.sht n
def Dev.setSht (d : Dev) (n : Nat) (f : Shuttle → Shuttle) : Dev := { d with sht := tmod Shuttle.init d.sht n f }
def Dev.queue (d : Dev) (p q : Nat) : List QEntry := tget [] d.swc.q (8 * p + q)
def Dev.setQueue (d : Dev) (p q : Nat) (l : List QEntry) : Dev :=
  { d with swc := { d.swc with q := tset d.swc.q (8 * p + q) l } }
def Dev.gatep (d : Dev) (p : Nat) : GatePort := tget GatePort.init d.swc.gate p
def Dev.setGate (d : Dev) (p : Nat) (f : GatePort → GatePort) : Dev :=
  { d with swc := { d.swc with gate := tmod GatePort.init d.swc.gate p f } }
def Dev.stn (d : Dev) (s : Nat) : Station := tget Station.init d.scn.stations s
def Dev.setStn (d : Dev) (s : Nat) (f : Station → Station) : Dev :=
  { d with scn := { d.scn with stations := tmod Station.init d.scn.stations s f } }

/-- The value a read returns, seen by the initiator. DESIGN CHOICE, log entry 14. -/
def Dev.answer (d : Dev) (who : Initiator) (v : Word) (err : Bool := false) : Dev :=
  let k := match who with | .pcie => 0 | .lb => 1 | .internal => 2 | .engine e => 3 + e.val
  { d.emit (.readData who v err) with hbr := { d.hbr with lastRead := tset d.hbr.lastRead k (v, err) } }

/-- A read of a register of BAR0: `f` gives the value and the read's side effect where the mode lets it through; in Boot and
Provision a read outside DEV, PWR and SEC returns 0 and is recorded (R28). -/
def Dev.accessR (d : Dev) (who : Initiator) (addr : Nat) (f : Dev → Word × Dev) : Dev :=
  if !d.hostUp then d
  else if d.blockOpen addr then
    let (v, d) := f d
    d.answer who v
  else (d.accErr who false 4 addr).answer who 0

end Sys2Proof.Machine
end

