-- ==== Sys2Proof/Machine/Events.lean ====
section
/-!
DEFINITION. Events on their way to a channel (R146-R150), the bells that raise them, and the messages of mailboxes
(R467-R473). `Dev.ring` is the one operation by which a block sets a bell of its own: it sets the bit, sends the vector's
message, raises the engine event and sends the doorbell messages.
-/
namespace Sys2Proof.Machine

/-- The channel of a context key. DESIGN CHOICE, log entry 12. -/
def keyChan (k : Nat) : Nat := k % 512

/-- Outputs and lateness of an input stamped `st` taken by context `k` are suppressed (R237): a migration shadow's, and
after the switch-over at S those of inputs stamped before S on the new engine, which the original releases. -/
def Dev.muted (d : Dev) (k : Nat) (st : Word) : Bool :=
  match (d.chan (keyChan k)).mig with
  | none => 512 ≤ k
  | some m => match m.switched with
    | none => 512 ≤ k
    | some s => if 512 ≤ k then false else !(reached st s)

/-- The settle time of a channel (R224). -/
def Dev.settle (d : Dev) (c : Nat) : Nat := (d.chan c).settle

/-- The visibility time of an event of a channel (R148). -/
def Dev.visAt (d : Dev) (ev : Ev) : Word := ev.stamp.st + w32 (d.settle (keyChan ev.chan))

/-- The same event, whatever its delivery has added to it. -/
def sameEv (w v : Ev) : Bool :=
  w.stamp == v.stamp && w.src == v.src && w.unit == v.unit && w.seq == v.seq && w.payload == v.payload

/-- The order of delivery (R147): stamps under R67, then the lower source, then the lower seq modulo 2^16.
DEDUCED, log entry 26. -/
def evBefore (a b : Ev) : Bool :=
  if a.stamp.st ≠ b.stamp.st then stBefore a.stamp.st b.stamp.st
  else if a.stamp.quarter ≠ b.stamp.quarter then a.stamp.quarter < b.stamp.quarter
  else if a.src ≠ b.src then a.src < b.src
  else serialNewer 16 b.seq a.seq

/-- The event of a list that is delivered first. -/
def firstEv : List Ev → Option Ev
  | [] => none
  | e :: t => match firstEv t with
    | none => some e
    | some f => if evBefore f e then some f else some e

/-- Receive slots that an event holds are free again (R328, R390, R410, R469). -/
def Dev.freeSlots (d : Dev) (ev : Ev) : Dev :=
  let mine := fun (u : SlotUse) =>
    u.chan == keyChan ev.chan && ev.ring == some (u.kind, u.idx, u.slot) && u.src == ev.src && u.unit == ev.unit && u.seq == ev.seq && u.st == ev.stamp.st
  let d := (d.swc.slots.filter mine).foldl (fun d u =>
    if u.kind = 4 then d.wf (MBX_RXSTAT u.idx u.slot) 4 0 0 else d) d
  { d with swc := { d.swc with slots := d.swc.slots.filter (fun u => !mine u) } }

/-- Events of a key that wait in an engine's queue. -/
def Engine.eventsOf (e : Engine) (k : Nat) : List Ev := e.evq.filter (fun v => v.chan == k)

/-- The queue of the engine that holds context `k` has room for one more of its events (R149). -/
def Dev.evRoom (d : Dev) (k : Nat) : Bool :=
  let en := d.eng (d.act k).eng
  (en.eventsOf k).length < fld (d.desc (keyChan k) 5) 7 0 && en.evq.length < 128

/-- An event enters the queue of the engine that holds context `k`, or is dropped when the quota or the queue is full
(R149); a late arrival breaches its settle time (R148). -/
def Dev.enqueue (d : Dev) (k : Nat) (ev : Ev) : Dev :=
  let a := d.act k
  let e := a.eng
  if !(d.evRoom k) then
    let d := (d.cnt (ENG_EVQ_DROP e)).setBell (.eng e) (w32 8)
    let d := d.setAct k (fun a => { a with dropped := true })
    if d.muted k ev.stamp.st then d else d.freeSlots { ev with chan := k }
  else
    let vis := ev.stamp.st + w32 (d.settle (keyChan k))
    let past := match a.lastTaken with
      | some t => stBefore ev.stamp.st t.st
      | none => false
    let breach := ev.breach || (reached d.tb.st vis && d.tb.st != vis) || past
    let d := if breach then (d.cnt (ENG_SETTLE_BRCH e)).setBell (.eng e) (w32 16) else d
    let d := d.setEng e (fun en =>
      { en with
        evq := en.evq ++ [{ ev with chan := k, breach := breach, visible := past || reached d.tb.st vis }]
        evqHigh := max en.evqHigh (en.evq.length + 1) })
    d

/-- Event words 0-3 (R146). -/
def evWords (v : Ev) (late : Bool) : List Word :=
  [w32 (v.src + 16 * v.unit + 4096 * keyChan v.chan + 2 ^ 29 * b2n v.overrun + 2 ^ 30 * b2n v.breach + 2 ^ 31 * b2n late),
   v.stamp.st, w32 (v.stamp.quarter + 4 * v.stamp.gen + 65536 * v.seq), v.payload]

/-- A record enters the pattern book's queue toward the ring, of 4 KiB, behind its 16-byte header; one that does not fit is
dropped whole (R236, R391). The kind's code is not stated. DESIGN CHOICE, log entry 64. -/
def Dev.bookPut (d : Dev) (handle : Word) (epoch : Nat) (st : Word) (body : List Byte) : Dev :=
  let (kind, d) := d.free
  let r := leBytes 4 handle.toNat ++ leBytes 4 epoch ++ leBytes 4 st.toNat ++ leBytes 2 body.length ++ leBytes 2 kind.toNat ++ body
  let held := (d.slv.bookq.map List.length).foldl (· + ·) 0
  if 4096 < held + r.length then d.cnt (SLV_CNT 15)
  else { d with slv := { d.slv with bookq := d.slv.bookq ++ [r] }, red := { d.red with bookCnt := wrapAdd 32 d.red.bookCnt 1 } }

/-- The record of channel `c` with a body, when the book is on and this device is not the spare. -/
def Dev.bookChan (d : Dev) (c : Nat) (body : List Byte) : Dev :=
  if d.b CUT_CKPT_CFG 0 && d.mode != .spare then
    let st := match (d.act c).lastSealed with | some x => x.1 | none => 0
    d.bookPut (mkHandle 1 (d.genOf 1 c) c) (d.chan c).epochs st body
  else d

/-- A channel's journal takes a delivered event (R236), one that its queue accepts. DEDUCED, log entry 26. -/
def Dev.journal (d : Dev) (c : Nat) (ev : Ev) : Dev :=
  let d := d.setChan c (fun ch => { ch with journal := ch.journal ++ [ev] })
  d.bookChan c ((evWords ev false).map (fun (w : Word) => leBytes 4 w.toNat)).flatten

/-- A delivered event goes to the context or contexts that take it (R237): to the shadow as well from P1 on; after the
switch-over at S, to the draining original as well when it is stamped before S. A channel whose node is another has no queue
here. DEDUCED, log entry 26; DESIGN CHOICE, log entry 80. -/
def Dev.deliverEv (d : Dev) (c : Nat) (ev : Ev) : Dev :=
  if (tfind d.cut.acts c).isNone then d.freeSlots ev else
  let d := (if d.evRoom c then d.journal c ev else d).enqueue c ev
  match (d.chan c).mig with
  | none => d
  | some m => match m.switched with
    | some s => if reached ev.stamp.st s then d else d.enqueue (512 + c) ev
    | none => match m.p1 with
      | some p => if m.shadowUp && reached ev.stamp.st p then d.enqueue (512 + c) ev else d
      | none => d

/-- An event for a channel that takes inputs is delivered, up to the boundary at which the channel stops (R221). -/
def Dev.deliverUpTo (d : Dev) (c : Nat) (ev : Ev) : Dev :=
  match (d.chan c).stopAt with
  | some p => if reached ev.stamp.st p then d.freeSlots ev else d.deliverEv c ev
  | none => d.deliverEv c ev

/-- An event for channel `c` is posted (R146-R149, R221, R237, R344). DEDUCED, log entry 26. -/
def Dev.post (d : Dev) (c : Nat) (ev : Ev) : Dev :=
  let ch := d.chan c
  let ev := { ev with chan := c }
  let armed := fun (d : Dev) => if d.mode = .spare then d.journal c ev else d.freeSlots ev
  match ch.st with
  | .armed => armed d
  | .running => d.deliverUpTo c ev
  | .migrating => d.deliverUpTo c ev
  | .stopping => d.deliverUpTo c ev
  | .recovering => match ch.backTo with
    | none => d.deliverUpTo c ev
    | some .armed => armed d
    | some _ => d.freeSlots ev
  | _ => d.freeSlots ev

/-- An event with a given source, unit, stamp, seq and payload. -/
def mkEv (src unit : Nat) (st : Stamp) (seq : Nat) (payload : Word) : Ev :=
  { src := src, unit := unit, chan := 0, overrun := false, breach := false, late := false, stamp := st, seq := seq % 65536,
    payload := payload, visible := false, ring := none }

/-- The CONTROL event of block bit `b` (R150): dropped without a count when the subscriber is null, stale or lacks the
grant. -/
def Dev.control (d : Dev) (b unit : Nat) (bell : Word) : Dev :=
  let n := wrapAdd 16 (tget 0 d.cut.evtSeq b) 1
  let d := { d with cut := { d.cut with evtSeq := tset d.cut.evtSeq b n } }
  match d.chanOf (d.r (CUT_EVT_SUB b)) with
  | none => d
  | some c =>
    if d.granted c b then
      d.post c (mkEv 0xF unit d.stampNow n (w32 (fld bell 26 0 + b * 2 ^ 27)))
    else d

/-! ### Mailboxes -/

/-- Party codes of R464. -/
def partyHost0 : Word := 0xFF000000
def partyHost1 : Word := 0xFF000001
def partyCutter : Word := 0xFF000002
def partyScan : Word := 0xFF000003
def partySec : Word := 0xFF000004

/-- The bell register of a party (R472); a channel's is that of the engine that holds it. -/
def Dev.partyBell (d : Dev) (p : Word) : Option BellReg :=
  if p = partyHost0 then some (.hbell 0) else if p = partyHost1 then some (.hbell 1)
  else if p = partyCutter then some .cbell else if p = partyScan then some .sbell
  else if p = partySec then some .ybell
  else match d.chanOf p with
    | some c => some (.ebell (d.act c).eng)
    | none => none

/-- The party is the host. -/
def isHostParty (p : Word) : Bool := p == partyHost0 || p == partyHost1

/-- The bell bit rung for party `dir` of mailbox `m`. -/
def Dev.mbxBit (d : Dev) (m dir : Nat) : Nat := if dir = 0 then d.f (MBX_MSTAT m) 20 16 else d.f (MBX_MSTAT m) 28 24

/-- The party is one of the blocks, which read and free their slots themselves (R470). -/
def isBlockParty (p : Word) : Bool := p == partyCutter || p == partyScan || p == partySec

/-- The words of a message enter the receive slot toward party `dir`, which is marked full with their count (R468, R470); a
block reads and frees its slot at once. DESIGN CHOICE, log entry 75. -/
def Dev.rxFill (d : Dev) (m dir : Nat) (words : List Word) : Dev :=
  let d := d.each (List.range words.length) (fun d i => d.w (MBX_RX m dir i) (words.getD i 0))
  let d := d.wf (MBX_RXSTAT m dir) 4 0 (if isBlockParty (d.r (MBX_PARTY m dir)) then 0 else 1 + 2 * words.length)
  let d := { d with swc := { d.swc with fullAt := tset d.swc.fullAt (2 * m + dir) d.tb.now } }
  if isHostParty (d.r (MBX_PARTY m dir)) then d.wb (MBX_HFULL (m / 32)) (m % 32) true else d

/-- Bit `bit` of a party's bell register rings. -/
def Dev.partyRing (d : Dev) (party : Word) (bit : Nat) : Dev :=
  match d.partyBell party with
  | some b => d.setBell b (w32 (2 ^ bit))
  | none => d

/-- The event of a delivery to a channel (R469): a message holds its slot until the channel has done with the event. A lost flag
that was set in this tick stays set (R8). DEDUCED, log entry 75. -/
def Dev.rxEvent (d : Dev) (m dir c n bit : Nat) : Dev :=
  let seq := d.f (MBX_RXSTAT m dir) 31 16
  let lost := d.b (MBX_RXSTAT m dir) 5
  let d := d.wb (MBX_RXSTAT m dir) 5 (lost && tfind d.swc.lostAt (2 * m + dir) == some d.tb.now)
  let d := if n = 0 then d else
    { d with swc := { d.swc with slots := d.swc.slots ++
      [{ kind := 4, idx := m, slot := dir, chan := c, src := 7, unit := m, seq := seq, st := d.tb.st }] } }
  d.post c { mkEv 7 m d.stampNow seq (w32 (n + 16 * bit + 512 * dir + 1024 * b2n (n = 0) + 2048 * b2n lost)) with
    ring := if n = 0 then none else some (4, m, dir) }

/-- A delivery toward party `dir` of mailbox `m` (R467-R469, R472): `words` of a message, or none for a zero-length message
or a bell on bit `bit`. Answers whether a message was discarded because the slot was full. -/
def Dev.deliver (d : Dev) (m dir : Nat) (words : List Word) (bit : Nat) : Dev × Bool :=
  let party := d.r (MBX_PARTY m dir)
  if words ≠ [] && d.b (MBX_RXSTAT m dir) 0 then
    let d := (d.cnt (MBX_CNT 0)).wb (MBX_RXSTAT m dir) 5 true
    ({ d with swc := { d.swc with lostAt := tset d.swc.lostAt (2 * m + dir) d.tb.now } }, true)
  else
    let d := if words = [] then d.cnt (MBX_CNT 2) else (d.cnt (MBX_CNT 1)).rxFill m dir words
    let d := d.incf (MBX_RXSTAT m dir) 31 16 1
    let d := (d.w (MBX_RXST m dir) d.tb.st).partyRing party bit
    match d.chanOf party with
    | none => (d, false)
    | some c => (d.rxEvent m dir c words.length bit, false)

/-- The zero-length message that a block sends in every mailbox in which it is a party (R473). -/
def Dev.doorbell (d : Dev) (party : Word) : Dev :=
  d.each (List.range 256) (fun d m =>
    if d.b (MBX_MSTAT m) 31 then
      if d.r (MBX_PARTY m 0) = party then (d.deliver m 1 [] (d.mbxBit m 1)).1
      else if d.r (MBX_PARTY m 1) = party then (d.deliver m 0 [] (d.mbxBit m 0)).1
      else d
    else d)

/-- The party whose doorbell a bell register rings (R473). -/
def BellReg.door : BellReg → Option Word
  | .cut => some partyCutter
  | .scn => some partyScan
  | .sec => some partySec
  | _ => none

/-- Bells of a block become set: bits, vector message, engine event (R150), doorbell (R473), R534. -/
def Dev.ring (d : Dev) (b : BellReg) (bits : Word) : Dev :=
  let was := d.unmasked b
  let d := d.setBell b bits
  let new := bits &&& d.r b.mask &&& ~~~ was
  let d := match b.event with
    | some (blk, unit) => if was = 0 && new != 0 then d.control blk unit (d.r b.addr) else d
    | none => d
  match b.door with
  | some p => if new != 0 then d.doorbell p else d
  | none => d

/-- One bell bit of a block. -/
def Dev.ringBit (d : Dev) (b : BellReg) (i : Nat) : Dev := d.ring b (w32 (2 ^ i))

/-- What a write of a bell or mask register leaves (R534, R150): a message and an engine event when a W1C write leaves an
unmasked bell set, a message when an unmasking raises the vector. DEDUCED, log entry 82. -/
def Dev.bellWritten (d : Dev) (b : BellReg) (w1c : Bool) (before : Bool) : Dev :=
  match w1c, b.vec with
  | true, some v =>
    let d := if d.vecOr v then d.emit (.msix v) else d
    match b.event with
    | some (blk, unit) => if d.unmasked b != 0 then d.control blk unit (d.r b.addr) else d
    | none => d
  | false, v => d.vecRise v before
  | true, none => d

end Sys2Proof.Machine
end

