-- ==== Sys2Proof/Machine/Pins.lean ====
section
/-!
DEFINITION. The shuttle pins: which source drives a pin, the claim gate, the safe states, and the drive that results
(R421-R424, R355, R357, R352).
-/
namespace Sys2Proof.Machine

/-! ### The claim gate (R354, R355) -/

/-- The device pair is enabled. -/
def Dev.paired (d : Dev) : Bool := d.b RED_CTRL 0

/-- Claim `a` is higher than claim `b` (R354). -/
def claimHigher (a b : Nat) : Bool := serialNewer 16 a b

/-- The claim gate is open (R355). -/
def Dev.gateOpen (d : Dev) : Bool :=
  d.mode == .run && (!d.paired || (!(claimHigher (d.f RED_CLAIM 31 16) (d.f RED_CLAIM 15 0)) && d.red.tie == 0))

/-- The role of RED_CTRL and the gate disagree (R363). -/
def Dev.roleBad (d : Dev) : Bool :=
  d.paired && ((d.mode == .run && !(d.b RED_CTRL 1) && !d.gateOpen) || (d.b RED_CTRL 1 && d.gateOpen))

/-- The two are compared again after a change of either. -/
def Dev.roleView (d : Dev) : Dev :=
  if d.roleBad then (if d.red.differ.isSome then d else { d with red := { d.red with differ := some d.tb.now } })
  else if d.red.differ.isSome || d.b RED_STAT 1 then { d.wb RED_STAT 1 false with red := { d.red with differ := none } }
  else d

/-- An output blocked by the closed gate is counted; it is not late (R355). -/
def Dev.blocked (d : Dev) : Dev := d.satf RED_GATE_CNT 15 0 1

/-- A stream output suppressed after a higher claim was seen (R356). -/
def Dev.suppressed (d : Dev) : Dev := d.satf RED_GATE_CNT 31 16 1

/-- A word enters the intended fold (R352). -/
def Dev.foldInt (d : Dev) (v : Word) : Dev :=
  { d with red := { d.red with foldInt := (d.red.foldInt.rotateLeft 1) ^^^ v } }

/-- A word enters the observed fold (R352). -/
def Dev.foldObs (d : Dev) (v : Word) : Dev :=
  { d with red := { d.red with foldObs := (d.red.foldObs.rotateLeft 1) ^^^ v } }

/-! ### The drive of a pin -/

/-- Source code of pin `i` (R421). -/
def Dev.pinSrc (d : Dev) (i : Nat) : Nat := d.f (SHT_PIN_CFG i) 2 0

/-- The pin is command-class. -/
def Dev.pinCmd (d : Dev) (i : Nat) : Bool := d.b (SHT_PIN_CFG i) 10

/-- The mode or the closed gate holds the pin at its safe state (R424). In Hold a pin keeps its level (R27).
DEDUCED, log entry 31. -/
def Dev.pinForced (d : Dev) (i : Nat) : Bool :=
  match d.mode with
  | .safe => d.pinSrc i != 0
  | .stop => d.pinCmd i
  | .run => d.pinCmd i && !d.gateOpen
  | _ => false

/-! ### The lifecycle and the test access port (R492, R530) -/

/-- How many bits of a word are 1. -/
def popCount (w : Word) : Nat := (List.range 32).countP (fun i => bitOf w i)

def Dev.otp (d : Dev) (i : Nat) : Word := tget 0 d.sec.otp i

/-- The lifecycle's code: 0 BLANK, 1 PROVISIONED, 2 FIELD, 3 RETIRED. -/
def Dev.lifecycle (d : Dev) : Nat :=
  if 24 ≤ popCount (d.otp 2) then 3 else if 24 ≤ popCount (d.otp 1) then 2 else if 24 ≤ popCount (d.otp 0) then 1 else 0

/-- EXTEST, CLAMP and HIGHZ act only in Boot, Provision and Stop, while the lifecycle is BLANK or debug is unlocked (R530).
DESIGN CHOICE, log entry 78. -/
def Dev.tapOpen (d : Dev) : Bool := d.pwr.mainUp && d.modeIn [.boot, .provision, .stop] && (d.lifecycle == 0 || d.debug)

/-- The instruction moves the pads. -/
def TapInstr.pads : TapInstr → Bool
  | .extest => true | .clamp => true | .highz => true
  | .idcode => false | .sample => false | .bypass => false

/-- The instruction as it acts: one that may not move the pads acts as BYPASS (R530). DESIGN CHOICE, log entry 78. -/
def Dev.tapActs (d : Dev) : TapInstr := if d.tap.ir.pads && !d.tapOpen then .bypass else d.tap.ir

/-- What a pin's functional driver drives: a level, or nothing. In Hold the pads of shuttles and treadles keep what they had (R27,
R440), and COMMIT pins still take what was committed before. -/
def Dev.pinFunc (d : Dev) (i : Nat) : Option Bool :=
  if !(d.modeIn [.stop, .run, .hold, .safe]) || d.pwr.pllLost then none
  else if d.mode = .hold && d.pinSrc i ≠ 2 then
    if d.pins.heldOe.getLsbD i then some (d.pins.heldOut.getLsbD i) else none
  else
    let c := d.r (SHT_PIN_CFG i)
    let lv :=
      if d.pinForced i || d.pins.safe.getLsbD i then
        (let s := fld c 12 11; if s = 0 then some false else if s = 1 then some true else none)
      else if fld c 2 0 != 0 && d.pins.oe.getLsbD i then some (d.pins.level.getLsbD i) else none
    if lv = some true && bitOf c 13 then none else lv

/-- What a pin is driven to, by its functional driver or by the boundary register (R529, R530). DESIGN CHOICE, log entry 78.
DEDUCED, log entry 31. -/
def Dev.pinDrive (d : Dev) (i : Nat) : Option Bool :=
  match d.tapActs with
  | .extest => Config.padCell d.tap.boundary i
  | .clamp => Config.padCell d.tap.boundary i
  | .highz => none
  | _ => d.pinFunc i

/-- The pull of a pin: none without power; its register is in the WARM domain, so it is off in reset and in Boot (R521). -/
def Dev.pinPull (d : Dev) (i : Nat) : Nat := if d.mode = .holdover then 0 else d.f (SHT_PIN_CFG i) 15 14

/-- A pull that has changed is seen. -/
def Dev.pullSeen (d : Dev) (i before : Nat) : Dev := if d.pinPull i = before then d else d.emit (.pull i (d.pinPull i))

/-- Bit `i` of a 64-bit mask set to `v`. -/
def put64 (m : BitVec 64) (i : Nat) (v : Bool) : BitVec 64 :=
  if v then m ||| BitVec.ofNat 64 (2 ^ i) else m &&& ~~~ (BitVec.ofNat 64 (2 ^ i))

/-- What the outside sees of a pin after a change, given its drive before. -/
def Dev.pinSeen (d : Dev) (i : Nat) (before : Option Bool) : Dev :=
  if d.pinDrive i = before then d
  else match d.pinDrive i with
    | some v => d.emit (.pin i v)
    | none => d.emit (.pinZ i)

/-- A source acts on its pin: its level setting, its drive enable, or both; the kept safe state ends (R424). -/
def Dev.actPin (d : Dev) (i : Nat) (level oe : Option Bool) : Dev :=
  let before := d.pinDrive i
  let p := d.pins
  let p := match level with | some v => { p with level := put64 p.level i v } | none => p
  let p := match oe with | some v => { p with oe := put64 p.oe i v } | none => p
  let p := if d.pinForced i then p else { p with safe := put64 p.safe i false }
  ({ d with pins := p }).pinSeen i before

/-- A pin takes its safe state and keeps it until its source next acts (R216, R424). -/
def Dev.safePin (d : Dev) (i : Nat) : Dev :=
  let before := d.pinDrive i
  ({ d with pins := { d.pins with safe := put64 d.pins.safe i true } }).pinSeen i before

/-- Action code of R201 and R122 on a COMMIT pin: 0 low, 1 high, 2 toggle, 3 high impedance. -/
def Dev.pinAction (d : Dev) (i action : Nat) : Dev :=
  if action = 0 then d.actPin i (some false) (some true)
  else if action = 1 then d.actPin i (some true) (some true)
  else if action = 2 then d.actPin i (some (!d.pins.level.getLsbD i)) (some true)
  else d.actPin i none (some false)

/-- A released command-class level enters the intended fold; its pad reading is awaited (R352). -/
def Dev.pinFold (d : Dev) (i : Nat) : Dev :=
  if d.pinCmd i then
    let d := d.foldInt (w32 (0x100 * i + b2n (d.pins.level.getLsbD i)))
    { d with pins := { d.pins with obsDue := tmod 0 d.pins.obsDue i (· + 1) } }
  else d

/-- The output commit stage acts on a COMMIT pin for party `who`: table 0-7, or 8 a channel output. Of the actions that
meet in one tick the highest party's prevails (R123, R423). -/
def Dev.commitPin (d : Dev) (i action who : Nat) : Dev :=
  let last := tget (0, 9) d.pins.acted i
  let meet := last.2 < 9 && last.1 = d.tb.now && last.2 ≠ who
  let d :=
    if meet && (last.2 = 8 || who = 8) then
      (d.satf SHT_GLB_CNT 31 16 1).ringBit .shtGlb 1
    else if meet then d.ringBit .trd (24 + Nat.min last.2 who)
    else d
  if meet && who < last.2 then d
  else
    let d := { d with pins := { d.pins with acted := tset d.pins.acted i (d.tb.now, who) } }
    (d.pinAction i action).pinFold i

/-- A pin action that the pin map refuses (R422, R423). -/
def Dev.pinRefused (d : Dev) : Dev := (d.satf SHT_GLB_CNT 15 0 1).ringBit .shtGlb 2

/-- Every pin's drive and pull is looked at again after a change of mode or gate; `before` is the device then. -/
def Dev.pinsSeen (d : Dev) (before : Dev) : Dev :=
  d.each (List.range 64) (fun d i => (d.pinSeen i (before.pinDrive i)).pullSeen i (before.pinPull i))

/-- After a change of the lifecycle or of debug access the pads are looked at again where a TAP instruction stands that moves them
(R530). DESIGN CHOICE, log entry 78. -/
def Dev.tapView (d before : Dev) : Dev := if d.tap.ir.pads then d.pinsSeen before else d

/-- Pins that the present mode holds at their safe states keep them after the mode is left (R424). -/
def Dev.pinsKeepSafe (d : Dev) : Dev :=
  let m := (List.range 64).foldl (fun m i => if d.pinForced i then put64 m i true else m) d.pins.safe
  { d with pins := { d.pins with safe := m } }

/-- The drives of all pins are kept for Hold (R440); the pins that the mode holds at their safe states keep them. -/
def Dev.pinsFreeze (d : Dev) : Dev :=
  let oe := (List.range 64).foldl (fun m i => put64 m i (d.pinFunc i).isSome) 0
  let out := (List.range 64).foldl (fun m i => put64 m i (d.pinFunc i == some true)) 0
  let d := d.pinsKeepSafe
  { d with pins := { d.pins with heldOe := oe, heldOut := out } }

end Sys2Proof.Machine
end

