-- ==== Sys2Proof/Machine/Release.lean ====
section
/-!
DEFINITION. Sealing, lateness and the late actions (R153, R216, R242, R243), checkpoints (R234, R236), the end of a
migration (R237, R238, R240), and what becomes of outputs that a mode change withholds (R538) or Hold makes late (R29).
-/
namespace Sys2Proof.Machine

/-! ### Completion of a Cutter command (R217) -/

/-- A command on port `k` completes: the results it has, status, sequence, the done bell.
DESIGN CHOICE, log entry 15. -/
def Dev.cmdDone (d : Dev) (k status : Nat) (res0 : Option Nat := none) (res1 : Option Nat := none) : Dev :=
  let d := match res0 with | some v => d.w (CUT_RES k 0) (w32 v) | none => d
  let d := match res1 with | some v => d.w (CUT_RES k 1) (w32 v) | none => d
  let s := CUT_CMD_STAT k
  let d := d.w s (w32 (status + 65536 * wrapAdd 16 (d.f s 31 16) 1))
  d.ringBit .cut k

/-- Completion on a port that may be absent. DESIGN CHOICE, log entry 15. -/
def Dev.cmdDone? (d : Dev) (k : Option Nat) (status : Nat) (res0 : Option Nat := none) : Dev :=
  match k with
  | some k => d.cmdDone k status res0
  | none => d

/-! ### Slots -/

/-- The context keys of the channels that hold slots on engine `e`. -/
def Dev.slotKeys (d : Dev) (e : Nat) : List Nat := ((d.eng e).slots.filterMap (fun p => p.2))

/-- Memory as the posted stores of context `k` to banks and external memory leave it. -/
def Dev.afterStores (d : Dev) (k : Nat) : Memory :=
  ((d.eng (d.act k).eng).far.filter (fun f => f.key == k && f.store && f.region != .dev)).foldl
    (fun m f => mwrite m f.addr (leBytes f.size f.value.toNat)) d.mem

/-- The key of an output that belongs to no context any more: a pending late action whose context has left (R216). -/
def keyGone : Nat := 1024

/-- The context `k` leaves its engine: its slot, its queued events and outputs and its loads go; its posted stores are
performed, those to device registers in their order. A pending SAFE action stays: it acts at the release time (R216). -/
def Dev.dropKey (d : Dev) (k : Nat) : Dev :=
  let a := d.act k
  let d := { d with mem := d.afterStores k }
  let d := d.setEng a.eng (fun e =>
    { e with
      slots := e.slots.filter (fun p => p.2 != some k)
      evq := e.evq.filter (fun v => v.chan != k)
      outq := (e.outq.filter (fun o => o.key != k || o.desc == 14)).map
        (fun (o : Out) => if o.key == k then { o with key := keyGone } else o)
      far := e.far.filter (fun f => f.key != k || (f.store && f.region == .dev))
      cur := if e.cur = some k then none else e.cur
      loaded := if e.loaded = some k then none else e.loaded })
  { d with cut := { d.cut with acts := terase d.cut.acts k } }

/-! ### Placements and the two views (R237, R249) -/

/-- Context keys that hold a placement. -/
def Dev.placed (d : Dev) : List Nat := tkeys d.cut.acts

/-- Channels that are not FREE. -/
def Dev.liveChans (d : Dev) : List Nat := (tkeys d.cut.chans).filter (fun c => (d.chan c).st != .free)

/-- Far windows of a channel: (index, descriptor words 1) of the valid ones. -/
def Dev.windows (d : Dev) (c : Nat) : List (Nat × Word) :=
  ((List.range 8).map (fun w => (w, d.desc c (17 + 4 * w)))).filter (fun p => bitOf p.2 22)

/-- Mapped windows of a channel: index and descriptor word +1. -/
def Dev.mapped (d : Dev) (c : Nat) : List (Nat × Word) := (d.windows c).filter (fun p => fld p.2 19 0 != 0)

/-- Windows of kind 3 that name channel `c` follow the windows of its context `k`. -/
def Dev.relinkFrom (d : Dev) (c k : Nat) : Dev :=
  d.each (d.placed) (fun d j =>
    ((d.mapped (keyChan j)).filter (fun p => fld p.2 21 20 == 3 && d.chanOf (d.desc (keyChan j) (19 + 4 * p.1)) == some c)).foldl
      (fun d p => d.setAct j (fun a =>
        { a with winPhys := tset a.winPhys p.1 (tget 0 (d.act k).winPhys (fld p.2 26 24)) })) d)

/-- The channel's place by the engines' slot tables. -/
def Dev.slotOf (d : Dev) (c : Nat) : Option (Nat × Nat) :=
  (tkeys d.cut.engines).findSome? (fun e =>
    ((d.eng e).slots.find? (fun p => p.2 == some c)).map (fun p => (e, p.1)))

/-- The channel's state does not contradict its slot's: a faulted slot belongs to a FAULTED or RECOVERING channel, and a
FAULTED channel's slot is faulted. DEDUCED, log entry 90. -/
def Dev.stateAgrees (d : Dev) (c : Nat) : Bool :=
  match (d.chan c).st with
  | .recovering => true
  | .faulted => (d.act c).st == .faulted || (d.slotOf c).isNone
  | _ => (d.act c).st != .faulted

/-- The Cutter's table is compared with the slot tables: engine, slot and state (R249). DEDUCED, log entry 90. -/
def Dev.tableCompare (d : Dev) : Dev :=
  let bad := (d.liveChans).filter (fun c => !(d.chan c).remote && (tget none d.cut.mgmt c != d.slotOf c || !(d.stateAgrees c)))
  let new := bad.filter (fun c => !(d.cut.held.contains c))
  if new = [] then d
  else ({ d.wb CUT_STAT 0 true with cut := { d.cut with held := d.cut.held ++ new } }).ringBit .cut 9

/-- The management view takes the place of channel `c`, none where it has none; windows that it shares follow, and the two
views are compared, as after every placement change (R237, R249). DEDUCED, log entry 90. -/
def Dev.mgmtTake (d : Dev) (c : Nat) : Dev :=
  let at_ := if (tfind d.cut.acts c).isSome then some ((d.act c).eng, (d.act c).slot) else none
  let d := { d with cut := { d.cut with mgmt := tset d.cut.mgmt c at_ } }
  (d.relinkFrom c c).tableCompare

/-- The Cutter makes no placement change for the channel: its views disagree (R249). DEDUCED, log entry 90. -/
def Dev.isHeld (d : Dev) (c : Nat) : Bool := d.cut.held.contains c

/-! ### The end of a migration -/

/-- A migration ends without a switch-over: the shadow is discarded, the original runs on (R238, R240). After the switch-over a
STOP, a DESTROY or the loss of the channel completes the command as well; what the original drains it still drains.
DEDUCED, log entry 28. -/
def Dev.endMigration (d : Dev) (c status : Nat) : Dev :=
  match (d.chan c).mig with
  | none => d
  | some m =>
    if m.aborted then d
    else if m.switched.isSome then
      (d.setChan c (fun ch => { ch with mig := some { m with port := none, aborted := true } })).cmdDone? m.port status
    else
      let d := (d.dropKey (512 + c)).tableCompare
      let d := d.setChan c (fun ch => { ch with mig := none, st := if ch.st = .migrating then .running else ch.st })
      let d := if status = 12 then d.ringBit .cut 10 else d
      d.cmdDone? m.port status

/-- The channel is to stop at its next period boundary (R221); a migration under way is aborted first (R240). -/
def Dev.stopChannel (d : Dev) (c : Nat) : Dev :=
  (d.endMigration c 13).setChan c (fun ch => { ch with st := .stopping, stopReq := true })

/-- Nothing of context `k` is left to deliver, seal or release. -/
def Dev.spent (d : Dev) (k : Nat) : Bool :=
  let en := d.eng (d.act k).eng
  (d.act k).input.isNone && !(en.evq.any (fun v => v.chan == k)) && !(en.outq.any (fun o => o.key == k)) &&
    !(d.swc.chanQ.any (fun p => p.2.any (fun x => x.1 == k))) && !(d.trd.t.any (fun t => t.2.wave.any (fun o => o.chan == k)))

/-- The original of a switched migration leaves its engine, and the migration completes, unless a STOP or DESTROY has ended it
before (R237, R240). -/
def Dev.migrateEnd (d : Dev) (c : Nat) (m : Migration) : Dev :=
  let d := (d.dropKey (512 + c)).setChan c (fun ch => { ch with mig := none, st := if ch.st = .migrating then .running else ch.st })
  let d := if m.aborted then d else
    ((d.satf CUT_MIGRATE_CNT 15 0 1).ringBit .cut 8).cmdDone? m.port 0 (some (d.act c).eng)
  d.tableCompare

/-- The original of a migration has nothing left to deliver or release after the switch-over: its slot is freed and the
migration completes (R237). -/
def Dev.migrateDone (d : Dev) (c : Nat) : Dev :=
  match (d.chan c).mig with
  | none => d
  | some m => if m.switched.isSome && d.spent (512 + c) then d.migrateEnd c m else d

/-! ### Late inputs -/

/-- The shuttle pins granted to a channel. -/
def Dev.pinGrant (d : Dev) (c : Nat) : Nat := (d.desc c 10).toNat + 2 ^ 32 * (d.desc c 11).toNat

/-- The command-class COMMIT pins of a grant take their safe states (R216, R424). -/
def Dev.safePins (d : Dev) (grant : Nat) : Dev :=
  d.each (List.range 64) (fun d i => if grant.testBit i && d.pinSrc i = 2 && d.pinCmd i then d.safePin i else d)

/-- The late action of channel `c`, once, for an input with release time `rel` that engine `e` judged late (R216, R242). -/
def Dev.lateAction (d : Dev) (c e : Nat) (rel : Word) : Dev :=
  let d := (d.cnt (ENG_LATE e)).setBell (.eng e) 2
  let d := d.setChan c (fun ch => { ch with late := true, lateCount := satAdd 32 ch.lateCount 1 })
  let d := (d.cnt CUT_LATE_TOTAL).ringBit .cut 4
  let la := fld (d.desc c 0) 18 17
  if la = 1 then
    if reached d.tb.st rel then d.safePins (d.pinGrant c)
    else d.setEng e (fun en => { en with outq := en.outq ++
      [{ key := c, inId := 0, id := 0, desc := 14, pair := BitVec.ofNat 64 (d.pinGrant c), data := [], rel := rel, inSt := 0,
         isSealed := true, committed := false, inEv := none, stepped := false, muted := false }] })
  else if la = 2 then
    (match (d.chan c).st with
     | .running => d.stopChannel c
     | .migrating => d.stopChannel c
     | .recovering => d.setChan c (fun ch => { ch with stopReq := true })
     | _ => d)
  else d

/-- The L flag of a context is set (R141). -/
def Dev.setL (d : Dev) (k : Nat) : Dev :=
  d.setAct k (fun a => { a with ctx := { a.ctx with flags := setBit a.ctx.flags 5 true } })

/-- Context `k` replays its journal, and the release time of its current input lies at or before the fault (R239). -/
def Dev.replayPast (d : Dev) (k : Nat) : Bool :=
  match (d.chan k).st, (d.chan k).recF with
  | .recovering, some f => k < 512 && reached f (d.act k).ctx.cinRel
  | _, _ => false

/-- The journal marks an input as late: a replay gives it no second late action (R239, R242).
DEDUCED, log entry 29. -/
def Dev.markLate (d : Dev) (c : Nat) (ev : Option Ev) : Dev :=
  match ev with
  | none => d
  | some v => d.setChan c (fun ch =>
      { ch with journal := ch.journal.map (fun (w : Ev) => if sameEv w v then { w with late := true } else w) })

/-- The current input of context `k` is late: its outputs go and its late action is applied, once (R153, R242). A shadow's
lateness is its own: it sets L and removes outputs, and nothing is counted. -/
def Dev.lateInput (d : Dev) (k : Nat) : Dev :=
  let a := d.act k
  if a.input.isNone || a.inputLate then d
  else
    let d := d.setAct k (fun a => { a with inputLate := true })
    let d := d.setEng a.eng (fun e => { e with outq := e.outq.filter (fun o => !(o.key == k && o.inId == a.inId && o.desc != 14)) })
    let d := d.setL k
    if d.muted k a.ctx.cinSt || d.replayPast k then d
    else (d.markLate (keyChan k) a.input).lateAction (keyChan k) a.eng a.ctx.cinRel

/-- Every output of an input that has not passed the commit stage goes: from its engine's queue and from the treadles. -/
def Dev.dropOuts (d : Dev) (e key inId : Nat) : Dev :=
  let d := d.setEng e (fun en => { en with outq := en.outq.filter (fun p => !(p.key == key && p.inId == inId && p.desc != 14)) })
  d.each (tkeys d.trd.t) (fun d t => d.setTrdl t (fun x =>
    { x with wave := x.wave.filter (fun o => o.committed || !(o.chan == key && o.inId == inId)) }))

/-- A sealed output is made late: its input's other outputs go too, and the late action is applied once (R243). -/
def Dev.lateOut (d : Dev) (e : Nat) (o : Out) : Dev :=
  let d := d.dropOuts e o.key o.inId
  if d.muted o.key o.inSt then d else (d.markLate (keyChan o.key) o.inEv).lateAction (keyChan o.key) e o.rel

/-- A wave-time output that a treadle holds is made late (R105, R106, R110). DEDUCED, log entry 42. -/
def Dev.lateWave (d : Dev) (o : WaveOut) : Dev :=
  (d.dropOuts o.eng o.chan o.inId).lateAction (keyChan o.chan) o.eng d.tb.st

/-! ### Checkpoints -/

/-- The memory of context `k`: (first key, relative key, length) of X, Y and every private window. -/
def Dev.regions (d : Dev) (k : Nat) : List (Nat × Nat × Nat) :=
  let a := d.act k
  let c := keyChan k
  [(keyX a.eng + a.xBase, 0, fld (d.desc c 4) 15 0), (keyY a.eng + a.yBase, 0x10000, fld (d.desc c 4) 31 16)] ++
  ((d.windows c).filter (fun p => fld p.2 21 20 != 3)).map
    (fun p => (tget 0 a.winPhys p.1, 0x100000000 * (p.1 + 1), fld p.2 19 0 * 4096))

/-- The cells of context `k`'s memory, by keys relative to the channel. -/
def Dev.cells (d : Dev) (k : Nat) : Memory :=
  ((d.regions k).map (fun r => (mslice d.mem r.1 r.2.2).map (fun c => (c.1 - r.1 + r.2.1, c.2)))).flatten

/-- The memory of context `k` is set from relative cells: what they do not list is zero. -/
def Dev.restoreCells (d : Dev) (k : Nat) (cells : Memory) : Dev :=
  (d.regions k).foldl (fun d r =>
    let part := (mslice cells r.2.1 r.2.2).map (fun c => (c.1 - r.2.1 + r.1, c.2))
    { d with mem := mrestore d.mem r.1 r.2.2 part }) d

/-- The context's far accesses hold no load, atomic or copy: what a checkpoint would have to wait for. -/
def Dev.farStoresOnly (d : Dev) (k : Nat) : Bool :=
  ((d.eng (d.act k).eng).far.filter (fun f => f.key == k)).all (fun f => f.store)

/-- What a checkpoint holds of context `c` as it stands (R234). DESIGN CHOICE, log entry 27. -/
def Dev.takeCkpt (d : Dev) (c : Nat) (full : Bool) : Ckpt :=
  let a := d.act c
  { ctx := a.ctx, cells := ({ d with mem := d.afterStores c }).cells c, lastSealed := a.lastSealed,
    lateCount := (d.chan (keyChan c)).lateCount, epoch := (d.chan (keyChan c)).epochs + 1, full := full }

/-- The journal without the events that the checkpoint's last sealed input makes superfluous: those already taken. -/
def Dev.trimJournal (d : Dev) (c : Nat) : List Ev :=
  let left := (d.eng (d.act c).eng).eventsOf c
  (d.chan c).journal.filter (fun v => left.any (sameEv v))

/-- The checkpoint of P1 has been taken: the shadow is restored from it and receives the events stamped from P1 on (R237). -/
def Dev.shadowRestore (d : Dev) (c : Nat) (ck : Ckpt) (p : Word) : Dev :=
  match (d.chan c).mig with
  | none => d
  | some m =>
    if m.p1 = some p && !m.shadowUp then
      let k := 512 + c
      let d := d.restoreCells k ck.cells
      let o := d.act c
      let d := d.setAct k (fun a => { a with ctx := ck.ctx, lastSealed := ck.lastSealed, lastTaken := o.lastTaken, inId := o.inId })
      let d := d.setChan c (fun ch => { ch with mig := some { m with shadowUp := true, sealOld := some ck, sealNew := some ck } })
      ((d.chan c).journal.filter (fun v => reached v.stamp.st p)).foldl (fun d v => d.enqueue k v) d
    else d

/-- A checkpoint's record in the pattern book: the layout of its body is not stated, so its bytes are free values.
DESIGN CHOICE, log entry 64. -/
def Dev.bookCkpt (d : Dev) (c : Nat) : Dev :=
  if d.b CUT_CKPT_CFG 0 then
    let (n, d) := d.free
    let (body, d) := d.freeBytes (n.toNat % 4081)
    d.bookChan c body
  else d

/-- The oldest open epoch's checkpoint stands (R234): it takes the next epoch's number and is full when that is due; the
journal keeps what has not been taken; the CHECKPOINT commands and the migration that wait for it go on.
DESIGN CHOICE, log entry 27. -/
def Dev.commitCkpt (d : Dev) (c : Nat) (p : Word) (ck : Ckpt) : Dev :=
  let ch := d.chan c
  let full := ch.ckptFull || (ch.epochs + 1) % (Nat.max 1 (d.f CUT_CKPT_CFG 23 16)) = 0
  let ck := { ck with epoch := ch.epochs + 1, full := full }
  let j := d.trimJournal c
  let d := d.setChan c (fun ch =>
    { ch with ckpt := some ck, epochs := ck.epoch, epochOpen := ch.epochOpen.filter (fun x => x.at_ != p), ckptFull := false,
              journal := j, ckptPorts := [] })
  let d := (d.bookCkpt c).shadowRestore c ck p
  d.each ch.ckptPorts (fun d q => d.cmdDone q 0 (some ck.epoch))

/-- Every open epoch that has its state and that `now` picks is committed, in the order of the boundaries. -/
def Dev.commitEpochs (d : Dev) (c : Nat) (now : Word → Bool) : Dev :=
  (d.chan c).epochOpen.foldl (fun d x => match x.state with
    | some ck => if now x.at_ then d.commitCkpt c x.at_ ck else d
    | none => d) d

/-- The checkpoints of boundaries whose settle time has passed are committed: no event stamped before them can still come
(R148, R234). DEDUCED, log entry 27. -/
def Dev.ckptSettled (d : Dev) (c : Nat) : Dev :=
  d.commitEpochs c (fun p => reached d.tb.st (p + w32 (d.chan c).settle))

/-- The channel takes an event stamped `st` (R234): the epochs of boundaries at or before it keep the state that they have, a
state that this input should have entered is taken afresh. DEDUCED, log entry 27. -/
def Dev.ckptTake (d : Dev) (c : Nat) (st : Word) : Dev :=
  let d := d.commitEpochs c (fun p => reached st p)
  d.setChan c (fun ch => { ch with epochOpen := ch.epochOpen.map (fun x => if reached st x.at_ then x else { x with state := none }) })

/-- Every input of channel `c` stamped before `p` that has come is sealed, on the original of a migration too. -/
def Dev.sealedBefore (d : Dev) (c : Nat) (p : Word) : Bool :=
  let clear := fun (k : Nat) => !(((d.eng (d.act k).eng).eventsOf k).any (fun v => !(reached v.stamp.st p)))
  let drains : Bool := match (d.chan c).mig with
    | some m => m.switched.isSome
    | none => false
  clear c && (d.act c).input.isNone && d.farStoresOnly c && (!drains || (clear (512 + c) && (d.act (512 + c)).input.isNone))

/-- At a seal point of channel `k`, for every open epoch (R234): where an input stamped at or after its boundary has been taken
the checkpoint moves to the next boundary; else the state of the first seal with every input before the boundary sealed is
the checkpoint's, once no such input can come any more. DESIGN CHOICE, log entry 27. -/
def Dev.sealPoint (d : Dev) (k : Nat) : Dev :=
  let ch := d.chan k
  if ch.epochOpen = [] then d
  else
    let taken := fun (x : Epoch) => x.state.isNone && (match (d.act k).lastTaken with
      | some s => reached s.st x.at_
      | none => false)
    let gone := ch.epochOpen.filter taken
    let ck := d.takeCkpt k false
    let l := (ch.epochOpen.filter (fun x => !(taken x))).map (fun (x : Epoch) =>
      if x.state.isNone && d.sealedBefore k x.at_ then { x with state := some ck } else x)
    let new := l.any (fun x => x.state == some ck)
    let d := d.setChan k (fun ch =>
      { ch with epochOpen := l
                ckptWanted := ch.ckptWanted || gone != []
                mig := ch.mig.map (fun (m : Migration) =>
                  if m.shadowUp || !(gone.any (fun x => m.p1 == some x.at_)) then m else { m with p1 := none }) })
    let d := if new then d.setAct k (fun a => { a with stored := some [] }) else d
    d.ckptSettled k

/-- The outputs of a replayed input at its seal (R239): those due at or before F are suppressed, those due at least 64 ns
later are kept, the others are late. -/
def Dev.replaySeal (d : Dev) (k : Nat) : Dev :=
  let a := d.act k
  if (d.chan k).st ≠ .recovering || 512 ≤ k then d
  else
    let mine := fun (o : Out) => o.key == k && o.inId == a.inId && o.desc != 14
    if d.replayPast k then d.setEng a.eng (fun e => { e with outq := e.outq.filter (fun o => !mine o) })
    else if reached d.tb.st (a.ctx.cinRel - 63) && (d.eng a.eng).outq.any mine then d.lateInput k
    else d

/-- A seal of a migrating channel's original or shadow: the state that its digest is over (R237). DEDUCED, log entry 27. -/
def Dev.sealMark (d : Dev) (k : Nat) : Dev :=
  match (d.chan (keyChan k)).mig with
  | some m =>
    if m.shadowUp && m.switched.isNone then
      let ck := d.takeCkpt k false
      d.setChan (keyChan k) (fun ch => { ch with mig := some (if 512 ≤ k then { m with sealNew := some ck } else { m with sealOld := some ck }) })
    else d
  | none => d

/-- Context `k` seals its current input: its outputs become releasable (R153); then the seal point of the channel. -/
def Dev.sealInput (d : Dev) (k : Nat) : Dev :=
  let a := d.act k
  let d := match a.input with
    | none => d
    | some ev =>
      let d := d.replaySeal k
      let d := d.setEng a.eng (fun e =>
        { e with outq := e.outq.map (fun (o : Out) => if o.key == k && o.inId == a.inId then { o with isSealed := true } else o) })
      let d := d.setAct k (fun a => { a with input := none, inputLate := false, given := 0,
                                             lastSealed := some (ev.stamp.st, ev.seq) })
      let d := d.sealMark k
      if d.muted k ev.stamp.st then d else d.freeSlots { ev with chan := keyChan k }
  if 512 ≤ k then d.migrateDone (keyChan k) else d.sealPoint k

/-- A copy for the current input of context `k` is outstanding: its seal waits (R202). DEDUCED, log entry 47. -/
def Dev.copyDue (d : Dev) (k : Nat) : Bool :=
  (d.eng (d.act k).eng).far.any (fun f => f.key == k && f.copy.isSome)

/-! ### Mode changes and outputs -/

/-- The outputs of an engine's queue that R538 withholds: neither a pending late action, nor suppressed, nor committed. -/
def withheldOut (o : Out) : Bool := !(o.desc == 14) && !o.muted && !o.committed

/-- Every channel output not yet released is withheld and counted: engine queues, treadles, channel frames that have not
claimed their port (R538). DEDUCED, log entry 31. -/
def Dev.withholdAll (d : Dev) : Dev :=
  let d := d.each (tkeys d.cut.engines) (fun d e =>
    let n := ((d.eng e).outq.filter withheldOut).length
    (d.setEng e (fun en => { en with outq := en.outq.filter (fun o => !(withheldOut o)) })).cnt CUT_WITHHELD n)
  let d := d.each (tkeys d.trd.t) (fun d t =>
    let n := ((d.trdl t).wave.filter (fun o => !o.committed)).length
    (d.setTrdl t (fun x => { x with wave := x.wave.filter (fun o => o.committed) })).cnt CUT_WITHHELD n)
  let n := (d.swc.chanQ.map (fun (p : Nat × List (Nat × QEntry)) => p.2.length)).foldl (· + ·) 0
  ({ d with swc := { d.swc with chanQ := [] } }).cnt CUT_WITHHELD n

/-- An output is made late as its input stands: with its unsealed input, which is then late, or after the seal (R153, R243). -/
def Dev.lateAny (d : Dev) (e : Nat) (o : Out) : Dev :=
  if !o.isSealed && (d.act o.key).input.isSome && (d.act o.key).inId = o.inId then d.lateInput o.key else d.lateOut e o

/-- Hold ends: outputs whose release time fell in Hold are late, sealed or not (R29), and so are outputs given while stepping
(R167). An output that had passed the commit stage before Hold counts as released (R109, R538). -/
def Dev.holdLate (d : Dev) : Dev :=
  d.each (tkeys d.cut.engines) (fun d e =>
    ((d.eng e).outq.filter (fun o => o.desc != 14 && ((!o.committed && reached d.tb.st o.rel) || o.stepped))).foldl
      (fun d o => if (d.eng e).outq.any (fun p => p.key == o.key && p.inId == o.inId && p.id == o.id) then d.lateAny e o else d) d)

/-- Committed PIN outputs whose release time has come act before the mode changes: they count as released (R109, R538). -/
def Dev.actCommitted (d : Dev) : Dev :=
  d.each (tkeys d.cut.engines) (fun d e =>
    ((d.eng e).outq.filter (fun o => o.committed && reached d.tb.st o.rel)).foldl
      (fun d o =>
        let d := d.setEng e (fun en => { en with outq := en.outq.erase o })
        (d.commitPin (fld o.desc 9 4) (fld o.desc 11 10) 8).migrateDone (keyChan o.key)) d)

end Sys2Proof.Machine
end

