-- ==== Sys2Proof/Machine/CutterOps.lean ====
section
/-!
DEFINITION. Period boundaries and what happens at one (R220, R221, R225, R234), and the switch-over of a migration (R237).
-/
namespace Sys2Proof.Machine

/-- The channel's period is in wave time. -/
def Dev.isWave (d : Dev) (c : Nat) : Bool := bitOf (d.desc c 0) 19

/-- The wave time of treadle `n`: cycle count and accumulator [47:16] (R97). -/
def Dev.waveTime (d : Dev) (n : Nat) : Nat := (d.trdl n).cycle * 2 ^ 32 + (d.trdl n).acc / 2 ^ 16

/-- A wave-time compare with target `w` on treadle `n` is reached (R108). -/
def Dev.waveReached (d : Dev) (n w : Nat) : Bool := 0 ≤ sx 64 (d.waveTime n + 2 ^ 64 - w % 2 ^ 64)

/-- Every uncommitted wave-time output that `sel` picks is made late (R29, R105, R106). DEDUCED, log entry 42. -/
def Dev.cancelWaves (d : Dev) (n : Nat) (sel : WaveOut → Bool) : Dev :=
  ((d.trdl n).wave.filter (fun o => !o.committed && sel o)).foldl
    (fun d o => if (d.trdl n).wave.any (fun p => p == o) then d.lateWave o else d) d

/-- Hold ends: wave-time outputs whose target has been reached in it are late (R29). DEDUCED, log entry 69. -/
def Dev.holdLateWaves (d : Dev) : Dev :=
  d.each (tkeys d.trd.t) (fun d n => d.cancelWaves n (fun o => d.waveReached n o.target))

/-- Lock state of a treadle: 1 ACQUIRE, 2 LOCKED, 3 HOLD (R103). -/
def Dev.lockState (d : Dev) (n : Nat) : Nat := d.f (TRD_LOCK_STAT n) 1 0

/-- Mode of a treadle (R98). -/
def Dev.trdMode (d : Dev) (n : Nat) : Nat := d.f (TRD_CFG n) 2 0

/-- The treadle can carry a wave-time schedule (R108). -/
def Dev.waveOk (d : Dev) (n : Nat) : Bool :=
  let m := d.trdMode n
  0 < (d.trdl n).inc && (m = 1 || ((m = 2 || m = 3) && 2 ≤ d.lockState n))

/-- Treadle of a wave-time period. -/
def Dev.waveTrd (d : Dev) (c : Nat) : Nat := fld (d.desc c 0) 23 20

/-- Wave time of the `j`-th multiple of M / N cycles, the first phase unit at or after it (R225). -/
def Dev.waveMult (d : Dev) (c j : Nat) : Nat :=
  ceilDiv (j * fld (d.desc c 1) 31 16 * 2 ^ 32) (fld (d.desc c 1) 15 0)

/-- The first multiple of the channel's wave period that lies ahead of the treadle's wave time. -/
def Dev.nextMult (d : Dev) (c : Nat) : Nat :=
  let m := fld (d.desc c 1) 31 16
  if m = 0 then 0 else d.waveTime (d.waveTrd c) * fld (d.desc c 1) 15 0 / (m * 2 ^ 32) + 1

/-- The channel's next boundary has come: its short time or its wave time is reached. -/
def Dev.boundaryDue (d : Dev) (c : Nat) : Bool :=
  if d.isWave c then d.waveReached (d.waveTrd c) (d.waveMult c (d.chan c).nextWave)
  else reached d.tb.st (d.chan c).next

/-- The stamp of that boundary: its short time, or the tick in which the wave reaches it (R146). -/
def Dev.boundarySt (d : Dev) (c : Nat) : Word := if d.isWave c then d.tb.st else (d.chan c).next

/-- The channel's boundaries advance by one. -/
def Dev.boundaryNext (d : Dev) (c : Nat) : Dev :=
  if d.isWave c then d.setChan c (fun ch => { ch with nextWave := ch.nextWave + 1 })
  else d.setChan c (fun ch => { ch with next := ch.next + d.desc c 1 })

/-- The numbers of a migration are swapped on one engine: the original's context key and the shadow's. -/
def Engine.swapKeys (e : Engine) (c : Nat) (s : Word) : Engine :=
  let ren := fun k => if k = c then 512 + c else if k = 512 + c then c else k
  { e with
    slots := e.slots.map (fun p => (p.1, p.2.map ren))
    cur := e.cur.map ren
    loaded := e.loaded.map ren
    evq := (e.evq.map (fun (v : Ev) => { v with chan := ren v.chan })).filter
      (fun v => !(v.chan == 512 + c && reached v.stamp.st s))
    outq := (e.outq.filter (fun o => !(o.key == 512 + c && o.muted))).map (fun (o : Out) => { o with key := ren o.key })
    far := e.far.map (fun (f : FarOp) => { f with key := ren f.key }) }

/-- The channel switches over to its shadow's engine at boundary `s` (R237). -/
def Dev.switchOver (d : Dev) (c : Nat) (s : Word) : Dev :=
  let o := d.act c
  let n := d.act (512 + c)
  let d := d.setEng o.eng (fun e => e.swapKeys c s)
  let d := if n.eng = o.eng then d else d.setEng n.eng (fun e => e.swapKeys c s)
  let d := { d with cut := { d.cut with acts := tset (tset d.cut.acts c n) (512 + c) o } }
  let d := d.each (tkeys d.trd.t) (fun d t => d.setTrdl t (fun x =>
    { x with wave := x.wave.map (fun (w : WaveOut) => if w.chan = c then { w with chan := 512 + c } else w) }))
  let d := d.setChan c (fun ch => { ch with mig := ch.mig.map (fun m => { m with switched := some s }) })
  (d.mgmtTake c).migrateDone c

/-- The shadow has caught up: its last sealed input is the original's (R237). -/
def Dev.caughtUp (d : Dev) (c : Nat) : Bool :=
  (d.act c).lastSealed == (d.act (512 + c)).lastSealed && (d.act c).lastSealed.isSome

/-- The contexts and memories agree at the last seals: the digests of R237 are compared as the values that they digest.
DESIGN CHOICE, log entry 27. -/
def Dev.digestsAgree (d : Dev) (c : Nat) : Bool :=
  match (d.chan c).mig with
  | some m => match m.sealOld, m.sealNew with
    | some o, some n => { o.ctx with budget := 0 } == { n.ctx with budget := 0 } && o.cells == n.cells
    | _, _ => false
  | none => false

/-- A boundary opens a checkpoint epoch, unless it has one (R234). DESIGN CHOICE, log entry 27. -/
def Dev.openEpoch (d : Dev) (c : Nat) (p : Word) : Dev :=
  if (d.chan c).remote || (d.chan c).epochOpen.any (fun x => x.at_ == p) then d
  else d.setChan c (fun ch => { ch with epochOpen := ch.epochOpen ++ [{ at_ := p, state := none }] })

/-- A migration at a boundary `p` of its channel (R237, R238): the first is P1; at a later one a shadow that has caught up takes
over or has diverged; past the sixteenth after P1 the migration is aborted. A channel whose views disagree is not moved (R249).
DEDUCED, log entry 27. -/
def Dev.migBoundary (d : Dev) (c : Nat) (p : Word) : Dev :=
  match (d.chan c).mig with
  | none => d
  | some m =>
    let d1 := d.setChan c (fun ch => { ch with mig := some { m with tries := m.tries + 1 } })
    if m.switched.isSome then d.migrateDone c
    else if m.shadowUp && d.caughtUp c && !(d.isHeld c) then
      if d.digestsAgree c then d.switchOver c p else d.endMigration c 12
    else if 16 < m.tries + 1 then d.endMigration c 13
    else if m.p1.isNone then
      (d.setChan c (fun ch => { ch with mig := some { m with p1 := some p, tries := m.tries + 1 } })).openEpoch c p
    else d1

/-- The budget of a context is reloaded (R159); a suspended one may run again. -/
def Dev.reload (d : Dev) (k : Nat) : Dev :=
  let c := (d.desc (keyChan k) 2).toNat
  if (tfind d.cut.acts k).isNone then d else
  d.setAct k (fun a => { a with ctx := { a.ctx with budget := c },
                                st := if a.st = .suspended && c ≠ 0 then .preempted else a.st })

/-- TAKING ends when every channel that the takeover took is RUNNING, those that it started cold too (R348, R361). -/
def Dev.takingDone (d : Dev) : Dev :=
  if d.cut.chans.any (fun (x : Nat × Chan) => x.2.takeover && (x.2.st == .recovering || x.2.st == .armed)) then d
  else { d with red := { d.red with taking := false } }

/-- What a period boundary with stamp `p` does to channel `c` (R159, R220, R221, R225, R234, R237): it starts an ARMED
channel in Run, ends the delivery of a stopping one, reloads the budget, opens the checkpoint epoch that is due, moves a
migration on, and posts PERIOD when `withEvent`. DESIGN CHOICE, log entry 2. -/
def Dev.boundary (d : Dev) (c : Nat) (p : Word) (withEvent : Bool) : Dev :=
  let ch := d.chan c
  let d := if ch.st = .armed then
      (d.setChan c (fun ch => { ch with st := .running, startAt := none, takeover := false })).takingDone
    else d
  let d := if ch.stopReq && ch.stopAt.isNone then d.setChan c (fun ch => { ch with stopAt := some p }) else d
  let d := d.reload c
  let d := if ch.mig.isSome then d.reload (512 + c) else d
  let every := fld (d.desc c 6) 27 16 = 0
  let d := d.ckptSettled c
  let d := if (ch.ckptWanted || every) && ch.stopAt.isNone && ch.backTo.isNone then
      (d.setChan c (fun ch => { ch with ckptWanted := false })).openEpoch c p
    else d
  let d := d.migBoundary c p
  if withEvent then
    let (v, d) := d.free
    let (u, d) := d.free
    let seq := (d.chan c).periodSeq
    let d := d.setChan c (fun ch => { ch with periodSeq := wrapAdd 16 seq 1 })
    d.post c (mkEv 0 (u.toNat % 256) ⟨p, 0, d.gen⟩ seq v)
  else d

/-- Channels of the scan unit have its latch instants for boundaries while it is in RUN or HOLD (R444). -/
def Dev.scanTask (d : Dev) (c : Nat) : Bool :=
  d.scn.state != .stop && d.scn.tasks.any (fun h => d.chanOf h == some c)

/-- States in which a channel has period boundaries. -/
def ChanState.ticking : ChanState → Bool
  | .armed => true | .running => true | .stopping => true | .recovering => true | .migrating => true | _ => false

/-- An ARMED channel may start at a boundary `p`: the device is in Run, not draining toward Stop or agreeing to a sleep, and its
start target, when given, is reached (R220, R538). -/
def Dev.mayStart (d : Dev) (c : Nat) (p : Word) : Bool :=
  d.mode = .run && d.pwr.trans = .idle && (match (d.chan c).startAt with | some t => reached p t | none => true)

end Sys2Proof.Machine
end

