-- ==== Sys2Proof/Machine/Links.lean ====
section
/-!
DEFINITION. What several chapters ask of a port: its rate (R277, R279), and the state of its data-path link (R299, R302).
-/
namespace Sys2Proof.Machine

/-- Rate in Mb/s of a speed code (MAC_LINK_STAT.dp_speed). -/
def speedMbps (c : Nat) : Nat :=
  if c = 0 then 10 else if c = 1 then 100 else if c = 2 then 1000 else if c = 3 then 2500 else 10000

/-- Speed code of a port's interface as configured; an SGMII port that negotiates runs at the speed last resolved.
DEDUCED, log entry 45. -/
def Dev.portSpeed (d : Dev) (p : Nat) : Nat :=
  let i := d.f (MAC_IF_CFG p) 2 0
  if i = 1 then 2 else if i = 2 then 3 else if i = 3 then 1 else if i = 4 then 4
  else if d.b (MAC_IF_CFG p) 3 then d.f (MAC_LINK_STAT p) 3 1 else d.f (MAC_IF_CFG p) 5 4

/-- The port's rate in Mb/s: PE runs at 40 Gb/s (R22), PH at a rate that the spec does not give.
DESIGN CHOICE, log entry 92. -/
def Dev.portRate (d : Dev) (p : Nat) : Nat :=
  if p = 20 then 40000 else if p = 21 then Config.phRate else speedMbps (d.portSpeed p)

/-- The port is retired (R302). -/
def Dev.portRetired (d : Dev) (p : Nat) : Bool := d.b (MAC_STAT p) 4

/-- The data-path view of the link is up. -/
def Dev.linkUp (d : Dev) (p : Nat) : Bool := d.b (MAC_LINK_STAT p) 0

/-- Nanoseconds that `n` bytes take on a port, rounded up. -/
def Dev.bytesNs (d : Dev) (p n : Nat) : Nat := ceilDiv (n * 8000) (d.portRate p)

/-- A frame in transmission when its lane goes off at `now`: cut off there, unless its last byte has left (R300, R302). -/
def Sending.cutOff (s : Sending) (now : Nat) : Sending :=
  if s.lost || (s.sent != [] && decide (s.endAt ≤ now)) then s else { s with lost := true, endAt := now }

/-! ### Port state, two views (R332) -/

/-- The state that software sets, and the one that the data path applies: 0 disabled, 1 blocking, 2 learning, 3 forwarding.
The redundancy block of this device holds no port blocking. -/
def Dev.mgmtState (d : Dev) (p : Nat) : Nat := d.f (SWC_PORT_CFG p) 1 0
def Dev.dpState (d : Dev) (p : Nat) : Nat := if p < 20 && d.portRetired p then 0 else d.mgmtState p

/-- The two views are compared again, after a change of either. -/
def Dev.portView (d : Dev) (p : Nat) : Dev :=
  let d := d.wf (SWC_PORT_STAT p) 1 0 (d.dpState p)
  if d.dpState p = d.mgmtState p then
    let d := { d.wb (SWC_PORT_STAT p) 2 false with swc := { d.swc with differ := terase d.swc.differ p } }
    if (List.range 22).any (fun x => d.b (SWC_PORT_STAT x) 2) then d else d.wb SWC_STAT 0 false
  else if (tfind d.swc.differ p).isSome then d
  else { d with swc := { d.swc with differ := tset d.swc.differ p d.tb.now } }

/-- A difference has lasted longer than 10 µs. -/
def Dev.portDisagree (d : Dev) (p : Nat) : Dev :=
  match tfind d.swc.differ p with
  | some t =>
    if t + 10000 < d.tb.now && !(d.b (SWC_PORT_STAT p) 2) then
      ((d.wb (SWC_PORT_STAT p) 2 true).wb SWC_STAT 0 true).ringBit .swc 0
    else d
  | none => d

end Sys2Proof.Machine
end

