-- ==== Sys2Proof/Machine/Admit.lean ====
section
/-!
DEFINITION. Admission and placement (R213-R233, R540): the checks of a descriptor, the settle time, the inequalities, and
where a context's slot, local windows, code and far windows come to lie. Times in the inequalities are counted in units of
0.2 engine cycles (0.25 ns), so that 1 ns is 4 units and 1 cycle is 5; a fraction is a pair of naturals.
-/
namespace Sys2Proof.Machine

/-! ### Fractions -/

/-- A non-negative fraction: numerator and denominator. -/
abbrev Frac := Nat × Nat

def Frac.add (a b : Frac) : Frac := (a.1 * b.2 + b.1 * a.2, a.2 * b.2)
def Frac.sum (l : List Frac) : Frac := l.foldl Frac.add (0, 1)

/-! ### A channel's figures -/

/-- The increment that bounds a wave period: TRD_LOCK_MAX, or the present increment in FREE. -/
def Dev.waveInc (d : Dev) (n : Nat) : Nat :=
  if d.trdMode n = 1 then (d.trdl n).inc.toNat else (d.r (TRD_LOCK_MAX n)).toNat

/-- T_i in units: a fraction. -/
def Dev.periodU (d : Dev) (c : Nat) : Frac :=
  if d.isWave c then
    (16 * fld (d.desc c 1) 31 16 * 2 ^ 48, Nat.max 1 (fld (d.desc c 1) 15 0 * d.waveInc (d.waveTrd c)))
  else (4 * (d.desc c 1).toNat, 1)

/-- c_i = C_i + 104 a_i, in units. -/
def Dev.costU (d : Dev) (c : Nat) : Nat := 5 * ((d.desc c 2).toNat + 104 * fld (d.desc c 5) 23 16)

/-- D_i = 0.8 (L_i − σ_i − 64 ns), in units. -/
def Dev.deadlineU (d : Dev) (c : Nat) : Int := 4 * ((d.desc c 3).toNat - (d.settle c : Int) - 64)

/-- u_i. -/
def Dev.utilU (d : Dev) (c : Nat) : Frac := let t := d.periodU c; (d.costU c * t.2, Nat.max 1 t.1)

/-- Ports P00-P19 of a channel's grant. -/
def Dev.grantPorts (d : Dev) (c : Nat) : List Nat := (List.range 20).filter (fun p => bitOf (d.desc c 7) p)

/-- The settle time of the table of R224. DEDUCED, log entry 44. -/
def Dev.settleTime (d : Dev) (c : Nat) : Nat :=
  let ports := d.grantPorts c
  let frame :=
    if ports.isEmpty then (if bitOf (d.desc c 7) 20 then 116 else 0)
    else ports.foldl (fun m p => Nat.max m (d.bytesNs p (fld (d.desc c 13) 11 0) + 116)) 0
  let s := Nat.max 200 frame
  let s := if fld (d.desc c 8) 23 16 = 0 then s else Nat.max s 2000
  let s := if fld (d.desc c 8) 31 24 = 0 then s else Nat.max s 30000
  if bitOf (d.desc c 12) 17 then Nat.max s 500 else s

/-! ### What is placed -/

/-- Keys on engine `e`. -/
def Dev.keysOn (d : Dev) (e : Nat) : List Nat := (d.placed).filter (fun k => (d.act k).eng == e)

/-- Channels of this device that are not FREE. -/
def Dev.ownChans (d : Dev) : List Nat := (d.liveChans).filter (fun c => !(d.chan c).remote)

/-- Σ u_i of the contexts on an engine. -/
def Dev.engUtil (d : Dev) (e : Nat) : Frac := Frac.sum ((d.keysOn e).map (fun k => d.utilU (keyChan k)))

/-- Bank `b` is retired (R268). -/
def Dev.bankRetired (d : Dev) (b : Nat) : Bool := d.b (MEM_BANK_STAT b) 0

/-- Installed external memory in bytes. -/
def Dev.extBytes (d : Dev) : Nat := d.memb.extMib * 2 ^ 20

/-- External region of a byte offset (R265). -/
def Dev.extRegion (d : Dev) (o : Nat) : Nat := if d.extBytes = 0 then 0 else o * 64 / d.extBytes

/-- External region `r` is retired. -/
def Dev.regionRetired (d : Dev) (r : Nat) : Bool :=
  if r < 32 then d.b XMC_RETIRED_LO r else d.b XMC_RETIRED_HI (r - 32)

/-- A key of memory lies in a retired bank or region. -/
def Dev.keyRetired (d : Dev) (k : Nat) : Bool :=
  match bankOfKey k with
  | some b => d.bankRetired b
  | none => keyExt ≤ k && d.regionRetired (d.extRegion (k - keyExt))

/-- Ranges of memory that windows and journals take: first key and length. -/
def Dev.takenRanges (d : Dev) : List (Nat × Nat) :=
  (d.placed).flatMap (fun k =>
    ((d.mapped (keyChan k)).filter (fun p => fld p.2 21 20 != 3)).map
      (fun p => (tget 0 (d.act k).winPhys p.1, fld p.2 19 0 * 4096))) ++
  (d.liveChans).filterMap (fun c => (d.chan c).journalAt.map (fun a => (a, 4096)))

/-- The first place for `n` bytes in `[lo, hi)` beside the ranges taken. DEDUCED, log entry 44. -/
def firstGap (lo hi n : Nat) (taken : List (Nat × Nat)) : Option Nat :=
  let ends := lo :: taken.map (fun r => r.1 + r.2)
  let ok := ends.filter (fun s => lo ≤ s && s + n ≤ hi && !(taken.any (fun r => r.1 < s + n && s < r.1 + r.2)))
  match ok with
  | [] => none
  | a :: t => some (t.foldl Nat.min a)

/-! ### R227 and R228 -/

/-- The far-load bound of a context on engine `e`, in cycles (R228, R233). -/
def Dev.regionBound (d : Dev) (k e : Nat) : Nat :=
  let c := keyChan k
  let bench := e / 8
  let win := fun (p : Nat × Word) =>
    let kind := fld p.2 21 20
    if kind = 0 then 40 else if kind = 1 then 64 else if kind = 2 then 640
    else match bankOfKey (tget 0 (d.act k).winPhys p.1) with
      | some b => if b < 48 && b / 4 = bench then 40 else 64
      | none => 640
  ((d.mapped c).map win).foldl Nat.max (if d.desc c 12 = 0 then 0 else 96)

/-- The demand of a list of channels at the point `p/q`, floor counted as R228 says. -/
def Dev.demandAt (d : Dev) (l : List Nat) (p q : Nat) : Nat :=
  (l.map (fun c =>
    let t := d.periodU c
    let n := ((p : Int) - d.deadlineU c * q) * t.2 / ((q * t.1 : Nat) : Int) + 1
    n.toNat * d.costU c)).foldl (· + ·) 0

/-- The check set of R228: D_i + k T_i up to t_max, as fractions. -/
def Dev.checkSet (d : Dev) (l : List Nat) : List Frac :=
  let u := Frac.sum (l.map d.utilU)
  let maxD := (l.map (fun c => (d.deadlineU c).toNat)).foldl Nat.max 0
  let cost := (l.map d.costU).foldl (· + ·) 0
  let x := Frac.sum (l.map (fun c => let v := d.utilU c; ((d.deadlineU c).toNat * v.1, v.2)))
  let num := (cost * x.2 - x.1) * u.2
  let den := x.2 * (u.2 - u.1)
  let tmax := Nat.max maxD (if den = 0 then 0 else num / den + 1)
  (l.flatMap (fun c =>
    let t := d.periodU c
    let dl := (d.deadlineU c).toNat
    (List.range ((tmax - dl) * t.2 / (Nat.max 1 t.1) + 1)).map (fun k => (dl * t.2 + k * t.1, t.2)))).filter
      (fun f => f.1 ≤ maxD * f.2 || f.1 * den ≤ num * f.2)

/-- R228 for contexts `ks` on engine `e`; `extra` is a job's cost and deadline in units that is added once (R232). -/
def Dev.demandOk (d : Dev) (ks : List Nat) (e : Nat) (extra : Option (Nat × Nat)) : Bool :=
  let l := ks.map keyChan
  let np := (l.map (fun c => fld (d.desc c 6) 11 0)).foldl Nat.max 0
  let block := 5 * (np + (ks.map (fun k => d.regionBound k e)).foldl Nat.max 0)
  let u := Frac.sum (l.map d.utilU)
  let pts := d.checkSet l ++ (match extra with | some x => [(x.2, 1)] | none => [])
  l.all (fun c => 0 < d.deadlineU c) && u.1 < u.2 &&
    pts.all (fun f =>
      let more := match extra with | some x => if x.2 * f.2 ≤ f.1 then x.1 else 0 | none => 0
      (block + d.demandAt l f.1 f.2 + more) * f.2 ≤ f.1)

/-- R227. -/
def Dev.utilOk (d : Dev) (ks : List Nat) : Bool :=
  let u := Frac.sum (ks.map (fun k => d.utilU (keyChan k)))
  100 * u.1 ≤ 85 * u.2

/-! ### R226 -/

/-- The CUT_PACK entry of a pack. -/
def Dev.packIdx (d : Dev) (id : Nat) : Option Nat :=
  if id = 0 then none else (List.range 64).find? (fun i => d.f (CUT_PACK i 0) 15 0 == id)

/-- Where a context's slot, X, Y and code lie on engine `e`: slot, X base, Y base, code base, and whether the pack is to be
loaded there; none where R226 fails. DEDUCED, log entry 44. -/
def Dev.placeLocal (d : Dev) (k e : Nat) : Option (Nat × Nat × Nat × Nat × Bool) :=
  let c := keyChan k
  let ks := (d.keysOn e).filter (fun j => j != k)
  let quota := (ks.map (fun j => fld (d.desc (keyChan j) 5) 7 0)).foldl (· + ·) (fld (d.desc c 5) 7 0)
  let xs := ks.map (fun j => ((d.act j).xBase, fld (d.desc (keyChan j) 4) 15 0))
  let ys := ks.map (fun j => ((d.act j).yBase, fld (d.desc (keyChan j) 4) 31 16))
  let pack := fld (d.desc c 0) 15 0
  let code := match d.packIdx pack with | some i => ceilDiv (d.f (CUT_PACK i 1) 15 0) 16 * 16 | none => 0
  let shared := ks.find? (fun j => fld (d.desc (keyChan j) 0) 15 0 == pack)
  let codes := ks.map (fun j => ((d.act j).codeBase, ceilDiv (d.act j).codeLen 16 * 16))
  let slot := (List.range 32).find? (fun s => (tget none (d.eng e).slots s).isNone)
  let cb := match shared with
    | some j => some ((d.act j).codeBase, false)
    | none => (firstGap 0 0x8000 code codes).map (fun b => (b, true))
  match slot, firstGap 0 0x4000 (fld (d.desc c 4) 15 0) xs, firstGap 0 0x4000 (fld (d.desc c 4) 31 16) ys, cb with
  | some s, some x, some y, some (b, load) => if quota ≤ 128 then some (s, x, y, b, load) else none
  | _, _, _, _ => none

/-! ### R229 -/

/-- Port A of bank `b` serves engine `e`. -/
def portA (b e : Nat) : Bool := if b < 48 then b / 4 == e / 8 else e / 8 ≤ 5

/-- Slots in 10 µs of a window of channel `c`: (reads + writes) × 8,000 ÷ T. -/
def Dev.winSlots (d : Dev) (c w : Nat) : Frac :=
  let t := d.periodU c
  let rw := d.desc c (18 + 4 * w)
  ((fld rw 15 0 + fld rw 31 16) * 40000 * t.2, Nat.max 1 t.1)

/-- Admitted slots at a bank's port. -/
def Dev.bankLoad (d : Dev) (b : Nat) (a : Bool) : Frac :=
  Frac.sum ((d.placed).flatMap (fun k =>
    (d.mapped (keyChan k)).filterMap (fun p =>
      if bankOfKey (tget 0 (d.act k).winPhys p.1) = some b && portA b (d.act k).eng = a then
        some (d.winSlots (keyChan k) p.1)
      else none)))

/-- The ports of bank `b` carry the slots that a list of engines asks of them as well. -/
def Dev.slotsFit (d : Dev) (b : Nat) (l : List (Nat × Frac)) : Bool :=
  [true, false].all (fun a =>
    let more := (l.filter (fun p => portA b p.1 == a)).map (fun p => p.2)
    let s := (d.bankLoad b a).add (Frac.sum more)
    more.isEmpty || s.1 ≤ 5200 * s.2)

/-- The engines that reach window `w` of channel `c` through windows of kind 3 of theirs, and their slots. -/
def Dev.sharers (d : Dev) (c w : Nat) : List (Nat × Frac) :=
  (d.placed).flatMap (fun j =>
    ((d.mapped (keyChan j)).filter (fun p => fld p.2 21 20 == 3 && fld p.2 26 24 == w &&
        d.chanOf (d.desc (keyChan j) (19 + 4 * p.1)) == some c)).map
      (fun p => ((d.act j).eng, d.winSlots (keyChan j) p.1)))

/-- The Cutter pool: first key and end. -/
def Dev.pool (d : Dev) : Nat × Nat :=
  let lo := keyExt + d.f XMC_POOL_BASE 13 0 * 2 ^ 20
  (lo, lo + d.f XMC_POOL_SIZE 13 0 * 2 ^ 20)

/-- A place in the pool for `n` bytes, outside the retired regions. DEDUCED, log entry 44. -/
def Dev.poolPlace (d : Dev) (n : Nat) : Option Nat :=
  let dead := ((List.range 64).filter d.regionRetired).map (fun r => (keyExt + r * d.extBytes / 64, d.extBytes / 64))
  firstGap d.pool.1 d.pool.2 n (d.takenRanges ++ dead)

/-- The bank of `l` that takes the `n` bytes of a window whose slots `x` its users ask for, and its key there. -/
def Dev.bankPlace (d : Dev) (l : List Nat) (n : Nat) (x : List (Nat × Frac)) : Option Nat :=
  l.findSome? (fun b =>
    if d.bankRetired b || !(d.slotsFit b x) then none
    else firstGap (keyBank b) (keyBank b + 0x40000) n d.takenRanges)

/-- Where window `w` of kind 3 of context `k` lies: at its owner's window. -/
def Dev.sharedAt (d : Dev) (k : Nat) (w : Nat × Word) : Nat :=
  match d.chanOf (d.desc (keyChan k) (19 + 4 * w.1)) with
  | some o => tget 0 (d.act o).winPhys (fld w.2 26 24)
  | none => tget 0 (d.act k).winPhys w.1

/-- Context `k`'s windows of kind 3 are known before its own windows are placed. -/
def Dev.linkShared (d : Dev) (k : Nat) : Dev :=
  ((d.mapped (keyChan k)).filter (fun p => fld p.2 21 20 == 3)).foldl
    (fun d p => d.setAct k (fun a => { a with winPhys := tset a.winPhys p.1 (d.sharedAt k p) })) d

/-- Window `w` of context `k`, placed on engine `e`, comes to lie; or the bank that NO_BANK names (R218).
DEDUCED, log entry 44. -/
def Dev.placeWin (d : Dev) (k e : Nat) (w : Nat × Word) : Dev × Option Nat :=
  let c := keyChan k
  let n := fld w.2 19 0 * 4096
  let kind := fld w.2 21 20
  let x := (e, d.winSlots c w.1) :: d.sharers c w.1
  let put := fun (a : Nat) => d.setAct k (fun s => { s with winPhys := tset s.winPhys w.1 a })
  if kind = 0 then
    match d.bankPlace ((List.range 4).map (fun i => 4 * (e / 8) + i)) n x with
    | some a => (put a, none)
    | none => (d, some (4 * (e / 8)))
  else if kind = 1 then
    match d.bankPlace ((List.range 16).map (fun i => 48 + i)) n x with
    | some a => (put a, none)
    | none => (d, some 48)
  else if kind = 2 then
    match d.poolPlace n with
    | some a => (put a, none)
    | none => (d, some 0xFF)
  else
    let a := d.sharedAt k w
    match bankOfKey a with
    | some b => if d.slotsFit b [(e, d.winSlots c w.1)] then (put a, none) else (d, some b)
    | none => (put a, none)

/-- Every window of context `k`, and its channel's journal when it has none. -/
def Dev.placeWins (d : Dev) (k e : Nat) : Dev × Option Nat :=
  let c := keyChan k
  let (d, bad) := (d.mapped c).foldl
    (fun (s : Dev × Option Nat) w => match s.2 with | some _ => s | none => s.1.placeWin k e w) (d, none)
  match bad with
  | some _ => (d, bad)
  | none =>
    if (d.chan c).journalAt.isSome then (d, none)
    else match d.poolPlace 4096 with
      | some a => (d.setChan c (fun ch => { ch with journalAt := some a }), none)
      | none => (d, some 0xFF)

/-! ### R230, R231 and R232 -/

/-- Stream reservations on port `p` and class `q`: rate in kb/s and cells (R218). -/
def Dev.reserved (d : Dev) (p q : Nat) : Nat × Nat :=
  d.cut.reserv.foldl (fun s r => match r.2 with
    | some (rp, rq, rate, cells) => if rp = p && rq = q then (s.1 + rate, s.2 + cells) else s
    | none => s) (0, 0)

/-- Cells of one frame of a channel's output length. -/
def Dev.outCells (d : Dev) (c : Nat) : Nat := ceilDiv (fld (d.desc c 13) 27 16 + 32) 128

/-- Output class of a channel, and frames per period. -/
def Dev.outClass (d : Dev) (c : Nat) : Nat := fld (d.desc c 5) 26 24
def Dev.outFrames (d : Dev) (c : Nat) : Nat := fld (d.desc c 14) 15 0

/-- R230 on port `p` and class `q`. -/
def Dev.portOk (d : Dev) (p q : Nat) : Bool :=
  let l := (d.ownChans).filter (fun c => bitOf (d.desc c 7) p && d.outClass c == q)
  let bits := Frac.sum (l.map (fun c =>
    let t := d.periodU c
    (d.outFrames c * (fld (d.desc c 13) 27 16 + 20) * 8 * 4 * t.2 * 1000000, Nat.max 1 t.1)))
  let rsv := d.reserved p q
  let cells := (l.map (fun c => d.outFrames c * d.outCells c)).foldl (· + ·) rsv.2
  (bits.1 + rsv.1 * bits.2) * 100 ≤ d.f (CUT_PORT_SHARE p) 6 0 * d.portRate p * 1000 * bits.2 &&
    cells ≤ d.f (SWC_Q_LIM p q) 15 0

/-- R231 for channel `c` on port `p`. -/
def Dev.slipOk (d : Dev) (c p : Nat) : Bool :=
  let others := (d.ownChans).filter (fun j => j != c && bitOf (d.desc j 7) p)
  let bits := (others.map (fun j => fld (d.desc j 5) 15 8 * (fld (d.desc j 13) 27 16 + 20) * 8)).foldl (· + ·) 0
  bits * 1000 ≤ (d.desc c 15).toNat * d.portRate p

/-- The first port on which R230 fails with channel `c`. -/
def Dev.portBad (d : Dev) (c : Nat) : Option Nat := (d.grantPorts c).find? (fun p => !(d.portOk p (d.outClass c)))

/-- The first port on which R231 fails, for `c` or for a channel that shares the port with it. -/
def Dev.slipBad (d : Dev) (c : Nat) : Option Nat :=
  (d.grantPorts c).find? (fun p =>
    (d.ownChans).any (fun j => bitOf (d.desc j 7) p && 0 < d.outFrames j && !(d.slipOk j p)))

/-- Periods that a replay may hold: ⌈I ÷ T⌉ + 1. -/
def Dev.replayPeriods (d : Dev) (c : Nat) : Nat :=
  let t := d.periodU c
  ceilDiv (fld (d.desc c 6) 27 16 * 40000 * t.2) (Nat.max 1 t.1) + 1

/-- S_i: X, Y, 192 and every private window. -/
def Dev.stateBytes (d : Dev) (c : Nat) : Nat :=
  ((d.mapped c).filter (fun p => fld p.2 21 20 != 3)).foldl (fun n p => n + fld p.2 19 0 * 4096)
    (fld (d.desc c 4) 15 0 + fld (d.desc c 4) 31 16 + 192)

/-- R232 for one channel: the recovery bound, and another engine on which the replay fits as one extra job that is due when the
bound ends. -/
def Dev.recoveryOk (d : Dev) (c e : Nat) : Bool :=
  let cyc := (d.desc c 2).toNat * d.replayPeriods c
  let s := d.stateBytes c
  4 * (2000 * 16 + s) + 80 * cyc ≤ 4 * 30000 * 16 &&
    (List.range 96).any (fun g => g != e && !(d.eng g).retired &&
      d.demandOk (d.keysOn g) g (some (5 * cyc, (28000 * 16 - s) / 4)))

/-- R232 with the request included: every channel that is placed has a recovery engine. -/
def Dev.recoveriesOk (d : Dev) : Bool :=
  ((d.placed).filter (fun k => k < 512)).all (fun c => d.recoveryOk c (d.act c).eng)

/-- R228 on the engines that share windows of channel `c`, with those where context `k` has them: the first that fails. -/
def Dev.sharersBad (d : Dev) (c k : Nat) : Option Nat :=
  let t := d.relinkFrom c k
  let l := (d.mapped c).flatMap (fun p => (d.sharers c p.1).map (fun q => q.1))
  l.find? (fun e => !(t.demandOk (t.keysOn e) e none))

/-! ### Placement -/

/-- The pack's image is copied to the instruction store of engine `e`. DESIGN CHOICE, log entry 7. -/
def Dev.loadPack (d : Dev) (id e base : Nat) : Dev :=
  match d.packIdx id with
  | some i => d.mwr (keyInstr e + base) (d.mrd (keyPack (tget 0 d.cut.packOfs i)) (d.f (CUT_PACK i 1) 15 0))
  | none => d

/-- Context `k` placed on engine `e`; or the rule that fails first, and the engine, bank or port that it names. -/
def Dev.tryPlace (d : Dev) (k e : Nat) : Sum (Nat × Nat) Dev :=
  let c := keyChan k
  match d.placeLocal k e with
  | none => .inl (226, e)
  | some (s, x, y, cb, load) =>
    let pack := fld (d.desc c 0) 15 0
    let len := match d.packIdx pack with | some i => d.f (CUT_PACK i 1) 15 0 | none => 0
    let d := d.setAct k (fun a => { a with eng := e, slot := s, xBase := x, yBase := y, codeBase := cb, codeLen := len })
    let d := (d.setEng e (fun g => { g with slots := tset g.slots s (some k) })).linkShared k
    if !(d.utilOk (d.keysOn e)) then .inl (227, e)
    else if !(d.demandOk (d.keysOn e) e none) then .inl (228, e)
    else
      match d.placeWins k e with
      | (_, some b) => .inl (229, b)
      | (d, none) =>
        match d.sharersBad c k with
        | some g => .inl (228, g)
        | none => match d.portBad c with
          | some p => .inl (230, p)
          | none => match d.slipBad c with
            | some p => .inl (231, p)
            | none => if !(d.recoveryOk c e) || !(d.recoveriesOk) then .inl (232, e)
              else .inr (if load then d.loadPack pack e cb else d)

/-- `e` put into a list before the first element that does not come before it. -/
def insertBy (before : Nat → Nat → Bool) (e : Nat) : List Nat → List Nat
  | [] => [e]
  | x :: t => if before e x then e :: x :: t else x :: insertBy before e t

/-- The channel's affinities (R213): the engine has the number that is given, lies on the bench that is given. -/
def Dev.affEngine (d : Dev) (c e : Nat) : Bool := let a := fld (d.desc c 14) 26 20; a == 0x7F || e == a
def Dev.affBench (d : Dev) (c e : Nat) : Bool := let a := fld (d.desc c 14) 19 16; a == 0xF || e / 8 == a

/-- The candidates of R540 for channel `c` among this device's engines, in order. DEDUCED, log entry 44. -/
def Dev.candidates (d : Dev) (c : Nat) : List Nat :=
  let w := d.desc c 14
  let node := fld w 30 27
  let own := d.f SLV_NODE_CFG 2 0
  let isE := d.affEngine c
  let isB := d.affBench c
  let isN : Bool := node == 0xF || node == own
  let all := (List.range 96).filter (fun e => !(d.eng e).retired)
  let l := if bitOf w 31 then all.filter (fun e => isE e && isB e && isN) else all
  let before := fun (a b : Nat) =>
    if isE a != isE b then isE a
    else if isB a != isB b then isB a
    else
      let u := d.engUtil a
      let v := d.engUtil b
      if u.1 * v.2 ≠ v.1 * u.2 then decide (u.1 * v.2 < v.1 * u.2) else decide (a ≤ b)
  l.foldr (insertBy before) []

/-- The candidates on which the channel's longest non-interruptible repeat may run (R213, R214).
DESIGN CHOICE, log entry 80. -/
def Dev.engineList (d : Dev) (c : Nat) : List Nat :=
  (d.candidates c).filter (fun e => fld (d.desc c 6) 11 0 ≤ d.f (ENG_CFG e) 27 16)

/-- The first engine of a list that takes context `k`; or the first failure of the first of them, as the status and RES1 of
R218. -/
def Dev.placeOn (d : Dev) (k : Nat) (l : List Nat) : Sum (Nat × Nat) Dev :=
  match l.findSome? (fun e => match d.tryPlace k e with | .inr d => some d | .inl _ => none) with
  | some d => .inr d
  | none =>
    let (rule, at_) := match l with
      | [] => (226, 0xFF)
      | e :: _ => match d.tryPlace k e with
        | .inl x => x
        | .inr _ => (226, 0xFF)
    let status := if rule = 229 then 8 else if rule = 230 then 9 else if rule = 226 || rule = 227 then 7 else 10
    .inl (status, rule + 256 * at_)

/-! ### Engines of another node (R391, R540) -/

/-- Another node of the ring may take a channel that names it in aff_node: this node is SYNC, leads, and hears it
(R391, R540). Whether its SLV_CTRL.cutter_share is 1 stands in that node: a free value. DESIGN CHOICE, log entry 80. -/
def Dev.remoteNode (d : Dev) (c : Nat) : Option Nat × Dev :=
  let n := fld (d.desc c 14) 30 27
  if n < 8 && n != d.f SLV_NODE_CFG 2 0 && d.slv.state == .sync && d.b SLV_STAT 3 && d.slv.heard.testBit n then
    let (v, d) := d.free
    (if bitOf v 0 then some n else none, d)
  else (none, d)

/-- How well an engine number matches the given affinities of R540: aff_engine before aff_bench. -/
def Dev.affRank (d : Dev) (c e : Nat) : Nat := 2 * b2n (d.affEngine c e) + b2n (d.affBench c e)

/-- The engine of another node that takes channel `c`, among those of one rank: that node admits by its own rules and loads, so
the choice is a free value. DESIGN CHOICE, log entry 80. -/
def Dev.remoteTry (d : Dev) (c r : Nat) : Option Nat × Dev :=
  let l := (List.range 96).filter (fun e => d.affRank c e == r)
  if l = [] then (none, d)
  else
    let (v, d) := d.free
    (if bitOf v 31 then l[v.toNat % l.length]? else none, d)

/-- Channel `c` is placed on engine `e` of node `n`: the table holds it, no engine here does; a message goes to that node's
Cutter, whose bytes the spec does not lay out. DESIGN CHOICE, log entry 80. -/
def Dev.placeRemote (d : Dev) (c n e : Nat) : Dev :=
  let (v, d) := d.free
  let (m, d) := d.freeBytes (v.toNat % 129)
  let d := d.setChan c (fun ch => { ch with node := n, remote := true })
  { d with cut := { d.cut with mgmt := tset d.cut.mgmt c (some (e, 0)) }, slv := { d.slv with cutq := d.slv.cutq ++ [m] } }

/-- The candidates rank by rank, the other node's before this one's, which does not match the aff_node; where none takes the
channel and the first was the other node's, status and RES1 are free values. DESIGN CHOICE, log entry 80. -/
def Dev.placeRanks (d : Dev) (c n : Nat) (own : List Nat) : List Nat → Sum (Nat × Nat) Dev
  | [] =>
    let (v, d) := d.free
    let (r, d) := d.free
    if bitOf (d.desc c 14) 31 && !((List.range 96).any (fun e => d.affRank c e == 3)) then d.placeOn c own
    else .inl (7 + v.toNat % 4, r.toNat)
  | r :: t => match d.remoteTry c r with
    | (some e, d) => .inr (d.placeRemote c n e)
    | (none, d) => match d.placeOn c (own.filter (fun e => d.affRank c e == r)) with
      | .inr x => .inr x
      | .inl _ => d.placeRanks c n own t

/-- Where CREATE places channel `c` (R540). DESIGN CHOICE, log entry 80. -/
def Dev.placeCreate (d : Dev) (c : Nat) : Sum (Nat × Nat) Dev :=
  match d.remoteNode c with
  | (none, d) => d.placeOn c (d.engineList c)
  | (some n, d) => d.placeRanks c n (d.engineList c) (if bitOf (d.desc c 14) 31 then [3] else [3, 2, 1, 0])

/-! ### The descriptor (R213-R216) -/

/-- The lowest set bit of a word, up to 32. -/
def lowBit (v : Word) : Nat := ((List.range 32).find? (fun i => bitOf v i)).getD 0

/-- Reserved bits of header word `i`. -/
def descReserved (i : Nat) : Word :=
  if i = 0 then 0xFF000000 else if i = 5 then 0xF8000000 else if i = 6 then 0xF000F000 else if i = 7 then 0xFFE00000
  else if i = 12 then 0xFFF80000 else if i = 13 then 0xF000F000 else 0

/-- The faults of word `i` of channel `c`'s descriptor, as (word, bit) pairs; `held` are the pins that other channels hold.
DEDUCED, log entry 45. -/
def Dev.headFaults (d : Dev) (c i : Nat) (held : Nat) : List (Nat × Nat) :=
  let w := d.desc c i
  let r := w &&& descReserved i
  (if r = 0 then [] else [(i, lowBit r)]) ++
  (if i = 0 then
    (if fld w 18 17 = 3 then [(0, 17)] else []) ++ (if bitOf w 19 && !(d.waveOk (fld w 23 20)) then [(0, 19)] else [])
   else if i = 4 then
    (if fld w 15 0 % 64 ≠ 0 || 16384 < fld w 15 0 then [(4, 0)] else []) ++
    (if fld w 31 16 % 64 ≠ 0 || 16384 < fld w 31 16 then [(4, 16)] else [])
   else if i = 6 then
    (let l := d.candidates c
     if l ≠ [] && l.all (fun e => d.f (ENG_CFG e) 27 16 < fld w 11 0) then [(6, 0)] else [])
   else if i = 10 || i = 11 then
    (let h := w &&& w32 (held / 2 ^ (32 * (i - 10)))
     if h = 0 then [] else [(i, lowBit h)])
   else [])

/-- A window of `n` bytes at `base` lies in the region of its kind (R133). -/
def winInRegion (kind base n : Nat) : Bool :=
  let bank := 0x20000000 ≤ base && base + n ≤ 0x21000000
  let ext := 0x40000000 ≤ base && base + n ≤ 0x80000000
  if kind < 2 then bank else if kind = 2 then ext else bank || ext

/-- The faults of window `j`. -/
def Dev.winFaults (d : Dev) (c j : Nat) : List (Nat × Nat) :=
  let o := 16 + 4 * j
  let b := d.desc c o
  let w := d.desc c (o + 1)
  let kind := fld w 21 20
  let n := fld w 19 0 * 4096
  let r := w &&& 0xF8000000
  let overlap := (d.mapped c).any (fun p => p.1 < j &&
    (d.desc c (16 + 4 * p.1)).toNat < b.toNat + n && b.toNat < (d.desc c (16 + 4 * p.1)).toNat + fld p.2 19 0 * 4096)
  (if r = 0 then [] else [(o + 1, lowBit r)]) ++
  (if kind ≠ 3 && d.desc c (o + 3) ≠ 0 then [(o + 3, lowBit (d.desc c (o + 3)))] else []) ++
  (if !(bitOf w 22) then [] else
    (if fld b 11 0 ≠ 0 then [(o, lowBit b)] else []) ++
    (if kind < 2 && 64 < fld w 19 0 then [(o + 1, 0)] else []) ++
    (if n = 0 then [] else (if overlap || !(winInRegion kind b.toNat n) then [(o, 0)] else [])))

/-- The first of a list of faults, in order of word and bit. -/
def firstFault : List (Nat × Nat) → Option (Nat × Nat)
  | [] => none
  | a :: t => match firstFault t with
    | none => some a
    | some b => if b.1 < a.1 || (b.1 = a.1 && b.2 < a.2) then some b else some a

/-- Pins that channels other than `c` hold (R215). -/
def Dev.pinsHeld (d : Dev) (c : Nat) : Nat :=
  (d.ownChans).foldl (fun m j =>
    if j = c then m else m ||| ((d.desc j 10).toNat + 2 ^ 32 * (d.desc j 11).toNat)) 0

/-- Checks 1 to 5 of R214 on the descriptor held at index `c`, with the index of the channel absent from the pins held:
status and RES1, or none when all pass. A zero period gives OK with a null handle. -/
def Dev.descCheck (d : Dev) (c : Nat) : Option (Nat × Nat) :=
  let held := d.pinsHeld c
  let faults := (List.range 16).flatMap (fun i => d.headFaults c i held) ++ (List.range 8).flatMap (d.winFaults c)
  match firstFault faults with
  | some (w, b) => some (4, w + 256 * b)
  | none =>
    let shared := (d.windows c).filter (fun p => fld p.2 21 20 == 3)
    let own := fun (p : Nat × Word) => d.desc c (19 + 4 * p.1)
    let srcWin := fun (p : Nat × Word) =>
      match d.chanOf (own p) with
      | some o => let s := d.desc o (17 + 4 * fld p.2 26 24); if bitOf s 22 then some s else none
      | none => none
    let bad := shared.findSome? (fun p =>
      match d.checkHandle 1 (own p) with
      | .stale => some (3, 0)
      | .badHandle => some (2, 0)
      | .ok => if (srcWin p).isNone then some (2, 0) else none)
    match bad with
    | some r => some r
    | none =>
      match shared.find? (fun p => match srcWin p with | some s => fld s 19 0 < fld p.2 19 0 | none => false) with
      | some p => some (4, 17 + 4 * p.1)
      | none =>
        if d.desc c 1 = 0 || (d.isWave c && (fld (d.desc c 1) 15 0 = 0 || fld (d.desc c 1) 31 16 = 0)) then some (0, 0)
        else if (d.packIdx (fld (d.desc c 0) 15 0)).isNone then some (11, 0)
        else none

end Sys2Proof.Machine
end

