-- ==== Sys2Proof/Machine/CutterCmd.lean ====
section
/-!
DEFINITION. The commands of the Cutter (R213-R223, R234, R237, R240, R464-R466, R485): what a write of CUT_CMD[k] does.
-/
namespace Sys2Proof.Machine

/-- The channel's context starts from its last checkpoint, or from its initial state when it has none. -/
def Dev.restoreCkpt (d : Dev) (c : Nat) : Dev :=
  if (tfind d.cut.acts c).isNone then d else
  let d := d.setChan c (fun ch => { ch with epochOpen := [] })
  match (d.chan c).ckpt with
  | some ck =>
    (d.restoreCells c ck.cells).setAct c (fun a =>
      { a with ctx := ck.ctx, lastSealed := ck.lastSealed, st := .waiting, stored := some [] })
  | none => (d.restoreCells c []).setAct c (fun a => { a with ctx := Ctx.init, lastSealed := none, st := .waiting, stored := none })

/-- The journal is replayed: its events wait, visible, in order of delivery; the channel is RECOVERING with fault clock
`f`. DEDUCED, log entry 29. -/
def Dev.replayFrom (d : Dev) (c : Nat) (f : Word) (takeover : Bool) : Dev :=
  if (tfind d.cut.acts c).isNone then d else
  let j := (d.chan c).journal
  let d := d.setEng (d.act c).eng (fun e =>
    { e with evq := e.evq ++ j.map (fun (v : Ev) => { v with chan := c, visible := true }) })
  d.setChan c (fun ch => { ch with st := .recovering, recF := some f, takeover := takeover, replay := j.length })

/-- An OPEN, a CLOSE or another command meets a value for which the spec states no status: nothing is done, and the status
is a free value. -/
def Dev.cmdOpenValue (d : Dev) (k : Nat) : Dev :=
  let (v, d) := d.free
  d.cmdDone k (v.toNat % 256)

/-- The status of a handle that fails R13. -/
def HandleCheck.status : HandleCheck → Nat
  | .ok => 0 | .badHandle => 2 | .stale => 3

/-- The status of a command that the channel's state does not accept (R219). -/
def ChanState.refusal : ChanState → Nat
  | .recovering => 1 | .migrating => 1 | _ => 5

/-- The generation that an index of a kind is issued with (R12). -/
def Dev.issueGen (d : Dev) (kind idx : Nat) : Nat := if d.genOf kind idx = 0 then 1 else d.genOf kind idx

/-- Argument `j` of command port `k`. -/
def Dev.arg (d : Dev) (k j : Nat) : Word := d.r (CUT_ARG k j)

/-- CUT_CHAN words 0 to 3 of a channel; word 1 shows the management view of its engine (R249). -/
def Dev.chanWord (d : Dev) (c i : Nat) : Word :=
  let ch := d.chan c
  if ch.st = .free then 0
  else if i = 0 then mkHandle 1 (d.genOf 1 c) c
  else if i = 1 then
    let e := match tget none d.cut.mgmt c with | some p => p.1 | none => (d.act c).eng
    let code := match ch.st with
      | .free => 0 | .created => 1 | .armed => 2 | .running => 3 | .stopping => 4 | .faulted => 5 | .recovering => 6
      | .migrating => 7
    w32 (code + 8 * b2n ch.late + 16 * e + 2048 * ch.node)
  else if i = 2 then w32 ch.lateCount
  else w32 ch.epochs

/-! ### CREATE (R213-R216) -/

/-- The lowest free channel index. -/
def Dev.freeChan (d : Dev) : Option Nat := (List.range 512).find? (fun c => (d.chan c).st == .free)

/-- CREATE on port `k`: the checks in the order of R214, admission, and the channel. DESIGN CHOICE, log entry 7. -/
def Dev.createCmd (d : Dev) (k : Nat) : Dev :=
  let words : Tab Word := (List.range 48).map (fun i => (i, d.r (CUT_DESC k i)))
  let c := d.freeChan.getD 512
  let t := d.setChan c (fun _ => { Chan.init with desc := words, node := d.f SLV_NODE_CFG 2 0 })
  match t.descCheck c with
  | some (0, _) => d.cmdDone k 0 (some 0)
  | some (4, r) => d.cmdDone k 4 none (some r)
  | some (status, _) => d.cmdDone k status
  | none =>
    if d.freeChan.isNone then d.cmdDone k 6
    else
      let t := t.setChan c (fun ch => { ch with settle := t.settleTime c, st := .created })
      match t.placeCreate c with
      | .inl (status, r) => d.cmdDone k status none (some r)
      | .inr t =>
        let g := d.issueGen 1 c
        let t := (t.restoreCells c []).setGen 1 c g
        let t := if (t.chan c).remote then t else t.mgmtTake c
        t.cmdDone k 0 (some (mkHandle 1 g c).toNat)

/-! ### START, STOP, DESTROY, QUERY (R219-R221) -/

/-- The boundaries of a channel that START names begin: at the target when one is given and still ahead, else now (R220,
R225). DEDUCED, log entry 18. -/
def Dev.armBoundaries (d : Dev) (c : Nat) (target : Option Word) : Dev :=
  let start := match target with
    | some t => if reached d.tb.st t then d.tb.st else t
    | none => d.tb.st
  d.setChan c (fun ch => { ch with next := start, nextWave := d.nextMult c, startAt := target, stopReq := false, stopAt := none })

/-- The context waits for its first event, as nothing of an earlier run stands open. -/
def Dev.idleAct (d : Dev) (c : Nat) : Dev :=
  if (tfind d.cut.acts c).isNone then d else
  d.setAct c (fun a => { a with st := .waiting, open_ := false, input := none, inputLate := false, given := 0,
                                atGo := false, lastTaken := none })

/-- START of a FAULTED channel: its last checkpoint, and the replay of its journal under R239 with F the clock of the START
(R220); a channel without a place is placed first, unless its views disagree (R249): the status is then a free value.
DESIGN CHOICE, log entry 17; DEDUCED, log entry 18. -/
def Dev.startFaulted (d : Dev) (k c : Nat) (target : Option Word) : Dev :=
  if d.isHeld c && (tfind d.cut.acts c).isNone then d.cmdOpenValue k else
  let placed : Sum (Nat × Nat) Dev :=
    if (tfind d.cut.acts c).isSome then .inr d
    else (d.placeOn c (d.engineList c)).map id (fun t => t.mgmtTake c)
  match placed with
  | .inl (status, r) => d.cmdDone k status none (some r)
  | .inr d =>
    let sealed_ := fun (o : Out) => match (d.chan c).ckpt with
      | some ck => (match ck.lastSealed with | some (st, _) => reached st o.inSt | none => false)
      | none => false
    let d := d.setEng (d.act c).eng (fun e =>
      { e with evq := e.evq.filter (fun v => v.chan != c),
               outq := e.outq.filter (fun o => o.key != c || o.desc == 14 || (o.isSealed && sealed_ o)) })
    let d := ((d.idleAct c).restoreCkpt c).armBoundaries c target
    (d.replayFrom c d.tb.st false).cmdDone k 0

/-- START on channel `c`. DEDUCED, log entry 18. -/
def Dev.startCmd (d : Dev) (k c : Nat) : Dev :=
  let target := if bitOf (d.arg k 1) 0 then some (d.arg k 2) else none
  match (d.chan c).st with
  | .created => ((((d.idleAct c).armBoundaries c target).setChan c (fun ch => { ch with st := .armed }))).cmdDone k 0
  | .faulted => d.startFaulted k c target
  | st => d.cmdDone k st.refusal

/-- STOP on channel `c`: an ARMED channel has nothing to end and is CREATED at once. DEDUCED, log entry 18. -/
def Dev.stopCmd (d : Dev) (k c : Nat) : Dev :=
  match (d.chan c).st with
  | .armed => (d.setChan c (fun ch => { ch with st := .created, startAt := none })).cmdDone k 0
  | .running => (d.stopChannel c).cmdDone k 0
  | .migrating => (d.stopChannel c).cmdDone k 0
  | st => d.cmdDone k st.refusal

/-- Mailbox `m` is closed (R466): messages of both directions go, the generation advances. DEDUCED, log entry 20. -/
def Dev.closeMbx (d : Dev) (m : Nat) : Dev :=
  let g := nextGen (d.genOf 2 m)
  let d := d.setGen 2 m g
  let d := ((d.wf (MBX_MSTAT m) 11 0 g).wb (MBX_MSTAT m) 31 false).wb (MBX_HFULL (m / 32)) (m % 32) false
  let d := (d.w (MBX_PARTY m 0) 0).w (MBX_PARTY m 1) 0
  let d := (d.wf (MBX_RXSTAT m 0) 5 0 0).wf (MBX_RXSTAT m 1) 5 0 0
  { d with swc := { d.swc with slots := d.swc.slots.filter (fun u => !(u.kind == 4 && u.idx == m)) } }

/-- The commands that wait for channel `c` on other ports end with it: a CHECKPOINT is not allowed any more, a DESTROY is done.
DEDUCED, log entry 19. -/
def Dev.endWaits (d : Dev) (c : Nat) : Dev :=
  let ch := d.chan c
  let d := d.each ch.ckptPorts (fun d q => d.cmdDone q 5)
  d.cmdDone? ch.destroyPort 0

/-- Channel `c` is destroyed (R221, R466): its resources are free, its mailboxes closed, its generation advanced.
DEDUCED, log entry 19. -/
def Dev.destroyChan (d : Dev) (c : Nat) : Dev :=
  let h := d.chanWord c 0
  let d := (d.endMigration c 13).endWaits c
  let d := (d.dropKey c).dropKey (512 + c)
  let d := d.each (tkeys d.trd.t) (fun d t => d.setTrdl t (fun x =>
    { x with wave := x.wave.filter (fun o => o.committed || keyChan o.chan != c) }))
  let d := d.each (List.range 256) (fun d m =>
    if d.b (MBX_MSTAT m) 31 && (d.r (MBX_PARTY m 0) = h || d.r (MBX_PARTY m 1) = h) then d.closeMbx m else d)
  let d := d.setGen 1 c (nextGen (d.genOf 1 c))
  let d := { d with
    cut := { d.cut with
      chans := terase d.cut.chans c
      mgmt := terase d.cut.mgmt c
      held := d.cut.held.filter (fun x => x != c) }
    swc := { d.swc with slots := d.swc.slots.filter (fun u => u.chan != c)
                        dropped := d.swc.dropped.filter (fun x => x != c) } }
  d.tableCompare

/-- DESTROY on channel `c`: at once, or when the original of a migration has stopped. DEDUCED, log entry 19. -/
def Dev.destroyCmd (d : Dev) (k c : Nat) : Dev :=
  match (d.chan c).st with
  | .created => (d.destroyChan c).cmdDone k 0
  | .faulted => (d.destroyChan c).cmdDone k 0
  | .recovering => (d.destroyChan c).cmdDone k 0
  | .migrating => (d.stopChannel c).setChan c (fun ch => { ch with destroyPort := some k })
  | st => d.cmdDone k st.refusal

/-- QUERY on channel `c`. -/
def Dev.queryCmd (d : Dev) (k c : Nat) : Dev :=
  let r0 := d.chanWord c 1
  let r1 := d.chanWord c 2
  let d := if bitOf (d.arg k 1) 0 then d.setChan c (fun ch => { ch with late := false, lateCount := 0 }) else d
  d.cmdDone k 0 (some r0.toNat) (some r1.toNat)

/-! ### MIGRATE and CHECKPOINT (R234, R237) -/

/-- A channel that does not run moves at once: the context and the private memory are copied, the old place is freed. -/
def Dev.moveIdle (d : Dev) (c : Nat) : Dev :=
  let o := d.act c
  let n := d.act (512 + c)
  let d := d.restoreCells (512 + c) (d.cells c)
  let d := d.setAct (512 + c) (fun a => { a with ctx := o.ctx, lastSealed := o.lastSealed, st := .waiting })
  let s := { d.act (512 + c) with stored := o.stored }
  let d := d.setEng o.eng (fun e => e.swapKeys c d.tb.st)
  let d := if n.eng = o.eng then d else d.setEng n.eng (fun e => e.swapKeys c d.tb.st)
  let d := { d with cut := { d.cut with acts := tset (tset d.cut.acts c s) (512 + c) o } }
  let d := (d.dropKey (512 + c)).mgmtTake c
  (d.satf CUT_MIGRATE_CNT 15 0 1).ringBit .cut 8

/-- A migration of channel `c` to one of the engines `l` starts (R237 steps 1 and 2), or the status and RES1 of its
refusal. The new placement is admitted with the old one still counted; private windows are copied. -/
def Dev.migrateTo (d : Dev) (c : Nat) (l : List Nat) (port : Option Nat) : Sum (Nat × Nat) Dev :=
  match d.placeOn (512 + c) l with
  | .inl x => .inl x
  | .inr d =>
    let d := d.restoreCells (512 + c) (d.cells c)
    if (d.chan c).st = .running then
      .inr (d.setChan c (fun ch =>
        { ch with st := .migrating,
                  mig := some { port := port, p1 := none, shadowUp := false, tries := 0, switched := none, aborted := false,
                                sealOld := none, sealNew := none } }))
    else .inr ((d.moveIdle c).cmdDone? port 0 (some (d.act (512 + c)).eng))

/-- The engines that MIGRATE's ARG1 allows: the one it names, or any in the order of R540. DEDUCED, log entry 19. -/
def Dev.migrateList (d : Dev) (c : Nat) (a : Word) : List Nat :=
  let e := fld a 6 0
  if e = 0x7F then d.engineList c
  else if e < 96 && !(d.eng e).retired && fld (d.desc c 6) 11 0 ≤ d.f (ENG_CFG e) 27 16 then [e] else []

/-- MIGRATE on channel `c`. A channel whose views disagree is not moved (R249), nor one that another node holds; the status is
then a free value. DESIGN CHOICE, log entry 17; DEDUCED, log entry 19; DESIGN CHOICE, log entry 80. -/
def Dev.migrateCmd (d : Dev) (k c : Nat) : Dev :=
  let st := (d.chan c).st
  if st = .created || st = .running then
    if d.isHeld c || (d.chan c).remote then d.cmdOpenValue k
    else match d.migrateTo c (d.migrateList c (d.arg k 1)) (some k) with
      | .inl (status, r) => d.cmdDone k status none (some r)
      | .inr d => d
  else d.cmdDone k st.refusal

/-- The full checkpoint of a channel that has nothing under way is taken as it stands, and streamed (R234, R236). -/
def Dev.ckptNow (d : Dev) (c : Nat) : Dev :=
  let ck := d.takeCkpt c true
  let d := d.setChan c (fun ch => { ch with ckpt := some ck, epochs := ck.epoch, journal := d.trimJournal c, epochOpen := [],
                                            ckptWanted := false, ckptFull := false })
  (d.setAct c (fun a => { a with stored := some [] })).bookCkpt c

/-- CHECKPOINT on channel `c`: a running one is taken at the seal that qualifies after the next boundary; of a channel that
another node holds the answer is a free value. DEDUCED, log entry 19; DESIGN CHOICE, log entry 80. -/
def Dev.checkpointCmd (d : Dev) (k c : Nat) : Dev :=
  if (d.chan c).remote && ((d.chan c).st == .created || (d.chan c).st == .running) then d.cmdOpenValue k else
  match (d.chan c).st with
  | .created => let d := d.ckptNow c; d.cmdDone k 0 (some (d.chan c).epochs)
  | .running => d.setChan c (fun ch => { ch with ckptWanted := true, ckptFull := true, ckptPorts := ch.ckptPorts ++ [k] })
  | st => d.cmdDone k st.refusal

/-! ### OPEN and CLOSE (R121, R218, R464-R466, R485) -/

/-- What R465 finds wrong with a party value: its status, or none. DEDUCED, log entry 20. -/
def Dev.partyBad (d : Dev) (p : Word) : Option Nat :=
  if hKind p = 1 then (match d.checkHandle 1 p with | .ok => none | x => some x.status)
  else if p = 0 then some 2
  else if 0xFF000000#32 ≤ p && p ≤ 0xFF000004#32 then none else some 4

/-- OPEN of a mailbox. -/
def Dev.openMbx (d : Dev) (k : Nat) : Dev :=
  let p := d.arg k 1
  let q := d.arg k 2
  let bits := d.arg k 3
  let bad := [d.partyBad p, d.partyBad q]
  match bad.find? (fun x => x == some 2 || x == some 3) with
  | some x => d.cmdDone k (x.getD 2)
  | none =>
    if bad.any (fun x => x.isSome) || p = q || (isHostParty p && isHostParty q) || bits &&& 0xFFFFE0E0#32 != 0 then d.cmdDone k 4
    else match (List.range 256).find? (fun m => !(d.b (MBX_MSTAT m) 31)) with
      | none => d.cmdDone k 6
      | some m =>
        let g := d.issueGen 2 m
        let d := (d.setGen 2 m g).w (MBX_MSTAT m) (w32 (g + 65536 * fld bits 4 0 + 2 ^ 24 * fld bits 12 8 + 2 ^ 31))
        let d := (d.w (MBX_PARTY m 0) p).w (MBX_PARTY m 1) q
        d.cmdDone k 0 (some (mkHandle 2 g m).toNat)

/-- Reserved bits of a staged route. -/
def routeReserved (i : Nat) : Word :=
  if i = 0 then 0x7FFFFFE0 else if i = 1 then 0xE0000000 else if i = 2 then 0xFC008000 else if i = 4 then 0x0000C000
  else if i = 5 then 0xFC000000 else if i = 6 then 0x0000FF00 else if i = 7 then 0xFFFFFFFF else 0

/-- The key of a route: controller, format and identifier; an Ethernet source is named by its handle and has no key.
DEDUCED, log entry 20. -/
def routeKey (w0 w1 : Word) : Option (Nat × Nat) :=
  if bitOf w0 4 then none else some (fld w0 3 0, fld w1 28 0)

/-- The valid route with a key (R486). -/
def Dev.routeOf (d : Dev) (key : Nat × Nat) : Option Nat :=
  (List.range 4096).find? (fun i => d.b (FBR_ROUTE i 0) 31 && routeKey (d.r (FBR_ROUTE i 0)) (d.r (FBR_ROUTE i 1)) == some key)

/-- OPEN of a route (R485). -/
def Dev.openRoute (d : Dev) (k : Nat) : Dev :=
  let s := fun i => d.r (FBR_STAGE i)
  let same : Bool := match routeKey (s 0) (s 1) with
    | some key => (d.routeOf key).isSome
    | none => false
  if (List.range 8).any (fun i => s i &&& routeReserved i != 0) || same || 16384 < fld (s 4) 13 0 + fld (s 4) 23 16 then
    d.cmdDone k 4
  else match (List.range 4096).find? (fun i => !(d.b (FBR_ROUTE i 0) 31)) with
    | none => d.cmdDone k 6
    | some i =>
      let g := d.issueGen 3 i
      let d := (List.range 8).foldl (fun d j => d.w (FBR_ROUTE i j) (s j)) (d.setGen 3 i g)
      let d := (d.wb (FBR_ROUTE i 0) 31 true).wf FBR_STAT 28 16 (d.f FBR_STAT 28 16 + 1)
      d.cmdDone k 0 (some (mkHandle 3 g i).toNat)

/-- OPEN of a pattern table for its owning channel (R121). DESIGN CHOICE, log entry 17; DEDUCED, log entry 20. -/
def Dev.openPat (d : Dev) (k : Nat) : Dev :=
  let t := (d.arg k 1).toNat
  match d.checkHandle 1 (d.arg k 2) with
  | .ok =>
    if 8 ≤ t then d.cmdOpenValue k
    else if d.holds 4 t then d.cmdDone k 6
    else
      let g := d.issueGen 4 t
      let d := d.setGen 4 t g
      let d := { d with trd := { d.trd with patOwner := tset d.trd.patOwner t (some (hIdx (d.arg k 2))) } }
      d.cmdDone k 0 (some (mkHandle 4 g t).toNat)
  | x => d.cmdDone k x.status

/-- OPEN of a stream reservation: admitted under R230 on a port of P00-P19. DESIGN CHOICE, log entry 17. -/
def Dev.openRes (d : Dev) (k : Nat) : Dev :=
  let p := fld (d.arg k 1) 4 0
  let q := fld (d.arg k 1) 10 8
  match (List.range 256).find? (fun i => !(d.holds 5 i)) with
  | none => d.cmdDone k 6
  | some i =>
    if 22 ≤ p then d.cmdOpenValue k
    else
      let g := d.issueGen 5 i
      let t := d.setGen 5 i g
      let t := { t with cut := { t.cut with
        reserv := tset t.cut.reserv i (some (p, q, (d.arg k 2).toNat, fld (d.arg k 3) 15 0)) } }
      if p < 20 && !(t.portOk p q) then d.cmdDone k 9 none (some (230 + 256 * p))
      else t.cmdDone k 0 (some (mkHandle 5 g i).toNat)

/-- OPEN, by the kind in ARG0. DESIGN CHOICE, log entry 17. -/
def Dev.openCmd (d : Dev) (k : Nat) : Dev :=
  let kind := (d.arg k 0).toNat
  if kind = 2 then d.openMbx k else if kind = 3 then d.openRoute k else if kind = 4 then d.openPat k
  else if kind = 5 then d.openRes k else d.cmdOpenValue k

/-- Object `i` of a kind is closed: its generation advances (R12). -/
def Dev.closeObj (d : Dev) (kind i : Nat) : Dev :=
  if kind = 2 then d.closeMbx i
  else
    let d := d.setGen kind i (nextGen (d.genOf kind i))
    if kind = 3 then (d.wb (FBR_ROUTE i 0) 31 false).wf FBR_STAT 28 16 (d.f FBR_STAT 28 16 - 1)
    else if kind = 4 then { d with trd := { d.trd with patOwner := terase d.trd.patOwner i } }
    else { d with cut := { d.cut with reserv := terase d.cut.reserv i } }

/-- CLOSE: a handle of a kind that OPEN issues. -/
def Dev.closeCmd (d : Dev) (k : Nat) : Dev :=
  let h := d.arg k 0
  let kind := hKind h
  if kind < 2 || 5 < kind then d.cmdDone k 2
  else match d.checkHandle kind h with
    | .ok => (d.closeObj kind (hIdx h)).cmdDone k 0
    | x => d.cmdDone k x.status

/-! ### The ports (R217, R218, R222) -/

/-- A command that names a channel in ARG0. -/
def Dev.onChannel (d : Dev) (k : Nat) (f : Dev → Nat → Dev) : Dev :=
  match d.checkHandle 1 (d.arg k 0) with
  | .ok => f d (hIdx (d.arg k 0))
  | x => d.cmdDone k x.status

/-- The command with code `code` is judged and executed on port `k`. DESIGN CHOICE, log entry 15. -/
def Dev.runCmd (d : Dev) (k code : Nat) : Dev :=
  if code = 0 || 9 < code then d.cmdDone k 14
  else if d.mode = .safe && !(code = 3 || code = 4 || code = 5) then d.cmdDone k 15
  else if code = 1 then d.createCmd k
  else if code = 2 then d.onChannel k (fun d c => d.startCmd k c)
  else if code = 3 then d.onChannel k (fun d c => d.stopCmd k c)
  else if code = 4 then d.onChannel k (fun d c => d.destroyCmd k c)
  else if code = 5 then d.onChannel k (fun d c => d.queryCmd k c)
  else if code = 6 then d.onChannel k (fun d c => d.migrateCmd k c)
  else if code = 7 then d.onChannel k (fun d c => d.checkpointCmd k c)
  else if code = 8 then d.openCmd k
  else d.closeCmd k

/-- A write of CUT_CMD[k] (R217): refused while the port is busy; in Hold the command waits until Hold ends (R222).
DESIGN CHOICE, log entry 15; DEDUCED, log entry 16. -/
def Dev.cutCmd (d : Dev) (k : Nat) (who : Initiator) (v : Word) : Dev :=
  if d.b (CUT_CMD_STAT k) 8 then d.refuse who (CUT_CMD k)
  else
    let d := d.wb (CUT_CMD_STAT k) 8 true
    let code := fld v 7 0
    if d.mode = .hold then { d with cut := { d.cut with waiting := tset d.cut.waiting k code } }
    else d.runCmd k code

/-- Hold has ended: the commands that waited are executed in port order (R218, R222). DESIGN CHOICE, log entry 15. -/
def Dev.holdCmds (d : Dev) : Dev :=
  let l := d.cut.waiting
  l.foldl (fun (d : Dev) (p : Nat × Nat) => d.runCmd p.1 p.2) { d with cut := { d.cut with waiting := [] } }

end Sys2Proof.Machine
end

