-- ==== Sys2Proof/Machine/Flags.lean ====
section
/-!
DEFINITION. Flags and the arithmetic that sets them (R186, R191, R192, R196, R197). Operands are naturals below 2^n.
-/
namespace Sys2Proof.Machine

/-- Flags of c0 by bit: Z 0, N 1, C 2, V 3, T 4, L 5 (R139). -/
def Ctx.flag (c : Ctx) (i : Nat) : Bool := bitOf c.flags i

def Ctx.setFlag (c : Ctx) (i : Nat) (b : Bool) : Ctx := { c with flags := setBit c.flags i b }

/-- Z and N of an n-bit result (R191). -/
def Ctx.zn (c : Ctx) (n r : Nat) : Ctx := (c.setFlag 0 (r == 0)).setFlag 1 (r.testBit (n - 1))

/-- C and V. -/
def Ctx.cv (c : Ctx) (carry ovf : Bool) : Ctx := (c.setFlag 2 carry).setFlag 3 ovf

/-- Sum with carry in: result, carry out of bit n-1, signed overflow (R191). -/
def addRes (n a b cin : Nat) : Nat × Bool × Bool :=
  let r := (a + b + cin) % 2 ^ n
  (r, 2 ^ n ≤ a + b + cin, sx n a + sx n b + cin != sx n r)

/-- Difference with borrow in: result, C = 1 when no borrow occurs, signed overflow (R191). -/
def subRes (n a b bin : Nat) : Nat × Bool × Bool :=
  let r := (a + 2 ^ n - b - bin) % 2 ^ n
  (r, b + bin ≤ a, sx n a - sx n b - bin != sx n r)

/-- The signed lesser and greater (min, max). -/
def minRes (n a b : Nat) : Nat := if sx n a ≤ sx n b then a else b
def maxRes (n a b : Nat) : Nat := if sx n a ≤ sx n b then b else a

/-- The shifts of R192: result and C, or none where rd and every flag stay. -/
inductive ShiftKind where
  | shl | shr | sar | rol | ror
  deriving DecidableEq, Repr

def shiftRes (k : ShiftKind) (n v c : Nat) : Option (Nat × Bool) :=
  match k with
  | .shl => if c = 0 then none else if c ≤ n then some (v * 2 ^ c % 2 ^ n, v.testBit (n - c)) else some (0, false)
  | .shr => if c = 0 then none else if c ≤ n then some (v / 2 ^ c, v.testBit (c - 1)) else some (0, false)
  | .sar =>
    if c = 0 then none
    else if c ≤ n then some (tc n (sx n v / 2 ^ c), v.testBit (c - 1))
    else some (if v.testBit (n - 1) then 2 ^ n - 1 else 0, v.testBit (n - 1))
  | .rol =>
    let r := c % n
    if r = 0 then none else some (v * 2 ^ r % 2 ^ n + v / 2 ^ (n - r), v.testBit (n - r))
  | .ror =>
    let r := c % n
    if r = 0 then none else some (v / 2 ^ r + v % 2 ^ r * 2 ^ (n - r), v.testBit (r - 1))

/-- Leading zeros of a 32-bit value; 32 for 0. -/
def clzRes (v : Nat) : Nat := if v = 0 then 32 else 31 - Nat.log2 v

/-- Number of ones in a 32-bit value. -/
def popcRes (v : Nat) : Nat := (List.range 32).countP (fun i => v.testBit i)

/-- The four bytes in reverse order. -/
def bswapRes (v : Nat) : Nat := leVal (leBytes 4 v).reverse

/-- The CRC step of R197 over the low `k` bits of `data`, bit 0 first. -/
def crcStep (poly : Word) : Nat → Nat → Word → Word
  | 0, _, rd => rd
  | k + 1, data, rd =>
    crcStep poly k (data / 2) (if bitOf rd 0 != (data % 2 == 1) then (rd >>> 1) ^^^ poly else rd >>> 1)

/-- Part of an accumulator for mvfa (R196): value, and V where part 3 writes it. -/
def accPart (a : BitVec 72) (part : Nat) : Nat × Option Bool :=
  let v := a.toNat
  if part = 0 then (v % 2 ^ 32, none)
  else if part = 1 then (v / 2 ^ 32 % 2 ^ 32, none)
  else if part = 2 then (tc 32 (sx 8 (v / 2 ^ 64)), none)
  else
    let top := v / 2 ^ 62
    if top = 0 || top = 1023 then (v / 2 ^ 31 % 2 ^ 32, some false)
    else (if v.testBit 71 then 0x80000000 else 0x7FFFFFFF, some true)

/-- Branch conditions of R180 by the low nibble of rows 8 and 9. -/
def Ctx.cond (c : Ctx) (code : Nat) : Bool :=
  let z := c.flag 0
  let n := c.flag 1
  let cf := c.flag 2
  let v := c.flag 3
  match code with
  | 0 => true
  | 1 => z
  | 2 => !z
  | 3 => cf
  | 4 => !cf
  | 5 => n
  | 6 => !n
  | 7 => v
  | 8 => !v
  | 9 => cf && !z
  | 10 => !cf || z
  | 11 => n == v
  | 12 => n != v
  | 13 => !z && n == v
  | 14 => z || n != v
  | _ => c.flag 4

end Sys2Proof.Machine
end

