-- ==== Sys2Proof/Machine/Windows.lean ====
section
/-!
DEFINITION. Far windows as the Cutter lays them (R133, R213), the receive rings of slots in a channel's far window (R328,
R390, R410), and the frame bridge's source queue (R486), into which the controllers and the switch offer frames.
-/
namespace Sys2Proof.Machine

/-- The far window of context `k` that holds the `n` bytes at channel address `a`: its index, whether it is read-only, and
the memory key. -/
def Dev.farWin (d : Dev) (k a n : Nat) : Option (Nat × Bool × Nat) :=
  let c := keyChan k
  (List.range 8).findSome? (fun w =>
    let i := d.desc c (17 + 4 * w)
    let base := (d.desc c (16 + 4 * w)).toNat
    if bitOf i 22 && base ≤ a && a + n ≤ base + fld i 19 0 * 4096 then
      some (w, bitOf i 23, tget 0 (d.act k).winPhys w + (a - base))
    else none)

/-- The memory key of a channel address in window `w`, when the whole range lies in it. -/
def Dev.winKey (d : Dev) (k w a n : Nat) : Option Nat :=
  let i := d.desc (keyChan k) (17 + 4 * w)
  let base := (d.desc (keyChan k) (16 + 4 * w)).toNat
  if bitOf i 22 && base ≤ a && a + n ≤ base + fld i 19 0 * 4096 then some (tget 0 (d.act k).winPhys w + (a - base)) else none

/-- The slot of a receive ring is in use. -/
def Dev.slotUsed (d : Dev) (kind idx slot : Nat) : Bool :=
  d.swc.slots.any (fun u => u.kind == kind && u.idx == idx && u.slot == slot)

/-- The first free slot of a ring of `n`, from `head` on. -/
def Dev.freeSlot (d : Dev) (kind idx n head : Nat) : Option Nat :=
  ((List.range n).map (fun i => (head + i) % n)).find? (fun s => !(d.slotUsed kind idx s))

/-- Bytes written into a slot of a channel's receive ring, and the slot held for the event that tells of it.
DEDUCED, log entry 59. -/
def Dev.fillSlot (d : Dev) (kind idx slot c w addr : Nat) (bytes : List Byte) (ev : Ev) : Dev :=
  let d := match d.winKey c w addr bytes.length with
    | some k => d.mwr k bytes
    | none => d
  { d with swc := { d.swc with slots := d.swc.slots ++
    [{ kind := kind, idx := idx, slot := slot, chan := c, src := ev.src, unit := ev.unit, seq := ev.seq, st := ev.stamp.st }] } }

/-! ### The frame bridge's source queue -/

/-- A counter of the frame bridge; 2-6 ring the drop bell. -/
def Dev.fbrCnt (d : Dev) (i : Nat) : Dev :=
  let d := d.cnt (FBR_CNT i)
  if 2 ≤ i then d.ringBit .fbr 0 else d

/-- The bridge runs (R490). -/
def Dev.fbrOn (d : Dev) : Bool := d.modeIn [.stop, .run, .hold] && d.b FBR_CTRL 0

/-- Open routes, in rising order (the listed route words whose valid bit is set). -/
def Dev.openRoutes (d : Dev) : List Nat :=
  (d.regs.filter (fun p => 0x710000 ≤ p.1 && p.1 < 0x730000 && p.1 % 0x20 == 0 && bitOf p.2 31)).map (fun p => (p.1 - 0x710000) / 0x20)

/-- A source frame enters the queue of 32 (R486, R489); the work on the first one begins with its arrival. -/
def Dev.fbrPush (d : Dev) (s : FbrSource) : Dev :=
  if 32 ≤ d.fbr.length then d.fbrCnt 6
  else { d with fbr := d.fbr ++ [s], hbr := { d.hbr with fbrAt := if d.fbr.isEmpty then d.tb.now else d.hbr.fbrAt } }

/-- An MDB frame offered to the bridge (R486): key word 0 of the record. -/
def Dev.fbrMdb (d : Dev) (n : Nat) (w0 : Word) (data : List Byte) (st : Stamp) : Dev :=
  if !d.fbrOn then d
  else
    let hit := d.openRoutes.find? (fun i =>
      let w := d.r (FBR_ROUTE i 0)
      !(bitOf w 4) && fld w 2 0 == n && bitOf w 3 == bitOf w0 29 && fld (d.r (FBR_ROUTE i 1)) 28 0 == fld w0 28 0)
    let src := fun r => ({ route := r, rgen := d.genOf 3 r, payload := data, mdb := true, st := st.st, quarter := st.quarter, gen := st.gen } : FbrSource)
    match hit with
    | some r => d.fbrPush (src r)
    | none =>
      let h := d.r FBR_DEFAULT
      if h = 0 then d.fbrCnt 2
      else if d.checkHandle 3 h = .ok then (d.fbrCnt 1).fbrPush (src (hIdx h))
      else d.fbrCnt 3

end Sys2Proof.Machine
end

