-- ==== Sys2Proof/Machine/ZelekDecode.lean ====
section
/-!
DEFINITION. The encoding of Zelek instructions (06_zelek_encoding.md): from the bytes at the program counter to an
instruction, the offset of a violation, or the news that the code window ends first. Register fields stay numbers, because
every rule of the reference chapter speaks of them by number.
-/
namespace Sys2Proof.Machine

/-- Size prefix: none, WIDE, BYTE, HALF (R171). -/
inductive ZSize where
  | none | wide | byte | half
  deriving DecidableEq, Repr

/-- A repeat prefix: interruptible or not, and its operand byte as a count or a register (R171). -/
structure ZRep where
  inter : Bool
  reg : Bool
  arg : Nat
  deriving DecidableEq, Repr

/-- Operand formats of R175. -/
inductive ZFmt where
  | n | r | rr | c | a | ri8 | ri32 | bf | m | mi | d8 | d32 | rd8 | xy | ac | ar | cr | cx
  deriving DecidableEq, Repr

/-- A decoded instruction. -/
structure ZInstr where
  op : Nat
  len : Nat
  far : Bool
  ord : Bool
  size : ZSize
  /-- register of the AT prefix -/
  at_ : Option Nat
  rep : Option ZRep
  /-- R byte, accumulator byte or select byte; third byte of AR, CR, CX and XY -/
  rb : Nat
  b3 : Nat
  /-- M byte -/
  m : Nat
  disp : Int
  imm : Nat
  deriving DecidableEq, Repr

/-- Upper and lower nibble of the R byte. -/
def ZInstr.hi (z : ZInstr) : Nat := z.rb / 16
def ZInstr.lo (z : ZInstr) : Nat := z.rb % 16
/-- WIDE is present, and the operand width n it gives. -/
def ZInstr.wide (z : ZInstr) : Bool := z.size == .wide
def ZInstr.n (z : ZInstr) : Nat := if z.wide then 64 else 32
/-- Access size of R181, in bytes. -/
def ZSize.bytes : ZSize → Nat
  | .none => 4 | .wide => 8 | .byte => 1 | .half => 2
def ZInstr.s (z : ZInstr) : Nat := z.size.bytes
/-- Mode of the M byte (R178). -/
def ZInstr.mode (z : ZInstr) : Nat := z.m / 64

/-- What the decoder answers. -/
inductive ZDecode where
  | ok (z : ZInstr)
  /-- a violation at this offset (R183) -/
  | illegal (ofs : Nat)
  /-- the next byte needed lies outside the code window (R184) -/
  | outside
  deriving DecidableEq, Repr

/-- Format of an opcode; none for a reserved one (R173, R181). -/
def zFmt (op : Nat) : Option ZFmt :=
  let lo := op % 16
  match op / 16 with
  | 0 => if 1 ≤ lo && lo ≤ 3 then some .n else if lo = 4 || lo = 5 then some .c else none
  | 1 => if lo = 0 then some .rr else if lo = 1 then some .ri8 else if lo = 2 then some .ri32
         else if lo = 3 || lo = 4 then some .a else if lo = 5 || lo = 6 then some .r else none
  | 2 => if lo ≤ 2 || lo = 4 then some .m else if lo = 3 then some .mi else none
  | 3 => some .rr
  | 4 => if lo ≤ 8 then some .ri8 else none
  | 5 => if lo ≤ 8 then some .ri32 else none
  | 6 => if lo ≤ 7 then some .rr else if lo ≤ 12 then some .ri8 else none
  | 7 => if lo ≤ 4 then some .bf else if lo ≤ 7 then some .ri8 else none
  | 8 => some .d8
  | 9 => some .d32
  | 10 => if lo = 0 then some .d32 else if lo ≤ 2 then some .r else if lo ≤ 5 then some .d8
          else if lo = 6 then some .rd8 else none
  | 11 => if lo ≤ 1 then some .xy else if lo = 4 || lo = 5 then some .ac else if lo ≤ 7 then some .ar else none
  | 12 => if lo ≤ 2 then some .cr else if lo = 3 then some .cx else none
  | 13 => if lo ≤ 1 then some .m else none
  | 14 => if lo = 0 || lo = 2 then some .n else if lo = 1 then some .rr else if lo = 3 then some .r
          else if lo = 4 then some .ri8 else none
  | _ => none

/-- Length of a format, opcode included, without d and s (R175). -/
def ZFmt.len : ZFmt → Nat
  | .n => 1 | .r => 2 | .rr => 2 | .c => 2 | .a => 2 | .ri8 => 3 | .ri32 => 6 | .bf => 4 | .m => 3 | .mi => 2
  | .d8 => 2 | .d32 => 5 | .rd8 => 3 | .xy => 3 | .ac => 2 | .ar => 3 | .cr => 3 | .cx => 3

/-- WIDE is accepted (R181). -/
def zWideOk (op : Nat) : Bool :=
  op == 0x10 || op == 0x11 || op == 0x12 || op == 0x15 || op == 0x16 || op == 0x20 || op == 0x22 || op == 0x23 ||
  (0x30 ≤ op && op ≤ 0x3A) || op == 0x3E || op == 0x3F || (0x40 ≤ op && op ≤ 0x48) || (0x50 ≤ op && op ≤ 0x58) ||
  (0x60 ≤ op && op ≤ 0x64) || (0x68 ≤ op && op ≤ 0x6C) || (0x70 ≤ op && op ≤ 0x77) || op == 0xD0 || op == 0xD1

/-- The size prefix is one that the opcode accepts; lds requires BYTE or HALF (R181). -/
def zSizeOk (op : Nat) : ZSize → Bool
  | .none => op != 0x21
  | .wide => zWideOk op
  | _ => 0x20 ≤ op && op ≤ 0x23

/-- A repeat prefix is accepted (R181). -/
def zRepOk (op : Nat) : Bool :=
  op == 0x01 || (0x10 ≤ op && op ≤ 0x14) || (0x20 ≤ op && op ≤ 0x23) || (0x30 ≤ op && op ≤ 0x77) ||
  (0xB0 ≤ op && op ≤ 0xB7) || (0xC0 ≤ op && op ≤ 0xC3)

/-- FAR as R181 has it for the opcode: accepted on ld, lds, st and sti; required on aadd and aswap, which alone take ORD. -/
def zFarOk (op : Nat) (far ord : Bool) : Bool :=
  if op = 0xD0 || op = 0xD1 then far else !ord && (!far || (0x20 ≤ op && op ≤ 0x23))

/-- What the prefixes gave: the offset of the opcode, the last code, how many codes, and what they say. -/
structure ZPre where
  i : Nat
  last : Nat
  codes : Nat
  far : Bool
  ord : Bool
  size : ZSize
  /-- offset and value of AT's operand byte -/
  at_ : Option (Nat × Nat)
  /-- code, offset and value of the repeat's operand byte -/
  rep : Option (Nat × Nat × Nat)
  deriving DecidableEq, Repr

/-- One prefix code `p` at offset `p0.i`, with its operand byte, added. -/
def ZPre.add (p0 : ZPre) (p arg : Nat) : ZPre :=
  let q := { p0 with last := p, codes := p0.codes + 1, i := p0.i + 1 }
  if p = 0xF0 then { q with far := true }
  else if p = 0xF1 then { q with ord := true }
  else if p = 0xF2 then { q with size := .wide }
  else if p = 0xF3 then { q with size := .byte }
  else if p = 0xF4 then { q with size := .half }
  else if p = 0xF5 then { q with i := p0.i + 2, at_ := some (p0.i + 1, arg) }
  else { q with i := p0.i + 2, rep := some (p, p0.i + 1, arg) }

/-- The prefix loop of R182. An offset that it refuses, or `none` inside the sum when the window ends. -/
def zPrefixes (bs : List Byte) : Nat → ZPre → Sum (Option Nat) ZPre
  | 0, p0 => .inr p0
  | fuel + 1, p0 =>
    match bs[p0.i]? with
    | none => .inl none
    | some b =>
      let p := b.toNat
      if p < 0xF0 then .inr p0
      else if p = 0xF6 || p = 0xF7 || 0xFC ≤ p || p ≤ p0.last ||
          (0xF2 ≤ p0.last && p0.last ≤ 0xF4 && p ≤ 0xF4) || (0xF8 ≤ p0.last && 0xF8 ≤ p) ||
          (0xF8 ≤ p && p0.at_.isSome) || 4 ≤ p0.codes then .inl (some p0.i)
      else zPrefixes bs fuel (p0.add p (byteAt bs (p0.i + 1)).toNat)

/-- The whole field of a BF halfword fits (R179). -/
def zFieldOk (h n : Nat) : Bool := h / 2 ^ 13 == 0 && h % 64 + h / 64 % 128 ≤ n

/-- The byte at offset `j` breaks a rule of R176 to R181, given the bytes before it; `p` are the prefixes, `f` the format. -/
def zBad (bs : List Byte) (p : ZPre) (op : Nat) (f : ZFmt) (j : Nat) : Bool :=
  let b := fun i => (byteAt bs (p.i + i)).toNat
  let x := (byteAt bs j).toNat
  let hi := x / 16
  let lo := x % 16
  let wide := p.size == .wide
  let odd := fun r => wide && r % 2 == 1
  let n := if wide then 64 else 32
  let top := if wide then 63 else 31
  if j < p.i then
    (match p.at_ with | some (o, v) => o == j && 16 ≤ v | none => false) ||
    (match p.rep with | some (c, o, v) => o == j && (c == 0xF9 || c == 0xFB) && 16 ≤ v | none => false)
  else if j = p.i then !(zSizeOk op p.size && (p.rep.isNone || zRepOk op) && zFarOk op p.far p.ord)
  else
    let i := j - p.i
    match f with
    | .r => hi != 0 || odd lo
    | .rr =>
      if 0x60 ≤ op && op ≤ 0x64 then odd hi else if op = 0xE1 then lo % 2 == 1 else odd hi || odd lo
    | .c => 8 ≤ lo
    | .a => 8 ≤ lo
    | .ri8 =>
      if i = 1 then lo != 0 || odd hi
      else if (0x68 ≤ op && op ≤ 0x6C) || (0x75 ≤ op && op ≤ 0x77) then top < x else op == 0xE4 && 31 < x
    | .ri32 => i == 1 && (lo != 0 || odd hi)
    | .bf =>
      if i = 1 then odd hi || odd lo || ((op == 0x73 || op == 0x74) && lo != 0)
      else i == 3 && !(zFieldOk (b 2 + 256 * x) n)
    | .m =>
      if i = 1 then
        (if x < 128 then p.far || op == 0x24 || op == 0xD0 || op == 0xD1 else x / 16 % 4 != 0)
      else if i = 2 then (if op = 0xD0 || op = 0xD1 then odd hi || odd lo else lo != 0 || odd hi)
      else false
    | .mi => i == 1 && (if x < 128 then p.far else x / 16 % 4 != 0)
    | .rd8 => i == 1 && lo != 0
    | .xy => i == 1 && x / 32 != 0
    | .ac => x / 2 % 4 != 0 || (op == 0xB4 && x / 8 != 0)
    | .ar =>
      if i = 1 then (op == 0xB6 && lo != 0) || (op == 0xB7 && hi != 0)
      else x / 8 != 0 || (op != 0xB6 && x / 2 % 4 != 0)
    | .cr => i == 2 && hi != 0
    | .cx => i == 2 && x / 8 != 0
    | _ => false

/-- The bytes from offset `j` on, judged in address order: the first violation, or the end of the window (R184). -/
def zJudge (bs : List Byte) (p : ZPre) (op : Nat) (f : ZFmt) : Nat → Nat → Option ZDecode
  | 0, _ => none
  | k + 1, j =>
    if bs.length ≤ j then some .outside
    else if zBad bs p op f j then some (.illegal j)
    else zJudge bs p op f k (j + 1)

/-- The fields of an accepted instruction. -/
def zFields (bs : List Byte) (p : ZPre) (op : Nat) (f : ZFmt) (len : Nat) : ZInstr :=
  let b := fun i => (byteAt bs (p.i + i)).toNat
  let m := if f == .m || f == .mi then b 1 else 0
  let d := if m < 128 then 0 else if m < 192 then 1 else 4
  let dAt := match f with | .m => 3 | .mi => 2 | .rd8 => 2 | _ => 1
  let disp : Int := match f with
    | .m => if d = 0 then 0 else sx (8 * d) (leAt bs (p.i + dAt) d)
    | .mi => if d = 0 then 0 else sx (8 * d) (leAt bs (p.i + dAt) d)
    | .d8 => sx 8 (b 1)
    | .d32 => sx 32 (leAt bs (p.i + 1) 4)
    | .rd8 => sx 8 (b 2)
    | _ => 0
  let imm := match f with
    | .ri8 => b 2
    | .ri32 => leAt bs (p.i + 2) (if op = 0x12 && p.size == .wide then 8 else 4)
    | .bf => leAt bs (p.i + 2) 2
    | .mi => leAt bs (p.i + 2 + d) p.size.bytes
    | _ => 0
  { op := op, len := len, far := p.far, ord := p.ord, size := p.size, at_ := p.at_.map (·.2),
    rep := p.rep.map (fun r => { inter := 0xFA ≤ r.1, reg := r.1 == 0xF9 || r.1 == 0xFB, arg := r.2.2 }),
    rb := if f == .m then b 2 else if f == .mi || f == .d8 || f == .d32 || f == .n then 0 else b 1,
    b3 := if f == .xy || f == .ar || f == .cr || f == .cx then b 2 else 0, m := m, disp := disp, imm := imm }

/-- The decoder (R169-R184): `bs` are the bytes from the program counter to the end of the code window.
DEDUCED, log entry 46. -/
def zDecode (bs : List Byte) : ZDecode :=
  match zPrefixes bs 6 { i := 0, last := 0, codes := 0, far := false, ord := false, size := .none, at_ := none, rep := none } with
  | .inl (some o) => .illegal o
  | .inl none => .outside
  | .inr p =>
    match bs[p.i]? with
    | none => .outside
    | some b =>
      let op := b.toNat
      match zFmt op with
      | none => .illegal p.i
      | some f =>
        let hasM := f == .m || f == .mi
        if hasM && bs.length ≤ p.i + 1 then .outside
        else
          let mode := (byteAt bs (p.i + 1)).toNat / 64
          let d := if !hasM || mode < 2 then 0 else if mode = 2 then 1 else 4
          let len := p.i + f.len + d + (if f == .mi then p.size.bytes else 0) +
            (if op = 0x12 && p.size == .wide then 4 else 0)
          if 15 < len then .illegal 15
          else match zJudge bs p op f len 0 with
            | some r => r
            | none => .ok (zFields bs p op f len)

end Sys2Proof.Machine
end

