-- ==== Sys2Proof/Machine/Operands.lean ====
section
/-!
DEFINITION. Operands of Zelek instructions: registers, pairs and address registers (R138, R139, R142-R145), which registers
an instruction reads and writes (R144), the engine address map with its checks (R133-R136), and engine-private control.
-/
namespace Sys2Proof.Machine

/-! ### Registers -/

def Dev.ctx (d : Dev) (k : Nat) : Ctx := (d.act k).ctx

def Dev.setCtx (d : Dev) (k : Nat) (f : Ctx → Ctx) : Dev := d.setAct k (fun a => { a with ctx := f a.ctx })

/-- w register `i`. -/
def Ctx.wr (c : Ctx) (i : Nat) : Word := tget 0 c.w i

/-- w register `i` written: a poison mark goes (R145). -/
def Ctx.setW (c : Ctx) (i : Nat) (v : Word) : Ctx :=
  { c with w := tset c.w i v, poison := c.poison.filter (· != i) }

/-- An operand of 32 bits, or of the pair dk named by the value 2k (R177). -/
def Ctx.opnd (c : Ctx) (wide : Bool) (i : Nat) : Nat :=
  if wide then (c.wr i).toNat + 2 ^ 32 * (c.wr (i + 1)).toNat else (c.wr i).toNat

/-- A register or pair written. -/
def Ctx.setOpnd (c : Ctx) (wide : Bool) (i v : Nat) : Ctx :=
  if wide then (c.setW i (w32 v)).setW (i + 1) (w32 (v / 2 ^ 32)) else c.setW i (w32 v)

/-- x0-x3 are codes 0-3, y0-y3 codes 4-7. -/
def Ctx.arg (c : Ctx) (i : Nat) : Nat := (tget 0 c.ar i).toNat

def Ctx.setAr (c : Ctx) (i v : Nat) : Ctx := { c with ar := tset c.ar i (BitVec.ofNat 16 v) }

def Ctx.acc (c : Ctx) (j : Nat) : BitVec 72 := if j = 0 then c.a0 else c.a1

def Ctx.setAcc (c : Ctx) (j : Nat) (v : BitVec 72) : Ctx := if j = 0 then { c with a0 := v } else { c with a1 := v }

/-- A local load of `v` into a register or pair: written after the second following instruction (R142). The count includes
the end of the load itself. -/
def Ctx.load (c : Ctx) (wide : Bool) (i v : Nat) : Ctx :=
  let one : DelaySlot := { dest := i, value := w32 v, left := 3 }
  { c with delay := c.delay ++ (if wide then [one, { one with dest := i + 1, value := w32 (v / 2 ^ 32) }] else [one]) }

/-- An instruction has issued: open load-delay slots and modulo writes come one nearer (R138, R142, R143). -/
def Ctx.age (c : Ctx) : Ctx :=
  let due : List DelaySlot := c.delay.filter (fun (s : DelaySlot) => s.left ≤ 1)
  let wait := (c.delay.filter (fun (s : DelaySlot) => 1 < s.left)).map (fun (s : DelaySlot) => { s with left := s.left - 1 })
  let c := due.foldl (fun (c : Ctx) (s : DelaySlot) => c.setW s.dest s.value) { c with delay := wait }
  let mods : List ModWrite := c.modW.filter (fun (m : ModWrite) => m.left ≤ 1)
  { c with
    mods := mods.foldl (fun (t : Tab Word) (m : ModWrite) => tset t m.idx m.value) c.mods
    modW := (c.modW.filter (fun (m : ModWrite) => 1 < m.left)).map (fun (m : ModWrite) => { m with left := m.left - 1 }) }

/-! ### Which registers an instruction names (R144, R145) -/

def pairOf (wide : Bool) (i : Nat) : List Nat := if wide then [i, i + 1] else [i]

/-- The base register of a memory operand in modes 2 and 3. -/
def ZInstr.base (z : ZInstr) : List Nat := if 2 ≤ z.mode then [z.m % 16] else []

/-- w registers that the prefixes read. -/
def ZInstr.preReads (z : ZInstr) : List Nat :=
  (match z.at_ with | some r => [r] | none => []) ++
    (match z.rep with | some r => if r.reg then [r.arg] else [] | none => [])

/-- w registers that the instruction itself reads. -/
def ZInstr.reads (z : ZInstr) : List Nat :=
  let op := z.op
  let w := pairOf z.wide
  if op = 0x02 then [15]
  else if op = 0x05 || op = 0x13 then [z.hi]
  else if op = 0x10 || op = 0x39 || op = 0x3A then w z.lo
  else if op = 0x15 then w z.lo ++ [14]
  else if op = 0x16 then [14]
  else if op = 0x20 || op = 0x21 || op = 0x23 || op = 0x24 then z.base
  else if op = 0x22 then z.base ++ w z.hi
  else if 0x30 ≤ op && op ≤ 0x3F then w z.hi ++ w z.lo
  else if 0x40 ≤ op && op ≤ 0x58 then w z.hi
  else if 0x60 ≤ op && op ≤ 0x64 then w z.hi ++ [z.lo]
  else if 0x65 ≤ op && op ≤ 0x67 then [z.lo]
  else if 0x68 ≤ op && op ≤ 0x6C then w z.hi
  else if op = 0x70 || op = 0x71 then w z.lo
  else if op = 0x72 then w z.hi ++ w z.lo
  else if 0x73 ≤ op && op ≤ 0x77 then w z.hi
  else if op = 0xA1 || op = 0xA2 then [z.lo]
  else if op = 0xA6 then [z.hi]
  else if op = 0xB2 || op = 0xB3 then [z.hi, z.lo]
  else if op = 0xB7 then [z.lo]
  else if 0xC0 ≤ op && op ≤ 0xC2 then [z.hi, z.lo, z.b3 % 16]
  else if op = 0xC3 then [z.hi, z.lo]
  else if op = 0xD0 || op = 0xD1 then z.base ++ w z.lo
  else if op = 0xE1 then [z.hi, z.lo, z.lo + 1]
  else if op = 0xE4 then [z.hi]
  else []

/-- w registers that the instruction writes. -/
def ZInstr.writes (z : ZInstr) : List Nat :=
  let op := z.op
  let w := pairOf z.wide
  if op = 0x04 || op = 0x14 || op = 0x24 || op = 0x21 then [z.hi]
  else if (0x10 ≤ op && op ≤ 0x12) || op = 0x20 then w z.hi
  else if op = 0x15 then [14]
  else if op = 0x16 then w z.lo ++ [14]
  else if 0x30 ≤ op && op ≤ 0x58 then (if op % 16 = 7 || op % 16 = 8 then [] else w z.hi)
  else if 0x60 ≤ op && op ≤ 0x77 then (if op = 0x75 then [] else w z.hi)
  else if op = 0xA0 || op = 0xA1 then [15]
  else if op = 0xA6 || op = 0xB6 || (0xC0 ≤ op && op ≤ 0xC3) then [z.hi]
  else if op = 0xD0 || op = 0xD1 then w z.hi
  else if op = 0xE0 then [0, 1, 2, 3]
  else if op = 0xE3 then [z.lo]
  else []

/-! ### The address map -/

/-- The block of a BAR0 offset by its register-grant bit (R136, R532). -/
def regBlock (o : Nat) : Option Nat :=
  if o < 0xA00000 then some (o / 0x100000)
  else if o < 0xC00000 then some 10 else if o < 0xE00000 then some 11 else if o < 0xF00000 then some 12
  else if o < 0x1000000 then some 13 else if o < 0x1100000 then some 14 else if o < 0x1200000 then some 15
  else if o < 0x1300000 then some 16 else if o < 0x1400000 then some 17 else if o < 0x1460000 then some 18 else none

/-- Where an engine address leads. -/
inductive ZMem where
  /-- X or Y, by memory key -/
  | local_ (key : Nat)
  /-- engine-private control, by offset -/
  | priv (ofs : Nat)
  /-- bank or external memory, by memory key -/
  | far (region : Region) (key : Nat)
  /-- a device register, by BAR0 offset -/
  | reg (ofs : Nat)
  deriving DecidableEq, Repr

/-- An exception in the making: cause and engine address. -/
abbrev ZFault := Nat × Option Nat

/-- Offsets of engine-private control that its table lists. -/
def epListed (o : Nat) : Bool := o < 0x10 || (0x20 ≤ o && o < 0x80)

/-- The access of `s` bytes at engine address `a` by context `k`, with or without FAR: R133-R136. -/
def Dev.zAddr (d : Dev) (k : Nat) (far : Bool) (a s : Nat) (write : Bool) : Sum ZFault ZMem :=
  let c := keyChan k
  let ac := d.act k
  let addr : Sum ZFault ZMem := .inl (2, some a)
  let aligned := fun (m : ZMem) => if a % s = 0 then Sum.inr m else Sum.inl (3, some a)
  if far then
    if (0x20000000 ≤ a && a < 0x21000000) || (0x40000000 ≤ a && a < 0x80000000) then
      match d.farWin k a s with
      | none => addr
      | some (_, ro, key) =>
        if ro && write then addr
        else aligned (.far (if (bankOfKey key).isSome then .bank else .ext) key)
    else if 0x80000000 ≤ a && a < 0x82000000 then
      match regBlock (a - 0x80000000) with
      | none => addr
      | some b =>
        if !(d.granted c b) then addr else if s = 4 then aligned (.reg (a - 0x80000000)) else .inl (3, some a)
    else addr
  else if 0x10000000 ≤ a && a < 0x10004000 then
    if a - 0x10000000 + s ≤ fld (d.desc c 4) 15 0 then aligned (.local_ (keyX ac.eng + ac.xBase + (a - 0x10000000))) else addr
  else if 0x10010000 ≤ a && a < 0x10014000 then
    if a - 0x10010000 + s ≤ fld (d.desc c 4) 31 16 then aligned (.local_ (keyY ac.eng + ac.yBase + (a - 0x10010000))) else addr
  else if 0xF0000000 ≤ a && a < 0xF0001000 then
    let o := a - 0xF0000000
    if epListed o && epListed (o + s - 1) then aligned (.priv o) else addr
  else addr

/-- Engine address of an address register's access: mode 0 is X, mode 1 is Y (R178). -/
def arAddr (mode p : Nat) : Nat := (if mode = 0 then 0x10000000 else 0x10010000) + p

/-- The access through an address register with value `p` (R138): bits [15:14] zero, then as any local access. -/
def Dev.arAccess (d : Dev) (k mode p s : Nat) (write : Bool) : Sum ZFault ZMem :=
  if 0x4000 ≤ p then .inl (2, some (arAddr mode p)) else d.zAddr k false (arAddr mode p) s write

/-- The post-modify of address register `i` (0-3 x, 4-7 y) by `step` bytes; a step of 0 leaves it unchanged (R138, R178). -/
def Ctx.post (c : Ctx) (i : Nat) (step : Int) : Ctx :=
  let m := tget 0 c.mods i
  let p := c.arg i
  if step = 0 then c
  else if bitOf m 31 then
    let b := fld m 13 0
    let l := fld m 29 16
    if l = 0 then c else c.setAr i (b + (((p : Int) + step - b) % (l : Int)).toNat)
  else c.setAr i (tc 16 ((p : Int) + step))

/-- Address-register number of an M byte in modes 0 and 1. -/
def ZInstr.arNum (z : ZInstr) : Nat := 4 * z.mode + z.m / 16 % 4

/-- The engine address of a memory operand, and the access it makes. -/
def Dev.zOperand (d : Dev) (k : Nat) (z : ZInstr) (write : Bool) : Sum ZFault ZMem :=
  if z.mode < 2 then d.arAccess k z.mode ((d.ctx k).arg z.arNum) z.s write
  else d.zAddr k z.far ((d.ctx k).wr (z.m % 16) + BitVec.ofInt 32 z.disp).toNat z.s write

/-- The post-modify of a memory operand in modes 0 and 1 (R178). -/
def Ctx.postOperand (c : Ctx) (z : ZInstr) : Ctx :=
  if z.mode < 2 then c.post z.arNum (sx 4 (z.m % 16) * z.s) else c

/-! ### Engine-private control -/

/-- Visible events of a context. -/
def Dev.visibleOf (d : Dev) (k : Nat) : List Ev :=
  ((d.eng (d.act k).eng).eventsOf k).filter (fun v => v.visible || reached d.tb.st (d.visAt v))

/-- A word of engine-private control as context `k` reads it. -/
def Dev.epWord (d : Dev) (k o : Nat) : Word :=
  let c := keyChan k
  let e := (d.act k).eng
  if o = 0 then mkHandle 1 (d.genOf 1 c) c
  else if o = 4 then w32 (e + 256 * (e / 8))
  else if o = 8 then w32 (d.visibleOf k).length
  else if o = 0xC then w32 (d.chan c).lateCount
  else if o < 0x40 then
    let i := (o - 0x20) / 4
    match ((d.ctx k).modW.filter (fun m => m.idx == i)).getLast? with
    | some m => m.value
    | none => tget 0 (d.ctx k).mods i
  else
    let w := (o - 0x40) / 8
    let i := d.desc c (17 + 4 * w)
    if o % 8 = 0 then d.desc c (16 + 4 * w) else w32 (fld i 19 0 + 2 ^ 31 * fld i 22 22)

/-- Bytes of engine-private control. -/
def Dev.epRead (d : Dev) (k o n : Nat) : Nat :=
  let bytes := leBytes 4 (d.epWord k (o / 4 * 4)).toNat ++ leBytes 4 (d.epWord k (o / 4 * 4 + 4)).toNat
  leAt bytes (o % 4) n

/-- A word of engine-private control written: only the modulo registers take it (R188). -/
def Dev.epSet (d : Dev) (k o : Nat) (v : Word) : Dev :=
  if 0x20 ≤ o && o < 0x40 then
    d.setCtx k (fun c => { c with modW := c.modW ++ [{ idx := (o - 0x20) / 4, value := v &&& 0xBFFF3FFF, left := 3 }] })
  else d

/-- A store of `n` bytes to engine-private control. -/
def Dev.epWrite (d : Dev) (k o n v : Nat) : Dev :=
  if n = 8 then (d.epSet k o (w32 v)).epSet k (o + 4) (w32 (v / 2 ^ 32))
  else
    let old := leBytes 4 (d.epWord k (o / 4 * 4)).toNat
    d.epSet k (o / 4 * 4) (w32 (leVal (overwrite old (o % 4) (leBytes n v))))

end Sys2Proof.Machine
end

