-- ==== Sys2Proof/Machine/MdbOps.lean ====
section
/-!
DEFINITION. The multi-drop bus controllers (spec/14_multidrop_bus.md): records, transmit requests and their ends,
arbitration, error counting, deliveries, and the time-triggered schedule.
-/
namespace Sys2Proof.Machine

/-! ### Frame records (R400, R401) -/

/-- The data length of a record. -/
def canLen (w1 : Word) : Nat :=
  let c := fld w1 3 0
  if c ≤ 8 then c
  else if !(bitOf w1 4) then 8
  else if c = 9 then 12 else if c = 10 then 16 else if c = 11 then 20 else if c = 12 then 24 else if c = 13 then 32
  else if c = 14 then 48 else 64

/-- A frame off the bus has as many data bytes as its control words say, no identifier extension in base format, and what is 0
in every record (the frame record). -/
def canShape (f : CanRx) : Bool :=
  f.data.length == (if bitOf f.w0 30 then 0 else canLen f.w1) && !(bitOf f.w0 31) && fld f.w1 31 7 == 0 &&
  (bitOf f.w0 29 || fld f.w0 17 0 == 0) && !(bitOf f.w0 30 && bitOf f.w1 4)

/-- A transmit record that the controller takes (R401). -/
def Dev.recOk (d : Dev) (n : Nat) (w0 w1 : Word) : Bool :=
  let fdf := bitOf w1 4
  let brs := bitOf w1 5
  !(bitOf w0 31) && !(fld w0 17 0 != 0 && !(bitOf w0 29)) && fld w1 31 6 == 0 && !(fdf && !(d.b (MDB_CTRL n) 3)) &&
  !(brs && (!fdf || !(d.b (MDB_CTRL n) 4))) && !(bitOf w0 30 && fdf)

/-- The bits of a frame's arbitration field as a number: the lower wins (R404). -/
def arbKey (w0 : Word) : Nat :=
  let base := fld w0 28 18 * 2 ^ 21
  let rtr := b2n (bitOf w0 30)
  if bitOf w0 29 then base + 2 ^ 20 + 2 ^ 19 + fld w0 17 0 * 2 + rtr else base + rtr * 2 ^ 20

/-! ### Buffers -/

def bufCfg (n b : Nat) : Nat := MDB_BUF n b 0
def bufStat (n b : Nat) : Nat := MDB_BUF n b 1

/-- The record of a buffer. -/
def Dev.bufRec (d : Dev) (n b : Nat) : List Word := (List.range 18).map (fun i => d.r (MDB_BUF n b (i + 2)))

def Dev.bufRecSet (d : Dev) (n b : Nat) (l : List Word) : Dev :=
  d.each (List.range 18) (fun d i => d.w (MDB_BUF n b (i + 2)) (l.getD i 0))

/-- The operation that applies (R399): 0 Normal, 1 Restricted, 2 Monitor. -/
def Dev.opEff (d : Dev) (n : Nat) : Nat :=
  if d.mode = .spare then 2 else if d.mode = .safe then 1 else d.f (MDB_CTRL n) 2 1

/-- Data-path state (R397). -/
def Dev.canState (d : Dev) (n : Nat) : Nat := d.f (MDB_STAT n) 2 0

def Dev.canStateSet (d : Dev) (n s : Nat) : Dev := d.wf (MDB_STAT n) 2 0 s

/-- Quarter-nanoseconds by which a CAN clock edge (12.5 ns) lies before the instant `back` quarter-nanoseconds ago (R395, R408).
DESIGN CHOICE, log entry 93. -/
def Dev.canPast (d : Dev) (back : Nat) : Nat := (4 * d.tb.now - back + 50 - Config.canPhase % 50) % 50

/-- The short-time stamp, on the CAN clock, of what happened `back` quarter-nanoseconds ago (R408).
DESIGN CHOICE, log entry 93. -/
def Dev.canStamp (d : Dev) (back : Nat) : Stamp := d.stampBack (back + d.canPast back)

/-- A time-triggered level rises (R416). DEDUCED, log entry 36. -/
def Dev.ttRise (d : Dev) (n l : Nat) : Dev :=
  if d.f (MDB_TT_STAT n) 1 0 < l then (d.wf (MDB_TT_STAT n) 1 0 l).ringBit (.mdb n) 7 else d

/-- An MDB event of controller `n` for channel `c` (R410, R411): it carries the overrun of a frame for that channel that any
controller has dropped. -/
def Dev.mdbEvent (d : Dev) (n c : Nat) (st : Stamp) (word : Word) : Dev :=
  let seq := wrapAdd 16 (d.ctl n).evSeq 1
  let lost := (List.range 8).any (fun m => tget false (d.ctl m).evLost c)
  let d := if lost then d.each (List.range 8) (fun d m => d.setCtl m (fun x => { x with evLost := terase x.evLost c })) else d
  let d := d.setCtl n (fun x => { x with evSeq := seq })
  d.post c { mkEv 6 n st seq word with overrun := lost }

/-- A request of buffer `b` ends with a result (R397, R403, R411): 1 sent, 2 lost, 3 error or missed window, 4 aborted,
5 replaced, 6 bus-off, 7 refused. -/
def Dev.reqEnd (d : Dev) (n b result : Nat) : Dev :=
  let s := bufStat n b
  let d := (d.wf s 1 0 0).wf s 5 3 result
  let d := d.incf s 15 8 1
  let d := if result = 1 then d.cnt (MDB_CNT n 1) else d
  let d := d.ringBit (.mdb n) (if result = 1 then 3 else 4)
  let c := d.r (bufCfg n b)
  if bitOf c 7 && fld c 19 18 = 1 then
    d.mdbEvent n (fld c 17 9) d.stampNow (w32 (b + 32 * result + 2 ^ 31))
  else d

/-- The controller may send at all (R27, R397, R399). DEDUCED, log entry 36; DEDUCED, log entry 83. -/
def Dev.canMay (d : Dev) (n : Nat) : Bool :=
  d.b (MDB_CTRL n) 0 && (d.canState n = 2 || d.canState n = 3) && d.opEff n = 0 && d.modeIn [.stop, .run, .hold]

/-- Buffer `b` may be offered: pending, its owner may send in this mode, its TX window is not over, and a trigger has released
it where it waits for one (R399, R415, R416). -/
def Dev.bufReady (d : Dev) (n b : Nat) : Bool :=
  let c := d.r (bufCfg n b)
  let byTrig := d.b (MDB_CTRL n) 8 && bitOf c 8
  let inTime := match (d.ctl n).window with
    | some (w, dl) => w != b || decide (4 * d.stLong < dl)
    | none => true
  !(bitOf c 0) && d.b (bufStat n b) 0 && (fld c 19 18 != 1 || d.mode == .run) && inTime &&
  (!byTrig || (((d.ctl n).arb.contains b) && d.f (MDB_TT_STAT n) 1 0 < 2))

/-- Word 0 of the reference message: the identifier with the priority in its three lowest bits (R413). -/
def Dev.refId (d : Dev) (n : Nat) : Word :=
  let id := d.r (MDB_TT_REFID n) &&& 0x3FFFFFFF
  let p := d.f (MDB_TT_CTRL n) 3 1
  if bitOf id 29 then setFld id 2 0 p else setFld (id &&& 0xFFFC0000) 20 18 p

/-- The next cycle count (R413), in the six bits that the message and the register give it. -/
def Dev.refCycle (d : Dev) (n : Nat) : Nat :=
  (d.f (MDB_TT_STAT n) 8 3 + 1) % 2 ^ (d.f (MDB_TT_CTRL n) 8 6) % 64

/-- Words of the reference message (R413) whose SOF lies `ahead` quarter-nanoseconds after the present tick; the
Master_Ref_Mark takes the TAI of the Ref_Mark, or the short time. DEDUCED, log entry 36. -/
def Dev.refRec (d : Dev) (n : Nat) (ahead : Int) : List Word :=
  let ntu := d.f (MDB_TT_CYCLE n) 31 16
  let ns := ((4 * (if d.b (MDB_TT_CTRL n) 5 then d.taiNs else d.stLong) : Int) + ahead).toNat / 4
  let mark := if ntu = 0 then 0 else ns / ntu % 65536
  if d.b (MDB_TT_CTRL n) 4 then [d.refId n, 4, w32 (d.refCycle n + 65536 * mark)]
  else [d.refId n, 1, w32 (d.refCycle n)]

/-- The frame offered to the bus: the one that would win arbitration, ties to the lower buffer; 32 is the reference
message (R404, R414). DESIGN CHOICE, log entry 35. -/
def Dev.canPick (d : Dev) (n : Nat) : Option Nat :=
  let l := (List.range 32).filter (fun b => d.bufReady n b)
  let best := l.foldl (fun (o : Option Nat) b =>
    match o with
    | none => some b
    | some a => if arbKey (d.r (MDB_BUF n b 2)) < arbKey (d.r (MDB_BUF n a 2)) then some b else some a) none
  if (d.ctl n).refPend.isSome && d.f (MDB_TT_STAT n) 1 0 ≠ 3 then
    match best with
    | none => some 32
    | some a => if arbKey (d.refId n) < arbKey (d.r (MDB_BUF n a 2)) then some 32 else some a
  else best

/-- The attempt offered in this tick is taken back, before its SOF. -/
def Dev.unoffer (d : Dev) (n : Nat) : Dev :=
  if (d.ctl n).sending.isSome && (d.ctl n).startAt = d.tb.now then
    { d.setCtl n (fun x => { x with sending := none, abortSending := false }) with
      obs := d.obs.dropWhile (fun o => match o with | .canFrame m _ _ => m == n | _ => false) }
  else d

/-- The reference message is offered: its SOF is the first CAN clock at or after the boundary, or at or after the present tick
when the bus was taken at the boundary (R414). A CAN clock after a boundary within the present tick may lie before its end. -/
def Dev.refStart (d : Dev) (n : Nat) : Dev :=
  let t := (d.ctl n).refPend.getD (4 * d.stLong)
  let back := if 4 * d.stLong - t < 16 then 4 * d.stLong - t else 0
  let wait := (50 - d.canPast back) % 50
  let sof := 4 * d.stLong - back + wait
  let d := d.setCtl n (fun x => { x with refSof := (t, sof) })
  let d := d.w (MDB_TT_SLIP n) (w32 ((sof - t) / 4))
  let nbt := d.r (MDB_NBT n)
  let bit := (fld nbt 7 0 + 1) * (3 + fld nbt 16 8 + fld nbt 23 17) * 50
  let d := if bit < sof - t then d.ringBit (.mdb n) 8 else d
  d.emit (.canFrame n 32 (d.refRec n ((wait : Int) - back)))

/-- The controller offers the frame that would win arbitration, when it sends none: the bus is taken as idle then, and the
frame's SOF is the next CAN clock, so a frame that becomes ready in the same tick still takes its part.
DESIGN CHOICE, log entry 35. -/
def Dev.canOffer (d : Dev) (n : Nat) : Dev :=
  let d := d.unoffer n
  if (d.ctl n).sending.isSome || !(d.canMay n) then d
  else match d.canPick n with
    | none => d
    | some b =>
      let d := d.setCtl n (fun x => { x with sending := some b, abortSending := false, startAt := d.tb.now })
      if b = 32 then d.refStart n else d.emit (.canFrame n b (d.bufRec n b))

/-- No trigger holds buffer `b` released any more. -/
def Dev.unarm (d : Dev) (n b : Nat) : Dev :=
  d.setCtl n (fun x =>
    { x with arb := x.arb.filter (· != b)
             once := x.once.filter (· != b)
             window := match x.window with | some (w, dl) => if w = b then none else some (w, dl) | none => none })

/-- A record is delivered into a buffer that a channel or the frame bridge owns (R403). What a trigger or an abort did to the
buffer in the same clock comes after the delivery (R406). -/
def Dev.canDeliver (d : Dev) (n b : Nat) (rec_ : List Word) : Dev :=
  let d := if (d.ctl n).sending = some b then d.unoffer n else d
  let aborts := tget 0 (d.ctl n).abortAt b = d.tb.now + 1
  if (d.ctl n).sending = some b then
    let full := (tfind (d.ctl n).shadow b).isSome
    let d := if full then d.cnt (MDB_CNT n 6) else d
    d.setCtl n (fun x => { x with shadow := if aborts then terase x.shadow b else tset x.shadow b rec_ })
  else
    let byTrigger := tget 0 (d.ctl n).trigAt b = d.tb.now + 1
    let d := if d.b (bufStat n b) 0 && !byTrigger then (d.reqEnd n b 5).cnt (MDB_CNT n 6) else d
    let d := ((d.bufRecSet n b rec_).incf (bufStat n b) 15 8 1).wb (bufStat n b) 0 true
    (if aborts then (d.unarm n b).reqEnd n b 4 else d).canOffer n

/-- The shadow of a buffer becomes pending (R403). -/
def Dev.shadowUp (d : Dev) (n b : Nat) : Dev :=
  match tfind (d.ctl n).shadow b with
  | none => d
  | some r =>
    let d := d.setCtl n (fun x => { x with shadow := terase x.shadow b })
    ((d.bufRecSet n b r).incf (bufStat n b) 15 8 1).wb (bufStat n b) 0 true

/-- The attempt of buffer `b` has ended without success (R403, R404, R406): an abort ends the request, a shadow replaces it, a
request that is not retried ends with `code`, and any other waits for its next attempt. -/
def Dev.txFailed (d : Dev) (n b code : Nat) (abort once : Bool) : Dev :=
  if !(d.b (bufStat n b) 0) then d
  else if abort then ((d.unarm n b).reqEnd n b 4).shadowUp n b
  else if (tfind (d.ctl n).shadow b).isSome then (d.reqEnd n b 5).shadowUp n b
  else if once then (d.unarm n b).reqEnd n b code
  else d

/-- The controller stops sending where it may not send any more (R397, R399). The attempt has failed; its request waits.
DEDUCED, log entry 83. -/
def Dev.canCut (d : Dev) (n : Nat) : Dev :=
  match (d.ctl n).sending with
  | none => d
  | some b =>
    if d.canMay n then d
    else
      let abort := (d.ctl n).abortSending
      let d := d.setCtl n (fun x => { x with sending := none, abortSending := false })
      if b = 32 then d else d.txFailed n b 3 abort false

/-- Every pending request ends with a result, of the buffers that `p` selects, and a frame in its shadow after it. -/
def Dev.endPending (d : Dev) (n result : Nat) (p : Nat → Bool) : Dev :=
  d.each ((List.range 32).filter p) (fun d b =>
    let d := d.setCtl n (fun x => { x with sending := if x.sending = some b then none else x.sending })
    let d := if d.b (bufStat n b) 0 then (d.unarm n b).reqEnd n b result else d
    if (tfind (d.ctl n).shadow b).isSome then (d.shadowUp n b).reqEnd n b result else d)

/-! ### Error counting (R397, R398; ISO 11898-1:2015) -/

/-- The error counters as the register shows them. -/
def Dev.errShow (d : Dev) (n : Nat) : Dev :=
  (d.wf (MDB_ERR n) 7 0 (Nat.min 255 (d.ctl n).txErr)).wf (MDB_ERR n) 14 8 (Nat.min 127 (d.ctl n).rxErr)

/-- Entry to BUS_OFF (R398). DEDUCED, log entry 83. -/
def Dev.busOff (d : Dev) (n : Nat) : Dev :=
  let d := (d.canStateSet n 4).ringBit (.mdb n) 6
  let d := d.endPending n 6 (fun _ => true)
  let d := d.setCtl n (fun x => { x with sending := none, window := none })
  if d.b (MDB_CTRL n) 6 then d.canStateSet n 5 else d

/-- The state follows the counters. -/
def Dev.errState (d : Dev) (n : Nat) : Dev :=
  let d := d.errShow n
  let s := d.canState n
  if s ≠ 2 && s ≠ 3 then d
  else if 255 < (d.ctl n).txErr then d.busOff n
  else if 127 < (d.ctl n).txErr || 127 < (d.ctl n).rxErr then
    if s = 3 then d else (d.canStateSet n 3).ringBit (.mdb n) 5
  else d.canStateSet n 2

/-- The last error is recorded. -/
def Dev.lecSet (d : Dev) (n code : Nat) (dataPhase : Bool) : Dev :=
  if dataPhase then d.wf (MDB_ERR n) 21 19 code else d.wf (MDB_ERR n) 18 16 code

/-- What follows an error on the bus (R399): in Normal operation an error flag; in Restricted operation no flag, and the
controller waits for bus idle; in Monitor nothing is driven. DEDUCED, log entry 93. -/
def Dev.busErr (d : Dev) (n : Nat) : Dev :=
  if d.opEff n = 0 then d.emit (.canError n)
  else if d.opEff n = 1 && (d.canState n = 2 || d.canState n = 3) then d.canStateSet n 1
  else d

/-- A transmission failed: TEC + 8, but for an acknowledgement error of an error-passive transmitter. -/
def Dev.txError (d : Dev) (n code : Nat) (dataPhase : Bool) : Dev :=
  let keep := d.canState n = 3 && code = 3
  let d := (d.lecSet n code dataPhase).busErr n
  (d.setCtl n (fun x => { x with txErr := if keep then x.txErr else x.txErr + 8 })).errState n

/-- A frame was received in error: REC + 1. -/
def Dev.rxError (d : Dev) (n code : Nat) (dataPhase : Bool) : Dev :=
  let d := ((d.lecSet n code dataPhase).setCtl n (fun x => { x with rxErr := x.rxErr + 1 })).errState n
  d.busErr n

/-- A frame was sent: TEC − 1. -/
def Dev.txGood (d : Dev) (n : Nat) : Dev :=
  (d.setCtl n (fun x => { x with txErr := x.txErr - 1 })).errState n

/-- A frame was received: REC − 1, and a value in 119-127 when it stood above 127; which one is free.
DEDUCED, log entry 36. -/
def Dev.rxGood (d : Dev) (n : Nat) : Dev :=
  if 127 < (d.ctl n).rxErr then
    let (v, d) := d.free
    (d.setCtl n (fun x => { x with rxErr := 119 + v.toNat % 9 })).errState n
  else (d.setCtl n (fun x => { x with rxErr := x.rxErr - 1 })).errState n

/-! ### Control -/

/-- A write of MDB_CTRL (R397, R398, R416): enabling starts to integrate, disabling turns the controller off. The
time-triggered cycle begins when tt_en is set. DEDUCED, log entry 33; DEDUCED, log entry 83. -/
def Dev.mdbCtrl (d : Dev) (n : Nat) (v : Word) : Dev :=
  let old := d.r (MDB_CTRL n)
  let d := d.w (MDB_CTRL n) (v &&& 0x7FF)
  let d :=
    if bitOf v 0 && !(bitOf old 0) then
      ((d.canStateSet n 1).setCtl n (fun x => { x with txErr := 0, rxErr := 0 })).errShow n
    else if !(bitOf v 0) then (d.canStateSet n 0).setCtl n (fun x => { x with window := none })
    else d
  let d :=
    if bitOf v 8 && !(bitOf old 8) then
      (d.wf (MDB_TT_STAT n) 1 0 0).setCtl n (fun x =>
        { x with refMark := some (4 * d.stLong), fired := [], refPend := none, arb := [], once := [], window := none,
                 rxSeen := [], refSeen := 4 * d.stLong })
    else d
  (d.canCut n).canOffer n

/-- In Safe every pending channel-owned request ends with result 4 (R399). -/
def Dev.mdbSafe (d : Dev) : Dev :=
  d.each (List.range 8) (fun d n => d.endPending n 4 (fun b => d.f (bufCfg n b) 19 18 = 1))

/-! ### Transmission (R403-R406) -/

/-- The reference message has been sent: its SOF is the Ref_Mark (R413, R414). -/
def Dev.refSent (d : Dev) (n : Nat) : Dev :=
  let cyc := d.refCycle n
  let (t, sof) := (d.ctl n).refSof
  let d := d.setCtl n (fun x =>
    { x with refMark := some sof, fired := [], refPend := if x.refPend = some t then none else x.refPend })
  let d := (d.wf (MDB_TT_STAT n) 8 2 (1 + 2 * cyc)).w (MDB_TT_REF_ST n) (w32 (sof / 4))
  if d.f (MDB_TT_STAT n) 1 0 = 2 then d.wf (MDB_TT_STAT n) 1 0 0 else d

/-- CAN_TX_END: the attempt of buffer `b`, or of the reference message (32), ends. A master that loses arbitration withdraws
its request; a reference message that meets an error is retried like any frame (R404, R414). DESIGN CHOICE, log entry 35. -/
def Dev.canTxEnd (d : Dev) (n b : Nat) (r : TxEnd) (tdcv : Nat) : Dev :=
  if (d.ctl n).sending ≠ some b then d
  else
    let w1 := if b = 32 then 0 else d.r (MDB_BUF n b 3)
    let d := if d.b (MDB_TDC n) 0 && bitOf w1 4 && bitOf w1 5 then d.wf (MDB_TDC n) 22 16 tdcv else d
    let abort := (d.ctl n).abortSending
    let oneShot := d.b (MDB_CTRL n) 5
    let once := oneShot || (d.ctl n).once.contains b
    let d := d.setCtl n (fun x =>
      { x with sending := none, abortSending := false
               window := match x.window with | some (w, dl) => if w = b then none else some (w, dl) | none => none })
    let withdraw := fun (d : Dev) => d.setCtl n (fun x =>
      { x with refPend := if x.refPend = some x.refSof.1 then none else x.refPend })
    let d := match r with
      | .sent =>
        let d := d.txGood n
        if b = 32 then d.refSent n else ((d.unarm n b).reqEnd n b 1).shadowUp n b
      | .lostArb => if b = 32 then withdraw d else d.txFailed n b 2 abort once
      | .error code dp =>
        (if b = 32 then (if oneShot then withdraw d else d) else d.txFailed n b 3 abort once).txError n code.val dp
    d.canOffer n

/-- A write of abort (R406): a request that waits ends at once, one in transmission at the end of the attempt. An attempt
offered in this clock has not begun. -/
def Dev.canAbort (d : Dev) (n b : Nat) : Dev :=
  let d := d.setCtl n (fun x => { x with abortAt := tset x.abortAt b (d.tb.now + 1) })
  let d := if (d.ctl n).sending = some b then d.unoffer n else d
  if (d.ctl n).sending = some b then
    (d.wb (bufStat n b) 1 true).setCtl n (fun x => { x with abortSending := true })
  else (if d.b (bufStat n b) 0 then (d.unarm n b).reqEnd n b 4 else d).canOffer n

/-- A request for the frame in a buffer (R401, R402): one that the controller refuses ends with result 7. -/
def Dev.canAsk (d : Dev) (n b : Nat) : Dev :=
  if d.b (bufStat n b) 0 then d
  else if d.recOk n (d.r (MDB_BUF n b 2)) (d.r (MDB_BUF n b 3)) then d.wb (bufStat n b) 0 true
  else (d.wb (bufStat n b) 0 true).reqEnd n b 7

/-- A write of MDB_BUF_STAT (R401, R402, R406): pend is the owner's; then abort ends the request. DEDUCED, log entry 36. -/
def Dev.bufStatWrite (d : Dev) (who : Initiator) (n b : Nat) (v : Word) : Dev :=
  let c := d.r (bufCfg n b)
  let d :=
    if !(bitOf v 0) then d
    else if fld c 19 18 ≠ 0 then d.refuseOwner who (bufStat n b)
    else if bitOf c 0 then d.refuse who (bufStat n b)
    else d.canAsk n b
  (if bitOf v 1 then d.canAbort n b else d).canOffer n

/-- A host write of a record word (R402). -/
def Dev.bufRecWrite (d : Dev) (who : Initiator) (n b i : Nat) (v : Word) : Dev :=
  let c := d.r (bufCfg n b)
  if fld c 19 18 = 0 && !(bitOf c 0) && !(d.b (bufStat n b) 0) && (d.ctl n).sending ≠ some b then
    (d.w (MDB_BUF n b i) v).incf (bufStat n b) 15 8 1
  else d.refuse who (MDB_BUF n b i)

/-! ### Reception (R407-R412) -/

/-- An entry for queue `q` (R409, R410). -/
def Dev.rxqPut (d : Dev) (n q : Nat) (record : List Word) (st : Stamp) (sof : Word) (filter : Nat)
    (noFilter : Bool) (len : Nat) : Dev :=
  let x := d.ctl n
  let seq := wrapAdd 16 (tget 0 x.rxSeq q) 1
  let h := d.r (MDB_RXQ_CFG n q 0)
  let lost := tget false x.rxLost q
  let e := record ++ [st.st, w32 (st.quarter + 4 * st.gen + 64 * b2n lost + 256 * filter + 16384 * b2n noFilter + 65536 * seq), sof]
  if h = 0 then
    let l := tget [] x.rxq q
    if 32 ≤ l.length then
      ((d.cnt (MDB_CNT n (2 + q))).ringBit (.mdb n) 2).setCtl n (fun x => { x with rxLost := tset x.rxLost q true })
    else
      let d := d.setCtl n (fun x => { x with rxq := tset x.rxq q (l ++ [e]), rxSeq := tset x.rxSeq q seq,
                                             rxLost := tset x.rxLost q false })
      let hw := d.f (MDB_RXQ_STAT n q) 13 8
      let d := (d.wf (MDB_RXQ_STAT n q) 5 0 (l.length + 1)).wf (MDB_RXQ_STAT n q) 13 8 (Nat.max hw (l.length + 1))
      d.ringBit (.mdb n) q
  else
    let w1 := d.r (MDB_RXQ_CFG n q 1)
    let slots := fld w1 15 8
    let idx := 2 * n + q
    let head := d.f (MDB_RXQ_CFG n q 3) 7 0
    match d.chanOf h, d.freeSlot 3 idx slots head with
    | some c, some s =>
      let d := d.setCtl n (fun x => { x with rxSeq := tset x.rxSeq q seq, rxLost := tset x.rxLost q false })
      let d := d.wf (MDB_RXQ_CFG n q 3) 7 0 ((s + 1) % slots)
      let word := w32 (s + 256 * len + 32768 * q + 65536 * filter + 2 ^ 22 * b2n noFilter)
      let ev := { mkEv 6 n st (wrapAdd 16 x.evSeq 1) word with ring := some (3, idx, s) }
      let bytes := (e.map (fun w => leBytes 4 w.toNat)).flatten
      let d := d.fillSlot 3 idx s c (fld w1 2 0) ((d.r (MDB_RXQ_CFG n q 2)).toNat + 128 * s) bytes ev
      (d.mdbEvent n c st word).ringBit (.mdb n) q
    | _, _ =>
      (d.cnt (MDB_CNT n 5)).setCtl n (fun x =>
        { x with evLost := tset x.evLost (hIdx h) true, rxLost := tset x.rxLost q true })

/-- A frame for a receive buffer (R412); RX triggers of the buffer see its data (R415). -/
def Dev.rxBuffer (d : Dev) (n f : Nat) (rec_ : List Word) : Dev :=
  match (List.range 32).find? (fun b => bitOf (d.r (bufCfg n b)) 0 && fld (d.r (bufCfg n b)) 6 1 = f) with
  | none => d
  | some b =>
    let d := ((d.bufRecSet n b rec_).wb (bufStat n b) 2 true).incf (bufStat n b) 15 8 1
    let ts := (List.range 64).filter (fun t => fld (d.r (MDB_TRIG n t 0)) 18 16 = 2 && fld (d.r (MDB_TRIG n t 0)) 23 19 = b)
    d.setCtl n (fun x => { x with rxSeen := x.rxSeen ++ ts, rxAt := tset x.rxAt b (d.tb.now + 1) })

/-- A read of record word 0 of a receive buffer clears nd, but not that of a frame written in the same clock (R412). -/
def Dev.ndRead (d : Dev) (n b : Nat) : Dev :=
  if bitOf (d.r (bufCfg n b)) 0 && tget 0 (d.ctl n).rxAt b ≠ d.tb.now + 1 then d.wb (bufStat n b) 2 false else d

/-- The frame is a reference message (R413). -/
def Dev.isRef (d : Dev) (n : Nat) (w0 w1 : Word) : Bool :=
  let id := d.r (MDB_TT_REFID n)
  let same := if bitOf id 29 then fld w0 28 3 = fld id 28 3 else fld w0 28 21 = fld id 28 21
  d.b (MDB_CTRL n) 8 && bitOf w0 29 == bitOf id 29 && same && !(bitOf w0 30) && !(bitOf w1 4) &&
  fld w1 3 0 = (if d.b (MDB_TT_CTRL n) 4 then 4 else 1)

/-- A valid reference message of another master (R413-R416), whose SOF lay `ago` quarter-nanoseconds ago. -/
def Dev.refReceived (d : Dev) (n : Nat) (w0 : Word) (data : List Byte) (ago : Nat) : Dev :=
  let pri := if bitOf w0 29 then fld w0 2 0 else fld w0 20 18
  let cyc := (byteAt data 0).toNat % 64
  let d := d.setCtl n (fun x => { x with refMark := some (4 * d.stLong - ago), fired := [], refPend := none })
  let d := (d.wf (MDB_TT_STAT n) 8 2 (2 * cyc)).w (MDB_TT_REF_ST n) (w32 ((4 * d.stLong - ago) / 4))
  if d.b (MDB_TT_CTRL n) 0 && pri = d.f (MDB_TT_CTRL n) 3 1 then d.ttRise n 3
  else if d.f (MDB_TT_STAT n) 1 0 = 2 then d.wf (MDB_TT_STAT n) 1 0 0
  else d

/-- What keeps a wake from being false has come in time (R419). -/
def Dev.keepAwake (d : Dev) (n : Nat) : Dev :=
  if n < 2 && d.tb.now ≤ d.pwr.wokeAt + 1000000 * d.f (MDB_WAKE_TIMEOUT n) 15 0 && d.b PWR_WAKE_CAUSE (12 + n) then
    { d with pwr := { d.pwr with wakeKept := true } }
  else d

/-- MDB_WAKE_STAT.confirm (R419). -/
def Dev.wakeConfirm (d : Dev) (n : Nat) (v : Word) : Dev :=
  if bitOf v 8 then (d.wb (MDB_WAKE_STAT n) 8 true).keepAwake n else d

/-- CAN_FRAME_RECEIVE (R407-R412). An FD frame on a controller without fd_en is a form error or, with pex, a protocol exception,
after which the controller waits for 11 recessive bits with its error counts unchanged (R394). In Monitor it acknowledges
nothing (R399). PRESUMED, log entry 93. -/
def Dev.canReceive (d : Dev) (n : Nat) (f : CanRx) : Dev :=
  if !(d.b (MDB_CTRL n) 0) || (d.canState n ≠ 2 && d.canState n ≠ 3) then d
  else if bitOf f.w1 4 && !(d.b (MDB_CTRL n) 3) then
    if d.b (MDB_CTRL n) 7 then d.canStateSet n 1 else (d.rxError n 2 false).canOffer n
  else
    let st := d.canStamp f.back.val
    let words := (List.range 16).map (fun i => w32 (leAt f.data (4 * i) 4))
    let rec_ := [f.w0, f.w1] ++ words
    let len := f.data.length
    let ago := f.back.val + 4 * f.sofAgo
    let sofSt := (d.canStamp ago).st
    let d := if d.opEff n < 2 then d.emit (.canAck n) else d
    let d := (d.rxGood n).cnt (MDB_CNT n 0)
    let d := if d.isRef n f.w0 f.w1 then d.refReceived n f.w0 f.data (ago + d.canPast ago) else d
    let hit := (List.range 64).find? (fun i =>
      let a := d.r (MDB_FILT n i 0)
      bitOf a 31 && bitOf a 29 == bitOf f.w0 29 && ((f.w0 ^^^ a) &&& d.r (MDB_FILT n i 1) &&& 0x1FFFFFFF) == 0)
    let d := match hit with
      | some i =>
        let m := d.r (MDB_FILT n i 1)
        let dest := fld m 31 30
        let d := if bitOf m 29 then d.keepAwake n else d
        let d := if dest < 2 then d.rxqPut n dest rec_ st sofSt i false len else if dest = 2 then d.rxBuffer n i rec_ else d
        if bitOf (d.r (MDB_FILT n i 0)) 30 then d.fbrMdb n f.w0 f.data st else d
      | none =>
        let d := d.cnt (MDB_CNT n 4)
        let nm := d.f (MDB_CTRL n) 10 9
        if nm = 1 || nm = 2 then d.rxqPut n (nm - 1) rec_ st sofSt 0 true len else d
    d.canOffer n

/-- MDB_RXQ_POP (R409). -/
def Dev.rxqPop (d : Dev) (n q : Nat) (v : Word) : Dev :=
  if !(bitOf v 0) then d
  else
    let l := (tget [] (d.ctl n).rxq q).drop 1
    (d.setCtl n (fun x => { x with rxq := tset x.rxq q l })).wf (MDB_RXQ_STAT n q) 5 0 l.length

/-! ### Time-triggered operation (R413-R416) -/

/-- The network time unit and the cycle in ns; with either 0 there is no boundary and no trigger (R15). -/
def Dev.ntu (d : Dev) (n : Nat) : Nat := d.f (MDB_TT_CYCLE n) 31 16
def Dev.ttCycle (d : Dev) (n : Nat) : Nat := d.f (MDB_TT_CYCLE n) 15 0 * d.ntu n

/-- Number of the TAI-aligned cycle boundary at or before the present (R414). -/
def Dev.ttK (d : Dev) (n : Nat) : Nat := (d.taiNs - (d.r (MDB_TT_PHASE n)).toNat) / d.ttCycle n

/-- TT_CYCLE_BOUNDARY (R414): a potential master requests its reference message at a TAI-aligned boundary that has come since
the boundaries were last looked at. DEDUCED, log entry 36. -/
def Dev.ttBoundary (d : Dev) (n : Nat) : Dev :=
  if !(d.b (MDB_CTRL n) 8) || !(d.b (MDB_TT_CTRL n) 5) || d.ttCycle n = 0 then d
  else
    let k := d.ttK n
    let t := 4 * (d.stLong - (d.taiNs - (k * d.ttCycle n + (d.r (MDB_TT_PHASE n)).toNat)))
    let due := k ≠ (d.ctl n).refK && (d.ctl n).refSeen ≤ t && d.b (MDB_TT_CTRL n) 0 && d.f (MDB_TT_STAT n) 1 0 ≠ 3
    let d := d.setCtl n (fun x => { x with refK := k, refSeen := 4 * d.stLong })
    if due then (d.setCtl n (fun x => { x with refPend := some t })).canOffer n else d

/-- The last cycle boundary, in quarter-ns of `Dev.stLong` (R414, R415). -/
def Dev.ttLast (d : Dev) (n : Nat) : Nat :=
  let c := d.ttCycle n
  if c = 0 then 4 * d.stLong
  else if d.b (MDB_TT_CTRL n) 5 then 4 * (d.stLong - (d.taiNs - (d.r (MDB_TT_PHASE n)).toNat) % c)
  else match (d.ctl n).refMark with
    | some m => m + (4 * d.stLong - m) / (4 * c) * (4 * c)
    | none => 4 * d.stLong

/-- A trigger sets pend of its transmit buffer and releases it (R415); with `once` its frame is sent once. A later delivery in
the same clock comes before it (R406). -/
def Dev.ttSend (d : Dev) (n b : Nat) (once : Bool) : Dev :=
  if bitOf (d.r (bufCfg n b)) 0 then d
  else
    let idle := !(d.b (bufStat n b) 0)
    let d := (d.unarm n b).canAsk n b
    d.setCtl n (fun x =>
      { x with arb := x.arb ++ [b]
               once := if once then x.once ++ [b] else x.once
               trigAt := if idle then tset x.trigAt b (d.tb.now + 1) else x.trigAt })

/-- What a trigger that fires does (R415, R416). A TX window of zero length is missed at once. -/
def Dev.ttAct (d : Dev) (n ty b t : Nat) (m : Nat) : Dev :=
  let lv := d.f (MDB_TT_STAT n) 1 0
  if ty = 0 then
    if 2 ≤ lv then d
    else
      let win := d.f (MDB_TT_CTRL n) 23 16 * d.ntu n
      let d := d.ttSend n b true
      if win = 0 then ((if d.b (bufStat n b) 0 then (d.unarm n b).reqEnd n b 3 else d).ttRise n 1).canOffer n
      else (d.setCtl n (fun x => { x with window := some (b, 4 * (d.stLong + win)) })).canOffer n
  else if ty = 1 then
    if 2 ≤ lv then d else (d.ttSend n b false).canOffer n
  else if ty = 2 then
    if (d.ctl n).rxSeen.contains t then d.setCtl n (fun x => { x with rxSeen := x.rxSeen.filter (· != t) })
    else (d.cnt (MDB_CNT n 7)).ttRise n 1
  else if ty = 3 then
    if !(d.b (MDB_TT_CTRL n) 5) && d.b (MDB_TT_CTRL n) 0 && lv ≠ 3 then
      (d.setCtl n (fun x => { x with refPend := some (4 * d.stLong) })).canOffer n
    else d
  else if m < d.ttLast n then d.ttRise n 2 else d

/-- TT_TRIGGER (R415, R416): trigger `t` fires when the cycle time has reached its mark in a cycle of its own. What TX_ARB
triggers before it released is no longer retried. DEDUCED, log entry 36. -/
def Dev.ttTrigger (d : Dev) (n t : Nat) : Dev :=
  let a := d.r (MDB_TRIG n t 0)
  let b := d.r (MDB_TRIG n t 1)
  let ty := fld a 18 16
  let rep := fld b 2 0
  let ofs := fld b 13 8
  if !(d.b (MDB_CTRL n) 0) || !(d.b (MDB_CTRL n) 8) || !(bitOf b 31) then d
  else if 5 ≤ ty || 2 ^ rep ≤ ofs then d.ttRise n 3
  else match (d.ctl n).refMark with
    | none => d
    | some m =>
      if d.ttCycle n = 0 || 4 * d.stLong < m + 4 * (fld a 15 0 * d.ntu n) || (d.ctl n).fired.contains t ||
         d.f (MDB_TT_STAT n) 8 3 % 2 ^ rep ≠ ofs then d
      else
        let d := d.setCtl n (fun x => { x with fired := x.fired ++ [t], arb := x.arb.filter (fun b => x.once.contains b) })
        d.ttAct n ty (fld a 23 19) t m

/-- TX_WINDOW_MISSED (R415): the window's frame has not started in time. -/
def Dev.txWindowMissed (d : Dev) (n t : Nat) : Dev :=
  match (d.ctl n).window with
  | none => d
  | some (buf, dl) =>
    if d.f (MDB_TRIG n t 0) 23 19 ≠ buf || 4 * d.stLong < dl then d
    else if (d.ctl n).sending = some buf then d.setCtl n (fun x => { x with window := none })
    else
      let d := d.unarm n buf
      ((if d.b (bufStat n buf) 0 then d.reqEnd n buf 3 else d).ttRise n 1).canOffer n

/-- A write of MDB_TT_STAT.level (R416): 0 clears S1. -/
def Dev.ttLevelWrite (d : Dev) (n : Nat) (v : Word) : Dev :=
  if fld v 1 0 = 0 && d.f (MDB_TT_STAT n) 1 0 = 1 then d.wf (MDB_TT_STAT n) 1 0 0 else d

end Sys2Proof.Machine
end

