-- ==== Sys2Proof/Machine/Flush.lean ====
section
/-!
DEFINITION. The retained-area flush to its non-volatile target (R52, R53, R56, R57).
-/
namespace Sys2Proof.Machine

/-- The always-on domain changed. -/
def Dev.setPwr (d : Dev) (f : Pwr → Pwr) : Dev := { d with pwr := f d.pwr }

/-- The bytes that the digest of a slot covers: the header's sequence and length, then the 256 KiB image.
DESIGN CHOICE, log entry 84. -/
def flushBytes (seq length : Word) (img : List Host.Cell) : List Byte :=
  leBytes 4 seq.toNat ++ leBytes 4 length.toNat ++ mread img 0 0x40000

/-- The header that a flush writes. DESIGN CHOICE, log entry 84. -/
def flushHead (seq : Word) (img : List Host.Cell) : FlushHead :=
  { seq := seq, length := 0x40000, digest := Config.sha256 (flushBytes seq 0x40000 img) }

/-- The digest of a slot is valid. DESIGN CHOICE, log entry 84. -/
def FlushSlot.valid (s : FlushSlot) : Bool :=
  decide (s.head.digest = Config.sha256 (flushBytes s.head.seq s.head.length s.img))

/-- The page at which slot A begins, or slot B (`true`): 260 KiB above it (PWR_FLUSH_CFG.base_4k). -/
def Dev.slotPage (d : Dev) (b : Bool) : Nat := d.f PWR_FLUSH_CFG 31 12 + 65 * b2n b

/-- The slot that the flash holds there: none where no flush has completed. -/
def Dev.flashSlot (d : Dev) (b : Bool) : Option FlushSlot := tfind d.pwr.flash (d.slotPage b)

/-- A slot whose digest is valid. -/
def slotOk : Option FlushSlot → Option FlushSlot
  | some s => if s.valid then some s else none
  | none => none

/-- The newest valid slot, `true` for B, and whether neither of two is newer: then A is taken (R54). -/
def Dev.newestSlot (d : Dev) : Option (Bool × FlushSlot) × Bool :=
  match slotOk (d.flashSlot false), slotOk (d.flashSlot true) with
  | some a, some b =>
    if serialNewer 32 b.head.seq.toNat a.head.seq.toNat then (some (true, b), false)
    else (some (false, a), !(serialNewer 32 a.head.seq.toNat b.head.seq.toNat))
  | some a, none => (some (false, a), false)
  | none, some b => (some (true, b), false)
  | none, none => (none, false)

/-- The header sequence of the next flush: one more than the newest valid slot's. DEDUCED, log entry 30. -/
def Dev.nextFlushSeq (d : Dev) : Word :=
  match d.newestSlot.1 with
  | some s => s.2.head.seq + 1
  | none => 1

/-- A flush of the stable copy begins, unless one runs: into the slot that does not hold the newest valid image, slot A
when neither is valid (R53). Slots in whose place it writes are gone. DESIGN CHOICE, log entry 84. -/
def Dev.flushStart (d : Dev) (forSleep : Bool) : Dev :=
  if !(d.b PWR_FLUSH_CFG 0) || d.pwr.flushing.isSome then d
  else
    let b := match d.newestSlot.1 with | some s => !s.1 | none => false
    let page := d.slotPage b
    let d := d.setPwr (fun p => { p with
      flushing := some b, flushForSleep := forSleep, flushSeq := d.nextFlushSeq, flushPage := page,
      flushImg := (mslice d.mem keyRet 0x40000).map (fun c => (c.1 - keyRet, c.2)),
      flash := p.flash.filter (fun x => x.1 + 65 ≤ page || page + 65 ≤ x.1) })
    d.wb PWR_FLUSH_STAT 0 true

/-- The flush that a sleep asks for begins once the scan's cycle is complete; with the flush off there is none to wait for. -/
def Dev.sleepFlush (d : Dev) : Dev :=
  match d.pwr.trans with
  | .agreeing _ _ _ scan _ _ =>
    if scan || d.pwr.sleepFlushed || d.scn.phase ≠ .idle then d
    else if d.b PWR_FLUSH_CFG 0 then d.flushStart true
    else d.setPwr (fun p => { p with sleepFlushed := true })
  | _ => d

/-- RETAINED_FLUSH_COMPLETE (R53): the slot holds its header, digest and image. -/
def Dev.flushComplete (d : Dev) : Dev :=
  match d.pwr.flushing with
  | none => d
  | some b =>
    let seq := d.pwr.flushSeq
    let slot : FlushSlot := { head := flushHead seq d.pwr.flushImg, img := d.pwr.flushImg }
    let d := d.setPwr (fun p => { p with
      flushing := none, flushImg := [], flushForSleep := false,
      sleepFlushed := p.sleepFlushed || p.flushForSleep, flash := tset p.flash p.flushPage slot })
    let d := (d.wf PWR_FLUSH_STAT 1 0 (2 * b2n b)).wf PWR_FLUSH_STAT 31 16 (seq.toNat % 65536)
    d.logEvent 0x09 (b2n b) (d.r PWR_FLUSH_STAT).toNat

/-- A sleep agreement is being asked for. -/
def Dev.agreeing (d : Dev) : Bool :=
  match d.pwr.trans with
  | .agreeing _ _ _ _ _ _ => true
  | _ => false

end Sys2Proof.Machine
end

