-- ==== Sys2Proof/Machine/Scan.lean ====
section
/-!
DEFINITION. The scan unit (spec/16_scan_bay_logic.md): the cycle, the stations, the retained area, restarts and on-line
change, with the meanings of its commands.
-/
namespace Sys2Proof.Machine

/-- The scan unit changed. -/
def Dev.setScn (d : Dev) (f : Scan → Scan) : Dev := { d with scn := f d.scn }

/-- The last request's status (SCN_STAT.status). -/
def Dev.scnStatus (d : Dev) (s : Nat) : Dev := d.wf SCN_STAT 6 2 s

/-- lat_ns and out_ns of the configuration; fractions round up (R445). -/
def latNs (d : Dev) : Nat := 200 + ceilDiv ((2 + d.f SCN_IMG_CFG 12 0) * 5) 2
def outNs (d : Dev) : Nat := 5320 + ceilDiv (d.f SCN_IMG_CFG 28 16 * 5) 2

/-- The cycle's period in ns (R445). -/
def periodNs (d : Dev) : Nat := d.f SCN_CFG 19 0 * 1000

/-- The error task's channel. -/
def Dev.errChan (d : Dev) : Option Nat := d.chanOf (d.r SCN_ERR_TASK)

/-- Key of byte `ofs` of window `w` of the error task (R441); none while the error task's handle is stale. -/
def Dev.scnWin (d : Dev) (w ofs : Nat) : Option Nat :=
  d.errChan.map (fun c => tget 0 (d.act c).winPhys w + ofs)

/-- `n` bytes of a window of the error task; zeros when there is none. -/
def Dev.scnRead (d : Dev) (w ofs n : Nat) : List Byte :=
  match d.scnWin w ofs with
  | some k => d.mrd k n
  | none => List.replicate n 0

/-- Bytes written to a window of the error task. -/
def Dev.scnWrite (d : Dev) (w ofs : Nat) (l : List Byte) : Dev :=
  match d.scnWin w ofs with
  | some k => d.mwr k l
  | none => d

/-- Stations in use (R452). -/
def Dev.stnUsed (d : Dev) : List Nat := (List.range 64).filter (fun s => d.b (SCN_STN_CFG s 5) 31)

/-- A SCAN event (R446). -/
def Dev.scanEvent (d : Dev) (h : Word) (kind flags stn : Nat) (st : Word) : Dev :=
  match d.chanOf h with
  | none => d
  | some c =>
    let seq := d.scn.seq
    let d := d.setScn (fun s => { s with seq := wrapAdd 16 seq 1 })
    d.post c (mkEv 8 stn ⟨st, 0, d.gen⟩ seq (w32 (kind + 16 * flags + 256 * stn + 65536 * (d.scn.cycle % 65536))))

/-- A task's own period boundaries go on after its last one (R444): the first that lies ahead. -/
def Dev.catchUp (d : Dev) (c : Nat) : Dev :=
  let t := (d.desc c 1).toNat
  if d.isWave c || t = 0 then d
  else
    let n := (d.chan c).next
    if reached d.tb.st n then
      d.setChan c (fun ch => { ch with next := n + w32 (((d.tb.st - n).toNat / t + 1) * t) })
    else d

/-- The published half becomes the one to latch next; the channel may fill the other (R453). -/
def Dev.stnPublish (d : Dev) (s : Nat) : Dev :=
  (d.setStn s (fun x => { x with published := true, queued := false, fill := !x.fill })).incf (SCN_STN_STAT s) 31 16 1

/-- The publishes that were queued while the inputs were copied act (R453). -/
def Dev.stnQueued (d : Dev) : Dev := d.each d.stnUsed (fun d s => if (d.stn s).queued then d.stnPublish s else d)

/-- A run that still waits for its first latch instant is given up. -/
def Dev.scanUnstart (d : Dev) : Dev := d.setScn (fun s => { s with started := false, nextLatch := none, tasks := [] })

/-- The scan enters STOP (R458): the cause, a pending change aborted, the bell, COMMIT with stopped to the stations. A
cycle whose commit instant has not come is withheld; one that has committed still posts its COMMIT events. -/
def Dev.scanToStop (d : Dev) (cause : Nat) : Dev :=
  let d := if d.b SCN_STAT 10 then (d.wb SCN_STAT 10 false).scnStatus 8 else d
  let d := if d.scn.phase = .latched then d.stnQueued else d
  let old := d.scn.tasks
  let d := d.setScn (fun s => { s with
    state := .stop, nextLatch := none, started := false, stopReq := false, releaseReq := false, log := [], nextLog := [],
    overruns := 0, tasks := [], nextTasks := none, devHold := false
    phase := if s.phase = .committed then .committed else .idle })
  let d := d.wf SCN_STAT 13 11 cause
  let d := old.foldl (fun d h => match d.chanOf h with | some c => d.catchUp c | none => d) d
  let d := d.ringBit .scn 3
  d.each d.stnUsed (fun d s => d.scanEvent (d.r (SCN_STN_CFG s 0)) 1 1 s d.tb.st)

/-! ### Requests -/

/-- The set of tasks: the error task, then the non-zero entries of a task table from `base`. -/
def Dev.taskSet (d : Dev) (base : Nat) : List Word :=
  let e := d.r SCN_ERR_TASK
  e :: (((List.range 16).map (fun i => d.r (base + 4 * i))).filter (fun h => h != 0 && h != e)).eraseDups

/-- The check of R443 on a set of tasks: 0 OK, 1 BAD_TASK, 2 LATENCY, 3 TIMING. -/
def Dev.checkTasks (d : Dev) (l : List Word) : Nat :=
  let okTask := fun h => match d.chanOf h with
    | some c => ((d.chan c).st = .armed || (d.chan c).st = .running) && d.granted c 16
    | none => false
  let okErr := match d.errChan with
    | some c => (List.range 5).all (fun w => bitOf (d.desc c (17 + 4 * w)) 22 && fld (d.desc c (17 + 4 * w)) 21 20 ≤ 1)
    | none => false
  if !(l.all okTask) || !okErr then 1
  else
    let cs := l.filterMap d.chanOf
    let lat := match cs with | c :: _ => (d.desc c 3).toNat | [] => 0
    if !(cs.all (fun c => (d.desc c 3).toNat = lat && !d.isWave c && (d.desc c 1).toNat = periodNs d)) then 2
    else if periodNs d < latNs d + lat + outNs d then 3
    else 0

/-- The common latency of the bound tasks. -/
def Dev.taskLat (d : Dev) (l : List Word) : Nat :=
  match l.filterMap d.chanOf with
  | c :: _ => (d.desc c 3).toNat
  | [] => 0

/-- Keys and kinds of an instance area (window 3 or 4). -/
def Dev.instKeys (d : Dev) (w : Nat) : List (Nat × Word × Word) :=
  (List.range (d.f SCN_INST_CFG 12 0)).map (fun i =>
    (i, w32 (leVal (d.scnRead w (16 * i) 4)), w32 (leVal (d.scnRead w (16 * i + 4) 4)) &&& 0xF))

/-- Two entries of a list of keys share a non-zero key (R461). -/
def dupKey : List (Nat × Word × Word) → Bool
  | [] => false
  | (_, k, _) :: t => (k != 0 && t.any (fun e => e.2.1 == k)) || dupKey t

/-- The active instance area's window, and the inactive one's. -/
def Dev.instWin (d : Dev) : Nat := if d.scn.instActive then 4 else 3
def Dev.instOther (d : Dev) : Nat := if d.scn.instActive then 3 else 4

/-- The first latch instant (R458): at SCN_START_AT; where that is reached already, the first later instant of the sequence from
it; or the next tick. DEDUCED, log entry 33. -/
def Dev.firstLatch (d : Dev) : Word :=
  let at_ := d.r SCN_START_AT
  if !(d.b SCN_CTRL 5) then d.tb.st + 4
  else if reached d.tb.st at_ then at_ + w32 (ceilDiv (d.tb.st - at_).toNat (periodNs d) * periodNs d)
  else at_

/-- SCN_CTRL.run (R458). -/
def Dev.scnRun (d : Dev) : Dev :=
  if d.scn.state ≠ .stop || d.scn.started || d.mode ≠ .run then d.scnStatus 4
  else if periodNs d = 0 then d.scnStatus 0
  else
    let l := d.taskSet (SCN_TASK 0)
    let s := d.checkTasks l
    if s ≠ 0 then d.scnStatus s
    else
      let t := d.firstLatch
      (d.scnStatus 0).setScn (fun s => { s with started := true, nextLatch := some t, tasks := l })

/-! ### The cycle -/

/-- A station drops out (R454): it returns by a publish after that (R457). -/
def Dev.stnDrop (d : Dev) (s : Nat) : Dev :=
  if (d.stn s).dropped then d
  else
    ((d.setStn s (fun x => { x with dropped := true, published := false, queued := false })).satf (SCN_STN_CNT s) 23 16 1).ringBit
      .scn 1

/-- The bytes that a station contributes to the input image at a latch (R452, R455). -/
def Dev.stnInput (d : Dev) (s : Nat) (up : Bool) : List Byte :=
  let x := d.stn s
  let n := d.f (SCN_STN_CFG s 1) 31 16
  let base := (d.r (SCN_STN_CFG s 3)).toNat
  if up then d.scnRead 2 (base + if x.fill then 0 else n) n
  else
    let sub := d.f (SCN_STN_CFG s 5) 1 0
    if sub = 1 then (x.last ++ List.replicate n 0).take n
    else if sub = 2 then d.scnRead 2 (base + 2 * n) n
    else List.replicate n 0

/-- A station at a latch: misses, drops and returns (R454, R457), its region of the input image. -/
def Dev.stnLatch (d : Dev) (s : Nat) : Dev :=
  let x := d.stn s
  let m := if x.published then 0 else x.misses + 1
  let undo : StnUndo := { tick := d.tb.now, up := x.up, published := x.published, misses := x.misses, dropped := x.dropped, last := x.last }
  let d := d.setStn s (fun x => { x with misses := m, undo := some undo })
  let d := if d.b (SCN_STN_CFG s 5) 2 && d.f (SCN_STN_CFG s 5) 15 8 + 1 ≤ m then d.stnDrop s else d
  let back := (d.stn s).dropped && x.published
  let d := if back then (d.setStn s (fun x => { x with dropped := false })).ringBit .scn 2 else d
  let up := !(d.stn s).dropped
  let bytes := d.stnInput s up
  let d := d.scnWrite 0 (d.f (SCN_STN_CFG s 1) 15 0) bytes
  let d := if up ≠ x.up then d.setScn (fun c => { c with changed := c.changed ++ [s] }) else d
  d.setStn s (fun x => { x with up := up, published := false, last := bytes })

/-- The restart that begins an entry to RUN (R460). DEDUCED, log entry 33. -/
def Dev.scanRestart (d : Dev) : Dev :=
  let cold := d.b SCN_CTRL 4 || !d.scn.retValid
  let d := if cold then { d with mem := mclear d.mem keyRet 0x40000 } else d
  let d := d.setScn (fun s => { s with log := [], nextLog := [], coldRun := cold, firstCycle := true, state := .run,
                                       retValid := if cold then false else s.retValid, releaseReq := false, started := false })
  let n := 16 * d.f SCN_IMG_CFG 28 16
  let d := d.scnWrite 1 0 (List.replicate n 0)
  (d.wb SCN_STAT 8 cold).ringBit .scn 6

/-- A bound task that a latch instant finds lost (R458). -/
def Dev.taskLost (d : Dev) (h : Word) : Bool :=
  match d.chanOf h with
  | some c => (d.chan c).st = .faulted || (d.chan c).st = .stopping || (d.chan c).st = .free
  | none => true

/-- Station bits of the 64-bit masks. -/
def stnMask (l : List Nat) : Nat := l.foldl (fun m s => m + 2 ^ s) 0

/-- Flags of header word 5 and of the LATCH events: cold, warm, change (R442, R446). -/
def Dev.latchFlags (d : Dev) : Nat :=
  (if d.scn.firstCycle then (if d.scn.coldRun then 1 else 2) else 0) + (if d.scn.afterChange then 4 else 0)

/-- The input image's header, and the registers that show the valid stations (R442). -/
def Dev.latchHeader (d : Dev) : Dev :=
  let valid := stnMask (d.stnUsed.filter (fun s => (d.stn s).up))
  let hdr := leBytes 8 valid ++ leBytes 8 (stnMask d.scn.changed) ++ leBytes 4 d.scn.cycle ++ leBytes 4 d.latchFlags ++ leBytes 8 0
  ((d.scnWrite 0 0 hdr).w SCN_VALID_LO (w32 valid)).w SCN_VALID_HI (w32 (valid / 2 ^ 32))

/-- After a change the new tasks are bound in place of the old (R462). -/
def Dev.bindNext (d : Dev) : Dev :=
  match d.scn.nextTasks with
  | none => d
  | some l =>
    let gone := d.scn.tasks.filter (fun h => !(l.contains h))
    let d := d.setScn (fun s => { s with tasks := l, nextTasks := none })
    gone.foldl (fun d h => match d.chanOf h with | some c => d.catchUp c | none => d) d

/-- The latch of a cycle at instant `t` (R442, R444, R445, R452-R457). -/
def Dev.latchAt (d : Dev) (t : Word) : Dev :=
  let d := d.setScn (fun s => { s with changed := [], cycle := wrapAdd 32 s.cycle 1 })
  let d := (d.each d.stnUsed (fun d s => d.stnLatch s)).latchHeader
  let d := (d.w SCN_CYCLE_CNT (w32 d.scn.cycle)).w SCN_LAST_LATCH t
  let tE := t + w32 (latNs d)
  let tK := tE + w32 (d.taskLat d.scn.tasks)
  let d := d.setScn (fun s => { s with phase := .latched, tL := t, tE := tE, tK := tK, tD := tK + w32 (outNs d),
                                       withheld := s.withheldNext, withheldNext := false, commits := false })
  (d.scn.tasks.filterMap d.chanOf).foldl (fun d c =>
    if (d.chan c).st ≠ .armed || d.mayStart c t then d.boundary c t false else d) d

/-- SCAN_LATCH (R445, R458, R459): the instant passes in HOLD, begins RUN, or begins a cycle; a lost task stops the scan. While a
sleep is being agreed, or a power-fail warning stands, no cycle begins; RUN is entered in the device's Run.
DEDUCED, log entry 33. -/
def Dev.scanLatch (d : Dev) : Dev :=
  match d.scn.nextLatch with
  | none => d
  | some t =>
    if !(reached d.tb.st t) then d
    else
      let d := d.setScn (fun s => { s with nextLatch := some (t + w32 (periodNs d)) })
      if d.agreeing || d.pwr.pfw || (d.scn.started && d.mode ≠ .run) then d
      else
        let d := d.bindNext
        let begins := d.scn.started || (d.scn.state = .hold && d.scn.releaseReq && d.mode = .run)
        if d.scn.tasks.any d.taskLost then d.scanToStop 2
        else if begins then d.scanRestart.latchAt t
        else if d.scn.state = .hold then d.cnt (SCN_CNT 2)
        else if d.scn.state = .run then d.latchAt t
        else d

/-- A drop in the clock of the latch counts as before it (R454): the station is latched afresh, as dropped. -/
def Dev.stnRelatch (d : Dev) (s : Nat) (u : StnUndo) : Dev :=
  let d := d.setScn (fun c => { c with changed := c.changed.filter (· != s) })
  let d := (d.setStn s (fun x => { x with up := u.up, published := u.published, misses := u.misses, dropped := u.dropped, last := u.last })).stnDrop s
  let d := d.stnLatch s
  (d.setScn (fun c => { c with changed := d.stnUsed.filter (fun i => c.changed.contains i) })).latchHeader

/-- SCAN_COPY_DONE (R445, R446, R453): queued publishes, ERROR events, then LATCH events. -/
def Dev.scanCopyDone (d : Dev) : Dev :=
  if d.scn.phase ≠ .latched || !(reached d.tb.st d.scn.tE) then d
  else
    let t := d.scn.tE
    let d := d.stnQueued
    let d := d.each d.scn.changed (fun d s =>
      d.scanEvent (d.r SCN_ERR_TASK) 2 (if (d.stn s).up then 0 else 1) s t)
    let flags := d.latchFlags
    let d := d.scn.tasks.foldl (fun d h => d.scanEvent h 0 flags 0 t) d
    d.setScn (fun s => { s with phase := .copied, firstCycle := false, afterChange := false })

/-- A bound task has sealed every SCAN input of the cycle (R447). -/
def Dev.taskSealed (d : Dev) (c : Nat) : Bool :=
  let mine := fun (v : Ev) => v.src == 8 && v.stamp.st == d.scn.tE
  !(((d.eng (d.act c).eng).eventsOf c).any mine) && !((d.act c).input.any mine)

/-- The cycle is an overrun (R447): its log is discarded. -/
def Dev.scanOverrun (d : Dev) : Dev :=
  let d := d.setScn (fun s => { s with commits := false, overruns := s.overruns + 1, log := [] })
  (d.cnt (SCN_CNT 1)).ringBit .scn 0

/-- SCAN_SEAL_JUDGE (R447, R448, R450): committed or overrun. -/
def Dev.scanSealJudge (d : Dev) : Dev :=
  if d.scn.phase ≠ .copied || !(reached d.tb.st (d.scn.tK - 64)) then d
  else
    let ok := (d.scn.tasks.filterMap d.chanOf).all d.taskSealed && !d.scn.withheld
    let d := d.setScn (fun s => { s with phase := .judged, commits := ok })
    if ok then d.setScn (fun s => { s with overruns := 0 }) else d.scanOverrun

/-- The retained log is applied to the stable copy (R447, R449). -/
def Dev.applyLog (d : Dev) : Dev :=
  d.scn.log.foldl (fun d e => d.mwordSet (keyRet + 4 * e.1) e.2) d

/-- The instances of an on-line change are transferred, and the new tasks are named, to be bound from the next latch (R462). -/
def Dev.instTransfer (d : Dev) : Dev :=
  let a := d.instWin
  let b := d.instOther
  let old := (d.instKeys a).filter (fun e => e.2.1 != 0)
  let new := (d.instKeys b).filter (fun e => e.2.1 != 0)
  let d := new.foldl (fun d e =>
    match (old.find? (fun o => o.2.1 == e.2.1 && o.2.2 == e.2.2)).or (old.find? (fun o => o.2.1 == e.2.1)) with
    | none => d
    | some o =>
      if o.2.2 = e.2.2 then
        let st := d.scnRead a (16 * o.1 + 8) 4
        let run := bitOf (w32 (leVal (d.scnRead a (16 * o.1 + 12) 4))) 0
        let c := w32 (leVal (d.scnRead b (16 * e.1 + 12) 4))
        (d.scnWrite b (16 * e.1 + 8) st).scnWrite b (16 * e.1 + 12) (leBytes 4 (setBit c 0 run).toNat)
      else d.cnt (SCN_CNT 6)) d
  let lost := old.filter (fun o => !(new.any (fun e => e.2.1 == o.2.1 && e.2.2 == o.2.2)))
  let d := (d.cnt (SCN_CNT 5) lost.length).cnt (SCN_CNT 7)
  let l := d.taskSet (SCN_CHG_TASK 0)
  let d := d.setScn (fun s => { s with instActive := !s.instActive, afterChange := true, nextTasks := some l })
  let d := d.each (List.range 16) (fun d i => d.w (SCN_TASK i) (d.r (SCN_CHG_TASK i)))
  (d.wb SCN_STAT 10 false).ringBit .scn 4

/-- A station at a commit (R447, R454, R456). -/
def Dev.stnCommit (d : Dev) (s : Nat) : Dev :=
  let d := if (d.chanOf (d.r (SCN_STN_CFG s 0))).isNone then d.stnDrop s else d
  if (d.stn s).dropped then d.satf (SCN_STN_CNT s) 15 0 1
  else
    let n := d.f (SCN_STN_CFG s 2) 31 16
    let at_ := (d.r (SCN_STN_CFG s 4)).toNat
    let d := d.setStn s (fun x => { x with outUndo := some (d.tb.now, d.scnRead 2 at_ n) })
    d.scnWrite 2 at_ (d.scnRead 1 (d.f (SCN_STN_CFG s 2) 15 0) n)

/-- SCAN_COMMIT (R447, R448, R458, R459). -/
def Dev.scanCommit (d : Dev) : Dev :=
  if d.scn.phase ≠ .judged || !(reached d.tb.st d.scn.tK) then d
  else
    let ok := d.scn.commits && d.scn.state = .run
    let d :=
      if ok then
        let d := d.each d.stnUsed (fun d s => d.stnCommit s)
        let d := (d.applyLog).cnt (SCN_CNT 0)
        let d := d.setScn (fun s => { s with retValid := true })
        if d.b SCN_STAT 10 then d.instTransfer else d
      else d
    let valid := d.stnUsed.filter (fun s => !(d.stn s).dropped)
    let d := d.setScn (fun s => { s with phase := .committed, commits := ok, log := s.nextLog, nextLog := [], commitTo := valid })
    if d.scn.stopReq then d.scanToStop 0
    else if d.b SCN_CFG 24 && d.f SCN_CFG 28 25 + 1 ≤ d.scn.overruns then d.scanToStop 3
    else d

/-- SCAN_OUTPUT_DONE (R445-R447): COMMIT events to the stations that were valid at the commit. -/
def Dev.scanOutputDone (d : Dev) : Dev :=
  if d.scn.phase ≠ .committed || !(reached d.tb.st d.scn.tD) then d
  else
    let flag := if d.scn.commits then 0 else 2
    let t := d.scn.tD
    let d := d.setScn (fun s => { s with phase := .idle })
    (d.each d.scn.commitTo (fun d s => d.scanEvent (d.r (SCN_STN_CFG s 0)) 1 flag s t)).sleepFlush

/-- A commit whose instant has come is not withheld by what happens in its clock and after. -/
def Dev.scanSettle (d : Dev) : Dev := d.scanCommit

/-- SCN_CTRL.stop (R458): after the next commit instant. DEDUCED, log entry 33. -/
def Dev.scnStop (d : Dev) : Dev :=
  if d.scn.state ≠ .run then d.scnStatus 4 else (d.scnStatus 0).setScn (fun s => { s with stopReq := true })

/-- SCN_CTRL.hold (R458). -/
def Dev.scnHold (d : Dev) : Dev :=
  if d.scn.state ≠ .run then d.scnStatus 4
  else if !d.debug then d.scnStatus 5
  else ((d.scnStatus 0).scanSettle).setScn (fun s => { s with state := .hold, releaseReq := false })

/-- SCN_CTRL.release (R458): RUN at the next latch instant. -/
def Dev.scnRelease (d : Dev) : Dev :=
  if d.scn.state ≠ .hold then d.scnStatus 4 else (d.scnStatus 0).setScn (fun s => { s with releaseReq := true })

/-- SCN_CTRL.change (R461). DEDUCED, log entry 33. -/
def Dev.scnChange (d : Dev) : Dev :=
  if d.scn.state = .stop then d.scnStatus 4
  else
    let l := d.taskSet (SCN_CHG_TASK 0)
    let s := d.checkTasks l
    if s ≠ 0 then d.scnStatus s
    else if dupKey (d.instKeys d.instOther) then d.scnStatus 6
    else if periodNs d < latNs d + d.taskLat l + outNs d + 2000 + 5 * d.f SCN_INST_CFG 12 0 then d.scnStatus 7
    else (d.scnStatus 0).wb SCN_STAT 10 true

/-- A write of SCN_CTRL: the two settings, then the requests in bit order. DEDUCED, log entry 33. -/
def Dev.scnCtrl (d : Dev) (v : Word) : Dev :=
  let d := d.wf SCN_CTRL 5 4 (fld v 5 4)
  let d := if bitOf v 0 then d.scnRun else d
  let d := if bitOf v 1 then d.scnStop else d
  let d := if bitOf v 2 then d.scnHold else d
  let d := if bitOf v 3 then d.scnRelease else d
  if bitOf v 6 then d.scnChange else d

/-- A power-fail warning at the scan unit (R451): the cycle in progress is withheld, the scan stops with cause 4. -/
def Dev.scanPfw (d : Dev) : Dev :=
  let d := d.scanSettle
  if d.scn.state = .stop then (if d.scn.started then d.scanUnstart else d)
  else
    let inCycle := d.scn.phase != .idle && d.scn.phase != .committed
    let d := if inCycle then d.cnt (SCN_CNT 4) else d
    d.scanToStop 4

/-- A write of SCN_STN_PUB with ok = 0 (R454): a drop in the clock of the latch counts as before it, and one in the clock of the
commit takes the station's output back. -/
def Dev.stnPubDrop (d : Dev) (s : Nat) : Dev :=
  let x := d.stn s
  match x.undo, x.outUndo with
  | some u, o =>
    if u.tick = d.tb.now && d.scn.phase = .latched && !x.dropped then d.stnRelatch s u
    else match o with
      | some (t, l) =>
        if t = d.tb.now && d.scn.phase = .committed && d.scn.commits && !x.dropped then
          let d := (d.scnWrite 2 (d.r (SCN_STN_CFG s 4)).toNat l).satf (SCN_STN_CNT s) 15 0 1
          (d.setScn (fun c => { c with commitTo := c.commitTo.filter (· != s) })).stnDrop s
        else d.stnDrop s
      | none => d.stnDrop s
  | none, _ => d.stnDrop s

/-- A write of SCN_STN_PUB (R453, R454). -/
def Dev.stnPub (d : Dev) (s : Nat) (v : Word) : Dev :=
  if !(bitOf v 1) then d.stnPubDrop s
  else if !(bitOf v 0) then d
  else if d.scn.phase = .latched then
    let d := if (d.stn s).queued then d.satf (SCN_STN_CNT s) 31 24 1 else d
    d.setStn s (fun x => { x with queued := true })
  else d.stnPublish s

/-- A write of the retained area (R449, R450). -/
def Dev.retWrite (d : Dev) (who : Initiator) (i : Nat) (v : Word) : Dev :=
  if isHost who then
    if d.scn.state = .stop then d.mwordSet (keyRet + 4 * i) v else d.refuse who (SCN_RET i)
  else if d.scn.state ≠ .run then d.refuse who (SCN_RET i)
  else
    let next := d.scn.phase != .idle && d.scn.phase != .committed && reached d.tb.st d.scn.tK
    let l := if next then d.scn.nextLog else d.scn.log
    if 2048 ≤ l.length then
      let d := (d.cnt (SCN_CNT 3)).ringBit .scn 5
      if next || d.scn.phase = .idle || d.scn.phase = .committed then d.setScn (fun s => { s with withheldNext := true })
      else if d.scn.phase = .judged && d.scn.commits then d.scanOverrun
      else d.setScn (fun s => { s with withheld := true })
    else if next then d.setScn (fun s => { s with nextLog := s.nextLog ++ [(i, v)] })
    else d.setScn (fun s => { s with log := s.log ++ [(i, v)] })

/-- What a read of the retained area returns: an engine the newest logged value, a host the stable one (R449). -/
def Dev.retRead (d : Dev) (who : Initiator) (i : Nat) : Word :=
  let stable := d.mword (keyRet + 4 * i)
  if isHost who then stable
  else match (d.scn.log ++ d.scn.nextLog).reverse.find? (fun e => e.1 == i) with
    | some e => e.2
    | none => stable

/-- The device leaves Run: to Hold the scan holds, else it stops (R458); it leaves Hold: as a release, or a stop. -/
def Dev.scanMode (d : Dev) (old new : Mode) : Dev :=
  if old ≠ .run && old ≠ .hold then d
  else
    let d := d.scanSettle
    if old = .run && new = .hold then
      if d.scn.state = .run then d.setScn (fun s => { s with state := .hold, devHold := true }) else d
    else if old = .hold && new = .run then
      if d.scn.state = .hold && d.scn.devHold then d.setScn (fun s => { s with releaseReq := true, devHold := false }) else d
    else if d.scn.state ≠ .stop then d.scanToStop 1
    else if d.scn.started then d.scanUnstart
    else d

end Sys2Proof.Machine
end

