-- ==== Sys2Proof/Machine/Modes.lean ====
section
/-!
DEFINITION. Entering a mode (R27-R34, R538 and the mode rules of the other chapters), the resets of the main domain
(R9, R35, R62, R537), wakes (R44-R51) and the sleep agreement (R48-R50).
-/
namespace Sys2Proof.Machine

/-! ### Blocks at a change of mode -/

/-- A treadle that makes steps stops, at once or by its ramp (R129); with an accel of 0 at once. DESIGN CHOICE, log entry 88. -/
def Dev.trdModeStop (d : Dev) (n : Nat) : Dev :=
  if d.trdMode n = 4 || d.trdMode n = 5 || d.trdMode n = 6 then
    if d.b TRD_CTRL 0 && d.r (TRD_RAMP_ACCEL n) ≠ 0 then
      d.setTrdl n (fun t =>
        { t with ramp := if t.inc = 0 then .none else .stopping, rampAt := d.tb.now, leader := none })
    else d.setTrdl n (fun t => { t with inc := 0, ramp := .none, leader := none, stepWait := 0 })
  else d

/-- A shuttle at an entry to `m` (R440). -/
def shtMode (m : Mode) (s : Shuttle) : Shuttle :=
  match s.state with
  | .off => s
  | .fault => s
  | .frozen =>
    (match m with
     | .hold => s
     | .spare => { s with state := .halted }
     | .safe => { s with state := .halted }
     | _ => { s with state := s.resume })
  | .halted =>
    (match m with
     | .spare => s
     | .safe => s
     | .hold => { s with state := .frozen }
     | _ => { s with state := s.resume })
  | st =>
    (match m with
     | .hold => { s with state := .frozen, resume := st }
     | .spare => { s with state := .halted, resume := st }
     | .safe => { s with state := .halted, resume := st }
     | .provision => { s with state := .off }
     | _ => s)

/-- An engine may dispatch again once Hold or Spare has ended (R131). -/
def Dev.engMode (d : Dev) (e : Nat) : Dev :=
  if d.b (ENG_CTRL e) 0 && !(d.b (ENG_CTRL e) 1) && !(d.eng e).retired then d.setEng e (fun x => { x with stopped := false })
  else d

/-- What is settled while the device still stands in its old mode: pins that keep their safe states (R424), the scan unit
(R458), what has become late in Hold, and outputs that are withheld (R29). -/
def Dev.modeLeave (d : Dev) (m : Mode) : Dev :=
  let old := d.mode
  let d := if m = .hold then d.pinsFreeze else d.pinsKeepSafe
  let d := d.scanMode old m
  let d := if old = .hold then d.actCommitted.holdLate.holdLateWaves else d
  if (old = .run && m != .run && m != .hold) || (old = .hold && m != .run) then d.withholdAll else d

/-- The mode changes, and the always-on log tells of it (R34, R59). -/
def Dev.modeSet (d : Dev) (m : Mode) : Dev := (d.setPwr (fun p => { p with mode := m })).logEvent 0x01 0 m.code

/-- Treadles stop in Stop and Safe (R129). -/
def Dev.modeTreadles (d : Dev) (m : Mode) : Dev :=
  if m = .stop || m = .safe then d.each (tkeys d.trd.t) Dev.trdModeStop else d

/-- Shuttles freeze, halt or resume (R440). -/
def Dev.modeShuttles (d : Dev) (m : Mode) : Dev :=
  { d with sht := d.sht.map (fun (p : Nat × Shuttle) => (p.1, shtMode m p.2)) }

/-- The frame bridge's queue is kept in Stop, Run and Hold only (R490). -/
def Dev.modeFrames (d : Dev) (m : Mode) : Dev :=
  if m = .stop || m = .run || m = .hold then d else { d with fbr := [] }

/-- Engines go on when Hold or Spare ends (R131). -/
def Dev.modeEngines (d : Dev) (old : Mode) : Dev :=
  if old = .hold || old = .spare then d.each (tkeys d.cut.engines) Dev.engMode else d

/-- The test access port keeps to BYPASS and IDCODE outside Boot, Provision and Stop (R530). -/
def Dev.modeTap (d : Dev) (m : Mode) : Dev :=
  if m = .boot || m = .provision || m = .stop then d else { d with tap := { d.tap with ir := .idcode } }

/-- The multi-drop buses (R399). -/
def Dev.modeBuses (d : Dev) (m : Mode) : Dev :=
  (if m = .safe then d.mdbSafe else d).each (List.range 8) (fun d n => (d.canCut n).canOffer n)

/-- A takeover, a relinquishment and a demotion end with any mode but Run. -/
def Dev.modePair (d : Dev) (m : Mode) : Dev :=
  if m = .run then d else { d with red := { d.red with demoted := false, relinquish := false, taking := false } }

/-- Cutter commands that waited in Hold run when it ends (R218, R222). -/
def Dev.modeCmds (d : Dev) (old m : Mode) : Dev :=
  if old = .hold && m != .boot then d.holdCmds else d

/-- The device enters mode `m` (R27, R34): what every chapter does then, and the mode-entry log entry. -/
def Dev.enterMode (d : Dev) (m : Mode) : Dev :=
  let e := ((((d.modeLeave m).modeSet m).modeTreadles m).modeShuttles m).modeFrames m
  let e := ((((e.modeEngines d.mode).modeTap m).modeBuses m).modePair m).modeCmds d.mode m
  (e.pinsSeen d).roleView

/-- Entry to Safe (R33): never refused, and a transition in progress is pre-empted. It has no effect where there is no
transition to Safe (R30). -/
def Dev.safeEntry (d : Dev) : Dev :=
  if !(d.modeIn [.stop, .run, .hold, .spare]) || !d.pwr.mainUp then d
  else
    let d := if d.pwr.trans = .idle then d else (d.setPwr (fun p => { p with trans := .idle, pwrEn := true })).reqDone 7
    d.enterMode .safe

/-! ### Resets -/

/-- What a WARM reset of the main domain leaves (R9, R10, R35, R62, R128, R223, R268, R333, R440): the always-on domain,
TAI with the servo, the retained area, OTP and external memory stay. -/
def Dev.mainReset (d : Dev) : Dev :=
  let before := d
  let valid := d.b TB_STAT 0
  let keep := fun (c : Host.Cell) => (keyRet ≤ c.1 && c.1 < keyRet + 0x40000) || keyExt ≤ c.1
  let d : Dev :=
    { Dev.reset with
      regs := d.regs.map (fun (p : Nat × Word) => (p.1, warmValue p.1 p.2))
      mem := d.mem.filter keep
      pwr := { d.pwr with mode := .boot, trans := if d.pwr.trans = .powerDown then .powerDown else .idle, reqStatus := 0,
                          mainUp := false, flushing := none, flushImg := [], flushForSleep := false, sleepFlushed := false,
                          release := if d.pwr.mode = .boot then d.pwr.release else .warm }
      tb := { TimeBase.init with now := d.tb.now, sec := d.tb.sec, ns := d.tb.ns, frac := d.tb.frac, y := d.tb.y,
                                 i := d.tb.i, msLo := d.tb.msLo, msHi := d.tb.msHi, pd := d.tb.pd, lossBase := d.tb.now,
                                 relocking := d.tb.relocking, relockAt := d.tb.relockAt, genSteps := d.tb.genSteps,
                                 out10m := d.tb.out10m, ppsAt := d.tb.ppsAt }
      memb := { MemBlock.init with decayAt := d.tb.now, refAt := d.tb.now }
      scn := { Scan.init with retValid := d.scn.retValid }
      sec := { Security.init with otp := d.sec.otp, dbgUnlocked := false, dbgFails := d.sec.dbgFails,
                                  bootFail := d.sec.bootFail, failImg := d.sec.failImg, rngFail := d.sec.rngFail,
                                  keyWr := d.sec.keyWr, idPub := d.sec.idPub }
      tap := d.tap
      obs := d.obs
      freeCtr := d.freeCtr }
  let d := { d with sec := { d.sec with dbgUnlocked := d.lifecycle = 0 } }
  let d := d.wf TB_JUMP_STAT 1 0 (b2n valid)
  d.pinsSeen before

/-- A reset source is recorded (R37) and logged (R59). -/
def Dev.resetCause (d : Dev) (bit : Nat) : Dev :=
  let d := d.wb PWR_RESET_CAUSE bit true
  d.logEvent 0x02 0 (d.r PWR_RESET_CAUSE).toNat

/-- The TAI counter, anchored (R64). -/
def Dev.anchorNow (d : Dev) : Dev :=
  { d with tb := { d.tb with anchor := ⟨d.tb.st, d.tb.sec, d.tb.ns, d.gen⟩ } }

/-- TAI comes from the holdover counter (R72), or is undefined when the counter was not synchronised. -/
def Dev.taiFromHoldover (d : Dev) : Dev :=
  if !(d.b PWR_HOLD_STAT 0) then
    let c := d.pwr.holdCnt
    let d := { d with tb := { d.tb with sec := c / 1000000000, ns := c % 1000000000, frac := 0 } }
    let d := ((d.wf TB_STAT 2 1 3).wb TB_STAT 0 true).wf TB_JUMP_STAT 1 0 1
    (d.anchorNow).ringBit .tb 5
  else
    let (a, d) := d.free
    let (b, d) := d.free
    let (c, d) := d.free
    let d := { d with tb := { d.tb with sec := a.toNat, ns := b.toNat % 1000000000, frac := c.toNat } }
    ((d.wf TB_STAT 2 1 0).wb TB_STAT 0 false).wf TB_JUMP_STAT 1 0 0

/-- The main domain leaves reset where nothing holds it, and the mode passes to Boot (R30, R34, R61, R514, R537); `kind`
names a release that decides what Boot reloads. The anchor registers stand at their reset value until TAI is next anchored
(R62, R64). -/
def Dev.mainRelease (d : Dev) (kind : Option ReleaseKind) : Dev :=
  let d := d.setPwr (fun p => { p with release := kind.getD p.release })
  if d.pwr.mainUp || !d.pwr.pgMain || !d.pwr.pwrEn || d.pwr.warmLow || d.pwr.porLow || d.pwr.supplyLow || d.pwr.pllLost then d
  else
    let d := d.setPwr (fun p => { p with mainUp := true, mode := .boot, pgHeld := false })
    let d := { d with tb := { d.tb with st := 0, lossBase := d.tb.now } }
    d.logEvent 0x01 0 1

/-- A WARM reset pulse (R9, R58): asserted, and released where nothing else holds the domain in reset. -/
def Dev.warmPulse (d : Dev) (bit : Nat) : Dev := ((d.mainReset).resetCause bit).mainRelease none

/-- A POR (R9, R35, R37): everything but the OTP, the flash slots, the model's own counters and the TAP. -/
def Dev.porReset (d : Dev) : Dev :=
  let before := d
  let d : Dev :=
    { Dev.reset with
      pwr := { Pwr.init with mainUp := false, pwrEn := false, pgMain := d.pwr.pgMain, porLow := d.pwr.porLow,
                             supplyLow := d.pwr.supplyLow, warmLow := d.pwr.warmLow, flash := d.pwr.flash,
                             straps := d.pwr.straps }
      tb := { TimeBase.init with now := d.tb.now, lossBase := d.tb.now }
      memb := { MemBlock.init with decayAt := d.tb.now, refAt := d.tb.now }
      sec := { Security.init with otp := d.sec.otp, dbgUnlocked := false }
      tap := d.tap
      obs := d.obs
      freeCtr := d.freeCtr }
  let d := { d with sec := { d.sec with dbgUnlocked := d.lifecycle = 0 } }
  let d := if before.pwr.pwrEn then d.emit (.pwrEn false) else d
  let d := if before.pwr.warmLow then d.wb PWR_RESET_CAUSE 1 true else d
  d.pinsSeen before

/-- The POR is released (R512-R514): the straps are sampled, PWR_EN_MAIN rises, the main domain follows PG_MAIN. -/
def Dev.porReleased (d : Dev) : Dev :=
  if d.pwr.porLow || d.pwr.supplyLow then d
  else
    let d := d.logEvent 0x02 0 (d.r PWR_RESET_CAUSE).toNat
    let d := (d.setPwr (fun p => { p with pwrEn := true, porAt := d.tb.now })).emit (.pwrEn true)
    d.mainRelease (some .por)

/-! ### Wakes and sleep -/

/-- PWR_EN_MAIN changes (R43). -/
def Dev.powerEn (d : Dev) (v : Bool) : Dev :=
  if d.pwr.pwrEn = v then d else (d.setPwr (fun p => { p with pwrEn := v })).emit (.pwrEn v)

/-- A wake is accepted in Holdover: PWR_EN_MAIN rises, and the 50 ms of R43 begin. -/
def Dev.wakeAct (d : Dev) : Dev :=
  if d.mode = .holdover && d.pwr.wakeSince.isNone && d.pwr.retrySince.isNone then
    (d.powerEn true).setPwr (fun p => { p with wakeSince := some d.tb.now, wakePending := false, wokeAt := d.tb.now })
  else d

/-- A wake source fires (R47): cause and log; then a sleep agreement is aborted (R49), a power-down remembers it (R50, R51),
and Holdover ends (R43). `bit` is the source's bit of PWR_WAKE_CAUSE, `src` its index. -/
def Dev.wake (d : Dev) (bit src : Nat) (mdb : Bool) : Dev :=
  let d := d.wb PWR_WAKE_CAUSE bit true
  let d := d.logEvent 0x03 src (d.r PWR_WAKE_CAUSE).toNat
  let first := d.mode = .holdover && d.pwr.wakeSince.isNone && d.pwr.retrySince.isNone && !d.pwr.wakePending
  let fresh := first || (d.pwr.trans = .powerDown && !d.pwr.wakePending)
  let d := d.setPwr (fun p =>
    { p with wakeByMdbOnly := if fresh then mdb else p.wakeByMdbOnly && mdb,
             wakeKept := if fresh then false else p.wakeKept })
  match d.pwr.trans with
  | .agreeing _ _ _ _ _ _ =>
    let d := d.setPwr (fun p => { p with trans := .idle, sleepFlushed := false })
    let d := (d.logEvent 0x08 0 0).reqDone 5
    if d.mode = .stop then d else d.enterMode .stop
  | .powerDown => d.setPwr (fun p => { p with wakePending := true })
  | _ => if d.mode = .holdover then d.wakeAct else d

/-- Channels that still run, or have outputs to deliver. -/
def Dev.chansBusy (d : Dev) : Bool :=
  d.cut.chans.any (fun p => match p.2.st with
    | .running => true | .stopping => true | .recovering => true | .migrating => true | _ => false)

/-- Every running channel is to stop at its next period boundary (R48, R538); one that recovers or drains a migration
stops after that. -/
def Dev.stopAll (d : Dev) : Dev :=
  d.each (tkeys d.cut.chans) (fun d c =>
    match (d.chan c).st with
    | .running => d.stopChannel c
    | .migrating => d.stopChannel c
    | .recovering => d.setChan c (fun ch => { ch with stopReq := true })
    | _ => d)

/-- The holdover counter is loaded from TAI (R42). -/
def Dev.holdLoad (d : Dev) : Dev :=
  (d.setPwr (fun p => { p with holdCnt := d.taiNs, holdFrac := 0 })).wb PWR_HOLD_STAT 0 false

/-- The commit point of a sleep (R42, R48, R50): the holdover counter takes TAI, power-down starts. -/
def Dev.sleepCommit (d : Dev) : Dev :=
  let d :=
    if d.b TB_STAT 0 then d.holdLoad else d.wb PWR_HOLD_STAT 0 true
  (d.setPwr (fun p => { p with trans := .powerDown, sleepFlushed := false })).powerEn false

/-- The commit point is reached when every party has agreed. -/
def Dev.sleepTry (d : Dev) : Dev :=
  match d.pwr.trans with
  | .agreeing _ _ cutter scan sec hbr => if cutter && scan && sec && hbr then d.sleepCommit else d
  | _ => d

/-- A party of the sleep agreement has done its part and agrees (R48): the Cutter has stopped every channel, the scan unit
has completed its cycle and its flush, the security unit erases its keys once no job is left, the bridge has drained. -/
def Dev.partyAgree (d : Dev) (p : SleepParty) : Dev :=
  match d.pwr.trans with
  | .agreeing src since cu sc se hb =>
    match p with
    | .cutter =>
      if d.chansBusy then d else (d.setPwr (fun x => { x with trans := .agreeing src since true sc se hb })).sleepTry
    | .scan =>
      if d.pwr.sleepFlushed then (d.setPwr (fun x => { x with trans := .agreeing src since cu true se hb })).sleepTry else d
    | .sec =>
      if d.sec.jobs.all (fun q => q.2.isEmpty) then
        (({ d with sec := { d.sec with keys := [] } }).setPwr
          (fun x => { x with trans := .agreeing src since cu sc true hb })).sleepTry
      else d
    | .hbr =>
      if d.hbr.postPcie.isEmpty && d.hbr.postLb.isEmpty then
        (d.setPwr (fun x => { x with trans := .agreeing src since cu sc se true })).sleepTry
      else d
  | _ => d

/-- The agreement's time is over: it completes with TIMEOUT unless it has been committed (R48).
DEDUCED, log entry 85. -/
def Dev.agreeOver (d : Dev) : Dev :=
  if d.agreeing then ((d.setPwr (fun p => { p with trans := .idle, sleepFlushed := false })).logEvent 0x0A 0 0).reqDone 4 else d

/-- A sleep agreement begins (R48): with no parties for a false wake (R46). With a timeout of zero it ends at once: every
party that has nothing left to do has agreed by then. DEDUCED, log entry 85. -/
def Dev.sleepBegin (d : Dev) (noParties : Bool) : Dev :=
  let d := d.setPwr (fun p =>
    { p with trans := .agreeing d.mode d.tb.now noParties noParties noParties noParties, sleepFlushed := false,
             ownSleep := noParties })
  if noParties then d.sleepTry
  else
    let d := d.stopAll.sleepFlush
    if d.f PWR_SLEEP_CFG 15 0 = 0 then
      ([SleepParty.cutter, .scan, .sec, .hbr].foldl Dev.partyAgree d).agreeOver
    else d

end Sys2Proof.Machine
end

