-- ==== Sys2Proof/Machine/FaultOps.lean ====
section
/-!
DEFINITION. The fault classifier and what a retirement does (R260-R269, R302, R326, R388), and the recovery of channels
(R239, R240).
-/
namespace Sys2Proof.Machine

/-! ### Recovery (R239, R240) -/

/-- The output belongs to an input that was sealed at or before the channel's last checkpoint: a replay does not give it again. -/
def Dev.sealedByCkpt (d : Dev) (c : Nat) (o : Out) : Bool :=
  o.isSealed && o.desc != 14 && (match (d.chan c).ckpt with
    | some ck => (match ck.lastSealed with | some (st, _) => reached st o.inSt | none => false)
    | none => false)

/-- A channel's context is placed afresh, away from its engine; its outputs of inputs sealed before the checkpoint go with
it. Without a place, a command-class channel takes the device to Safe, and a stream-class channel is FAULTED. A channel whose
views disagree is not placed (R249). DEDUCED, log entry 29. -/
def Dev.rePlace (d : Dev) (c : Nat) (f : Word) (replay : Bool) : Dev :=
  if d.isHeld c then d
  else
    let old := (d.act c).eng
    let kept := (d.eng old).outq.filter (fun o => o.key == c && d.sealedByCkpt c o)
    let d0 := d.dropKey c
    match d0.placeOn c ((d0.candidates c).filter (fun e => e != old)) with
    | .inr d =>
      let d := d.setEng (d.act c).eng (fun e => { e with outq := e.outq ++ kept })
      let d := (d.mgmtTake c).restoreCkpt c
      if replay then d.replayFrom c f (d.chan c).takeover else d.setChan c (fun ch => { ch with replay := 0 })
    | .inl _ =>
      if bitOf (d.desc c 0) 16 then d.safeEntry
      else
        let d := d0.setEng old (fun e => { e with outq := e.outq ++ kept })
        ((d.setChan c (fun ch => { ch with st := .faulted, backTo := none, recF := none })).mgmtTake c).ringBit .cut 5

/-- The shadow's engine takes channel `c` over: the context takes the channel's key, and its suppressed outputs due after `f` are
the channel's. -/
def Engine.takeOver (e : Engine) (c : Nat) (f : Word) : Engine :=
  let k := 512 + c
  let ren := fun j => if j = k then c else j
  { e with
    slots := e.slots.map (fun p => (p.1, p.2.map ren))
    cur := e.cur.map ren
    loaded := e.loaded.map ren
    evq := e.evq.map (fun (v : Ev) => { v with chan := ren v.chan })
    outq := (e.outq.filter (fun o => !(o.key == k && reached f o.rel))).map
      (fun (o : Out) => if o.key == k then { o with key := c, muted := false } else o)
    far := e.far.map (fun (x : FarOp) => { x with key := ren x.key }) }

/-- The channel's migration meets the loss of the original's engine before its switch-over (R240): a shadow that has caught up
takes over at `f` with no replay; otherwise it is discarded. Answers whether the channel lives on.
DEDUCED, log entry 29. -/
def Dev.recoverMig (d : Dev) (c : Nat) (f : Word) : Dev × Bool :=
  match (d.chan c).mig with
  | none => (d, false)
  | some m =>
    if m.switched.isSome then (d, false)
    else if m.shadowUp && d.caughtUp c && !(d.isHeld c) then
      let n := d.act (512 + c)
      let d := (d.dropKey c).setEng n.eng (fun e => e.takeOver c f)
      let d := { d with cut := { d.cut with acts := terase (tset d.cut.acts c n) (512 + c) } }
      let d := (d.setChan c (fun ch => { ch with mig := none, st := .running })).mgmtTake c
      (((d.satf CUT_MIGRATE_CNT 15 0 1).ringBit .cut 8).cmdDone? m.port 0 (some n.eng), true)
    else (d.endMigration c 13, false)

/-- An affected channel recovers (R239): whatever its state, it enters RECOVERING with the fault clock `f`, its context stopped;
with recover_en at 1 it is placed afresh from its checkpoint and its journal replayed; one that was not running goes back to its
state afterwards. DEDUCED, log entry 29. -/
def Dev.recover (d : Dev) (c : Nat) (f : Word) : Dev :=
  let (d, lives) := d.recoverMig c f
  let ch := d.chan c
  if lives || ch.st = .free then d
  else
    let back := match ch.st with
      | .created => some ChanState.created | .armed => some .armed | .faulted => some .faulted
      | .recovering => ch.backTo | _ => none
    let d := (d.setChan c (fun ch => { ch with st := .recovering, backTo := back, recF := some f })).ringBit .cut 6
    let d := (d.setAct c (fun a => { a with st := .faulted })).setEng (d.act c).eng
      (fun e => { e with cur := if e.cur = some c then none else e.cur })
    if d.b CUT_CTRL 1 then d.rePlace c f (back.isNone || back == some .created) else d

/-- The original of a switched migration leaves before it has drained: those of its outputs that `keep` picks stay with the
channel, and the migration completes. DEDUCED, log entry 28. -/
def Dev.drainEnd (d : Dev) (c : Nat) (m : Migration) (keep : Out → Bool) : Dev :=
  let k := 512 + c
  let kept := ((d.eng (d.act k).eng).outq.filter (fun o => o.key == k && o.desc != 14 && keep o)).map
    (fun (o : Out) => { o with key := c })
  let d := d.migrateEnd c m
  d.setEng (d.act c).eng (fun e => { e with outq := e.outq ++ kept })

/-- The original of a switched migration is lost: the channel, which it still served, is affected and recovers (R239).
DEDUCED, log entry 29. -/
def Dev.drainLost (d : Dev) (c : Nat) (f : Word) : Dev :=
  match (d.chan c).mig with
  | some m => (d.drainEnd c m (fun o => d.sealedByCkpt c o)).recover c f
  | none => d

/-- The contexts that `hit` picks lose their engine, bank or region at this clock. -/
def Dev.strikeKeys (d : Dev) (hit : Dev → Nat → Bool) : Dev :=
  let f := d.tb.st
  let l := (d.placed).filter (fun k => hit d k)
  let drains := (l.filter (fun k => 512 ≤ k && (match (d.chan (keyChan k)).mig with
    | some m => m.switched.isSome
    | none => false))).map keyChan
  let shadows := (l.filter (fun k => 512 ≤ k && !(drains.contains (keyChan k)))).map keyChan
  let d := d.each shadows (fun d c => d.endMigration c 13)
  let d := d.each drains (fun d c => d.drainLost c f)
  d.each (l.filter (fun k => k < 512 && !(drains.contains k))) (fun d c => d.recover c f)

/-! ### The classifier (R261, R265-R267) -/

/-- Cells of the shared pool: what retired sub-banks and the reserves leave (R322). -/
def Dev.poolCells (d : Dev) : Int :=
  let dead := (List.range 8).countP (fun i => d.b SWC_STAT (8 + i))
  let rsv := (List.range 22).foldl (fun n p => (List.range 8).foldl (fun n q => n + d.f (SWC_Q_LIM p q) 15 0) n) 0
  49152 - 6144 * (dead : Int) - rsv

/-- On-chip cells of queue (p, q): those that wait, and the frame that the port is sending. -/
def Dev.chipCells (d : Dev) (p q : Nat) : Nat :=
  let on := fun (e : QEntry) => if e.charge == .reserve || e.charge == .pool then e.cells else 0
  let now := match (d.port p).sending with
    | some s => if s.e.f.cls = q then on s.e else 0
    | none => 0
  (d.queue p q).foldl (fun n e => n + on e) now

/-- Byte offset in external memory of a frame in the bolt store. DEDUCED, log entry 45. -/
def Dev.boltOffset (d : Dev) (cell : Nat) : Nat :=
  let n := d.f XMC_BOLT_SIZE 13 0 * 2 ^ 20
  d.f XMC_BOLT_BASE 13 0 * 2 ^ 20 + (if n = 0 then 0 else cell * 128 % n)

/-- Frames of the bolt store in a retired region are lost and counted. -/
def Dev.boltRetire (d : Dev) (r : Nat) : Dev :=
  d.each (tkeys d.swc.q) (fun d q =>
    let l := tget [] d.swc.q q
    let hit := fun (e : QEntry) => e.charge == .bolt &&
      (List.range e.cells).any (fun i => d.extRegion (d.boltOffset (e.cell + i)) == r)
    let n := (l.filter hit).length
    if n = 0 then d
    else ({ d with swc := { d.swc with q := tset d.swc.q q (l.filter (fun e => !hit e)) } }).cnt (SWC_CNT 9) n)

/-- The owning block stops using resource `r` (R131, R268, R302, R326, R388). -/
def Dev.retire (d : Dev) (r : Nat) : Dev :=
  if r < 0x60 then
    let d := d.setEng r (fun e => { e with retired := true, stopped := true, cur := none })
    d.strikeKeys (fun d k => (d.act k).eng == r)
  else if r < 0xA0 then
    let b := r - 0x60
    let d := d.wb (MEM_BANK_STAT b) 0 true
    d.strikeKeys (fun d k => (d.mapped (keyChan k)).any (fun p => bankOfKey (tget 0 (d.act k).winPhys p.1) == some b))
  else if r < 0xE0 then
    let g := r - 0xA0
    let d := if g < 32 then d.wb XMC_RETIRED_LO g true else d.wb XMC_RETIRED_HI (g - 32) true
    let d := d.satf XMC_STAT 15 8 1
    let d := d.boltRetire g
    let inReg := fun (k : Nat) => keyExt ≤ k && d.extRegion (k - keyExt) == g
    let d := d.each (d.liveChans) (fun d c => match (d.chan c).journalAt with
      | some a => if inReg a then
          let d := d.setChan c (fun ch => { ch with journalAt := none })
          match d.poolPlace 4096 with
          | some x => d.setChan c (fun ch => { ch with journalAt := some x })
          | none => d
        else d
      | none => d)
    d.strikeKeys (fun d k => (d.mapped (keyChan k)).any (fun p =>
      let a := tget 0 (d.act k).winPhys p.1
      keyExt ≤ a && d.extRegion (a - keyExt) ≤ g && g ≤ d.extRegion (a + fld p.2 19 0 * 4096 - 1 - keyExt)))
  else if r < 0xF4 then
    let p := r - 0xE0
    let d := d.setPort p (fun m => { m with sending := m.sending.map (fun s => s.cutOff d.tb.now) })
    ((d.wb (MAC_STAT p) 4 true).portView p).ringBit (.mac p) 5
  else if r < 0xFC then
    let d := d.wb SWC_STAT (8 + (r - 0xF4)) true
    if d.poolCells < 0 && !(d.b SWC_STAT 1) then
      let lim := (List.range 176).map (fun k => (k, d.chipCells (k / 8) (k % 8)))
      (({ d with swc := { d.swc with limit := lim } }).wb SWC_STAT 1 true).ringBit .swc 1
    else d
  else (d.wb SLV_STAT (12 + (r - 0xFC)) true).ringBit .slv 9

/-- A resource is classified permanent, once (R267). Every owning block of this model stops using it at that clock, so the two
views of R269 agree at once. DESIGN CHOICE, log entry 91. -/
def Dev.permanent (d : Dev) (r : Nat) : Dev :=
  if d.b (MEM_FC_RES r) 5 then d
  else
    let d := (d.wb (MEM_FC_RES r) 5 true).ringBit .mem 2
    let d := { d with memb := { d.memb with permAt := tset d.memb.permAt r d.tb.now } }
    (d.retire r).wb (MEM_FC_RES r) 6 true

/-- Length of a decay period, ns (R266). -/
def Dev.decayTime (d : Dev) : Nat := (d.f MEM_FC_CFG 23 8 + 1) * 1000000

/-- Every counter above zero that is not frozen falls by one for each decay period that has ended (R266, R267). -/
def Dev.strikeDecay (d : Dev) : Dev :=
  let n := (d.tb.now - d.memb.decayAt) / d.decayTime
  if n = 0 then d
  else
    let d := { d with memb := { d.memb with decayAt := d.memb.decayAt + n * d.decayTime } }
    d.each (List.range 254) (fun d r =>
      if d.b (MEM_FC_RES r) 5 || d.f (MEM_FC_RES r) 4 0 = 0 then d
      else d.wf (MEM_FC_RES r) 4 0 (d.f (MEM_FC_RES r) 4 0 - n))

/-- A corrected symbol adds a strike, after a decay of the same tick (R266). -/
def Dev.strike (d : Dev) (r : Nat) : Dev :=
  let d := d.strikeDecay.satf (MEM_FC_RES r) 31 16 1
  if d.b (MEM_FC_RES r) 5 then d
  else
    let n := d.f (MEM_FC_RES r) 4 0 + 1
    let d := d.wf (MEM_FC_RES r) 4 0 (Nat.min 31 n)
    if d.f MEM_FC_CFG 4 0 < n then d.permanent r else d

/-- An entry of MEM_ERR_LOG. -/
def Dev.errLog (d : Dev) (r : Nat) (uncorr : Bool) (reader sym addr : Nat) : Dev :=
  let i := d.f MEM_ERR_HEAD 4 0
  let d := if d.b (MEM_ERR_LOG i 3) 16 then d.satf MEM_ERR_HEAD 31 16 1 else d
  let d := d.w (MEM_ERR_LOG i 0) d.tb.st
  let d := d.w (MEM_ERR_LOG i 1) (w32 (r + 256 * b2n uncorr + 512 * reader + 65536 * sym))
  let d := d.w (MEM_ERR_LOG i 2) (w32 addr)
  let d := d.w (MEM_ERR_LOG i 3) (w32 (d.memb.logSeq + 65536))
  let d := d.wf MEM_ERR_HEAD 4 0 ((i + 1) % 32)
  { d with memb := { d.memb with logSeq := wrapAdd 16 d.memb.logSeq 1 } }

/-- The counters of the block that owns a memory resource. -/
def Dev.eccCount (d : Dev) (r : Nat) (uncorr : Bool) : Dev :=
  if 0x60 ≤ r && r < 0xA0 then
    if uncorr then d.satf (MEM_BANK_CNT (r - 0x60)) 15 8 1 else d.satf (MEM_BANK_CNT (r - 0x60)) 7 0 1
  else if 0xA0 ≤ r && r < 0xE0 then
    if uncorr then (d.cnt XMC_CNT_UNCORR).ringBit .xmc 1 else (d.cnt XMC_CNT_CORR).ringBit .xmc 0
  else if r < 0x60 then
    if uncorr then d else d.ringBit (.eng r) 6
  else d

/-- A read of resource `r` corrected symbol `sym` (R261). -/
def Dev.corrected (d : Dev) (r reader sym addr : Nat) : Dev :=
  (((d.errLog r false reader sym addr).eccCount r false).ringBit .mem 0).strike r

/-- A read of resource `r` found an uncorrectable codeword (R261). -/
def Dev.uncorrectable (d : Dev) (r reader addr : Nat) : Dev :=
  (((d.errLog r true reader 0 addr).eccCount r true).ringBit .mem 1).permanent r

/-- What a check found on resource `r`. -/
def Dev.ecc (d : Dev) (r reader addr : Nat) (c : Ecc) : Dev :=
  match c with
  | .clean => d
  | .corrected s => d.corrected r reader s.val addr
  | .uncorr => d.uncorrectable r reader addr

/-- The resource of a key of `Dev.mem`, and the physical address that the log shows: bank, external region, or engine-local
memory (R265). -/
def Dev.resOf (d : Dev) (k : Nat) : Nat × Nat :=
  match bankOfKey k with
  | some b => (0x60 + b, 0x20000000 + (k - 0x1000000))
  | none => if keyExt ≤ k then (0xA0 + d.extRegion (k - keyExt), k - keyExt) else (k / 0x10000, k % 0x10000)

/-- A read of memory at key `k` by reader `reader`, with what the check found; a retired bank or region is not judged any
more (R268). -/
def Dev.readEcc (d : Dev) (k reader : Nat) (c : Ecc) : Dev :=
  if d.keyRetired k then d else d.ecc (d.resOf k).1 reader (d.resOf k).2 c

/-! ### Resources beside the rows of memory (R260, R265) -/

/-- An engine's queue is read: the spec gives its places no address, so the log shows a free value.
DESIGN CHOICE, log entry 91. -/
def Dev.queueEcc (d : Dev) (e : Nat) (c : Ecc) : Dev :=
  if c == .clean || (d.eng e).retired then d
  else
    let (a, d) := d.free
    d.ecc e 4 a.toNat c

/-- The datapath of port `p` (resource 0xE0 + p), or of ring lane A or B (0xFC, 0xFD), is checked: the log shows no address of
it, so a free value. DESIGN CHOICE, log entry 91. -/
def Dev.pathEcc (d : Dev) (r : Nat) (c : Ecc) : Dev :=
  if c == .clean || d.b (MEM_FC_RES r) 6 then d
  else
    let (a, d) := d.free
    d.ecc r 5 a.toNat c

/-- A memory is read to which R265 gives no resource (the Cutter's tables, the retained area): the log shows a free one and a
free address, and no strike is charged. DESIGN CHOICE, log entry 91. -/
def Dev.ownEcc (d : Dev) (c : Ecc) : Dev :=
  match c with
  | .clean => d
  | .corrected s =>
    let (r, d) := d.free
    let (a, d) := d.free
    (d.errLog (r.toNat % 256) false 5 s.val a.toNat).ringBit .mem 0
  | .uncorr =>
    let (r, d) := d.free
    let (a, d) := d.free
    (d.errLog (r.toNat % 256) true 5 0 a.toNat).ringBit .mem 1

/-- The Cutter's tables are read: an uncorrectable codeword is a permanent fault of an essential resource (R31, R33).
DESIGN CHOICE, log entry 91. -/
def Dev.tableEcc (d : Dev) (c : Ecc) : Dev := if c == .uncorr then (d.ownEcc c).safeEntry else d.ownEcc c

/-! ### External memory (R262, R268, R271, R273) -/

/-- A read of external memory by `reader`, retried once when it is uncorrectable; answers whether the reader gets poison.
DEDUCED, log entry 23. -/
def Dev.extEcc (d : Dev) (key reader : Nat) (c retry : Ecc) : Dev × Bool :=
  if d.keyRetired key then (d, true)
  else match c with
    | .uncorr =>
      (match retry with
       | .uncorr => (d.readEcc key reader .uncorr, true)
       | r =>
         let d := ((d.strike (d.resOf key).1).cnt XMC_CNT_RETRY).ringBit .xmc 2
         (d.readEcc key reader r, false))
    | c => (d.readEcc key reader c, false)

/-- Some of the `n` bytes from key `k` lie in a retired region (R268). -/
def Dev.spanRetired (d : Dev) (k n : Nat) : Bool := d.keyRetired k || d.keyRetired (k + n - 1)

/-- Bytes written into external memory: those that fall in a retired region are discarded (R268). -/
def Dev.extPut (d : Dev) (k : Nat) (l : List Byte) : Dev :=
  if !(d.spanRetired k l.length) then d.mwr k l
  else d.each (List.range l.length) (fun d i => if d.keyRetired (k + i) then d else d.mwr (k + i) (l.drop i |>.take 1))

/-- The oldest far access of engine `e` to a region that no ordering buffer holds: the next to be performed (R144). It is
`none` while an earlier ORD atomic to that region has not been applied, unless the access is an ORD atomic itself.
DEDUCED, log entry 22. -/
def Dev.farHead (d : Dev) (e : Nat) (r : Region) : Option FarOp :=
  let l := (d.eng e).far.filter (fun f => f.region == r)
  match l.find? (fun f => !f.entered) with
  | some f => if f.ord || !(l.any (fun g => g.entered)) then some f else none
  | none => none

/-- A far load for external memory: the requests of priority 1 (R273). -/
def FarOp.isLoad (f : FarOp) : Bool := !f.store && f.copy.isNone

/-- An engine's request of a priority waits at the controller: 1 its far loads, 2 its far stores and copies of gives (R273). -/
def Dev.extWaits (d : Dev) (load : Bool) : Bool :=
  (tkeys d.cut.engines).any (fun e => match d.farHead e .ext with
    | some f => f.isLoad == load
    | none => false)

/-- A request of priority 1 or 2 waits (R272, R273). -/
def Dev.engineWaits (d : Dev) : Bool := d.extWaits true || d.extWaits false

/-- The posted write is one of external memory. -/
def Posted.isExt (p : Posted) : Bool :=
  p.w.space == .bar4 || (p.w.space == .lbTarget && 0x40000000 ≤ p.w.addr && p.w.addr < 0x80000000)

/-- A posted write of the host waits for external memory: priority 4 (R273). Writes that the semaphore keeps back are not at the
controller. -/
def Dev.hostWaits (d : Dev) : Bool :=
  ((if d.hbr.sem == .lb then [] else d.hbr.postPcie.take 1) ++ d.hbr.postLb.take 1).any Posted.isExt

end Sys2Proof.Machine
end

