-- ==== Sys2Proof/Machine/Frames.lean ====
section
/-!
DEFINITION. Ethernet frames as byte lists, destination address first (R280-R283): tags, EtherTypes, the FCS, PTP messages
(R83-R86), redundancy tags (R336-R338). Bytes are without the FCS unless a name says `WithFcs`.
-/
namespace Sys2Proof.Machine

/-- The FCS of a frame, least significant byte first (IEEE 802.3 clause 3.2.9). -/
def fcsOf (b : List Byte) : List Byte := leBytes 4 (crc32 b).toNat

/-- The frame without its last four bytes, and whether those are its FCS. -/
def cutFcs (b : List Byte) : List Byte := b.take (b.length - 4)
def fcsGood (b : List Byte) : Bool := b.drop (b.length - 4) == fcsOf (cutFcs b)

/-- Zero bytes appended up to a length (R281). -/
def padTo (n : Nat) (b : List Byte) : List Byte := b ++ List.replicate (n - b.length) 0

/-- PRESUMED, log entry 52. -/
def dstOf (b : List Byte) : Nat := beAt b 0 6
/-- PRESUMED, log entry 52. -/
def srcOf (b : List Byte) : Nat := beAt b 6 6

/-- The destination is a group address; the broadcast address. -/
def isGroup (b : List Byte) : Bool := (byteAt b 0).getLsbD 0
def isBcast (b : List Byte) : Bool := dstOf b == 0xFFFFFFFFFFFF

/-- Link-local destinations (R307 step 3). -/
def isLinkLocal (b : List Byte) : Bool := 0x0180C2000000 ≤ dstOf b && dstOf b ≤ 0x0180C200000F

/-- How many tags stand after the source address (R283); `s` is the port's second outer TPID. -/
def tagCount (s : Nat) (b : List Byte) : Nat :=
  let o := beAt b 12 2
  if o = 0x8100 || o = s then (if beAt b 16 2 = 0x8100 then 2 else 1) else 0

/-- Control word of the outer tag: PCP, DEI, VID. -/
def tciOf (b : List Byte) : Nat := beAt b 14 2

/-- Offset of the EtherType behind the tags, and the EtherType. -/
def typeOfs (s : Nat) (b : List Byte) : Nat := 12 + 4 * tagCount s b
def etypeOf (s : Nat) (b : List Byte) : Nat := beAt b (typeOfs s b) 2

/-! ### PTP (R83) -/

/-- A PTP message found in a frame: its type, where it starts, and its carrier: 0 IEEE 802.3, 1 IPv4, 2 IPv6. -/
structure PtpAt where
  msg : Nat
  ofs : Nat
  carrier : Nat
  deriving DecidableEq, Repr

/-- The PTP message of a frame, in the forms that the time base recognises. -/
def ptpOf (s : Nat) (b : List Byte) : Option PtpAt :=
  let t := typeOfs s b
  let e := beAt b t 2
  let port := fun o => beAt b o 2 == 319 || beAt b o 2 == 320
  let at_ : Option (Nat × Nat) :=
    if e = 0x88F7 then some (t + 2, 0)
    else if e = 0x0800 && byteAt b (t + 2) == 0x45 && byteAt b (t + 11) == 17 && port (t + 24) then some (t + 30, 1)
    else if e = 0x86DD && (byteAt b (t + 2)).toNat / 16 = 6 && byteAt b (t + 8) == 17 && port (t + 44) then some (t + 50, 2)
    else none
  match at_ with
  | some (o, c) =>
    let v := (byteAt b (o + 1)).toNat
    if v % 16 = 2 && v / 16 ≤ 1 && o + 34 ≤ b.length then some ⟨(byteAt b o).toNat % 16, o, c⟩ else none
  | none => none

/-- The frame is a PTP event frame. -/
def ptpEvent (s : Nat) (b : List Byte) : Bool :=
  match ptpOf s b with
  | some p => p.msg < 4
  | none => false

/-- correctionField raised by `x` units of 2^-16 ns. -/
def addCorrection (b : List Byte) (p : PtpAt) (x : Int) : List Byte :=
  overwrite b (p.ofs + 8) (beBytes 8 (tc 64 (sx 64 (beAt b (p.ofs + 8) 8) + x)))

/-- originTimestamp set. -/
def setOrigin (b : List Byte) (p : PtpAt) (sec ns : Nat) : List Byte :=
  overwrite b (p.ofs + 34) (beBytes 6 (sec % 2 ^ 48) ++ beBytes 4 ns)

/-- The sum of the big-endian 16-bit words of a list, modulo 65,535 (the UDP checksum's arithmetic). -/
def onesSum : List Byte → Nat
  | a :: b :: t => (256 * a.toNat + b.toNat + onesSum t) % 65535
  | [a] => 256 * a.toNat
  | [] => 0

/-- The UDP checksum after a change of the message from `old` to `new` (R84): zero over IPv4; kept valid over IPv6 through
the last two bytes of the UDP payload. -/
def fixUdp (old new : List Byte) (p : PtpAt) : List Byte :=
  if p.carrier = 1 then overwrite new (p.ofs - 2) [0, 0]
  else if p.carrier = 2 then
    let n := beAt new (p.ofs - 4) 2 - 8
    let seg := fun b => (b.drop p.ofs).take n
    let at_ := p.ofs + n - 2
    let sh := if n % 2 = 0 then 1 else 256
    let v := (beAt new at_ 2 * sh + onesSum (seg old) + 65535 - onesSum (seg new)) % 65535
    let v := if n % 2 = 0 then v else v / 256 + v % 256 * 256
    overwrite new at_ (beBytes 2 v)
  else new

/-! ### Redundancy tags (R336, R338) -/

/-- Bytes behind the EtherType of a frame with `n` tags: what LSDUsize counts, redundancy tag included.
PRESUMED, log entry 52. -/
def lsduSize (s : Nat) (b : List Byte) : Nat := b.length - typeOfs s b - 2

/-- A valid PRP trailer: sequence and LanId. -/
def prpOf (s : Nat) (b : List Byte) : Option (Nat × Nat) :=
  let o := b.length - 6
  if 20 ≤ b.length && beAt b (o + 4) 2 = 0x88FB && beAt b (o + 2) 2 % 4096 = lsduSize s b then
    some (beAt b o 2, beAt b (o + 2) 2 / 4096)
  else none

/-- The sequence of an HSR tag, where the frame has one. -/
def hsrOf (s : Nat) (b : List Byte) : Option Nat :=
  if etypeOf s b = 0x892F then some (beAt b (typeOfs s b + 4) 2) else none

/-- The frame with a PRP trailer for LAN A (false) or B (true); a short frame is padded first.
PRESUMED, log entry 52. -/
def addPrp (s : Nat) (b : List Byte) (seq : Nat) (lanB : Bool) : List Byte :=
  let b := padTo 60 b
  b ++ beBytes 2 seq ++ beBytes 2 ((if lanB then 0xB000 else 0xA000) + (lsduSize s b + 6) % 4096) ++ beBytes 2 0x88FB

/-- The frame with an HSR tag, path 0. PRESUMED, log entry 52. -/
def addHsr (s : Nat) (b : List Byte) (seq : Nat) : List Byte :=
  let t := typeOfs s b
  b.take t ++ beBytes 2 0x892F ++ beBytes 2 ((lsduSize s b + 6) % 4096) ++ beBytes 2 seq ++ b.drop t

/-- The tags removed. -/
def dropPrp (b : List Byte) : List Byte := b.take (b.length - 6)
def dropHsr (s : Nat) (b : List Byte) : List Byte := b.take (typeOfs s b) ++ b.drop (typeOfs s b + 6)

end Sys2Proof.Machine
end

