-- ==== Sys2Proof/Machine/GateOps.lean ====
section
/-!
DEFINITION. Gate lists and shapers of the egress ports (R315-R321). A list's position is kept as the entry in force and the
short time at which it began (TAI domain), or follows from the wave time alone (wave domain).
-/
namespace Sys2Proof.Machine

/-! ### Entries of a list -/

/-- Gate states and interval of table entry `i` of port `p` (R316). -/
def Dev.gateBits (d : Dev) (p i : Nat) : Nat := d.f (SWC_GATE_TAB p i 0) 7 0
def Dev.gateLen (d : Dev) (p i : Nat) : Nat := (d.r (SWC_GATE_TAB p i 1)).toNat

/-- Sum of the intervals of the first `n` entries of a list. -/
def Dev.gateSum (d : Dev) (p : Nat) (l : GateList) (n : Nat) : Nat :=
  ((List.range n).map (fun i => d.gateLen p (l.start + i))).foldl (· + ·) 0

/-- Where entry `i` of a list begins and ends within the cycle: cut short at its end, the last one extended to it (R316). -/
def Dev.gateSpan (d : Dev) (p : Nat) (l : GateList) (i : Nat) : Nat × Nat :=
  let a := Nat.min l.cycle (d.gateSum p l i)
  (a, if l.len ≤ i + 1 then l.cycle else Nat.min l.cycle (d.gateSum p l (i + 1)))

/-- Duration of entry `i`. -/
def Dev.gateDur (d : Dev) (p : Nat) (l : GateList) (i : Nat) : Nat := (d.gateSpan p l i).2 - (d.gateSpan p l i).1

/-- Position of a wave-domain list within its cycle, in 2^-32 of a mains cycle; none before its base (R319). -/
def Dev.gateWave (d : Dev) (l : GateList) : Option Nat :=
  if d.waveReached l.treadle l.base then some ((d.waveTime l.treadle + 2 ^ 64 - l.base % 2 ^ 64) % 2 ^ 64 % (l.cycle * 256))
  else none

/-- The entry of a wave-domain list that covers a position. -/
def Dev.gateCover (d : Dev) (p : Nat) (l : GateList) (pos32 : Nat) : Nat :=
  ((List.range l.len).find? (fun i => pos32 < (d.gateSpan p l i).2 * 256)).getD (l.len - 1)

/-- State code of GATE_STAT. -/
def Dev.gateState (d : Dev) (p : Nat) : Nat := d.f (SWC_GATE_STAT p) 1 0

/-- The entry in force, relative to the list, and the list; none where no entry is in force. -/
def Dev.gateNow (d : Dev) (p : Nat) : Option (GateList × Nat) :=
  let g := d.gatep p
  match g.oper with
  | none => none
  | some l =>
    if l.wave then (d.gateWave l).map (fun x => (l, d.gateCover p l x))
    else if g.gap then none else some (l, d.f (SWC_GATE_STAT p) 9 2 - l.start)

/-- Gate states in force (R316, R318, R319, R321). -/
def Dev.gates (d : Dev) (p : Nat) : Nat :=
  match d.gateNow p with
  | some (l, i) => d.gateBits p (l.start + i)
  | none => if d.gateState p = 3 then d.f (SWC_GATE_CFG p) 15 8 else d.f (SWC_GATE_CFG p) 23 16

/-- The gate of class `q` is open. -/
def Dev.gateOpenQ (d : Dev) (p q : Nat) : Bool := (d.gates p).testBit q

/-! ### Shapers (R315) -/

/-- `kbps` over `ns`, in 2^-20 bits. -/
def rateBits (kbps : Int) (ns : Nat) : Int := kbps * ns * 1048576 / 1000000

/-- The part of the time from `a` to `b` in which port `p` sends a frame of class `q`, channel outputs included: from the first
preamble byte to the last byte. -/
def Dev.sendSpan (d : Dev) (p q a b : Nat) : Nat × Nat :=
  match (d.port p).sending with
  | some s =>
    if s.pdelay.isNone && s.e.f.cls == q then
      (Nat.min b (Nat.max a s.since), Nat.min b (Nat.max a (if s.sent = [] then b else s.endAt)))
    else (b, b)
  | none => (b, b)

/-- The credit `c` of a class that does not send, `dt` ns later: held behind a closed gate; rising while a frame waits; brought
to 0 while the class is empty. -/
def Dev.creditIdle (d : Dev) (p q : Nat) (c : Int) (dt : Nat) : Int :=
  let up := c + rateBits (d.r (SWC_CBS_SLOPE p q)).toNat dt
  if dt = 0 || !((d.gatep p).past.testBit q) then c
  else if (d.queue p q).isEmpty then (if 0 < c then 0 else if 0 < up then 0 else up)
  else up

/-- The credit of a class brought up to the present instant (R315). -/
def Dev.credit (d : Dev) (p q : Nat) : Dev :=
  let k := 8 * p + q
  let a := tget d.tb.now d.swc.creditAt k
  let b := d.tb.now
  let (s, t) := d.sendSpan p q a b
  let lim := fun (c : Int) =>
    clampInt (sx 32 (d.r (SWC_CBS_LO p q)).toNat * 1048576) (sx 32 (d.r (SWC_CBS_HI p q)).toNat * 1048576) c
  let c := tget 0 d.swc.credit k
  let slope : Int := (d.r (SWC_CBS_SLOPE p q)).toNat
  let n :=
    if !(d.b (SWC_Q_MODE p q) 0) then c
    else
      let c := lim (d.creditIdle p q c (s - a))
      let c := lim (c + rateBits (slope - 1000 * d.portRate p) (t - s))
      lim (d.creditIdle p q c (b - t))
  { d with swc := { d.swc with credit := tset d.swc.credit k n, creditAt := tset d.swc.creditAt k b } }

/-- The credits of every class of a port, before something on it changes. -/
def Dev.credits (d : Dev) (p : Nat) : Dev := d.each (List.range 8) (fun d q => d.credit p q)

/-- GATE_STAT shows the entry and the gates in force, from now on (R316); the credits are brought up under the gates before. -/
def Dev.gateShow (d : Dev) (p : Nat) : Dev :=
  let d := d.credits p
  let d := match d.gateNow p with
    | some (l, i) => d.wf (SWC_GATE_STAT p) 9 2 (l.start + i)
    | none => d
  (d.wf (SWC_GATE_STAT p) 17 10 (d.gates p)).setGate p (fun g => { g with past := d.gates p })

/-- A phase step of treadle `n` moves the wave-domain lists that run on it at once (R319). -/
def Dev.gateStep (d : Dev) (n : Nat) : Dev :=
  d.each (List.range 20) (fun d p => match (d.gatep p).oper with
    | some l => if l.wave && l.treadle == n then d.gateShow p else d
    | none => d)

/-- The class may send as far as its shaper goes. -/
def Dev.creditOk (d : Dev) (p q : Nat) : Bool := !(d.b (SWC_Q_MODE p q) 0) || 0 ≤ tget 0 d.swc.credit (8 * p + q)

/-! ### Starting and stopping -/

/-- The first B + k C at or after a TAI instant, all in ns. -/
def gateFirst (l : GateList) (tai : Int) : Int :=
  let b : Int := l.base
  if tai ≤ b then b else b + (tai - b + l.cycle - 1) / l.cycle * l.cycle

/-- A pending TAI list is converted to short time once its start lies within 1 s (R318). A start that a jump of TAI has passed
over gives way to the list's next one. DEDUCED, log entry 56. -/
def Dev.gatePend (d : Dev) (p : Nat) : Dev :=
  let g := d.gatep p
  match g.admin with
  | none => d
  | some l =>
    if l.wave || g.startAt.isSome then d
    else
      let now : Int := d.taiNs
      let t := if g.startTai < now then gateFirst l now else g.startTai
      d.setGate p (fun g =>
        { g with startTai := t, startAt := if t - now ≤ 1000000000 then some (d.taiToSt t) else none })

/-- Every pending list is converted again at a TAI second boundary. -/
def Dev.gateSecond (d : Dev) : Dev := d.each (List.range 20) (fun d p => d.gatePend p)

/-- A list stops with an error (R321). DEDUCED, log entry 56. -/
def Dev.gateError (d : Dev) (p : Nat) : Dev :=
  let d := d.setGate p (fun g => { g with oper := none, gap := false })
  ((d.wf (SWC_GATE_STAT p) 1 0 3).gateShow p).ringBit .swc 2

/-- Entry `i` of the operating list is in force from short time `st` on; an interval of zero stops the list. -/
def Dev.gateEnter (d : Dev) (p : Nat) (l : GateList) (i : Nat) (st : Word) : Dev :=
  if d.gateLen p (l.start + i) = 0 then d.gateError p
  else
    let d := d.setGate p (fun g => { g with entrySt := st, gap := false })
    (d.wf (SWC_GATE_STAT p) 9 2 (l.start + i)).gateShow p

/-- The administrative list becomes the operating one (R317). -/
def Dev.gateBegin (d : Dev) (p : Nat) (l : GateList) (st : Word) : Dev :=
  let d := d.credits p
  let d := d.setGate p (fun g => { g with oper := some l, admin := none, startAt := none, cycleSt := st, gen := d.gen, gap := false })
  let d := (d.wf (SWC_GATE_STAT p) 1 0 2).w (SWC_GATE_OPER p) (w32 (l.start + 256 * l.len))
  if l.wave then d.gateShow p else d.gateEnter p l 0 st

/-- A pending list reaches its start. -/
def Dev.gateListStart (d : Dev) (p : Nat) : Dev :=
  let g := d.gatep p
  match g.admin with
  | none => d
  | some l =>
    if l.wave then (if d.waveReached l.treadle l.base then d.gateBegin p l d.tb.st else d)
    else match g.startAt with
      | some t => if reached d.tb.st t then d.gateBegin p l t else d
      | none => d

/-- SWC_GATE_CMD.stop (R317). DEDUCED, log entry 56. -/
def Dev.gateStop (d : Dev) (p : Nat) : Dev :=
  let d := d.credits p
  let d := d.setGate p (fun g => { g with oper := none, admin := none, startAt := none, gap := false })
  (d.wf (SWC_GATE_STAT p) 1 0 0).gateShow p

/-- Two windows of entries meet. -/
def gateMeet (a n b m : Nat) : Bool := a < b + m && b < a + n

/-- SWC_GATE_CMD.install (R317). DEDUCED, log entry 56. -/
def Dev.gateInstall (d : Dev) (p : Nat) : Dev :=
  let start := d.f (SWC_GATE_ADMIN p) 7 0
  let len := d.f (SWC_GATE_ADMIN p) 16 8
  let cycle := (d.r (SWC_GATE_CYCLE p)).toNat
  let wave := d.b (SWC_GATE_CFG p) 0
  let trd := d.f (SWC_GATE_CFG p) 4 1
  let last := fun (d : Dev) v => d.wf (SWC_GATE_STAT p) 20 18 v
  let lo := (d.r (SWC_GATE_BASE_LO p)).toNat
  let hi := (d.r (SWC_GATE_BASE_HI p)).toNat
  if len = 0 || cycle = 0 then last d 0
  else
    let meets : Bool := match (d.gatep p).oper with | some l => gateMeet start len l.start l.len | none => false
    if meets then last d 1
    else if 256 < start + len then last d 2
    else if wave && !(d.waveOk trd) then last d 3
    else
      let base := if wave then lo + 2 ^ 32 * hi
        else (lo + 2 ^ 32 * (hi % 65536)) * 1000000000 + (d.r (SWC_GATE_BASE_NS p)).toNat
      let l : GateList := { start := start, len := len, wave := wave, treadle := trd, base := base, cycle := cycle }
      let first := if wave then 0 else gateFirst l ((d.taiNs : Int) + 1000)
      let d := d.setGate p (fun g => { g with admin := some l, startAt := none, startTai := first })
      let d := if d.gateState p = 2 then d else (d.wf (SWC_GATE_STAT p) 1 0 1).gateShow p
      (last d 0).gatePend p

/-- A write of SWC_GATE_CMD. DEDUCED, log entry 56. -/
def Dev.gateCmd (d : Dev) (p : Nat) (v : Word) : Dev :=
  if bitOf v 1 then
    let d := d.gateStop p
    if bitOf v 0 then d.wf (SWC_GATE_STAT p) 20 18 0 else d
  else if bitOf v 0 then d.gateInstall p else d

/-! ### Moving on -/

/-- The cycle of a TAI list is over: the next one follows, or the list waits for its phase in the new TAI (R318). -/
def Dev.gateCycle (d : Dev) (p : Nat) (l : GateList) : Dev :=
  let g := d.gatep p
  let fin := g.cycleSt + w32 l.cycle
  if g.gen = d.gen then (d.setGate p (fun g => { g with cycleSt := fin })).gateEnter p l 0 fin
  else
    let t := d.taiToSt (gateFirst l (d.stToTai fin))
    let d := d.setGate p (fun g => { g with gap := true, entrySt := t, gen := d.gen })
    (d.satf (SWC_GATE_CNT p) 15 0 1).gateShow p

/-- A wave-domain list closes the gate of a frame that is being sent: a frequency change has brought the closing before its last
byte (R320). After a phase step no gate of `past` is still open that is not open now. -/
def Dev.gateOverrun (d : Dev) (p : Nat) : Dev :=
  match (d.port p).sending with
  | some s =>
    let q := s.e.f.cls
    if !s.e.f.chanOut && s.pdelay.isNone && (s.sent = [] || decide (d.tb.now < s.endAt)) && (d.gatep p).past.testBit q &&
       !(d.gateOpenQ p q) then d.satf (SWC_GATE_CNT p) 31 16 1 else d
  | none => d

/-- The list moves to its next entry, where that is due. -/
def Dev.gateNext (d : Dev) (p : Nat) : Dev :=
  let g := d.gatep p
  match g.oper with
  | none => d
  | some l =>
    if l.wave then
      match d.gateWave l with
      | none => d.gateShow p
      | some x =>
        if (List.range l.len).any (fun i => d.gateLen p (l.start + i) == 0 && (d.gateSpan p l i).1 * 256 ≤ x) then d.gateError p
        else (d.gateOverrun p).gateShow p
    else if g.gap then
      if reached d.tb.st g.entrySt then
        ((d.credits p).setGate p (fun x => { x with cycleSt := g.entrySt, gen := d.gen })).gateEnter p l 0 g.entrySt
      else d
    else
      let i := d.f (SWC_GATE_STAT p) 9 2 - l.start
      let dur := d.gateDur p l i
      if (d.tb.st - g.entrySt).toNat < dur then d
      else
        let d := d.credits p
        if l.cycle ≤ (d.gateSpan p l i).2 then d.gateCycle p l else d.gateEnter p l (i + 1) (g.entrySt + w32 dur)

/-- The gate changes that are due in a tick: a start, and entries that have ended (R311). -/
def Dev.gateCatch (d : Dev) (p : Nat) : Dev :=
  if (d.gatep p).oper.isNone && (d.gatep p).admin.isNone then d
  else (List.range 4).foldl (fun (d : Dev) _ => (d.gateListStart p).gateNext p) d

/-! ### The gate guard (R320) -/

/-- How far ahead of the entry after `i` the gate of class `q` stays open, in the list's units; none when it never closes. -/
def Dev.openAhead (d : Dev) (p q : Nat) (l : GateList) (i : Nat) : Nat → Option Nat
  | 0 => none
  | n + 1 =>
    let j := if l.len ≤ i + 1 || l.cycle ≤ (d.gateSpan p l i).2 then 0 else i + 1
    if (d.gateBits p (l.start + j)).testBit q then (d.openAhead p q l j n).map (· + d.gateDur p l j) else some 0

/-- Nanoseconds until the gate of class `q` closes in the operating list; none when it does not. -/
def Dev.gateLeft (d : Dev) (p q : Nat) : Option Nat :=
  match d.gateNow p with
  | none => none
  | some (l, i) =>
    if l.wave then
      match d.gateWave l with
      | none => none
      | some x =>
        (d.openAhead p q l i l.len).map (fun a =>
          (((d.gateSpan p l i).2 * 256 - x) + a * 256) * 2 ^ 18 / Nat.max 1 (d.trdl l.treadle).inc.toNat)
    else (d.openAhead p q l i l.len).map (fun a => d.gateDur p l i - (d.tb.st - (d.gatep p).entrySt).toNat + a)

end Sys2Proof.Machine
end

