-- ==== Sys2Proof/Machine/TimeBase.lean ====
section
/-!
DEFINITION. The time base (spec/03_time_base.md): counters and anchor, the servo and its jump state machine, PPS, the
reference, the transmit time-stamp queues, and the meanings of its commands.
-/
namespace Sys2Proof.Machine

/-- Rounding of a quotient to nearest, ties away from zero (R73); the divisor is positive. -/
def roundDiv (a : Int) (b : Nat) : Int :=
  let q := (2 * a.natAbs + b) / (2 * b)
  if 0 ≤ a then (q : Int) else -(q : Int)

/-- TAI in 2^-48 ns. -/
def Dev.tai48 (d : Dev) : Int := (((d.tb.sec * 1000000000 + d.tb.ns) * 2 ^ 48 + d.tb.frac : Nat) : Int)

/-- The device with TAI set from 2^-48 ns; the seconds wrap at 48 bits. -/
def Dev.tai48Set (d : Dev) (t : Int) : Dev :=
  let n := (t % ((2 ^ 48 * 1000000000 * 2 ^ 48 : Nat) : Int)).toNat
  let ns := n / 2 ^ 48
  { d with tb := { d.tb with sec := ns / 1000000000, ns := ns % 1000000000, frac := n % 2 ^ 48 } }

/-- State of the jump machine (R78): 0 UNSET, 1 TRACKING, 2 PENDING, 3 FREERUN. -/
def Dev.jump (d : Dev) : Nat := d.f TB_JUMP_STAT 1 0
def Dev.jumpSet (d : Dev) (s count : Nat) : Dev := (d.wf TB_JUMP_STAT 1 0 s).wf TB_JUMP_STAT 9 2 count

/-- TAI becomes valid (R71, R72). -/
def Dev.taiHandoff (d : Dev) (source : Nat) : Dev :=
  let d := (d.wb TB_STAT 0 true).wf TB_STAT 2 1 source
  ((d.anchorNow).jumpSet 1 0).ringBit .tb 5

/-- TAI changed by a jump or a set while it was valid: the change in 2^-16 ns, the generation, the bell (R64, R66). A change
that an s64 cannot hold is cut to its low 64 bits. DESIGN CHOICE, log entry 87. -/
def Dev.genStep (d : Dev) (change : Int) : Dev :=
  let c := tc 64 change
  let d := (d.w TB_JUMP_LAST_LO (w32 c)).w TB_JUMP_LAST_HI (w32 (c / 2 ^ 32))
  let d := d.incf TB_STAT 8 5 1
  let d := { d with tb := { d.tb with genSteps := (d.tb.now :: d.tb.genSteps).take 15 } }
  (d.anchorNow).ringBit .tb 3

/-- A jump by −θ, θ in 2^-16 ns (R77). -/
def Dev.jumpApply (d : Dev) (theta : Int) : Dev :=
  (((d.tai48Set (d.tai48 - theta * 2 ^ 32)).genStep (-theta)).jumpSet 1 0)

/-- Signed log2 of the commit interval (TB_SRV_CFG.log_interval). -/
def Dev.logInt (d : Dev) : Int := sx 4 (d.f TB_SRV_CFG 7 4)

/-- The code of log_interval is illegal. -/
def Dev.logBad (d : Dev) : Bool := let n := d.f TB_SRV_CFG 7 4; 5 ≤ n && n ≤ 8

/-- The servo step of R73 with θ in 2^-16 ns. A lowered clamp acts at the next step. DESIGN CHOICE, log entry 87. -/
def Dev.servo (d : Dev) (theta : Int) : Dev :=
  let n := d.logInt
  let u := if 0 ≤ n then roundDiv (theta * 2 ^ 32) (2 ^ n.toNat * 1000000000)
    else roundDiv (theta * 2 ^ 32 * 2 ^ (-n).toNat) 1000000000
  let lim := roundDiv (((d.f TB_FREQ_LIMIT 19 0 * 2 ^ 48 : Nat)) : Int) 1000000000
  let i0 := d.tb.i - roundDiv (u * d.f TB_SRV_GAIN 31 16) 65536
  let i := clampInt (-lim) lim i0
  let y0 := i - roundDiv (u * d.f TB_SRV_GAIN 15 0) 65536
  let y := clampInt (-lim) lim y0
  let d := { d with tb := { d.tb with i := i, y := y } }
  d.wb TB_STAT 4 (i != i0 || y != y0)

/-- A refused offset becomes the candidate (R76, R78). -/
def Dev.jumpRefuse (d : Dev) (theta : Int) (bell : Bool) : Dev :=
  let d := { d with tb := { d.tb with candidate := theta, y := d.tb.i } }
  let d := d.jumpSet 2 1
  if bell then d.ringBit .tb 2 else d

/-- A commit with offset θ (2^-16 ns) is judged by the table of R78. DESIGN CHOICE, log entry 87. -/
def Dev.judge (d : Dev) (theta : Int) : Dev :=
  let t := tc 64 theta
  let d := (d.w TB_SRV_LAST_LO (w32 t)).w TB_SRV_LAST_HI (w32 (t / 2 ^ 32))
  let d := { d with tb := { d.tb with lossBase := d.tb.now } }
  let d := d.wb TB_STAT 3 false
  let inLimit := theta.natAbs ≤ (d.r TB_JUMP_LIMIT).toNat * 65536
  let confirm := d.f TB_JUMP_CONFIRM 7 0
  let s := d.jump
  if s = 0 then (d.tai48Set (d.tai48 - theta * 2 ^ 32)).taiHandoff 1
  else if inLimit then (d.servo theta).jumpSet 1 0
  else if s = 2 then
    if (theta - d.tb.candidate).natAbs ≤ (d.r TB_JUMP_TOL).toNat * 65536 then
      let c := wrapAdd 8 (d.f TB_JUMP_STAT 9 2) 1
      if c = confirm then d.jumpApply theta else d.jumpSet 2 c
    else d.jumpRefuse theta false
  else if confirm ≤ 1 then d.jumpApply theta
  else d.jumpRefuse theta true

/-- A commit: discarded and counted, or judged (R536). DEDUCED, log entry 31. -/
def Dev.commit (d : Dev) (theta : Int) (firmware withSet : Bool) : Dev :=
  if !(d.b TB_CTRL 2) || (firmware && d.b TB_SRV_CFG 0) || d.logBad || withSet then d.satf TB_JUMP_STAT 31 16 1
  else d.judge theta

/-- The offset that TB_SRV_MS and TB_SRV_PD stage, in 2^-16 ns (R73). -/
def Dev.stagedTheta (d : Dev) : Int :=
  sx 64 (d.tb.msLo.toNat + d.tb.msHi.toNat * 2 ^ 32) - ((d.tb.pd.toNat * 256 : Nat) : Int)

/-- A write of TB_TAI_SET_CMD (R78). A change below 2^-16 ns is floored in TB_JUMP_LAST. DESIGN CHOICE, log entry 87. -/
def Dev.taiSetCmd (d : Dev) (v : Word) : Dev :=
  if !(bitOf v 0) then d
  else if 999999999 < (d.r TB_TAI_SET_NS).toNat then d.wb TB_TAI_SET_CMD 1 true
  else
    let was := d.b TB_STAT 0
    let old := d.tai48
    let sec := (d.r TB_TAI_SET_SEC_LO).toNat + 2 ^ 32 * d.f TB_TAI_SET_SEC_HI 15 0
    let d := d.wb TB_TAI_SET_CMD 1 false
    let d := { d with tb := { d.tb with sec := sec, ns := (d.r TB_TAI_SET_NS).toNat, frac := 0 } }
    if was then ((d.genStep ((d.tai48 - old) / 2 ^ 32)).wf TB_STAT 2 1 2).jumpSet 1 0
    else d.taiHandoff 2

/-- TB_JUMP_CMD.force (R78). -/
def Dev.jumpForceCmd (d : Dev) (v : Word) : Dev :=
  if bitOf v 0 && d.jump = 2 then d.jumpApply d.tb.candidate else d

/-- The loss time in ns (R78); an illegal code of log_interval counts as the s4 that it is. DESIGN CHOICE, log entry 87. -/
def Dev.lossTime (d : Dev) : Nat :=
  let n := d.logInt
  let k := 2 ^ d.f TB_SRV_CFG 10 8 * 1000000000
  if 0 ≤ n then k * 2 ^ n.toNat else k / 2 ^ (-n).toNat

/-- No commit has been judged for the loss time (R78). -/
def Dev.lossDue (d : Dev) : Dev :=
  if (d.jump = 1 || d.jump = 2) && d.tb.lossBase + d.lossTime ≤ d.tb.now && d.pwr.mainUp then
    let d := { d with tb := { d.tb with y := d.tb.i } }
    ((d.wb TB_STAT 3 true).jumpSet 3 0).ringBit .tb 4
  else d

/-- The force of R79 that meets a commit in one tick: it applies the candidate before the commit is judged. -/
def Dev.forceFirst (d : Dev) (withForce : Bool) : Dev := if withForce then d.jumpForceCmd 1 else d

/-- A PPS_IN edge (R75, R94); `withSet` and `withForce` tell of a set and a force in the same tick (R79). -/
def Dev.ppsIn (d : Dev) (rising : Bool) (back : Nat) (withSet withForce : Bool) : Dev :=
  let e := d.f TB_PPS_IN_CFG 1 0
  if !d.pwr.mainUp || !((e = 1 && rising) || (e = 2 && !rising) || e = 3) then d
  else
    let st := d.stampBack back
    let d := if d.tb.ppsUnread then d.wb TB_PPS_IN_CFG 2 true else d
    let d := (d.w TB_PPS_IN_ST st.st).w TB_PPS_IN_FRAC (w32 (st.quarter + 4 * st.gen))
    let d := { d with tb := { d.tb with ppsUnread := true } }
    let d := d.ringBit .tb 6
    if d.b TB_SRV_CFG 0 then
      let sec : Int := 1000000000 * 65536
      let ns : Int := (d.tb.ns * 65536 + d.tb.frac / 2 ^ 32 : Nat) - (back * 16384 : Nat) - (d.f TB_PPS_IN_CFG 31 8 * 65536 : Nat)
      let m := ns % sec
      (d.forceFirst withForce).commit (if m < sec / 2 then m else m - sec) false withSet
    else d

/-- PPS_OUT rises (R91, R93): never two rising edges less than 500 ms apart. -/
def Dev.ppsOut (d : Dev) : Dev :=
  let w := d.f TB_PPS_OUT_CFG 31 12
  let near := match d.tb.ppsAt with | some t => d.tb.now < t + 500000000 | none => false
  if d.b TB_PPS_OUT_CFG 0 && w ≠ 0 && !near then
    ({ d with tb := { d.tb with ppsAt := some d.tb.now } }).emit (.pps w (!(d.b TB_PPS_OUT_CFG 1)))
  else d

/-- A TAI second boundary (R42, R64, R91, R318). -/
def Dev.second (d : Dev) : Dev :=
  if !d.tb.secondDue then d
  else
    let d := { d with tb := { d.tb with secondDue := false } }
    let d := (d.anchorNow.gateSecond).ringBit .tb 1
    if d.b TB_STAT 0 then
      d.holdLoad.ppsOut
    else d

/-! ### Transmit time-stamp queues (R87-R90) -/

/-- Entries of a port's queue that lie in the reserved places, and in the shared ones. -/
def Dev.tsqUsed (d : Dev) (p : Nat) (rsv : Bool) : Nat := ((tget [] d.tb.tsq p).filter (fun e => e.reserved == rsv)).length

/-- The queue's occupancy register. -/
def Dev.tsqStat (d : Dev) (p : Nat) : Dev :=
  (d.wf (TB_TSQ_STAT p) 5 0 (d.tsqUsed p false)).wf (TB_TSQ_STAT p) 11 8 (d.tsqUsed p true)

/-- A requested stamp is queued, or dropped when it finds no entry that it may use: then the frame's completion record
carries "no stamp" (R88). The first requested stamp of a port has sequence 1. DESIGN CHOICE, log entry 87. -/
def Dev.tsqPut (d : Dev) (p : Nat) (st : Stamp) (ptp : Bool) (tag : Nat) (rsvOnly : Bool := false) : Dev :=
  let seq := wrapAdd 16 (tget 0 d.tb.tsqSeq p) 1
  let d := { d with tb := { d.tb with tsqSeq := tset d.tb.tsqSeq p seq } }
  let l := tget [] d.tb.tsq p
  let rsv := ptp && d.tsqUsed p true < 8
  let ok := rsv || (!rsvOnly && d.tsqUsed p false < 56)
  if ok then
    let e : TsqEntry := { stamp := st, ptp := ptp, tag := tag, seq := seq, reserved := rsv }
    let d := ({ d with tb := { d.tb with tsq := tset d.tb.tsq p (l ++ [e]) } }).tsqStat p
    if l.isEmpty then d.ringBit .tb 8 else d
  else
    let d := if ptp then d.satf (TB_TSQ_LOST p) 31 16 1 else d.satf (TB_TSQ_LOST p) 15 0 1
    (d.ringBit .tb 7).emit (.noStamp p tag)

/-- The party that may pop a port's queue (R89). -/
def Dev.tsqOwner (d : Dev) (who : Initiator) (p : Nat) : Bool := if d.b (TB_PORT_CFG p) 4 then !(isHost who) else isHost who

/-- Words of the head entry; 0 when the queue is empty. -/
def Dev.tsqHead (d : Dev) (p w : Nat) : Word :=
  match tget [] d.tb.tsq p with
  | [] => 0
  | e :: _ =>
    if w = 0 then e.stamp.st
    else if w = 1 then w32 (e.stamp.quarter + 4 * e.stamp.gen + 64 * b2n e.ptp + 65536 * e.tag)
    else if w = 2 then w32 e.seq
    else 1

/-- A read of word `w` of TB_TSQ_ENTRY (R89): word 3 pops. -/
def Dev.tsqRead (d : Dev) (who : Initiator) (p w : Nat) : Word × Dev :=
  if !(d.tsqOwner who p) then (0, d.accErr who false 6 (TB_TSQ_ENTRY p w))
  else
    let v := d.tsqHead p w
    if w = 3 then
      (v, ({ d with tb := { d.tb with tsq := tmod [] d.tb.tsq p (fun l => l.drop 1) } }).tsqStat p)
    else (v, d)

/-! ### Latching reads -/

/-- A read of TB_ST (R69). -/
def Dev.stRead (d : Dev) : Word × Dev :=
  (d.tb.st, d.w TB_ST_HI (d.r TB_WRAP_CNT + (if d.tb.wrapDue then 1 else 0)))

/-- A read of TB_TAI_NS (R60). -/
def Dev.taiReadOp (d : Dev) : Word × Dev :=
  let d := (d.w TB_TAI_SEC_LO (w32 d.tb.sec)).w TB_TAI_SEC_HI (w32 (d.tb.sec / 2 ^ 32))
  (w32 d.tb.ns, d.w TB_TAI_FRAC (w32 (d.tb.frac / 2 ^ 32)))

/-- A read of TB_ANCHOR_ST (R64). -/
def Dev.anchorReadOp (d : Dev) : Word × Dev :=
  let a := d.tb.anchor
  let d := (d.w TB_ANCHOR_NS (w32 a.ns)).w TB_ANCHOR_SEC_LO (w32 a.sec)
  (a.st, d.w TB_ANCHOR_SEC_HI (w32 (a.sec / 2 ^ 32 % 65536 + 65536 * a.gen)))

/-- A write of TB_CLK_CFG (R95). -/
def Dev.clkCfg (d : Dev) (who : Initiator) (v : Word) : Dev :=
  if !(d.modeIn [.boot, .provision, .stop]) then d.refuseMode who TB_CLK_CFG
  else if bitOf v 0 = d.b TB_CLK_CFG 0 then d
  else
    let d := (d.wb TB_CLK_CFG 0 (bitOf v 0)).wb TB_STAT 9 false
    if d.tb.relocking then d else { d with tb := { d.tb with relocking := true, relockAt := d.tb.now } }

/-! ### Meanings -/

/-- R69. -/
def execShortTimeWrap : State → Host.Outcome State Fault Refusal :=
  lift (fun d => if d.tb.wrapDue then
      (({ d with tb := { d.tb with wrapDue := false } }).w TB_WRAP_CNT (d.r TB_WRAP_CNT + 1)).ringBit .tb 0
    else d)
/-- R64. -/
def execTaiSecond : State → Host.Outcome State Fault Refusal := lift Dev.second
/-- R69. -/
def execTbStRead (who : Initiator) : State → Host.Outcome State Fault Refusal :=
  lift (fun d => d.accessR who TB_ST Dev.stRead)
/-- R60. -/
def execTaiRead (who : Initiator) : State → Host.Outcome State Fault Refusal :=
  lift (fun d => d.accessR who TB_TAI_NS Dev.taiReadOp)
/-- R64. -/
def execAnchorRead (who : Initiator) : State → Host.Outcome State Fault Refusal :=
  lift (fun d => d.accessR who TB_ANCHOR_ST Dev.anchorReadOp)
/-- R78. -/
def execServoCommit (who : Initiator) (val : Word) (withSet withForce : Bool) : State → Host.Outcome State Fault Refusal :=
  lift (fun d => d.access who TB_SRV_CMD (fun d =>
    if bitOf val 0 then (d.forceFirst withForce).commit d.stagedTheta true withSet else d))
/-- R78. -/
def execJumpForce (who : Initiator) (val : Word) : State → Host.Outcome State Fault Refusal :=
  lift (fun d => d.access who TB_JUMP_CMD (fun d => d.jumpForceCmd val))
/-- R78. -/
def execTaiSet (who : Initiator) (val : Word) : State → Host.Outcome State Fault Refusal :=
  lift (fun d => d.access who TB_TAI_SET_CMD (fun d => d.taiSetCmd val))
/-- R78. -/
def execServoLoss : State → Host.Outcome State Fault Refusal := lift Dev.lossDue
/-- R94. -/
def execPpsInEdge (rising : Bool) (back : Fin 16) (withSet withForce : Bool) : State → Host.Outcome State Fault Refusal :=
  lift (fun d => d.ppsIn rising back.val withSet withForce)
/-- R95. -/
def execRefSelect (who : Initiator) (val : Word) : State → Host.Outcome State Fault Refusal :=
  lift (fun d => d.access who TB_CLK_CFG (fun d => d.clkCfg who val))
/-- R95, R518. -/
def execTbPllRelock : State → Host.Outcome State Fault Refusal :=
  lift (fun d =>
    let lost := Nat.min (2 ^ 24 - 1) (d.tb.now - d.tb.relockAt)
    if d.tb.relocking then
      let d := { d with tb := { d.tb with relocking := false } }
      (d.wb TB_STAT 9 true).wf TB_CLK_CFG 31 8 lost
    else d.wb TB_STAT 9 true)
/-- R518. -/
def execTbRefLost : State → Host.Outcome State Fault Refusal := lift (fun d => d.wb TB_STAT 9 false)
/-- R89. -/
def execTsqPop (who : Initiator) (p : Fin 20) : State → Host.Outcome State Fault Refusal :=
  lift (fun d => d.accessR who (TB_TSQ_ENTRY p.val 3) (fun d => d.tsqRead who p.val 3))

end Sys2Proof.Machine
end

