-- ==== Sys2Proof/Machine/MacOps.lean ====
section
/-!
DEFINITION. The MAC beside the switch: tallies (R288-R291), stamps of frames (R81, R82), the receive checks (R280-R283),
MACsec (R284-R287, R505), flow control (R292-R295), the transmit path (R281, R284, R84, R85), link views (R299-R301).
-/
namespace Sys2Proof.Machine

/-! ### Tallies -/

/-- MAC_BELL.tally shows that an unmasked tally bell is set, and rings as one becomes set (R288). -/
def Dev.tallySync (d : Dev) (p : Nat) : Dev :=
  let on := (d.r (MAC_TALLY_BELL_LO p) &&& d.r (MAC_TALLY_MASK_LO p)) != 0 || (d.r (MAC_TALLY_BELL_HI p) &&& d.r (MAC_TALLY_MASK_HI p)) != 0
  if on && !(d.b (MAC_BELL p) 4) then d.ringBit (.mac p) 4
  else if !on then d.wb (MAC_BELL p) 4 false else d

/-- Tally `i` of port `p` advances by `n` (R288). -/
def Dev.tally (d : Dev) (p i n : Nat) : Dev :=
  let old := tget 0 (d.port p).tally i
  let new := (old + n) % 2 ^ 40
  let d := d.setPort p (fun m => { m with tally := tset m.tally i new })
  if old < 2 ^ 39 && 2 ^ 39 ≤ old + n then
    (if i < 32 then d.wb (MAC_TALLY_BELL_LO p) i true else d.wb (MAC_TALLY_BELL_HI p) (i - 32) true).tallySync p
  else d

/-- Bin of a length among the seven of R291. -/
def lengthBin (n : Nat) : Nat :=
  if n ≤ 64 then 0 else if n ≤ 127 then 1 else if n ≤ 255 then 2 else if n ≤ 511 then 3 else if n ≤ 1023 then 4
  else if n ≤ 1518 then 5 else 6

/-- Cast of a destination: 0 unicast, 1 multicast, 2 broadcast. -/
def castOf (b : List Byte) : Nat := if isBcast b then 2 else if isGroup b then 1 else 0

/-- The second outer TPID of a port. -/
def Dev.tpid (d : Dev) (p : Nat) : Nat := d.f (MAC_VLAN_TPID p) 15 0

/-- A good received frame of `n` octets in the tallies; `b` are its bytes, without FCS, as MACsec leaves them.
DEDUCED, log entry 53. -/
def Dev.tallyRxGood (d : Dev) (p n : Nat) (b : List Byte) : Dev :=
  let d := ((d.tally p 0 n).tally p (4 + lengthBin n) 1).tally p (18 + castOf b) 1
  let d := if tagCount (d.tpid p) b = 0 then d else d.tally p 24 1
  if ptpEvent (d.tpid p) b then d.tally p 28 1 else d

/-! ### Stamps -/

/-- Quarter-nanoseconds that `n` bytes take on port `p`, rounded up. -/
def Dev.byteQ (d : Dev) (p n : Nat) : Nat := ceilDiv (n * 32000) (d.portRate p)

/-- The stamp of the instant `q` quarter-nanoseconds after the present tick (before it when negative, with the generation of
that instant, R82). -/
def Dev.stampAt (d : Dev) (q : Int) : Stamp :=
  if q ≤ 0 then d.stampBack (-q).toNat else ⟨d.tb.st + BitVec.ofInt 32 (q / 4), (q % 4).toNat, d.gen⟩

/-- The receive stamp of a frame of which `n` bytes followed the SFD by `back` quarter-nanoseconds ago (R81, R82): the end
of the SFD, less the external PHY's receive latency. DEDUCED, log entry 50. -/
def Dev.rxStamp (d : Dev) (p n back : Nat) : Stamp :=
  d.stampAt (-(back : Int) - d.byteQ p n - sx 16 (d.f (TB_PORT_LAT p) 15 0))

/-- The transmit stamp of a frame whose first preamble byte comes `lead` byte times after `base` ns: the end of the SFD, at or
before it on the grid of 250 ps. DEDUCED, log entry 50. -/
def Dev.txStamp (d : Dev) (p base lead : Nat) : Stamp :=
  d.stampAt (4 * ((base : Int) - d.tb.now) + ((lead + 8) * 32000 / d.portRate p : Nat) + sx 16 (d.f (TB_PORT_LAT p) 31 16))

/-! ### Receive checks (R282, R283) -/

/-- The first row of 1 to 6 of R282 that drops a frame: its tally. -/
def Dev.rxCheck (d : Dev) (p : Nat) (f : RxFrame) : Option Nat :=
  let n := f.bytes.length
  let good := fcsGood f.bytes
  let op := beAt f.bytes 14 2
  if f.symErr then some 40
  else if f.oddNibble && d.f (MAC_IF_CFG p) 2 0 = 3 then some 35
  else if n < 64 then some (if good then 36 else 37)
  else if d.f (MAC_CTRL p) 29 16 < n then some (if good then 38 else 39)
  else if !good then some 34
  else if beAt f.bytes 12 2 = 0x8808 && op ≠ 1 && op ≠ 0x101 then some 41
  else none

/-- The frame is a PAUSE (0x0001) or PFC (0x0101) frame. -/
def isPause (b : List Byte) : Bool := beAt b 12 2 == 0x8808 && (beAt b 14 2 == 1 || beAt b 14 2 == 0x101)

/-- VID and PCP that the switch sees, and whether the frame has a tag (R283); priority-tagged frames take the port's VID. -/
def Dev.vlanOf (d : Dev) (p : Nat) (b : List Byte) : Nat × Nat × Bool :=
  let pvid := d.f (MAC_VLAN_CFG p) 11 0
  if tagCount (d.tpid p) b = 0 then (pvid, d.f (MAC_VLAN_CFG p) 14 12, false)
  else
    let t := tciOf b
    (if t % 4096 = 0 then pvid else t % 4096, t / 8192, true)

/-- The acceptable-frame filter. -/
def Dev.vlanAccept (d : Dev) (p : Nat) (b : List Byte) : Bool :=
  let a := d.f (MAC_VLAN_CFG p) 16 15
  let named : Bool := 0 < tagCount (d.tpid p) b && tciOf b % 4096 != 0
  if a = 1 then named else if a = 2 then !named else true

/-! ### MACsec (R284-R287, R505) -/

/-- A valid secure channel of port `p` in a direction (0 transmit) that `ok` picks. -/
def Dev.findSc (d : Dev) (p dir : Nat) (ok : Nat → Bool) : Option Nat :=
  (List.range 64).find? (fun s =>
    let w := d.r (SEC_SC s 0)
    bitOf w 31 && fld w 4 0 == p && fld w 5 5 == dir && ok s)

/-- SCI of a secure channel, bytes 0 to 7. -/
def Dev.sciOf (d : Dev) (s : Nat) : List Byte := leBytes 4 (d.r (SEC_SC s 1)).toNat ++ leBytes 4 (d.r (SEC_SC s 2)).toNat

/-- The key of association number `an` of secure channel `s`, in slots 2s and 2s + 1 (R502); none when it is not installed. -/
def Dev.saKey (d : Dev) (s an : Nat) : Option (List Byte) :=
  if an / 2 = d.f (SEC_SC s 0) 10 10 then
    (tfind d.sec.keys (2 * s + an % 2)).map (fun k =>
      ((k.map (fun (w : Word) => leBytes 4 w.toNat)).flatten).take (if d.f (SEC_SC s 0) 6 6 = 0 then 16 else 32))
  else none

/-- The IV of a suite: SCI and packet number, or for XPN a value of the association's salt, which no register holds. -/
def Dev.secIv (d : Dev) (s pn : Nat) : List Byte :=
  if d.f (SEC_SC s 0) 7 7 = 0 then d.sciOf s ++ beBytes 4 pn else Config.xpnIv (d.sciOf s) pn

/-- A packet number of 64 bits from its low 32 and the lowest acceptable one (XPN). -/
def xpnFull (low lowest : Nat) : Nat :=
  let a := lowest / 2 ^ 32 * 2 ^ 32 + low
  if a < lowest && 2 ^ 31 ≤ lowest - a then a + 2 ^ 32 else a

/-- What verification found: the frame without SecTAG and ICV, the place of its association, and its packet number. -/
structure SecFound where
  plain : List Byte
  sa : Nat
  pn : Nat
  good : Bool
  deriving DecidableEq, Repr

/-- The SecTAG of a received frame, its association and the check of its ICV; none for a frame without a SecTAG or without
an installed association, with the frame stripped where it has a SecTAG. DEDUCED, log entry 51. -/
def Dev.secParse (d : Dev) (p : Nat) (b : List Byte) : Sum (List Byte) SecFound :=
  if beAt b 12 2 ≠ 0x88E5 then .inl b
  else
    let tci := (byteAt b 14).toNat
    let hasSci := tci / 32 % 2 = 1
    let h := if hasSci then 28 else 20
    let body := (b.drop h).take (b.length - 16 - h)
    let short := (byteAt b 15).toNat % 64
    let body := if short = 0 then body else body.take short
    let icv := b.drop (b.length - 16)
    let bare := b.take 12 ++ body
    match d.findSc p 1 (fun s => !hasSci || d.sciOf s == (b.drop 20).take 8) with
    | none => .inl bare
    | some s =>
      match d.saKey s (tci % 4) with
      | none => .inl bare
      | some key =>
        let sa := 2 * s + tci % 2
        let low := beAt b 16 4
        let pn := if d.f (SEC_SC s 0) 7 7 = 0 then low else xpnFull low (tget 0 d.sec.pn sa)
        let iv := d.secIv s pn
        let enc := tci / 8 % 2 = 1
        let aad := if enc then b.take h else b.take h ++ body
        let ct := if enc then body else []
        let plain := if enc then (List.range body.length).map (fun i => Config.gcmByte key iv aad body i) else body
        .inr ⟨b.take 12 ++ plain, sa, pn, beBytes 16 (Config.gcmTag key iv aad ct).toNat == icv⟩

/-- MACsec on receive (R287): the frame as it goes on, or none where it is refused. DEDUCED, log entry 51. -/
def Dev.secIn (d : Dev) (p : Nat) (b : List Byte) : Dev × Option (List Byte) :=
  let v := d.f (MAC_SEC_CFG p) 3 2
  if !(d.b (MAC_SEC_CFG p) 0) || v = 0 then (d, some b)
  else
    let t := d.tpid p
    let byPass : Bool := d.b (MAC_SEC_CFG p) 1 && ptpEvent t b && etypeOf t b == 0x88F7
    if byPass then (d, some b)
    else
      match d.secParse p b with
      | .inl bare => (d.tally p 43 1, if v = 1 then some bare else none)
      | .inr x =>
        let lowest := tget 0 d.sec.pn x.sa
        let late := d.b (MAC_SEC_CFG p) 4 && x.pn < lowest
        if !x.good || late then (d.tally p 43 1, if v = 1 then some x.plain else none)
        else
          let low := Nat.max lowest (x.pn + 1 - d.f (MAC_SEC_CFG p) 31 16)
          (({ d with sec := { d.sec with pn := tset d.sec.pn x.sa low } }).tally p 30 1, some x.plain)

/-- What MACsec does with a frame to be sent. -/
inductive SecOut where
  | plain | bypassed
  | secured (b : List Byte)
  /-- no secure channel, no key, or no packet number left: the frame is not sent -/
  | refused
  deriving DecidableEq, Repr

/-- MACsec on transmit: a SecTAG with the SCI, encryption and ICV (R284, R285, R505). DEDUCED, log entry 51. -/
def Dev.secOut (d : Dev) (p : Nat) (b : List Byte) : Dev × SecOut :=
  if !(d.b (MAC_SEC_CFG p) 0) then (d, .plain)
  else
    let t := d.tpid p
    if d.b (MAC_SEC_CFG p) 1 && ptpEvent t b && etypeOf t b = 0x88F7 then (d.satf (MAC_SEC_STAT p) 31 16 1, .bypassed)
    else
      match d.findSc p 0 (fun _ => true) with
      | none => (d, .refused)
      | some s =>
        let an := d.f (SEC_SC s 0) 9 8
        match d.saKey s an with
        | none => (d, .refused)
        | some key =>
          let sa := 2 * s + an % 2
          let pn := tget 0 d.sec.pn sa
          let lim := if d.f (SEC_SC s 0) 7 7 = 0 then 2 ^ 32 else 2 ^ 64
          if lim ≤ pn then (d.ringBit .sec 2, .refused)
          else
            let n := b.length - 12
            let hdr := b.take 12 ++ beBytes 2 0x88E5 ++ [BitVec.ofNat 8 (0x2C + an), BitVec.ofNat 8 (if n < 48 then n else 0)] ++
              beBytes 4 pn ++ d.sciOf s
            let iv := d.secIv s pn
            let ct := (List.range n).map (fun i => Config.gcmByte key iv hdr (b.drop 12) i)
            let icv := beBytes 16 (Config.gcmTag key iv hdr ct).toNat
            ({ d with sec := { d.sec with pn := tset d.sec.pn sa (pn + 1) } }, .secured (hdr ++ ct ++ icv))

/-! ### Flow control (R292-R295) -/

/-- The hold of class `q` ends. -/
def Dev.holdOff (d : Dev) (p q : Nat) : Dev :=
  (d.setPort p (fun m => { m with holdEnd := terase m.holdEnd q, holdStart := terase m.holdStart q })).wb (MAC_PAUSE_STAT p) q false

/-- The watchdog breaks the hold of class `q`, and the ignore period begins. -/
def Dev.holdBreak (d : Dev) (p q : Nat) : Dev :=
  let d := (d.holdOff p q).tally p 46 1
  let wdog := d.f (MAC_PAUSE_WDOG p) 19 0
  let d := if wdog = 0 then d else
    (d.setPort p (fun m => { m with ignoreEnd := tset m.ignoreEnd q (d.tb.now + 1000 * wdog) })).wb (MAC_PAUSE_STAT p) (8 + q) true
  d.ringBit (.mac p) 2

/-- A hold of class `q` whose quanta have run out, or that has reached the watchdog's length, is over before the next pause frame
is judged (R292, R294). -/
def Dev.holdDue (d : Dev) (p q : Nat) : Dev :=
  let past := fun (t : Option Nat) (n : Nat) => (match t with | some t => decide (t + n ≤ d.tb.now) | none => false)
  if past (tfind (d.port p).holdEnd q) 0 then d.holdOff p q
  else if past (tfind (d.port p).holdStart q) (1000 * d.f (MAC_PAUSE_WDOG p) 19 0) then d.holdBreak p q else d

/-- A pause frame's quanta for class `q`. -/
def Dev.holdOn (d : Dev) (p q quanta : Nat) : Dev :=
  let d := d.holdDue p q
  if d.b (MAC_PAUSE_STAT p) (8 + q) then d
  else if quanta = 0 then d.holdOff p q
  else
    let fin := d.tb.now + ceilDiv (quanta * 512000) (d.portRate p)
    let start := tget d.tb.now (d.port p).holdStart q
    let d := d.setPort p (fun m => { m with holdEnd := tset m.holdEnd q fin, holdStart := tset m.holdStart q start })
    let d := d.wb (MAC_PAUSE_STAT p) q true
    if d.f (MAC_PAUSE_WDOG p) 19 0 = 0 then d.holdBreak p q else d

/-- A good PAUSE or PFC frame (R292). -/
def Dev.pauseFrame (d : Dev) (p : Nat) (b : List Byte) : Dev :=
  if beAt b 14 2 = 1 then
    let d := d.tally p 26 1
    if d.b (MAC_PAUSE_CFG p) 0 then d.each (List.range 8) (fun d q => d.holdOn p q (beAt b 16 2)) else d
  else
    let d := d.tally p 27 1
    if d.b (MAC_PAUSE_CFG p) 1 then
      d.each (List.range 8) (fun d q =>
        if (beAt b 16 2).testBit q && d.b (MAC_PAUSE_CFG p) (8 + q) then d.holdOn p q (beAt b (18 + 2 * q) 2) else d)
    else d

/-! ### Link views (R299-R301) -/

/-- The data-path view of a port's PCS facts. -/
def Dev.linkView (d : Dev) (p : Nat) (l : LinkFacts) : Bool :=
  let i := d.f (MAC_IF_CFG p) 2 0
  let an := d.b (MAC_IF_CFG p) 3
  if i = 0 then l.sync && l.inbandUp && !l.half
  else if i = 1 then l.sync && (!an || l.anDone)
  else if i = 4 then l.sync && !l.hiBer
  else l.sync

/-- The management view copies the data path where MAC_LINK_CFG says so (R299). -/
def Dev.mgmtCopy (d : Dev) (p : Nat) : Dev :=
  if d.f (MAC_LINK_CFG p) 1 0 = 2 then d.wf (MAC_LINK_STAT p) 7 4 (d.f (MAC_LINK_STAT p) 3 0) else d

/-- A completion of the management view's update (R301). -/
def Dev.mgmtView (d : Dev) (p : Nat) (up : Bool) (speed : Nat) : Dev :=
  let d := (d.wb (MAC_LINK_STAT p) 4 up).wf (MAC_LINK_STAT p) 7 5 speed
  let dp := d.b (MAC_LINK_STAT p) 0
  let bad := up != dp || (up && speed != d.f (MAC_LINK_STAT p) 3 1)
  let was := (d.port p).differed
  let d := d.setPort p (fun m => { m with differed := bad })
  if !bad then d.wb (MAC_LINK_STAT p) 8 false
  else if was && !(d.b (MAC_LINK_STAT p) 8) then (d.wb (MAC_LINK_STAT p) 8 true).ringBit (.mac p) 1 else d

/-- The ports run: not in reset, in Holdover, Boot or Provision (R27, R35, R303). -/
def Dev.portsOn (d : Dev) : Bool := d.hostUp && d.modeIn [.stop, .run, .hold, .spare, .safe]

/-- A change of the data-path view (R279, R299, R300); ports that do not run have none (R303). -/
def Dev.linkChange (d : Dev) (p : Nat) (l : LinkFacts) : Dev :=
  if !d.portsOn then d else
  let half := d.b (MAC_STAT p) 2
  let s := MAC_STAT p
  let d := (((d.wb s 0 l.sync).wb s 1 l.anDone).wb s 2 l.half).wb s 3 l.hiBer
  let d := if l.half && !half then d.ringBit (.mac p) 6 else d
  let up := d.linkView p l
  let was := d.linkUp p
  let oldSpeed := d.f (MAC_LINK_STAT p) 3 1
  let speed :=
    let i := d.f (MAC_IF_CFG p) 2 0
    if i = 0 && d.b (MAC_IF_CFG p) 3 then l.speed.val else d.portSpeed p
  if up = was && (!up || speed = oldSpeed) then d
  else
    let d := (d.wb (MAC_LINK_STAT p) 0 up).wf (MAC_LINK_STAT p) 3 1 (if up then speed else oldSpeed)
    let d := (d.incf (MAC_LINK_STAT p) 31 16 1).mgmtCopy p
    let d := if up then d.setPort p (fun m => { m with phase := d.tb.now })
      else d.setPort p (fun m => { m with sending := m.sending.map (fun (x : Sending) => x.cutOff d.tb.now) })
    d.ringBit (.mac p) 0

/-! ### The transmit path (R281, R284) -/

/-- The port transmits frames: enabled, the mode lets it (R27, R303). -/
def Dev.txOn (d : Dev) (p : Nat) : Bool :=
  d.b (MAC_CTRL p) 0 && d.b (MAC_CTRL p) 2 && d.modeIn [.stop, .run, .hold, .safe] && !d.pwr.pllLost

/-- The port receives frames. -/
def Dev.rxOn (d : Dev) (p : Nat) : Bool :=
  d.b (MAC_CTRL p) 0 && d.b (MAC_CTRL p) 1 && d.modeIn [.stop, .run, .hold, .spare, .safe] && d.linkUp p && !d.pwr.pllLost

/-- Egress tag editing for a frame that the pipeline forwarded (R307 step 8): untagged where the VLAN says so, else tagged
with the frame's VID. -/
def Dev.tagEdit (d : Dev) (p : Nat) (f : QFrame) (b : List Byte) : List Byte :=
  if f.chanOut || f.inPort = 20 || f.inPort = 22 then b
  else
    let untag := d.b (SWC_VLAN f.vid 1) p
    if f.tagged then
      if untag then b.take 12 ++ b.drop 16
      else overwrite b 14 (beBytes 2 (tciOf b / 4096 * 4096 + f.vid))
    else if untag then b
    else b.take 12 ++ beBytes 2 0x8100 ++ beBytes 2 (f.pcp * 8192 + f.vid) ++ b.drop 12

/-- The one-step insertion of a descriptor's request (R84), or the transparent clock's correction (R85): the message changed,
and whether it was an insertion. DEDUCED, log entry 50. -/
def Dev.ptpEdit (d : Dev) (p : Nat) (f : QFrame) (st : Stamp) (b : List Byte) : List Byte × Bool :=
  match ptpOf (d.tpid p) b with
  | none => (b, false)
  | some m =>
    if f.onestep then
      let tai := d.stToTai st.st
      let new := addCorrection (setOrigin b m (tai / 1000000000).toNat (tai % 1000000000).toNat) m (st.quarter * 16384)
      (fixUdp b new m, true)
    else if d.b TB_CTRL 3 && !f.chanOut && f.inPort < 20 && m.msg < 4 then
      let dwell := 4 * stDiff st.st f.st + st.quarter - f.quarter
      let link : Int := if (m.msg = 0 || m.msg = 3) && d.b (TB_PORT_CFG f.inPort) 3 then (d.r (TB_PORT_LINK_DLY f.inPort)).toNat * 256 else 0
      (fixUdp b (addCorrection b m (dwell * 16384 + link)) m, false)
    else (b, false)

/-- A frame as the port sends it, begun `lead` byte times after `base` ns: tag editing, MACsec, one-step insertion, padding and
FCS, the stamp queue (R87); none when MACsec holds it back. Answers the device, the bytes, and the insertion and protection
flags. -/
def Dev.txFrame (d : Dev) (p base lead : Nat) (f : QFrame) : Dev × Option (List Byte × Bool × Bool) :=
  let st := d.txStamp p base lead
  let b := d.tagEdit p f (cutFcs f.bytes)
  let isEvent := ptpEvent (d.tpid p) b
  let (d, s) := d.secOut p b
  let r : Dev × Option (List Byte × Bool × Bool) := match s with
    | .refused => (d, none)
    | .secured x => (if f.onestep then d.satf (MAC_SEC_STAT p) 15 0 1 else d, some (x, false, true))
    | _ => let (x, one) := d.ptpEdit p f st b; (d, some (x, one, false))
  match r with
  | (d, none) => (d, none)
  | (d, some (x, one, sec)) =>
    let d := if f.tsReq || (isEvent && d.b (TB_PORT_CFG p) 0) then d.tsqPut p st isEvent f.tag else d
    let x := padTo 60 x
    (d, some (x ++ fcsOf x, one, sec))

end Sys2Proof.Machine
end

