-- ==== Sys2Proof/Machine/SwcOps.lean ====
section
/-!
DEFINITION. The switch core beside its lookup: metadata (R306), buffer admission, push-out and the bolt store (R322-R326),
the FDB (R309, R310), delivery to channels and to the host (R328-R331, R483).
-/
namespace Sys2Proof.Machine

/-! ### Metadata (R306) -/

/-- The 32 bytes ahead of a held frame. -/
def metaBytes (f : QFrame) : List Byte :=
  let ws : List Nat :=
    [ f.st.toNat,
      f.quarter + 4 * f.gen + 64 * f.inPort + 2048 * f.cls + 2 ^ 14 * b2n f.cut + 2 ^ 15 * b2n f.sampled + 2 ^ 16 * b2n f.truncated +
        2 ^ 17 * b2n f.stomped + 2 ^ 18 * f.red,
      f.vid + 4096 * f.pcp + 2 ^ 15 * b2n f.tagged + 2 ^ 16 * f.length,
      f.etype + 65536 * f.inSeq,
      f.redSeq + 65536 * f.lan,
      f.tag + 2 ^ 16 * b2n f.tsReq + 2 ^ 17 * b2n f.onestep + 2 ^ 18 * b2n f.cmd + 2 ^ 19 * b2n f.chanOut,
      f.enqSt.toNat,
      f.stored ]
  (ws.map (leBytes 4)).flatten

/-- The frame with other bytes, which are given without their FCS. -/
def QFrame.withBody (f : QFrame) (b : List Byte) : QFrame := { f with bytes := b ++ fcsOf b, stored := b.length + 4 }

/-- Cells of a frame of `n` bytes with FCS. -/
def cellsOf (n : Nat) : Nat := ceilDiv (n + 32) 128

/-! ### The buffer (R322-R326) -/

/-- Cells that a queue holds under a charge, the frame that the port is sending included. DEDUCED, log entry 25. -/
def Dev.charged (d : Dev) (p q : Nat) (c : Charge) : Nat :=
  let on := fun (e : QEntry) => if e.charge == c then e.cells else 0
  let now := match (d.port p).sending with
    | some s => if s.e.f.cls = q then on s.e else 0
    | none => 0
  (d.queue p q).foldl (fun n e => n + on e) now

/-- Cells of the pool that are in use, and those that are free. DEDUCED, log entry 25. -/
def Dev.poolUsed (d : Dev) : Nat :=
  let on := fun (n : Nat) (e : QEntry) => if e.charge == .pool then n + e.cells else n
  let q := d.swc.q.foldl (fun (n : Nat) (x : Nat × List QEntry) => x.2.foldl on n) 0
  d.mac.foldl (fun (n : Nat) (x : Nat × MacPort) => match x.2.sending with | some s => on n s.e | none => n) q
def Dev.poolFree (d : Dev) : Int := d.poolCells - d.poolUsed

/-- Cells in the bolt store. -/
def Dev.boltUsed (d : Dev) : Nat :=
  (d.swc.q.map (fun (x : Nat × List QEntry) => x.2.foldl (fun n e => if e.charge == .bolt then n + e.cells else n) 0)).foldl (· + ·) 0

/-- A frame of `cells` cells is stored, once for all its copies (R322): its first cell is the first one at or after the
allocation point whose sub-bank is in use. -/
def Dev.allocCell (d : Dev) (cells : Nat) : Nat × Dev :=
  let c := ((List.range 8).find? (fun i => !(d.b SWC_STAT (8 + (d.swc.nextCell + i) % 8)))).getD 0
  let c := (d.swc.nextCell + c) % 49152
  (c, { d with swc := { d.swc with nextCell := (c + cells) % 49152 } })

/-- The lowest free pool since reset, where 49,152 cells less the 176 reserves of 16 were free (SWC_POOL_STAT). -/
def Dev.lowest (d : Dev) : Nat := Nat.min (d.swc.lowWater.getD 46336) d.poolFree.toNat
def Dev.poolLow (d : Dev) : Dev := { d with swc := { d.swc with lowWater := some d.lowest } }

/-- The copy, stored from cell `cell` on, joins its queue under a charge; `pe` is for a copy that goes through PE. -/
def Dev.enqueueFrame (d : Dev) (p : Nat) (f : QFrame) (cell : Nat) (pe : Option (Nat × Nat)) (c : Charge) : Dev :=
  let d := d.credit p f.cls
  let e : QEntry :=
    { f := { f with enqSt := d.tb.st }, cells := cellsOf f.bytes.length, charge := c, yields := 0, cell := cell, pe := pe }
  (d.setQueue p f.cls (d.queue p f.cls ++ [e])).poolLow

/-- The lowest class below `q` whose tail frame has its cells in the pool. -/
def Dev.victim (d : Dev) (p q : Nat) : Option Nat :=
  (List.range q).find? (fun c => match (d.queue p c).getLast? with | some e => e.charge == .pool | none => false)

/-- Push-out of at most `n` tails until `cells` are free (R323); none when they would not do. -/
def Dev.pushOut (d : Dev) (p q cells : Nat) : Nat → Option Dev
  | 0 => if (cells : Int) ≤ d.poolFree then some d else none
  | n + 1 =>
    if (cells : Int) ≤ d.poolFree then some d
    else match d.victim p q with
      | none => none
      | some c =>
        ((((d.credit p c).setQueue p c (d.queue p c).dropLast).cnt (SWC_CNT 3)).cnt (SWC_EGR_CNT p 0)).pushOut p q cells n

/-- A copy that should spill goes to the bolt store where that is possible (R324); answers whether it went.
DEDUCED, log entry 58. -/
def Dev.spill (d : Dev) (p : Nat) (f : QFrame) (cell : Nat) (pe : Option (Nat × Nat)) : Bool × Dev :=
  let q := f.cls
  let n := cellsOf f.bytes.length
  let m := SWC_Q_MODE p q
  let wants : Bool := d.b m 2 && (decide (d.f m 31 16 < d.chipCells p q + n) || (d.queue p q).any (fun e => e.charge == .bolt))
  let size := d.f XMC_BOLT_SIZE 13 0
  if !wants || !(d.b SWC_SPILL_CFG 16) || size = 0 then (false, d)
  else if size * 8192 < d.boltUsed + n then (false, d.ringBit .swc 3)
  else
    let ms := d.tb.now / 1000000
    let used := if d.swc.spillMs = ms then d.swc.spillBits else 0
    let bits := 8 * f.bytes.length
    if d.f SWC_SPILL_CFG 15 0 * 1000 < used + bits then (false, d.cnt (SWC_CNT 8))
    else
      let d := { d with swc := { d.swc with spillMs := ms, spillBits := used + bits } }
      (true, ((d.enqueueFrame p f cell pe .bolt).cnt (SWC_CNT 6)).cnt (SWC_EGR_CNT p 5))

/-- A frame copy is admitted to the queue of its class, or dropped (R322); answers whether it was taken. A sampled copy pushes
none out, and is not counted here (R331). -/
def Dev.takeIn (d : Dev) (p : Nat) (f : QFrame) (cell : Nat) (pe : Option (Nat × Nat) := none) : Bool × Dev :=
  let q := f.cls
  let (gone, d) := d.spill p f cell pe
  if gone then (true, d)
  else
    let n := cellsOf f.bytes.length
    let have_ := d.chipCells p q
    let full := fun (d : Dev) => (false, if f.sampled then d else (d.cnt (SWC_CNT 4)).cnt (SWC_EGR_CNT p 1))
    if d.b SWC_STAT 1 && tget 0 d.swc.limit (8 * p + q) < have_ + n then full d
    else if n ≤ d.f (SWC_Q_LIM p q) 15 0 - d.charged p q .reserve then (true, d.enqueueFrame p f cell pe .reserve)
    else if d.f (SWC_Q_LIM p q) 31 16 < have_ + n then full d
    else match d.pushOut p q n (if f.sampled then 0 else 4) with
      | some d => (true, d.enqueueFrame p f cell pe .pool)
      | none => full d

/-- The oldest frame of queue (p, q) in the bolt store, with the frames before it and behind it. -/
def Dev.boltHead (d : Dev) (p q : Nat) : Option (List QEntry × QEntry × List QEntry) :=
  let l := d.queue p q
  let near := l.takeWhile (fun e => e.charge != .bolt)
  match l.drop near.length with
  | [] => none
  | e :: rest => some (near, e, rest)

/-- Where the cells of that frame go when it comes back: on-chip cells are below half of the threshold, and there is room
(R324). -/
def Dev.fillDue (d : Dev) (p q : Nat) : Option Charge :=
  match d.boltHead p q with
  | none => none
  | some (_, e, _) =>
    if d.f (SWC_Q_MODE p q) 31 16 ≤ 2 * d.chipCells p q then none
    else if e.cells ≤ d.f (SWC_Q_LIM p q) 15 0 - d.charged p q .reserve then some .reserve
    else if (e.cells : Int) ≤ d.poolFree then some .pool else none

/-- A fill from the bolt store waits (R273). -/
def Dev.anyFill (d : Dev) : Bool := (tkeys d.swc.q).any (fun k => (d.fillDue (k / 8) (k % 8)).isSome)

/-- The oldest frame of the bolt store comes back (R324), when no request of the engines or the host waits for external memory
(R273). A frame that reads uncorrectable goes with its region (R262, R267). -/
def Dev.boltFill (d : Dev) (p q : Nat) (ecc retry : Ecc) : Dev :=
  match d.boltHead p q, d.fillDue p q with
  | some (near, e, rest), some c =>
    if d.engineWaits || d.hostWaits then d
    else
      let (d, poison) := d.extEcc (keyExt + d.boltOffset e.cell) 3 ecc retry
      if poison || d.boltHead p q != some (near, e, rest) then d
      else
        let (cell, d) := d.allocCell e.cells
        (d.setQueue p q (near ++ [{ e with charge := c, cell := cell }] ++ rest)).cnt (SWC_CNT 7)
  | _, _ => d

/-! ### The FDB (R309, R310) -/

/-- A dynamic entry is older than age_s; with age_s 0 it is so once the frame that learnt it has passed.
DEDUCED, log entry 58. -/
def Dev.fdbAged (d : Dev) (e : FdbEntry) : Bool :=
  let s := d.f SWC_FDB_CFG 15 0
  !e.static && (s = 0 || s * 1000000000 < d.tb.now - e.age)

/-- The entry of an address and VID, with its index: removed ones do not count. -/
def Dev.fdbFind (d : Dev) (mac vid : Nat) : Option (Nat × FdbEntry) :=
  d.swc.fdb.find? (fun (x : Nat × FdbEntry) => x.2.mac == mac && x.2.vid == vid && !(d.fdbAged x.2))

/-- A place in the bucket of an address and VID: its own aged one, a free one, else another aged one. -/
def Dev.fdbRoom (d : Dev) (mac vid : Nat) : Option Nat :=
  let b := 4 * (Config.fdbHash mac vid).toNat
  let l := (List.range 4).map (b + ·)
  let at_ := fun i => tfind d.swc.fdb i
  match l.find? (fun i => match at_ i with | some e => e.mac == mac && e.vid == vid | none => false) with
  | some i => some i
  | none => match l.find? (fun i => (at_ i).isNone) with
    | some i => some i
    | none => l.find? (fun i => match at_ i with | some e => d.fdbAged e | none => true)

def Dev.fdbSet (d : Dev) (i : Nat) (e : FdbEntry) : Dev := { d with swc := { d.swc with fdb := tset d.swc.fdb i e } }
def Dev.fdbErase (d : Dev) (i : Nat) : Dev := { d with swc := { d.swc with fdb := terase d.swc.fdb i } }

/-- A frame's source address is learnt on port `p` (R309). -/
def Dev.fdbLearn (d : Dev) (p mac vid : Nat) : Dev :=
  match d.fdbFind mac vid with
  | some (i, e) => if e.static then d else d.fdbSet i { e with ports := 2 ^ p, age := d.tb.now }
  | none => match d.fdbRoom mac vid with
    | some i => d.fdbSet i { mac := mac, vid := vid, ports := 2 ^ p, static := false, age := d.tb.now }
    | none => (d.cnt (SWC_CNT 14)).ringBit .swc 6

/-- Completion of SWC_FDB_CMD: the result of an entry found or written, the status, the sequence, the bell.
DEDUCED, log entry 58. -/
def Dev.fdbDone (d : Dev) (status : Nat) (e : Option (Nat × FdbEntry)) : Dev :=
  let d := match e with
    | some (i, x) => (d.w (SWC_FDB_RES 0) (w32 (i + 2 ^ 14 * b2n x.static + 2 ^ 15))).w (SWC_FDB_RES 1) (w32 x.ports)
    | none => d.wb (SWC_FDB_RES 0) 15 false
  let d := { d with swc := { d.swc with fdbSeq := wrapAdd 16 d.swc.fdbSeq 1 } }
  (d.wf SWC_FDB_STAT 3 1 status).ringBit .swc 5

/-- The operation of SWC_FDB_CMD (R310). DESIGN CHOICE, log entry 21. -/
def Dev.fdbCmd (d : Dev) (op : Nat) : Dev :=
  let a0 := (d.r (SWC_FDB_ARG 0)).toNat
  let mac := a0 + 2 ^ 32 * d.f (SWC_FDB_ARG 1) 15 0
  let vid := d.f (SWC_FDB_ARG 1) 27 16
  let ports := d.f (SWC_FDB_ARG 2) 21 0
  if op = 0 then
    match d.fdbFind mac vid with
    | some x => d.fdbDone 0 (some x)
    | none => d.fdbDone 1 none
  else if op = 1 then
    let i := match d.fdbFind mac vid with | some x => some x.1 | none => d.fdbRoom mac vid
    match i with
    | some i =>
      let e : FdbEntry := { mac := mac, vid := vid, ports := ports, static := true, age := d.tb.now }
      (d.fdbSet i e).fdbDone 0 (some (i, e))
    | none => d.fdbDone 2 none
  else if op = 2 then
    match d.fdbFind mac vid with
    | some x => (d.fdbErase x.1).fdbDone 0 (some x)
    | none => d.fdbDone 1 none
  else if op = 3 then
    let keep := fun (x : Nat × FdbEntry) => x.2.static || x.2.ports &&& ports == 0
    ({ d with swc := { d.swc with fdb := d.swc.fdb.filter keep } }).fdbDone 0 none
  else if op = 4 then
    if 16384 ≤ a0 then d.fdbDone 3 none
    else match tfind d.swc.fdb a0 with
      | some e => d.fdbDone 0 (some (a0, e))
      | none => d.fdbDone 1 none
  else d.fdbDone 3 none

/-! ### Delivery to channels (R328, R329) -/

/-- Valid subscription entries, in rising order. -/
def Dev.openSubs (d : Dev) : List Nat :=
  (d.regs.filter (fun (x : Nat × Word) => 0xCA0000 ≤ x.1 && x.1 < 0xCA8000 && x.1 % 0x20 == 4 && bitOf x.2 30)).map
    (fun x => (x.1 - 0xCA0000) / 0x20)

/-- Subscription entry `i` matches a frame: its bytes, VID, EtherType, and the APPID behind that. -/
def Dev.subMatch (d : Dev) (i : Nat) (b : List Byte) (vid etype appid : Nat) : Bool :=
  let w := fun k => d.r (SWC_SUB i k)
  (bitOf (w 1) 29 || dstOf b == (w 0).toNat + 2 ^ 32 * fld (w 1) 15 0) && (bitOf (w 1) 28 || vid == fld (w 1) 27 16) &&
  (bitOf (w 3) 0 || etype == fld (w 2) 15 0) &&
  (!(etype == 0x88B8 || etype == 0x88BA) || bitOf (w 3) 1 || appid == fld (w 2) 31 16)

/-- A copy that PE drops: counted, and the channel's next FRAME event carries overrun (R329). -/
def Dev.peDrop (d : Dev) (c cntr : Nat) : Dev :=
  let d := d.cnt (SWC_CNT cntr)
  { d with swc := { d.swc with dropped := if d.swc.dropped.contains c then d.swc.dropped else c :: d.swc.dropped } }

/-- A copy into the receive ring of entry `i`, and the FRAME event that tells of it; `cntr` counts a copy that finds no
room. Answers whether it was taken. DEDUCED, log entry 59. -/
def Dev.subPush (d : Dev) (i c : Nat) (f : QFrame) (cntr : Nat) : Bool × Dev :=
  let w5 := d.r (SWC_SUB i 5)
  let n := fld w5 15 8
  let size := 256 * 2 ^ fld w5 19 16
  let bytes := metaBytes f ++ f.bytes
  if size < bytes.length then (false, d.peDrop c cntr)
  else match d.freeSlot 1 i n (d.f (SWC_SUB i 7) 7 0) with
    | none => (false, d.peDrop c cntr)
    | some slot =>
      let pay := w32 (slot + 256 * f.bytes.length + 2 ^ 22 * b2n f.truncated + 2 ^ 23 * b2n f.sampled)
      let ev := { mkEv 1 f.inPort ⟨f.st, f.quarter, f.gen⟩ f.inSeq pay with
        overrun := d.swc.dropped.contains c, ring := some (1, i, slot) }
      let d := { d with swc := { d.swc with dropped := d.swc.dropped.filter (· != c) } }
      let d := d.fillSlot 1 i slot c (fld w5 2 0) ((d.r (SWC_SUB i 6)).toNat + slot * size) bytes ev
      (true, (d.wf (SWC_SUB i 7) 7 0 ((slot + 1) % n)).post c ev)

/-- The channel of an entry, when its handle stands and the ingress port is granted (PH under its own bit 20). -/
def Dev.subChan (d : Dev) (i inPort : Nat) : Option Nat :=
  match d.chanOf (d.r (SWC_SUB i 4)) with
  | some c => if bitOf (d.desc c 7) (if inPort = 21 then 20 else inPort) || inPort = 22 then some c else none
  | none => none

/-- A copy for entry `i`, whose channel is `c`, joins PE's queue of its class; one that finds no room is dropped, and counted in
SWC_CNT `cntr` (R329, R331). Answers whether it was taken. -/
def Dev.peTake (d : Dev) (i c : Nat) (f : QFrame) (cell cntr : Nat) : Bool × Dev :=
  let (ok, d) := d.takeIn 20 f cell (some (i, cntr))
  (ok, if ok then d else d.peDrop c cntr)

/-- A copy whose entry does not stand (R329). -/
def Dev.subStale (d : Dev) : Dev := (d.cnt (SWC_CNT 13)).ringBit .swc 7

/-- The copy of a matching entry, stored from cell `cell` on: into PE's queue, or to the frame bridge through its route (R486).
DESIGN CHOICE, log entry 24. -/
def Dev.subCopy (d : Dev) (i cell : Nat) (f : QFrame) : Dev :=
  let h := d.r (SWC_SUB i 4)
  if hKind h = 3 then
    if !d.fbrOn then d
    else if d.checkHandle 3 h = .ok && d.b (FBR_ROUTE (hIdx h) 0) 4 then
      d.fbrPush { route := hIdx h, rgen := hGen h, payload := f.bytes, mdb := false, st := f.st, quarter := f.quarter, gen := f.gen }
    else d.fbrCnt 3
  else match d.subChan i f.inPort with
    | some c => (d.peTake i c f cell 12).2
    | none => d.subStale

/-! ### Delivery to the host (R330, R483) -/

/-- What a read of external memory finds when no row says it: a free value. DESIGN CHOICE, log entry 91.
DESIGN CHOICE, log entry 24. -/
def Dev.freeEcc (d : Dev) : Ecc × Dev :=
  let (v, d) := d.free
  (if v.toNat % 4 = 1 then .corrected (Fin.ofNat 36 (v.toNat / 4)) else if v.toNat % 4 = 2 then .uncorr else .clean, d)

/-- A frame for PH goes into the receive ring of its class; answers whether it was taken. What the read of a descriptor in
external memory finds is a free value: a poisoned one takes no bytes, and its write-back is discarded (R254, R271).
DESIGN CHOICE, log entry 9; DESIGN CHOICE, log entry 24. -/
def Dev.phDeliver (d : Dev) (f : QFrame) : Bool × Dev :=
  let r := d.f HBR_RXR_MAP (2 * f.cls + 1) (2 * f.cls)
  let cfg := d.r (HBR_RING_CFG r)
  let head := d.f (HBR_RING_HEAD r) 11 0
  let bytes := metaBytes f ++ f.bytes
  if fld cfg 29 16 < bytes.length then (false, d.cnt (HBR_CNT 0))
  else if !(bitOf cfg 5) || head = d.f (HBR_RING_TAIL r) 11 0 then (false, (d.cnt (HBR_CNT 1)).cnt (SWC_EGR_CNT 21 1))
  else
    let base := (d.r (HBR_RING_BASE_LO r)).toNat + 2 ^ 32 * (d.r (HBR_RING_BASE_HI r)).toNat
    let desc := base + 16 * head
    let seq := tget 0 d.hbr.ringSeq r
    let back := leBytes 4 bytes.length ++ leBytes 4 seq
    let d :=
      if bitOf cfg 4 then
        let a := leVal (d.mrd (keyExt + desc) 8)
        let (x, d) := d.freeEcc
        let (y, d) := d.freeEcc
        let (d, poison) := d.extEcc (keyExt + desc) 3 x y
        if poison then d
        else
          let d := if a + bytes.length ≤ d.extBytes then d.extPut (keyExt + a) bytes else d
          d.extPut (keyExt + desc + 8) back
      else
        let (lo, d) := d.free
        let (hi, d) := d.free
        (d.emit (.dma (lo.toNat + 2 ^ 32 * hi.toNat) bytes)).emit (.dma (desc + 8) back)
    let d := { d with hbr := { d.hbr with ringSeq := tset d.hbr.ringSeq r (wrapAdd 16 seq 1) } }
    (true, (d.wf (HBR_RING_HEAD r) 11 0 ((head + 1) % 2 ^ fld cfg 3 0)).ringBit .hbr (2 + r))

/-! ### Sampling (R331) -/

/-- The sampled copy of a frame on port `p` joins class 0 of PE, or of PH. DEDUCED, log entry 59. -/
def Dev.sampleCopy (d : Dev) (p : Nat) (f : QFrame) : Dev :=
  let n := f.bytes.length
  let f := { f with bytes := f.bytes.take 128, stored := Nat.min 128 n, sampled := true, truncated := decide (128 < n), cls := 0 }
  let h := d.r (SWC_SAMP_DEST p)
  let (cell, d) := d.allocCell (cellsOf f.stored)
  if h = 0 then
    let (ok, d) := d.takeIn 21 f cell
    if ok then d else d.cnt (SWC_CNT 11)
  else match d.chanOf h with
    | none => d.cnt (SWC_CNT 11)
    | some c => match d.openSubs.find? (fun i => d.r (SWC_SUB i 4) == h) with
      | some i => (d.peTake i c f cell 11).2
      | none => d.peDrop c 11

/-- The frame counter of a direction moves on, and takes every N-th frame. DESIGN CHOICE, log entry 92. -/
def Dev.sampleTake (d : Dev) (p : Nat) (tx : Bool) (f : QFrame) : Dev :=
  let n := if tx then d.f (SWC_SAMP_CFG p) 31 16 else d.f (SWC_SAMP_CFG p) 15 0
  if n = 0 then d
  else
    let k := (if tx then (d.port p).sampTx else (d.port p).sampRx) + 1
    let hit := n ≤ k
    let k' := if hit then 0 else k
    let d := d.setPort p (fun m => if tx then { m with sampTx := k' } else { m with sampRx := k' })
    if hit then d.sampleCopy p f else d

/-! ### The internal ports PE (20) and PH (21) -/

/-- The head frame is aged; with age_us 0 it always is (R325). The part of a yielded cut-through that still arrives is not
judged. -/
def Dev.aged (d : Dev) (p q : Nat) (e : QEntry) : Bool :=
  let us := d.f (SWC_Q_AGE p q) 19 0
  d.b (SWC_Q_AGE p q) 31 && e.charge != .arriving && (us = 0 || us * 1000 < (d.tb.st - e.f.enqSt).toNat)

/-- Aged frames leave the head of queue (p, q). -/
def Dev.dropAged (d : Dev) (p q : Nat) : Dev :=
  let l := d.queue p q
  let n := (l.takeWhile (d.aged p q)).length
  if n = 0 then d else ((((d.credit p q).setQueue p q (l.drop n)).cnt (SWC_CNT 5) n)).cnt (SWC_EGR_CNT p 2) n

/-- Cell `n` of the buffer is read; answers whether it is uncorrectable (R326). A retired sub-bank is not judged any more
(R268). -/
def Dev.cellRead (d : Dev) (n : Nat) (ecc : Ecc) : Bool × Dev :=
  if d.b SWC_STAT (8 + n % 8) then (false, d) else (ecc == .uncorr, d.ecc (0xF4 + n % 8) 5 n ecc)

/-- A frame not yet started whose cell is uncorrectable (R326). -/
def Dev.cellDrop (d : Dev) : Dev := (d.cnt (SWC_CNT 10)).ringBit .swc 4

/-- A copy that PE or PH has carried: into the receive ring of its entry, which is judged once more, or into the host's.
DESIGN CHOICE, log entry 24. -/
def Dev.innerGive (d : Dev) (p : Nat) (e : QEntry) : Dev :=
  if p = 21 then
    let (ok, d) := d.phDeliver e.f
    if ok || !e.f.sampled then d else d.cnt (SWC_CNT 11)
  else match e.pe with
    | some (i, cntr) => match d.subChan i e.f.inPort with
      | some c => (d.subPush i c e.f cntr).2
      | none => d.subStale
    | none => d

/-- Class `q` of an internal port may start its head frame (R311). -/
def Dev.innerMay (d : Dev) (p q : Nat) : Bool :=
  match d.queue p q with
  | [] => false
  | e :: _ => e.charge != .bolt && d.gateOpenQ p q && d.creditOk p q

/-- PE or PH selects a frame, when the one before has gone at the port's rate, and carries it; `ecc` is what the read of its
first cell finds (R311, R326). DESIGN CHOICE, log entry 92. -/
def Dev.innerSend (d : Dev) (p : Nat) (ecc : Ecc) : Dev :=
  let d := d.credits p
  let busy : Bool := match (d.port p).sending with | some s => decide (d.tb.now < s.endAt) | none => false
  let d := if busy then d else d.setPort p (fun m => { m with sending := none })
  let d := d.each (List.range 8) (fun d q => d.dropAged p q)
  if busy then d
  else match ((List.range 8).reverse).find? (fun q => d.innerMay p q) with
    | none => d
    | some q => match d.queue p q with
      | [] => d
      | e :: rest =>
        let (bad, d) := (d.setQueue p q rest).cellRead e.cell ecc
        if bad then d.cellDrop
        else
          let fin := d.tb.now + d.bytesNs p (32 + e.f.bytes.length)
          let s : Sending := { e := e, since := d.tb.now, endAt := fin, sent := e.f.bytes, stomp := false, lost := false,
                               pdelay := none, onestep := false, secured := false }
          let d := d.setPort p (fun m => { m with sending := some s })
          (if e.f.sampled then d else d.sampleTake p true e.f).innerGive p e

/-- What waits for PE and PH moves on in the step that brought it, as far as the ports are free. DESIGN CHOICE, log entry 92.
DESIGN CHOICE, log entry 24. -/
def Dev.drainIn (d : Dev) : Dev :=
  if (List.range 16).all (fun k => (d.queue 20 k).isEmpty) then d else (d.innerSend 20 .clean).innerSend 21 .clean

/-- A frame of a port for sampling, with what its copy sets in motion. -/
def Dev.sample (d : Dev) (p : Nat) (tx : Bool) (f : QFrame) : Dev := (d.sampleTake p tx f).drainIn

end Sys2Proof.Machine
end

