-- ==== Sys2Proof/Machine/Memory.lean ====
section
/-!
DEFINITION. Banks and external memory as engines reach them (09_memory.md): the ordering buffer of ORD atomics (R255-R258), the
ports of a bank (R250-R254), what a far load delivers (R144, R145), the scrubbers, and refresh.
-/
namespace Sys2Proof.Machine

/-! ### What a far load delivers -/

/-- A far load's value arrives in the registers of its context, with its poison mark (R144, R145). -/
def Dev.farDeliver (d : Dev) (f : FarOp) (v : DWord) (poison : Bool) : Dev :=
  if (tfind d.cut.acts f.key).isNone then d
  else
    let wide := f.size == 8
    let n := v.toNat % 2 ^ (8 * f.size)
    let n := if f.signed then tc 32 (sx (8 * f.size) n) else n
    d.setCtx f.key (fun c =>
      let c := c.setOpnd wide f.dest n
      if poison then { c with poison := c.poison ++ pairOf wide f.dest } else c)

/-- The list without its first element that a test picks. -/
def dropFirst {α : Type} (p : α → Bool) : List α → List α
  | [] => []
  | a :: t => if p a then t else a :: dropFirst p t

/-- The list with its first element that a test picks changed. -/
def modFirst {α : Type} (p : α → Bool) (f : α → α) : List α → List α
  | [] => []
  | a :: t => if p a then f a :: t else a :: modFirst p f t

/-- That access leaves the queue. -/
def Dev.farPop (d : Dev) (e : Nat) (r : Region) : Dev :=
  d.setEng e (fun x => { x with far := dropFirst (fun (f : FarOp) => f.region == r && !f.entered) x.far })

/-- The memory write of a store. -/
def Dev.farStore (d : Dev) (f : FarOp) : Dev :=
  if d.keyRetired f.addr then d else d.mwr f.addr (leBytes f.size f.value.toNat)

/-- The result of an atomic on an old value (R198). -/
def atomicRes (op : AtomicOp) (size : Nat) (old v : Nat) : Nat :=
  match op with
  | .add => (old + v) % 2 ^ (8 * size)
  | .swap => v % 2 ^ (8 * size)

/-! ### The ordering buffer (R255-R257) -/

def Dev.ordBuf (d : Dev) (b : Nat) : List OrdEntry := tget [] d.memb.ord b

/-- Entry `x` precedes entry `y` in the order of R256. -/
def ordBefore (x y : OrdEntry) : Bool :=
  if x.st ≠ y.st then stBefore x.st y.st
  else if x.quarter ≠ y.quarter then x.quarter < y.quarter
  else if x.eng ≠ y.eng then x.eng < y.eng
  else x.order < y.order

/-- ORD atomics of engine `e` that have reached their bank port enter its buffer while it has room (R255).
DEDUCED, log entry 22. -/
def Dev.ordEnterEng (d : Dev) (e : Nat) : Nat → Dev
  | 0 => d
  | n + 1 =>
    match d.farHead e .bank with
    | some f =>
      match f.ord, f.atomic, bankOfKey f.addr with
      | true, some op, some b =>
        if (d.ordBuf b).length < 16 then
          let x : OrdEntry :=
            { eng := e, key := f.key, addr := f.addr, size := f.size, op := op, value := f.value, dest := f.dest,
              st := f.st, quarter := f.quarter, arrival := d.tb.now, order := d.memb.ordSeq }
          let l := d.ordBuf b ++ [x]
          let d := { d with memb := { d.memb with ord := tset d.memb.ord b l, ordSeq := d.memb.ordSeq + 1 } }
          let d := d.wf MEM_ORD_STAT 20 16 (Nat.max (d.f MEM_ORD_STAT 20 16) l.length)
          let d := d.setEng e (fun y =>
            { y with far := modFirst (fun (g : FarOp) => g.region == .bank && !g.entered) (fun (g : FarOp) => { g with entered := true }) y.far })
          d.ordEnterEng e n
        else d
      | _, _, _ => d
    | none => d

/-- Every engine's ORD atomics that may enter a buffer do so. DEDUCED, log entry 22. -/
def Dev.ordEnter (d : Dev) : Dev := d.each (tkeys d.cut.engines) (fun d e => d.ordEnterEng e 4)

/-- The port of bank `b` that serves engine `e` (R229, R250): 0 for A, 1 for B. -/
def bankPort (b e : Nat) : Nat := if portA b e then 0 else 1

/-- An entry is applied in one RMW slot and delivers rd (R256); applied after one with a later stamp, it is an inversion
(R257). `ecc` is what the check of the row finds: an uncorrectable row keeps its contents, and rd is poisoned (R254).
DEDUCED, log entry 22. -/
def Dev.ordApply (d : Dev) (b : Nat) (x : OrdEntry) (ecc : Ecc) : Dev :=
  let w := x.addr / 8 * 8
  let last := tfind d.memb.ordLast w
  let later := match last with
    | some (st, q, at_) => d.tb.now < at_ + 2 ^ 31 && (if st ≠ x.st then stBefore x.st st else decide (x.quarter < q))
    | none => false
  let d := if later then (d.satf MEM_ORD_STAT 15 0 1).ringBit .mem 4 else d
  let d := if later then d else
    { d with memb := { d.memb with ordLast := tset d.memb.ordLast w (x.st, x.quarter, d.tb.now) } }
  let dead := d.keyRetired x.addr || ecc == .uncorr
  let old := leVal (d.mrd x.addr x.size)
  let d := if dead then d else d.mwr x.addr (leBytes x.size (atomicRes x.op x.size old x.value.toNat))
  let d := { d with memb := { d.memb with ord := tset d.memb.ord b (dropFirst (fun (y : OrdEntry) => y == x) (d.ordBuf b)) } }
  let mine := fun (f : FarOp) => f.entered && f.key == x.key && f.addr == x.addr && f.dest == x.dest
  let d := match (d.eng x.eng).far.find? mine with
    | some f => (d.setEng x.eng (fun y => { y with far := dropFirst mine y.far })).farDeliver f (BitVec.ofNat 64 old) dead
    | none => d
  d.readEcc x.addr (bankPort b x.eng) ecc

/-- The entries of a list in the order of R256. -/
def ordSort : List OrdEntry → List OrdEntry
  | [] => []
  | x :: t =>
    let rec ins (y : OrdEntry) : List OrdEntry → List OrdEntry
      | [] => [y]
      | z :: r => if ordBefore z y then z :: ins y r else y :: z :: r
    ins x (ordSort t)

/-- The hold of the oldest entry of bank `b` ends 256 ns after its arrival: every held entry on the same 8-byte word that
precedes it is applied, in order, and then the entry itself (R256). They act on one row, which the first of them reads as `ecc`
says and writes afresh. DEDUCED, log entry 22. -/
def Dev.ordHoldEnd (d : Dev) (b : Nat) (ecc : Ecc) : Dev :=
  match d.ordBuf b with
  | [] => d
  | x :: t =>
    if d.tb.now < x.arrival + 256 then d
    else
      let first := ordSort (t.filter (fun y => y.addr / 8 == x.addr / 8 && ordBefore y x))
      let d := match first ++ [x] with
        | y :: l => l.foldl (fun (d : Dev) z => d.ordApply b z .clean) (d.ordApply b y ecc)
        | [] => d
      d.ordEnter

/-! ### Bank ports (R250-R254) -/

/-- How an access uses its slot (R251, R252): a plain read, a full write, a narrow write (a read-modify-write), or an atomic
(another). -/
inductive SlotKind where
  | read | full | narrow | atomic
  deriving DecidableEq, Repr

def slotKind (a : PortAccess) : SlotKind :=
  if a.atomic.isSome then .atomic
  else if !a.write then .read
  else if a.size.val = 16 && a.addr.val % 16 = 0 then .full else .narrow

/-- The far access that a bank access serves: the oldest of its engine, at the same address and of the same kind, at the port
that serves this engine (R229). -/
def Dev.servedOp (d : Dev) (b port : Nat) (a : PortAccess) : Option FarOp :=
  match a.eng with
  | none => none
  | some e =>
    match d.farHead e.val .bank with
    | some f => if f.addr = keyBank b + a.addr.val && f.size = a.size.val && f.store = (a.write && a.atomic.isNone) &&
        f.atomic = a.atomic && !f.ord && f.copy.isNone && f.arrived.isNone && bankPort b e.val = port then some f else none
    | none => none

/-- The access reaches the bank: another requester's, or one that its engine has at this port. -/
def Dev.served (d : Dev) (b port : Nat) (a : PortAccess) : Bool := a.eng.isNone || (d.servedOp b port a).isSome

/-- The access writes its bytes: a plain write to a bank in service, whose row a narrow write could read (R254, R268). -/
def Dev.plainWrites (d : Dev) (b port : Nat) (a : PortAccess) : Bool :=
  d.served b port a && !(d.bankRetired b) && (slotKind a == .full || (slotKind a == .narrow && a.ecc != .uncorr))

/-- The bytes of two accesses meet. -/
def bytesMeet (x y : PortAccess) : Bool :=
  x.addr.val < y.addr.val + y.size.val && y.addr.val < x.addr.val + x.size.val

/-- The bytes that an access writes: an engine's store has its own value. -/
def portData (a : PortAccess) (f : Option FarOp) : List Byte :=
  match f with
  | some f => leBytes f.size f.value.toNat
  | none => a.data

/-- The access at a port: 0 for A, 1 for B. Reads take `before`, the memory as it was before the slot's writes. -/
def Dev.portDo (d before : Dev) (b port : Nat) (a : PortAccess) : Dev :=
  let key := keyBank b + a.addr.val
  let f := d.servedOp b port a
  if !(d.served b port a) then d
  else
    let dead := d.bankRetired b
    let poison := dead || a.ecc == .uncorr
    let kind := slotKind a
    let old := leVal (match kind with | .read => before.mrd key a.size.val | _ => d.mrd key a.size.val)
    let d1 :=
      if dead || (poison && kind != .full) then d
      else match kind with
        | .read => d
        | _ =>
          match a.atomic with
          | some op => d.mwr key (leBytes a.size.val (atomicRes op a.size.val old (leVal (portData a f))))
          | none => d.mwr key (portData a f)
    let d1 := match f, a.eng with
      | some f, some e =>
        if f.store then d1.farPop e.val .bank
        else
          let served := fun (g : FarOp) => { g with arrived := some (BitVec.ofNat 64 old, poison) }
          d1.setEng e.val (fun x => { x with far := modFirst (fun (g : FarOp) => g == f) served x.far })
      | _, _ => d1
    if kind == .full then d1 else d1.readEcc key port a.ecc

/-- Both accesses are plain writes that are performed and have bytes in common: port B's data stand, and the conflict is
counted (R253). -/
def Dev.slotClash (d : Dev) (b : Nat) (pa pb : Option PortAccess) : Bool :=
  match pa, pb with
  | some x, some y => d.plainWrites b 0 x && d.plainWrites b 1 y && bytesMeet x y
  | _, _ => false

/-- Port A's access acts before port B's (R253): both read, or both write, or both are read-modify-writes; else a read comes
first, for it sees the row as it was, and a full write comes before an atomic. -/
def aFirst (x y : PortAccess) : Bool :=
  match slotKind x, slotKind y with
  | .atomic, .full => false
  | _, .read => slotKind x == .read
  | _, _ => true

/-- Both ports of bank `b` in one slot (R253). -/
def Dev.bankSlot (d : Dev) (b : Nat) (pa pb : Option PortAccess) : Dev :=
  let before := d
  let clash := d.slotClash b pa pb
  let d := match pa, pb with
    | some x, some y =>
      if aFirst x y then (d.portDo before b 0 x).portDo before b 1 y else (d.portDo before b 1 y).portDo before b 0 x
    | some x, none => d.portDo before b 0 x
    | none, some y => d.portDo before b 1 y
    | none, none => d
  let d := if clash then (d.satf (MEM_BANK_CNT b) 31 16 1).ringBit .mem 3 else d
  d.ordEnter

/-- What the outside may offer at a port: an access within one row, with as many bytes as it has when it writes. -/
def PortAccess.wf (a : PortAccess) : Bool :=
  a.addr.val % 16 + a.size.val ≤ 16 && 0 < a.size.val &&
  (!(a.write || a.atomic.isSome) || a.data.length == a.size.val || a.eng.isSome) &&
  (a.atomic.isNone || ((a.size.val == 4 || a.size.val == 8) && a.addr.val % a.size.val == 0))

/-! ### Scrubbing, strikes, refresh -/

/-- A pass of `n` steps that began at `start` and takes `period` ns spreads its steps evenly: step `i` is due (R263, R264). A
period of zero runs the passes back to back (R15). DESIGN CHOICE, log entry 91. -/
def Dev.passDue (d : Dev) (start : Option Nat) (period n i : Nat) : Bool :=
  match start with
  | some t => n = 0 || t + i * period / n ≤ d.tb.now
  | none => true

/-- Start of the next pass: a period after the last, or now where that has passed. DESIGN CHOICE, log entry 91. -/
def Dev.passNext (d : Dev) (start : Option Nat) (period : Nat) : Option Nat :=
  some (Nat.max (start.getD d.tb.now + period) d.tb.now)

/-- Length of a pass of the bank scrubber, and of the external scrubber, ns. -/
def Dev.scrubTime (d : Dev) : Nat := d.f MEM_SCRUB_CFG 15 0 * 10000000
def Dev.xmcTime (d : Dev) : Nat := d.f XMC_SCRUB_CFG 15 0 * 1000000000

/-- The bank scrubber reads the row of bank `b` that is due (R263); the pass is complete when every bank in service has been
read. DESIGN CHOICE, log entry 91. -/
def Dev.scrubRow (d : Dev) (b : Nat) (ecc : Ecc) : Dev :=
  let row := tget 0 d.memb.scrubRow b
  if !d.hostUp || !(d.b MEM_CTRL 0) || d.bankRetired b || d.memb.scrubDone.contains b ||
     !(d.passDue d.memb.scrubAt d.scrubTime 16384 row) then d
  else
    let d := (d.wf MEM_SCRUB_STAT 21 16 b).wb MEM_STAT 1 true
    let d := { d with memb := { d.memb with
      scrubAt := some (d.memb.scrubAt.getD d.tb.now)
      scrubFix := match ecc with | .corrected _ => some (b, row) | _ => d.memb.scrubFix
      scrubRow := tset d.memb.scrubRow b ((row + 1) % 16384)
      scrubDone := if row + 1 = 16384 then d.memb.scrubDone ++ [b] else d.memb.scrubDone } }
    let d := d.readEcc (keyBank b + 16 * row) 2 ecc
    if (List.range 64).all (fun i => d.bankRetired i || d.memb.scrubDone.contains i) then
      let d := { d with memb := { d.memb with
        scrubRow := [], scrubDone := [], scrubAt := d.passNext d.memb.scrubAt d.scrubTime } }
      ((d.incf MEM_SCRUB_STAT 15 0 1).wb MEM_STAT 1 false).ringBit .mem 5
    else d

/-- The external scrubber reads the codeword that is due (R264), when no other request waits (R273).
DESIGN CHOICE, log entry 91. -/
def Dev.xmcScrub (d : Dev) (ecc retry : Ecc) : Dev :=
  let p := d.memb.xmcPos
  if !d.hostUp || !(d.b XMC_STAT 0) || d.extBytes = 0 || d.engineWaits || d.hostWaits || d.anyFill ||
     !(d.passDue d.memb.xmcAt d.xmcTime d.extBytes p) then d
  else
    let next := (p + 16) % d.extBytes
    let at_ := some (d.memb.xmcAt.getD d.tb.now)
    let d := { d with memb := { d.memb with
      xmcPos := next, xmcAt := if next = 0 then d.passNext at_ d.xmcTime else at_ } }
    (d.extEcc (keyExt + p) 3 ecc retry).1

/-- Time between two refreshes, ns (R272). -/
def Dev.refreshTime (d : Dev) : Nat := if d.b XMC_CTRL 1 then 3900 else 7800

/-- A refresh falls due (R272): while a request of priority 1 or 2 waits it is postponed; with eight postponed, one is issued
ahead of the request. When nothing waits, the refresh and those postponed are issued. DESIGN CHOICE, log entry 91. -/
def Dev.refresh (d : Dev) : Dev :=
  if !d.hostUp || !(d.b XMC_STAT 0) || d.tb.now < d.memb.refAt + d.refreshTime then d
  else
    let n := d.memb.postponed
    { d with memb := { d.memb with
      refAt := d.memb.refAt + d.refreshTime
      postponed := if d.engineWaits then Nat.min 8 (n + 1) else 0 } }

/-- The two views of a resource are compared (R269): a difference of more than 10 µs is flagged, and the flag clears when no two
differ. -/
def Dev.memDisagree (d : Dev) (r : Nat) : Dev :=
  let differs := fun (i : Nat) => d.b (MEM_FC_RES i) 5 != d.b (MEM_FC_RES i) 6
  if differs r then
    if tget 0 d.memb.permAt r + 10000 < d.tb.now then (d.wb MEM_STAT 0 true).ringBit .mem 6 else d
  else if (List.range 254).any differs then d else d.wb MEM_STAT 0 false

/-- The corrected codeword of a row is written back, unless a write to the row has come between, wb_en is 0, or the bank is
retired (R261); the scrubber's is written whatever wb_en holds (R263). The row already reads as the corrected data, so no byte
changes. -/
def Dev.rowBack (d : Dev) (b row : Nat) (intervened : Bool) : Dev :=
  let scrub := d.memb.scrubFix == some (b, row)
  let may := d.b MEM_CTRL 1 || scrub
  let d := if scrub then { d with memb := { d.memb with scrubFix := none } } else d
  if intervened || !may || d.bankRetired b then d
  else d.mwr (keyBank b + 16 * row) (d.mrd (keyBank b + 16 * row) 16)

/-- R253. -/
def execBankAccess (b : Fin 64) (a p : Option PortAccess) : State → Host.Outcome State Fault Refusal :=
  liftIf (a.all PortAccess.wf && p.all PortAccess.wf) (fun d => d.bankSlot b.val a p)

/-- WRITE_BACK. -/
def execWriteBack (b : Fin 64) (row : Fin 16384) (intervened : Bool) : State → Host.Outcome State Fault Refusal :=
  lift (fun d => d.rowBack b.val row.val intervened)

/-- R256. -/
def execOrdHoldEnd (b : Fin 64) (ecc : Ecc) : State → Host.Outcome State Fault Refusal := lift (fun d => d.ordHoldEnd b.val ecc)
/-- R266. -/
def execStrikeDecay : State → Host.Outcome State Fault Refusal := lift Dev.strikeDecay
/-- R263. -/
def execScrubRow (b : Fin 64) (ecc : Ecc) : State → Host.Outcome State Fault Refusal := lift (fun d => d.scrubRow b.val ecc)
/-- R264. -/
def execXmcScrub (ecc retry : Ecc) : State → Host.Outcome State Fault Refusal := lift (fun d => d.xmcScrub ecc retry)
/-- R272, R4. -/
def execDdrRefresh : State → Host.Outcome State Fault Refusal := lift Dev.refresh
/-- R269. -/
def execMemDisagree (r : Fin 254) : State → Host.Outcome State Fault Refusal := lift (fun d => d.memDisagree r.val)

end Sys2Proof.Machine
end

