-- ==== Sys2Proof/Machine/SecOps.lean ====
section
/-!
DEFINITION. The security unit (spec/18_security_identity.md): OTP, commands, keys, the cipher queues, the random generator,
measurements, and the boot ROM's verification of the images.
-/
namespace Sys2Proof.Machine

def Dev.setSec (d : Dev) (f : Security → Security) : Dev := { d with sec := f d.sec }

/-- The bytes of words, byte 0 of each in bits [7:0] (R3). -/
def wordBytes (l : List Word) : List Byte := (l.map (fun w => leBytes 4 w.toNat)).flatten

/-- Words from bytes, the other way round. -/
def bytesWords (n : Nat) (l : List Byte) : List Word := (List.range n).map (fun i => w32 (leAt l (4 * i) 4))

/-- OTP words from `i` on, as bytes. -/
def Dev.otpBytes (d : Dev) (i n : Nat) : List Byte := wordBytes ((List.range n).map (fun j => d.otp (i + j)))

/-- A value is ORed into an OTP word (R491, R493); `miss` are bits that fail to program. -/
def Dev.otpOr (d : Dev) (i : Nat) (v miss : Word) : Dev :=
  d.setSec (fun s => { s with otp := tset s.otp i (tget 0 s.otp i ||| (v &&& ~~~ miss)) })

/-- The unique ID as bytes. -/
def Dev.uidBytes (d : Dev) : List Byte := d.otpBytes 77 2

/-- Value of anti-rollback counter `c` (R493). -/
def Dev.roll (d : Dev) (c : Nat) : Nat :=
  popCount (d.otp (256 + 4 * c)) + popCount (d.otp (257 + 4 * c)) + popCount (d.otp (258 + 4 * c)) + popCount (d.otp (259 + 4 * c))

/-- Measurement register `j` (R500). -/
def Dev.measure (d : Dev) (j : Nat) : List Byte := tget (List.replicate 48 0) d.sec.meas j

/-- SHA-384 as bytes, highest first. -/
def sha384b (l : List Byte) : List Byte := beBytes 48 (Config.sha384 l).toNat

/-- An extension of a measurement register (R500). -/
def Dev.extend (d : Dev) (j : Nat) (digest : List Byte) : Dev :=
  d.setSec (fun s => { s with meas := tset s.meas j (sha384b (tget (List.replicate 48 0) s.meas j ++ digest)) })

/-- `n` words of the random generator, and the device with them drawn (R506). -/
def Dev.randoms (d : Dev) (n : Nat) : List Word × Dev :=
  ((List.range n).map (fun i => Config.randomWord (d.freeCtr + i)), { d with freeCtr := d.freeCtr + n })

/-- Words of SEC_BUF as bytes, and words written to it. -/
def Dev.buf (d : Dev) (i n : Nat) : List Byte := wordBytes ((List.range n).map (fun j => d.r (SEC_BUF (i + j))))
def Dev.bufSet (d : Dev) (i : Nat) (l : List Word) : Dev :=
  (List.range l.length).foldl (fun d j => d.w (SEC_BUF (i + j)) (l.getD j 0)) d

/-- A command completes (R494). DESIGN CHOICE, log entry 21. -/
def Dev.secDone (d : Dev) (status : Nat) : Dev :=
  let s := SEC_CMD_STAT
  (d.w s (w32 (status + 65536 * wrapAdd 16 (d.f s 31 16) 1))).ringBit .sec 0

/-- A command of a lifecycle set and a mode set, judged in the order BUSY, BAD_KEY, BAD_STATE, NOT_MODE (R494).
A change of lifecycle or of debug
access shows at the pads (R530). DESIGN CHOICE, log entry 21; DEDUCED, log entry 37. -/
def Dev.secCmd (d : Dev) (who : Initiator) (val : Word) (withHost : Bool) (lc : List Nat) (modes : List Mode)
    (f : Dev → Dev) : Dev :=
  d.access who SEC_CMD (fun d =>
    if withHost && !(isHost who) then d.secDone 1
    else if fld val 15 8 ≠ 0xA5 then d.secDone 9
    else if !(lc.contains d.lifecycle) then d.secDone 2
    else if !(d.modeIn modes) then d.secDone 3
    else (f d).tapView d)

/-- Modes in which the security unit answers at all (R494: any but Holdover). -/
def anyMode : List Mode := [.boot, .provision, .stop, .run, .hold, .spare, .safe]

/-- The generator runs and its tests have not failed (R506). DEDUCED, log entry 37. -/
def Dev.rngUp (d : Dev) : Bool := !d.sec.rngFail && d.b SEC_CTRL 0

/-- PROVISION (R495). A generator that does not run is not healthy. DEDUCED, log entry 37. -/
def Dev.secProvision (d : Dev) : Dev :=
  if (List.range 48).all (fun i => d.otp (4 + i) = 0) then d.secDone 4
  else if !d.rngUp then d.secDone 6
  else
    let (key, d) := d.randoms 12
    let d := (List.range 12).foldl (fun d i => d.otpOr (65 + i) (key.getD i 0) 0) d
    let pub := beBytes 96 (Config.p384Public (d.otpBytes 65 12)).toNat
    let d := d.setSec (fun s => { s with idPub := bytesWords 24 pub })
    (d.otpOr 0 0xFFFFFFFF 0).secDone 0

/-- FIELD (R492, R494): a lifecycle step whose word lacks bits completes with OTP_FAIL. -/
def Dev.secField (d : Dev) (miss : Word) : Dev :=
  let d := d.otpOr 1 0xFFFFFFFF miss
  d.secDone (if d.otp 1 = 0xFFFFFFFF then 0 else 7)

/-- RETIRE (R496). -/
def Dev.secRetire (d : Dev) (miss : Word) : Dev :=
  let d := (List.range 12).foldl (fun d i => d.otpOr (65 + i) 0xFFFFFFFF 0) d
  let d := d.setSec (fun s => { s with dbgUnlocked := false })
  let d := d.otpOr 2 0xFFFFFFFF miss
  d.secDone (if d.otp 2 = 0xFFFFFFFF then 0 else 7)

/-- The identity key has been destroyed (R496). -/
def Dev.keyGone (d : Dev) : Bool := (List.range 12).all (fun i => d.otp (65 + i) = 0xFFFFFFFF)

/-- ATTEST (R501). -/
def Dev.secAttest (d : Dev) : Dev :=
  if d.keyGone then d.secDone 2
  else
    let msg := d.buf 0 8 ++ d.measure 0 ++ d.measure 1 ++ d.measure 2 ++ d.measure 3 ++ d.otpBytes 0 4 ++ d.uidBytes ++
      (List.range 64).map (fun c => BitVec.ofNat 8 (d.roll c))
    let sig := beBytes 96 (Config.p384Sign (d.otpBytes 65 12) (sha384b msg)).toNat
    (d.bufSet 0 (bytesWords 24 sig)).secDone 0

/-- ROLLFWD (R493, R499). A counter that no booted image names has no version above its own value. DEDUCED, log entry 37. -/
def Dev.secRollfwd (d : Dev) : Dev :=
  let c := d.f SEC_CMD_ARG 5 0
  let v := d.f SEC_CMD_ARG 15 8
  if 128 < v then d.secDone 4
  else if v ≤ d.roll c then d.secDone 0
  else if tget 0 d.sec.booted c < v then d.secDone 4
  else
    let d := (List.range 4).foldl (fun d i =>
      d.otpOr (256 + 4 * c + i) (w32 (2 ^ (Nat.min 32 (v - 32 * i)) - 1)) 0) d
    d.secDone 0

/-- OTP words that OTP_PROG may write in the present lifecycle (R491). -/
def Dev.otpMay (d : Dev) (i : Nat) : Bool :=
  let lc := d.lifecycle
  (lc = 0 && ((4 ≤ i && i ≤ 51) || (53 ≤ i && i ≤ 64))) || (lc = 1 && (i = 52 || (192 ≤ i && i ≤ 255))) || (lc = 2 && i = 52)

/-- OTP_PROG (R493). -/
def Dev.secOtpProg (d : Dev) (miss : Word) : Dev :=
  let i := d.f SEC_CMD_ARG 8 0
  let v := d.r (SEC_BUF 0)
  if !(d.otpMay i) then d.secDone 2
  else if !(d.modeIn [.provision, .stop]) then d.secDone 3
  else if i = 52 && fld (d.otp 52 ||| v) 3 0 = 15 then d.secDone 4
  else
    let want := d.otp i ||| v
    let d := d.otpOr i v miss
    d.secDone (if d.otp i = want then 0 else 7)

/-- DBG_CHAL (R507): it draws from the random generator, so it needs a healthy one. DEDUCED, log entry 37. -/
def Dev.secDbgChal (d : Dev) : Dev :=
  if !d.rngUp then d.secDone 6
  else
    let (c, d) := d.randoms 8
    ((d.setSec (fun s => { s with challenge := some c })).bufSet 0 c).secDone 0

/-- DBG_UNLOCK (R507). -/
def Dev.secDbgUnlock (d : Dev) : Dev :=
  let key := d.buf 0 24
  let sig := d.buf 24 24
  let ok := d.sec.dbgFails < 3 && sha384b key == d.otpBytes 53 12 &&
    (match d.sec.challenge with
     | some c => Config.p384Verify key (sha384b (wordBytes c ++ d.uidBytes)) sig
     | none => false)
  let d := d.setSec (fun s => { s with challenge := none, dbgUnlocked := s.dbgUnlocked || ok,
                                       dbgFails := if ok then s.dbgFails else Nat.min 3 (s.dbgFails + 1) })
  d.secDone (if ok then 0 else 5)

/-! ### Keys and cipher queues (R502-R504) -/

/-- SEC_KEY_CMD (R502). -/
def Dev.keyCmd (d : Dev) (slot : Nat) (erase : Bool) : Dev :=
  let l := (List.range 8).map (fun i => tget 0 d.sec.keyWr i)
  d.setSec (fun s => { s with keys := if erase then terase s.keys slot else tset s.keys slot l })

/-- Key words that a job with these words takes at its start; none where a slot is empty. A public key fills two slots (P-256) or
three (P-384) from the one named on. DEDUCED, log entry 37. -/
def Dev.jobKey (d : Dev) (words : List Word) : List Word :=
  let op := fld (words.getD 0 0) 3 0
  let k := if 7 ≤ op then fld (words.getD 4 0) 7 0 else fld (words.getD 0 0) 11 4
  let l := (List.range (if op = 7 then 2 else if op = 8 then 3 else 1)).map (fun i => tget [] d.sec.keys (k + i))
  if l.any (fun x => x.isEmpty) then [] else l.flatten

/-- The oldest job of queue `q` starts where the queues are served: it takes its key (R502). DEDUCED, log entry 37. -/
def Dev.cipherStart (d : Dev) (q : Nat) : Dev :=
  match tget [] d.sec.jobs q with
  | j :: t =>
    if d.b SEC_CTRL 1 && j.key.isNone then
      d.setSec (fun s => { s with jobs := tset s.jobs q ({ j with key := some (d.jobKey j.words) } :: t) })
    else d
  | [] => d

/-- A job has a reserved op or field (R503). -/
def jobBad (words : List Word) : Bool :=
  let w0 := words.getD 0 0
  let op := fld w0 3 0
  op = 0 || 8 < op || bitOf w0 15 || words.getD 7 0 != 0 || (op ≤ 4 && fld w0 11 4 < 128)

/-- The channel whose instruction the engine executes. -/
def Dev.engChan (d : Dev) (e : Nat) : Option Nat := (d.eng e).cur

/-- SEC_CQ_GO (R503). DEDUCED, log entry 37. -/
def Dev.cipherGo (d : Dev) (who : Initiator) (q : Nat) (v : Word) : Dev :=
  let h := d.r (SEC_CQ_CFG q)
  let key := match who with | .engine e => d.engChan e.val | _ => none
  match key, d.chanOf h with
  | some k, some c =>
    if keyChan k ≠ c || !(d.granted c 17) then d.refuseOwner who (SEC_CQ_GO q)
    else if !(bitOf v 0) then d
    else
      let jobs := tget [] d.sec.jobs q
      let words := (List.range 8).map (fun i => d.r (SEC_CQ_JOB q i))
      let a := d.act k
      if a.input.isNone then d
      else if 8 ≤ jobs.length || jobBad words then d.lateInput k
      else
        let j : Job := { words := words, chan := c, st := a.ctx.cinSt, quarter := a.ctx.cinQ,
                         gen := (a.input.map (fun (v : Ev) => v.stamp.gen)).getD 0,
                         key := none, at_ := d.tb.now }
        let d := d.setSec (fun s => { s with jobs := tset s.jobs q (jobs ++ [j]) })
        (d.wf (SEC_CQ_STAT q) 3 0 (jobs.length + 1)).cipherStart q
  | _, _ => d.refuseOwner who (SEC_CQ_GO q)

/-- What a job answers: the bytes written at its destination, and the status of R504. -/
def jobResult (j : Job) (src : List Byte) : List Byte × Nat :=
  let w2 := j.words.getD 2 0
  let n := fld w2 15 0
  let m := fld w2 31 16
  let aad := src.take m
  let text := (src.drop m).take n
  let tail := src.drop (m + n)
  let key := wordBytes (j.key.getD [])
  let iv := wordBytes [j.words.getD 4 0, j.words.getD 5 0, j.words.getD 6 0]
  let op := fld (j.words.getD 0 0) 3 0
  let gcm := (List.range n).map (fun i => Config.gcmByte key iv aad text i)
  if op = 1 then (gcm ++ beBytes 16 (Config.gcmTag key iv aad gcm).toNat, 0)
  else if op = 2 then
    if beBytes 16 (Config.gcmTag key iv aad text).toNat = tail.take 16 then (gcm, 0) else ([], 1)
  else if op = 3 then (beBytes 16 (Config.gcmTag key iv (aad ++ text) []).toNat, 0)
  else if op = 4 then (beBytes 32 (Config.hmac256 key (aad ++ text)).toNat, 0)
  else if op = 5 then (beBytes 32 (Config.sha256 (aad ++ text)).toNat, 0)
  else if op = 6 then (sha384b (aad ++ text), 0)
  else if op = 7 then ([], if Config.p256Verify (key.take 64) (aad ++ text) (tail.take 64) then 0 else 1)
  else ([], if Config.p384Verify (key.take 96) (aad ++ text) (tail.take 96) then 0 else 1)

/-- Bytes that a job reads beyond its AAD and text: the tag or the signature. -/
def jobTail (j : Job) : Nat :=
  let op := fld (j.words.getD 0 0) 3 0
  if op = 2 then 16 else if op = 7 then 64 else if op = 8 then 96 else 0

/-- A cipher job completes (R503, R504). DEDUCED, log entry 37. -/
def Dev.cipherDone (d : Dev) (q : Nat) (ecc : Ecc) : Dev :=
  match tget [] d.sec.jobs q with
  | [] => d
  | j :: t =>
    if j.key.isNone || !(d.b SEC_CTRL 1) then d
    else
      let w0 := j.words.getD 0 0
      let op := fld w0 3 0
      let win := fld w0 14 12
      let base := (d.desc j.chan (16 + 4 * win)).toNat
      let w2 := j.words.getD 2 0
      let n := fld w2 15 0 + fld w2 31 16 + jobTail j
      let src := d.winKey j.chan win (base + (j.words.getD 1 0).toNat) n
      let res : List Byte × Nat :=
        if j.key == some [] && (op ≤ 4 || 7 ≤ op) then ([], 4)
        else match src with
          | none => ([], 2)
          | some k => if ecc = .uncorr || d.keyRetired k then ([], 3) else jobResult j (d.mrd k n)
      let d := match src with | some k => d.readEcc k 5 ecc | none => d
      let dst := d.winKey j.chan win (base + (j.words.getD 3 0).toNat) res.1.length
      let ro := bitOf (d.desc j.chan (17 + 4 * win)) 23
      let status := if res.1 ≠ [] && (dst.isNone || ro) then 2 else res.2
      let d := match dst with
        | some k => if ro then d else d.mwr k res.1
        | none => d
      let d := d.setSec (fun s => { s with jobs := tset s.jobs q t, jobSeq := wrapAdd 16 s.jobSeq 1 })
      let d := (d.wf (SEC_CQ_STAT q) 3 0 t.length).cipherStart q
      let st := j.st + w32 (d.f (SEC_CQ_RES q) 31 8)
      let ev := mkEv 0xA q ⟨st, j.quarter, j.gen⟩ d.sec.jobSeq (w32 (fld w0 31 16 + 65536 * status))
      (d.post j.chan { ev with breach := reached d.tb.st (st + 501) }).ringBit .sec 3

/-! ### The random generator (R506) -/

/-- Words that the generator holds, when what it makes brings them to `held` of at most 64: it makes none while it is stopped, and
none is lost. DEDUCED, log entry 37. -/
def Dev.rngHeld (d : Dev) (held : Nat) : Nat :=
  let have_ := d.f SEC_RNG_STAT 6 0
  if d.rngUp then Nat.max have_ held else have_

/-- A read of SEC_RNG when the generator's work brings it to `held` words. After a failed test it returns 0 and takes no word.
DEDUCED, log entry 37. -/
def Dev.rngRead (d : Dev) (held : Nat) : Word × Dev :=
  let n := d.rngHeld held
  let d := if n = 0 then d.satf SEC_RNG_STAT 31 16 1 else d
  if n = 0 || d.sec.rngFail then (0, d)
  else
    let (l, d) := (d.wf SEC_RNG_STAT 6 0 (n - 1)).randoms 1
    (l.getD 0 0, d)

/-- A health test fails: the generator stops (R506). -/
def Dev.rngBad (d : Dev) : Dev := (d.setSec (fun s => { s with rngFail := true })).ringBit .sec 1

/-- RNG_RESTART: the 1,024 samples of the start-up tests pass, or fail like any health test (R506). -/
def Dev.rngRestart (d : Dev) (healthy : Bool) : Dev :=
  if healthy then (d.setSec (fun s => { s with rngFail := false })).secDone 0 else d.rngBad.secDone 6

/-! ### The boot ROM (R497-R500) -/

/-- The check of an image header (R498): 0 passes, else the code of SEC_STAT.boot_fail. -/
def Dev.imgCheck (d : Dev) (img : List Byte) : Nat :=
  let h := img.take 256
  let ty := (byteAt h 4).toNat
  let key := (byteAt h 5).toNat
  let ctr := (byteAt h 6).toNat
  let pub := (h.drop 24).take 96
  let zero := fun (i n : Nat) => ((h.drop i).take n).all (· == 0)
  let fmt := h.length = 256 && leAt h 0 4 = 0x53574D49 && ty ≤ 2 && key ≤ 3 && (ctr ≤ 63 || ctr = 255) && zero 7 1 &&
    (if ty = 0 then zero 22 2 else zero 20 4) && zero 216 40 && leAt h 12 4 = img.length - 256
  if !fmt then 1
  else if sha384b pub ≠ d.otpBytes (4 + 12 * key) 12 then 2
  else if bitOf (d.otp 52) key then 3
  else if !(Config.p384Verify pub (sha384b (h.take 120 ++ h.drop 216 ++ img.drop 256)) ((h.drop 120).take 96)) then 4
  else if ctr ≠ 255 && leAt h 8 4 < d.roll ctr then 5
  else 0

/-- The first image that fails: its index and the check (R498). -/
def Dev.firstBad (d : Dev) : Nat → List (List Byte) → Option (Nat × Nat)
  | _, [] => none
  | i, img :: t => if d.imgCheck img ≠ 0 then some (i, d.imgCheck img) else d.firstBad (i + 1) t

/-- An accepted image is placed (R497): a pack in the pack store, with the next entry of CUT_PACK, a bank or external image at its
address as far as the memory goes; its counter's lowest version is kept (R499) and M1 extended (R500). -/
def Dev.imgPlace (d : Dev) (img : List Byte) : Dev :=
  let ty := (byteAt img 4).toNat
  let body := img.drop 256
  let adr := leAt img 16 4
  let ver := leAt img 8 4
  let d :=
    if ty = 0 then
      match (List.range 64).find? (fun i => d.f (CUT_PACK i 0) 15 0 = 0) with
      | some i =>
        let d := d.w (CUT_PACK i 0) (w32 (leAt img 20 2 + 65536 * (ver % 65536)))
        let d := { d with cut := { d.cut with packOfs := tset d.cut.packOfs i adr } }
        (d.w (CUT_PACK i 1) (w32 (body.length % 65536))).mwr (keyPack adr) body
      | none => d
    else if ty = 1 then d.mwr (keyBank 0 + adr % 0x1000000) (body.take (0x1000000 - adr % 0x1000000))
    else d.mwr (keyExt + adr) (body.take (d.extBytes - adr))
  let c := (byteAt img 6).toNat
  let d := if c ≤ 63 then
      d.setSec (fun s => { s with booted := tset s.booted c (match tfind s.booted c with | some v => Nat.min v ver | none => ver) })
    else d
  d.extend 1 (sha384b img)

end Sys2Proof.Machine
end

