-- ==== Sys2Proof/Machine/Power.lean ====
section
/-!
DEFINITION. Power, resets, modes and the always-on domain: the meanings of their commands
(spec/02_modes_startup_holdover.md, spec/19_pins_electrical.md), and what the boot ROM leaves.
-/
namespace Sys2Proof.Machine

/-! ### Mode requests (R30, R32, R34, R538) -/

/-- A Cutter placement is pending (R30). -/
def Dev.placementPending (d : Dev) : Bool :=
  (List.range 4).any (fun k => d.b (CUT_CMD_STAT k) 8 && (d.f (CUT_CMD k) 7 0 = 1 || d.f (CUT_CMD k) 7 0 = 2 || d.f (CUT_CMD k) 7 0 = 6)) ||
  d.cut.chans.any (fun p => p.2.st == .migrating || p.2.st == .recovering)

/-- The device is configured as spare (R30). -/
def Dev.spareCfg (d : Dev) : Bool := d.b RED_CTRL 0 && d.b RED_CTRL 1

/-- What a requested transition needs: none for a pair that the table does not list, else its condition. -/
def Dev.reqCond (d : Dev) (target : Nat) : Option Bool :=
  match d.mode, target with
  | .stop, 2 => some (d.lifecycle == 1)
  | .stop, 4 => some (!d.placementPending && (!(d.b SLV_CTRL 0) || d.slv.state == .sync))
  | .run, 3 => some true
  | .run, 5 => some d.debug
  | .hold, 4 => some true
  | .hold, 3 => some true
  | .stop, 6 => some d.spareCfg
  | .run, 6 => some d.spareCfg
  | .stop, 0 => some true
  | .run, 0 => some true
  | .spare, 0 => some true
  | _, _ => none

/-- The mode with a code. -/
def modeOf (n : Nat) : Mode :=
  if n = 0 then .holdover else if n = 1 then .boot else if n = 2 then .provision else if n = 3 then .stop
  else if n = 4 then .run else if n = 5 then .hold else if n = 6 then .spare else .safe

/-- A write of PWR_MODE_REQ (R30, R32). -/
def Dev.modeReq (d : Dev) (who : Initiator) (v : Word) (withHost : Bool) : Dev :=
  let target := fld v 2 0
  if d.pwr.trans ≠ .idle || (withHost && !(isHost who)) then d.reqDone 1
  else if fld v 15 8 ≠ 0xA5 then d.reqDone 6
  else match d.reqCond target with
    | none => d.reqDone 2
    | some false => d.reqDone 3
    | some true =>
      if target = 0 then d.sleepBegin false
      else if d.mode = .run && target = 3 then (d.stopAll).setPwr (fun p => { p with trans := .draining })
      else (d.reqDone 0).enterMode (modeOf target)

/-- RUN_STOP_DRAINED (R538): no channel runs, stops or recovers any more. -/
def Dev.stopDrained (d : Dev) : Dev :=
  if d.pwr.trans = .draining && d.mode = .run && !d.chansBusy then
    ((d.setPwr (fun p => { p with trans := .idle })).reqDone 0).enterMode .stop
  else d

/-! ### Resets and rails -/

/-- The always-on domain runs. -/
def Dev.aonUp (d : Dev) : Bool := !d.pwr.porLow && !d.pwr.supplyLow

/-- A WARM reset source acts on the main domain: not where that is powered down or a POR holds it. During a power-down the
reset is not released, since PWR_EN_MAIN is low, and the entry to Holdover goes on (R50). DEDUCED, log entry 30. -/
def Dev.warmMay (d : Dev) : Bool := d.mode != .holdover && !d.pwr.porLow && !d.pwr.supplyLow

/-- WARM_N is taken low (R519): its source is recorded in every mode and beside a POR (R37); the main domain is reset where
it is powered, and then stays in reset until the pin returns high. -/
def Dev.warmPin (d : Dev) : Dev :=
  if d.pwr.warmLow then d
  else
    let d := (if d.warmMay then d.mainReset else d).setPwr (fun p => { p with warmLow := true })
    if d.aonUp then d.resetCause 1 else d.wb PWR_RESET_CAUSE 1 true

/-- A write of PWR_RESET_CMD: any value but the one it names is refused. -/
def Dev.resetCmd (d : Dev) (who : Initiator) (v : Word) : Dev :=
  if fld v 15 8 = 0xA5 && bitOf v 0 && d.warmMay then d.warmPulse 2 else d.refuse who PWR_RESET_CMD

/-- PG_MAIN falls (R537). DEDUCED, log entry 30. -/
def Dev.pgFall (d : Dev) : Dev :=
  let d := d.setPwr (fun p => { p with pgMain := false })
  if d.pwr.trans = .powerDown || d.mode = .holdover || !d.pwr.mainUp then d
  else
    let d := (d.mainReset).setPwr (fun p => { p with pgHeld := true, release := .pgLost })
    (d.wb PWR_RESET_CAUSE 5 true).logEvent 0x0B 0 0

/-- PG_MAIN rises (R43, R72, R514, R537). -/
def Dev.pgRise (d : Dev) : Dev :=
  let d := d.setPwr (fun p => { p with pgMain := true })
  if d.mode = .holdover then
    if d.pwr.wakeSince.isSome then
      let d := (d.mainReset).resetCause 4
      let d := (d.setPwr (fun p => { p with wakeSince := none, retrySince := none, wakePending := false })).taiFromHoldover
      d.mainRelease (some .holdoverExit)
    else d
  else if d.pwr.pgHeld then (d.taiFromHoldover).mainRelease (some .pgLost)
  else d.mainRelease none

/-- The 50 ms of R43 have passed without PG_MAIN. -/
def Dev.pgTimeout (d : Dev) : Dev :=
  match d.pwr.wakeSince with
  | none => d
  | some t =>
    if d.mode = .holdover && t + 50000000 ≤ d.tb.now && !d.pwr.pgMain then
      ((d.logEvent 0x0B 0 0).powerEn false).setPwr (fun p =>
        { p with wakeSince := none, retrySince := some d.tb.now, wakePending := true })
    else d

/-- One second after a failed wake (R43). -/
def Dev.enRetry (d : Dev) : Dev :=
  match d.pwr.retrySince with
  | none => d
  | some t =>
    if d.mode = .holdover && t + 1000000000 ≤ d.tb.now then
      (d.powerEn true).setPwr (fun p => { p with wakeSince := some d.tb.now, retrySince := none, wakePending := false })
    else d

/-- A core, switch or DDR4 PLL loses lock (R518): the state of R35 until the next POR. PLLs that are not powered have no lock
to lose. -/
def Dev.pllLoss (d : Dev) : Dev :=
  if d.mode = .holdover || !d.aonUp || !d.pwr.pgMain then d
  else (if d.pwr.mainUp then d.mainReset else d).setPwr (fun p => { p with pllLost := true })

/-! ### Wakes and sleep -/

/-- A sample grid of the always-on domain: every `n` ns from the release of the POR (R45). -/
def Dev.onGrid (d : Dev) (n : Nat) : Bool := (d.tb.now - d.pwr.porAt) % n == 0

/-- A sample has seen one value for `seen` samples in a row: the value is debounced when that is more than the debounce
count (R45). -/
def debounced (count seen : Nat) : Bool := decide (count < seen)

/-- A local switch's sample on the 10 µs grid finds the level `v` debounced (R45). A change is logged; the match rules 0 to 2
are about the change, rule 3 about the debounced level itself. DEDUCED, log entry 86. -/
def Dev.lswLevel (d : Dev) (i : Nat) (v : Bool) (seen : Nat) : Dev :=
  if !d.aonUp || !(d.onGrid 10000) || !(debounced (d.f (PWR_LSW_CFG i) 15 0) seen) then d
  else
    let change : Bool := d.pwr.lsw.getLsbD i != v
    let m := BitVec.ofNat 4 (2 ^ i)
    let d := if change then
        (d.setPwr (fun p => { p with lsw := if v then p.lsw ||| m else p.lsw &&& ~~~ m })).logEvent 0x07 i (b2n v)
      else d
    let c := d.f (PWR_LSW_CFG i) 17 16
    let hit := (change && (c = 2 || (c = 0 && v) || (c = 1 && !v))) || (c = 3 && v = d.b (PWR_LSW_CFG i) 18)
    if hit && d.b PWR_WAKE_CTRL i then d.wake i i false else d

/-- What a comparator with threshold and hysteresis in steps of 5 mV makes of `mv` (PWR_CMP_CFG, R58): above, below, or as it
was between the two. DEDUCED, log entry 86. -/
def cmpValue (thr hyst mv : Nat) (was : Bool) : Bool :=
  if mv < 5 * thr then false else if 5 * (thr + hyst) < mv then true else was

/-- A comparator's sample on the 100 ns grid finds its value at `mv` debounced (R45). The log entry holds 1 for below
threshold. DEDUCED, log entry 86. -/
def Dev.cmpLevel (d : Dev) (c mv seen : Nat) : Dev :=
  let cfg := PWR_CMP_CFG c
  if !d.aonUp || !(d.onGrid 100) || !(debounced (d.f cfg 31 16) seen) then d
  else
    let above := cmpValue (d.f cfg 7 0) (d.f cfg 11 8) mv (d.pwr.cmp.getLsbD c)
    let change : Bool := d.pwr.cmp.getLsbD c != above
    let m := BitVec.ofNat 8 (2 ^ c)
    let d := if change then
        (d.setPwr (fun p => { p with cmp := if above then p.cmp ||| m else p.cmp &&& ~~~ m })).logEvent 0x06 c (b2n (!above))
      else d
    let k := d.f cfg 13 12
    let hit := (change && (k = 2 || (k = 0 && above) || (k = 1 && !above))) || (k = 3 && !above)
    if hit && d.b PWR_WAKE_CTRL (4 + c) then d.wake (4 + c) c false else d

/-- The agreement's time has elapsed (R48). -/
def Dev.agreeTimeout (d : Dev) : Dev :=
  match d.pwr.trans with
  | .agreeing _ since _ _ _ _ =>
    if since + 1000 * d.f PWR_SLEEP_CFG 15 0 ≤ d.tb.now then d.agreeOver else d
  | _ => d

/-- HOLDOVER_ENTRY (R40, R50): PG_MAIN is low at the end of power-down. DEDUCED, log entry 30. -/
def Dev.holdoverEnter (d : Dev) : Dev :=
  if d.pwr.trans = .powerDown && !d.pwr.pgMain then
    let own := d.pwr.ownSleep
    let d := d.setPwr (fun p => { p with trans := .idle, ownSleep := false })
    let d := if own then d else d.reqDone 0
    (d.enterMode .holdover).setPwr (fun p => { p with mainUp := false })
  else d

/-! ### Power-fail warning -/

/-- PFW_ASSERT (R52, R57, R451): PFW_SENSE at `mv` has been below the threshold for `seen` samples in a row.
DEDUCED, log entry 86. -/
def Dev.pfwOn (d : Dev) (mv seen : Nat) : Dev :=
  if !d.aonUp || d.pwr.pfw || !(decide (mv < 5 * d.f PWR_PFW_CFG 7 0)) || !(debounced (d.f PWR_PFW_CFG 31 24) seen) then d
  else
    let d := d.setPwr (fun p => { p with pfw := true })
    let d := ((d.wb PWR_PFW_STAT 0 true).wb PWR_PFW_STAT 1 true).logEvent 0x04 0 0
    if !(d.modeIn [.stop, .run, .hold, .spare, .safe]) || d.pwr.trans = .powerDown then d
    else
      let d := d.scanPfw
      if d.agreeing then (if d.pwr.sleepFlushed then d else d.sleepFlush) else d.flushStart false

/-- PFW_RECOVER (R58): PFW_SENSE at `mv` has stayed above threshold plus hysteresis for `ms` milliseconds.
DEDUCED, log entry 86. -/
def Dev.pfwOff (d : Dev) (mv ms : Nat) : Dev :=
  if !d.aonUp || !d.pwr.pfw || !(decide (5 * (d.f PWR_PFW_CFG 7 0 + d.f PWR_PFW_CFG 11 8) < mv)) ||
     !(decide (d.f PWR_PFW_CFG 23 12 ≤ ms)) then d
  else
    let d := d.setPwr (fun p => { p with pfw := false })
    let d := (d.wb PWR_PFW_STAT 1 false).logEvent 0x05 0 0
    if d.warmMay then d.warmPulse 3 else d

/-! ### Boot (R38, R39, R54, R55, R271, R497-R500) -/

/-- The retained area at Boot (R39, R54, R55): kept after a WARM reset, else zeroed and reloaded. -/
def Dev.bootRetained (d : Dev) : Dev :=
  if d.pwr.release = .warm then d
  else
    let d := { d with mem := mclear d.mem keyRet 0x40000 }
    let d := d.setScn (fun s => { s with retValid := false })
    if !(d.b PWR_FLUSH_CFG 0) then d
    else match d.newestSlot with
      | (none, _) => d.wb PWR_FLUSH_STAT 2 true
      | (some (b, s), tie) =>
        let d := { d with mem := mrestore d.mem keyRet 0x40000 (s.img.map (fun (c : Host.Cell) => (c.1 + keyRet, c.2))) }
        let d := (d.wb PWR_FLUSH_STAT 1 b).wb PWR_FLUSH_STAT 3 tie
        (d.wf PWR_FLUSH_STAT 31 16 (s.head.seq.toNat % 65536)).setScn (fun x => { x with retValid := true })

/-- The boot ROM trains external memory, if it takes the configuration (R270): no reserved code, a size that is a multiple of
256 from 256 to 8,192. DEDUCED, log entry 31; DEDUCED, log entry 32. -/
def Dev.xmcBoot (d : Dev) (ddrOk : Bool) : Dev :=
  let v := d.r XMC_CFG
  let n := fld v 29 16
  let ok := ddrOk && fld v 1 0 != 3 && fld v 5 4 != 3 && fld v 7 6 != 3 && n % 256 == 0 && decide (256 ≤ n) && decide (n ≤ 8192)
  { d.wb XMC_STAT 0 ok with memb := { d.memb with extMib := if ok then n else 0 } }

/-- A register word that is a word of an on-chip memory which no reset clears: pattern tables, shuttle programs, templates. The
boot ROM writes zero codewords there (R39, R428). -/
def storeWord (a : Nat) : Bool :=
  (TRD_PAT_TAB 0 0 ≤ a && a < TRD_PAT_TAB 8 0) || (FBR_TMPL 0 ≤ a && a < FBR_TMPL 4096) ||
  (SHT_PROG 0 0 ≤ a && a < SHT_PROG 32 0 && 0x80 ≤ a % 0x400 && a % 0x400 < 0x100)

/-- The boot ROM's work: registers from the header, memories, measurements, images, and the mode that follows.
DEDUCED, log entry 30. -/
def Dev.bootRom (d : Dev) (b : BootFlash) (ddrOk : Bool) : Dev :=
  if d.mode ≠ .boot || !d.pwr.mainUp then d
  else
    let lc := d.lifecycle
    let d := (d.w PWR_FLUSH_CFG (b.flushCfg &&& 0xFFFFF0FF)).w XMC_CFG (b.xmcCfg &&& 0x3FFF00F7)
    let d := { d with mem := d.mem.filter (fun (c : Host.Cell) => keyRet ≤ c.1 && c.1 < keyRet + 0x40000),
                      regs := d.regs.filter (fun (p : Nat × Word) => !(storeWord p.1)) }
    let d := d.xmcBoot ddrOk
    let d := d.bootRetained
    let otp := d.otpBytes 0 65 ++ List.replicate 48 0 ++ d.otpBytes 77 115
    let d := d.setSec (fun s => { s with meas := [], booted := [], bootFail := 0, failImg := 0 })
    let d := d.extend 0 (sha384b otp)
    let imgs := b.images.take 16
    let bad := if lc = 1 || lc = 2 then d.firstBad 0 imgs else none
    let good := if lc = 1 || lc = 2 then (match bad with | some (i, _) => imgs.take i | none => imgs) else []
    let d := good.foldl Dev.imgPlace d
    let d := d.extend 2 (sha384b b.header)
    let d := match bad with
      | some (i, c) => d.setSec (fun s => { s with bootFail := c, failImg := i })
      | none => d
    let pub := if lc = 1 || lc = 2 then bytesWords 24 (beBytes 96 (Config.p384Public (d.otpBytes 65 12)).toNat) else []
    let d := d.setSec (fun s => { s with idPub := pub, dbgUnlocked := lc = 0 })
    let target := if lc = 0 then Mode.provision else if lc = 3 then .safe
      else if bad.isSome then (if lc = 2 then .safe else .provision) else .stop
    (d.enterMode target).modeBell

/-! ### The always-on supply monitor (R516) -/

/-- A rail of the always-on domain, in mV, has been below its limit for 1 us. -/
def aonLow (core io ns : Nat) : Bool := (core < 700 || io < 1550) && 1000 ≤ ns

/-- Both rails have risen above their upper limits. -/
def aonGood (core io : Nat) : Bool := 740 < core && 1620 < io

/-! ### Meanings -/

/-- R35, R519. -/
def execPorAssert : State → Host.Outcome State Fault Refusal :=
  lift (fun d => (d.setPwr (fun p => { p with porLow := true })).porReset)
/-- R512-R514. -/
def execPorRelease (straps : BitVec 6) (pgMain : Bool) : State → Host.Outcome State Fault Refusal :=
  lift (fun d => if d.pwr.porLow then
      (d.setPwr (fun p => { p with porLow := false, straps := straps, pgMain := pgMain })).porReleased
    else d)
/-- R516: VDD_AON at `core` mV or VDDIO_AON at `io` mV has been below its limit for `ns`. -/
def execAonSupplyLow (core io ns : Nat) : State → Host.Outcome State Fault Refusal :=
  lift (fun d => if !(aonLow core io ns) then d else (d.setPwr (fun p => { p with supplyLow := true })).porReset)
/-- R516. -/
def execAonSupplyRecover (core io : Nat) : State → Host.Outcome State Fault Refusal :=
  lift (fun d => if d.pwr.supplyLow && aonGood core io then (d.setPwr (fun p => { p with supplyLow := false })).porReleased else d)
/-- R519: WARM_N has been low for `seen` samples in a row; ten take it. -/
def execWarmPin (seen : Nat) : State → Host.Outcome State Fault Refusal :=
  lift (fun d => if seen < 10 then d else d.warmPin)
/-- R9. -/
def execWarmResetCmd (who : Initiator) (val : Word) : State → Host.Outcome State Fault Refusal :=
  lift (fun d => d.access who PWR_RESET_CMD (fun d => d.resetCmd who val))
/-- R30. -/
def execModeRequest (who : Initiator) (val : Word) (withHost : Bool) : State → Host.Outcome State Fault Refusal :=
  lift (fun d => d.access who PWR_MODE_REQ (fun d => d.modeReq who val withHost))
/-- R538. -/
def execRunStopDrained : State → Host.Outcome State Fault Refusal := lift Dev.stopDrained
/-- R38. -/
def execBootRomComplete (b : BootFlash) (ddrOk : Bool) : State → Host.Outcome State Fault Refusal :=
  lift (fun d => d.bootRom b ddrOk)
/-- R537. -/
def execPgMainFall : State → Host.Outcome State Fault Refusal := lift Dev.pgFall
/-- R537. -/
def execPgMainRise : State → Host.Outcome State Fault Refusal := lift Dev.pgRise
/-- R43. -/
def execPgMainTimeout : State → Host.Outcome State Fault Refusal := lift Dev.pgTimeout
/-- R43. -/
def execPwrEnRetry : State → Host.Outcome State Fault Refusal := lift Dev.enRetry
/-- R44. -/
def execWakePinHigh : State → Host.Outcome State Fault Refusal :=
  lift (fun d => if d.aonUp then d.wake 14 0 false else d)
/-- R45. -/
def execLswDebounced (i : Fin 4) (level : Bool) (seen : Nat) : State → Host.Outcome State Fault Refusal :=
  lift (fun d => d.lswLevel i.val level seen)
/-- R45. -/
def execCmpDebounced (c : Fin 8) (mv seen : Nat) : State → Host.Outcome State Fault Refusal :=
  lift (fun d => d.cmpLevel c.val mv seen)
/-- R48. -/
def execSleepPartyAgree (p : SleepParty) : State → Host.Outcome State Fault Refusal := lift (fun d => d.partyAgree p)
/-- R48. -/
def execSleepAgreeTimeout : State → Host.Outcome State Fault Refusal := lift Dev.agreeTimeout
/-- R50. -/
def execHoldoverEntry : State → Host.Outcome State Fault Refusal := lift Dev.holdoverEnter
/-- R51. -/
def execPendingWakeAct : State → Host.Outcome State Fault Refusal :=
  lift (fun d => if d.pwr.wakePending then d.wakeAct else d)
/-- R52. -/
def execPfwAssert (mv seen : Nat) : State → Host.Outcome State Fault Refusal := lift (fun d => d.pfwOn mv seen)
/-- R53. -/
def execRetainedFlushComplete (ecc : Ecc) : State → Host.Outcome State Fault Refusal :=
  lift (fun d => if d.pwr.flushing.isSome then (d.ownEcc ecc).flushComplete else d)
/-- R58. -/
def execPfwRecover (mv ms : Nat) : State → Host.Outcome State Fault Refusal := lift (fun d => d.pfwOff mv ms)
/-- R518. -/
def execPllLockLoss : State → Host.Outcome State Fault Refusal :=
  lift Dev.pllLoss
/-- R30: WARM_N returns high. -/
def execWarmNRelease : State → Host.Outcome State Fault Refusal :=
  lift (fun d => if d.pwr.warmLow then (d.setPwr (fun p => { p with warmLow := false })).mainRelease none else d)

end Sys2Proof.Machine
end

