-- ==== Sys2Proof/Machine/Zelek.lean ====
section
/-!
DEFINITION. How an engine runs (05_zelek_engines.md): the scheduler, preemption and budgets (R155-R160), exceptions
(R161-R163), and the issue of one instruction with its prefixes (R141, R157, R171, R210-R212). What an instruction itself does
stands in the family files; a meaning is a `ZSem`, which `Dev.zStep` issues on the channel that runs.
-/
namespace Sys2Proof.Machine

/-! ### Deadlines and readiness (R153, R155) -/

/-- The seal deadline of the current input of context `k`. -/
def Dev.sealDl (d : Dev) (k : Nat) : Word := (d.ctx k).cinRel - 64

/-- That deadline has passed. -/
def Dev.deadPast (d : Dev) (k : Nat) : Bool := reached d.tb.st (d.sealDl k)

/-- The context replays a journal (R239): its budget is lifted, and lateness is judged at each seal. One that still waits to be
placed afresh replays nothing. -/
def Dev.replaying (d : Dev) (k : Nat) : Bool := k < 512 && (d.chan k).st == .recovering && (d.act k).st != .faulted

/-- The current input of context `k` is late when its seal deadline has passed (R153). DEDUCED, log entry 46. -/
def Dev.judgeLate (d : Dev) (k : Nat) : Dev :=
  if (d.act k).input.isSome && !(d.replaying k) && d.deadPast k then d.lateInput k else d

/-- A channel is ready (The scheduler): a visible event, an unsealed input or an interrupted activation, and neither parked,
suspended nor faulted. -/
def Dev.ready (d : Dev) (k : Nat) : Bool :=
  let a := d.act k
  (a.st == .waiting || a.st == .ready || a.st == .preempted) && (a.input.isSome || a.open_ || !(d.visibleOf k).isEmpty)

/-- The deadline of a context (R155): of its unsealed input, else of its earliest visible event. -/
def Dev.deadline (d : Dev) (k : Nat) : Option Word :=
  if (d.act k).input.isSome then some (d.sealDl k)
  else (firstEv (d.visibleOf k)).map (fun v => v.stamp.st + d.desc (keyChan k) 3 - 64)

/-- Context `a` has a strictly earlier deadline than `b` (R155, R239). -/
def Dev.earlier (d : Dev) (a b : Nat) : Bool :=
  if d.replaying a != d.replaying b then d.replaying a
  else match d.deadline a, d.deadline b with
    | some x, some y => x != y && stBefore x y
    | some _, none => true
    | none, _ => false

/-- The ready context that the scheduler picks: the earliest deadline, then the lower channel index. -/
def Dev.bestReady (d : Dev) (e : Nat) : Option Nat :=
  ((d.slotKeys e).filter d.ready).foldl (fun b k =>
    match b with
    | none => some k
    | some j => if d.earlier k j || (!(d.earlier j k) && keyChan k < keyChan j) then some k else some j) none

/-! ### Code and preemption points -/

/-- The bytes of code from the program counter on, within the channel's code window (R133, R184). -/
def Dev.zBytes (d : Dev) (k : Nat) : List Byte :=
  let a := d.act k
  if a.ctx.pc < a.codeLen then d.mrd (keyInstr a.eng + a.codeBase + a.ctx.pc) (Nat.min 16 (a.codeLen - a.ctx.pc)) else []

/-- The instruction at the program counter. -/
def Dev.zAt (d : Dev) (k : Nat) : ZDecode := zDecode (d.zBytes k)

/-- Far loads of a context that have not delivered yet. -/
def Dev.loadsOf (d : Dev) (k : Nat) : List FarOp :=
  (d.eng (d.act k).eng).far.filter (fun f => f.key == k && !f.store && f.copy.isNone)

/-- A non-interruptible repeat is in progress (R164, R165). -/
def Dev.nonIntRep (d : Dev) (k : Nat) : Bool :=
  (d.ctx k).repOn && (match d.zAt k with
    | .ok z => (match z.rep with | some r => !r.inter | none => false)
    | _ => false)

/-- The instruction boundary at which the context stands is a preemption point (R156). -/
def Dev.preemptible (d : Dev) (k : Nat) : Bool := !(d.nonIntRep k) && (d.loadsOf k).isEmpty

/-- The engine may go on: enabled, not asked to halt, not retired, and the mode freezes or halts no engine (R131). -/
def Dev.engGo (d : Dev) (e : Nat) : Bool :=
  d.b (ENG_CTRL e) 0 && !(d.b (ENG_CTRL e) 1) && !(d.eng e).retired && !(d.modeIn [.hold, .spare]) && d.pwr.mainUp

/-- A breakpoint matches the program counter of context `k` (R168). DEDUCED, log entry 48. -/
def Dev.bpMatch (d : Dev) (e k : Nat) : Bool :=
  d.debug && d.b (ENG_DBG_CTRL e) 1 && (d.act k).slot == d.f (ENG_DBG_SEL e) 4 0 &&
    (List.range 4).any (fun i => d.b (ENG_DBG_BP e i) 16 && d.f (ENG_DBG_BP e i) 15 0 == (d.ctx k).pc)

/-- The context whose next instruction the engine issues now. -/
def Dev.canIssue (d : Dev) (e : Nat) : Option Nat :=
  match (d.eng e).cur with
  | none => none
  | some k =>
    if !(d.eng e).stopped && !(d.eng e).retired && d.pwr.mainUp && (d.act k).st == .running && (d.engGo e || !(d.preemptible k)) &&
       (d.replaying k || (d.ctx k).budget != 0) && !(d.bpMatch e k) then some k
    else none

/-- The channel leaves the engine's pipeline; its context stays loaded (R158). -/
def Dev.leave (d : Dev) (e k : Nat) (st : SlotState) : Dev :=
  (d.setAct k (fun a => { a with st := st, heldAt := none })).setEng e (fun x => { x with cur := if x.cur = some k then none else x.cur })

/-- The running channel is preempted for a ready channel with a strictly earlier deadline (R155, R156). -/
def Dev.preempt (d : Dev) (e : Nat) : Dev :=
  match (d.eng e).cur, d.bestReady e with
  | some k, some j =>
    if (d.act k).st == .running && d.preemptible k && d.earlier j k then (d.leave e k .preempted).cnt (ENG_PREEMPT e) else d
  | _, _ => d

/-- Busy cycles of an engine. DESIGN CHOICE, log entry 13. -/
def Dev.busyAdd (d : Dev) (e n : Nat) : Dev := d.setEng e (fun x => { x with busy := (x.busy + n) % 2 ^ 64 })

/-- The cycles for which the instruction of context `k` has been held and that have not been charged: of 5 quarter-nanoseconds
each (R144, R159). -/
def Dev.holdCycles (d : Dev) (k : Nat) : Nat :=
  match (d.act k).heldAt with
  | some t => (4 * d.tb.now - t + (d.act k).heldPart) / 5
  | none => 0

/-- The hold of the instruction at the head of engine `e`'s pipeline is charged up to the present tick (R159).
DESIGN CHOICE, log entry 13. -/
def Dev.holdNow (d : Dev) (e : Nat) : Dev :=
  match (d.eng e).cur with
  | none => d
  | some k =>
    match (d.act k).heldAt with
    | none => d
    | some t =>
      let n := d.holdCycles k
      let keep := d.replaying k
      (d.busyAdd e n).setAct k (fun a =>
        { a with heldAt := none, heldPart := (4 * d.tb.now - t + a.heldPart) % 5,
                 ctx := { a.ctx with budget := if keep then a.ctx.budget else a.ctx.budget - n } })

/-- The instruction of context `k` is held from now on. DESIGN CHOICE, log entry 13. -/
def Dev.held (d : Dev) (k : Nat) : Dev := d.setAct k (fun a => { a with heldAt := some (4 * d.tb.now) })

/-! ### Exceptions (R161, R162) -/

/-- Channel `c` is FAULTED (R162): its open epochs end, a CHECKPOINT that waits is not allowed any more, the bell rings.
DEDUCED, log entry 28. -/
def Dev.chanFaulted (d : Dev) (c : Nat) : Dev :=
  let l := (d.chan c).ckptPorts
  let d := d.setChan c (fun ch => { ch with st := .faulted, ckptPorts := [], epochOpen := [] })
  (d.each l (fun d p => d.cmdDone p 5)).ringBit .cut 5

/-- Context `k` on engine `e` takes an exception: the input is late (so a scan cycle whose event it was is an overrun, R447), the registers record it, the slot is faulted, and the
Cutter acts: LOCAL_UNCORR and FAR_UNCORR recover the channel, the others leave it FAULTED. DEDUCED, log entry 28. -/
def Dev.raise (d : Dev) (e k cause : Nat) (addr : Option Nat) : Dev :=
  let c := keyChan k
  let d := d.setCtx k (fun x => { x with delay := [] })
  let d := d.setEng e (fun x => { x with far := x.far.filter (fun f => f.key != k || f.store) })
  let d := d.lateInput k
  let cycle := k < 512 && (d.act k).input.any (fun v => v.src == 8 && v.stamp.st == d.scn.tE)
  let d := if cycle then { d with scn := { d.scn with withheld := true } } else d
  let d := match (d.act k).input with
    | some ev => if d.muted k ev.stamp.st then d else d.freeSlots { ev with chan := c }
    | none => d
  let n := wrapAdd 16 (d.eng e).excSeq 1
  let d := d.setEng e (fun x => { x with excSeq := n })
  let d := (d.w (ENG_EXC e) (w32 (cause + 16 * c + 65536 * n))).w (ENG_EPC e) (w32 (d.ctx k).pc)
  let (v, d) := match addr with
    | some a => (w32 a, d)
    | none => d.free
  let d := (d.w (ENG_EADDR e) v).setBell (.eng e) 1
  let d := (d.leave e k .faulted).setAct k (fun a => { a with open_ := false, input := none, inputLate := false })
  let lost : Bool := cause = 4 || cause = 5
  if 512 ≤ k then
    (match (d.chan c).mig with
     | some m =>
       if !m.switched.isSome then d.endMigration c 13
       else if lost then d.drainLost c d.tb.st
       else ((d.drainEnd c m (fun o => o.isSealed)).leave (d.act c).eng c .faulted).chanFaulted c
     | none => d)
  else if lost then d.recover c d.tb.st
  else (d.endMigration c 13).chanFaulted c

/-! ### The issue of an instruction -/

/-- What a meaning answers: the instruction is held in D; it raises an exception; or it is executed, with the target of a
branch that is taken. -/
inductive ZRes where
  | hold
  | fault (f : ZFault)
  | ok (d : Dev) (target : Option Nat)

/-- The meaning of an instruction: the device with the prefixes applied, the engine, the context key. -/
abbrev ZSem := Dev → Nat → Nat → ZInstr → ZRes

/-- Cycles at issue (R185 and the Cycles columns), without the additions. DESIGN CHOICE, log entry 13. -/
def zCycles (op : Nat) : Nat :=
  if 0x3B ≤ op && op ≤ 0x3D then 2
  else if op = 0xE0 then 4
  else if op = 0xE1 || op = 0xE2 || op = 0xE4 then 2
  else if op = 0x02 || op = 0xA0 || op = 0xA1 || op = 0xA2 then 3
  else 1

/-- The memory key that an instruction reads in X or Y, for the check of its codeword. -/
def Dev.zReadKey (d : Dev) (k : Nat) (z : ZInstr) : Option Nat :=
  let get := fun (r : Sum ZFault ZMem) => match r with | .inr (.local_ key) => some key | _ => none
  if z.op = 0x20 || z.op = 0x21 then get (d.zOperand k z false)
  else if z.op = 0x16 then get (d.zAddr k false (0x10000000 + ((d.ctx k).wr 14).toNat) z.s false)
  else if z.op = 0xB0 || z.op = 0xB1 then get (d.arAccess k 0 ((d.ctx k).arg (z.rb % 4)) 4 false)
  else if z.op = 0xC3 then get (d.arAccess k (z.b3 / 4 % 2) ((d.ctx k).arg (z.b3 % 4 + 4 * (z.b3 / 4 % 2))) 1 false)
  else none

/-- The memory key that an instruction stores to, for the streamer's copy of its block (R235). -/
def Dev.zStoreKey (d : Dev) (k : Nat) (z : ZInstr) : Option Nat :=
  let get := fun (r : Sum ZFault ZMem) => match r with | .inr (.local_ key) => some key | .inr (.far _ key) => some key | _ => none
  if z.op = 0x22 || z.op = 0x23 then get (d.zOperand k z true)
  else if z.op = 0x15 then get (d.zAddr k false (0x10000000 + ((d.ctx k).wr 14 - w32 z.s).toNat) z.s true)
  else if z.op = 0xD0 || z.op = 0xD1 then
    get (d.zAddr k z.far ((d.ctx k).wr (z.m % 16) + BitVec.ofInt 32 z.disp).toNat z.s true)
  else none

/-- The block of 64 bytes of X or Y, or the row of a private window, of context `k` in which a memory key lies (R234). -/
def Dev.ckptBlock (d : Dev) (k key : Nat) : Option Nat :=
  if (d.regions k).any (fun r => r.1 ≤ key && key < r.1 + r.2.2) then
    some (if key < keyBank 0 then key / 64 else 2 ^ 40 + key / 16)
  else none

/-- The hold of a store that meets a block which the streamer has not copied yet, of up to 4 cycles: the first store to a block
after a checkpoint (R235). How long is a free value. DESIGN CHOICE, log entry 27. -/
def Dev.copyHold (d : Dev) (k : Nat) (key : Option Nat) : Nat × Dev :=
  match key.bind (d.ckptBlock k), (d.act k).stored with
  | some b, some l =>
    if l.contains b then (0, d)
    else
      let (v, d) := d.free
      (v.toNat % 5, d.setAct k (fun a => { a with stored := some (b :: l) }))
  | _, _ => (0, d)

/-- The lowest cause of a list (R163). -/
def lowestCause : List ZFault → Option ZFault
  | [] => none
  | f :: t => match lowestCause t with
    | none => some f
    | some g => if g.1 < f.1 then some g else some f

/-- An instruction, or one iteration of a repeat, has executed: budget, busy cycles, load-delay slots, rcnt and the program
counter (R142, R159, R210). DESIGN CHOICE, log entry 13. -/
def Dev.zFinish (d : Dev) (e k : Nat) (z : ZInstr) (cost : Nat) (target : Option Nat) : Dev :=
  let next := ((d.ctx k).pc + z.len) % 2 ^ 32
  let d := d.busyAdd e cost
  if (tfind d.cut.acts k).isNone then d else
  let keep := d.replaying k
  d.setCtx k (fun c =>
    let c := c.age
    let c := { c with budget := if keep then c.budget else c.budget - cost }
    if z.rep.isSome then
      let n := c.rcnt - 1
      { c with rcnt := n, repOn := n != 0, pc := if n = 0 then next else c.pc }
    else { c with pc := target.getD next })

/-- The instruction `z` of context `k` reaches the head of the pipeline (R141, R144, R145, R157, R160, R163, R171, R210-R212).
DEDUCED, log entry 46. -/
def Dev.zRun (d : Dev) (e k : Nat) (m : LocalEcc) (z : ZInstr) (sem : ZSem) : Dev :=
  let c := d.ctx k
  let a := d.act k
  let reads := if c.repOn then z.reads else z.preReads ++ z.reads
  let due := (d.loadsOf k).flatMap (fun f => pairOf (f.size == 8) f.dest)
  if (reads ++ z.writes).any due.contains then d.held k
  else
    let bad := fun (l : List Nat) => l.any c.poison.contains
    let target := match z.at_ with | some r => c.wr r | none => 0
    let early := z.at_.isSome && !a.atGo && !(reached d.tb.st target)
    if early && !(bad z.preReads) then
      (d.leave e k .parked).setAct k (fun a => { a with atTarget := target, open_ := true })
    else
      let first := z.rep.isSome && !c.repOn
      let count := match z.rep with | some r => if r.reg then (c.wr r.arg).toNat else r.arg | none => 0
      let nonInt := match z.rep with | some r => !r.inter | none => false
      let cross := if !c.repOn && 16 < c.pc % 16 + z.len then 1 else 0
      let fix := match m.fetch with | .corrected _ => 1 | _ => 0
      if first && count = 0 then
        if bad z.preReads then d.raise e k 4 none
        else
          let d := d.setCtx k (fun c => { c.age with rcnt := 0, pc := (c.pc + z.len) % 2 ^ 32,
                                                     budget := if d.replaying k then c.budget else c.budget - 1 })
          d.busyAdd e 1
      else
        let t := z.at_.isSome
        let d1 := (d.setAct k (fun a => { a with atGo := false, open_ := true })).setCtx k (fun c =>
          let c := if t then c.setFlag 4 (!a.atGo) else c
          if first then { c with rcnt := w32 count, repOn := true } else c)
        let key := d.zReadKey k z
        let queue := z.op == 0xE0 && (match sem d1 e k z with | .ok _ _ => (firstEv (d.visibleOf k)).isSome | _ => false)
        let own := match sem d1 e k z with | .fault f => [f] | _ => []
        let lim := first && nonInt && d.f (ENG_CFG e) 27 16 < count
        match lowestCause (own ++ (if bad reads then [(4, none)] else []) ++
            (if (key.isSome || queue) && m.data = .uncorr then [(5, none)] else []) ++ (if lim then [(6, none)] else [])) with
        | some f =>
          let d := if first && !lim && !(bad z.preReads) then d.setCtx k (fun c => { c with rcnt := w32 count }) else d
          let d := d.raise e k f.1 f.2
          (match key with
           | some q => if f.1 = 5 then d.readEcc q 4 m.data else d
           | none => if queue && f.1 = 5 then d.queueEcc e m.data else d)
        | none =>
          match sem d1 e k z with
          | .ok d2 target =>
            let soft := match m.data with | .corrected _ => b2n (key.isSome || queue) | _ => 0
            let (copy, d2) := d2.copyHold k (d1.zStoreKey k z)
            let cost := zCycles z.op + cross + fix + soft + copy + (if target.isSome && zCycles z.op = 1 then 2 else 0)
            let d2 := d2.zFinish e k z cost target
            (match key with
             | some q => d2.readEcc q 4 m.data
             | none => if queue then d2.queueEcc e m.data else d2)
          | _ => d.held k

/-- A row of the instruction set: it issues on engine `e` when the instruction at the running channel's program counter is one
of its opcodes; a hold before it is charged. DESIGN CHOICE, log entry 2; DESIGN CHOICE, log entry 12; DEDUCED, log entry 46. -/
def Dev.zStep (s : Dev) (e : Nat) (m : LocalEcc) (ops : Nat → Bool) (sem : ZSem) : Dev :=
  let d := s.holdNow e
  match d.canIssue e with
  | none => s
  | some k =>
    match d.zAt k with
    | .ok z =>
      if ops z.op then
        let key := keyInstr e + (d.act k).codeBase + (d.ctx k).pc
        if m.fetch = .uncorr then (d.raise e k 5 none).readEcc key 4 m.fetch
        else (d.zRun e k m z sem).readEcc key 4 m.fetch
      else s
    | _ => s

/-- The bytes at the program counter are no instruction: ILLEGAL, ADDR or LOCAL_UNCORR (R134, R183, R184).
DESIGN CHOICE, log entry 12. -/
def Dev.zIllegal (d : Dev) (e : Nat) (m : LocalEcc) : Dev :=
  match d.canIssue e with
  | none => d
  | some k =>
    let pc := (d.ctx k).pc
    let key := keyInstr e + (d.act k).codeBase + pc
    match d.zAt k with
    | .ok _ => d
    | .illegal o =>
      if m.fetch = .uncorr then (d.raise e k 5 none).readEcc key 4 m.fetch
      else (d.raise e k 1 (some (pc + o))).readEcc key 4 m.fetch
    | .outside =>
      if m.fetch = .uncorr && !(d.zBytes k).isEmpty then (d.raise e k 5 none).readEcc key 4 m.fetch
      else d.raise e k 2 (some pc)

/-! ### Rows of the scheduler -/

/-- The frame of context `k` in the context store is saved or restored (R158): an uncorrectable error raises LOCAL_UNCORR for
the channel that owns the frame (R163). -/
def Dev.frameEcc (d : Dev) (e k : Nat) (ecc : Ecc) : Dev :=
  let key := 192 * (d.act k).slot
  (if ecc = .uncorr then d.raise e k 5 none else d).ecc e 4 key ecc

/-- The scheduler dispatches (R155, R158): the ready channel with the earliest deadline takes the engine; `save` and `restore`
are what the outgoing and the incoming frame's codewords show. -/
def Dev.dispatch (d : Dev) (e : Nat) (save restore : Ecc) : Dev :=
  if !(d.engGo e) || (d.eng e).stopped then d
  else
    let d := d.preempt e
    match (d.eng e).cur, d.bestReady e with
    | none, some k =>
      let was := (d.eng e).loaded
      let d := d.busyAdd e (if was = some k then 4 else if was.isSome then 52 else 28)
      let d := d.setEng e (fun x => { x with cur := some k, loaded := some k })
      let d := d.setAct k (fun a => { a with st := .running, open_ := true })
      if was = some k then d
      else
        let d := match was with
          | some j => d.frameEcc e j save
          | none => d
        d.frameEcc e k restore
    | _, _ => d

/-- Events of engine `e` reach their visibility time (R148); the running channel may be preempted (R156). -/
def Dev.eventVisible (d : Dev) (e : Nat) : Dev :=
  let d := d.each ((d.slotKeys e).filter (fun k => k < 512)) (fun d c => d.ckptSettled c)
  let d := d.setEng e (fun x => { x with evq := x.evq.map (fun (v : Ev) =>
    { v with visible := v.visible || reached d.tb.st (d.visAt v) }) })
  if d.engGo e && !(d.eng e).stopped then d.preempt e else d

/-- The running channel's budget is spent, and it is suspended (R159, R165). -/
def Dev.budgetOut (s : Dev) (e : Nat) : Dev :=
  let d := s.holdNow e
  match (d.eng e).cur with
  | none => s
  | some k =>
    if (d.act k).st == .running && (d.ctx k).budget = 0 && !(d.replaying k) && (d.loadsOf k).isEmpty then
      ((d.leave e k .suspended).cnt (ENG_BUDGET_OVR e)).setBell (.eng e) 4
    else s

/-- A parked channel whose target is reached is ready (R160). -/
def Dev.atReached (d : Dev) (k : Nat) : Dev :=
  if (d.act k).st == .parked && reached d.tb.st (d.act k).atTarget then
    d.setAct k (fun a => { a with st := .preempted, atGo := true })
  else d

/-- The engine reaches its preemption point while it is to stop: OFF, HALTED or FROZEN (R131, R166). -/
def Dev.stopPoint (d : Dev) (e : Nat) : Dev :=
  let clear := match (d.eng e).cur with | some k => d.preemptible k | none => true
  if (d.eng e).stopped || (d.eng e).retired || !d.pwr.mainUp || d.engGo e || !clear then d
  else
    let d := d.setEng e (fun x => { x with stopped := true })
    if d.b (ENG_CTRL e) 0 then d.setBell (.eng e) 128 else d

/-- R155. -/
def execDispatch (e : Fin 96) (save restore : Ecc) : State → Host.Outcome State Fault Refusal :=
  lift (fun d => d.dispatch e.val save restore)
/-- R148. -/
def execEventVisible (e : Fin 96) : State → Host.Outcome State Fault Refusal := lift (fun d => d.eventVisible e.val)
/-- R159. -/
def execBudgetExhausted (e : Fin 96) : State → Host.Outcome State Fault Refusal := lift (fun d => d.budgetOut e.val)
/-- R160. -/
def execAtTargetReached (c : Fin 512) : State → Host.Outcome State Fault Refusal :=
  lift (fun d => (d.atReached c.val).atReached (512 + c.val))
/-- R153. -/
def execSealDeadline (c : Fin 512) : State → Host.Outcome State Fault Refusal :=
  lift (fun d => (d.judgeLate c.val).judgeLate (512 + c.val))
/-- R166. -/
def execEngineStopPoint (e : Fin 96) : State → Host.Outcome State Fault Refusal := lift (fun d => d.stopPoint e.val)
/-- R183. -/
def execIllegalInstruction (e : Fin 96) (m : LocalEcc) : State → Host.Outcome State Fault Refusal :=
  lift (fun d => d.zIllegal e.val m)

/-- EVENT_POST: an event handed to a channel arrives in its engine's queue (R146-R149, R236). -/
def execEventPost (ev : EventIn) : State → Host.Outcome State Fault Refusal :=
  lift (fun d => d.post ev.chan.val
    (mkEv ev.src.val ev.unit.toNat ⟨ev.st, ev.quarter.val, ev.gen.val⟩ ev.seq.toNat ev.payload))

end Sys2Proof.Machine
end

