-- ==== Sys2Proof/Machine/ZelekArith.lean ====
section
/-!
DEFINITION. The Zelek instructions that only compute: moves, arithmetic and logic, shifts and bit fields, the accumulators and
the CRC steps (07_zelek_instructions.md).
-/
namespace Sys2Proof.Machine

/-- A meaning that changes the context's registers and flags alone. -/
def zPure (f : ZInstr → Ctx → Ctx) : ZSem := fun d _ k z => .ok (d.setCtx k (f z)) none

/-! ### Moves (R186, R190) -/

def semNop : ZSem := zPure (fun _ c => c)

def semMov : ZSem := zPure (fun z c =>
  c.setOpnd z.wide z.hi (if z.op = 0x10 then c.opnd z.wide z.lo else if z.op = 0x11 then tc z.n (sx 8 z.imm) else z.imm))

def semWra : ZSem := zPure (fun z c => c.setAr z.lo (c.wr z.hi).toNat)

def semRda : ZSem := zPure (fun z c => c.setW z.hi (w32 (c.arg z.lo)))

def semLda : ZSem := zPure (fun z c => c.setW z.hi (c.wr (z.m % 16) + BitVec.ofInt 32 z.disp))

/-! ### Arithmetic and logic (R191) -/

/-- The second operand of rows 3, 4 and 5: a register, or an immediate sign-extended to the operand size (R179). -/
def ZInstr.src2 (z : ZInstr) (c : Ctx) : Nat :=
  if z.op < 0x40 then c.opnd z.wide z.lo else if z.op < 0x50 then tc z.n (sx 8 z.imm) else tc z.n (sx 32 z.imm)

/-- The operation of a column of row 3 in rows 3, 4 and 5. -/
def rows345 (op col : Nat) : Bool := op == 0x30 + col || op == 0x40 + col || op == 0x50 + col

/-- Result, C and V of an addition or subtraction, written to rd unless `test`. -/
def zArith (test : Bool) (f : ZInstr → Ctx → Nat → Nat → Nat × Bool × Bool) : ZSem := zPure (fun z c =>
  let r := f z c (c.opnd z.wide z.hi) (z.src2 c)
  let c := (c.zn z.n r.1).cv r.2.1 r.2.2
  if test then c else c.setOpnd z.wide z.hi r.1)

/-- Result of an operation that sets Z and N alone. -/
def zLogic (test : Bool) (f : ZInstr → Nat → Nat → Nat) : ZSem := zPure (fun z c =>
  let r := f z (c.opnd z.wide z.hi) (z.src2 c)
  let c := c.zn z.n r
  if test then c else c.setOpnd z.wide z.hi r)

def semAdd : ZSem := zArith false (fun z _ a b => addRes z.n a b 0)
def semSub : ZSem := zArith false (fun z _ a b => subRes z.n a b 0)
def semAdc : ZSem := zArith false (fun z c a b => addRes z.n a b (b2n (c.flag 2)))
def semSbc : ZSem := zArith false (fun z c a b => subRes z.n a b (1 - b2n (c.flag 2)))
def semCmp : ZSem := zArith true (fun z _ a b => subRes z.n a b 0)
def semNeg : ZSem := zArith false (fun z _ _ b => subRes z.n 0 b 0)
def semAnd : ZSem := zLogic false (fun _ a b => a &&& b)
def semOr : ZSem := zLogic false (fun _ a b => a ||| b)
def semXor : ZSem := zLogic false (fun _ a b => a ^^^ b)
def semTst : ZSem := zLogic true (fun _ a b => a &&& b)
def semNot : ZSem := zLogic false (fun z _ b => 2 ^ z.n - 1 - b)
def semMul : ZSem := zLogic false (fun _ a b => a * b % 2 ^ 32)
def semMulh : ZSem := zLogic false (fun _ a b => tc 32 (sx 32 a * sx 32 b / 2 ^ 32))
def semMulhu : ZSem := zLogic false (fun _ a b => a * b / 2 ^ 32)
def semMin : ZSem := zLogic false (fun z a b => minRes z.n a b)
def semMax : ZSem := zLogic false (fun z a b => maxRes z.n a b)

/-! ### Shifts, counts and bit fields (R192, R193) -/

/-- The count of a shift: a register's low byte, or the immediate. -/
def zShift (k : ShiftKind) : ZSem := zPure (fun z c =>
  let n := if z.op < 0x68 then (c.wr z.lo).toNat % 256 else z.imm
  match shiftRes k z.n (c.opnd z.wide z.hi) n with
  | none => c
  | some (r, carry) => ((c.zn z.n r).setFlag 2 carry).setOpnd z.wide z.hi r)

def semShl : ZSem := zShift .shl
def semShr : ZSem := zShift .shr
def semSar : ZSem := zShift .sar
def semRol : ZSem := zShift .rol
def semRor : ZSem := zShift .ror

def semClz : ZSem := zPure (fun z c =>
  let r := clzRes (c.wr z.lo).toNat
  (c.setFlag 0 (r == 0)).setW z.hi (w32 r))

def semPopc : ZSem := zPure (fun z c =>
  let r := popcRes (c.wr z.lo).toNat
  (c.setFlag 0 (r == 0)).setW z.hi (w32 r))

def semBswap : ZSem := zPure (fun z c =>
  let r := bswapRes (c.wr z.lo).toNat
  (c.zn 32 r).setW z.hi (w32 r))

/-- Position and width of the field halfword (R179). -/
def ZInstr.pos (z : ZInstr) : Nat := z.imm % 64
def ZInstr.width (z : ZInstr) : Nat := z.imm / 64 % 128

/-- A field instruction: a width of zero leaves rd and every flag (R193). `f` has the old rd and rs. -/
def zField (f : ZInstr → Nat → Nat → Nat) : ZSem := zPure (fun z c =>
  if z.width = 0 then c
  else
    let r := f z (c.opnd z.wide z.hi) (c.opnd z.wide z.lo)
    (c.zn z.n r).setOpnd z.wide z.hi r)

/-- `v` with the field replaced by the low bits of `x`. -/
def ZInstr.insert (z : ZInstr) (v x : Nat) : Nat :=
  v % 2 ^ z.pos + x % 2 ^ z.width * 2 ^ z.pos + v / 2 ^ (z.pos + z.width) * 2 ^ (z.pos + z.width)

def semBfx : ZSem := zField (fun z _ b => b / 2 ^ z.pos % 2 ^ z.width)
def semBfxs : ZSem := zField (fun z _ b => tc z.n (sx z.width (b / 2 ^ z.pos)))
def semBfi : ZSem := zField (fun z a b => z.insert a b)
def semBfc : ZSem := zField (fun z a _ => z.insert a 0)
def semBfs : ZSem := zField (fun z a _ => z.insert a (2 ^ z.width - 1))

/-- Z := NOT rd[b], then rd with the bit as `f` leaves it. -/
def zBit (f : ZInstr → Nat → Option Nat) : ZSem := zPure (fun z c =>
  let v := c.opnd z.wide z.hi
  let c := c.setFlag 0 (!(v.testBit z.imm))
  match f z v with
  | some r => c.setOpnd z.wide z.hi r
  | none => c)

def semBtst : ZSem := zBit (fun _ _ => none)
def semBset : ZSem := zBit (fun z v => some (v ||| 2 ^ z.imm))
def semBclr : ZSem := zBit (fun z v => some (if v.testBit z.imm then v - 2 ^ z.imm else v))

/-! ### Accumulators (R195, R196) -/

/-- mac and msu: the two fetches, checked as R195 and R138 say, then the product and the post-modifies. -/
def zMac (sub : Bool) : ZSem := fun d _ k z =>
  let c := d.ctx k
  let xk := z.rb % 4
  let yk := 4 + z.rb / 4 % 4
  let j := z.rb / 16 % 2
  match d.arAccess k 0 (c.arg xk) 4 false, d.arAccess k 1 (c.arg yk) 2 false with
  | .inl f, .inl g => .fault (if g.1 < f.1 then g else f)
  | .inl f, .inr _ => .fault f
  | .inr _, .inl g => .fault g
  | .inr (.local_ kx), .inr (.local_ ky) =>
    let p := sx 32 (leVal (d.mrd kx 4)) * sx 16 (leVal (d.mrd ky 2))
    .ok (d.setCtx k (fun c =>
      let a := c.acc j
      let c := c.setAcc j (if sub then a - BitVec.ofInt 72 p else a + BitVec.ofInt 72 p)
      (c.post xk (sx 4 (z.b3 % 16) * 4)).post yk (sx 4 (z.b3 / 16) * 2))) none
  | _, _ => .hold

def semMac : ZSem := zMac false
def semMsu : ZSem := zMac true

/-- s32(rs) × s16(rt[15:0]). -/
def ZInstr.prod (z : ZInstr) (c : Ctx) : BitVec 72 :=
  BitVec.ofInt 72 (sx 32 (c.wr z.hi).toNat * sx 16 (c.wr z.lo).toNat)

def semMacR : ZSem := zPure (fun z c => c.setAcc (z.b3 % 2) (c.acc (z.b3 % 2) + z.prod c))
def semMsuR : ZSem := zPure (fun z c => c.setAcc (z.b3 % 2) (c.acc (z.b3 % 2) - z.prod c))
def semClra : ZSem := zPure (fun z c => c.setAcc (z.rb % 2) 0)
def semAshr : ZSem := zPure (fun z c => c.setAcc (z.rb % 2) ((c.acc (z.rb % 2)).sshiftRight (z.rb / 8)))

def semMvfa : ZSem := zPure (fun z c =>
  let (r, v) := accPart (c.acc (z.b3 % 2)) (z.b3 / 2 % 4)
  let c := match v with | some b => c.setFlag 3 b | none => c
  c.setW z.hi (w32 r))

def semMvta : ZSem := zPure (fun z c => c.setAcc (z.b3 % 2) (BitVec.ofInt 72 (sx 32 (c.wr z.lo).toNat)))

/-! ### CRC (R197) -/

/-- rd stepped over the low `bits` of rs with the polynomial rp. -/
def zCrc (bits : Nat) : ZSem := zPure (fun z c =>
  let r := crcStep (c.wr (z.b3 % 16)) bits (c.wr z.lo).toNat (c.wr z.hi)
  (c.setFlag 0 (r == 0)).setW z.hi r)

def semCrcB : ZSem := zCrc 8
def semCrcH : ZSem := zCrc 16
def semCrcW : ZSem := zCrc 32

def semCrcM : ZSem := fun d _ k z =>
  let mem := z.b3 / 4 % 2
  let i := z.b3 % 4 + 4 * mem
  match d.arAccess k mem ((d.ctx k).arg i) 1 false with
  | .inl f => .fault f
  | .inr (.local_ key) =>
    let b := leVal (d.mrd key 1)
    .ok (d.setCtx k (fun c =>
      let r := crcStep (c.wr z.lo) 8 b (c.wr z.hi)
      ((c.setFlag 0 (r == 0)).setW z.hi r).post i 1)) none
  | .inr _ => .hold

/-! ### Rows -/

/-- R186. -/
def execNop (e : Fin 96) (m : LocalEcc) : State → Host.Outcome State Fault Refusal :=
  lift (fun d => d.zStep e.val m (fun op => op == 0x01) semNop)
/-- R186. -/
def execMov (e : Fin 96) (m : LocalEcc) : State → Host.Outcome State Fault Refusal :=
  lift (fun d => d.zStep e.val m (fun op => 0x10 ≤ op && op ≤ 0x12) semMov)
/-- R190. -/
def execWra (e : Fin 96) (m : LocalEcc) : State → Host.Outcome State Fault Refusal :=
  lift (fun d => d.zStep e.val m (fun op => op == 0x13) semWra)
/-- R190. -/
def execRda (e : Fin 96) (m : LocalEcc) : State → Host.Outcome State Fault Refusal :=
  lift (fun d => d.zStep e.val m (fun op => op == 0x14) semRda)
/-- R190. -/
def execLda (e : Fin 96) (m : LocalEcc) : State → Host.Outcome State Fault Refusal :=
  lift (fun d => d.zStep e.val m (fun op => op == 0x24) semLda)
/-- R191. -/
def execAdd (e : Fin 96) (m : LocalEcc) : State → Host.Outcome State Fault Refusal :=
  lift (fun d => d.zStep e.val m (fun op => rows345 op 0) semAdd)
/-- R191. -/
def execSub (e : Fin 96) (m : LocalEcc) : State → Host.Outcome State Fault Refusal :=
  lift (fun d => d.zStep e.val m (fun op => rows345 op 1) semSub)
/-- R191. -/
def execAdc (e : Fin 96) (m : LocalEcc) : State → Host.Outcome State Fault Refusal :=
  lift (fun d => d.zStep e.val m (fun op => rows345 op 2) semAdc)
/-- R191. -/
def execSbc (e : Fin 96) (m : LocalEcc) : State → Host.Outcome State Fault Refusal :=
  lift (fun d => d.zStep e.val m (fun op => rows345 op 3) semSbc)
/-- R191. -/
def execAnd (e : Fin 96) (m : LocalEcc) : State → Host.Outcome State Fault Refusal :=
  lift (fun d => d.zStep e.val m (fun op => rows345 op 4) semAnd)
/-- R191. -/
def execOr (e : Fin 96) (m : LocalEcc) : State → Host.Outcome State Fault Refusal :=
  lift (fun d => d.zStep e.val m (fun op => rows345 op 5) semOr)
/-- R191. -/
def execXor (e : Fin 96) (m : LocalEcc) : State → Host.Outcome State Fault Refusal :=
  lift (fun d => d.zStep e.val m (fun op => rows345 op 6) semXor)
/-- R191. -/
def execCmp (e : Fin 96) (m : LocalEcc) : State → Host.Outcome State Fault Refusal :=
  lift (fun d => d.zStep e.val m (fun op => rows345 op 7) semCmp)
/-- R191. -/
def execTst (e : Fin 96) (m : LocalEcc) : State → Host.Outcome State Fault Refusal :=
  lift (fun d => d.zStep e.val m (fun op => rows345 op 8) semTst)
/-- R191. -/
def execNeg (e : Fin 96) (m : LocalEcc) : State → Host.Outcome State Fault Refusal :=
  lift (fun d => d.zStep e.val m (fun op => op == 0x39) semNeg)
/-- R191. -/
def execNot (e : Fin 96) (m : LocalEcc) : State → Host.Outcome State Fault Refusal :=
  lift (fun d => d.zStep e.val m (fun op => op == 0x3A) semNot)
/-- R191. -/
def execMul (e : Fin 96) (m : LocalEcc) : State → Host.Outcome State Fault Refusal :=
  lift (fun d => d.zStep e.val m (fun op => op == 0x3B) semMul)
/-- R191. -/
def execMulh (e : Fin 96) (m : LocalEcc) : State → Host.Outcome State Fault Refusal :=
  lift (fun d => d.zStep e.val m (fun op => op == 0x3C) semMulh)
/-- R191. -/
def execMulhu (e : Fin 96) (m : LocalEcc) : State → Host.Outcome State Fault Refusal :=
  lift (fun d => d.zStep e.val m (fun op => op == 0x3D) semMulhu)
/-- R191. -/
def execMin (e : Fin 96) (m : LocalEcc) : State → Host.Outcome State Fault Refusal :=
  lift (fun d => d.zStep e.val m (fun op => op == 0x3E) semMin)
/-- R191. -/
def execMax (e : Fin 96) (m : LocalEcc) : State → Host.Outcome State Fault Refusal :=
  lift (fun d => d.zStep e.val m (fun op => op == 0x3F) semMax)
/-- R192. -/
def execShl (e : Fin 96) (m : LocalEcc) : State → Host.Outcome State Fault Refusal :=
  lift (fun d => d.zStep e.val m (fun op => op == 0x60 || op == 0x68) semShl)
/-- R192. -/
def execShr (e : Fin 96) (m : LocalEcc) : State → Host.Outcome State Fault Refusal :=
  lift (fun d => d.zStep e.val m (fun op => op == 0x61 || op == 0x69) semShr)
/-- R192. -/
def execSar (e : Fin 96) (m : LocalEcc) : State → Host.Outcome State Fault Refusal :=
  lift (fun d => d.zStep e.val m (fun op => op == 0x62 || op == 0x6A) semSar)
/-- R192. -/
def execRol (e : Fin 96) (m : LocalEcc) : State → Host.Outcome State Fault Refusal :=
  lift (fun d => d.zStep e.val m (fun op => op == 0x63 || op == 0x6B) semRol)
/-- R192. -/
def execRor (e : Fin 96) (m : LocalEcc) : State → Host.Outcome State Fault Refusal :=
  lift (fun d => d.zStep e.val m (fun op => op == 0x64 || op == 0x6C) semRor)
/-- R186. -/
def execClz (e : Fin 96) (m : LocalEcc) : State → Host.Outcome State Fault Refusal :=
  lift (fun d => d.zStep e.val m (fun op => op == 0x65) semClz)
/-- R186. -/
def execPopc (e : Fin 96) (m : LocalEcc) : State → Host.Outcome State Fault Refusal :=
  lift (fun d => d.zStep e.val m (fun op => op == 0x66) semPopc)
/-- R186. -/
def execBswap (e : Fin 96) (m : LocalEcc) : State → Host.Outcome State Fault Refusal :=
  lift (fun d => d.zStep e.val m (fun op => op == 0x67) semBswap)
/-- R193. -/
def execBfx (e : Fin 96) (m : LocalEcc) : State → Host.Outcome State Fault Refusal :=
  lift (fun d => d.zStep e.val m (fun op => op == 0x70) semBfx)
/-- R193. -/
def execBfxs (e : Fin 96) (m : LocalEcc) : State → Host.Outcome State Fault Refusal :=
  lift (fun d => d.zStep e.val m (fun op => op == 0x71) semBfxs)
/-- R193. -/
def execBfi (e : Fin 96) (m : LocalEcc) : State → Host.Outcome State Fault Refusal :=
  lift (fun d => d.zStep e.val m (fun op => op == 0x72) semBfi)
/-- R193. -/
def execBfc (e : Fin 96) (m : LocalEcc) : State → Host.Outcome State Fault Refusal :=
  lift (fun d => d.zStep e.val m (fun op => op == 0x73) semBfc)
/-- R193. -/
def execBfs (e : Fin 96) (m : LocalEcc) : State → Host.Outcome State Fault Refusal :=
  lift (fun d => d.zStep e.val m (fun op => op == 0x74) semBfs)
/-- R186. -/
def execBtst (e : Fin 96) (m : LocalEcc) : State → Host.Outcome State Fault Refusal :=
  lift (fun d => d.zStep e.val m (fun op => op == 0x75) semBtst)
/-- R186. -/
def execBset (e : Fin 96) (m : LocalEcc) : State → Host.Outcome State Fault Refusal :=
  lift (fun d => d.zStep e.val m (fun op => op == 0x76) semBset)
/-- R186. -/
def execBclr (e : Fin 96) (m : LocalEcc) : State → Host.Outcome State Fault Refusal :=
  lift (fun d => d.zStep e.val m (fun op => op == 0x77) semBclr)
/-- R195. -/
def execMac (e : Fin 96) (m : LocalEcc) : State → Host.Outcome State Fault Refusal :=
  lift (fun d => d.zStep e.val m (fun op => op == 0xB0) semMac)
/-- R195. -/
def execMsu (e : Fin 96) (m : LocalEcc) : State → Host.Outcome State Fault Refusal :=
  lift (fun d => d.zStep e.val m (fun op => op == 0xB1) semMsu)
/-- R195. -/
def execMacR (e : Fin 96) (m : LocalEcc) : State → Host.Outcome State Fault Refusal :=
  lift (fun d => d.zStep e.val m (fun op => op == 0xB2) semMacR)
/-- R195. -/
def execMsuR (e : Fin 96) (m : LocalEcc) : State → Host.Outcome State Fault Refusal :=
  lift (fun d => d.zStep e.val m (fun op => op == 0xB3) semMsuR)
/-- R175. -/
def execClra (e : Fin 96) (m : LocalEcc) : State → Host.Outcome State Fault Refusal :=
  lift (fun d => d.zStep e.val m (fun op => op == 0xB4) semClra)
/-- R196. -/
def execAshr (e : Fin 96) (m : LocalEcc) : State → Host.Outcome State Fault Refusal :=
  lift (fun d => d.zStep e.val m (fun op => op == 0xB5) semAshr)
/-- R196. -/
def execMvfa (e : Fin 96) (m : LocalEcc) : State → Host.Outcome State Fault Refusal :=
  lift (fun d => d.zStep e.val m (fun op => op == 0xB6) semMvfa)
/-- R186. -/
def execMvta (e : Fin 96) (m : LocalEcc) : State → Host.Outcome State Fault Refusal :=
  lift (fun d => d.zStep e.val m (fun op => op == 0xB7) semMvta)
/-- R197. -/
def execCrcB (e : Fin 96) (m : LocalEcc) : State → Host.Outcome State Fault Refusal :=
  lift (fun d => d.zStep e.val m (fun op => op == 0xC0) semCrcB)
/-- R197. -/
def execCrcH (e : Fin 96) (m : LocalEcc) : State → Host.Outcome State Fault Refusal :=
  lift (fun d => d.zStep e.val m (fun op => op == 0xC1) semCrcH)
/-- R197. -/
def execCrcW (e : Fin 96) (m : LocalEcc) : State → Host.Outcome State Fault Refusal :=
  lift (fun d => d.zStep e.val m (fun op => op == 0xC2) semCrcW)
/-- R197. -/
def execCrcM (e : Fin 96) (m : LocalEcc) : State → Host.Outcome State Fault Refusal :=
  lift (fun d => d.zStep e.val m (fun op => op == 0xC3) semCrcM)

end Sys2Proof.Machine
end

