-- ==== Sys2Proof/Machine/ZelekCtl.lean ====
section
/-!
DEFINITION. The Zelek instructions that branch, reach memory, take events and give outputs (07_zelek_instructions.md, R133-R145,
R151-R153, R187-R209), and the debugger's access to a frozen engine (R166-R168).
-/
namespace Sys2Proof.Machine

/-! ### Branch and call (R180, R194) -/

/-- The address after the instruction (R170). -/
def Dev.zNext (d : Dev) (k : Nat) (z : ZInstr) : Nat := ((d.ctx k).pc + z.len) % 2 ^ 32

/-- A branch by the instruction's displacement, taken when `b`. -/
def zBranch (d : Dev) (k : Nat) (z : ZInstr) (b : Bool) : ZRes :=
  .ok d (if b then some (tc 32 ((d.zNext k z : Int) + z.disp)) else none)

def semBCond : ZSem := fun d _ k z => zBranch d k z ((d.ctx k).cond (z.op % 16))
def semBLate : ZSem := fun d _ k z => zBranch d k z ((d.ctx k).flag 5)
def semBOntime : ZSem := fun d _ k z => zBranch d k z (!((d.ctx k).flag 5))
def semBTc : ZSem := fun d _ k z => zBranch d k z (!((d.ctx k).flag 4))

def semCall : ZSem := fun d _ k z =>
  zBranch (d.setCtx k (fun c => c.setW 15 (w32 (d.zNext k z)))) k z true

def semCallR : ZSem := fun d _ k z =>
  .ok (d.setCtx k (fun c => c.setW 15 (w32 (d.zNext k z)))) (some ((d.ctx k).wr z.lo).toNat)

def semJmpR : ZSem := fun d _ k z => .ok d (some ((d.ctx k).wr z.lo).toNat)

def semRet : ZSem := fun d _ k _ => .ok d (some ((d.ctx k).wr 15).toNat)

def semDbnz : ZSem := fun d _ k z =>
  let v := (d.ctx k).wr z.hi - 1
  zBranch (d.setCtx k (fun c => c.setW z.hi v)) k z (v != 0)

/-! ### Control registers (R139, R140, R208) -/

/-- Wave time of the bound treadle; 0 when none is bound (R140). -/
def Dev.boundWave (d : Dev) (e : Nat) : Nat :=
  if d.b (ENG_CFG e) 4 then d.waveTime (d.f (ENG_CFG e) 3 0) else 0

/-- The value that control register `n` reads (c0-c7). -/
def Dev.ctlRead (d : Dev) (e k n : Nat) : Word :=
  let c := d.ctx k
  if n = 0 then c.flags else if n = 1 then c.rcnt else if n = 2 then d.tb.st
  else if n = 3 then w32 (d.boundWave e) else if n = 4 then (if d.b (ENG_CFG e) 4 then c.wtimeHi else 0) else if n = 5 then c.cinSt
  else if n = 6 then c.cinRel else w32 c.budget

def semRdc : ZSem := fun d e k z =>
  let v := d.ctlRead e k z.lo
  let hi := w32 (d.boundWave e / 2 ^ 32)
  .ok (d.setCtx k (fun c => (if z.lo = 3 then { c with wtimeHi := hi } else c).setW z.hi v)) none

def semWrc : ZSem := fun d _ k z =>
  let v := (d.ctx k).wr z.hi
  .ok (d.setCtx k (fun c =>
    if z.lo = 0 then { c with flags := setFld c.flags 4 0 (fld v 4 0) }
    else if z.lo = 1 then { c with rcnt := v } else c)) none

/-! ### Memory (R187-R189, R198, R209) -/

def semFence : ZSem := fun d e k _ =>
  if (d.eng e).far.any (fun f => f.key == k && f.copy.isNone) then .hold else .ok d none

/-- A far access enters the engine's queue in program order (R144). -/
def Dev.farPush (d : Dev) (e : Nat) (f : FarOp) : Dev := (d.setEng e (fun x => { x with far := x.far ++ [f] })).ordEnter

/-- A far access of context `k` to what an address leads to; none for a local one. -/
def farOp (k : Nat) (size dest : Nat) : ZMem → Option FarOp
  | .far r key => some
      { key := k, region := r, addr := key, size := size, store := false, value := 0, dest := dest, signed := false,
        atomic := none, ord := false, entered := false, copy := none, st := 0, quarter := 0, arrived := none }
  | .reg o => some
      { key := k, region := .dev, addr := o, size := size, store := false, value := 0, dest := dest, signed := false,
        atomic := none, ord := false, entered := false, copy := none, st := 0, quarter := 0, arrived := none }
  | _ => none

/-- Far loads outstanding on an engine, of which there are four at most (R144). -/
def Dev.farFull (d : Dev) (e : Nat) : Bool := 4 ≤ ((d.eng e).far.filter (fun f => !f.store && f.copy.isNone)).length

/-- A far load or atomic joins the queue: a load that another local load was to overwrite prevails over it (R143).
DEDUCED, log entry 47. -/
def Dev.farLoad (d : Dev) (e k : Nat) (f : FarOp) : ZRes :=
  if d.farFull e then .hold
  else
    let r := pairOf (f.size == 8) f.dest
    .ok ((d.setCtx k (fun c => { c with delay := c.delay.filter (fun (s : DelaySlot) => !(r.contains s.dest)) })).farPush e f) none

/-- ld and lds (R187): local loads open delay slots, far loads join the queue. -/
def zLoad (signed : Bool) : ZSem := fun d e k z =>
  match d.zOperand k z false with
  | .inl f => .fault f
  | .inr m =>
    let d := d.setCtx k (fun c => c.postOperand z)
    match farOp k z.s z.hi m with
    | some f => d.farLoad e k { f with signed := signed }
    | none =>
      let v := match m with
        | .local_ key => leVal (d.mrd key z.s)
        | .priv o => d.epRead k o z.s
        | _ => 0
      .ok (d.setCtx k (fun c => c.load z.wide z.hi (if signed then tc 32 (sx (8 * z.s) v) else v))) none

def semLd : ZSem := zLoad false
def semLds : ZSem := zLoad true

/-- st and sti (R188): local stores are performed at once, far stores are posted. -/
def zStore (val : ZInstr → Ctx → Nat) : ZSem := fun d e k z =>
  match d.zOperand k z true with
  | .inl f => .fault f
  | .inr m =>
    let v := val z (d.ctx k) % 2 ^ (8 * z.s)
    let d := d.setCtx k (fun c => c.postOperand z)
    match farOp k z.s 0 m with
    | some f => .ok (d.farPush e { f with store := true, value := BitVec.ofNat 64 v }) none
    | none =>
      match m with
      | .local_ key => .ok (d.mwr key (leBytes z.s v)) none
      | .priv o => .ok (d.epWrite k o z.s v) none
      | _ => .ok d none

def semSt : ZSem := zStore (fun z c => c.opnd z.wide z.hi)
def semSti : ZSem := zStore (fun z _ => z.imm)

/-- The X access of push and pop at offset `o`, aligned to s by w14 before the access (R189). -/
def Dev.stackAddr (d : Dev) (k o s : Nat) (write : Bool) : Sum ZFault ZMem :=
  let a := (0x10000000 + o) % 2 ^ 32
  if fld (d.desc (keyChan k) 4) 15 0 < o + s then .inl (2, some a) else d.zAddr k false a s write

def semPush : ZSem := fun d _ k z =>
  let c := d.ctx k
  let o := (c.wr 14 - w32 z.s).toNat
  match d.stackAddr k o z.s true with
  | .inr (.local_ key) =>
    .ok ((d.mwr key (leBytes z.s (c.opnd z.wide z.lo))).setCtx k (fun c => c.setW 14 (w32 o))) none
  | .inl f => .fault f
  | .inr _ => .hold

def semPop : ZSem := fun d _ k z =>
  let o := ((d.ctx k).wr 14).toNat
  match d.stackAddr k o z.s false with
  | .inr (.local_ key) =>
    let v := leVal (d.mrd key z.s)
    .ok (d.setCtx k (fun c => (c.setW 14 (w32 (o + z.s))).load z.wide z.lo v)) none
  | .inl f => .fault f
  | .inr _ => .hold

/-- aadd and aswap (R198, R199): only on a bank; with ORD they carry the stamp of the current input. -/
def zAtomic (op : AtomicOp) : ZSem := fun d e k z =>
  let a := ((d.ctx k).wr (z.m % 16) + BitVec.ofInt 32 z.disp).toNat
  match d.zAddr k z.far a z.s true with
  | .inl f => if 0x21000000 ≤ a then .fault (2, some a) else .fault f
  | .inr (.far .bank key) =>
    if 0x21000000 ≤ a then .fault (2, some a)
    else
      let (st, q) := match (d.act k).input with
        | some ev => (ev.stamp.st, ev.stamp.quarter)
        | none => (d.tb.st, 0)
      d.farLoad e k
        { key := k, region := .bank, addr := key, size := z.s, store := false,
          value := BitVec.ofNat 64 ((d.ctx k).opnd z.wide z.lo), dest := z.hi, signed := false, atomic := some op, ord := z.ord,
          entered := false, copy := none, st := st, quarter := q, arrived := none }
  | .inr _ => .fault (2, some a)

def semAadd : ZSem := zAtomic .add
def semAswap : ZSem := zAtomic .swap

/-! ### Taking and sealing (R151, R153, R200, R205, R206) -/

/-- The context is still placed: the seal of a drained original may have freed it (R237). -/
def Dev.isPlaced (d : Dev) (k : Nat) : Bool := (tfind d.cut.acts k).isSome

/-- The current input of context `k` becomes the event `u` of its queue; where events of the channel have been dropped since
the last one taken it carries overrun, in the journal too (R149). An input of a replay that has been late already stays so, with
no second late action (R242).
DEDUCED, log entry 29; DEDUCED, log entry 46; DEDUCED, log entry 48. -/
def Dev.takeEvent (d : Dev) (k : Nat) (u : Ev) : Dev :=
  let d := if k < 512 then d.ckptTake k u.stamp.st else d
  let v := { u with overrun := u.overrun || (d.act k).dropped }
  let d := if (d.act k).dropped && k < 512 then d.setChan k (fun ch =>
      { ch with journal := ch.journal.map (fun (w : Ev) => if sameEv w u then { w with overrun := true } else w) }) else d
  let rel := v.stamp.st + d.desc (keyChan k) 3
  let late := !(d.replaying k) && reached d.tb.st (rel - 64)
  let ws := evWords v late
  let newest := match (d.act k).lastTaken with
    | some t => if stBefore v.stamp.st t.st then t else v.stamp
    | none => v.stamp
  let d := d.setEng (d.act k).eng (fun x => { x with evq := dropFirst (fun (w : Ev) => w == u) x.evq })
  let d := d.setAct k (fun a =>
    { a with input := some v, inputLate := d.replaying k && u.late, given := 0, inId := a.inId + 1, lastTaken := some newest, dropped := false })
  let d := d.setCtx k (fun c =>
    let c := (List.range 4).foldl (fun (c : Ctx) i => c.setW i (ws.getD i 0)) c
    let c := { c with cinSt := v.stamp.st, cinQ := v.stamp.quarter, cinRel := rel }
    (c.setFlag 0 false).setFlag 5 false)
  let d := if d.replaying k then d.setChan k (fun ch => { ch with replay := ch.replay - 1 }) else d
  if late then d.lateInput k else if d.replaying k && u.late then d.setL k else d

def semTake : ZSem := fun d _ k _ =>
  if d.copyDue k then .hold
  else
    let d := (d.judgeLate k).sealInput k
    if !(d.isPlaced k) then .ok d none
    else match firstEv (d.visibleOf k) with
      | none => .ok (d.setCtx k (fun c => c.setFlag 0 true)) none
      | some v => .ok (d.takeEvent k v) none

def semWait : ZSem := fun d e k _ =>
  if d.copyDue k then .hold
  else
    let d := (d.judgeLate k).sealInput k
    if !(d.isPlaced k) then .ok d none
    else .ok ((d.leave e k .waiting).setAct k (fun a => { a with open_ := false })) none

def semStamp : ZSem := fun d _ k z =>
  let on := (d.act k).input.isSome
  let slack := d.sealDl k - d.tb.st
  .ok (d.setCtx k (fun c =>
    if on then ((c.zn 32 slack.toNat).setFlag 4 (sx 32 slack.toNat ≤ 0)).setW z.lo slack
    else (((c.setFlag 0 false).setFlag 1 false).setFlag 4 false).setW z.lo 0x7FFFFFFF)) none

/-! ### Giving (R201-R204, R207) -/

/-- The bytes that a give names: address and length (R201). DEDUCED, log entry 47. -/
def giveBuf (desc : Word) (pair : DWord) : Option (Nat × Nat) :=
  let a := pair.toNat % 2 ^ 32
  let kind := fld desc 3 0
  if kind = 0 || kind = 5 then some (a, fld desc 27 16)
  else if kind = 3 then some (a, 72)
  else if kind = 4 then some (a, 4 * (pair.toNat / 2 ^ 32 % 16))
  else none

/-- The channel is a party of mailbox `m`, which is open: the direction in which it sends. -/
def Dev.sendDir (d : Dev) (c m : Nat) : Option Nat :=
  if !(d.b (MBX_MSTAT m) 31) then none
  else if d.chanOf (d.r (MBX_PARTY m 0)) = some c then some 1
  else if d.chanOf (d.r (MBX_PARTY m 1)) = some c then some 0
  else none

/-- A give passes the remaining checks of R203 and R423: reserved fields, grants, the pin map, length. A bit of the data pair's
high word that its kind has no use for makes the give invalid as a reserved field does. DESIGN CHOICE, log entry 89. -/
def Dev.giveOk (d : Dev) (c : Nat) (desc : Word) (pair : DWord) : Bool :=
  let high := pair.toNat / 2 ^ 32
  let pin := bitOf (d.desc c (10 + fld desc 9 9)) (fld desc 8 4) && d.pinSrc (fld desc 9 4) == 2 &&
    d.pinCmd (fld desc 9 4) == bitOf desc 12
  let len := fld desc 27 16
  match fld desc 3 0 with
  | 0 =>
    let p := fld desc 8 4
    !(bitOf desc 15) && fld desc 31 28 == 0 && p ≤ 20 && bitOf (d.desc c 7) p && high / 65536 == 0 &&
      (p == 20 || len + 4 ≤ d.f (MAC_CTRL p) 29 16)
  | 1 => fld desc 31 13 == 0 && pin
  | 2 => fld desc 15 13 == 0 && fld desc 31 20 == 0 && pin && bitOf (d.desc c 8) (fld desc 19 16)
  | 3 =>
    let cfg := d.r (bufCfg (fld desc 6 4) (fld desc 11 7))
    fld desc 31 13 == 0 && high == 0 && bitOf (d.desc c 8) (16 + fld desc 6 4) && !(bitOf cfg 0) && fld cfg 19 18 == 1 &&
      fld cfg 17 9 == c
  | 4 => fld desc 31 12 == 0 && high / 16 == 0 && high % 16 ≤ 8 && (d.sendDir c (fld desc 11 4)).isSome
  | 5 => fld desc 31 28 == 0 && high == 0 && len ≤ 128 && bitOf (d.desc c 8) (24 + fld desc 6 4)
  | _ => false

/-- A give or bell without a current input (R203): it is discarded, and the late action is applied once, with the present tick
for a release time. DESIGN CHOICE, log entry 89. -/
def Dev.giveLost (d : Dev) (e k : Nat) : Dev :=
  let d := d.setL k
  if 512 ≤ k || d.replayPast k then d else d.lateAction (keyChan k) e d.tb.st

/-- An output of the current input enters the output queue (R152); its bytes are copied by a far read (R202). -/
def Dev.outPush (d : Dev) (e k : Nat) (desc : Word) (pair : DWord) (copy : Option (Region × Nat × Nat)) : Dev :=
  let a := d.act k
  let id := (d.eng e).outSeq
  let o : Out :=
    { key := k, inId := a.inId, id := id, desc := desc, pair := pair, data := [], rel := a.ctx.cinRel, inSt := a.ctx.cinSt,
      isSealed := false, committed := false, inEv := a.input, stepped := d.mode == .hold && (d.eng e).stopped, muted := d.muted k a.ctx.cinSt }
  let d := d.setEng e (fun x =>
    { x with outq := x.outq ++ [o], outSeq := id + 1, outqHigh := Nat.max x.outqHigh (x.outq.length + 1) })
  match copy with
  | some (r, key, n) =>
    d.farPush e
      { key := k, region := r, addr := key, size := n, store := false, value := 0, dest := 0, signed := false,
        atomic := none, ord := false, entered := false, copy := some id, st := 0, quarter := 0, arrived := none }
  | none => d

/-- A give or bell whose buffer is good: the quota (R152), then discarded without an input, late when invalid, or placed.
DEDUCED, log entry 47. -/
def Dev.giveAct (d : Dev) (e k : Nat) (ok : Bool) (desc : Word) (pair : DWord) (copy : Option (Region × Nat × Nat)) : ZRes :=
  let d := d.judgeLate k
  let a := d.act k
  if a.input.isNone then .ok (d.giveLost e k) none
  else if fld (d.desc (keyChan k) 5) 15 8 ≤ a.given then .fault (7, none)
  else if !ok then .ok ((d.setAct k (fun a => { a with given := a.given + 1 })).lateInput k) none
  else if a.inputLate then .ok (d.setAct k (fun a => { a with given := a.given + 1 })) none
  else if 64 ≤ (d.eng e).outq.length then .hold
  else .ok ((d.setAct k (fun a => { a with given := a.given + 1 })).outPush e k desc pair copy) none

/-- DEDUCED, log entry 47. -/
def semGive : ZSem := fun d e k z =>
  let c := d.ctx k
  let desc := c.wr z.hi
  let pair : DWord := BitVec.ofNat 64 (c.opnd true z.lo)
  match giveBuf desc pair with
  | none => d.giveAct e k (d.giveOk (keyChan k) desc pair) desc pair none
  | some (a, n) =>
    match d.farWin k a (Nat.max 1 n) with
    | none => .fault (2, some a)
    | some (_, _, key) =>
      if a % 4 ≠ 0 then .fault (3, some a)
      else
        let r : Region := if (bankOfKey key).isSome then .bank else .ext
        d.giveAct e k (d.giveOk (keyChan k) desc pair) desc pair (if n = 0 then none else some (r, key, n))

/-- bell (R207): a queued descriptor of kind 15 with the mailbox in [11:4] and the bit in [20:16]. -/
def semBell : ZSem := fun d e k z =>
  let h := (d.ctx k).wr z.hi
  let m := hIdx h
  let ok := d.checkHandle 2 h = .ok && (d.sendDir (keyChan k) m).isSome
  d.giveAct e k ok (w32 (15 + 16 * m + 65536 * z.imm)) 0 none

/-! ### Rows -/

/-- R194. -/
def execRet (e : Fin 96) (m : LocalEcc) : State → Host.Outcome State Fault Refusal :=
  lift (fun d => d.zStep e.val m (fun op => op == 0x02) semRet)
/-- R139. -/
def execRdc (e : Fin 96) (m : LocalEcc) : State → Host.Outcome State Fault Refusal :=
  lift (fun d => d.zStep e.val m (fun op => op == 0x04) semRdc)
/-- R208. -/
def execWrc (e : Fin 96) (m : LocalEcc) : State → Host.Outcome State Fault Refusal :=
  lift (fun d => d.zStep e.val m (fun op => op == 0x05) semWrc)
/-- R180. -/
def execBCond (e : Fin 96) (m : LocalEcc) : State → Host.Outcome State Fault Refusal :=
  lift (fun d => d.zStep e.val m (fun op => 0x80 ≤ op && op ≤ 0x9F) semBCond)
/-- R180. -/
def execBLate (e : Fin 96) (m : LocalEcc) : State → Host.Outcome State Fault Refusal :=
  lift (fun d => d.zStep e.val m (fun op => op == 0xA3) semBLate)
/-- R180. -/
def execBOntime (e : Fin 96) (m : LocalEcc) : State → Host.Outcome State Fault Refusal :=
  lift (fun d => d.zStep e.val m (fun op => op == 0xA4) semBOntime)
/-- R180. -/
def execBTc (e : Fin 96) (m : LocalEcc) : State → Host.Outcome State Fault Refusal :=
  lift (fun d => d.zStep e.val m (fun op => op == 0xA5) semBTc)
/-- R194. -/
def execCall (e : Fin 96) (m : LocalEcc) : State → Host.Outcome State Fault Refusal :=
  lift (fun d => d.zStep e.val m (fun op => op == 0xA0) semCall)
/-- R194. -/
def execCallR (e : Fin 96) (m : LocalEcc) : State → Host.Outcome State Fault Refusal :=
  lift (fun d => d.zStep e.val m (fun op => op == 0xA1) semCallR)
/-- R194. -/
def execJmpR (e : Fin 96) (m : LocalEcc) : State → Host.Outcome State Fault Refusal :=
  lift (fun d => d.zStep e.val m (fun op => op == 0xA2) semJmpR)
/-- R194. -/
def execDbnz (e : Fin 96) (m : LocalEcc) : State → Host.Outcome State Fault Refusal :=
  lift (fun d => d.zStep e.val m (fun op => op == 0xA6) semDbnz)
/-- R209. -/
def execFence (e : Fin 96) (m : LocalEcc) : State → Host.Outcome State Fault Refusal :=
  lift (fun d => d.zStep e.val m (fun op => op == 0x03) semFence)
/-- R189. -/
def execPush (e : Fin 96) (m : LocalEcc) : State → Host.Outcome State Fault Refusal :=
  lift (fun d => d.zStep e.val m (fun op => op == 0x15) semPush)
/-- R187. -/
def execPop (e : Fin 96) (m : LocalEcc) : State → Host.Outcome State Fault Refusal :=
  lift (fun d => d.zStep e.val m (fun op => op == 0x16) semPop)
/-- R187. -/
def execLd (e : Fin 96) (m : LocalEcc) : State → Host.Outcome State Fault Refusal :=
  lift (fun d => d.zStep e.val m (fun op => op == 0x20) semLd)
/-- R187. -/
def execLds (e : Fin 96) (m : LocalEcc) : State → Host.Outcome State Fault Refusal :=
  lift (fun d => d.zStep e.val m (fun op => op == 0x21) semLds)
/-- R188. -/
def execSt (e : Fin 96) (m : LocalEcc) : State → Host.Outcome State Fault Refusal :=
  lift (fun d => d.zStep e.val m (fun op => op == 0x22) semSt)
/-- R188. -/
def execSti (e : Fin 96) (m : LocalEcc) : State → Host.Outcome State Fault Refusal :=
  lift (fun d => d.zStep e.val m (fun op => op == 0x23) semSti)
/-- R198. -/
def execAadd (e : Fin 96) (m : LocalEcc) : State → Host.Outcome State Fault Refusal :=
  lift (fun d => d.zStep e.val m (fun op => op == 0xD0) semAadd)
/-- R198. -/
def execAswap (e : Fin 96) (m : LocalEcc) : State → Host.Outcome State Fault Refusal :=
  lift (fun d => d.zStep e.val m (fun op => op == 0xD1) semAswap)
/-- R200. -/
def execTake (e : Fin 96) (m : LocalEcc) : State → Host.Outcome State Fault Refusal :=
  lift (fun d => d.zStep e.val m (fun op => op == 0xE0) semTake)
/-- R201. -/
def execGive (e : Fin 96) (m : LocalEcc) : State → Host.Outcome State Fault Refusal :=
  lift (fun d => d.zStep e.val m (fun op => op == 0xE1) semGive)
/-- R205. -/
def execWait (e : Fin 96) (m : LocalEcc) : State → Host.Outcome State Fault Refusal :=
  lift (fun d => d.zStep e.val m (fun op => op == 0xE2) semWait)
/-- R206. -/
def execStamp (e : Fin 96) (m : LocalEcc) : State → Host.Outcome State Fault Refusal :=
  lift (fun d => d.zStep e.val m (fun op => op == 0xE3) semStamp)
/-- R207. -/
def execBell (e : Fin 96) (m : LocalEcc) : State → Host.Outcome State Fault Refusal :=
  lift (fun d => d.zStep e.val m (fun op => op == 0xE4) semBell)

/-- The meaning of an opcode, for the debugger's single step. -/
def semOf (op : Nat) : ZSem :=
  if op == 0x01 then semNop
  else if 0x10 ≤ op && op ≤ 0x12 then semMov
  else if op == 0x13 then semWra
  else if op == 0x14 then semRda
  else if op == 0x24 then semLda
  else if rows345 op 0 then semAdd
  else if rows345 op 1 then semSub
  else if rows345 op 2 then semAdc
  else if rows345 op 3 then semSbc
  else if rows345 op 4 then semAnd
  else if rows345 op 5 then semOr
  else if rows345 op 6 then semXor
  else if rows345 op 7 then semCmp
  else if rows345 op 8 then semTst
  else if op == 0x39 then semNeg
  else if op == 0x3A then semNot
  else if op == 0x3B then semMul
  else if op == 0x3C then semMulh
  else if op == 0x3D then semMulhu
  else if op == 0x3E then semMin
  else if op == 0x3F then semMax
  else if op == 0x60 || op == 0x68 then semShl
  else if op == 0x61 || op == 0x69 then semShr
  else if op == 0x62 || op == 0x6A then semSar
  else if op == 0x63 || op == 0x6B then semRol
  else if op == 0x64 || op == 0x6C then semRor
  else if op == 0x65 then semClz
  else if op == 0x66 then semPopc
  else if op == 0x67 then semBswap
  else if op == 0x70 then semBfx
  else if op == 0x71 then semBfxs
  else if op == 0x72 then semBfi
  else if op == 0x73 then semBfc
  else if op == 0x74 then semBfs
  else if op == 0x75 then semBtst
  else if op == 0x76 then semBset
  else if op == 0x77 then semBclr
  else if op == 0xB0 then semMac
  else if op == 0xB1 then semMsu
  else if op == 0xB2 then semMacR
  else if op == 0xB3 then semMsuR
  else if op == 0xB4 then semClra
  else if op == 0xB5 then semAshr
  else if op == 0xB6 then semMvfa
  else if op == 0xB7 then semMvta
  else if op == 0xC0 then semCrcB
  else if op == 0xC1 then semCrcH
  else if op == 0xC2 then semCrcW
  else if op == 0xC3 then semCrcM
  else if op == 0x02 then semRet
  else if op == 0x04 then semRdc
  else if op == 0x05 then semWrc
  else if 0x80 ≤ op && op ≤ 0x9F then semBCond
  else if op == 0xA3 then semBLate
  else if op == 0xA4 then semBOntime
  else if op == 0xA5 then semBTc
  else if op == 0xA0 then semCall
  else if op == 0xA1 then semCallR
  else if op == 0xA2 then semJmpR
  else if op == 0xA6 then semDbnz
  else if op == 0x03 then semFence
  else if op == 0x15 then semPush
  else if op == 0x16 then semPop
  else if op == 0x20 then semLd
  else if op == 0x21 then semLds
  else if op == 0x22 then semSt
  else if op == 0x23 then semSti
  else if op == 0xD0 then semAadd
  else if op == 0xD1 then semAswap
  else if op == 0xE0 then semTake
  else if op == 0xE1 then semGive
  else if op == 0xE2 then semWait
  else if op == 0xE3 then semStamp
  else if op == 0xE4 then semBell
  else semNop

/-! ### Debug in Hold (R166-R168) -/

/-- The engine is FROZEN or HALTED, and debug is unlocked: debug access is open (R166). -/
def Dev.dbgOpen (d : Dev) (e : Nat) : Bool :=
  d.debug && (d.eng e).stopped && !(d.eng e).retired && d.b (ENG_CTRL e) 0

/-- The context in the slot that ENG_DBG_SEL names. -/
def Dev.dbgKey (d : Dev) (e : Nat) : Option Nat := tget none (d.eng e).slots (d.f (ENG_DBG_SEL e) 4 0)

/-- The register that ENG_DBG_DATA reads. DESIGN CHOICE, log entry 39. -/
def Dev.dbgRead (d : Dev) (e : Nat) : Word :=
  match d.dbgOpen e, d.dbgKey e with
  | true, some k =>
    let c := d.ctx k
    let r := d.f (ENG_DBG_SEL e) 15 8
    if r < 16 then c.wr r
    else if r < 24 then w32 (c.arg (r - 16))
    else if r < 30 then
      let a := (c.acc ((r - 24) / 3)).toNat
      w32 (if r % 3 = 0 then a else if r % 3 = 1 then a / 2 ^ 32 else a / 2 ^ 64)
    else if 32 ≤ r && r < 40 then d.ctlRead e k (r - 32)
    else if r = 40 then w32 c.pc else 0
  | _, _ => 0

/-- 32 bits of an accumulator replaced. -/
def accPut (a : BitVec 72) (part : Nat) (v : Word) : BitVec 72 :=
  let n := a.toNat
  if part = 0 then BitVec.ofNat 72 (n / 2 ^ 32 * 2 ^ 32 + v.toNat)
  else if part = 1 then BitVec.ofNat 72 (n / 2 ^ 64 * 2 ^ 64 + v.toNat * 2 ^ 32 + n % 2 ^ 32)
  else BitVec.ofNat 72 (v.toNat % 256 * 2 ^ 64 + n % 2 ^ 64)

/-- A write of ENG_DBG_DATA; a repeat whose count is written 0 ends (R212). DEDUCED, log entry 48. -/
def Dev.dbgWrite (d : Dev) (who : Initiator) (e : Nat) (v : Word) : Dev :=
  if !(d.dbgOpen e) then d.refuse who (ENG_DBG_DATA e)
  else match d.dbgKey e with
    | none => d
    | some k =>
      let r := d.f (ENG_DBG_SEL e) 15 8
      let len := match d.zAt k with | .ok z => z.len | _ => 0
      d.setCtx k (fun c =>
        if r < 16 then c.setW r v
        else if r < 24 then c.setAr (r - 16) v.toNat
        else if r < 30 then c.setAcc ((r - 24) / 3) (accPut (c.acc ((r - 24) / 3)) (r % 3) v)
        else if r = 32 then { c with flags := v &&& 0x3F }
        else if r = 33 then
          (if c.repOn && v = 0 then { c with rcnt := 0, repOn := false, pc := (c.pc + len) % 2 ^ 32 } else { c with rcnt := v })
        else if r = 40 then { c with pc := v.toNat, repOn := false }
        else c)

/-- ENG_DBG_CTRL.step on a FROZEN engine: one instruction of the slot named in ENG_DBG_SEL (R167).
DEDUCED, log entry 48. -/
def Dev.dbgStep (d : Dev) (e : Nat) (m : LocalEcc) : Dev :=
  match d.dbgKey e with
  | none => d
  | some k =>
    if (d.act k).st == .faulted || (d.act k).st == .parked then d
    else
      let pc := (d.ctx k).pc
      let key := keyInstr e + (d.act k).codeBase + pc
      match d.zAt k with
      | .ok z =>
        if m.fetch = .uncorr then (d.raise e k 5 none).readEcc key 4 m.fetch
        else (d.zRun e k m z (semOf z.op)).readEcc key 4 m.fetch
      | .illegal o =>
        if m.fetch = .uncorr then (d.raise e k 5 none).readEcc key 4 m.fetch
        else (d.raise e k 1 (some (pc + o))).readEcc key 4 m.fetch
      | .outside =>
        if m.fetch = .uncorr && !(d.zBytes k).isEmpty then (d.raise e k 5 none).readEcc key 4 m.fetch
        else d.raise e k 2 (some pc)

/-- A write of ENG_DBG_CTRL: the step is made only while the engine is FROZEN and debug is unlocked.
DESIGN CHOICE, log entry 38. -/
def Dev.dbgCtrl (d : Dev) (who : Initiator) (e : Nat) (v : Word) (m : LocalEcc) : Dev :=
  let a := ENG_DBG_CTRL e
  let d := d.w a (v &&& 6)
  if !(bitOf v 0) then d
  else if d.dbgOpen e && d.mode == .hold then d.dbgStep e m
  else d.refuse who a

end Sys2Proof.Machine
end

