-- ==== Sys2Proof/Machine/EngineCtl.lean ====
section
/-!
DEFINITION. The engines from outside: ENG_CTRL, ENG_STAT and the slot view (R131, R132), debug registers and breakpoints (R166-R168),
and the host's view of local memories and banks (R137, R531).
-/
namespace Sys2Proof.Machine

/-- ENG_STAT.state (R131). DEDUCED, log entry 48. -/
def Dev.engState (d : Dev) (e : Nat) : Nat :=
  let en := d.eng e
  if en.retired then 5
  else if en.stopped then (if !(d.b (ENG_CTRL e) 0) then 0 else if d.mode == .hold then 4 else 3)
  else if en.cur.isSome || (d.slotKeys e).any d.ready then 2 else 1

/-- ENG_STAT. -/
def Dev.engStat (d : Dev) (e : Nat) : Word :=
  let en := d.eng e
  w32 (d.engState e + 16 * (match en.cur with | some k => keyChan k | none => 0) + 2 ^ 13 * b2n en.cur.isSome +
    2 ^ 16 * (d.slotKeys e).length)

/-- The busy cycles of an engine, the hold in progress included. -/
def Dev.engBusy (d : Dev) (e : Nat) : Nat :=
  (d.eng e).busy + (match (d.eng e).cur with | some k => d.holdCycles k | none => 0)

/-- A word of ENG_SLOT[e][s]. -/
def Dev.engSlot (d : Dev) (e s i : Nat) : Word :=
  match tget none (d.eng e).slots s with
  | none => 0
  | some k =>
    let a := d.act k
    if i = 0 then
      let st := match a.st with
        | .waiting => if d.ready k then 1 else 0
        | .ready => 1 | .running => 2 | .preempted => 3 | .parked => 4 | .suspended => 5 | .faulted => 6
      w32 (keyChan k + 2 ^ 12 + 2 ^ 13 * st)
    else if i = 1 then w32 (if d.replaying k then a.ctx.budget else a.ctx.budget - d.holdCycles k)
    else if i = 2 then (d.deadline k).getD 0
    else w32 ((d.visibleOf k).length + 256 * fld (d.desc (keyChan k) 5) 7 0 +
      65536 * ((d.eng e).outq.filter (fun o => o.key == k)).length)

/-- The channels that a reset engine still holds are reset with it (R9): the channels themselves end as by a DESTROY, a shadow's
migration is aborted, the original of a finished switch-over stops draining. DEDUCED, log entry 89. -/
def Dev.engineChans (d : Dev) (e : Nat) : Dev :=
  d.each (d.slotKeys e) (fun d k =>
    if k < 512 then d.destroyChan k
    else match (d.chan (keyChan k)).mig with
      | some m => if m.switched.isSome then d.drainEnd (keyChan k) m (fun o => o.isSealed) else d.endMigration (keyChan k) 13
      | none => d)

/-- An ENGINE reset (R9, R10, R132): the engine's registers of that domain, its queues, its run state, its local memories and the
channels in its slots; retirement stays. The memories hold zero afterwards. DEDUCED, log entry 89. -/
def Dev.engineReset (d : Dev) (e : Nat) : Dev :=
  let d := d.engineChans e
  let d := { d with mem := mrestore d.mem (keyInstr e) 0x10000 [] }
  let lo := ENG_CTRL e
  let d := { d with regs := d.regs.map (fun (p : Nat × Word) => if lo ≤ p.1 && p.1 < lo + 0x1000 then (p.1, engineValue p.1 p.2) else p) }
  d.setEng e (fun x => { Engine.init with retired := x.retired, slots := x.slots, busy := x.busy })

/-- A write of ENG_CTRL (R131, R132). DEDUCED, log entry 33. -/
def Dev.engCtrl (d : Dev) (who : Initiator) (e : Nat) (v : Word) : Dev :=
  let a := ENG_CTRL e
  if bitOf v 8 then
    if (d.slotKeys e).isEmpty || (d.eng e).retired then d.engineReset e else d.refuse who a
  else
    let d := d.w a (v &&& 3)
    if d.engGo e then d.setEng e (fun x => { x with stopped := false }) else d

/-- The program counter of the running slot meets an enabled breakpoint (R168): the engine stops before the instruction.
DEDUCED, log entry 48. -/
def Dev.breakpoint (d : Dev) (e : Nat) : Dev :=
  match (d.eng e).cur with
  | none => d
  | some k =>
    if (d.eng e).stopped || (d.act k).st != .running || !(d.bpMatch e k) then d
    else
      let d := (d.setEng e (fun x => { x with stopped := true })).setBell (.eng e) 32
      if d.b (ENG_DBG_CTRL e) 2 then d.modeReq .internal 0xA505 false else d

/-- The bytes of a word that the byte enables name, written over memory. -/
def Dev.mwrBe (d : Dev) (key : Nat) (be : BitVec 4) (v : Word) : Dev :=
  let bs := leBytes 4 v.toNat
  d.each (List.range 4) (fun d i => if be.getLsbD i then d.mwr (key + i) [byteAt bs i] else d)

/-- The host may reach memory through BAR2 and BAR4 in the present mode (R27, R28). -/
def Dev.memOpen (d : Dev) : Bool := d.hostUp && !(d.modeIn [.boot, .provision])

/-- A host's access to memory checks the codeword that it reads (R261, R262): `none` when it is poisoned or in a retired
resource. A narrow write is a read-modify-write (R252, R271), so it reads one too. DESIGN CHOICE, log entry 49. -/
def Dev.hostEcc (d : Dev) (key : Nat) (ecc retry : Ecc) : Dev × Bool :=
  if d.keyRetired key then (d, true)
  else if keyExt ≤ key then d.extEcc key 3 ecc retry
  else (d.readEcc key (if key < 0x600000 then 4 else 5) ecc, ecc == .uncorr)

/-- A word written by the host, or the failure of R474 cause 2. -/
def Dev.hostPut (d : Dev) (key : Nat) (be : BitVec 4) (v : Word) (ecc retry : Ecc) : Dev :=
  let (d, poison) := d.hostEcc key ecc retry
  if poison then d.failWrite 2 else d.mwrBe key be v

/-- A word read by the host; what a poisoned read returns to it is a free value. DESIGN CHOICE, log entry 49. -/
def Dev.hostGet (d : Dev) (key : Nat) (ecc retry : Ecc) : Word × Dev :=
  let (d, poison) := d.hostEcc key ecc retry
  if poison then d.free else (d.mword key, d)

/-- A host write through BAR2 (R137, R531): local memories and banks. DEDUCED, log entry 76. -/
def Dev.bar2Write (d : Dev) (who : Initiator) (addr : Nat) (be : BitVec 4) (v : Word) (ecc retry : Ecc) : Dev :=
  if !d.hostUp then d
  else if !d.memOpen then d.accErr who true 4 (portAddr who 0x2000000 addr)
  else
    let a := addr / 4 * 4
    if a < 0x600000 then
      let e := a / 0x10000
      let st := d.engState e
      if a % 0x10000 < 0x8000 && (st = 2 || (st = 1 && !(d.slotKeys e).isEmpty)) then
        d.refuse who (portAddr who 0x2000000 a)
      else d.hostPut a be v ecc retry
    else if (bankOfKey a).isSome then d.hostPut a be v ecc retry
    else d.accErr who true 2 (portAddr who 0x2000000 a)

/-- A host read through BAR2. -/
def Dev.bar2Read (d : Dev) (who : Initiator) (addr : Nat) (ecc retry : Ecc) : Word × Dev :=
  if !d.memOpen then (0, d.accErr who false 4 (portAddr who 0x2000000 addr))
  else
    let a := addr / 4 * 4
    if a < 0x600000 || (bankOfKey a).isSome then d.hostGet a ecc retry
    else (0, d.accErr who false 2 (portAddr who 0x2000000 a))

/-- The initiator of a host port. -/
def portWho : HostPort → Initiator
  | .pcie => .pcie
  | .lb => .lb

/-- R131. -/
def execEngineEnable (who : Initiator) (e : Fin 96) (val : Word) : State → Host.Outcome State Fault Refusal :=
  lift (fun d => d.access who (ENG_CTRL e.val) (fun d => d.engCtrl who e.val val))
/-- R131. -/
def execEngineHaltRequest (who : Initiator) (e : Fin 96) (val : Word) : State → Host.Outcome State Fault Refusal :=
  lift (fun d => d.access who (ENG_CTRL e.val) (fun d => d.engCtrl who e.val val))
/-- R132. -/
def execEngineReset (who : Initiator) (e : Fin 96) (val : Word) : State → Host.Outcome State Fault Refusal :=
  lift (fun d => d.access who (ENG_CTRL e.val) (fun d => d.engCtrl who e.val (val ||| 0x100)))
/-- R167. -/
def execDebugStep (who : Initiator) (e : Fin 96) (val : Word) (m : LocalEcc) : State → Host.Outcome State Fault Refusal :=
  lift (fun d => d.access who (ENG_DBG_CTRL e.val) (fun d => d.dbgCtrl who e.val (val ||| 1) m))
/-- R168. -/
def execBreakpointHit (e : Fin 96) : State → Host.Outcome State Fault Refusal := lift (fun d => d.breakpoint e.val)
/-- R166. -/
def execDebugDataAccess (who : Initiator) (e : Fin 96) (write : Bool) (val : Word) : State → Host.Outcome State Fault Refusal :=
  lift (fun d =>
    if write then d.access who (ENG_DBG_DATA e.val) (fun d => d.dbgWrite who e.val val)
    else d.accessR who (ENG_DBG_DATA e.val) (fun d => (d.dbgRead e.val, d)))
/-- R137, R2. -/
def execHostLocalMemWrite (i : HostPort) (addr : Nat) (be : BitVec 4) (val : Word) : State → Host.Outcome State Fault Refusal :=
  lift (fun d => d.bar2Write (portWho i) addr be val .clean .clean)

end Sys2Proof.Machine
end

