-- ==== Sys2Proof/Machine/Lookup.lean ====
section
/-!
DEFINITION. The lookup pipeline (R307) with the redundancy block's part in it: pairs, their duplicate tables, and the copies
that they send (R334-R343).
-/
namespace Sys2Proof.Machine

/-! ### Pairs (R334, R335, R343) -/

/-- Mode of a pair; whether a port belongs to an active one. -/
def Dev.pairMode (d : Dev) (k : Nat) : Nat := d.f (RED_PAIR_CFG k) 2 0
def Dev.inPair (d : Dev) (p : Nat) : Bool := p < 20 && d.pairMode (p / 2) != 0 && d.pairMode (p / 2) < 6

/-- The pair tags with HSR tags. -/
def Dev.pairHsr (d : Dev) (k : Nat) : Bool := d.pairMode k == 2 || d.pairMode k == 4 || d.pairMode k == 5

/-- The two ports of pair `k`, and those that can carry a copy. -/
def pairPorts (k : Nat) : List Nat := [2 * k, 2 * k + 1]
def Dev.pairUp (d : Dev) (k : Nat) : List Nat := (pairPorts k).filter (fun p => d.linkUp p && !(d.portRetired p))

/-- The partner pair of a QuadBox whose naming is mutual (R335). -/
def Dev.quad (d : Dev) (k : Nat) : Option Nat :=
  let j := d.f (RED_PAIR_CFG k) 16 13
  if d.pairMode k = 5 && j < 10 && j ≠ k && d.pairMode j = 5 && d.f (RED_PAIR_CFG j) 16 13 = k then some j else none

/-! ### Duplicate tables (R337-R340) -/

/-- Length of the window, ns. -/
def Dev.dupWindow (d : Dev) (k : Nat) : Nat := d.f (RED_PAIR_CFG k) 31 20 * 1000000

def Dev.dupTable (d : Dev) (k : Nat) : List DupEntry := tget [] d.red.dup k
def Dev.setDup (d : Dev) (k : Nat) (l : List DupEntry) : Dev := { d with red := { d.red with dup := tset d.red.dup k l } }

/-- The entry of a key, younger than the window. -/
def Dev.dupFind (d : Dev) (k sa seq : Nat) : Option DupEntry :=
  (d.dupTable k).find? (fun e => e.sa == sa && e.seq == seq && d.tb.now - e.at_ < d.dupWindow k)

/-- A key enters the table, oldest first; a full table loses its oldest entry. -/
def Dev.dupEnter (d : Dev) (k sa seq : Nat) (own tentative : Bool) : Dev :=
  let l := (d.dupTable k).filter (fun e => !(e.sa == sa && e.seq == seq))
  let d := match l with
    | e :: _ => if 1024 ≤ l.length && d.tb.now - e.at_ < d.dupWindow k then d.cnt (RED_PAIR_CNT k 3) else d
    | [] => d
  let l := if 1024 ≤ l.length then l.drop 1 else l
  d.setDup k (l ++ [{ sa := sa, seq := seq, own := own, tentative := tentative, at_ := d.tb.now }])

/-- What the redundancy block makes of a received frame. -/
inductive RedVerdict where
  | pass | drop | hold
  deriving DecidableEq, Repr

/-- Redundancy found in a frame on port `p`: the metadata fields set (R306, R338). -/
def Dev.redSeen (d : Dev) (p : Nat) (f : QFrame) : QFrame :=
  if !(d.inPair p) then f
  else
    let b := cutFcs f.bytes
    let t := d.tpid p
    if d.pairHsr (p / 2) then
      match hsrOf t b with
      | some s => { f with red := 2, redSeq := s, lan := p % 2, etype := beAt b (typeOfs t b + 6) 2 }
      | none => f
    else match prpOf t b with
      | some (s, lan) => { f with red := 1, redSeq := s, lan := b2n (lan = 0xB) }
      | none => f

/-- A frame on a pair's port is judged (R338, R339, R341); a frame that a cut-through has entered already passes.
DEDUCED, log entry 60. -/
def Dev.redJudge (d : Dev) (p : Nat) (f : QFrame) (entered : Bool) : RedVerdict × Dev :=
  let k := p / 2
  if !(d.inPair p) then (.pass, d)
  else if f.red = 0 then (.pass, d.cnt (RED_PAIR_CNT k 2))
  else
    let lan := beAt f.bytes (f.bytes.length - 8) 2 / 4096
    let d := if f.red = 1 && lan ≠ 0xA + p % 2 then d.cnt (RED_PAIR_CNT k 1) else d
    let sa := srcOf f.bytes
    let through : Bool := (d.pairMode k == 1 && d.b (RED_PAIR_CFG k) 5) || (d.pairHsr k && d.f (RED_PAIR_CFG k) 4 3 == 2)
    if entered then (.pass, d)
    else match d.dupFind k sa f.redSeq with
      | some e =>
        if e.own && d.pairHsr k then (.drop, d.cnt (RED_PAIR_CNT k 7))
        else if through then (.pass, d)
        else if e.tentative then (.hold, d.cnt (RED_PAIR_CNT k 4))
        else (.drop, d.cnt (RED_PAIR_CNT k 0))
      | none => (.pass, if through then d else d.dupEnter k sa f.redSeq false false)

/-- The frame without its redundancy tag. DEDUCED, log entry 60. -/
def Dev.redStrip (d : Dev) (p : Nat) (f : QFrame) : QFrame :=
  let b := cutFcs f.bytes
  if f.red = 1 then f.withBody (dropPrp b) else if f.red = 2 then f.withBody (dropHsr (d.tpid p) b) else f

/-- The frame neither duplicated nor tagged: link-local, or a PTP event (R336). -/
def Dev.pairPlain (d : Dev) (p : Nat) (f : QFrame) : Bool :=
  isLinkLocal f.bytes || ptpEvent (d.tpid p) (cutFcs f.bytes)

/-- The copies of a frame for pair `k`, of which `named` are the ports that the mask or the output names (R336, R337, R343); none,
with no sequence taken, while neither port's link is up. DEDUCED, log entry 60. -/
def Dev.pairCopies (d : Dev) (k : Nat) (f : QFrame) (named : List Nat) : List (Nat × QFrame) × Dev :=
  let ups := d.pairUp k
  if d.pairPlain (2 * k) f then (named.map (fun p => (p, f)), d)
  else if ups.isEmpty then ([], d)
  else
    let seq := d.f (RED_PAIR_SEQ k) 15 0
    let body := cutFcs f.bytes
    let tagged := fun p => f.withBody (if d.pairHsr k then addHsr (d.tpid p) body seq else addPrp (d.tpid p) body seq (p % 2 = 1))
    let l := ups.map (fun p => (p, tagged p))
    (l, ((d.wf (RED_PAIR_SEQ k) 15 0 ((seq + 1) % 65536)).dupEnter k (srcOf body) seq true false))

/-! ### The decision of a frame -/

/-- Ingress port `p` is a member of a VLAN that is valid. -/
def Dev.member (d : Dev) (vid p : Nat) : Bool := d.b (SWC_VLAN vid 0) 31 && d.b (SWC_VLAN vid 0) p

/-- The frame is addressed to this node: a subscription takes it, or the FDB gives PH. -/
def Dev.toNode (d : Dev) (subs : List Nat) (f : QFrame) : Bool :=
  !subs.isEmpty || (match d.fdbFind (dstOf f.bytes) f.vid with | some x => x.2.ports.testBit 21 | none => false)

/-- The APPID position's two bytes, behind every tag. DEDUCED, log entry 60. -/
def Dev.appOf (d : Dev) (p : Nat) (f : QFrame) : Nat :=
  let b := cutFcs (d.redStrip p f).bytes
  beAt b (typeOfs (d.tpid p) b + 2) 2

/-- The ports that the FDB gives (R307 step 5). DEDUCED, log entry 58. -/
def Dev.fdbPorts (d : Dev) (f : QFrame) : List Nat :=
  let all := (List.range 22).filter (fun p => p ≠ 20 && d.b (SWC_VLAN f.vid 0) p)
  match d.fdbFind (dstOf f.bytes) f.vid with
  | some x => (List.range 22).filter (fun p => p ≠ 20 && x.2.ports.testBit p)
  | none => if isGroup f.bytes && !(d.b SWC_CTRL 2) then [] else all

/-- Where a frame of ingress port `p` goes: the ports that take it as it came (a ring's other port), and the others, both
after step 7. -/
def Dev.route (d : Dev) (p : Nat) (subs : List Nat) (f : QFrame) : List Nat × List Nat :=
  let k := p / 2
  let own := d.inPair p
  let ext : Bool := d.b SWC_CTRL 0 && d.modeIn [.stop, .run, .hold]
  let may := fun q => q ≠ p && d.member f.vid q && d.dpState q = 3 && (ext || !(p < 20 && q < 20))
  let hsr : Bool := own && d.pairHsr k && d.f (RED_PAIR_CFG k) 4 3 != 1 &&
    !(d.f (RED_PAIR_CFG k) 4 3 == 3 && !(isGroup f.bytes) && d.toNode subs f)
  let other := if p % 2 = 0 then p + 1 else p - 1
  let l := (d.fdbPorts f).filter (fun q => !(own && q < 20 && q / 2 = k))
  let l :=
    if own && d.pairMode k = 5 then
      let l := l.filter (fun q => !(q < 20 && d.pairMode (q / 2) = 5))
      match d.quad k with
      | some j => l ++ pairPorts j
      | none => l
    else l
  let l := (List.range 22).filter (fun q => l.any (fun x => x = q || (x < 20 && d.inPair x && x / 2 = q / 2 && q < 20 && !(d.pairPlain p f))))
  ((if hsr then [other] else []).filter may, l.filter may)

/-- Copies of a frame stored from cell `cell` on, admitted to the queues of external ports and of PH, whose tags are edited here
(R307 step 8); answers whether one was taken. DESIGN CHOICE, log entry 24. -/
def Dev.sendCopies (d : Dev) (cell : Nat) (l : List (Nat × QFrame)) : Bool × Dev :=
  l.foldl (fun (r : Bool × Dev) (x : Nat × QFrame) =>
    if x.1 = 20 || 21 < x.1 then r
    else
      let f := if x.1 = 21 then x.2.withBody (r.2.tagEdit 21 x.2 (cutFcs x.2.bytes)) else x.2
      let (ok, d) := r.2.takeIn x.1 f cell
      (r.1 || ok, d)) (false, d)

/-- The frames that go to a list of ports: each active pair gets its tagged copies, a port outside pairs the frame. -/
def Dev.expand (d : Dev) (f : QFrame) (l : List Nat) : List (Nat × QFrame) × Dev :=
  let single := (l.filter (fun q => !(d.inPair q))).map (fun q => (q, f))
  (List.range 10).foldl (fun (r : List (Nat × QFrame) × Dev) k =>
    let named := l.filter (fun q => q < 20 && q / 2 = k && d.inPair q)
    if named.isEmpty then r
    else
      let (c, d) := r.2.pairCopies k f named
      (r.1 ++ c.filter (fun x => l.contains x.1), d)) (single, d)

/-- Steps 4 to 8 for a frame that the redundancy block accepts; `done` are the egress ports that cut it through already.
DEDUCED, log entry 60. -/
def Dev.forwardBy (d : Dev) (p : Nat) (f : QFrame) (done : List Nat) : Dev :=
  let cfg := RED_PAIR_CFG (p / 2)
  let strip := d.inPair p && d.b cfg 6
  let off := d.inPair p && (strip || 3 ≤ d.pairMode (p / 2))
  let fd := if strip then d.redStrip p f else f
  let ff := if off then d.redStrip p f else f
  let b := cutFcs fd.bytes
  let subs := d.openSubs.filter (fun i => d.subMatch i b f.vid f.etype (d.appOf p f))
  let (raw, l) := d.route p subs f
  let (cell, d) := d.allocCell (cellsOf f.bytes.length)
  let d := d.each subs (fun d i => d.subCopy i cell fd)
  if isLinkLocal b then
    (if !subs.isEmpty then d else if d.b SWC_CTRL 3 then (d.takeIn 21 fd cell).2 else d.cnt (SWC_CNT 15)).drainIn
  else if subs.isEmpty && raw.isEmpty && l.isEmpty && done.isEmpty then d.cnt (SWC_CNT 2)
  else
    let d := if raw.isEmpty then d else d.cnt (RED_PAIR_CNT (p / 2) 6)
    let d := (d.sendCopies cell ((raw.filter (fun q => !(done.contains q))).map (fun q => (q, f)))).2
    let (c, d) := d.expand ff (l.filter (fun q => !(done.contains q)))
    (d.sendCopies cell (c.map (fun x => if x.1 = 21 then (21, fd) else x))).2.drainIn

/-- The frame is a redundancy supervision frame, which a blocking port passes. -/
def isSupervision (f : QFrame) : Bool := f.etype == 0x88FB

/-- Step 1 to step 3 and the redundancy block's verdict, then the rest. `entered` and `done` tell of a cut-through. Answers
whether step 1 refused the frame. DEDUCED, log entry 58. -/
def Dev.lookup (d : Dev) (p : Nat) (f : QFrame) (entered : Bool) (done : List Nat) : Bool × Dev :=
  let f := d.redSeen p f
  let s := d.dpState p
  let b := cutFcs f.bytes
  let subs := d.openSubs.any (fun i => d.subMatch i b f.vid f.etype (d.appOf p f))
  let learn : Bool := d.b (SWC_PORT_CFG p) 2 && d.b SWC_CTRL 1
  if s = 0 || (s = 1 && !(isSupervision f) && !subs) then (true, d.cnt (SWC_CNT 1))
  else
    let d := if learn then d.fdbLearn p (srcOf b) f.vid else d
    if s = 2 then (true, d.cnt (SWC_CNT 1))
    else if !(d.member f.vid p) then (false, d.cnt (SWC_CNT 0))
    else match d.redJudge p f entered with
      | (.pass, d) => (false, d.forwardBy p f done)
      | (.drop, d) => (false, d)
      | (.hold, d) => (false, { d with red := { d.red with held := d.red.held ++
          [{ port := p, sa := srcOf f.bytes, seq := f.redSeq, f := f }] } })

/-- The tentative entry of a cut-through resolves (R340): the frames held for it are dropped as duplicates, or judged anew.
DEDUCED, log entry 60. -/
def Dev.tentative (d : Dev) (k sa seq : Nat) (good : Bool) : Dev :=
  let mine := fun (h : HeldFrame) => h.port / 2 == k && h.sa == sa && h.seq == seq
  let held := d.red.held.filter mine
  let l := d.dupTable k
  let here := fun (e : DupEntry) => e.sa == sa && e.seq == seq && e.tentative
  let d := { d with red := { d.red with held := d.red.held.filter (fun h => !(mine h)) } }
  if good then
    (d.setDup k (l.map (fun e => if here e then { e with tentative := false } else e))).cnt (RED_PAIR_CNT k 0) held.length
  else
    let d := (d.setDup k (l.filter (fun e => !(here e)))).cnt (RED_PAIR_CNT k 5)
    held.foldl (fun d h => match d.redJudge h.port h.f false with
      | (.pass, d) => d.forwardBy h.port h.f []
      | (_, d) => d) d

end Sys2Proof.Machine
end

