-- ==== Sys2Proof/Machine/Egress.lean ====
section
/-!
DEFINITION. What an egress port sends (R311-R314, R320, R325-R327): the start of a frame, the claim of a channel output and
the yield that it may force, the selection of a forwarded frame, the end of a transmission with the transmit monitor
(R296-R298), and cut-through.
-/
namespace Sys2Proof.Machine

/-! ### The monitor and the folds (R296-R298, R352) -/

/-- A port output fault (R297). -/
def Dev.outputFault (d : Dev) (p : Nat) : Dev :=
  ((((d.cnt (MAC_MON_MISMATCH p)).w (MAC_MON_LAST p) d.tb.st).ringBit (.mac p) 3).strike (0xE0 + p))

/-- A frame was seen on the wire: its digest enters the running fold and the observed fold. DEDUCED, log entry 53. -/
def Dev.monSeen (d : Dev) (p : Nat) (dg : Word) : Dev :=
  (d.w (MAC_MON_DIGEST p) ((d.r (MAC_MON_DIGEST p)).rotateLeft 1 ^^^ dg)).foldObs dg

/-- A frame enters the list of those that the monitor expects. -/
def Dev.intend (d : Dev) (p : Nat) (i : Intent) : Dev :=
  if d.b (MAC_MON_CFG p) 0 then d.setPort p (fun m => { m with intended := m.intended ++ [i] }) else d

/-- The frame of `s` leaves that list: it was cut off, or ends in another way than it was meant to. -/
def Dev.unintend (d : Dev) (p : Nat) (s : Sending) : Dev :=
  d.setPort p (fun m =>
    { m with intended := if (m.intended.getLast?).any (fun i => i.dig == some (crc32c s.sent)) then m.intended.dropLast else m.intended })

/-- Digests intended and seen are compared, and the entry leaves the list. -/
def Dev.monJudge (d : Dev) (p : Nat) (i : Intent) (dig seen : Word) : Dev :=
  let d := (d.setPort p (fun m => { m with intended := m.intended.erase i })).foldInt dig
  if dig = seen then d else d.outputFault p

/-- A frame that was seen is compared with the first one that is due (R296, R297); where that one's bytes are not known yet, once
they are. DEDUCED, log entry 53. -/
def Dev.monCompare (d : Dev) (p : Nat) (seen : List Byte) : Dev :=
  let dg := crc32c seen
  let d := d.monSeen p dg
  match (d.port p).intended.find? (fun i => i.seen.isNone && i.due ≤ d.tb.now) with
  | none => d.outputFault p
  | some i => match i.dig with
    | some g => d.monJudge p i g dg
    | none => d.setPort p (fun m => { m with intended := m.intended.map (fun x => if x = i then { x with seen := some dg } else x) })

/-- An intended frame has not been seen within 1 µs after it was due. -/
def Dev.monMissing (d : Dev) (p : Nat) : Dev :=
  match (d.port p).intended.find? (fun i => i.seen.isNone && i.dig.isSome && i.due + 1000 ≤ d.tb.now) with
  | none => d
  | some i => ((d.setPort p (fun m => { m with intended := m.intended.erase i })).foldInt (i.dig.getD 0)).outputFault p

/-! ### Start -/

/-- The bytes of a gap after a frame of `n` bytes, and the deficit idle count after it: 12, at 10 Gb/s such that the next frame
begins on a group of four bytes, with at most three bytes owed (R281). -/
def Dev.gapOf (d : Dev) (p n : Nat) : Nat × Nat :=
  let dic := (d.port p).dic
  let r := (8 + n + 12) % 4
  if d.portRate p ≠ 10000 || r = 0 then (12, dic)
  else if dic + r ≤ 3 then (12 - r, dic + r) else (16 - r, dic + r - 4)

/-- Frame `b` goes onto the wire as entry `e`, `lead` byte times after the instant `base`. -/
def Dev.launch (d : Dev) (p base lead : Nat) (e : QEntry) (b : List Byte) (one sec : Bool) (x : Option Pdelay) : Dev :=
  let fin := base + d.bytesNs p (lead + 8 + b.length)
  let (gap, dic) := d.gapOf p b.length
  let s : Sending := { e := e, since := base + d.bytesNs p lead, endAt := fin, sent := b, stomp := false, lost := false, pdelay := x,
                       onestep := one, secured := sec }
  let d := d.setPort p (fun m =>
    { m with sending := some s, freeAt := base + d.bytesNs p (lead + 8 + b.length + gap), dic := dic })
  (d.intend p { dig := some (crc32c b), seen := none, due := fin, cut := none }).emit (.frame p b)

/-- The frame of an entry goes onto the wire, its first preamble byte `lead` byte times after `base`; MACsec may hold it back
(R285, R505). -/
def Dev.startFrame (d : Dev) (p base lead : Nat) (e : QEntry) : Dev :=
  let (d, r) := d.txFrame p base lead e.f
  match r with
  | none => d
  | some (b, one, sec) =>
    (d.sample p true (e.f.withBody (d.tagEdit p e.f (cutFcs e.f.bytes)))).launch p base lead e b one sec none

/-! ### The end of a transmission (R281, R291, R300) -/

/-- The bytes of a frame, whose preamble began at `since`, that have left by the first byte boundary after `t`. -/
def Dev.bytesGone (d : Dev) (p since t : Nat) : Nat := (t - since) * d.portRate p / 8000 + 1 - 8

/-- Tallies of a frame that has ended after `n` bytes. -/
def Dev.tallyTx (d : Dev) (p : Nat) (s : Sending) (n : Nat) : Dev :=
  let d := d.tally p 3 n
  if s.lost then d.tally p 47 1
  else
    let d := d.tally p (11 + lengthBin n) 1
    if s.stomp then d.tally p 44 1
    else
      let b := d.tagEdit p s.e.f (cutFcs s.e.f.bytes)
      let d := (d.tally p 2 n).tally p (21 + castOf b) 1
      let d := if tagCount (d.tpid p) b = 0 then d else d.tally p 25 1
      let d := if ptpEvent (d.tpid p) b then d.tally p 29 1 else d
      let d := if s.secured then d.tally p 31 1 else d
      let d := if s.onestep then d.tally p 32 1 else d
      if s.e.f.chanOut then d.tally p 33 1 else d

/-- The frame that port `p` was sending is over, where its last byte has left or its link is lost: the port is free, and the frame
is counted. -/
def Dev.txDone (d : Dev) (p : Nat) : Dev :=
  match (d.port p).sending with
  | none => d
  | some s =>
    if !s.lost && (s.sent = [] || d.tb.now < s.endAt) then d
    else
      let d := (d.credits p).setPort p (fun m => { m with sending := none })
      let d := if s.lost then d.unintend p s else d
      d.tallyTx p s (if s.lost then (let n := d.bytesGone p s.since s.endAt; if s.sent = [] then n else Nat.min n s.sent.length)
        else s.sent.length)

/-- The end of a frame with an inverted FCS. -/
def stompBytes (b : List Byte) : List Byte := b ++ (fcsOf b).map (fun x => ~~~ x)

/-- The frame in transmission, of which `whole` are the bytes, ends at the next byte boundary with an inverted FCS; the monitor
expects it as it ends then (R296, R313, R326, R327). -/
def Dev.stompNow (d : Dev) (p : Nat) (s : Sending) (whole : List Byte) : Dev :=
  let b := stompBytes (whole.take (d.bytesGone p s.since d.tb.now))
  let fin := d.tb.now + d.bytesNs p 5
  let s' := { s with sent := b, stomp := true, endAt := fin, e := { s.e with f := { s.e.f with stomped := true } } }
  let d := ((d.credits p).unintend p s).setPort p (fun m => { m with sending := some s', freeAt := fin + d.bytesNs p 12 })
  (d.intend p { dig := some (crc32c b), seen := none, due := fin, cut := none }).emit (.stomp p)

/-! ### Yield and claim (R312-R314) -/

/-- A frame that yields is counted, and goes back to the head of its class as `e`, unless it has yielded too often (R313). -/
def Dev.yieldBack (d : Dev) (p : Nat) (e : QEntry) : Dev :=
  let d := (d.setPort p (fun m => { m with sending := none })).cnt (SWC_EGR_CNT p 3)
  if d.f (SWC_PORT_CFG p) 7 4 ≤ e.yields then d.cnt (SWC_EGR_CNT p 4)
  else d.setQueue p e.f.cls ({ e with yields := e.yields + 1 } :: d.queue p e.f.cls)

/-- A cut-through copy yields whose frame still arrives: its place at the head of its class waits for the rest, and the digest
of what was sent follows with it.
DEDUCED, log entry 53; DEDUCED, log entry 54; DESIGN CHOICE, log entry 92. -/
def Dev.yieldCut (d : Dev) (p : Nat) (s : Sending) : Dev :=
  let n := d.bytesGone p s.since d.tb.now
  let d := d.intend p { dig := none, seen := none, due := d.tb.now + d.bytesNs p 5, cut := some (s.e.f.inPort, n) }
  let d := (d.emit (.stomp p)).tallyTx p { s with stomp := true } (n + 4)
  let d := d.setPort s.e.f.inPort (fun m =>
    { m with cut := m.cut.map (fun c => { c with egress := c.egress.filter (· != p), gone := c.gone ++ [p] }) })
  d.yieldBack p { s.e with charge := .arriving, cells := 0 }

/-- The frame under way makes room for a claim (R313). DEDUCED, log entry 54. -/
def Dev.yield (d : Dev) (p : Nat) : Dev :=
  match (d.port p).sending with
  | none => d
  | some s =>
    if s.e.f.chanOut then d
    else if s.sent = [] then (d.credits p).yieldCut p s
    else
      let d := d.stompNow p s s.sent
      let n := match (d.port p).sending with | some x => x.sent.length | none => 0
      let d := d.tallyTx p { s with stomp := true } n
      match s.pdelay with
      | some x => (d.setPort p (fun m => { m with sending := none, pdelay := x :: m.pdelay })).cnt (SWC_EGR_CNT p 3)
      | none => d.yieldBack p s.e

/-- Wire start of a channel output that claims port `p` now (R314): an instant, and the byte times that pass from there; on the
grid of the slow speeds the instant itself. DEDUCED, log entry 50. -/
def Dev.wireStart (d : Dev) (p : Nat) : Nat × Nat :=
  let grid := if d.portRate p = 100 then 80 else if d.portRate p = 10 then 800 else 0
  if grid = 0 then (d.tb.now + 40, 16)
  else
    let ph := (d.port p).phase
    (ph + ceilDiv (d.tb.now + 40 + d.bytesNs p 16 - ph) grid * grid, 0)

/-- The port can carry a channel output now: no other one is being sent on it (R244). DEDUCED, log entry 54. -/
def Dev.claimable (d : Dev) (p : Nat) : Bool :=
  match (d.port p).sending with
  | some s => !s.e.f.chanOut
  | none => true

/-- The first channel output that waits claims the port, in Run (R27, R312, R355, R356). The second copy of a pair's output,
marked in `yields`, is not counted again. DEDUCED, log entry 25; DEDUCED, log entry 53. -/
def Dev.claim (d : Dev) (p : Nat) : Dev :=
  let d := d.txDone p
  match tget [] d.swc.chanQ p with
  | [] => d
  | (k, e) :: rest =>
    if d.mode ≠ .run || !(d.claimable p) then d
    else
      let d := { d with swc := { d.swc with chanQ := tset d.swc.chanQ p rest } }
      let d :=
        if d.red.demoted then (if e.yields = 0 then d.suppressed else d)
        else if e.f.cmd && !d.gateOpen then (if e.yields = 0 then d.blocked else d)
        else if !(d.linkUp p) || d.portRetired p || !(d.txOn p) then d.tally p 47 1
        else
          let d := (d.yield p).credits p
          let e := { e with f := { e.f with st := d.tb.st, gen := d.gen, enqSt := d.tb.st } }
          let (base, lead) := d.wireStart p
          d.startFrame p base lead e
      if d.chan (keyChan k) |>.mig.isSome then d.migrateDone (keyChan k) else d

/-- A released FRAME output for port `p` waits for its port and claims it when it can (R244, R312, R336): on an active pair,
one copy on each port whose link is up. DEDUCED, log entry 25. -/
def Dev.chanFrame (d : Dev) (p k : Nat) (f : QFrame) : Dev :=
  let (l, d) := if d.inPair p then d.pairCopies (p / 2) f [p] else ([(p, f)], d)
  (List.range l.length).foldl (fun (d : Dev) i => match l[i]? with
    | some (q, f) =>
      let e : QEntry := { f := f, cells := 0, charge := .none, yields := i, cell := 0, pe := none }
      let d := { d with swc := { d.swc with chanQ := tset d.swc.chanQ q (tget [] d.swc.chanQ q ++ [(k, e)]) } }
      d.claim q
    | none => d) d

/-! ### Selection (R311, R320, R325, R300) -/

/-- Bytes of a frame on the wire behind its SFD: after tag editing, protection and padding. -/
def Dev.wireLen (d : Dev) (p : Nat) (f : QFrame) : Nat :=
  Nat.max 60 ((d.tagEdit p f (cutFcs f.bytes)).length + (if d.b (MAC_SEC_CFG p) 0 then 32 else 0)) + 4

/-- Every frame of a queue is discarded because the port cannot send (R300, R302). -/
def Dev.discardAll (d : Dev) (p q : Nat) : Dev :=
  let l := d.queue p q
  let kept := l.filter (fun e => e.charge == .arriving)
  if l.length = kept.length then d else ((d.credit p q).setQueue p q kept).tally p 47 (l.length - kept.length)

/-- A sealed FRAME output that will claim port `p`: its release time (R312). -/
def Dev.claimsAhead (d : Dev) (p : Nat) : List Word :=
  let hits := fun (o : Out) =>
    o.isSealed && !o.muted && fld o.desc 3 0 == 0 &&
      (let q := fld o.desc 8 4; q == p || (d.inPair p && q < 20 && q / 2 == p / 2))
  (d.cut.engines.map (fun (x : Nat × Engine) => (x.2.outq.filter hits).map (fun o => o.rel))).flatten

/-- A frame of `n` bytes started now is off the wire, gap included, before the next claim (R312): outside Run none comes. -/
def Dev.releaseGuard (d : Dev) (p n : Nat) : Bool :=
  d.mode != .run || ((tget [] d.swc.chanQ p).isEmpty &&
    (d.claimsAhead p).all (fun t => (d.bytesNs p (8 + n + (d.gapOf p n).1) : Int) ≤ stDiff t d.tb.st))

/-- Its last byte comes before gate `q` closes (R320). -/
def Dev.gateGuard (d : Dev) (p q n : Nat) : Bool :=
  match d.gateLeft p q with
  | some t => d.bytesNs p (8 + n) ≤ t
  | none => true

/-- Class `q` may start its head frame. -/
def Dev.eligible (d : Dev) (p q : Nat) : Bool :=
  match d.queue p q with
  | [] => false
  | e :: _ =>
    let n := d.wireLen p e.f
    e.charge != .bolt && e.charge != .arriving && d.gateOpenQ p q && d.creditOk p q && !(d.b (MAC_PAUSE_STAT p) q) &&
      d.gateGuard p q n && d.releaseGuard p n

/-- A free port selects a frame, after the gate changes of this tick; `ecc` is what the read of its first cell finds (R311,
R326). -/
def Dev.select (d : Dev) (p : Nat) (ecc : Ecc) : Dev :=
  let d := ((d.gateCatch p).claim p).credits p
  if !(d.linkUp p) || d.portRetired p then d.each (List.range 8) (fun d q => d.discardAll p q)
  else
    let d := d.each (List.range 8) (fun d q => d.dropAged p q)
    if (d.port p).sending.isSome || d.tb.now < (d.port p).freeAt || !(d.txOn p) then d
    else match ((List.range 8).reverse).find? (fun q => d.eligible p q) with
      | none => d
      | some q => match d.queue p q with
        | [] => d
        | e :: rest =>
          let (bad, d) := (d.setQueue p q rest).cellRead e.cell ecc
          if bad then d.cellDrop else d.startFrame p d.tb.now 0 e

/-- EGRESS_SELECT on an external port, or on PE (20) or PH (21). -/
def Dev.egressSelect (d : Dev) (p : Nat) (ecc : Ecc) : Dev := if p < 20 then d.select p ecc else d.innerSend p ecc

/-! ### The end of a transmission, at the port -/

/-- The cell that a port reads for a frame under way, `cell`, may be uncorrectable: the frame is stomped (R326). -/
def Dev.cellStomp (d : Dev) (p : Nat) (cell : Ecc) : Dev :=
  match (d.port p).sending with
  | some s =>
    if s.sent = [] || s.stomp || s.lost || s.e.f.chanOut || s.pdelay.isSome || s.endAt ≤ d.tb.now then d
    else
      let (bad, d) := d.cellRead ((s.e.cell + (d.bytesGone p s.since d.tb.now + 32) / 128) % 49152) cell
      if bad then (d.stompNow p s s.sent).cnt (SWC_EGR_CNT p 7) else d
  | none => d

/-- FRAME_TRANSMIT_END: a port has finished its frame (R281, R296); `seen` is what the monitor decoded since, `cell` what the
last read of a cell for a frame under way found. DESIGN CHOICE, log entry 2. -/
def Dev.txEnd (d : Dev) (p : Nat) (seen : Option (List Byte)) (cell : Ecc) : Dev :=
  let d := (d.cellStomp p cell).txDone p
  let d := match seen with
    | some b => if d.b (MAC_MON_CFG p) 0 then d.monCompare p b else d
    | none => d
  d.claim p

/-! ### Cut-through (R327, R340, R341) -/

/-- An idle egress may take a cut-through copy of class `q` from ingress `p`; its length is taken as the longest that the
ingress accepts. DEDUCED, log entry 57. -/
def Dev.cutTo (d : Dev) (p q e : Nat) : Bool :=
  let n := d.f (MAC_CTRL p) 29 16
  d.b (SWC_Q_MODE e q) 1 && d.portRate e ≤ d.portRate p && (d.port e).sending.isNone && (d.queue e q).isEmpty &&
    (d.port e).freeAt ≤ d.tb.now && d.linkUp e && !(d.portRetired e) && d.txOn e && d.gateOpenQ e q && d.creditOk e q &&
    !(d.b (MAC_PAUSE_STAT e) q) && d.gateGuard e q n && d.releaseGuard e n

/-- The header of a frame is complete: the copies that qualify begin (R327). -/
def Dev.cutThrough (d : Dev) (p : Nat) (f : QFrame) : Dev :=
  let f := d.redSeen p f
  let b := f.bytes
  let k := p / 2
  let tagged : Bool := d.inPair p && d.pairHsr k && f.red == 2
  let dup : Bool := tagged && (d.dupFind k (srcOf b) f.redSeq).isSome
  if d.dpState p ≠ 3 || !(d.member f.vid p) || isLinkLocal b || dup || (d.inPair p && !tagged) then d
  else
    let subs := d.openSubs.filter (fun i => d.subMatch i b f.vid f.etype (beAt b (typeOfs (d.tpid p) b + (if tagged then 8 else 2)) 2))
    let (raw, l) := d.route p subs f
    let raw := if d.b (RED_PAIR_CFG k) 7 then raw else []
    let l := if tagged then [] else l.filter (fun q => q < 20 && !(d.inPair q))
    let d := d.each (raw ++ l) (fun d q => ((d.gateCatch q).txDone q).credits q)
    let outs := (raw ++ l).filter (fun q => d.cutTo p f.cls q)
    if outs.isEmpty then d
    else
      let through : Bool := d.f (RED_PAIR_CFG k) 4 3 == 2
      let d := if tagged && !through then d.dupEnter k (srcOf b) f.redSeq false true else d
      let d := d.setPort p (fun m =>
        { m with cut := some { egress := outs, gone := [], cls := f.cls,
                               tentative := if tagged && !through then some (k, srcOf b, f.redSeq) else none } })
      let (cell, d) := d.allocCell 1
      d.each outs (fun d q =>
        let e : QEntry :=
          { f := { f with cut := true, enqSt := d.tb.st }, cells := 0, charge := .none, yields := 0, cell := cell, pe := none }
        (d.setPort q (fun m =>
          { m with sending := some { e := e, since := d.tb.now, endAt := d.tb.now, sent := [], stomp := false, lost := false,
                                     pdelay := none, onestep := false, secured := false } })).cnt (SWC_EGR_CNT q 6))

/-- The frame of a cut-through from ingress `p` has ended: its copy on port `q` gets its bytes, or ends at the next byte boundary
with an inverted FCS (R327). A copy that was cut off stays so (R300, R302). -/
def Dev.cutCopy (d : Dev) (p q : Nat) (f : QFrame) (good : Bool) : Dev :=
  match (d.port q).sending with
  | some s =>
    if s.e.f.inPort = p && s.sent = [] && s.e.f.cut && !s.lost then
      if good then
        (d.setPort q (fun m => { m with sending := none })).startFrame q s.since 0
          { s.e with f := { f with cut := true, enqSt := s.e.f.enqSt } }
      else
        let whole := d.tagEdit q f (cutFcs f.bytes)
        ((d.emit (.frame q (whole.take (d.bytesGone q s.since d.tb.now)))).stompNow q s whole).cnt (SWC_EGR_CNT q 7)
    else d
  | none => d

/-- The same for a port `q` whose copy has yielded: what it sent is known now, and a good frame takes its place at the head of
its class. DEDUCED, log entry 54. -/
def Dev.cutGone (d : Dev) (p q cls : Nat) (f : QFrame) (good : Bool) : Dev :=
  let d := match (d.port q).intended.find? (fun i => i.dig.isNone && (match i.cut with | some (x, _) => x == p | none => false)) with
    | some i =>
      let n := match i.cut with | some (_, n) => n | none => 0
      let b := (d.tagEdit q f (cutFcs f.bytes)).take n
      let dg := crc32c (stompBytes b)
      let d := d.emit (.frame q b)
      match i.seen with
      | some x => d.monJudge q i dg x
      | none => d.setPort q (fun m =>
          { m with intended := m.intended.map (fun x => if x = i then { x with dig := some dg, cut := none } else x) })
    | none => d
  let mine := fun (e : QEntry) => e.charge == .arriving && e.f.inPort == p
  let n := cellsOf f.bytes.length
  let c : Charge := if n ≤ d.f (SWC_Q_LIM q cls) 15 0 - d.charged q cls .reserve then .reserve else .pool
  if good then
    (d.setQueue q cls ((d.queue q cls).map (fun e =>
      if mine e then { e with f := { f with cut := true, enqSt := e.f.enqSt }, cells := n, charge := c } else e))).poolLow
  else d.setQueue q cls ((d.queue q cls).filter (fun e => !(mine e)))

/-- The ingress of a cut-through has ended (R327). -/
def Dev.cutEnd (d : Dev) (p : Nat) (f : QFrame) (good : Bool) : Dev :=
  match (d.port p).cut with
  | none => d
  | some c =>
    let d := d.setPort p (fun m => { m with cut := none })
    (d.each c.egress (fun d q => d.cutCopy p q f good)).each c.gone (fun d q => d.cutGone p q c.cls f good)

end Sys2Proof.Machine
end

