-- ==== Sys2Proof/Machine/RedOps.lean ====
section
/-!
DEFINITION. The device pair (12_redundancy_failover.md): heartbeats (R348-R353), the claim gate (R354-R356), the pattern book
of a spare (R345-R347), preparation and takeover (R359-R361).
-/
namespace Sys2Proof.Machine

/-! ### State and message -/

/-- The chain of a channel in the pattern book is unbroken (R345). -/
def BookChan.ready (b : BookChan) : Bool := b.ckpt.isSome && !b.broken

def BookChan.empty : BookChan := { ckpt := none, broken := false, entries := [], cut := none }

def Dev.bookOf (d : Dev) (c : Nat) : BookChan := tget BookChan.empty d.red.book c

/-- Channels that are ARMED. -/
def Dev.armed (d : Dev) : List Nat := (tkeys d.cut.chans).filter (fun c => (d.chan c).st == .armed)

/-- RED_STAT.book_ready. -/
def Dev.bookReady (d : Dev) : Bool := d.armed.all (fun c => (d.bookOf c).ready)

/-- Channels with an unbroken chain, and those with a broken one (RED_BOOK_STAT). -/
def Dev.booksReady (d : Dev) : Nat := (d.red.book.filter (fun (x : Nat × BookChan) => x.2.ready)).length
def Dev.booksBroken (d : Dev) : Nat := (d.red.book.filter (fun (x : Nat × BookChan) => x.2.broken)).length

/-- State of the heartbeat (R348). DEDUCED, log entry 62. -/
def Dev.hbState (d : Dev) : Nat :=
  match d.mode with
  | .stop => 0 | .spare => 2 | .safe => 3 | .hold => 7
  | .run => if !d.gateOpen then 5 else if d.red.taking then 6 else if d.red.relinquish then 4 else 1
  | _ => 0

/-- This node's number. -/
def Dev.nodeId (d : Dev) : Nat := d.f SLV_NODE_CFG 2 0

/-- The heartbeat as it stands (R348). -/
def Dev.hbMsg (d : Dev) : List Byte :=
  let ws : List Nat :=
    [ d.red.hbSeq + 2 ^ 16 * d.nodeId + 2 ^ 19 * d.hbState + 2 ^ 22 * b2n d.bookReady + 2 ^ 23 * b2n d.gateOpen,
      d.f RED_CLAIM 15 0, (d.r RED_FOLD_INT).toNat, (d.r RED_FOLD_OBS).toNat, d.red.bookCnt ]
  let b := (ws.map (leBytes 4)).flatten
  b ++ leBytes 4 (crc32 b).toNat

/-! ### Boundaries (R349) -/

/-- Heartbeat slots that begin at `s0`. -/
def Dev.hbSlots (d : Dev) (s0 : Nat) : List Nat :=
  let p := d.f RED_HB_CFG 6 0
  if p = 0 then [] else (List.range (80 / p)).map (fun j => s0 + j * p)

/-- DEDUCED, log entry 62. -/
def Dev.ownSlots (d : Dev) : List Nat := d.hbSlots (d.f RED_HB_CFG 13 7)
def Dev.peerSlots (d : Dev) : List Nat := d.hbSlots (d.f RED_HB_CFG 20 14)

/-- Nanoseconds since the latest of the boundaries that lie at the starts of some slots; none where there are none.
DEDUCED, log entry 62. -/
def Dev.sinceSlot (d : Dev) (l : List Nat) : Option Nat :=
  let o := (d.tb.st - d.slv.grid).toNat % 10000
  (l.map (fun k => (o + 10000 - k * 125 % 10000) % 10000)).foldl (fun (m : Option Nat) x => match m with
    | none => some x
    | some y => some (Nat.min x y)) none

/-- Short time of that boundary. -/
def Dev.slotBoundary (d : Dev) (since : Nat) : Word := d.tb.st - w32 since

/-! ### The claim gate -/

/-- RED_CLAIM.highest takes a claim that is higher; a device in Run that sees one above its own closes its gate and suppresses
every output (R354, R356). DEDUCED, log entry 63. -/
def Dev.claimSeen (d : Dev) (claim : Nat) : Dev :=
  let before := d
  let up := claimHigher claim (d.f RED_CLAIM 31 16)
  let lost := d.mode = .run && d.paired && claimHigher claim (d.f RED_CLAIM 15 0) && !d.red.demoted
  if !up && !lost then d
  else
    let d := if up then d.wf RED_CLAIM 31 16 claim else d
    let d := if lost then ({ d with red := { d.red with demoted := true } }).ringBit .red 7 else d
    (d.pinsSeen before).roleView

/-- An equal claim from a lower node keeps the gate closed for miss_m1 + 1 peer periods (R354, R355), each of which ends with
the judgement of a boundary; the present one's is still to come. DEDUCED, log entry 63. -/
def Dev.claimTie (d : Dev) (claim node : Nat) : Dev :=
  let own := d.f RED_CLAIM 15 0
  if !(claimHigher claim own) && !(claimHigher own claim) && node < d.nodeId then
    let before := d
    let open_ := d.gateOpen
    let d := { d with red := { d.red with tie := d.f RED_DET_CFG 3 0 + 2 } }
    let d := if open_ then d.ringBit .red 8 else d
    (d.pinsSeen before).roleView
  else d

/-! ### Preparation and takeover -/

/-- Every ARMED channel with an unbroken chain is staged from its newest checkpoint (R359). -/
def Dev.stageBooks (d : Dev) : Dev :=
  d.each d.armed (fun d c =>
    let b := d.bookOf c
    if b.ready then (d.setChan c (fun ch => { ch with ckpt := b.ckpt })).restoreCkpt c else d)

def Dev.prepare (d : Dev) : Dev :=
  if d.mode = .spare && d.paired && !d.red.prepared then
    (({ d.stageBooks with red := { d.red with prepared := true } }).wb RED_STAT 2 true).ringBit .red 4
  else d

/-- A valid heartbeat discards the staging (R359). -/
def Dev.prepAbort (d : Dev) : Dev :=
  if d.red.prepared then
    (((({ d with red := { d.red with prepared := false } }).wb RED_STAT 2 false).satf RED_TAKE_STAT 23 16 1).ringBit .red 5)
  else d

/-- The journal of a channel at a takeover (R347): the active device's entries to the cut, then the spare's own stamped later
than 64 ns after it; the others are dropped and counted. -/
def Dev.takeJournal (d : Dev) (c : Nat) : Dev :=
  let b := d.bookOf c
  let after := fun (v : Ev) => match b.cut with
    | some t => !(reached (t + 64) v.stamp.st)
    | none => true
  let own := (d.chan c).journal
  let kept := own.filter after
  (d.setChan c (fun ch => { ch with journal := b.entries ++ kept })).satf RED_BOOK_CNT 31 16 (own.length - kept.length)

/-- The takeover of a spare (R360, R361). DEDUCED, log entry 63. -/
def Dev.takeover (d : Dev) (cause : Nat) : Dev :=
  let t := d.tb.st
  let chans := d.armed
  let claim := (d.f RED_CLAIM 31 16 + 1) % 65536
  let d := (d.wf RED_CLAIM 15 0 claim).wf RED_CLAIM 31 16 claim
  let d := if d.pwr.trans = .idle then d else (d.setPwr (fun p => { p with trans := .idle, pwrEn := true })).reqDone 7
  let staged := d.red.prepared
  let d := d.enterMode .run
  let d := { d with red := { d.red with prepared := false, taking := true, mismatch := 0 } }
  let d := d.wb RED_STAT 2 false
  let skip := d.f RED_CTRL 31 16
  let d := d.each (List.range 10) (fun d k =>
    let n := d.red.seqs.getD k (d.f (RED_PAIR_SEQ k) 15 0)
    d.wf (RED_PAIR_SEQ k) 15 0 ((n + skip) % 65536))
  let d := if staged then d else d.each chans (fun d c =>
    if (d.bookOf c).ready then (d.setChan c (fun ch => { ch with ckpt := (d.bookOf c).ckpt })).restoreCkpt c else d)
  let d := d.each chans (fun d c =>
    if (d.bookOf c).ready then (d.takeJournal c).replayFrom c t true
    else
      let d := d.setChan c (fun ch => { ch with ckpt := none, startAt := none, journal := [], takeover := true })
      (d.restoreCkpt c).satf RED_TAKE_STAT 31 24 1)
  let d := d.takingDone
  (((d.satf RED_TAKE_STAT 7 0 1).wf RED_TAKE_STAT 10 8 cause).w RED_TAKE_ST t).ringBit .red 6

/-! ### Heartbeats -/

/-- A heartbeat boundary of this device (R346, R348, R352); the device that is in Run with its gate open is the active one.
DEDUCED, log entry 62. -/
def Dev.hbSend (d : Dev) : Dev :=
  match d.sinceSlot d.ownSlots with
  | none => d
  | some since =>
    let b := d.slotBoundary since
    if !d.paired || !(d.modeIn [.stop, .run, .hold, .spare, .safe]) || 125 ≤ since || d.red.sentFor = some b then d
    else
      let d := { d with red := { d.red with sentFor := some b, hbSeq := wrapAdd 16 d.red.hbSeq 1 } }
      let i := d.red.foldInt
      let o := d.red.foldObs
      let d := (d.w RED_FOLD_INT i).w RED_FOLD_OBS o
      let d := { d with red := { d.red with foldInt := 0, foldObs := 0 } }
      let d := d.each (List.range 20) (fun d p => d.w (MAC_MON_DIGEST p) 0)
      let d := if d.hbState = 1 && i != o then d.ringBit .red 3 else d
      let d := if d.hbState = 1 || d.hbState = 4 || d.hbState = 6 then
          let (h, d) := d.free
          d.bookPut h 0 0 (((List.range 10).map (fun k => leBytes 2 (d.f (RED_PAIR_SEQ k) 15 0))).flatten)
        else d
      if d.b RED_HB_CFG 22 then d.emit (.hbo ([0x55, 0x55, 0xD5] ++ d.hbMsg)) else d

/-- What a spare does with a valid heartbeat of the peer (R353, R359, R360). -/
def Dev.hbSpare (d : Dev) (first : Bool) (state : Nat) (same : Bool) : Dev :=
  let d := d.prepAbort
  if d.mode ≠ .spare then d
  else if state = 3 then d.takeover 3
  else if state = 4 then d.takeover 4
  else if state = 1 && first then
    if same then { d with red := { d.red with mismatch := 0 } }
    else
      let n := d.red.mismatch + 1
      let d := ({ d with red := { d.red with mismatch := n } }).ringBit .red 3
      if d.f RED_DET_CFG 11 8 + 1 ≤ n then d.takeover 2 else d
  else if first then { d with red := { d.red with mismatch := 0 } }
  else d

/-- A heartbeat arrives (R349, R354): path 0 the ring, 1 HBI. DEDUCED, log entry 62; DESIGN CHOICE, log entry 66. -/
def Dev.hbReceive (d : Dev) (path : Nat) (msg : List Byte) : Dev :=
  let on := if path = 0 then d.b RED_HB_CFG 21 else d.b RED_HB_CFG 22
  if !d.paired || !on then d
  else if leAt msg 20 4 ≠ (crc32 (msg.take 20)).toNat then d.satf RED_HB_CNT 15 0 1
  else
    let w0 := w32 (leAt msg 0 4)
    let seq := fld w0 15 0
    let node := fld w0 18 16
    let inTime : Bool := match d.sinceSlot d.peerSlots with
      | some s => d.f RED_DET_CFG 27 16 ≠ 0 && s ≤ d.f RED_DET_CFG 27 16
      | none => false
    if node ≠ d.f RED_CTRL 4 2 || !inTime then d
    else
      let gap : Bool := match tfind d.red.peerSeq path with | some p => seq != (p + 1) % 65536 | none => false
      let d := if gap then d.satf RED_HB_CNT 31 16 1 else d
      let first := tfind d.red.peerSeq (1 - path) != some seq
      let d := { d with red := { d.red with peerSeq := tset d.red.peerSeq path seq,
                                            ringOk := d.red.ringOk || path = 0, hboOk := d.red.hboOk || path = 1 } }
      let d := d.wb RED_PATH_STAT (16 + path) false
      let claim := leAt msg 4 2
      let state := fld w0 21 19
      let d := d.w RED_PEER_STAT (w32 (state + 8 * fld w0 22 22 + 16 * fld w0 23 23 + 256 * node + 65536 * claim))
      let d := (d.claimSeen claim).claimTie claim node
      d.hbSpare first state (leAt msg 8 4 == leAt msg 12 4)

/-- A consecutive miss count after one more boundary. -/
def missNext (ok : Bool) (n : Nat) : Nat := if ok then 0 else Nat.min 15 (n + 1)

/-- A path's fault is flagged when its count reaches the limit that both paths together have not (R351).
DEDUCED, log entry 62. -/
def Dev.pathFault (d : Dev) (path miss both : Nat) : Dev :=
  let lim := d.f RED_DET_CFG 3 0 + 1
  if miss = lim && both < lim && !(d.b RED_PATH_STAT (16 + path)) then
    (d.wb RED_PATH_STAT (16 + path) true).ringBit .red 1
  else d

/-- window_ns after a peer boundary (R351, R355). -/
def Dev.missCheck (d : Dev) : Dev :=
  match d.sinceSlot d.peerSlots with
  | none => d
  | some since =>
    let b := d.slotBoundary since
    if !d.paired || since < d.f RED_DET_CFG 27 16 || d.red.checkedFor = some b then d
    else
      let before := d
      let r := d.red.ringOk && d.b RED_HB_CFG 21
      let h := d.red.hboOk && d.b RED_HB_CFG 22
      let ring := missNext r (d.f RED_PATH_STAT 3 0)
      let hbo := missNext h (d.f RED_PATH_STAT 7 4)
      let both := missNext (r || h) (d.f RED_PATH_STAT 11 8)
      let was := d.f RED_PATH_STAT 11 8
      let d := { d with red := { d.red with ringOk := false, hboOk := false, checkedFor := some b, tie := d.red.tie - 1 } }
      let d := (((d.wf RED_PATH_STAT 3 0 ring).wf RED_PATH_STAT 7 4 hbo).wf RED_PATH_STAT 11 8 both).pinsSeen before
      let d := d.roleView
      let d := (d.pathFault 0 ring both).pathFault 1 hbo both
      let d := if both = d.f RED_DET_CFG 7 4 + 1 then d.prepare else d
      if both = d.f RED_DET_CFG 3 0 + 1 && was ≠ both then
        if d.mode = .spare then d.takeover 1
        else if d.mode = .run then d.ringBit .red 2 else d
      else d

/-! ### Commands and the pattern book -/

/-- A write of RED_CMD (R364). -/
def Dev.redCmd (d : Dev) (who : Initiator) (v : Word) : Dev :=
  if fld v 15 8 ≠ 0xA5 then d
  else
    let d :=
      if bitOf v 0 then (if d.mode = .spare then d.takeover 5 else d.refuse who RED_CMD) else d
    if bitOf v 1 then
      if d.hbState = 1 then { d with red := { d.red with relinquish := true } } else d.refuse who RED_CMD
    else d

/-- A short time of node `n` in this node's short time (R379). -/
def Dev.ringMap (d : Dev) (n : Nat) (s : Word) : Word := s + d.r (SLV_MAP n)

/-- Channel `c` exists here with the pack of the record (R345). -/
def Dev.bookHome (d : Dev) (c pack : Nat) : Bool := (d.chan c).st != .free && fld (d.desc c 0) 15 0 == pack

/-- The channel's book takes a change. -/
def Dev.setBook (d : Dev) (c : Nat) (f : BookChan → BookChan) : Dev :=
  { d with red := { d.red with book := tmod BookChan.empty d.red.book c f } }

/-- Entries older than the last sealed input of the newest checkpoint leave both journals (R345). -/
def Dev.bookTrim (d : Dev) (c : Nat) (st : Word) : Dev :=
  let keep := fun (v : Ev) => !(stBefore v.stamp.st st)
  (d.setBook c (fun b => { b with entries := b.entries.filter keep })).setChan c (fun ch => { ch with journal := ch.journal.filter keep })

/-- A chain breaks until the next full checkpoint. -/
def Dev.bookBreak (d : Dev) (c : Nat) : Dev :=
  if (d.bookOf c).broken then d else (d.setBook c (fun b => { b with broken := true })).ringBit .red 10

/-- The spare takes a record of the pattern book (R345-R347).
DESIGN CHOICE, log entry 64; DESIGN CHOICE, log entry 66. -/
def Dev.bookRecord (d : Dev) (r : BookRecord) : Dev :=
  if d.mode ≠ .spare then d
  else
    let d := { d with red := { d.red with bookCnt := wrapAdd 32 d.red.bookCnt 1 } }
    match r with
    | .redState l => { d with red := { d.red with seqs := l.map BitVec.toNat } }
    | .event node pack v =>
      if !(d.bookHome v.chan.val pack.toNat) then d.satf RED_BOOK_CNT 15 0 1
      else
        let st := d.ringMap node.val v.st
        let ev := { mkEv v.src.val v.unit.toNat ⟨st, v.quarter.val, d.gen⟩ v.seq.toNat v.payload with chan := v.chan.val }
        d.setBook v.chan.val (fun b =>
          { b with entries := b.entries ++ [ev],
                   cut := match b.cut with | some t => some (if stBefore t st then st else t) | none => some st })
    | .checkpoint node chan pack full epoch ctx cells sealed late =>
      let c := chan.val
      if !(d.bookHome c pack.toNat) then d.satf RED_BOOK_CNT 15 0 1
      else
        let b := d.bookOf c
        let last := sealed.map (fun x => (d.ringMap node.val x.1, x.2.toNat))
        let mk := fun (old : Memory) => ({ ctx := ctx, cells := cells.foldl (fun m x => mset m x.1 x.2) old, lastSealed := last,
                                           lateCount := late, epoch := epoch, full := full } : Ckpt)
        let trim := fun (d : Dev) => match last with | some x => d.bookTrim c x.1 | none => d
        if full then trim (d.setBook c (fun b => { b with ckpt := some (mk []), broken := false }))
        else match b.ckpt with
          | some k =>
            if b.broken || epoch ≠ k.epoch + 1 then d.bookBreak c
            else trim (d.setBook c (fun b => { b with ckpt := some (mk k.cells) }))
          | none => d.bookBreak c

/-- Role and gate have disagreed for longer than 10 µs (R363). -/
def Dev.redFlag (d : Dev) : Dev :=
  match d.red.differ with
  | some t => if t + 10000 < d.tb.now && !(d.b RED_STAT 1) then (d.wb RED_STAT 1 true).ringBit .red 0 else d
  | none => d

end Sys2Proof.Machine
end

