-- ==== Sys2Proof/Machine/RingOps.lean ====
section
/-!
DEFINITION. The Selvedge ring node (13_selvedge_ring.md): states, guardian, slot frames, alignment, RING outputs and events,
folding and closing.
-/
namespace Sys2Proof.Machine

/-! ### State -/

/-- Code of a ring state (R381). -/
def RingState.code : RingState → Nat
  | .off => 0 | .listen => 1 | .coldstart => 2 | .integrating => 3 | .sync => 4 | .passive => 5 | .dupId => 6

def Dev.setSlv (d : Dev) (f : Ring → Ring) : Dev := { d with slv := f d.slv }

/-- SLV_STAT.state follows the state. -/
def Dev.ringState (d : Dev) (s : RingState) : Dev := (d.setSlv (fun r => { r with state := s })).wf SLV_STAT 2 0 s.code

def Dev.leads (d : Dev) : Bool := d.b SLV_STAT 3
def Dev.roundNo (d : Dev) : Nat := d.f SLV_ROUND 15 0
def Dev.setGrid (d : Dev) (g : Word) : Dev := (d.setSlv (fun r => { r with grid := g })).w SLV_GRID g
def Dev.setDelta (d : Dev) (n : Nat) : Dev := (d.setSlv (fun r => { r with delta := n })).w SLV_DELTA (w32 (n % 65536))

/-- The timers and waits of R381 are judged in these modes (R393). -/
def Dev.ringOn (d : Dev) : Bool := d.slv.state != .off && d.modeIn [.stop, .run, .hold, .spare, .safe]

/-- Length of the LISTEN timer, ns. -/
def Dev.listenTime (d : Dev) : Nat := 20000 + 1000 * d.nodeId

/-- SYNC is left. -/
def Dev.syncLost (d : Dev) : Dev :=
  let was := d.slv.state == .sync || d.slv.state == .passive
  let d := (d.ringState .integrating).setSlv (fun r => { r with goodTimes := 0 })
  if was then d.ringBit .slv 1 else d

/-- LISTEN is entered, its timer started. -/
def Dev.ringListen (d : Dev) : Dev :=
  ((d.ringState .listen).setSlv (fun r => { r with timer := d.tb.now, fresh := true, goodTimes := 0, noTime := 0 })).wb SLV_STAT 3 false

/-- The digest of the loom table (R371): the entries as 32-bit words, lowest byte first; a write in this tick does not count yet.
DEDUCED, log entry 65. -/
def Dev.loomDigest (d : Dev) : Word :=
  let entry := fun k => match tfind d.slv.loomOld k with
    | some (t, w) => if t = d.tb.now then w else d.r (SLV_LOOM k)
    | none => d.r (SLV_LOOM k)
  crc32 (((List.range 79).map (fun i => leBytes 4 (entry (i + 1)).toNat)).flatten)

/-- An entry of the loom table is about to be written (R371). -/
def Dev.loomWrite (d : Dev) (k : Nat) : Dev :=
  match tfind d.slv.loomOld k with
  | some (t, _) => if t = d.tb.now then d else d.setSlv (fun r => { r with loomOld := tset r.loomOld k (d.tb.now, d.r (SLV_LOOM k)) })
  | none => d.setSlv (fun r => { r with loomOld := tset r.loomOld k (d.tb.now, d.r (SLV_LOOM k)) })

/-- The node stops relaying and originates rounds, the first of which starts now (R371, R381). -/
def Dev.originate (d : Dev) : Dev :=
  let d := d.w SLV_LOOM_DIGEST d.loomDigest
  let d := ((d.ringState .coldstart).setGrid d.tb.st).setDelta 0
  let d := d.setSlv (fun r => { r with coldRounds := 0, inserted := [], fresh := false, error := 0 })
  (d.wf SLV_ROUND 15 0 0).cnt (SLV_CNT 11)

/-- The node follows `j`. -/
def Dev.ringFollow (d : Dev) (j : Nat) : Dev :=
  ((d.ringState .integrating).setSlv (fun r => { r with follow := j, fresh := true, goodTimes := 0, noTime := 0,
                                                        timer := d.tb.now })).wb SLV_STAT 3 false

/-- A leader is established or changed. -/
def Dev.leaderIs (d : Dev) (j : Nat) (known : Bool) : Dev :=
  if known && d.f SLV_STAT 6 4 = j then d else (d.wf SLV_STAT 6 4 j).ringBit .slv 7

/-- A duplicate ID (R380). -/
def Dev.dupIdFound (d : Dev) : Dev :=
  if d.slv.state = .dupId then d else (((d.ringState .dupId).wb SLV_STAT 3 false).cnt (SLV_CNT 13)).ringBit .slv 5

/-- A write of SLV_CTRL (R381). -/
def Dev.ringCtrl (d : Dev) (v : Word) : Dev :=
  let was := d.b SLV_CTRL 0
  let d := d.w SLV_CTRL (v &&& 0xF)
  if bitOf v 0 && !was then d.ringListen
  else if !(bitOf v 0) && was then
    ((d.ringState .off).wb SLV_STAT 3 false).setSlv (fun r => { r with heard := 0, inserted := [], closeRound := none })
  else d

/-! ### Slots and the guardian (R370-R374) -/

/-- This node owns slot `k` in the loom table; slot 0 belongs to the leader. -/
def Dev.ownsSlot (d : Dev) (k : Nat) : Bool :=
  if k = 0 then d.leads || d.slv.state == .coldstart
  else (d.b (SLV_LOOM k) 3 && d.f (SLV_LOOM k) 2 0 == d.nodeId) || (d.leads && !(d.b (SLV_LOOM k) 3))

/-- The guardian opens the path in this state (R373). -/
def Dev.guardian (d : Dev) (k : Nat) : Bool :=
  (d.slv.state == .sync || (d.slv.state == .coldstart && k == 0)) && (d.slv.state == .coldstart || d.b SLV_STAT 10) &&
    d.slv.error.natAbs ≤ 40

/-- Instant at which the path for slot `k` opens. -/
def Dev.slotOpen (d : Dev) (k : Nat) : Word := d.slv.grid + w32 (k * 125 + d.slv.delta)

/-- A slot frame (R369): header words, payload padded to 128 bytes, CRC. -/
def slotFrame (ws : List Nat) (payload : List Byte) : List Byte :=
  let b := (ws.map (leBytes 4)).flatten ++ (padTo128 payload)
  b ++ leBytes 4 (crc32 b).toNat
where
  /-- zero bytes appended up to 128 -/
  padTo128 (p : List Byte) : List Byte := (p ++ List.replicate (128 - p.length) 0).take 128

/-- Header words of a frame of this node in slot `k` (R369). -/
def Dev.slotHead (d : Dev) (k kind len : Nat) (o : Option RingOut) : List Nat :=
  let w0 := k + 256 * d.nodeId + 4096 * kind + 65536 * d.roundNo
  match o with
  | some o => [w0, d.tb.st.toNat, d.slv.delta + 65536 * o.seq,
               o.data.length + 256 * o.destNode + 2048 * o.destChan + 2 ^ 20 * o.srcChan, o.rel.toNat]
  | none => [w0, d.tb.st.toNat, d.slv.delta, len, 0]

/-- Payload of TIME and COLDSTART (R380). -/
def Dev.timePayload (d : Dev) : List Byte :=
  let tai := d.stToTai d.slv.grid
  let sec := (tai / 1000000000).toNat
  let close := d.slv.closeRound
  let ws : List Nat :=
    [0, (tai % 1000000000).toNat, sec % 2 ^ 32,
     sec / 2 ^ 32 % 65536 + 2 ^ 16 * b2n (d.b TB_STAT 0) + 2 ^ 17 * b2n d.slv.folded + 2 ^ 18 * b2n close.isSome,
     (d.r SLV_LOOM_DIGEST).toNat, match close with | some r => r | none => 0]
  (ws.map (leBytes 4)).flatten

/-- The waiting RING output with the oldest release time, and the others. -/
def oldestOut : List RingOut → Option (RingOut × List RingOut)
  | [] => none
  | o :: t => match oldestOut t with
    | none => some (o, [])
    | some (p, rest) => if stBefore p.rel o.rel then some (p, o :: rest) else some (o, t)

/-- The first 128 bytes that wait in a queue of records, and what is left. -/
def takeBytes : Nat → List (List Byte) → List Byte × List (List Byte)
  | _, [] => ([], [])
  | n, r :: t =>
    if r.length ≤ n then
      let (b, rest) := takeBytes (n - r.length) t
      (r ++ b, rest)
    else (r.take n, r.drop n :: t)

/-- What an open slot is filled with (R374): the frame, and the queues without it. -/
def Dev.slotFill (d : Dev) (k : Nat) : List Byte × Dev :=
  let hb : Bool := d.paired && d.b RED_HB_CFG 21 && d.ownSlots.contains k
  if k = 0 then
    let kind := if d.slv.state = .coldstart then 2 else 1
    (slotFrame (d.slotHead k kind 24 none) d.timePayload, d)
  else if d.b (SLV_LOOM k) 3 = false then (slotFrame (d.slotHead k 0 0 none) [], d)
  else if hb then (slotFrame (d.slotHead k 3 24 none) d.hbMsg, d)
  else match oldestOut d.slv.txq with
    | some (o, rest) => (slotFrame (d.slotHead k 4 0 (some o)) o.data, d.setSlv (fun r => { r with txq := rest }))
    | none => match d.slv.cutq with
      | m :: t => (slotFrame (d.slotHead k 6 m.length none) m, d.setSlv (fun r => { r with cutq := t }))
      | [] => match takeBytes 128 d.slv.bookq with
        | ([], _) => (slotFrame (d.slotHead k 0 0 none) [], d)
        | (b, rest) => (slotFrame (d.slotHead k 5 b.length none) b, d.setSlv (fun r => { r with bookq := rest }))

/-- RING outputs that have waited longer than one round are counted, once (R389). -/
def Dev.txLate (d : Dev) : Dev :=
  let tooOld := fun (o : RingOut) => !o.late && decide (o.since + 10000 < d.tb.now)
  let n := (d.slv.txq.filter tooOld).length
  if n = 0 then d
  else (d.setSlv (fun r => { r with txq := r.txq.map (fun o => if tooOld o then { o with late := true } else o) })).cnt (SLV_CNT 6) n

/-- Slot `k` of this node passes its forward output (R373, R374). DEDUCED, log entry 67. -/
def Dev.slotInsert (d : Dev) (k : Nat) : Dev :=
  if !d.ringOn || !(d.ownsSlot k) || d.slv.inserted.contains k then d
  else
    let late := (d.tb.st - d.slotOpen k).toNat
    if 125 ≤ late then d
    else if !(d.guardian k) then (d.setSlv (fun r => { r with inserted := k :: r.inserted })).cnt (SLV_CNT 7)
    else if 3 < late then d
    else
      let (b, d) := d.txLate.slotFill k
      (d.setSlv (fun r => { r with inserted := k :: r.inserted })).emit (.ringFrame k b)

/-! ### RING outputs and events (R389, R390) -/

/-- Valid receive buffers, in rising order. -/
def Dev.openRxb (d : Dev) : List Nat := (List.range 64).filter (fun i => d.b (SLV_RXB i 1) 16)

/-- A CHANNEL frame for this node reaches its receive buffer, and the RING event is posted; `st` is the release time in this
node's short time. -/
def Dev.ringDeliver (d : Dev) (node chan srcChan seq : Nat) (st : Word) (data : List Byte) : Dev :=
  let lost := d.cnt (SLV_CNT 4)
  match d.openRxb.find? (fun i => hIdx (d.r (SLV_RXB i 0)) == chan) with
  | none => lost
  | some i => match d.chanOf (d.r (SLV_RXB i 0)) with
    | none => lost
    | some c =>
      let n := d.f (SLV_RXB i 1) 15 8
      match d.freeSlot 2 i n (d.f (SLV_RXB i 3) 7 0) with
      | none => lost
      | some slot =>
        let ev := { mkEv 9 node ⟨st, 0, d.gen⟩ seq (w32 (slot + 256 * data.length + 65536 * srcChan)) with ring := some (2, i, slot) }
        let d := d.fillSlot 2 i slot c (d.f (SLV_RXB i 1) 2 0) ((d.r (SLV_RXB i 2)).toNat + slot * 128) data ev
        (d.wf (SLV_RXB i 3) 7 0 ((slot + 1) % n)).post c ev

/-- A RING output is released (R389). -/
def Dev.ringOut (d : Dev) (src node chan : Nat) (rel : Word) (data : List Byte) : Dev :=
  let k := node * 262144 + src * 512 + chan
  let seq := tget 0 d.slv.seqs k
  let d := d.setSlv (fun r => { r with seqs := tset r.seqs k (wrapAdd 16 seq 1) })
  if node = d.nodeId then d.ringDeliver node chan src seq rel data
  else if 64 ≤ d.slv.txq.length then d.cnt (SLV_CNT 5)
  else d.setSlv (fun r => { r with txq := r.txq ++
    [{ destNode := node, destChan := chan, srcChan := src, seq := seq, rel := rel, data := data, since := d.tb.now, late := false }] })

/-! ### Rounds (R371, R372, R375, R392) -/

/-- The digests are compared at a round start: PASSIVE is entered or left (R372). DEDUCED, log entry 65. -/
def Dev.loomCheck (d : Dev) : Dev :=
  let own := d.loomDigest
  let d := d.w SLV_LOOM_DIGEST own
  if d.leads then (d.w SLV_LEAD_DIGEST own).wb SLV_STAT 10 true
  else
    let ok := own == d.r SLV_LEAD_DIGEST
    let d := d.wb SLV_STAT 10 ok
    match d.slv.state with
    | .sync => if ok then d else ((d.ringState .passive).cnt (SLV_CNT 14)).ringBit .slv 6
    | .passive => if ok then (d.ringState .sync).ringBit .slv 0 else d.cnt (SLV_CNT 14)
    | _ => d

/-- A round starts on this node's grid. -/
def Dev.roundStart (d : Dev) (linkDly : Nat) : Dev :=
  let s := d.slv.state
  let runs := s == .coldstart || s == .sync || s == .passive || (s == .integrating && !d.slv.fresh)
  let g := d.slv.grid + 10000
  if !d.ringOn || !runs || !(reached d.tb.st g) then d
  else
    let n := wrapAdd 16 d.roundNo 1
    let d := ((d.setGrid g).wf SLV_ROUND 15 0 n).w SLV_LINK_DLY (w32 linkDly)
    let seen := d.slv.heard
    let differ := seen != d.f SLV_TOPO 7 0
    let d := (d.wf SLV_TOPO 15 8 seen).txLate
    let d := d.setSlv (fun r =>
      { r with inserted := [], heard := 0, noTime := r.noTime + 1, goodTimes := if 1 ≤ r.noTime then 0 else r.goodTimes,
               coldRounds := r.coldRounds + 1, servoRounds := r.servoRounds + 1,
               differRounds := if differ then r.differRounds + 1 else 0 })
    let d := if differ then d else d.wb SLV_STAT 11 false
    d.loomCheck

/-- The two views of the nodes have differed for two rounds (R392). -/
def Dev.slvDiffer (d : Dev) : Dev :=
  if 2 ≤ d.slv.differRounds && !(d.b SLV_STAT 11) then (d.wb SLV_STAT 11 true).ringBit .slv 8 else d

/-! ### Reception (R376-R380) -/

/-- Delay of the forward input link in ns, from SLV_LINK_DLY. DEDUCED, log entry 65. -/
def Dev.linkIn (d : Dev) : Nat := (d.f SLV_LINK_DLY 15 0 + 2) / 4

/-- round(e / 2), ties away from zero. -/
def halfRound (e : Int) : Int := if 0 ≤ e then (e + 1) / 2 else -((-e + 1) / 2)

/-- ALIGN_STAT takes an error. DEDUCED, log entry 65. -/
def Dev.alignStat (d : Dev) (e : Int) : Dev :=
  let x := clampInt (-32768) 32767 e
  let d := (d.wf SLV_ALIGN_STAT 15 0 (tc 16 x)).setSlv (fun r => { r with error := e })
  d.wf SLV_ALIGN_STAT 31 16 (Nat.max (d.f SLV_ALIGN_STAT 31 16) (Nat.min 65535 e.natAbs))

/-- An accepted slot 0 frame with `path` nanoseconds behind it aligns the grid (R376, R377). -/
def Dev.gridAlign (d : Dev) (path round : Nat) : Dev :=
  let t := d.tb.st
  let meas := t - w32 (path + d.linkIn)
  let delta := path + d.linkIn + 256
  if d.slv.fresh then
    let d := ((d.setGrid meas).setDelta delta).setSlv (fun r => { r with fresh := false, relearn := false, error := 0 })
    d.wf SLV_ROUND 15 0 round
  else
    let e := stDiff meas d.slv.grid
    let slew : Int := d.f SLV_ALIGN_CFG 3 0
    let d := (d.setGrid (d.slv.grid + BitVec.ofInt 32 (clampInt (-slew) slew (halfRound e)))).setDelta delta
    let d := (d.alignStat e).setSlv (fun r => { r with relearn := false })
    if 40 < e.natAbs then (d.syncLost).cnt (SLV_CNT 8)
    else if 20 < e.natAbs then d.ringBit .slv 2 else d

/-- The ring commits to the servo from a TIME frame (R380), once per servo interval; `meas` is the leader's round start in this
node's short time. -/
def Dev.ringServo (d : Dev) (p : List Byte) (meas : Word) : Dev :=
  let n := d.logInt
  let interval := if 0 ≤ n then 1000000000 * 2 ^ n.toNat else 1000000000 / 2 ^ (-n).toNat
  if !(d.b SLV_CTRL 2) || !((leAt p 12 4).testBit 16) || d.slv.servoRounds * 10000 < interval then d
  else
    let lead : Int := (leAt p 8 4 + 2 ^ 32 * leAt p 12 2) * 1000000000 + leAt p 4 4
    (d.setSlv (fun r => { r with servoRounds := 0 })).commit ((d.stToTai meas - lead) * 65536) false false

/-- The ring folds: the leader sets two-round circulation (R384). DEDUCED, log entry 67. -/
def Dev.ringFold (d : Dev) : Dev :=
  if d.slv.folded then d
  else (((d.setSlv (fun r => { r with folded := true })).wb SLV_STAT 7 true).cnt (SLV_CNT 9)).ringBit .slv 3

/-- An accepted TIME or COLDSTART frame from `j` (R376, R380, R381). -/
def Dev.timeFrame (d : Dev) (j kind round : Nat) (p : List Byte) : Dev :=
  let path := leAt p 0 4
  let meas := d.tb.st - w32 (path + d.linkIn)
  let first := d.slv.fresh
  let d := d.gridAlign path round
  if kind ≠ 1 then d
  else
    let w3 := w32 (leAt p 12 4)
    let d := (d.w SLV_LEAD_DIGEST (w32 (leAt p 16 4))).wb SLV_STAT 7 (bitOf w3 17)
    let d := d.setSlv (fun r =>
      { r with noTime := 0, goodTimes := r.goodTimes + 1, timer := d.tb.now, folded := bitOf w3 17,
               closeRound := if bitOf w3 18 then some (leAt p 20 2) else r.closeRound })
    let d := (d.leaderIs j (!first && 1 < d.slv.goodTimes)).ringServo p meas
    if d.slv.state = .integrating && 2 ≤ d.slv.goodTimes && d.slv.error.natAbs ≤ 20 then
      let d := d.setSlv (fun r => { r with inserted := List.range 80 })
      if d.r SLV_LOOM_DIGEST = d.r SLV_LEAD_DIGEST then ((d.wb SLV_STAT 10 true).ringState .sync).ringBit .slv 0
      else (((d.wb SLV_STAT 10 false).ringState .passive).cnt (SLV_CNT 14)).ringBit .slv 6
    else d

/-- The frame is one that this node sent: its short time of insertion fits its slot and round. -/
def Dev.sentByMe (d : Dev) (b : List Byte) (k : Nat) : Bool :=
  let dr := (d.roundNo + 65536 - leAt b 2 2) % 65536
  dr < 4 && (w32 (leAt b 4 4) - (d.slotOpen k - w32 (dr * 10000))).toNat ≤ 3

/-- The first check of R378 that a frame in slot `k` fails, as the counter it advances. A TIME frame that tells of a fold, or of
its end, is the one that gives the new Δ: its instant is not judged (R384). DEDUCED, log entry 65. -/
def Dev.slotCheck (d : Dev) (k : Nat) (b : List Byte) : Option Nat :=
  let w0 := w32 (leAt b 0 4)
  let node := fld w0 10 8
  let kind := fld w0 15 12
  let lead := d.slv.follow
  let owner := if k = 0 || !(d.b (SLV_LOOM k) 3) then (if d.leads then d.nodeId else lead) else d.f (SLV_LOOM k) 2 0
  let lower := k = 0 && kind = 2 && d.slv.state = .integrating && node < lead
  let at_ := stDiff d.tb.st (d.slotOpen k - 256)
  let near : Int := if d.leads || d.slv.folded then (at_ + 5000) % 10000 - 5000 else at_
  let dr := (d.roundNo + 65536 - fld w0 31 16) % 65536
  let told : Bool := k = 0 && kind = 1 && (leAt b 32 4).testBit 17
  let turn : Bool := k = 0 && kind = 1 && told != d.slv.folded
  if fld w0 6 0 ≠ k || (node ≠ owner && !lower) then some 1
  else if d.slv.fresh || lower then none
  else if !d.slv.relearn && !turn && 40 < near.natAbs then some 2
  else if dr = 0 || (dr = 1 && (d.slv.folded || told || d.leads)) then none
  else some 3

/-- A slot frame that is accepted (R378-R380, R390); the map of its sender counts from the round in which it was sent.
DEDUCED, log entry 65. -/
def Dev.slotAccept (d : Dev) (k : Nat) (b : List Byte) : Dev :=
  let w0 := w32 (leAt b 0 4)
  let node := fld w0 10 8
  let kind := fld w0 15 12
  let d := if d.slv.state = .integrating && kind = 2 && k = 0 && node < d.slv.follow then d.ringFollow node else d
  let d := if k = 0 && (kind = 1 || kind = 2) then d.timeFrame node kind (fld w0 31 16) ((b.drop 20).take 128) else d
  let dr := (d.roundNo + 65536 - leAt b 2 2) % 65536
  let map := d.slv.grid - w32 (if dr = 1 then 10000 else 0) + w32 (k * 125 + leAt b 8 2) - w32 (leAt b 4 4)
  let d := (d.w (SLV_MAP node) map).setSlv (fun r => { r with heard := r.heard ||| 2 ^ node })
  let w3 := w32 (leAt b 12 4)
  if kind = 4 && fld w3 10 8 = d.nodeId then
    d.ringDeliver node (fld w3 19 11) (fld w3 28 20) (leAt b 10 2) (d.ringMap node (w32 (leAt b 16 4)))
      ((b.drop 20).take (Nat.min 128 (fld w3 7 0)))
  else d

/-- What a node passes on of a slot frame: the frame unchanged, but for the delay that a relay adds to path_ns of slot 0
(R369, R376). -/
def Dev.relayed (d : Dev) (k : Nat) (b : List Byte) : List Byte :=
  let kind := (leAt b 0 4) / 4096 % 16
  if k = 0 && (kind = 1 || kind = 2) && leAt b 148 4 = (crc32 (b.take 148)).toNat then
    let x := overwrite (b.take 148) 20 (leBytes 4 ((leAt b 20 4 + d.linkIn + 256) % 2 ^ 32))
    x ++ leBytes 4 (crc32 x).toNat
  else b

/-- The frame of slot `k` goes on to the forward output (R367, R373): not in COLDSTART, not in place of one that this node
inserts, and not a leader's slot 0. DEDUCED, log entry 67. -/
def Dev.relay (d : Dev) (k : Nat) (b : List Byte) : Dev :=
  if d.slv.state = .coldstart || (d.ownsSlot k && d.guardian k) || (k = 0 && d.leads) then d else d.emit (.ringFrame k (d.relayed k b))

/-- A slot frame in slot `k` of the stream, at the tick at which it begins to arrive at the forward input (R378-R381). Heartbeats
and records of the pattern book reach their blocks through rows of their own. DESIGN CHOICE, log entry 66. -/
def Dev.slotTake (d : Dev) (k : Nat) (b : List Byte) : Dev :=
  let w0 := w32 (leAt b 0 4)
  let node := fld w0 10 8
  let kind := fld w0 15 12
  if d.slv.state = .dupId then d
  else if leAt b 148 4 ≠ (crc32 (b.take 148)).toNat then d.cnt (SLV_CNT 0)
  else if node = d.nodeId && (kind = 2 || d.ownsSlot k) && !(d.sentByMe b k) then d.dupIdFound
  else match d.slv.state with
    | .listen =>
      if kind ≠ 1 && kind ≠ 2 then d
      else if d.b SLV_CTRL 1 && d.nodeId < node then d.originate
      else (d.ringFollow node).slotAccept k b
    | .coldstart =>
      if kind ≠ 2 then d
      else if node = d.nodeId then
        let d := ((d.ringState .sync).wb SLV_STAT 3 true).setSlv (fun r => { r with follow := d.nodeId, goodTimes := 0, noTime := 0 })
        ((d.leaderIs d.nodeId false).ringBit .slv 0).loomCheck
      else if node < d.nodeId then ((d.cnt (SLV_CNT 12)).ringFollow node).slotAccept k b
      else d
    | _ =>
      if d.ownsSlot k then
        if k = 0 && kind = 1 && d.leads then
          let d := d.setSlv (fun r => { r with noTime := 0, timer := d.tb.now })
          if 10000 < (d.tb.st - w32 (leAt b 4 4)).toNat then d.ringFold else d
        else d
      else match d.slotCheck k b with
        | some i => d.cnt (SLV_CNT i)
        | none => d.slotAccept k b

/-- A slot frame arrives: it is passed on, and taken. `path` is what the check of the forward input's datapath finds, which is
lane B's, or lane A's where the node takes the return lane instead (R260, R265, R383): an uncorrectable frame is lost.
DESIGN CHOICE, log entry 91. DESIGN CHOICE, log entry 66. -/
def Dev.slotReceive (d : Dev) (k : Nat) (b : List Byte) (path : Ecc) : Dev :=
  if !d.ringOn then d
  else
    let lane := if d.b SLV_STAT 9 then 0 else 1
    if d.b SLV_STAT (12 + lane) then d
    else
      let d := d.pathEcc (0xFC + lane) path
      if path == .uncorr then d else (d.relay k b).slotTake k b

/-! ### Timers (R381) -/

/-- The LISTEN timer expires. -/
def Dev.listenOver (d : Dev) : Dev :=
  if d.ringOn && d.slv.state = .listen && d.b SLV_CTRL 1 && d.slv.timer + d.listenTime ≤ d.tb.now then d.originate else d

/-- Four rounds without the return of a COLDSTART frame. -/
def Dev.coldOver (d : Dev) : Dev :=
  if d.ringOn && d.slv.state = .coldstart && 4 ≤ d.slv.coldRounds then d.ringListen else d

/-- No valid TIME frame for two rounds, or for the length of the LISTEN timer. -/
def Dev.timeLost (d : Dev) : Dev :=
  let s := d.slv.state
  if !d.ringOn || d.leads || !(s == .sync || s == .passive || s == .integrating) then d
  else
    let d := if (s == .sync || s == .passive) && d.slv.timer + 20000 ≤ d.tb.now then d.syncLost else d
    if d.slv.timer + d.listenTime ≤ d.tb.now then
      (if d.slv.state = .sync || d.slv.state = .passive then d.syncLost else d).ringListen
    else d

/-! ### Folding and closing (R383-R388) -/

/-- Whether the failed hop of the A (bit 8) or B (bit 9) side has held block lock for 1 ms. -/
def Dev.setHeld (d : Dev) (a v : Bool) : Dev := d.setSlv (fun r => if a then { r with heldA := v } else { r with heldB := v })

/-- A node takes a loop at A (bit 8) or B (bit 9); one that holds it already has lost the hop's lock again (R383).
DEDUCED, log entry 67. -/
def Dev.ringLoop (d : Dev) (a : Bool) : Dev :=
  let bit := if a then 8 else 9
  if !d.ringOn then d
  else if d.b SLV_STAT bit then d.setHeld a false
  else
    let d := ((d.wb SLV_STAT bit true).setHeld a false).setSlv (fun r => { r with relearn := true })
    if d.leads then d.ringFold else d

/-- The failed hop of a looping node has held block lock for 1 ms (R387). DEDUCED, log entry 67. -/
def Dev.hopHeld (d : Dev) (a : Bool) : Dev :=
  let was : Bool := if a then d.slv.heldA else d.slv.heldB
  if !d.ringOn || !(d.b SLV_STAT (if a then 8 else 9)) || was then d else (d.setHeld a true).ringBit .slv 4

/-- A write of SLV_CMD (R387, R388). DEDUCED, log entry 67. -/
def Dev.ringClose (d : Dev) (who : Initiator) (v : Word) : Dev :=
  if fld v 15 8 ≠ 0xA5 || !(bitOf v 0) then d
  else
    let a := d.b SLV_STAT 8
    let b := d.b SLV_STAT 9
    let ok := (a || b || d.b SLV_STAT 7) && (!a || (d.slv.heldA && !(d.b SLV_STAT 12))) && (!b || (d.slv.heldB && !(d.b SLV_STAT 13)))
    if !ok then d.refuse who SLV_CMD
    else if d.leads then d.setSlv (fun r => { r with closeRound := some (wrapAdd 16 d.roundNo 2) }) else d

/-- The closing round starts: the loops are restored. DEDUCED, log entry 67. -/
def Dev.closingRound (d : Dev) : Dev :=
  if d.ringOn && d.slv.closeRound = some d.roundNo then
    let d := d.setSlv (fun r =>
      { r with closeRound := none, folded := false, heldA := false, heldB := false, relearn := true })
    (((d.wb SLV_STAT 7 false).wb SLV_STAT 8 false).wb SLV_STAT 9 false).cnt (SLV_CNT 10)
  else d

end Sys2Proof.Machine
end

