-- ==== Sys2Proof/Machine/Treadles.lean ====
section
/-!
DEFINITION. Treadles and wave time (spec/04_treadles_wave_time.md): the accumulators, the lock loop, strobes, steps, ramps,
coupled groups, pattern tables, edge latches, and the meanings of their commands. The tick itself is `State.tick` in
Machine/Tick.lean.
-/
namespace Sys2Proof.Machine

/-! ### Bells of a treadle (R541) -/

/-- TRD_BELL.treadle[n] follows the unmasked bits of TRD_TSTAT[n]. -/
def Dev.trdSum (d : Dev) (n : Nat) : Dev :=
  if d.r (TRD_TSTAT n) &&& d.r (TRD_TSTAT_MASK n) = 0 then d.wb TRD_BELL n false
  else if d.b TRD_BELL n then d else d.ringBit .trd n

/-- A bit of TRD_TSTAT[n] becomes set. -/
def Dev.trdBell (d : Dev) (n i : Nat) : Dev := (d.wb (TRD_TSTAT n) i true).trdSum n

/-! ### Rate and phase -/

/-- What the accumulator advances by in a tick: the increment, 0 in OFF (R96, R98). -/
def Dev.rate (d : Dev) (n : Nat) : Int := if d.trdMode n = 0 then 0 else (d.trdl n).inc

/-- Cycle count and accumulator as one number of 80 bits. -/
def Dev.total (d : Dev) (n : Nat) : Nat := (d.trdl n).cycle * 2 ^ 48 + (d.trdl n).acc

/-- That number interpolated to an instant `back` quarter-nanoseconds before the tick, in units of 2^-u of a step, rounded
under R539. -/
def Dev.totalBack (d : Dev) (n back u : Nat) : Int :=
  roundDiv ((d.total n : Int) * 16 - d.rate n * back) (16 * 2 ^ u)

/-- TRD_PHASE_OFS as a crossing of this tick is measured against it: as it was before a write of the same tick (R107). -/
def Dev.phaseOfs (d : Dev) (n : Nat) : Word :=
  if (d.trdl n).ofsAt = some d.tb.now then (d.trdl n).ofsOld else d.r (TRD_PHASE_OFS n)

/-- A write of TRD_PHASE_OFS[n] keeps the value before it for the rest of its tick (R107). -/
def Dev.ofsKeep (d : Dev) (n : Nat) : Dev :=
  d.setTrdl n (fun t => if t.ofsAt = some d.tb.now then t else { t with ofsOld := d.r (TRD_PHASE_OFS n), ofsAt := some d.tb.now })

/-- The treadle's lock state. -/
def Dev.lockSet (d : Dev) (n s : Nat) : Dev := d.wf (TRD_LOCK_STAT n) 1 0 s

/-- The number of strobe boundaries at or below the present phase, over all cycles (R112). -/
def Dev.strobeFloor (d : Dev) (n : Nat) : Nat := d.total n * d.f (TRD_STRB_CFG n) 15 0 / 2 ^ 48

/-- The boundary last crossed in direction `up`. -/
def Dev.strobePos (d : Dev) (n : Nat) (up : Bool) : Nat :=
  let big := 2 ^ 32 * d.f (TRD_STRB_CFG n) 15 0
  if big = 0 then 0 else (d.strobeFloor n + b2n (!up)) % big

/-- The strobe position starts afresh from the present phase: after a change of N, or of the increment's sign (R114). -/
def Dev.strobeSeed (d : Dev) (n : Nat) (up : Bool) : Dev :=
  let nn := d.f (TRD_STRB_CFG n) 15 0
  if nn = 0 then d.setTrdl n (fun t => { t with lastStrobe := none, lastUp := up })
  else
    let p := d.strobePos n up
    d.setTrdl n (fun t => { t with lastStrobe := some (p / nn, p % nn), lastUp := up })

/-! ### Steps (R115, R116) -/

/-- A treadle drives a pin: only where the pin map names it (R422). -/
def Dev.trdPin (d : Dev) (n i src : Nat) (level : Bool) : Dev :=
  if d.pinSrc i = src && d.f (SHT_PIN_CFG i) 9 6 = n then d.actPin i (some level) (some true)
  else d.satf SHT_GLB_CNT 15 0 1

/-- The level that dir_pin shows of the present direction: low forward, high in reverse, inverted by dir_pol.
DEDUCED, log entry 40. -/
def Dev.dirLevel (d : Dev) (n : Nat) : Bool := (!(d.trdl n).dirUp) != d.b (TRD_STEP_CFG n) 13

/-- The direction output follows the sign of the motion; the next pulse then waits dir_setup ticks.
DEDUCED, log entry 40. -/
def Dev.dirSet (d : Dev) (n : Nat) (up : Bool) : Dev :=
  if (d.trdl n).dirUp = up then d
  else
    let c := d.r (TRD_STEP_CFG n)
    let d := d.setTrdl n (fun t => { t with dirUp := up })
    if bitOf c 12 then
      let d := d.setTrdl n (fun t => { t with stepFree := Nat.max t.stepFree (d.tb.now + 4 * fld c 27 20) })
      d.trdPin n (fld c 11 6) 4 (d.dirLevel n)
    else d

/-- The direction output of an enabled step output is shown on its pin, where the pin map gives the pin to it: after a write of
TRD_STEP_CFG or of the pin map (R115, R116). -/
def Dev.dirShow (d : Dev) (n : Nat) : Dev :=
  let c := d.r (TRD_STEP_CFG n)
  let i := fld c 11 6
  if bitOf c 12 && d.pinSrc i == 4 && d.f (SHT_PIN_CFG i) 9 6 == n then d.actPin i (some (d.dirLevel n)) (some true) else d

/-- The increment of treadle `n` changes; a change of its sign starts the strobes afresh. -/
def Dev.incSet (d : Dev) (n : Nat) (x : Int) : Dev :=
  let d := d.setTrdl n (fun t => { t with inc := x })
  if x = 0 || (d.trdl n).lastUp = decide (0 < x) then d else d.strobeSeed n (decide (0 < x))

/-- The increment of treadle `n` is set, and the direction follows its sign. -/
def Dev.setInc (d : Dev) (n : Nat) (x : Int) : Dev :=
  if x = 0 then d.incSet n x else (d.incSet n x).dirSet n (decide (0 < x))

/-- A step pulse begins: width ticks high, then one low tick. -/
def Dev.pulse (d : Dev) (n : Nat) : Dev :=
  let c := d.r (TRD_STEP_CFG n)
  let w := fld c 19 16
  if w = 0 then d
  else
    let d := d.setTrdl n (fun t => { t with stepFree := d.tb.now + 4 * (w + 1), pulseEnd := some (d.tb.now + 4 * w) })
    d.trdPin n (fld c 5 0) 3 true

/-- A step is due: its pulse is driven, or waits for the next free tick; with a width of 0 there is no pulse to drive. -/
def Dev.stepDue (d : Dev) (n : Nat) : Dev :=
  if !(d.b (TRD_STEP_CFG n) 12) || d.f (TRD_STEP_CFG n) 19 16 = 0 then d
  else if d.tb.now < (d.trdl n).stepFree || 0 < (d.trdl n).stepWait then
    (d.setTrdl n (fun t => { t with stepWait := t.stepWait + 1 })).trdBell n 10
  else d.pulse n

/-- A running pulse ends when its width has passed. -/
def Dev.pulseOver (d : Dev) (n : Nat) : Dev :=
  match (d.trdl n).pulseEnd with
  | some t => if t ≤ d.tb.now then
      (d.setTrdl n (fun t => { t with pulseEnd := none })).trdPin n (d.f (TRD_STEP_CFG n) 5 0) 3 false
    else d
  | none => d

/-- TRD_POS[n] as the s32 that it is. -/
def Dev.pos (d : Dev) (n : Nat) : Int := sx 32 (d.r (TRD_POS n)).toNat

def Dev.posSet (d : Dev) (n : Nat) (p : Int) : Dev := d.w (TRD_POS n) (w32 (tc 32 p))

/-! ### Ramps and groups (R117-R120) -/

/-- The steps still to go to the ramp's goal, as an s32 difference. -/
def Dev.toGo (d : Dev) (n : Nat) : Int := sx 32 (tc 32 ((d.trdl n).goal - d.pos n))

/-- Treadles that move with leader `l`, the leader apart. -/
def Dev.followers (d : Dev) (l : Nat) : List Nat :=
  (List.range 16).filter (fun m => m != l && (d.trdl m).leader == some l)

/-- The group that runs with member `n`, when there is one. -/
def Dev.runningGroup (d : Dev) (n : Nat) : Option Nat :=
  (List.range 4).find? (fun g => d.f (TRD_GRP_CFG g) 19 17 == 2 && d.b (TRD_GRP_CFG g) n)

/-- The last member of leader `l`'s group has arrived: the group is done (R119). -/
def Dev.groupEnd (d : Dev) (l : Nat) : Dev :=
  if (d.followers l).isEmpty && (d.trdl l).ramp = .none then
    let d := d.setTrdl l (fun t => { t with leader := none })
    let d := match d.runningGroup l with
      | some g => d.wf (TRD_GRP_CFG g) 19 17 0
      | none => d
    d.trdBell l 8
  else d

/-- A ramp ends: with its own bell, or, in a group, towards the end of the group move. -/
def Dev.rampEnd (d : Dev) (n : Nat) : Dev :=
  let d := d.setTrdl n (fun t => { t with ramp := .none })
  match (d.trdl n).leader with
  | none => d.trdBell n 7
  | some l =>
    if l = n then
      let accel : Int := (d.r (TRD_RAMP_ACCEL n)).toNat
      let d := d.each (d.followers n) (fun d m =>
        if d.toGo m = 0 then (d.setInc m 0).setTrdl m (fun t => { t with leader := none })
        else (d.setInc m (if 0 < d.toGo m then accel else -accel)).setTrdl m (fun t => { t with ramp := .finish }))
      d.groupEnd n
    else (d.setTrdl n (fun t => { t with leader := none })).groupEnd l

/-- A step has been counted: a ramp that has reached its goal ends with increment 0; a member that has covered its distance
waits at rest. DEDUCED, log entry 40. -/
def Dev.rampArrive (d : Dev) (n : Nat) : Dev :=
  let t := d.trdl n
  if t.ramp = .position || t.ramp = .finish then
    if d.toGo n = 0 then (d.setInc n 0).rampEnd n else d
  else if t.leader.isSome && t.leader != some n && d.toGo n = 0 then d.setInc n 0
  else d

/-- The speed limit of a ramp in increment units. -/
def Dev.vmax (d : Dev) (n : Nat) : Int := d.f (TRD_RAMP_VMAX n) 30 0 * 2 ^ 16

/-- How far a treadle moves, in accumulator units, while it decelerates from `v` to zero by `a` per period.
DEDUCED, log entry 40. -/
def stopDistance (v a period : Nat) : Nat :=
  if a = 0 then 0 else let k := v / a; period * (v * k - a * (k * (k + 1) / 2))

/-- How far it is to the goal in accumulator units. DEDUCED, log entry 40. -/
def Dev.wayToGo (d : Dev) (n : Nat) : Nat :=
  let g := d.toGo n
  if 0 < g then g.natAbs * 2 ^ 48 - (d.trdl n).acc else (g.natAbs - 1) * 2 ^ 48 + (d.trdl n).acc

/-- `v` moved toward `tgt` by at most `a`. -/
def toward (v tgt a : Int) : Int := if v < tgt then min tgt (v + a) else max tgt (v - a)

/-- One ramp period (R117, R118). A deceleration for Stop or Safe whose accel becomes 0 ends at rest.
DESIGN CHOICE, log entry 88. -/
def Dev.rampStep (d : Dev) (n : Nat) : Dev :=
  let t := d.trdl n
  let a : Int := (d.r (TRD_RAMP_ACCEL n)).toNat
  let period := d.f (TRD_RAMP_CFG n) 31 16 + 1
  let d := d.setTrdl n (fun t => { t with rampAt := d.tb.now })
  if a = 0 then (if d.modeIn [.stop, .safe] then d.setInc n 0 else d).rampEnd n
  else
    match t.ramp with
    | .none => d
    | .finish => d
    | .stopping =>
      let v := toward t.inc 0 a
      let d := d.setInc n v
      if v = 0 then d.rampEnd n else d
    | .speed =>
      let tgt := clampInt (-(d.vmax n)) (d.vmax n) (sx 32 (d.r (TRD_RAMP_TARGET n)).toNat * 2 ^ 16)
      let v := toward t.inc tgt a
      let d := d.setInc n v
      if v = tgt then d.rampEnd n else d
    | .position =>
      let g := d.toGo n
      if g = 0 && t.inc = 0 then d.rampEnd n
      else if g = 0 || (0 < g && t.inc < 0) || (g < 0 && 0 < t.inc) then d.setInc n (toward t.inc 0 a)
      else
        let s : Int := if 0 < g then 1 else -1
        if t.inc ≠ 0 && d.wayToGo n ≤ stopDistance t.inc.natAbs a.natAbs period then
          if (t.inc.natAbs : Int) ≤ a then
            (d.setInc n (s * a)).setTrdl n (fun t => { t with ramp := .finish })
          else d.setInc n (t.inc - s * a)
        else d.setInc n (s * min (d.vmax n) (t.inc.natAbs + a))

/-- Ramps move in every mode but Stop and Safe, where only a deceleration to rest goes on (R129). -/
def Dev.rampDue (d : Dev) (n : Nat) : Bool :=
  let t := d.trdl n
  t.ramp != .none && (t.ramp == .stopping || !(d.modeIn [.stop, .safe])) &&
    t.rampAt + 4 * (d.f (TRD_RAMP_CFG n) 31 16 + 1) ≤ d.tb.now

/-- TRD_RAMP_CMD.go on a treadle in RAMP (R118). -/
def Dev.rampGoCmd (d : Dev) (n : Nat) : Dev :=
  if d.trdMode n ≠ 4 then d
  else
    let kind := d.b (TRD_RAMP_CFG n) 0
    let d := d.setTrdl n (fun t =>
      { t with ramp := if kind then .speed else .position, goal := sx 32 (d.r (TRD_RAMP_TARGET n)).toNat,
               rampAt := d.tb.now, leader := none })
    if d.r (TRD_RAMP_ACCEL n) = 0 then d.rampEnd n else d

/-- TRD_RAMP_CMD.stop on a treadle in RAMP (R118). -/
def Dev.rampStopCmd (d : Dev) (n : Nat) : Dev :=
  if d.trdMode n ≠ 4 then d
  else
    let d := d.setTrdl n (fun t => { t with ramp := .stopping, rampAt := d.tb.now })
    if d.r (TRD_RAMP_ACCEL n) = 0 || (d.trdl n).inc = 0 then d.rampEnd n else d

/-- A write of TRD_RAMP_CMD. DEDUCED, log entry 41. -/
def Dev.rampCmd (d : Dev) (n : Nat) (v : Word) : Dev :=
  let d := if bitOf v 0 then d.rampGoCmd n else d
  if bitOf v 1 then d.rampStopCmd n else d

/-- The members of a group, and the distance of one. -/
def Dev.groupMembers (d : Dev) (g : Nat) : List Nat := (List.range 16).filter (fun n => d.b (TRD_GRP_CFG g) n)
def Dev.distance (d : Dev) (m : Nat) : Int := sx 32 (d.r (TRD_RAMP_TARGET m)).toNat

/-- The leader of a group: the largest distance, the lowest number in a tie (R119). -/
def Dev.groupLeader (d : Dev) (g : Nat) : Nat :=
  (d.groupMembers g).foldl (fun best m => if (d.distance best).natAbs < (d.distance m).natAbs then m else best)
    ((d.groupMembers g).headD 0)

/-- Why a go is GRP_ERR (R120). A group of more than four members is none of its cases: the go starts.
DEDUCED, log entry 41; DESIGN CHOICE, log entry 88. -/
def Dev.groupBad (d : Dev) (g : Nat) : Bool :=
  let l := d.groupMembers g
  l.length < 2 || l.any (fun m => d.trdMode m != 5) ||
    l.any (fun m => (List.range 4).any (fun h => h != g && d.b (TRD_GRP_CFG h) m)) ||
    l.all (fun m => d.distance m == 0)

/-- A group move starts (R119). A member with the leader's own distance has the ratio 65,536, which a u16 does not hold.
DESIGN CHOICE, log entry 88. -/
def Dev.groupStart (d : Dev) (g : Nat) : Dev :=
  let lead := d.groupLeader g
  let top := (d.distance lead).natAbs
  let d := d.each (d.groupMembers g) (fun d m => d.setTrdl m (fun t =>
    { t with leader := some lead, ramp := if m = lead then .position else .none, rampAt := d.tb.now,
             goal := d.pos m + d.distance m, ratio := (d.distance m).natAbs * 65536 / top }))
  let d := d.wf (TRD_GRP_CFG g) 19 17 2
  if d.r (TRD_RAMP_ACCEL lead) = 0 then
    let d := d.each (d.followers lead) (fun d m => d.setTrdl m (fun t => { t with leader := none }))
    (d.setTrdl lead (fun t => { t with ramp := .none })).groupEnd lead
  else d

/-- A write of TRD_GRP_CFG[g]. -/
def Dev.groupCmd (d : Dev) (g : Nat) (v : Word) : Dev :=
  let d := d.wf (TRD_GRP_CFG g) 15 0 (fld v 15 0)
  if bitOf v 16 then if d.groupBad g then d.wf (TRD_GRP_CFG g) 19 17 1 else d.groupStart g else d

/-- The increment that the leader gives member `m` in every tick (R119). -/
def Dev.memberInc (d : Dev) (m : Nat) : Dev :=
  match (d.trdl m).leader with
  | some l =>
    if l = m || (d.trdl m).ramp ≠ .none || d.toGo m = 0 then d
    else
      let v : Int := ((d.trdl l).inc.natAbs * (d.trdl m).ratio / 65536 : Nat)
      d.setInc m (if d.toGo m < 0 then -v else v)
  | none => d

/-! ### Locking (R100-R105) -/

/-- An increment clamped to TRD_LOCK_MIN … TRD_LOCK_MAX (R102). -/
def Dev.lockClamp (d : Dev) (n : Nat) (x : Int) : Int × Dev :=
  let y := clampInt (d.r (TRD_LOCK_MIN n)).toNat (d.r (TRD_LOCK_MAX n)).toNat x
  (y, if y = x then d else d.trdBell n 3)

/-- The loop of R102. -/
def Dev.lockLoop (d : Dev) (n : Nat) (e : Int) : Dev :=
  let t := d.trdl n
  let u := roundDiv (e * t.inc) (2 ^ 32)
  let (i, d) := d.lockClamp n (t.integ - roundDiv (d.f (TRD_LOCK_GAIN n) 31 16 * u) 65536)
  let (x, d) := d.lockClamp n (i - roundDiv (d.f (TRD_LOCK_GAIN n) 15 0 * u) 65536)
  (d.setTrdl n (fun t => { t with integ := i })).setInc n x

/-- LOCKED is entered. -/
def Dev.lockEnter (d : Dev) (n : Nat) : Dev := (d.lockSet n 2).trdBell n 0

/-- A realignment in ACQUIRE from the crossing interval `p` in quarter-nanoseconds (R103, R105). -/
def Dev.realign (d : Dev) (n p back : Nat) : Dev :=
  let (x, d) := d.lockClamp n (roundDiv (2 ^ 52) p)
  let d := d.cancelWaves n (fun _ => true)
  let acc := tc 48 (((d.phaseOfs n).toNat * 65536 : Nat) + roundDiv (x * back) 16)
  let d := d.setTrdl n (fun t => { t with integ := x, acc := acc, aligned := true, count := 0, hit := true, missed := 0 })
  let d := (((d.setInc n x).satf (TRD_LOCK_STAT n) 23 16 1).trdBell n 2).gateStep n
  if d.f (TRD_LOCK_CFG n) 31 24 = 0 then d.lockEnter n else d

/-- A crossing of the selected edge at treadle `n` (R101, R103, R107). Before the alignment a crossing is not judged by the
window, so none is counted as rejected. DEDUCED, log entry 42; DEDUCED, log entry 88. -/
def Dev.crossing (d : Dev) (n back : Nat) : Dev :=
  let src := d.f (TRD_LOCK_CFG n) 2 0
  if d.trdMode n ≠ 2 || 5 ≤ src then d
  else
    let back := d.edgeBack (src < 4) back
    let at_ := (4 * d.tb.st.toNat + 2 ^ 34 - back % 2 ^ 34) % 2 ^ 34
    let prev := (d.trdl n).lastCross
    let lc := d.f (TRD_LOCK_CFG n) 31 24
    let phase := tc 32 (d.totalBack n back 16)
    let e := sx 32 (phase + 2 ^ 32 - (d.phaseOfs n).toNat)
    let inWin := e.natAbs ≤ (d.r (TRD_LOCK_ACCEPT n)).toNat
    let d := d.w (TRD_LOCK_ERR n) (w32 (tc 32 e))
    let reject := fun (d : Dev) => d.satf (TRD_LOCK_STAT n) 15 8 1
    let good := fun (d : Dev) => (d.lockLoop n e).setTrdl n (fun t => { t with hit := true })
    let d := d.setTrdl n (fun t => { t with lastCross := some at_ })
    match d.lockState n with
    | 1 =>
      if !(d.trdl n).aligned then
        (match prev with
         | some q => if q = at_ then d else d.realign n ((at_ + 2 ^ 34 - q) % 2 ^ 34) back
         | none => d)
      else if inWin then
        let d := (good d).setTrdl n (fun t => { t with count := t.count + 1 })
        if lc ≤ (d.trdl n).count then d.lockEnter n else d
      else (reject d).setTrdl n (fun t => { t with count := 0 })
    | 2 => if inWin then good d else reject d
    | 3 =>
      if inWin then
        let d := (good d).setTrdl n (fun t => { t with count := t.count + 1, out := 0 })
        if lc ≤ (d.trdl n).count then d.lockEnter n else d
      else
        let d := (reject d).setTrdl n (fun t => { t with count := 0, out := t.out + 1 })
        if lc ≤ (d.trdl n).out then (d.setTrdl n (fun t => { t with aligned := false })).lockSet n 1 else d
    | _ => d

/-- A carry in ZC or FW: the cycle ends, and the lock is lost after miss_limit + 1 cycles without a crossing in window or a
write (R103, R104). -/
def Dev.lockCycle (d : Dev) (n : Nat) : Dev :=
  if !(d.trdMode n = 2 || d.trdMode n = 3) || d.lockState n ≠ 2 then d
  else if (d.trdl n).hit then d.setTrdl n (fun t => { t with hit := false, missed := 0 })
  else
    let d := d.setTrdl n (fun t => { t with missed := t.missed + 1 })
    if d.f (TRD_LOCK_CFG n) 23 16 < (d.trdl n).missed then
      let d := if d.trdMode n = 2 then d.setInc n (d.trdl n).integ else d
      ((d.setTrdl n (fun t => { t with count := 0, out := 0 })).lockSet n 3).trdBell n 1
    else d

/-! ### Modes (R98-R100, R130) -/

/-- The limits let ZC and FW be entered (R100). -/
def Dev.lockOk (d : Dev) (n : Nat) : Bool :=
  d.r (TRD_LOCK_MIN n) != 0 && (d.r (TRD_LOCK_MIN n)).toNat ≤ (d.r (TRD_LOCK_MAX n)).toNat

/-- Treadle `n` enters mode `m`. In Stop and Safe a treadle in RAMP, GROUP or CAM issues no steps (R129): one that enters such
a mode then does so at rest. -/
def Dev.trdEnter (d : Dev) (n m : Nat) : Dev :=
  let d := d.wf (TRD_CFG n) 2 0 m
  let d := d.lockSet n (if m = 2 || m = 3 then 1 else 0)
  let d := d.setTrdl n (fun t =>
    { t with lastCross := none, aligned := false, count := 0, out := 0, missed := 0, hit := false, ramp := .none,
             leader := none, integ := t.inc })
  if m = 5 || m = 6 || (m = 4 && d.modeIn [.stop, .safe]) then d.setInc n 0 else d

/-- A write of TRD_CFG[n] (R98, R100). -/
def Dev.trdCfg (d : Dev) (who : Initiator) (n : Nat) (v : Word) : Dev :=
  let m := fld v 2 0
  if m = 7 || ((m = 2 || m = 3) && !(d.lockOk n)) then d.refuse who (TRD_CFG n)
  else
    let d := d.wf (TRD_CFG n) 6 4 (fld v 6 4)
    if d.trdMode n = m then d else d.trdEnter n m

/-- A write of TRD_INC_HI[n] (R99, R103). -/
def Dev.incHi (d : Dev) (who : Initiator) (n : Nat) (hi : Word) : Dev :=
  let x := sx 48 ((d.trdl n).incLo.toNat + fld hi 15 0 * 2 ^ 32)
  let m := d.trdMode n
  if m = 0 || m = 1 then d.setInc n x
  else if m = 3 then
    let (y, d) := d.lockClamp n x
    let d := (d.setTrdl n (fun t => { t with integ := y, hit := true, missed := 0 })).setInc n y
    if d.lockState n = 2 then d else d.lockEnter n
  else d.refuse who (TRD_INC_HI n)

/-- A read of TRD_INC_LO[n] (R99). -/
def Dev.incReadOp (d : Dev) (n : Nat) : Word × Dev :=
  let x := tc 48 (d.trdl n).inc
  (w32 x, d.w (TRD_INC_HI n) (w32 (x / 2 ^ 32)))

/-- A read of TRD_ACC_LO[n] (R99). -/
def Dev.accReadOp (d : Dev) (n : Nat) : Word × Dev :=
  let t := d.trdl n
  (w32 t.acc, (d.w (TRD_ACC_HI n) (w32 (t.acc / 2 ^ 32))).w (TRD_CYCLE n) (w32 t.cycle))

/-- A write of TRD_PHASE_ADJ[n] (R106): the next tick applies it. -/
def Dev.phaseAdj (d : Dev) (who : Initiator) (n : Nat) (adj : Word) : Dev :=
  let a := sx 32 adj.toNat
  if !(d.trdMode n = 1 || d.trdMode n = 3) then d.refuse who (TRD_PHASE_ADJ n)
  else if 2 ^ 28 < a.natAbs then d.trdBell n 11
  else d.setTrdl n (fun t => { t with adjPend := t.adjPend + a })

/-- The phase step that waits is applied (R106): wave-time outputs that it passes forward are late. -/
def Dev.adjApply (d : Dev) (n : Nat) : Dev :=
  let a := (d.trdl n).adjPend
  if a = 0 then d
  else
    let tot := tc 80 ((d.total n : Int) + a * 65536)
    let d := d.setTrdl n (fun t => { t with adjPend := 0, cycle := tot / 2 ^ 48, acc := tot % 2 ^ 48 })
    let d := d.gateStep n
    if 0 < a then d.cancelWaves n (fun o => d.waveReached n o.target) else d

/-- The treadles of a TRD_START word start or stop in one tick (R130). DEDUCED, log entry 41. -/
def Dev.trdStartAct (d : Dev) (who : Initiator) (v : Word) : Dev :=
  let l := (List.range 16).filter (fun n => bitOf v n)
  if bitOf v 16 then d.each l (fun d n => if d.trdMode n = 0 then d else d.trdEnter n 0)
  else
    let able := fun (d : Dev) n =>
      let m := d.f (TRD_CFG n) 6 4
      d.trdMode n == 0 && m != 0 && m != 7 && (!(m == 2 || m == 3) || d.lockOk n)
    let left := l.any (fun n => !(able d n))
    let d := d.each l (fun d n =>
      if able d n then
        let m := d.f (TRD_CFG n) 6 4
        let d := d.trdEnter n m
        if m = 4 then d.setInc n 0 else d
      else d)
    if left then d.refuse who TRD_START else d

/-- A write of TRD_START: at once, or armed (R130). A second armed write takes the place of one that has not been committed,
and until then the target is TRD_START_AT as it stands. DESIGN CHOICE, log entry 88. -/
def Dev.trdStartWrite (d : Dev) (who : Initiator) (v : Word) : Dev :=
  if fld v 15 0 = 0 then d
  else if bitOf v 17 then { d with trd := { d.trd with startAt := some (who, v) } }
  else d.trdStartAct who v

/-- A start or stop acts whose target has been reached: the first committed one (R109), or the armed one. -/
def Dev.trdStartAt (d : Dev) : Dev :=
  match d.trd.startDue.find? (fun x => reached d.tb.st x.2.2) with
  | some x => ({ d with trd := { d.trd with startDue := d.trd.startDue.erase x } }).trdStartAct x.1 x.2.1
  | none =>
    match d.trd.startAt with
    | some (who, v) =>
      if reached d.tb.st (d.r TRD_START_AT) then
        ({ d with trd := { d.trd with startAt := none } }).trdStartAct who v
      else d
    | none => d

/-- The armed start or stop enters the commit horizon (R109): its target no longer moves.
DESIGN CHOICE, log entry 88. -/
def Dev.trdStartCommit (d : Dev) : Dev :=
  match d.trd.startAt with
  | some (who, v) =>
    let t := d.r TRD_START_AT
    if reached d.tb.st (t - 64) then
      { d with trd := { d.trd with startAt := none, startDue := d.trd.startDue ++ [(who, v, t)] } }
    else d
  | none => d

/-- A TREADLE_START_AT is due. -/
def Dev.startReached (d : Dev) : Bool :=
  d.trd.startDue.any (fun x => reached d.tb.st x.2.2) || (d.trd.startAt.isSome && reached d.tb.st (d.r TRD_START_AT))

/-! ### Strobes (R112-R114) -/

/-- A u16 sequence of events of one source: key 100 + treadle, 200 + table, 300 + latch.
DESIGN CHOICE, log entry 43. -/
def Dev.nextSeq (d : Dev) (k : Nat) : Nat × Dev :=
  let n := tget 0 d.cut.evtSeq k
  (n, { d with cut := { d.cut with evtSeq := tset d.cut.evtSeq k (wrapAdd 16 n 1) } })

/-- An event goes to every channel whose descriptor word 9 has bit `bit` set. DESIGN CHOICE, log entry 43. -/
def Dev.postSubs (d : Dev) (bit : Nat) (ev : Ev) : Dev :=
  d.each (tkeys d.cut.chans) (fun d c => if bitOf (d.desc c 9) bit then d.post c ev else d)

/-- Boundaries that have been passed since the last strobe, in the direction of motion. -/
def Dev.strobeAhead (d : Dev) (n : Nat) : Nat :=
  let nn := d.f (TRD_STRB_CFG n) 15 0
  let inc := d.rate n
  let up : Bool := decide (0 < inc)
  let big := 2 ^ 32 * nn
  if nn = 0 || inc = 0 then 0
  else
    match (d.trdl n).lastStrobe with
    | none => 1
    | some (c, k) =>
      let last := c * nn + k
      let p := d.strobePos n up
      let ahead := if up then (p + big - last % big) % big else (last % big + big - p) % big
      if ahead < big / 2 then ahead else 0

/-- STROBE at treadle `n`. DESIGN CHOICE, log entry 2. -/
def Dev.strobe (d : Dev) (n : Nat) : Dev :=
  let ahead := d.strobeAhead n
  if ahead = 0 then d
  else
    let cfg := d.r (TRD_STRB_CFG n)
    let nn := fld cfg 15 0
    let inc := d.rate n
    let up : Bool := decide (0 < inc)
    let p := d.strobePos n up
    let past := (d.trdl n).acc * nn % 2 ^ 48
    let past := if up then past else (2 ^ 48 - past) % 2 ^ 48
    let back := (roundDiv (past * 16 : Nat) (nn * inc.natAbs)).toNat
    let st := d.stampBack back
    let d := d.setTrdl n (fun t => { t with lastStrobe := some (p / nn, p % nn), lastUp := up })
    let d := if 1 < ahead then d.trdBell n 4 else d
    let d := d.each (List.range 4) (fun d g =>
      if bitOf cfg (16 + g) then
        match tfind d.trd.trigDue g with
        | some (m, _) => if m ≤ n then d else { d with trd := { d.trd with trigDue := tset d.trd.trigDue g (n, st) } }
        | none => { d with trd := { d.trd with trigDue := tset d.trd.trigDue g (n, st) } }
      else d)
    if bitOf cfg 20 then
      let (seq, d) := d.nextSeq (100 + n)
      d.postSubs n (mkEv 2 n st seq (Config.strobePayload (d.trdl n).cycle (p % nn)))
    else d

/-- A write of TRD_STRB_CFG[n]: a new N starts the strobe position afresh. -/
def Dev.strbCfg (d : Dev) (n : Nat) (v : Word) : Dev :=
  let d := d.w (TRD_STRB_CFG n) (w32 (fld v 20 0))
  d.strobeSeed n (d.trdl n).lastUp

/-! ### Pattern tables (R121-R125) -/

/-- The master treadle of the pattern group. -/
def Dev.patMaster (d : Dev) : Nat := d.f TRD_PAT_GRP 19 16

/-- Position of the master: 1,024 entries to the cycle. -/
def Dev.patNow (d : Dev) : Nat := d.total (d.patMaster) / 2 ^ 38

/-- The pattern group and table `t` run in mode `m`: 0 EVENT, 1 CAM. -/
def Dev.patRuns (d : Dev) (t m : Nat) : Bool := d.b TRD_PAT_GRP 20 && d.b (TRD_PAT_CFG t) 0 && d.f (TRD_PAT_CFG t) 1 1 == m

/-- The table follows the master from the present position on: what has been committed still fires, and every entry counts as
it stands. DESIGN CHOICE, log entry 43. -/
def Dev.patSeed (d : Dev) (t : Nat) : Dev :=
  let p := d.patNow
  { d with trd := { d.trd with patPos := tset d.trd.patPos t (some (p / 1024, p % 1024)),
                               patOld := d.trd.patOld.filter (fun x => x.1 / 1024 != t) } }

/-- How far position `b` lies ahead of `a`, over all cycles; 0 where it lies behind. -/
def patGap (a b : Nat) : Nat :=
  let g := (b + 2 ^ 42 - a % 2 ^ 42) % 2 ^ 42
  if g < 2 ^ 41 then g else 0

/-- How far the master stands ahead of the last position of table `t` (R122). -/
def Dev.patAhead (d : Dev) (t : Nat) : Nat :=
  match tget none d.trd.patPos t with
  | none => 1
  | some (c, i) => patGap (c * 1024 + i) d.patNow

/-- The committed events of table `t`. -/
def Dev.patCommits (d : Dev) (t : Nat) : List PatCommit := tget [] d.trd.patCommit t

/-- Positions of table `t` that fire now, in index order: those that the master has passed since the last one fired, and, of
a table that no longer runs, the committed ones that it has reached (R109, R122). -/
def Dev.patPassed (d : Dev) (t : Nat) : List Nat :=
  if d.patRuns t 0 then
    let ahead := d.patAhead t
    (List.range ahead).map (fun j => (d.patNow + 2 ^ 42 + 1 - ahead + j) % 2 ^ 42)
  else ((d.patCommits t).filter (fun c => c.pos == d.patNow || 0 < patGap c.pos d.patNow)).map (fun c => c.pos)

/-- An entry of table `t` is written: what it held counts until the master next reaches it (R125). -/
def Dev.patWritten (d : Dev) (a : Nat) : Dev :=
  let k := (a - TRD_PAT_TAB 0 0) / 4
  let o : PatOld := match tfind d.trd.patOld k with
    | some o => if d.patRuns (k / 1024) 1 || o.at_ = d.tb.now then o else { before := d.r a, at_ := d.tb.now }
    | none => { before := d.r a, at_ := d.tb.now }
  { d with trd := { d.trd with patOld := tset d.trd.patOld k o } }

/-- Entry `i` of table `t` as a firing of this tick reads it (R125). DESIGN CHOICE, log entry 88. -/
def Dev.patWord (d : Dev) (t i : Nat) : Word :=
  match tfind d.trd.patOld (1024 * t + i) with
  | some o => if o.at_ = d.tb.now then o.before else d.r (TRD_PAT_TAB t i)
  | none => d.r (TRD_PAT_TAB t i)

/-- Position `p` (over all cycles) of table `t` fires (R122, R123, R423): as it was committed, or as it stands. On a pin it
acts in Run, and where it was committed in Run (R27, R109). DESIGN CHOICE, log entry 43. -/
def Dev.patFire (d : Dev) (t p : Nat) : Dev :=
  let i := p % 1024
  let made := (d.patCommits t).find? (fun c => c.pos == p)
  let w := match made with | some c => c.word | none => d.patWord t i
  let gate := match made with | some c => c.gate | none => d.gateOpen
  let demoted := match made with | some c => c.demoted | none => d.red.demoted
  let acts := made.isSome || d.mode == .run
  let d := { d with trd := { d.trd with patPos := tset d.trd.patPos t (some (p / 1024, i)),
                                        patOld := terase d.trd.patOld (1024 * t + i),
                                        patCommit := tmod [] d.trd.patCommit t (List.filter (fun c => c.pos != p)) } }
  if !(bitOf w 31) then d
  else
    let pin := fld w 29 24
    let d :=
      if fld w 23 22 = 3 || !acts then d
      else if d.pinSrc pin ≠ 2 || d.pinCmd pin ≠ bitOf w 30 then d.satf SHT_GLB_CNT 15 0 1
      else if demoted then d.suppressed
      else if bitOf w 30 && !gate then d.blocked
      else d.commitPin pin (fld w 23 22) t
    if bitOf w 21 then
      let (seq, d) := d.nextSeq (200 + t)
      let (v, d) := d.free
      d.postSubs (16 + t) (mkEv 3 t d.stampNow seq (setFld v 15 0 (fld w 15 0)))
    else d

/-- PATTERN_ENTRY_FIRE at table `t`: every entry passed, in index order. -/
def Dev.patStep (d : Dev) (t : Nat) : Dev :=
  d.each (d.patPassed t) (fun d p => d.patFire t p)

/-- The next entry of table `t` that has not been committed enters the commit horizon, in Run (R109, R123). -/
def Dev.patCommitNext (d : Dev) (t : Nat) : Dev :=
  let p := ((d.patCommits t).map (fun c => patGap d.patNow c.pos)).foldl Nat.max 0 + 1 + d.patNow
  let left : Int := (p * 2 ^ 38 : Nat) - (d.total d.patMaster : Int)
  let fresh : Bool := match tget none d.trd.patPos t with
    | some (c, i) => decide (0 < patGap (c * 1024 + i) p)
    | none => true
  if !(d.patRuns t 0) || d.mode ≠ .run || !fresh || 16 * d.rate d.patMaster < left then d
  else
    let c : PatCommit := { pos := p % 2 ^ 42, word := d.patWord t (p % 1024), gate := d.gateOpen,
                           demoted := d.red.demoted, commitTick := d.tb.now / 4 }
    { d with trd := { d.trd with patCommit := tmod [] d.trd.patCommit t (· ++ [c]) } }

/-- A committed pattern event that the master has not reached 32 ticks after its commit fires (R109). -/
def Dev.patSlip (d : Dev) (t : Nat) : Dev :=
  match (d.patCommits t).find? (fun c => c.commitTick + 32 ≤ d.tb.now / 4) with
  | some c => (d.patFire t c.pos).trdBell d.patMaster 6
  | none => d

/-- Entry `j` of cam table `t` as it counts now: a write counts from the next time the master reaches the entry (R125).
DESIGN CHOICE, log entry 88. -/
def Dev.camEntry (d : Dev) (t j : Nat) : Int :=
  sx 32 (match tfind d.trd.patOld (1024 * t + j) with | some o => o.before | none => d.r (TRD_PAT_TAB t j)).toNat

/-- The entry after entry `i` in cam table `t`: entry 1,024 is entry 0 plus the lift (R124). -/
def Dev.camNext (d : Dev) (t i : Nat) : Int :=
  if i = 1023 then d.camEntry t 0 + sx 32 (d.r (TRD_PAT_LIFT t)).toNat else d.camEntry t (i + 1)

/-- The cam position of table `t` (R124). DEDUCED, log entry 41. -/
def Dev.camPos (d : Dev) (t : Nat) : Int :=
  let ph := (d.trdl d.patMaster).acc / 2 ^ 16
  let i := ph / 2 ^ 22
  let f : Int := (ph / 2 ^ 6 % 65536 : Nat)
  d.camEntry t i + (d.camNext t i - d.camEntry t i) * f / 65536

/-- Table `t` sets a cam follower: it runs in CAM and names a treadle of the pattern group in mode CAM (R124). -/
def Dev.camActive (d : Dev) (t : Nat) : Bool :=
  let n := d.f (TRD_PAT_CFG t) 5 2
  d.patRuns t 1 && d.trdMode n == 6 && d.b TRD_PAT_GRP n && !(d.modeIn [.stop, .safe])

/-- The increment that the cam table gives its follower (R98): the speed of its position, in steps of 2^48 a tick, within the
s48. DEDUCED, log entry 88. -/
def Dev.camInc (d : Dev) (t : Nat) : Int :=
  let i := (d.trdl d.patMaster).acc / 2 ^ 38
  clampInt (-(2 ^ 47)) (2 ^ 47 - 1) ((d.camNext t i - d.camEntry t i) * d.rate d.patMaster * 2 ^ 10)

/-- A cam table in a tick: the entries that the master reaches count as written (R125), and the follower takes the increment
of the table (R98). -/
def Dev.tickCam (d : Dev) (t : Nat) : Dev :=
  if !(d.patRuns t 1) then d
  else
    let p := d.patNow
    let last := match tget none d.trd.patPos t with | some (c, i) => c * 1024 + i | none => p + 1
    let n := d.f (TRD_PAT_CFG t) 5 2
    let d :=
      if last = p then d
      else
        let g := Nat.max 1 (patGap last p)
        { d with trd := { d.trd with
          patPos := tset d.trd.patPos t (some (p / 1024, p % 1024))
          patOld := d.trd.patOld.filter (fun x => x.1 / 1024 != t || g ≤ (p + 1024 - x.1 % 1024) % 1024) } }
    if d.camActive t && (d.trdl n).ramp != .stopping then d.incSet n (d.camInc t) else d

/-- CAM_FOLLOW_STEP at table `t` (R124): one step where the follower may make one. -/
def Dev.camStep (d : Dev) (t : Nat) : Dev :=
  let n := d.f (TRD_PAT_CFG t) 5 2
  if !(d.camActive t) then d
  else
    let p := d.camPos t
    let diff := p - d.pos n
    let d := if d.f (TRD_PAT_CFG t) 31 16 < diff.natAbs then d.trdBell n 9 else d
    if diff = 0 then d
    else
      let up : Bool := decide (0 < diff)
      let d := d.dirSet n up
      if d.b (TRD_STEP_CFG n) 12 && (d.tb.now < (d.trdl n).stepFree || 0 < (d.trdl n).stepWait) then d
      else (d.posSet n (d.pos n + (if up then 1 else -1))).stepDue n

/-! ### Edge latches (R126, R127) -/

/-- An edge at the source of latch `l`. DEDUCED, log entry 42. -/
def Dev.latchEdge (d : Dev) (l : Nat) (rising : Bool) (back : Nat) : Dev :=
  let cfg := d.r (TRD_LATCH_CFG l)
  let e := fld cfg 8 7
  if 68 ≤ fld cfg 6 0 || !((e = 1 && rising) || (e = 2 && !rising) || e = 3) then d
  else if !(bitOf cfg 14) then d.satf (TRD_LATCH l 1) 31 16 1
  else
    let back := d.edgeBack (64 ≤ fld cfg 6 0) back
    let n := fld cfg 12 9
    let st := d.stampBack back
    let v := if bitOf cfg 13 then tc 64 (d.totalBack n back 16) else tc 48 (d.totalBack n back 0)
    let d := d.w (TRD_LATCH l 0) st.st
    let d := d.wf (TRD_LATCH l 1) 5 0 (st.quarter + 4 * st.gen)
    let d := (d.w (TRD_LATCH l 2) (w32 v)).w (TRD_LATCH l 3) (w32 (v / 2 ^ 32))
    let d := { d with trd := { d.trd with latchAt := tset d.trd.latchAt l d.tb.now } }
    let d := (d.wb (TRD_LATCH_CFG l) 14 false).ringBit .trd (16 + l)
    let (seq, d) := d.nextSeq (300 + l)
    let (w, d) := d.free
    d.postSubs (24 + l) (mkEv 4 l st seq w)

/-- A write of TRD_LATCH_CFG[l]: arm is set by a 1 and left by a 0; it does not arm a latch whose edge has come in the same
tick (R127). -/
def Dev.latchCfg (d : Dev) (l : Nat) (v : Word) : Dev :=
  let arm := bitOf v 14 && tfind d.trd.latchAt l != some d.tb.now
  d.w (TRD_LATCH_CFG l) (w32 (fld v 13 0 + 2 ^ 14 * b2n (arm || d.b (TRD_LATCH_CFG l) 14)))

/-- A read of TRD_LATCH[l] word 3. -/
def Dev.latchRead (d : Dev) (l : Nat) : Word × Dev := (d.r (TRD_LATCH l 3), d.wb (TRD_LATCH_CFG l) 14 true)

/-! ### The carry (R97, R103, R115) -/

/-- TREADLE_CARRY at treadle `n`: the cycle count follows the carry or borrow of the last tick, and a step is made of it; in
CAM the steps are those of R124, but for a deceleration (R129). DEDUCED, log entry 40; DEDUCED, log entry 88. -/
def Dev.carryOp (d : Dev) (n : Nat) : Dev :=
  let c := (d.trdl n).carry
  if c = 0 then d
  else
    let d := d.setTrdl n (fun t => { t with carry := 0, cycle := tc 32 ((t.cycle : Int) + c) })
    if d.trdMode n = 6 && (d.trdl n).ramp ≠ .stopping then d
    else
      let d := (d.dirSet n (decide (0 < c))).posSet n (d.pos n + c)
      let d := (d.stepDue n).rampArrive n
      if 0 < c then d.lockCycle n else d

/-! ### Meanings -/

/-- R97. -/
def execTreadleCarry (n : Fin 16) : State → Host.Outcome State Fault Refusal := lift (fun d => d.carryOp n.val)
/-- R115. -/
def execStepPulseDelayed (n : Fin 16) : State → Host.Outcome State Fault Refusal :=
  lift (fun d =>
    if 0 < (d.trdl n.val).stepWait && (d.trdl n.val).stepFree ≤ d.tb.now then
      (d.setTrdl n.val (fun t => { t with stepWait := t.stepWait - 1 })).pulse n.val
    else d)
/-- R112. -/
def execStrobe (n : Fin 16) : State → Host.Outcome State Fault Refusal := lift (fun d => d.strobe n.val)
/-- R99. -/
def execIncApply (who : Initiator) (n : Fin 16) (hi : Word) : State → Host.Outcome State Fault Refusal :=
  lift (fun d => d.access who (TRD_INC_HI n.val) (fun d => d.incHi who n.val hi))
/-- R99. -/
def execIncRead (who : Initiator) (n : Fin 16) : State → Host.Outcome State Fault Refusal :=
  lift (fun d => d.accessR who (TRD_INC_LO n.val) (fun d => d.incReadOp n.val))
/-- R99. -/
def execAccRead (who : Initiator) (n : Fin 16) : State → Host.Outcome State Fault Refusal :=
  lift (fun d => d.accessR who (TRD_ACC_LO n.val) (fun d => d.accReadOp n.val))
/-- R100. -/
def execTreadleModeWrite (who : Initiator) (n : Fin 16) (val : Word) : State → Host.Outcome State Fault Refusal :=
  lift (fun d => d.access who (TRD_CFG n.val) (fun d => d.trdCfg who n.val val))
/-- R103. -/
def execZcCrossing (n : Fin 16) (back : Fin 16) : State → Host.Outcome State Fault Refusal :=
  lift (fun d => d.crossing n.val back.val)
/-- R106. -/
def execPhaseAdjust (who : Initiator) (n : Fin 16) (adj : Word) : State → Host.Outcome State Fault Refusal :=
  lift (fun d => d.access who (TRD_PHASE_ADJ n.val) (fun d => d.phaseAdj who n.val adj))
/-- R117. -/
def execRampPeriod (n : Fin 16) : State → Host.Outcome State Fault Refusal :=
  lift (fun d => if d.rampDue n.val then d.rampStep n.val else d)
/-- R118. -/
def execRampGo (who : Initiator) (n : Fin 16) : State → Host.Outcome State Fault Refusal :=
  lift (fun d => d.access who (TRD_RAMP_CMD n.val) (fun d => d.rampCmd n.val 1))
/-- R118. -/
def execRampStop (who : Initiator) (n : Fin 16) : State → Host.Outcome State Fault Refusal :=
  lift (fun d => d.access who (TRD_RAMP_CMD n.val) (fun d => d.rampCmd n.val 2))
/-- R119. -/
def execGroupGo (who : Initiator) (g : Fin 4) (val : Word) : State → Host.Outcome State Fault Refusal :=
  lift (fun d => d.access who (TRD_GRP_CFG g.val) (fun d => d.groupCmd g.val val))
/-- R122. -/
def execPatternEntryFire (t : Fin 8) : State → Host.Outcome State Fault Refusal := lift (fun d => d.patStep t.val)
/-- R124. -/
def execCamFollowStep (t : Fin 8) : State → Host.Outcome State Fault Refusal := lift (fun d => d.camStep t.val)
/-- R126. -/
def execLatchArm (who : Initiator) (l : Fin 8) (val : Word) : State → Host.Outcome State Fault Refusal :=
  lift (fun d => d.access who (TRD_LATCH_CFG l.val) (fun d => d.latchCfg l.val val))
/-- R126. -/
def execLatchCapture (l : Fin 8) (rising : Bool) (back : Fin 16) : State → Host.Outcome State Fault Refusal :=
  lift (fun d => d.latchEdge l.val rising back.val)
/-- R127. -/
def execLatchRearm (who : Initiator) (l : Fin 8) : State → Host.Outcome State Fault Refusal :=
  lift (fun d => d.accessR who (TRD_LATCH l.val 3) (fun d => d.latchRead l.val))
/-- R130. -/
def execTreadleStart (who : Initiator) (val : Word) : State → Host.Outcome State Fault Refusal :=
  lift (fun d => d.access who TRD_START (fun d => d.trdStartWrite who val))
/-- R130. -/
def execTreadleStop (who : Initiator) (val : Word) : State → Host.Outcome State Fault Refusal :=
  lift (fun d => d.access who TRD_START (fun d => d.trdStartWrite who (val ||| 0x10000)))
/-- R130. -/
def execTreadleStartAt : State → Host.Outcome State Fault Refusal := lift Dev.trdStartAt

end Sys2Proof.Machine
end

