-- ==== Sys2Proof/Machine/Outputs.lean ====
section
/-!
DEFINITION. The output commit stage: the release of sealed outputs to their targets (R154, R244), the commit horizon and the
wave-time outputs of treadles (R108-R110), with the claim gate (R355, R356).
-/
namespace Sys2Proof.Machine

/-! ### Frames from inside the device -/

/-- A frame that did not come from an external port, `b` without its FCS: its stamps are the present tick (R306). Internal
ports have no VLAN of their own for an untagged frame: that VID and PCP are free values. DEDUCED, log entry 70. -/
def Dev.innerFrame (d : Dev) (p cls inSeq : Nat) (b : List Byte) : QFrame × Dev :=
  let tagged : Bool := tagCount 0x8100 b != 0
  let t := tciOf b
  let (v, d) := if tagged then (w32 (t % 4096 + t / 8192 * 4096), d) else d.free
  let st := d.tb.st
  ({ bytes := b ++ fcsOf b, st := st, quarter := 0, gen := d.gen, inPort := p, cls := cls, cut := false, sampled := false,
     truncated := false, stomped := false, red := 0, vid := fld v 11 0, pcp := fld v 14 12, tagged := tagged,
     length := b.length + 4, etype := etypeOf 0x8100 b, inSeq := inSeq, redSeq := 0, lan := 0, tag := 0, tsReq := false,
     onestep := false, cmd := false, chanOut := false, enqSt := st, stored := b.length + 4 }, d)

/-- The next sequence of frames accepted by an ingress port. -/
def Dev.nextIn (d : Dev) (p : Nat) : Nat × Dev :=
  let n := wrapAdd 16 (d.port p).inSeq 1
  (n, d.setPort p (fun m => { m with inSeq := n }))

/-! ### Release (R154, R244) -/

/-- Whether an output may act now; a suppressed or blocked one is counted (R355, R356). Frames for external ports are judged
at their claim. -/
def Dev.outGate (d : Dev) (cmd : Bool) : Bool × Dev :=
  if d.red.demoted then (false, d.suppressed)
  else if cmd && !d.gateOpen then (false, d.blocked)
  else (true, d)

/-- A PIN action of R201 by a channel output. DEDUCED, log entry 69. -/
def Dev.outPin (d : Dev) (desc : Word) : Dev := d.commitPin (fld desc 9 4) (fld desc 11 10) 8

/-- A released FRAME output (R201, R312). DEDUCED, log entry 70. -/
def Dev.outFrame (d : Dev) (o : Out) : Dev :=
  if o.data = [] then d
  else
    let p := fld o.desc 8 4
    let (seq, d) := d.nextIn 20
    let (f, d) := d.innerFrame 20 (fld o.desc 11 9) seq o.data
    let d := d.sample 20 false f
    let f := { f with tag := o.pair.toNat / 2 ^ 32 % 65536, tsReq := bitOf o.desc 13, onestep := bitOf o.desc 14,
                      cmd := bitOf o.desc 12, chanOut := true }
    if p < 20 then d.chanFrame p o.key f
    else
      let (ok, d) := d.outGate f.cmd
      if ok then (d.phDeliver f).2 else d

/-- The distance to a wave-time target lies in the commit horizon of treadle `n`. -/
def Dev.waveNear (d : Dev) (n w : Nat) : Bool :=
  (sx 64 (w + 2 ^ 64 - d.waveTime n % 2 ^ 64)) * 65536 ≤ 16 * (d.trdl n).inc

/-- A released PIN_WAVE output passes to its treadle, or is late (R110). DEDUCED, log entry 69. -/
def Dev.outWave (d : Dev) (e : Nat) (o : Out) : Dev :=
  let n := fld o.desc 19 16
  let w := o.pair.toNat
  if d.waveReached n w || d.waveNear n w || !(d.waveOk n) then (d.lateOut e o).trdBell n 5
  else if d.red.demoted then d.suppressed
  else d.setTrdl n (fun t => { t with wave := t.wave ++
    [{ chan := o.key, inId := o.inId, eng := e, desc := o.desc, target := w, committed := false, commitTick := 0 }] })

/-- The message words of a buffer's bytes. -/
def wordsOf (n : Nat) (b : List Byte) : List Word := (List.range n).map (fun i => w32 (leAt b (4 * i) 4))

/-- An output that has left its queue acts on its target. DEDUCED, log entry 70. -/
def Dev.outAct (d : Dev) (e : Nat) (o : Out) : Dev :=
  let desc := o.desc
  let kind := fld desc 3 0
  let gated := fun (cmd : Bool) (f : Dev → Dev) => (let (ok, d) := d.outGate cmd; if ok then f d else d)
  let send := fun (d : Dev) (words : List Word) (bit : Nat) => (match d.sendDir (keyChan o.key) (fld desc 11 4) with
    | some dir => (d.deliver (fld desc 11 4) dir words bit).1
    | none => d)
  if kind = 14 then d.safePins o.pair.toNat
  else if o.muted then d
  else if kind = 0 then d.outFrame o
  else if kind = 1 then (if o.committed then d.outPin desc else gated (bitOf desc 12) (fun d => d.outPin desc))
  else if kind = 2 then d.outWave e o
  else if kind = 3 then gated (bitOf desc 12) (fun d => d.canDeliver (fld desc 6 4) (fld desc 11 7) (wordsOf 18 o.data))
  else if kind = 4 then gated false (fun d =>
    send d (wordsOf (o.pair.toNat / 2 ^ 32 % 16) o.data) (match d.sendDir (keyChan o.key) (fld desc 11 4) with
      | some dir => d.mbxBit (fld desc 11 4) dir
      | none => 0))
  else if kind = 5 then gated false (fun d =>
    if o.data = [] then d else d.ringOut (keyChan o.key) (fld desc 6 4) (fld desc 15 7) o.rel o.data)
  else gated false (fun d => send d [] (fld desc 20 16))

/-- The output is due: sealed, not given while stepping, its release time reached. -/
def Dev.outDue (d : Dev) (o : Out) : Bool := o.isSealed && !o.stepped && reached d.tb.st o.rel

/-- The first of a queue's due outputs: the earliest release time, ties in the order given. -/
def Dev.firstOut (d : Dev) : List Out → Option Out
  | [] => none
  | o :: t => match d.firstOut t with
    | none => if d.outDue o then some o else none
    | some p => if d.outDue o && !(stBefore p.rel o.rel) then some o else some p

/-- An output leaves engine `e`'s queue. -/
def Dev.outTake (d : Dev) (e : Nat) (o : Out) : Dev :=
  d.setEng e (fun en => { en with outq := en.outq.erase o })

/-- OUTPUT_RELEASE on engine `e` (R154): in Run; the SAFE late action in any mode but Hold; an output that has passed the
commit stage, which counts as released, in any mode (R109, R538). `ecc` is what the read of the output queue finds: an
uncorrectable codeword retires the engine, and the output is not released (R260, R265). DEDUCED, log entry 69. -/
def Dev.releaseOut (d : Dev) (e : Nat) (ecc : Ecc) : Dev :=
  let l := (d.eng e).outq.filter (fun o => d.mode == .run || (o.desc == 14 && d.mode != .hold) || o.committed)
  match d.firstOut l with
  | none => d
  | some o =>
    if ecc = .uncorr then d.queueEcc e ecc
    else ((((d.outTake e o).outAct e o).migrateDone (keyChan o.key))).queueEcc e ecc

/-! ### The commit horizon (R109) -/

/-- A wave-time output commits, or the gate removes it (R355, R356); outside Run nothing commits.
DEDUCED, log entry 69. -/
def Dev.waveCommit (d : Dev) (n : Nat) (o : WaveOut) : Dev :=
  if d.mode ≠ .run then d
  else
    let (ok, d) := d.outGate (bitOf o.desc 12)
    if ok then d.setTrdl n (fun t => { t with wave := t.wave.map (fun (x : WaveOut) =>
      if x == o then { x with committed := true, commitTick := d.tb.now / 4 } else x) })
    else (d.setTrdl n (fun t => { t with wave := t.wave.erase o })).migrateDone (keyChan o.chan)

/-- EVENT_COMMIT. -/
def Dev.commitEvent (d : Dev) (t : CommitTarget) : Dev :=
  match t with
  | .shortOut e i => match (d.eng e.val).outq[i]? with
    | none => d
    | some o =>
      if fld o.desc 3 0 ≠ 1 || o.committed || o.muted || !o.isSealed || o.stepped || d.mode ≠ .run ||
         !(reached d.tb.st (o.rel - 64)) then d
      else
        let (ok, d) := d.outGate (bitOf o.desc 12)
        if ok then d.setEng e.val (fun en =>
          { en with outq := en.outq.map (fun (x : Out) => if x == o then { x with committed := true } else x) })
        else (d.outTake e.val o).migrateDone (keyChan o.key)
  | .waveOut n i => match (d.trdl n.val).wave[i]? with
    | none => d
    | some o => if o.committed || !(d.waveNear n.val o.target) then d else d.waveCommit n.val o
  | .pattern t => d.patCommitNext t.val
  | .start => d.trdStartCommit

/-- A committed wave-time output fires on its pin. -/
def Dev.waveFire (d : Dev) (n : Nat) (o : WaveOut) : Dev :=
  let d := d.setTrdl n (fun t => { t with wave := t.wave.erase o })
  (d.outPin o.desc).migrateDone (keyChan o.chan)

/-- WAVE_COMPARE_REACHED: the target is reached; an output that has not been through the commit stage goes through it now. -/
def Dev.waveCompare (d : Dev) (n i : Nat) : Dev :=
  match (d.trdl n).wave[i]? with
  | none => d
  | some o =>
    if !(d.waveReached n o.target) then d
    else
      let d := if o.committed then d else d.waveCommit n o
      match (d.trdl n).wave.find? (fun x => x.committed && x.target == o.target && x.chan == o.chan && x.inId == o.inId &&
        x.desc == o.desc) with
      | some x => d.waveFire n x
      | none => d

/-- A committed wave-time output whose target has not been reached 32 ticks after its commit fires. -/
def Dev.waveSlip (d : Dev) (n i : Nat) : Dev :=
  match (d.trdl n).wave[i]? with
  | none => d
  | some o =>
    if o.committed && o.commitTick + 32 ≤ d.tb.now / 4 && !(d.waveReached n o.target) then (d.waveFire n o).trdBell n 6 else d

/-- WAVE_SLIP_FIRE: of the scheduled events, those in wave time can slip. -/
def Dev.slipEvent (d : Dev) (t : CommitTarget) : Dev :=
  match t with
  | .waveOut n i => d.waveSlip n.val i
  | .pattern t => d.patSlip t.val
  | .shortOut _ _ => d
  | .start => d

/-! ### Meanings -/

/-- R154. -/
def execOutputRelease (e : Fin 96) (ecc : Ecc) : State → Host.Outcome State Fault Refusal := lift (fun d => d.releaseOut e.val ecc)
/-- R109. -/
def execEventCommit (t : CommitTarget) : State → Host.Outcome State Fault Refusal := lift (fun d => d.commitEvent t)
/-- R108. -/
def execWaveCompareReached (n : Fin 16) (i : Nat) : State → Host.Outcome State Fault Refusal :=
  lift (fun d => d.waveCompare n.val i)
/-- R109. -/
def execWaveSlipFire (t : CommitTarget) : State → Host.Outcome State Fault Refusal := lift (fun d => d.slipEvent t)

end Sys2Proof.Machine
end

