-- ==== Sys2Proof/Machine/RegPlain.lean ====
section
/-!
DEFINITION. What a write and a read of a register do by its access codes alone (R5-R8), and the bells that a write of a bell
or mask register sends (R534). The register files of the blocks build on it and add what their chapters say of a register.
-/
namespace Sys2Proof.Machine

/-- The index of an element of a register array. -/
def elem (a base stride n : Nat) : Option Nat :=
  if base ≤ a && (a - base) % stride == 0 && (a - base) / stride < n then some ((a - base) / stride) else none

/-- A register word after a write of `v` (R7); a bit that hardware sets in the same clock is not cleared (R8).
DEDUCED, log entry 81; DEDUCED, log entry 82. -/
def writeByCode (r : RegDesc) (lockOpen : Bool) (old v hwSet : Word) : Word :=
  let rw := if lockOpen then r.rw ||| r.rwl else r.rw
  let x := (old &&& ~~~ rw) ||| (v &&& rw)
  let x := x &&& ~~~ (v &&& r.w1c &&& ~~~ hwSet)
  x ||| (v &&& r.w1s)

/-- The bits of a register word that a read returns; the others read 0 (R6, R7). DEDUCED, log entry 81. -/
def readMask (r : RegDesc) : Word := r.rw ||| r.ro ||| r.w1c ||| r.w1s ||| r.rc ||| r.rwl

/-- An engine's access to the unassigned range of BAR0: it has raised ADDR, and nothing is recorded (R531). -/
def beyondBlocks (who : Initiator) (a : Nat) : Bool :=
  match who with
  | .engine _ => decide (0x1460000 ≤ a)
  | _ => false

/-- RWL fields are writable: the lifecycle is BLANK or PROVISIONED (R7). -/
def Dev.lockOpen (d : Dev) : Bool := d.lifecycle < 2

/-- A write by access codes alone: the stored word, the bells of a bell or mask register, and the record of a locked field. -/
def Dev.plainWrite (d : Dev) (who : Initiator) (r : RegDesc) (a : Nat) (v hwSet : Word) : Dev :=
  let before := match bellAt a with
    | some b => (match b.vec with | some n => d.vecOr n | none => false)
    | none => false
  let d := d.w a (writeByCode r d.lockOpen (d.r a) v hwSet)
  let d := match bellAt a with
    | some b => d.bellWritten b (b.addr == a) before
    | none => d
  if r.rwl != 0 && !d.lockOpen then d.accErr who true 3 a else d

/-- A read by access codes alone: RC fields are cleared by it. -/
def Dev.plainRead (d : Dev) (r : RegDesc) (a : Nat) : Word × Dev :=
  let v := d.r a
  (v &&& readMask r, if r.rc = 0 then d else d.w a (v &&& ~~~ r.rc))

end Sys2Proof.Machine
end

