-- ==== Sys2Proof/Machine/BridgeReg.lean ====
section
/-!
DEFINITION. Mailboxes as the host uses them (R470, R471), the bridge semaphore (R477, R478), and the writes of the registers of
MBX, HBR and FBR whose chapter gives them more than their access codes (spec/17_mailboxes_bridges.md).
-/
namespace Sys2Proof.Machine

def Dev.setHbr (d : Dev) (f : Bridge → Bridge) : Dev := { d with hbr := f d.hbr }

/-! ### Mailboxes -/

/-- The party of mailbox `m` that is the host. -/
def Dev.hostSide (d : Dev) (m : Nat) : Option Nat :=
  if isHostParty (d.r (MBX_PARTY m 0)) then some 0 else if isHostParty (d.r (MBX_PARTY m 1)) then some 1 else none

/-- A write of MBX_SEND[m] (R471, R467). DEDUCED, log entry 75. -/
def Dev.mbxSend (d : Dev) (who : Initiator) (m : Nat) (v : Word) : Dev :=
  let n := fld v 3 0
  if !(isHost who) then d.refuseOwner who (MBX_SEND m)
  else match d.hostSide m with
    | none => d.failWrite 5
    | some side =>
      if !(d.b (MBX_MSTAT m) 31) || fld v 31 20 ≠ d.f (MBX_MSTAT m) 11 0 || 8 < n then d.failWrite 5
      else
        let peer := 1 - side
        let words := (List.range n).map (fun i => d.r (MBX_TX m i))
        let (d, full) := d.deliver m peer words (d.mbxBit m peer)
        if full then d.failWrite 4 else d

/-- A write of MBX_POP (R470): a slot toward the host is free again, but one filled in the same tick stays full (R468, R8).
DEDUCED, log entry 75. -/
def Dev.mbxPop (d : Dev) (v : Word) : Dev :=
  let m := fld v 7 0
  let peer := fld v 8 8
  if tfind d.swc.fullAt (2 * m + peer) = some d.tb.now then d
  else if isHostParty (d.r (MBX_PARTY m peer)) && d.b (MBX_RXSTAT m peer) 0 then
    (d.wf (MBX_RXSTAT m peer) 4 0 0).wb (MBX_HFULL (m / 32)) (m % 32) false
  else d

/-- MBX. -/
def Dev.wrMbx (d : Dev) (who : Initiator) (a : Nat) (v : Word) (p : Dev → Dev) : Dev :=
  if a = MBX_POP then d.mbxPop v
  else if MBX_PARTY 0 0 ≤ a then
    let m := (a - MBX_PARTY 0 0) / 0x80
    let o := a % 0x80
    if o = 0x0C then d.mbxSend who m v
    else if 0x10 ≤ o && o < 0x30 then if isHost who then p d else d.refuseOwner who a
    else p d
  else p d

/-- A word of a message as a reader sees it: a channel reads only a slot toward itself (R469). -/
def Dev.mbxRead (d : Dev) (who : Initiator) (m peer a : Nat) : Word × Dev :=
  match who with
  | .engine e =>
    (match d.engChan e.val, d.chanOf (d.r (MBX_PARTY m peer)) with
     | some k, some c => if keyChan k = c then (d.r a, d) else (0, d.accErr who false 6 a)
     | _, _ => (0, d.accErr who false 6 a))
  | _ => (d.r a, d)

/-! ### The semaphore (R477, R478) -/

/-- The semaphore goes to a holder. -/
def Dev.semTake (d : Dev) (h : SemHolder) : Dev := d.setHbr (fun b => { b with sem := h, semSince := d.tb.now })

/-- The semaphore is free. -/
def Dev.semFree (d : Dev) : Dev := d.setHbr (fun b => { b with sem := .free })

/-- Code of the holder in HBR_STAT.sem. -/
def SemHolder.code : SemHolder → Nat
  | .free => 0 | .lb => 1 | .engine _ => 2

/-- A read of HBR_SEM: an engine takes a free semaphore (R478); any other reader sees whether it is held.
DEDUCED, log entry 75. -/
def Dev.semRead (d : Dev) (who : Initiator) : Word × Dev :=
  match who with
  | .engine e => if d.hbr.sem = .free then (1, d.semTake (.engine e.val)) else (0, d)
  | _ => (if d.hbr.sem = .free then 0 else 1, d)

/-- A write of HBR_SEM: 1 from the engine that holds the semaphore releases it (R478). DEDUCED, log entry 75. -/
def Dev.semWrite (d : Dev) (who : Initiator) (v : Word) : Dev :=
  match who with
  | .engine e => if bitOf v 0 && d.hbr.sem = .engine e.val then d.semFree else d
  | _ => d

/-! ### HBR and FBR -/

/-- The descriptor array of a ring in external memory lies outside the pool and the bolt store (R482). -/
def Dev.ringPlaceOk (d : Dev) (r : Nat) (v : Word) : Bool :=
  let base := (d.r (HBR_RING_BASE_LO r)).toNat + 2 ^ 32 * (d.r (HBR_RING_BASE_HI r)).toNat
  let n := 16 * 2 ^ fld v 3 0
  let mib := 2 ^ 20
  let clear := fun (b s : Nat) => s == 0 || base + n ≤ b * mib || (b + s) * mib ≤ base
  !(bitOf v 4) || (clear (d.f XMC_BOLT_BASE 13 0) (d.f XMC_BOLT_SIZE 13 0) && clear (d.f XMC_POOL_BASE 13 0) (d.f XMC_POOL_SIZE 13 0))

/-- A write of HBR_RING_CFG[r] (R482): one that clears en is always taken. DEDUCED, log entry 75. -/
def Dev.ringCfg (d : Dev) (who : Initiator) (r a : Nat) (v : Word) (p : Dev → Dev) : Dev :=
  let old := d.r a
  if bitOf old 5 && !(bitOf v 5) then p d
  else if bitOf old 5 then if (old ^^^ v) &&& 0x3FFF001F = 0 then p d else d.refuse who a
  else if fld v 3 0 < 3 || 12 < fld v 3 0 || !(d.ringPlaceOk r v) then d.refuse who a
  else p d

/-- A write of a word of ring `r`'s base: an enabled ring in external memory keeps its place's limits (R482).
DEDUCED, log entry 75. -/
def Dev.ringBase (d : Dev) (who : Initiator) (r a : Nat) (p : Dev → Dev) : Dev :=
  if d.b (HBR_RING_CFG r) 5 && !((p d).ringPlaceOk r (d.r (HBR_RING_CFG r))) then d.refuse who a else p d

/-- HBR. -/
def Dev.wrHbr (d : Dev) (who : Initiator) (a : Nat) (v : Word) (p : Dev → Dev) : Dev :=
  if a = HBR_SEM then d.semWrite who v
  else match elem (HBR_RING_CFG 0) 0x20 8 a, elem (HBR_RING_BASE_LO 0) 0x20 8 a, elem (HBR_RING_BASE_HI 0) 0x20 8 a with
    | some r, _, _ => d.ringCfg who r a v p
    | _, some r, _ => d.ringBase who r a p
    | _, _, some r => d.ringBase who r a p
    | _, _, _ => p d

/-- Bits of a staged route word that a write sets: all but the read-only ones (R7). -/
def stageMask (i : Nat) : Word := if i = 0 then 0x7FFFFFFF else if i = 6 then 0x0000FFFF else 0xFFFFFFFF

/-- Template word `j` is about to be written (R490): what it held before this tick is kept for a read in the same tick. -/
def Dev.tmplWrite (d : Dev) (j : Nat) : Dev :=
  let keep := d.hbr.tmplOld.filter (fun x => x.2.1 == d.tb.now)
  d.setHbr (fun b => { b with tmplOld :=
    if (tfind keep j).isSome then keep else tset keep j (d.tb.now, (d.r (FBR_TMPL j)).toNat) })

/-- FBR: the stage keeps every writable bit and the reserved ones, for OPEN to judge them (R485); disabling empties the queue
(R490). DEDUCED, log entry 75. -/
def Dev.wrFbr (d : Dev) (a : Nat) (v : Word) (p : Dev → Dev) : Dev :=
  if a = FBR_CTRL then
    let d := p d
    if bitOf v 0 then d else { d with fbr := [] }
  else match elem (FBR_STAGE 0) 4 8 a, elem (FBR_TMPL 0) 4 4096 a with
    | some i, _ => d.w a (v &&& stageMask i)
    | none, some j => p (d.tmplWrite j)
    | none, none => p d

end Sys2Proof.Machine
end

