-- ==== Sys2Proof/Machine/Mac.lean ====
section
/-!
DEFINITION. Meanings of the port rows (10_ports_mac.md): frames received and sent, cut-through, flow control, the monitor, link
views, MDIO, the tallies, and the hardware peer-delay response (R86).
-/
namespace Sys2Proof.Machine

/-! ### Reception (R282-R284) -/

/-- A frame as the switch holds it: its bytes with FCS, and what the parser found. -/
def Dev.mkFrame (d : Dev) (p : Nat) (bytes : List Byte) (len inSeq : Nat) (st : Stamp) : QFrame :=
  let b := cutFcs bytes
  let (vid, pcp, tagged) := d.vlanOf p b
  { bytes := bytes, st := st.st, quarter := st.quarter, gen := st.gen, inPort := p,
    cls := d.f (SWC_PCP_MAP p) (3 * pcp + 2) (3 * pcp), cut := false, sampled := false, truncated := false, stomped := false,
    red := 0, vid := vid, pcp := pcp, tagged := tagged, length := len, etype := etypeOf (d.tpid p) b, inSeq := inSeq, redSeq := 0,
    lan := 0, tag := 0, tsReq := false, onestep := false, cmd := false, chanOut := false, enqSt := st.st, stored := bytes.length }

/-- The cut-through of port `p`, if one runs, ends with its ingress frame, and its tentative entry resolves (R327, R340). -/
def Dev.cutResolve (d : Dev) (p : Nat) (f : QFrame) (good : Bool) : Dev :=
  let t := match (d.port p).cut with | some c => c.tentative | none => none
  let d := d.cutEnd p f good
  match t with
  | some (k, sa, seq) => d.tentative k sa seq good
  | none => d

/-- A Pdelay_Req for the hardware responder (R86). -/
def Dev.pdelayTake (d : Dev) (p : Nat) (b : List Byte) (st : Stamp) : Dev :=
  let isReq : Bool := match ptpOf (d.tpid p) b with | some m => m.msg == 2 && m.ofs + 54 ≤ b.length | none => false
  if d.b (TB_PORT_CFG p) 1 && isReq then
    d.setPort p (fun m => { m with pdelay := m.pdelay ++ [{ req := b, st := st.st, quarter := st.quarter }] })
  else d

/-- A good frame, after MACsec and the filter: counted, sampled, and passed to the pipeline. Its copies know of a cut-through
(R306). -/
def Dev.frameGood (d : Dev) (p : Nat) (f : RxFrame) (b : List Byte) (st : Stamp) : Dev :=
  let d := d.tallyRxGood p f.bytes.length b
  let seq := wrapAdd 16 (d.port p).inSeq 1
  let d := d.setPort p (fun m => { m with inSeq := seq })
  let q := d.mkFrame p (b ++ fcsOf b) f.bytes.length seq st
  let cut := (d.port p).cut
  let q := { q with cut := cut.isSome }
  let d := (d.sample p false q).pdelayTake p b st
  let done := match cut with | some c => c.egress ++ c.gone | none => []
  let entered : Bool := match cut with | some c => c.tentative.isSome | none => false
  (((d.cutResolve p q true).lookup p q entered done)).2

/-- A frame that R282 drops under tally `t`. -/
def Dev.frameBad (d : Dev) (p t : Nat) (f : RxFrame) (st : Stamp) : Dev :=
  let cut := (d.port p).cut.isSome
  let d := d.tally p t 1
  let d := if cut && !(fcsGood f.bytes) then d.tally p 45 1 else d
  if cut then d.cutResolve p (d.mkFrame p f.bytes f.bytes.length 0 st) false else d

/-- A frame that goes no further: a cut-through of it ends in error. -/
def Dev.frameGone (d : Dev) (p : Nat) (f : RxFrame) (st : Stamp) : Dev :=
  if (d.port p).cut.isSome then d.cutResolve p (d.mkFrame p f.bytes f.bytes.length 0 st) false else d

/-- A whole frame off the wire (R280-R287, R302). One that the port's datapath cannot correct retires the port (R260, R261) and
is discarded with it. DESIGN CHOICE, log entry 91. -/
def Dev.frameReceive (d : Dev) (p : Nat) (f : RxFrame) : Dev :=
  let n := f.bytes.length
  let st := d.rxStamp p n f.back.val
  let d := if d.rxOn p && !(d.portRetired p) then d.pathEcc (0xE0 + p) f.path else d
  if !(d.rxOn p) || d.portRetired p || f.path == .uncorr then d.frameGone p f st
  else
    let d := d.tally p 1 n
    match d.rxCheck p f with
    | some t => d.frameBad p t f st
    | none =>
      if isPause f.bytes then (d.tallyRxGood p n (cutFcs f.bytes)).pauseFrame p f.bytes
      else match d.secIn p (cutFcs f.bytes) with
        | (d, none) => d.frameGone p f st
        | (d, some b) => if d.vlanAccept p b then d.frameGood p f b st else d.frameBad p 42 f st

/-- The first 64 bytes of a frame are in (R327). -/
def Dev.headerReceive (d : Dev) (p : Nat) (hdr : List Byte) (back : Nat) : Dev :=
  if !(d.rxOn p) || d.portRetired p || (d.port p).cut.isSome || d.f (MAC_SEC_CFG p) 3 2 ≠ 0 || beAt hdr 12 2 = 0x8808 ||
     !(d.vlanAccept p hdr) then d
  else
    let f := d.mkFrame p (hdr ++ [0, 0, 0, 0]) 0 (wrapAdd 16 (d.port p).inSeq 1) (d.rxStamp p 64 back)
    d.cutThrough p { f with bytes := hdr, stored := 64 }

/-! ### The peer-delay response (R86) -/

/-- The response to a request: the request's own header with a source address that no register gives (and, over UDP, source
and checksums likewise), and the message. DEDUCED, log entry 54. -/
def Dev.pdelayFrame (d : Dev) (p : Nat) (x : Pdelay) (t3 : Stamp) : List Byte × Dev :=
  match ptpOf (d.tpid p) x.req with
  | none => ([], d)
  | some m =>
    let two := d.b (TB_PORT_CFG p) 2
    let req := x.req.drop m.ofs
    let (sa, d) := d.freeBytes 6
    let hdr := overwrite (x.req.take m.ofs) 6 sa
    let (ip, d) := d.freeBytes (if m.carrier = 1 then 4 else if m.carrier = 2 then 16 else 0)
    let (sum, d) := d.freeBytes (if m.carrier = 0 then 0 else 2)
    let hdr :=
      if m.carrier = 1 then overwrite (overwrite (overwrite hdr (m.ofs - 16) ip) (m.ofs - 18) sum) (m.ofs - 2) [0, 0]
      else if m.carrier = 2 then overwrite (overwrite hdr (m.ofs - 40) ip) (m.ofs - 2) sum else hdr
    let turn : Int := (4 * stDiff t3.st x.st + t3.quarter - x.quarter) * 16384
    let t2 := d.stToTai x.st
    let body :=
      [BitVec.ofNat 8 ((byteAt req 0).toNat / 16 * 16 + 3), byteAt req 1] ++ beBytes 2 54 ++ [byteAt req 4, 0] ++
      [if two then 2 else 0, 0] ++ beBytes 8 (if two then 0 else tc 64 turn) ++ [0, 0, 0, 0] ++
      beBytes 4 (d.r TB_CLOCK_ID_HI).toNat ++ beBytes 4 (d.r TB_CLOCK_ID_LO).toNat ++ beBytes 2 (p + 1) ++
      (req.drop 30).take 2 ++ [5, 0x7F] ++
      (if two then beBytes 6 (t2 / 1000000000).toNat ++ beBytes 4 (t2 % 1000000000).toNat else List.replicate 10 0) ++
      (req.drop 20).take 10
    (hdr ++ body, d)

/-- An idle port answers the oldest request. A request that the port cannot answer at once waits, beyond 10 µs too: the spec does
not say what then becomes of it. DEDUCED, log entry 54; DESIGN CHOICE, log entry 92. -/
def Dev.pdelayRespond (d : Dev) (p : Nat) : Dev :=
  let d := d.txDone p
  match (d.port p).pdelay with
  | [] => d
  | x :: rest =>
    if (d.port p).sending.isSome || d.tb.now < (d.port p).freeAt || !(d.txOn p) || !(d.linkUp p) || d.portRetired p ||
       !(d.releaseGuard p (x.req.length + 4)) then d
    else
      let d := d.setPort p (fun m => { m with pdelay := rest })
      let st := d.txStamp p d.tb.now 0
      let (b, d) := d.pdelayFrame p x st
      let (d, s) := d.secOut p b
      let out : Option (List Byte × Bool) := match s with
        | .refused => none
        | .secured y => some (y, true)
        | _ => some (b, false)
      match out with
      | none => d
      | some (y, sec) =>
        let y := padTo 60 y
        let y := y ++ fcsOf y
        let (tag, d) := d.free
        let d := if d.b (TB_PORT_CFG p) 2 || d.b (TB_PORT_CFG p) 0 then d.tsqPut p st true (tag.toNat % 65536) else d
        let f := { d.mkFrame p (b ++ fcsOf b) y.length 0 st with inPort := 22 }
        let e : QEntry := { f := f, cells := 0, charge := .none, yields := 0, cell := 0, pe := none }
        (d.sample p true f).launch p d.tb.now 0 e y false sec (some x)

/-! ### Flow control -/

/-- The quanta of a hold run out (R292). -/
def Dev.holdExpire (d : Dev) (p q : Nat) : Dev :=
  match tfind (d.port p).holdEnd q with
  | some t => if t ≤ d.tb.now then d.holdOff p q else d
  | none => d

/-- A hold reaches the watchdog's length (R294). -/
def Dev.holdWatch (d : Dev) (p q : Nat) : Dev :=
  match tfind (d.port p).holdStart q with
  | some t => if t + 1000 * d.f (MAC_PAUSE_WDOG p) 19 0 ≤ d.tb.now then d.holdBreak p q else d
  | none => d

/-- The ignore period is over (R295). -/
def Dev.ignoreOver (d : Dev) (p q : Nat) : Dev :=
  match tfind (d.port p).ignoreEnd q with
  | some t =>
    if t ≤ d.tb.now then (d.setPort p (fun m => { m with ignoreEnd := terase m.ignoreEnd q })).wb (MAC_PAUSE_STAT p) (8 + q) false else d
  | none => d

/-! ### MDIO (R304, R305) -/

/-- A command begins: its frame goes out, and the master is busy. -/
def Dev.mdioStart (d : Dev) (m : Nat) (v : Word) : Dev :=
  (({ d with mdio := tset d.mdio m (.cmd v) }).wb (MAC_MDIO_STAT m) 0 true).emit
    (.mdio m (fld v 1 0) v (d.f (MAC_MDIO_DATA m) 15 0) (!(d.b (MAC_MDIO_CFG m) 8)))

/-- A write of MAC_MDIO_CMD whose op is `op`; `withHost` where a host write lands in the same clock. A command that comes during a
poll waits for its end; one more is discarded. DEDUCED, log entry 55. -/
def Dev.mdioCmd (d : Dev) (who : Initiator) (m op : Nat) (v : Word) (withHost : Bool) : Dev :=
  if fld v 1 0 ≠ op then d
  else if withHost && !(isHost who) then d.refuse who (MAC_MDIO_CMD m)
  else match tget MdioOp.idle d.mdio m with
    | .idle => d.mdioStart m v
    | .poll p none => { d with mdio := tset d.mdio m (.poll p (some v)) }
    | _ => d.refuse who (MAC_MDIO_CMD m)

/-- A command or a poll completes; `answer` is what the PHY returned, and `speed` the speed that it has resolved. A Clause 45 read
that nothing answers has no stated result. DESIGN CHOICE, log entry 55. -/
def Dev.mdioDone (d : Dev) (m : Nat) (answer : Option (BitVec 16)) (speed : Nat) : Dev :=
  let read := fun (d : Dev) (c45 : Bool) => (match answer with
    | some x => (x.toNat, d)
    | none => if c45 then (let (x, d) := d.free; (x.toNat % 65536, d)) else (0xFFFF, d))
  match tget MdioOp.idle d.mdio m with
  | .idle => d
  | .cmd v =>
    let d :=
      if fld v 0 0 = 0 then d
      else
        let (x, d) := read d (bitOf v 1)
        d.wf (MAC_MDIO_DATA m) 15 0 x
    let d := ({ d with mdio := tset d.mdio m .idle }).wb (MAC_MDIO_STAT m) 0 false
    (d.incf (MAC_MDIO_STAT m) 31 16 1).ringBit .macGlb m
  | .poll p wait =>
    let (x, d) := read d (d.b (MAC_LINK_CFG p) 12)
    let d := ({ d with mdio := tset d.mdio m .idle }).wb (MAC_MDIO_STAT m) 0 false
    let d := if d.f (MAC_LINK_CFG p) 1 0 = 0 then d.mgmtView p (x.testBit 2) speed else d
    match wait with
    | some v => d.mdioStart m v
    | none => d

/-- A poll of a port's PHY that is due begins: a read of register 1, or with c45 of register 1.1 (R299, R304), which
MDIO_COMPLETE ends. DESIGN CHOICE, log entry 55. -/
def Dev.mdioPoll (d : Dev) (m p : Nat) : Dev :=
  let c := d.r (MAC_LINK_CFG p)
  let due : Bool := match (d.port p).polled with
    | some t => t + fld c 31 16 * 1000000 ≤ d.tb.now
    | none => true
  if !d.hostUp || fld c 1 0 ≠ 0 || fld c 6 6 ≠ m || !due || tget MdioOp.idle d.mdio m ≠ .idle then d
  else
    let op := if bitOf c 12 then 3 else 1
    let v := w32 (op + 4 * fld c 11 7 + 128 + (if bitOf c 12 then 65536 else 0))
    let d := ({ d with mdio := tset d.mdio m (.poll p none) }).wb (MAC_MDIO_STAT m) 0 true
    (d.setPort p (fun x => { x with polled := some d.tb.now })).emit
      (.mdio m op v (d.f (MAC_MDIO_DATA m) 15 0) (!(d.b (MAC_MDIO_CFG m) 8)))

/-! ### Tallies (R289, R290) -/

/-- A read of word 0 of a tally. -/
def Dev.tallyReadOp (d : Dev) (p i : Nat) : Word × Dev :=
  let v := tget 0 (d.port p).tally i
  (w32 v, d.w (MAC_TALLY p i 1) (w32 (v / 2 ^ 32)))

/-- A write of MAC_TALLY_CLR. -/
def Dev.tallyClr (d : Dev) (p : Nat) (v : Word) : Dev :=
  if bitOf v 0 then d.setPort p (fun m => { m with tally := [] }) else d

/-! ### Meanings -/

/-- R282-R284. -/
def execFrameReceive (p : Fin 20) (f : RxFrame) : State → Host.Outcome State Fault Refusal :=
  lift (fun d => d.frameReceive p.val f)
/-- R327. -/
def execCutThroughStart (p : Fin 20) (hdr : List Byte) (back : Back) : State → Host.Outcome State Fault Refusal :=
  liftIf (hdr.length == 64) (fun d => d.headerReceive p.val hdr back.val)
/-- R292. -/
def execPauseHoldExpire (p : Fin 20) (q : Fin 8) : State → Host.Outcome State Fault Refusal :=
  lift (fun d => d.holdExpire p.val q.val)
/-- R294. -/
def execPauseWatchdog (p : Fin 20) (q : Fin 8) : State → Host.Outcome State Fault Refusal :=
  lift (fun d => d.holdWatch p.val q.val)
/-- R295. -/
def execPauseIgnoreEnd (p : Fin 20) (q : Fin 8) : State → Host.Outcome State Fault Refusal :=
  lift (fun d => d.ignoreOver p.val q.val)
/-- R311. -/
def execEgressSelect (p : Fin 22) (ecc : Ecc) : State → Host.Outcome State Fault Refusal :=
  lift (fun d => d.egressSelect p.val ecc)
/-- R281, R296. -/
def execFrameTransmitEnd (p : Fin 20) (seen : Option (List Byte)) (cell : Ecc) : State → Host.Outcome State Fault Refusal :=
  lift (fun d => d.txEnd p.val seen cell)
/-- R297. -/
def execMonitorMissing (p : Fin 20) : State → Host.Outcome State Fault Refusal := lift (fun d => d.monMissing p.val)
/-- R299, R300. -/
def execLinkStateChange (p : Fin 20) (l : LinkFacts) : State → Host.Outcome State Fault Refusal :=
  lift (fun d => d.linkChange p.val l)
/-- R304. -/
def execMdioPoll (m : Fin 2) (p : Fin 20) : State → Host.Outcome State Fault Refusal :=
  lift (fun d => d.mdioPoll m.val p.val)
/-- R305. -/
def execMdioC22Write (who : Initiator) (m : Fin 2) (v : Word) (withHost : Bool) : State → Host.Outcome State Fault Refusal :=
  lift (fun d => d.access who (MAC_MDIO_CMD m.val) (fun d => d.mdioCmd who m.val 0 v withHost))
/-- R305. -/
def execMdioC22Read (who : Initiator) (m : Fin 2) (v : Word) (withHost : Bool) : State → Host.Outcome State Fault Refusal :=
  lift (fun d => d.access who (MAC_MDIO_CMD m.val) (fun d => d.mdioCmd who m.val 1 v withHost))
/-- R305. -/
def execMdioC45Write (who : Initiator) (m : Fin 2) (v : Word) (withHost : Bool) : State → Host.Outcome State Fault Refusal :=
  lift (fun d => d.access who (MAC_MDIO_CMD m.val) (fun d => d.mdioCmd who m.val 2 v withHost))
/-- R305. -/
def execMdioC45Read (who : Initiator) (m : Fin 2) (v : Word) (withHost : Bool) : State → Host.Outcome State Fault Refusal :=
  lift (fun d => d.access who (MAC_MDIO_CMD m.val) (fun d => d.mdioCmd who m.val 3 v withHost))
/-- R305. -/
def execMdioComplete (m : Fin 2) (answer : Option (BitVec 16)) (speed : Fin 5) : State → Host.Outcome State Fault Refusal :=
  lift (fun d => d.mdioDone m.val answer speed.val)
/-- R290. -/
def execTallyClear (who : Initiator) (p : Fin 20) (v : Word) : State → Host.Outcome State Fault Refusal :=
  lift (fun d => d.access who (MAC_TALLY_CLR p.val) (fun d => d.tallyClr p.val v))
/-- R289. -/
def execTallyRead (who : Initiator) (p : Fin 20) (i : Fin 48) : State → Host.Outcome State Fault Refusal :=
  lift (fun d => d.accessR who (MAC_TALLY p.val i.val 0) (fun d => d.tallyReadOp p.val i.val))
/-- R86. -/
def execPdelayResponse (p : Fin 20) (_back : Back) : State → Host.Outcome State Fault Refusal :=
  lift (fun d => d.pdelayRespond p.val)

end Sys2Proof.Machine
end

