-- ==== Sys2Proof/Machine/Cutter.lean ====
section
/-!
DEFINITION. The commands of the Cutter's rows (08_channels_cutter.md): the writes of CUT_CMD[k], period boundaries, the ends
of stops, recoveries and takeovers, checkpoint epochs, the comparison of the two views and the automatic move.
-/
namespace Sys2Proof.Machine

/-- A write of CUT_CMD[k] with code `code`. DEDUCED, log entry 16. -/
def Dev.cmdWrite (d : Dev) (k : Nat) (who : Initiator) (code : Nat) : Dev :=
  d.access who (CUT_CMD k) (fun d => d.cutCmd k who (w32 code))

/-- An OPEN of the kind that the row names: ARG0 holds it. DEDUCED, log entry 16. -/
def Dev.openWrite (d : Dev) (k : Nat) (who : Initiator) (kind : Nat) : Dev :=
  if (d.arg k 0).toNat = kind then d.cmdWrite k who 8 else d

/-- CREATE (R214). -/
def execCreate (k : Fin 4) (who : Initiator) : State → Host.Outcome State Fault Refusal := lift (fun d => d.cmdWrite k who 1)
/-- START (R220). -/
def execStart (k : Fin 4) (who : Initiator) : State → Host.Outcome State Fault Refusal := lift (fun d => d.cmdWrite k who 2)
/-- STOP (R221). -/
def execStop (k : Fin 4) (who : Initiator) : State → Host.Outcome State Fault Refusal := lift (fun d => d.cmdWrite k who 3)
/-- DESTROY (R221). -/
def execDestroy (k : Fin 4) (who : Initiator) : State → Host.Outcome State Fault Refusal := lift (fun d => d.cmdWrite k who 4)
/-- QUERY (R218). -/
def execQuery (k : Fin 4) (who : Initiator) : State → Host.Outcome State Fault Refusal := lift (fun d => d.cmdWrite k who 5)
/-- MIGRATE (R237). -/
def execMigrate (k : Fin 4) (who : Initiator) : State → Host.Outcome State Fault Refusal := lift (fun d => d.cmdWrite k who 6)
/-- CHECKPOINT (R234). -/
def execCheckpoint (k : Fin 4) (who : Initiator) : State → Host.Outcome State Fault Refusal := lift (fun d => d.cmdWrite k who 7)
/-- OPEN of a mailbox (R465). -/
def execOpenMailbox (k : Fin 4) (who : Initiator) : State → Host.Outcome State Fault Refusal := lift (fun d => d.openWrite k who 2)
/-- OPEN of a route (R485). -/
def execOpenRoute (k : Fin 4) (who : Initiator) : State → Host.Outcome State Fault Refusal := lift (fun d => d.openWrite k who 3)
/-- OPEN of a pattern handle (R121). -/
def execOpenPattern (k : Fin 4) (who : Initiator) : State → Host.Outcome State Fault Refusal := lift (fun d => d.openWrite k who 4)
/-- OPEN of a stream reservation (R218). -/
def execOpenStreamReservation (k : Fin 4) (who : Initiator) : State → Host.Outcome State Fault Refusal :=
  lift (fun d => d.openWrite k who 5)
/-- CLOSE (R466). -/
def execClose (k : Fin 4) (who : Initiator) : State → Host.Outcome State Fault Refusal := lift (fun d => d.cmdWrite k who 9)
/-- A command code that the table of R218 does not hold. -/
def execUnknownCutterCmd (k : Fin 4) (who : Initiator) (code : Byte) : State → Host.Outcome State Fault Refusal :=
  lift (fun d => if 1 ≤ code.toNat && code.toNat ≤ 9 then d else d.cmdWrite k who code.toNat)

/-! ### Boundaries and the ends of long commands -/

/-- The next period boundary of a channel has come (R220, R225): the boundaries advance; an ARMED channel that may not start
yet only lets it pass; a scan task has its boundaries at the latch instants instead (R444). -/
def Dev.periodBoundary (d : Dev) (c : Nat) : Dev :=
  if !((d.chan c).st.ticking) || d.scanTask c || !(d.boundaryDue c) then d
  else
    let p := d.boundarySt c
    let d := d.boundaryNext c
    if ((d.chan c).st = .armed && !(d.mayStart c p)) || (d.chan c).backTo.isSome then d else d.boundary c p true

/-- R225. -/
def execPeriodBoundary (c : Fin 512) : State → Host.Outcome State Fault Refusal := lift (fun d => d.periodBoundary c)

/-- Nothing of the channel is left to deliver, seal or release, nor of an original that drains after a switch-over. -/
def Dev.drained (d : Dev) (c : Nat) : Bool := d.spent c && (d.chan c).mig.isNone

/-- A stopping channel has released or made late its last output, and no event stamped before the boundary can still arrive
within its settle time: it is CREATED; a CHECKPOINT or a DESTROY that waited for it goes on (R221).
DEDUCED, log entry 18. -/
def Dev.stopComplete (d : Dev) (c : Nat) : Dev :=
  let ch := d.chan c
  match ch.st with
  | .stopping =>
    match ch.stopAt with
    | some p =>
      if d.drained c && reached d.tb.st (p + w32 ch.settle) then
        let d := d.setChan c (fun ch => { ch with st := .created, stopReq := false, stopAt := none, startAt := none, ckptPorts := [] })
        let d := if ch.ckptPorts = [] then d else
          let d := d.ckptNow c
          d.each ch.ckptPorts (fun d k => d.cmdDone k 0 (some (d.chan c).epochs))
        if ch.destroyPort.isSome then d.destroyChan c else d
      else d
    | none => d
  | .faulted => if ch.destroyPort.isSome then d.destroyChan c else d
  | _ => d

/-- R221. -/
def execChannelStopComplete (c : Fin 512) : State → Host.Outcome State Fault Refusal := lift (fun d => d.stopComplete c)

/-- A checkpoint epoch is due at the channel's next boundary, every I (R234), and those whose settle time has passed stand.
DESIGN CHOICE, log entry 27. -/
def Dev.ckptEpoch (d : Dev) (c : Nat) : Dev :=
  let d := d.ckptSettled c
  let ch := d.chan c
  let i := fld (d.desc c 6) 27 16 * 10000
  if (ch.st = .running || ch.st = .migrating) && i ≠ 0 && ch.epochAt + i ≤ d.tb.now then
    d.setChan c (fun ch => { ch with ckptWanted := true, epochAt := d.tb.now })
  else d

/-- R234. -/
def execCheckpointEpoch (c : Fin 512) : State → Host.Outcome State Fault Refusal := lift (fun d => d.ckptEpoch c)

/-- The replay has ended: every journalled event taken and sealed. -/
def Dev.replayOver (d : Dev) (c : Nat) : Bool :=
  (d.chan c).st = .recovering && (tfind d.cut.acts c).isSome && !((d.eng (d.act c).eng).retired) &&
    (d.act c).st != .faulted && (d.chan c).recF.isSome && (d.chan c).replay = 0 && (d.act c).input.isNone

/-- The state that follows a replay: the former one of a channel that was not running; STOPPING where a stop waits, ARMED where
the device is not in Run or a start target lies ahead (R220), else RUNNING. DEDUCED, log entry 29. -/
def Dev.afterReplay (d : Dev) (c : Nat) : Dev :=
  let d := if (d.chan c).backTo == some .faulted then d.setAct c (fun a => { a with st := .faulted }) else d
  d.setChan c (fun ch =>
    let ahead := match ch.startAt with | some t => !(reached d.tb.st t) | none => false
    let st := match ch.backTo with | some b => b | none => if ch.stopReq then ChanState.stopping
      else if d.mode = .stop || d.mode = .spare || ahead then .armed else .running
    { ch with st := st, backTo := none, recF := none, takeover := false, startAt := if st = .armed then ch.startAt else none })

/-- A recovery ends (R239). -/
def Dev.recoveryComplete (d : Dev) (c : Nat) : Dev :=
  if d.replayOver c && !(d.chan c).takeover then
    ((d.afterReplay c).ringBit .cut 7).satf CUT_MIGRATE_CNT 31 16 1
  else d

/-- R239. -/
def execRecoveryComplete (c : Fin 512) : State → Host.Outcome State Fault Refusal := lift (fun d => d.recoveryComplete c)

/-- A takeover's replay ends (R361). -/
def Dev.takeoverReplayDone (d : Dev) (c : Nat) : Dev :=
  if d.replayOver c && (d.chan c).takeover then
    (d.afterReplay c).takingDone
  else d

/-- R361. -/
def execTakeoverReplayDone (c : Fin 512) : State → Host.Outcome State Fault Refusal := lift (fun d => d.takeoverReplayDone c)

/-! ### The two views (R249) -/

/-- `ecc` is what the read of the Cutter's tables finds (R260). -/
def execTableCompare (ecc : Ecc) : State → Host.Outcome State Fault Refusal := lift (fun d => d.tableCompare.tableEcc ecc)

/-- CUT_CTRL.resync: the table is rebuilt from the slots; a recovery that the disagreement held back goes on.
DEDUCED, log entry 20; DEDUCED, log entry 90. -/
def Dev.resync (d : Dev) : Dev :=
  let held := d.cut.held
  let m := (d.liveChans).map (fun c => (c, if (d.chan c).remote then tget none d.cut.mgmt c else d.slotOf c))
  let d := { d.wb CUT_STAT 0 false with cut := { d.cut with mgmt := m, held := [] } }
  d.each held (fun d c =>
    match (d.chan c).st, (d.chan c).recF with
    | .recovering, some f =>
      if d.b CUT_CTRL 1 && (d.act c).st == .faulted then
        d.rePlace c f ((d.chan c).backTo.isNone || (d.chan c).backTo == some .created)
      else d
    | _, _ => d)

/-- R249. -/
def execResync (who : Initiator) : State → Host.Outcome State Fault Refusal :=
  lift (fun d => d.access who CUT_CTRL (fun d => d.resync))

/-- An automatic move of a RUNNING channel (R237, R540), with CUT_CTRL.auto_defrag at 1. -/
def Dev.autoMove (d : Dev) (c : Nat) : Dev :=
  if d.b CUT_CTRL 0 && d.modeIn [.stop, .run, .spare] && (d.chan c).st = .running && !(d.isHeld c) && !((d.chan c).remote) then
    match d.migrateTo c (d.engineList c) none with
    | .inr d => d
    | .inl _ => d
  else d

/-- R237. -/
def execAutomaticMove (c : Fin 512) : State → Host.Outcome State Fault Refusal := lift (fun d => d.autoMove c)

end Sys2Proof.Machine
end

