-- ==== Sys2Proof/Machine/Sec.lean ====
section
/-!
DEFINITION. The meanings of the security unit's commands (spec/18_security_identity.md).
-/
namespace Sys2Proof.Machine

/-- R495. -/
def execProvision (who : Initiator) (val : Word) (withHost : Bool) : State → Host.Outcome State Fault Refusal :=
  lift (fun d => d.secCmd who val withHost [0] [.provision] Dev.secProvision)
/-- R494. -/
def execField (who : Initiator) (val : Word) (withHost : Bool) (miss : Word) : State → Host.Outcome State Fault Refusal :=
  lift (fun d => d.secCmd who val withHost [1] [.provision, .stop] (fun d => d.secField miss))
/-- R496. -/
def execRetire (who : Initiator) (val : Word) (withHost : Bool) (miss : Word) : State → Host.Outcome State Fault Refusal :=
  lift (fun d => d.secCmd who val withHost [1, 2] [.provision, .stop, .run, .safe] (fun d => d.secRetire miss))
/-- R501. -/
def execAttest (who : Initiator) (val : Word) (withHost : Bool) : State → Host.Outcome State Fault Refusal :=
  lift (fun d => d.secCmd who val withHost [1, 2] [.provision, .stop, .run, .spare] Dev.secAttest)
/-- R500. -/
def execExtend (who : Initiator) (val : Word) (withHost : Bool) : State → Host.Outcome State Fault Refusal :=
  lift (fun d => d.secCmd who val withHost [0, 1, 2, 3] [.provision, .stop, .run]
    (fun d => (d.extend 3 (d.buf 0 12)).secDone 0))
/-- R493, R499. -/
def execRollfwd (who : Initiator) (val : Word) (withHost : Bool) : State → Host.Outcome State Fault Refusal :=
  lift (fun d => d.secCmd who val withHost [1, 2] [.stop] Dev.secRollfwd)
/-- R493: the lifecycle allows words, not the command. -/
def execOtpProg (who : Initiator) (val : Word) (withHost : Bool) (miss : Word) : State → Host.Outcome State Fault Refusal :=
  lift (fun d => d.secCmd who val withHost [0, 1, 2, 3] anyMode (fun d => d.secOtpProg miss))
/-- R507. -/
def execDbgChal (who : Initiator) (val : Word) (withHost : Bool) : State → Host.Outcome State Fault Refusal :=
  lift (fun d => d.secCmd who val withHost [1, 2] anyMode Dev.secDbgChal)
/-- R507. -/
def execDbgUnlock (who : Initiator) (val : Word) (withHost : Bool) : State → Host.Outcome State Fault Refusal :=
  lift (fun d => d.secCmd who val withHost [1, 2] anyMode Dev.secDbgUnlock)
/-- R507. -/
def execDbgLock (who : Initiator) (val : Word) (withHost : Bool) : State → Host.Outcome State Fault Refusal :=
  lift (fun d => d.secCmd who val withHost [0, 1, 2, 3] anyMode
    (fun d => (d.setSec (fun s => { s with dbgUnlocked := false })).secDone 0))
/-- R506: 1,024 samples of start-up tests, which pass or fail. -/
def execRngRestart (who : Initiator) (val : Word) (withHost healthy : Bool) : State → Host.Outcome State Fault Refusal :=
  lift (fun d => d.secCmd who val withHost [0, 1, 2, 3] anyMode
    (fun d => d.rngRestart healthy))
/-- R494: an unknown code. -/
def execUnknownSecCmd (who : Initiator) (val : Word) (withHost : Bool) : State → Host.Outcome State Fault Refusal :=
  lift (fun d =>
    if 1 ≤ fld val 7 0 && fld val 7 0 ≤ 0x0B then d
    else d.secCmd who val withHost [0, 1, 2, 3] anyMode (fun d => d.secDone 8))
/-- R502. -/
def execKeyWrite (who : Initiator) (val : Word) : State → Host.Outcome State Fault Refusal :=
  lift (fun d => d.access who SEC_KEY_CMD (fun d => d.keyCmd (fld val 7 0) false))
/-- R502. -/
def execKeyErase (who : Initiator) (val : Word) : State → Host.Outcome State Fault Refusal :=
  lift (fun d => d.access who SEC_KEY_CMD (fun d => d.keyCmd (fld val 7 0) true))
/-- R503. -/
def execCipherGo (who : Initiator) (q : Fin 16) (val : Word) : State → Host.Outcome State Fault Refusal :=
  lift (fun d => d.access who (SEC_CQ_GO q.val) (fun d => d.cipherGo who q.val val))
/-- R504. -/
def execCipherJobDone (q : Fin 16) (ecc : Ecc) : State → Host.Outcome State Fault Refusal :=
  lift (fun d => d.cipherDone q.val ecc)
/-- R506. -/
def execRngRead (who : Initiator) (held : Fin 65) : State → Host.Outcome State Fault Refusal :=
  lift (fun d => d.accessR who SEC_RNG (fun d => d.rngRead held.val))
/-- R506: the generator stops. -/
def execRngHealthFail : State → Host.Outcome State Fault Refusal :=
  lift (fun d => if d.rngUp && d.hostUp then d.rngBad else d)

end Sys2Proof.Machine
end

