-- ==== Sys2Proof/Machine/ShuttleOps.lean ====
section
/-!
DEFINITION. What a shuttle does at a tick (15_shuttles.md): the instructions of R429 to R433, the two FIFOs (R434, R435),
injection and program replacement (R438, R439), starts, stops and triggers (R426, R436, R437).
-/
namespace Sys2Proof.Machine

/-- Relative pin `r` of shuttle `n`'s group (R420). -/
def shtPin (n r : Nat) : Nat := 16 * (n / 8) + r % 16

/-- The word length W of shuttle `n`. -/
def Dev.shtW (d : Dev) (n : Nat) : Nat := d.f (SHT_FRAME n) 4 0 + 1

/-! ### The divider (R427) -/

/-- The first 2.5 ns base clock at or after the present tick, in quarter-nanoseconds. DEDUCED, log entry 42. -/
def Dev.baseNext (d : Dev) : Nat := (4 * d.tb.now + 9) / 10 * 10

/-- Base clocks from the divider's last mark to its `k`-th tick. -/
def Shuttle.clocksTo (x : Shuttle) (k : Nat) : Nat := ceilDiv (k * x.divD - x.divAcc) 65536

/-- Which tick since the divider's last mark a row is: the next one when it lies within the present 4 ns, else the latest one;
0 when none has come. DESIGN CHOICE, log entry 73. -/
def Dev.shtTickNo (d : Dev) (n : Nat) : Nat :=
  let x := d.shuttle n
  let k := (x.divAcc + 65536 * ((4 * d.tb.now - x.divAt) / 10)) / x.divD
  if 0 < k && 4 * d.tb.now < x.divAt + 10 * x.clocksTo 1 + 16 then 1 else k

/-- The shuttle takes its tick: the divider's mark moves to it, and SHT_CLKDIV holds from then on.
DESIGN CHOICE, log entry 73. -/
def Dev.shtTake (d : Dev) (n : Nat) : Dev :=
  let k := d.shtTickNo n
  let v := (d.r (SHT_CLKDIV n)).toNat
  d.setSht n (fun x =>
    { x with divAt := x.divAt + 10 * x.clocksTo k
             divAcc := x.divAcc + 65536 * x.clocksTo k - k * x.divD
             divD := v })

/-- The stamp of the tick that the shuttle has taken. DEDUCED, log entry 72. -/
def Dev.shtStamp (d : Dev) (n : Nat) : Stamp := d.stampBack (4 * d.tb.now - (d.shuttle n).divAt)

/-- A restart of the divider, at the next base clock (R427, R436, R437). -/
def Dev.shtRestart (d : Dev) (n : Nat) : Dev :=
  let v := (d.r (SHT_CLKDIV n)).toNat
  let t := d.baseNext
  d.setSht n (fun x => { x with divAt := t, divAcc := 0, divD := v })

/-! ### Pins, shifters and FIFOs -/

/-- A counter of the shuttle, and its bell where it has one. -/
def Dev.shtCount (d : Dev) (n i : Nat) (bell : Option Nat) : Dev :=
  let d := d.cnt (SHT_CNT n i)
  match bell with
  | some b => d.ringBit (.sht n) b
  | none => d

/-- A shuttle's write to a pin: it reaches only a SHUTTLE pin that names the shuttle as its carrier (R422). -/
def Dev.shtDrive (d : Dev) (n i : Nat) (level oe : Option Bool) : Dev :=
  if d.pinSrc i = 1 && d.f (SHT_PIN_CFG i) 5 3 = n % 8 then d.actPin i level oe else d.shtCount n 3 none

/-- The sixteen pads that a pins source reads, as sampled in the previous base clock (R428, R429). -/
def Dev.shtPads (d : Dev) (n : Nat) (pads : BitVec 64) : Nat :=
  let b := d.f (SHT_WIN n) 3 0
  (List.range 16).foldl (fun v k => v + (if pads.getLsbD (shtPin n (b + k)) then 2 ^ k else 0)) 0

/-- Levels of `m` pins from put_base on, from the bits of `v`. -/
def Dev.shtLevels (d : Dev) (n m v : Nat) : Dev :=
  let b := d.f (SHT_WIN n) 7 4
  d.each (List.range m) (fun d k => d.shtDrive n (shtPin n (b + k)) (some (v.testBit k)) none)

/-- STOW: IBS enters the up FIFO; a full FIFO refuses a blocking one and has its newest entry overwritten by another (R431).
DEDUCED, log entry 72. -/
def Dev.shtStow (d : Dev) (n : Nat) (block : Bool) : Option Dev :=
  let x := d.shuttle n
  let full : Bool := decide (4 ≤ x.up.length)
  if full && block then none
  else
    let e := (x.ibs, d.shtStamp n, x.stowSeq)
    let d := d.setSht n (fun x =>
      { x with up := (if full then x.up.dropLast else x.up) ++ [e], ibs := 0, ibCnt := 0, stowSeq := wrapAdd 16 x.stowSeq 1 })
    some (if full then d.shtCount n 0 (some 9) else d)

/-- FETCH: the oldest word of the down FIFO enters OBS; an empty one refuses a blocking fetch and repeats the last word for
another (R431). -/
def Dev.shtFetch (d : Dev) (n : Nat) (block : Bool) : Option Dev :=
  let x := d.shuttle n
  let w := d.shtW n
  match x.dn with
  | v :: t => some (d.setSht n (fun x => { x with dn := t, obs := v, lastFetch := v, obLeft := w }))
  | [] =>
    if block then none
    else some ((d.setSht n (fun x => { x with obs := x.lastFetch, obLeft := w })).shtCount n 1 (some 10))

/-- A reserved opcode, a reserved code in a field, or a non-zero field marked 0 (R433). -/
def shtIllegal (w : BitVec 16) : Bool :=
  let v := w.toNat
  let z := fun (m : Nat) => decide (Nat.land v m ≠ 0)
  match v % 16 with
  | 0 => z 0xF0 | 1 => z 0x60F0
  | 2 => z 0x10F0 || (decide (v / 16384 = 3) && v.testBit 13)
  | 3 => z 0x70 || decide (v / 16384 = 3)
  | 4 => z 0x70 | 5 => z 0x1F0 | 6 => z 0x70
  | 7 => z 0xF0 || decide (5 ≤ v / 8192) || decide (v / 256 % 4 = 3)
  | 8 => z 0x7FF0 | 9 => z 0x7FF0 | 10 => z 0xFF0
  | _ => true

/-- How the execution of an instruction ends: the next one follows, a branch, a wait or a stall begins. -/
inductive ShtEnd where
  | next | jump (pc : Nat) | wait | stall (k : StallKind)
  deriving DecidableEq, Repr

/-- Scratch register s0 or s1. -/
def Shuttle.s (x : Shuttle) (k : Nat) : Word := if k = 0 then x.s0 else x.s1
def Shuttle.setS (x : Shuttle) (k : Nat) (v : Word) : Shuttle := if k = 0 then { x with s0 := v } else { x with s1 := v }

/-- The shuttle writes s0 or s1: what else is written there in this tick is discarded. -/
def Dev.shtSetS (d : Dev) (n k : Nat) (v : Word) : Dev :=
  d.setSht n (fun x => { x.setS k v with sAt := tset x.sAt k (d.tb.now + 1) })

/-- The eight conditions of BR (R429). -/
def Dev.shtCond (d : Dev) (n c : Nat) (pads : BitVec 64) : Bool :=
  let x := d.shuttle n
  let pin := pads.getLsbD (shtPin n (d.f (SHT_WIN n) 15 12))
  match c with
  | 0 => true | 1 => pin | 2 => !pin | 3 => !x.dn.isEmpty | 4 => decide (x.up.length < 4) | 5 => decide (x.obLeft = 0)
  | 6 => decide (x.s0.toNat < x.s1.toNat)
  | _ => decide (d.shtW n ≤ x.ibCnt)

def Dev.shtBr (d : Dev) (n v : Nat) (pads : BitVec 64) : ShtEnd × Dev :=
  (if d.shtCond n (v / 8192) pads then .jump (v / 256 % 32) else .next, d)

def Dev.shtLoop (d : Dev) (n v : Nat) : ShtEnd × Dev :=
  let k := v / 32768
  let s := (d.shuttle n).s k - 1
  (if s = 0 then .next else .jump (v / 256 % 32), d.shtSetS n k s)

/-- The treadle of the shuttle's group. -/
def Dev.shtTrd (d : Dev) (n : Nat) : Nat := d.f (SHT_GRP_CFG (n / 8)) 4 1

/-- What a WAIT that completes puts into the stamp register; none while its condition does not hold (R432). The edge's
instant is given by who sees the pin: `edge` quarter-nanoseconds ago, on the 2.5 ns grid of R539. -/
def Dev.shtWaitOver (d : Dev) (n v : Nat) (pads : BitVec 64) (edge : Option Stamp) (trig : Option Stamp) : Option Stamp :=
  let x := d.shuttle n
  let pol := v.testBit 13
  match v / 16384 with
  | 0 => if pads.getLsbD (shtPin n (v / 256 % 16)) == pol then some x.stamp else none
  | 1 => edge
  | 2 =>
    if pol then
      if d.waveOk (d.shtTrd n) && decide ((w32 (d.waveTime (d.shtTrd n)) - x.s0).toNat < 2 ^ 31) then some (d.shtStamp n) else none
    else if reached (d.shtStamp n).st x.s0 then some ⟨x.s0, 0, d.gen⟩ else none
  | _ => trig

/-- A WAIT under way: it completes, or it goes on and shows a treadle that cannot carry wave time. -/
def Dev.shtWait (d : Dev) (n v : Nat) (pads : BitVec 64) (edge trig : Option Stamp) : ShtEnd × Dev :=
  match d.shtWaitOver n v pads edge trig with
  | some st => (.next, d.setSht n (fun x => { x with stamp := st }))
  | none =>
    let bad : Bool := decide (v / 16384 = 2) && v.testBit 13 && !(d.waveOk (d.shtTrd n))
    (.wait, if bad then d.ringBit (.sht n) 14 else d)

def cnt32 (c : Nat) : Nat := if c = 0 then 32 else c

/-- GET's shift into IBS (R430). -/
def Dev.shtGetShift (d : Dev) (n v : Nat) (pads : BitVec 64) : Dev :=
  let c := cnt32 (v / 512 % 32)
  let x := d.shuttle n
  let src := v / 16384
  let b := (if src = 0 then d.shtPads n pads else (x.s (src - 1)).toNat) % 2 ^ c
  let i := if v.testBit 8 then x.ibs.toNat / 2 ^ c + b * 2 ^ (32 - c) else x.ibs.toNat * 2 ^ c + b
  d.setSht n (fun x => { x with ibs := w32 i, ibCnt := Nat.min 32 (x.ibCnt + c) })

def Dev.shtGet (d : Dev) (n v : Nat) (pads : BitVec 64) : ShtEnd × Dev :=
  let d := d.shtGetShift n v pads
  if v.testBit 7 && d.shtW n ≤ (d.shuttle n).ibCnt then
    match d.shtStow n true with
    | some d => (.next, d)
    | none => (.stall .getStow, d)
  else (.next, d)

/-- PUT's shift out of OBS and its write (R430). -/
def Dev.shtPutShift (d : Dev) (n v : Nat) : Dev :=
  let c := cnt32 (v / 512 % 32)
  let o := (d.shuttle n).obs.toNat
  let b := if v.testBit 8 then o % 2 ^ c else o / 2 ^ (32 - c)
  let o := if v.testBit 8 then o / 2 ^ c else o * 2 ^ c
  let d := d.setSht n (fun x => { x with obs := w32 o, obLeft := x.obLeft - c })
  match v / 16384 with
  | 0 => d.shtLevels n (Nat.min c 16) b
  | 1 => d.shtSetS n 0 (w32 b)
  | 2 => d.shtSetS n 1 (w32 b)
  | _ => d

def Dev.shtPut (d : Dev) (n v : Nat) : ShtEnd × Dev :=
  if v.testBit 7 && (d.shuttle n).obLeft = 0 then
    match d.shtFetch n true with
    | some d => (.next, d.shtPutShift n v)
    | none => (.stall .putFetch, d)
  else (.next, d.shtPutShift n v)

/-- PINS: levels or drive enables of pins_width pins. A width of 7 is reserved: whether a seventh pin is written, and with
what, is a free value. DEDUCED, log entry 71. -/
def Dev.shtPins (d : Dev) (n v : Nat) : ShtEnd × Dev :=
  let b := d.f (SHT_WIN n) 7 4
  let width := d.f (SHT_WIN n) 10 8
  let put := fun (d : Dev) (k : Nat) (x : Bool) =>
    if v.testBit 15 then d.shtDrive n (shtPin n (b + k)) none (some x) else d.shtDrive n (shtPin n (b + k)) (some x) none
  let d := d.each (List.range (Nat.min 6 width)) (fun d k => put d k (v.testBit (9 + k)))
  if width = 7 then
    let (f, d) := d.free
    (.next, if bitOf f 0 then put d 6 (bitOf f 1) else d)
  else (.next, d)

def Dev.shtLoadImm (d : Dev) (n v : Nat) : ShtEnd × Dev :=
  (.next, d.shtSetS n (v / 32768) (w32 (v / 128 % 256)))

/-- COPY's source word. -/
def Dev.shtSrc (d : Dev) (n s : Nat) (pads : BitVec 64) : Word :=
  let x := d.shuttle n
  match s with
  | 0 => w32 (d.shtPads n pads) | 1 => x.s0 | 2 => x.s1 | 3 => x.ibs | 4 => x.obs | 5 => x.stamp.st
  | 6 => w32 (x.stamp.quarter + 4 * x.stamp.gen)
  | _ => (d.shtStamp n).st

def Dev.shtCopy (d : Dev) (n v : Nat) (pads : BitVec 64) : ShtEnd × Dev :=
  let s := d.shtSrc n (v / 1024 % 8) pads
  let r := match v / 256 % 4 with
    | 0 => s
    | 1 => w32 (leVal (leBytes 4 s.toNat).reverse)
    | _ => s + 1
  let w := d.shtW n
  (.next, match v / 8192 with
    | 0 => d.shtLevels n 16 r.toNat
    | 1 => d.shtSetS n 0 r
    | 2 => d.shtSetS n 1 r
    | 3 => d.setSht n (fun x => { x with ibs := r, ibCnt := 32 })
    | _ => d.setSht n (fun x => { x with obs := r, obLeft := w }))

def Dev.shtStowOp (d : Dev) (n v : Nat) : ShtEnd × Dev :=
  match d.shtStow n (v.testBit 15) with
  | some d => (.next, d)
  | none => (.stall .stow, d)

def Dev.shtFetchOp (d : Dev) (n v : Nat) : ShtEnd × Dev :=
  match d.shtFetch n (v.testBit 15) with
  | some d => (.next, d)
  | none => (.stall .fetch, d)

/-- BELL: sets a bell bit, and with wait holds until it is clear. -/
def Dev.shtBellOp (d : Dev) (n v : Nat) : ShtEnd × Dev :=
  let b := v / 4096 % 8
  let d := d.ringBit (.sht n) b
  if v.testBit 15 then (.wait, d.setSht n (fun x => { x with bellWait := some b })) else (.next, d)

/-- One legal instruction at a tick. -/
def Dev.shtExec (d : Dev) (n : Nat) (w : BitVec 16) (pads : BitVec 64) : ShtEnd × Dev :=
  let v := w.toNat
  match v % 16 with
  | 0 => d.shtBr n v pads
  | 1 => d.shtLoop n v
  | 2 => d.shtWait n v pads none none
  | 3 => d.shtGet n v pads
  | 4 => d.shtPut n v
  | 5 => d.shtPins n v
  | 6 => d.shtLoadImm n v
  | 7 => d.shtCopy n v pads
  | 8 => d.shtStowOp n v
  | 9 => d.shtFetchOp n v
  | _ => d.shtBellOp n v

/-- The shuttle goes on at `pc`: nothing waits or stalls any more. -/
def Dev.shtGo (d : Dev) (n pc : Nat) : Dev :=
  d.setSht n (fun x => { x with state := .run, pc := pc % 32, stall := none, bellWait := none, trig := none })

/-- The end of a program's instruction at a tick. -/
def Dev.shtEnd (d : Dev) (n : Nat) (w : BitVec 16) (e : ShtEnd) : Dev :=
  match e with
  | .next => d.shtGo n ((d.shuttle n).pc + 1)
  | .jump pc => d.shtGo n pc
  | .wait => d.setSht n (fun x => { x with state := .wait, inst := w, waitAt := x.divAt, trig := none })
  | .stall k => d.setSht n (fun x => { x with state := .stall, inst := w, stall := some k })

/-- The instruction that shuttle `n` fetches: a write in this tick comes after the fetch (R439). -/
def Dev.shtFetched (d : Dev) (n : Nat) : BitVec 16 :=
  let x := d.shuttle n
  BitVec.ofNat 16 (match tfind x.progOld x.pc with
    | some (t, v) => if t = d.tb.now then v else d.f (SHT_PROG n x.pc) 15 0
    | none => d.f (SHT_PROG n x.pc) 15 0)

/-- An instruction of the program store is about to be written (R439). -/
def Dev.progWrite (d : Dev) (n i : Nat) : Dev :=
  match tfind (d.shuttle n).progOld i with
  | some (t, _) =>
    if t = d.tb.now then d
    else d.setSht n (fun x => { x with progOld := tset x.progOld i (d.tb.now, d.f (SHT_PROG n i) 15 0) })
  | none => d.setSht n (fun x => { x with progOld := tset x.progOld i (d.tb.now, d.f (SHT_PROG n i) 15 0) })

/-- A tick of the shuttle has come that it has not taken yet (R427), and it ticks: in Stop and Run, and in Hold for injections
and loads (R440). DESIGN CHOICE, log entry 73. -/
def Dev.shtTicks (d : Dev) (n : Nat) : Bool :=
  0 < d.shtTickNo n && (match (d.shuttle n).state with
  | .run => d.modeIn [.stop, .run] | .wait => d.modeIn [.stop, .run] | .stall => d.modeIn [.stop, .run]
  | .frozen => d.mode == .hold
  | _ => false)

/-- The tick executes the program: no load and no injection is pending (R438, R439). -/
def Dev.shtProgram (d : Dev) (n : Nat) : Bool := (d.shuttle n).load.isNone && (d.shuttle n).inject.isNone

/-- A tick at which the program's instruction has opcode `op`. DESIGN CHOICE, log entry 2. -/
def Dev.shtRow (d : Dev) (n op : Nat) (pads : BitVec 64) : Dev :=
  let w := d.shtFetched n
  if (d.shuttle n).state == .run && d.shtTicks n && d.shtProgram n && !(shtIllegal w) && w.toNat % 16 = op then
    let (e, d) := (d.shtTake n).shtExec n w pads
    d.shtEnd n w e
  else d

/-- A tick that fetches an illegal instruction (R433). -/
def Dev.shtFault (d : Dev) (n : Nat) : Dev :=
  if (d.shuttle n).state == .run && d.shtTicks n && d.shtProgram n && shtIllegal (d.shtFetched n) then
    ((d.shtTake n).setSht n (fun x => { x with state := .fault })).shtCount n 7 (some 8)
  else d

/-- The edge that a WAIT of kind 1 has seen since it began and before the tick, `back` quarter-nanoseconds ago, stamped on the
2.5 ns grid (R432, R539). DESIGN CHOICE, log entry 73. -/
def Dev.shtEdge (d : Dev) (n back : Nat) : Option Stamp :=
  let x := d.shuttle n
  if x.waitAt + back ≤ 4 * d.tb.now && 4 * d.tb.now ≤ x.divAt + back then some (d.stampBack (d.edgeBack false back)) else none

/-- The trigger that a WAIT of kind 3 has seen by the tick (R432, R436). -/
def Dev.shtTrig (d : Dev) (n : Nat) : Option Stamp :=
  let x := d.shuttle n
  if x.trigAt ≤ x.divAt then x.trig else none

/-- A tick in WAIT: the WAIT or the BELL with wait completes when its condition holds (R432, R440). -/
def Dev.shtWaitTick (d : Dev) (n : Nat) (pads : BitVec 64) (back : Nat) : Dev :=
  let x := d.shuttle n
  if x.state == .wait && d.shtTicks n && d.shtProgram n then
    let d := d.shtTake n
    match x.bellWait with
    | some b => if d.b (SHT_BELL n) b then d else d.shtGo n (x.pc + 1)
    | none =>
      match d.shtWait n x.inst.toNat pads (d.shtEdge n back) (d.shtTrig n) with
      | (.next, d) => d.shtGo n (x.pc + 1)
      | (_, d) => d
  else d

/-- A tick in STALL: the blocking stow or fetch is tried again (R431). -/
def Dev.shtStallTick (d : Dev) (n : Nat) : Dev :=
  let x := d.shuttle n
  if x.state == .stall && d.shtTicks n && d.shtProgram n then
    let d := d.shtTake n
    match x.stall with
    | some .stow => (match d.shtStow n true with | some d => d.shtGo n (x.pc + 1) | none => d)
    | some .getStow => (match d.shtStow n true with | some d => d.shtGo n (x.pc + 1) | none => d)
    | some .fetch => (match d.shtFetch n true with | some d => d.shtGo n (x.pc + 1) | none => d)
    | some .putFetch =>
      (match d.shtFetch n true with
       | some d => (d.shtPutShift n x.inst.toNat).shtGo n (x.pc + 1)
       | none => d)
    | none => d
  else d

/-- The injected instruction in place of the program's (R438): what it cannot complete at once has no effect, and an injected
GET or PUT goes without the stow or fetch that it cannot make. DEDUCED, log entry 71. -/
def Dev.shtInjected (d : Dev) (n : Nat) (w : BitVec 16) (pads : BitVec 64) : ShtEnd × Dev × Bool :=
  if shtIllegal w then (.next, d, false)
  else if w.toNat % 16 = 10 && w.toNat.testBit 15 then (.next, d, false)
  else
    let (e, d') := d.shtExec n w pads
    match e with
    | .stall .getStow => (.next, d', false)
    | .stall .putFetch => (.next, d.shtPutShift n w.toNat, false)
    | .stall _ => (.next, d, false)
    | .wait => (.next, d, false)
    | e => (e, d', true)

/-- A tick with an injection pending; a load that is pending too acts first. DEDUCED, log entry 71. -/
def Dev.shtInjectTick (d : Dev) (n : Nat) (pads : BitVec 64) : Dev :=
  let x := d.shuttle n
  match x.inject with
  | some w =>
    if x.load.isNone && d.shtTicks n then
      let d := (d.shtTake n).setSht n (fun x => { x with inject := none })
      let (e, d, ok) := d.shtInjected n w pads
      let d := if ok then d else d.shtCount n 6 (some 15)
      match e with
      | .jump pc =>
        let was := (d.shuttle n).state
        let d := d.shtGo n pc
        if was == .frozen then d.setSht n (fun x => { x with state := .frozen, resume := .run }) else d
      | _ => d
    else d
  | none => d

/-- The state that a running shuttle has in the present mode (R440). -/
def Dev.shtRunning (d : Dev) (n : Nat) : Dev := d.setSht n (fun x => shtMode d.mode { x with state := .run, stall := none, bellWait := none, trig := none })

/-- SHT_LOAD.go acts: the program counter moves, a wait, a stall or a FAULT ends (R433, R439). -/
def Dev.shtLoadAct (d : Dev) (n : Nat) : Dev :=
  match (d.shuttle n).load with
  | some pc =>
    let clear := d.b (SHT_LOAD_CLEAR n) 0
    let d := d.setSht n (fun x =>
      let x := { x with pc := pc, load := none }
      if clear then { x with ibs := 0, obs := 0, s0 := 0, s1 := 0, ibCnt := 0, obLeft := 0 } else x)
    if d.b (SHT_CTRL n) 0 then d.shtRunning n else d
  | none => d

/-- A write of SHT_LOAD[n]: go holds the load for the next tick, or acts at once in OFF and FAULT. -/
def Dev.shtLoadWrite (d : Dev) (n : Nat) (v : Word) : Dev :=
  if !(bitOf v 8) then d
  else
    let d := d.setSht n (fun x => { x with load := some (fld v 4 0) })
    let st := (d.shuttle n).state
    if st == .off || st == .fault then d.shtLoadAct n else d

/-- The tick at which a held load acts. DEDUCED, log entry 71. -/
def Dev.shtLoadTick (d : Dev) (n : Nat) : Dev :=
  if (d.shuttle n).load.isSome && d.shtTicks n then (d.shtTake n).shtLoadAct n else d

/-- A write of SHT_INJECT[n] (R438). -/
def Dev.shtInjectWrite (d : Dev) (who : Initiator) (n : Nat) (v : Word) : Dev :=
  let x := d.shuttle n
  if x.state == .off || x.state == .fault || x.state == .halted || x.inject.isSome then d.refuse who (SHT_INJECT n)
  else d.setSht n (fun x => { x with inject := some (BitVec.ofNat 16 (fld v 15 0)) })

/-- The enable bit of a shuttle is written (R426): a rise starts it at its present pc and leaves FAULT, a fall stops it.
DEDUCED, log entry 72. -/
def Dev.shtEn (d : Dev) (n : Nat) (en : Bool) : Dev :=
  let was := d.b (SHT_CTRL n) 0
  let d := d.wb (SHT_CTRL n) 0 en
  if en && !was then (d.shtRunning n).shtRestart n
  else if !en && was then
    let d := d.setSht n (fun x => { x with state := .off, stall := none, bellWait := none, trig := none })
    d.shtLoadAct n
  else d

/-- A write of SHT_CTRL[n]: the enable, and the two flushes (R435). -/
def Dev.shtCtrl (d : Dev) (n : Nat) (v : Word) : Dev :=
  let d := if bitOf v 1 then d.setSht n (fun x => { x with up := [] }) else d
  let d := if bitOf v 2 then d.setSht n (fun x => { x with dn := [] }) else d
  d.shtEn n (bitOf v 0)

/-- The shuttles of a SHT_GRP_CTRL word start, or with stop set stop (R437). A mask of 0 does nothing. -/
def Dev.shtGroupAct (d : Dev) (g : Nat) (v : Word) : Dev :=
  d.each (List.range 8) (fun d i =>
    if bitOf v i then
      let n := 8 * g + i
      if bitOf v 8 then d.shtEn n false
      else ((d.shtEn n true).shtRestart n).setSht n (fun x => { x with startAt := d.tb.now + 1 })
    else d)

/-- A write of SHT_GRP_CTRL[g] (R437): with `at` it waits until SHT_GRP_AT[g] is reached. -/
def Dev.shtGroup (d : Dev) (g : Nat) (v : Word) : Dev :=
  if bitOf v 9 && !(reached d.tb.st (d.r (SHT_GRP_AT g))) then
    { d with pins := { d.pins with grpDue := tset d.pins.grpDue g (tget [] d.pins.grpDue g ++ [w32 (fld v 9 0)]) } }
  else d.shtGroupAct g v

/-- SHT_GRP_AT[g] is reached: what waited for it acts. DEDUCED, log entry 72. -/
def Dev.shtGroupDue (d : Dev) (g : Nat) : Dev :=
  (tget [] d.pins.grpDue g).foldl (fun d v => d.shtGroupAct g v) { d with pins := { d.pins with grpDue := terase d.pins.grpDue g } }

/-- The shuttle holds in a trigger WAIT. DEDUCED, log entry 72. -/
def Dev.shtTrigWait (d : Dev) (n : Nat) : Bool :=
  let x := d.shuttle n
  x.state == .wait && x.bellWait.isNone && x.inst.toNat % 16 == 2 && x.inst.toNat / 16384 == 3

/-- A strobe of treadle `t` triggers group `g` (R436). Shuttles that a group starts in the same clock do not see it (R437). -/
def Dev.shtTrigger (d : Dev) (g t : Nat) : Dev :=
  match tfind d.trd.trigDue g with
  | some (m, st) =>
    if m ≠ t then d
    else
      let d := { d with trd := { d.trd with trigDue := terase d.trd.trigDue g } }
      let d := d.incf (SHT_GRP_TRIG g) 15 0 1
      let resync := d.b (SHT_GRP_CFG g) 0
      d.each ((List.range 8).map (fun i => 8 * g + i)) (fun d n =>
        let d := if resync then d.shtRestart n else d
        let t := d.baseNext
        if !(d.b (SHT_CTRL n) 0) || (d.shuttle n).startAt = d.tb.now + 1 then d
        else if d.shtTrigWait n then
          d.setSht n (fun x => if x.trig.isSome then x else { x with trig := some st, trigAt := t })
        else d.shtCount n 2 (some 11))
  | none => d

/-- A word leaves the up FIFO toward the channel that SHT_DEST names, 50 ns after the one before it at the earliest (R434).
DEDUCED, log entry 72. -/
def Dev.shtDrain (d : Dev) (n : Nat) : Dev :=
  let h := d.r (SHT_DEST n)
  match (d.shuttle n).up with
  | (w, st, seq) :: t =>
    if h = 0 || d.tb.now < (d.shuttle n).drainAt then d
    else
      let d := d.setSht n (fun x => { x with up := t, drainAt := d.tb.now + 50 })
      (match d.chanOf h with
       | some c => d.post c (mkEv 5 n st seq w)
       | none => d.shtCount n 5 (some 13))
  | [] => d

/-- A read of SHT_UPF[n]: the oldest word, popped; with a channel destination nothing is for the reader.
DEDUCED, log entry 72. -/
def Dev.shtUpf (d : Dev) (n : Nat) : Word × Dev :=
  match (d.shuttle n).up with
  | (w, _, _) :: t => if d.r (SHT_DEST n) = 0 then (w, d.setSht n (fun x => { x with up := t })) else (0, d)
  | [] => (0, d)

/-- A write of SHT_DNF[n] (R435): in one clock the host's word enters before an engine's, so that the last of them is the one
that a full FIFO discards. -/
def Dev.shtDnf (d : Dev) (who : Initiator) (n : Nat) (v : Word) : Dev :=
  let x := d.shuttle n
  let m := Nat.min x.dn.length (if x.dnEng.1 = d.tb.now then x.dnEng.2 else 0)
  let at_ := if isHost who then x.dn.length - m else x.dn.length
  let l := x.dn.take at_ ++ [v] ++ x.dn.drop at_
  let fits := l.length ≤ 4
  let m := if isHost who then (if fits then m else m - 1) else if fits then m + 1 else m
  let d := d.setSht n (fun x => { x with dn := l.take 4, dnEng := (d.tb.now, m) })
  if fits then d else d.shtCount n 4 (some 12)

/-- A pad is sensed (R352, R425): every reader of the pin sees the level; a driven pin is compared with it.
DESIGN CHOICE, log entry 73. -/
def Dev.padSense (d : Dev) (i : Nat) (level : Bool) : Dev :=
  let d := { d with pins := { d.pins with pad := put64 d.pins.pad i level } }
  let due := tget 0 d.pins.obsDue i
  let d :=
    if 0 < due then
      ({ d with pins := { d.pins with obsDue := tset d.pins.obsDue i (due - 1) } }).foldObs (w32 (0x100 * i + b2n level))
    else d
  let a := if i < 32 then SHT_PAD_DIS_LO else SHT_PAD_DIS_HI
  match d.pinDrive i with
  | some v =>
    if d.b (SHT_PIN_CFG i) 13 then d
    else if v == level then d.wb a (i % 32) false
    else (d.wb a (i % 32) true).ringBit .shtGlb 0
  | none => d

end Sys2Proof.Machine
end

