-- ==== Sys2Proof/Machine/Shuttle.lean ====
section
/-!
DEFINITION. The SHT rows of the opcode table. A row of an instruction is one tick of the shuttle that fetches it; a tick at
which the shuttle does not fetch it makes no step.
-/
namespace Sys2Proof.Machine

/-- R429. -/
def execShtBr (n : Fin 32) (pads : BitVec 64) : State → Host.Outcome State Fault Refusal :=
  lift (fun d => d.shtRow n.val 0 pads)

/-- R429. -/
def execShtLoop (n : Fin 32) (pads : BitVec 64) : State → Host.Outcome State Fault Refusal :=
  lift (fun d => d.shtRow n.val 1 pads)

/-- R432. -/
def execShtWait (n : Fin 32) (pads : BitVec 64) : State → Host.Outcome State Fault Refusal :=
  lift (fun d => d.shtRow n.val 2 pads)

/-- R430. -/
def execShtGet (n : Fin 32) (pads : BitVec 64) : State → Host.Outcome State Fault Refusal :=
  lift (fun d => d.shtRow n.val 3 pads)

/-- R430. -/
def execShtPut (n : Fin 32) (pads : BitVec 64) : State → Host.Outcome State Fault Refusal :=
  lift (fun d => d.shtRow n.val 4 pads)

/-- R429. -/
def execShtPins (n : Fin 32) (pads : BitVec 64) : State → Host.Outcome State Fault Refusal :=
  lift (fun d => d.shtRow n.val 5 pads)

/-- R429. -/
def execShtLoad (n : Fin 32) (pads : BitVec 64) : State → Host.Outcome State Fault Refusal :=
  lift (fun d => d.shtRow n.val 6 pads)

/-- R429. -/
def execShtCopy (n : Fin 32) (pads : BitVec 64) : State → Host.Outcome State Fault Refusal :=
  lift (fun d => d.shtRow n.val 7 pads)

/-- R431. -/
def execShtStow (n : Fin 32) (pads : BitVec 64) : State → Host.Outcome State Fault Refusal :=
  lift (fun d => d.shtRow n.val 8 pads)

/-- R431. -/
def execShtFetch (n : Fin 32) (pads : BitVec 64) : State → Host.Outcome State Fault Refusal :=
  lift (fun d => d.shtRow n.val 9 pads)

/-- R429. -/
def execShtBell (n : Fin 32) (pads : BitVec 64) : State → Host.Outcome State Fault Refusal :=
  lift (fun d => d.shtRow n.val 10 pads)

/-- R432. -/
def execShtWaitComplete (n : Fin 32) (pads : BitVec 64) (back : Nat) : State → Host.Outcome State Fault Refusal :=
  lift (fun d => d.shtWaitTick n.val pads back)

/-- R431. -/
def execShtStallRetry (n : Fin 32) (_pads : BitVec 64) : State → Host.Outcome State Fault Refusal :=
  lift (fun d => d.shtStallTick n.val)

/-- R433. -/
def execShtIllegalInstruction (n : Fin 32) (_pads : BitVec 64) : State → Host.Outcome State Fault Refusal :=
  lift (fun d => d.shtFault n.val)

/-- R438. -/
def execShtInject (n : Fin 32) (pads : BitVec 64) : State → Host.Outcome State Fault Refusal :=
  lift (fun d => d.shtInjectTick n.val pads)

/-- R439. -/
def execShtLoadGo (n : Fin 32) : State → Host.Outcome State Fault Refusal := lift (fun d => d.shtLoadTick n.val)

/-- R434. -/
def execShtUpDrain (n : Fin 32) : State → Host.Outcome State Fault Refusal := lift (fun d => d.shtDrain n.val)

/-- R434. -/
def execShtUpfRead (who : Initiator) (n : Fin 32) : State → Host.Outcome State Fault Refusal :=
  lift (fun d => d.accessR who (SHT_UPF n.val) (fun d => d.shtUpf n.val))

/-- R435. -/
def execShtDnfWrite (who : Initiator) (n : Fin 32) (val : Word) : State → Host.Outcome State Fault Refusal :=
  lift (fun d => d.access who (SHT_DNF n.val) (fun d => d.shtDnf who n.val val))

/-- R435. -/
def execShtFlushUp (who : Initiator) (n : Fin 32) : State → Host.Outcome State Fault Refusal :=
  lift (fun d => d.access who (SHT_CTRL n.val) (fun d => d.shtCtrl n.val (setBit (d.r (SHT_CTRL n.val)) 1 true)))

/-- R435. -/
def execShtFlushDn (who : Initiator) (n : Fin 32) : State → Host.Outcome State Fault Refusal :=
  lift (fun d => d.access who (SHT_CTRL n.val) (fun d => d.shtCtrl n.val (setBit (d.r (SHT_CTRL n.val)) 2 true)))

/-- R426. -/
def execShtEnable (who : Initiator) (n : Fin 32) (val : Word) : State → Host.Outcome State Fault Refusal :=
  lift (fun d => d.access who (SHT_CTRL n.val) (fun d => d.shtCtrl n.val val))

/-- R437. -/
def execShtGroupStart (who : Initiator) (g : Fin 4) (val : Word) : State → Host.Outcome State Fault Refusal :=
  lift (fun d => d.access who (SHT_GRP_CTRL g.val) (fun d => d.shtGroup g.val val))

/-- R437. -/
def execShtGroupStop (who : Initiator) (g : Fin 4) (val : Word) : State → Host.Outcome State Fault Refusal :=
  lift (fun d => d.access who (SHT_GRP_CTRL g.val) (fun d => d.shtGroup g.val val))

/-- R436. -/
def execShtGroupTrigger (g : Fin 4) (n : Fin 16) : State → Host.Outcome State Fault Refusal :=
  lift (fun d => d.shtTrigger g.val n.val)

/-- R425. -/
def execPadSense (i : Fin 64) (level : Bool) : State → Host.Outcome State Fault Refusal := lift (fun d => d.padSense i.val level)

end Sys2Proof.Machine
end

