-- ==== Sys2Proof/Machine/RegWriteA.lean ====
section
/-!
DEFINITION. Writes of the registers of PWR, TB, TRD, CUT and XMC whose chapters give them more than their access codes, and
of SHT, SEC and ENG. In each function `p` is the write by access codes alone (RegPlain.lean).
-/
namespace Sys2Proof.Machine

/-- PWR (spec/02_modes_startup_holdover.md). -/
def Dev.wrPwr (d : Dev) (who : Initiator) (a : Nat) (v : Word) (p : Dev → Dev) : Dev :=
  if a = PWR_MODE_REQ then d.modeReq who v false
  else if a = PWR_RESET_CMD then d.resetCmd who v
  else p d

/-- TB (spec/03_time_base.md). -/
def Dev.wrTb (d : Dev) (who : Initiator) (a : Nat) (v : Word) (p : Dev → Dev) : Dev :=
  if a = TB_TAI_SET_CMD then d.taiSetCmd v
  else if a = TB_SRV_MS_LO then { d with tb := { d.tb with msLo := v } }
  else if a = TB_SRV_MS_HI then { d with tb := { d.tb with msHi := v } }
  else if a = TB_SRV_PD then { d with tb := { d.tb with pd := v } }
  else if a = TB_SRV_CMD then if bitOf v 0 then d.commit d.stagedTheta true false else d
  else if a = TB_JUMP_CMD then d.jumpForceCmd v
  else if a = TB_FREQ_LIMIT then
    if 500000 < fld v 19 0 then d.refuse who a
    else
      let d := p d
      if fld v 19 0 = 0 then { d with tb := { d.tb with i := 0, y := 0 } } else d
  else if a = TB_CLK_CFG then d.clkCfg who v
  else match elem (TB_PORT_CFG 0) 4 20 a with
    | some n => if bitOf v 4 != d.b a 4 && tget [] d.tb.tsq n != [] then d.refuse who a else p d
    | none => p d

/-- Registers of treadle `n`, at offset `o` of its 0x80 bytes. -/
def Dev.wrTreadle (d : Dev) (who : Initiator) (n o : Nat) (v : Word) (p : Dev → Dev) : Dev :=
  if o = 0x00 then d.trdCfg who n v
  else if o = 0x04 then d.setTrdl n (fun t => { t with incLo := v })
  else if o = 0x08 then d.incHi who n v
  else if o = 0x2C then p (d.ofsKeep n)
  else if o = 0x30 then d.phaseAdj who n v
  else if o = 0x44 then (p d).dirShow n
  else if o = 0x40 then d.strbCfg n v
  else if o = 0x5C then d.rampCmd n v
  else if o = 0x60 || o = 0x64 then (p d).trdSum n
  else p d

/-- The pattern tables start afresh at the master's position. -/
def Dev.patSeedAll (d : Dev) : Dev := d.each (List.range 8) (fun d t => d.patSeed t)

/-- TRD (spec/04_treadles_wave_time.md). -/
def Dev.wrTrd (d : Dev) (who : Initiator) (a : Nat) (v : Word) (p : Dev → Dev) : Dev :=
  if a = TRD_START then d.trdStartWrite who v
  else if a = TRD_PAT_GRP then
    let same := fld v 20 16 == d.f a 20 16
    let d := p d
    if same then d else d.patSeedAll
  else if TRD_PAT_TAB 0 0 ≤ a && a < TRD_PAT_TAB 8 0 then p (d.patWritten a)
  else if 0x301000 ≤ a && a < 0x301800 then d.wrTreadle who ((a - 0x301000) / 0x80) (a % 0x80) v p
  else match elem (TRD_GRP_CFG 0) 4 4 a, elem (TRD_LATCH_CFG 0) 4 8 a, elem (TRD_PAT_CFG 0) 4 8 a with
    | some g, _, _ => d.groupCmd g v
    | _, some l, _ => d.latchCfg l v
    | _, _, some t =>
      let same := fld v 1 0 == d.f a 1 0
      let d := p d
      if same then d else d.patSeed t
    | _, _, _ => p d

/-- CUT (spec/08_channels_cutter.md). -/
def Dev.wrCut (d : Dev) (who : Initiator) (a : Nat) (v : Word) (p : Dev → Dev) : Dev :=
  if a = CUT_CTRL then
    let d := p d
    if bitOf v 2 then d.resync else d
  else match elem (CUT_CMD 0) 0x100 4 a with
    | some k => d.cutCmd k who v
    | none => p d

/-- Two ranges, each of a base and a size, have nothing in common. DEDUCED, log entry 32. -/
def apart (a n b m : Nat) : Bool := n == 0 || m == 0 || a + n ≤ b || b + m ≤ a

/-- The bolt store and the Cutter pool as they stand are apart, and both lie below the memory in use (R274).
DEDUCED, log entry 32. -/
def Dev.storesOk (d : Dev) : Bool :=
  let bb := d.f XMC_BOLT_BASE 13 0
  let bs := d.f XMC_BOLT_SIZE 13 0
  let pb := d.f XMC_POOL_BASE 13 0
  let ps := d.f XMC_POOL_SIZE 13 0
  bb + bs ≤ d.memb.extMib && pb + ps ≤ d.memb.extMib && apart bb bs pb ps

/-- XMC (spec/09_memory.md). -/
def Dev.wrXmc (d : Dev) (who : Initiator) (a : Nat) (p : Dev → Dev) : Dev :=
  if XMC_BOLT_BASE ≤ a && a ≤ XMC_POOL_SIZE then
    let x := p d
    if x.storesOk then x else d.refuse who a
  else p d

/-- Registers of shuttle `n`, at offset `o` of its 0x400 bytes (spec/15_shuttles.md). -/
def Dev.wrShuttle (d : Dev) (who : Initiator) (n o : Nat) (v : Word) (p : Dev → Dev) : Dev :=
  if o = 0x00 then d.shtCtrl n v
  else if o = 0x08 then if fld v 31 16 = 0 then d.refuse who (SHT_CLKDIV n) else p d
  else if o = 0x14 then if (d.shuttle n).state == .off then p d else d.refuse who (SHT_DEST n)
  else if o = 0x18 then d.shtDnf who n v
  else if o = 0x24 then d.shtInjectWrite who n v
  else if o = 0x28 then d.shtLoadWrite n v
  else if o = 0x30 || o = 0x34 then
    let k := (o - 0x30) / 4
    if tget 0 (d.shuttle n).sAt k = d.tb.now + 1 then d.refuse who (if k = 0 then SHT_S0 n else SHT_S1 n)
    else d.setSht n (fun x => x.setS k v)
  else if 0x80 ≤ o then p (d.progWrite n ((o - 0x80) / 4))
  else p d

/-- SHT. -/
def Dev.wrSht (d : Dev) (who : Initiator) (a : Nat) (v : Word) (p : Dev → Dev) : Dev :=
  if a < 0x1108000 then d.wrShuttle who ((a - 0x1100000) / 0x400) (a % 0x400) v p
  else match elem (SHT_GRP_CTRL 0) 0x10 4 a, elem (SHT_PIN_CFG 0) 4 64 a with
    | some g, _ => d.shtGroup g v
    | _, some i =>
      if d.mode ≠ .stop then d.refuseMode who a
      else if 5 ≤ fld v 2 0 then d.refuse who a
      else
        let before := d
        let d := ((p d).pinSeen i (before.pinDrive i)).pullSeen i (before.pinPull i)
        if d.pinSrc i = 4 then d.dirShow (d.f (SHT_PIN_CFG i) 9 6) else d
    | _, _ => p d

/-- The command that SEC_CMD names (R494). What the generator's tests and the fuses do is outside the write: free values.
DESIGN CHOICE, log entry 38. -/
def Dev.secWrite (d : Dev) (who : Initiator) (v : Word) : Dev :=
  let all := [0, 1, 2, 3]
  let c := fld v 7 0
  if c = 1 then d.secCmd who v false [0] [.provision] Dev.secProvision
  else if c = 2 then
    let (m, d) := d.free
    d.secCmd who v false [1] [.provision, .stop] (fun d => d.secField m)
  else if c = 3 then
    let (m, d) := d.free
    d.secCmd who v false [1, 2] [.provision, .stop, .run, .safe] (fun d => d.secRetire m)
  else if c = 4 then d.secCmd who v false [1, 2] [.provision, .stop, .run, .spare] Dev.secAttest
  else if c = 5 then
    d.secCmd who v false all [.provision, .stop, .run] (fun d => (d.extend 3 (d.buf 0 12)).secDone 0)
  else if c = 6 then d.secCmd who v false [1, 2] [.stop] Dev.secRollfwd
  else if c = 7 then
    let (m, d) := d.free
    d.secCmd who v false all anyMode (fun d => d.secOtpProg m)
  else if c = 8 then d.secCmd who v false [1, 2] anyMode Dev.secDbgChal
  else if c = 9 then d.secCmd who v false [1, 2] anyMode Dev.secDbgUnlock
  else if c = 10 then
    d.secCmd who v false all anyMode (fun d => (d.setSec (fun s => { s with dbgUnlocked := false })).secDone 0)
  else if c = 11 then
    let (h, d) := d.free
    d.secCmd who v false all anyMode (fun d => d.rngRestart (bitOf h 0))
  else d.secCmd who v false all anyMode (fun d => d.secDone 8)

/-- Cipher capacity in use, in Mb/s (R286): twice the configured rate of the ports with MACsec, and the reservations.
DEDUCED, log entry 53. -/
def Dev.configuredRate (d : Dev) (p : Nat) : Nat :=
  let w := d.r (MAC_IF_CFG p)
  let i := fld w 2 0
  if i = 0 then (if bitOf w 3 || fld w 5 4 = 2 then 1000 else if fld w 5 4 = 0 then 10 else 100)
  else if i = 1 then 1000 else if i = 2 then 2500 else if i = 3 then 100 else 10000
def Dev.cipherLoad (d : Dev) : Nat :=
  let ports := (List.range 20).map (fun p => if d.b (MAC_SEC_CFG p) 0 then 2 * d.configuredRate p else 0)
  let queues := (List.range 16).map (fun q => 1000 * d.f (SEC_CQ_RES q) 4 0)
  (ports ++ queues).foldl (· + ·) 0

/-- The initiator is the channel bound to cipher queue `q`, with the grant of the security unit (R503). -/
def Dev.queueOwner (d : Dev) (who : Initiator) (q : Nat) : Bool :=
  match who with
  | .engine e =>
    (match d.engChan e.val, d.chanOf (d.r (SEC_CQ_CFG q)) with
     | some k, some c => keyChan k == c && d.granted c 17
     | _, _ => false)
  | _ => false

/-- A word of SEC_SC (R505): words 3 and 4 are the packet number of the active association. -/
def Dev.scWord (d : Dev) (s : Nat) : Nat := 2 * s + d.f (SEC_SC s 0) 9 8 % 2
def Dev.scWrite (d : Dev) (s w : Nat) (v : Word) (p : Dev → Dev) : Dev :=
  if w = 3 || w = 4 then
    let k := d.scWord s
    let n := tget 0 d.sec.pn k
    let n := if w = 3 then n / 2 ^ 32 * 2 ^ 32 + v.toNat else v.toNat * 2 ^ 32 + n % 2 ^ 32
    d.setSec (fun x => { x with pn := tset x.pn k n })
  else p d

/-- SEC (spec/18_security_identity.md). DESIGN CHOICE, log entry 38. -/
def Dev.wrSec (d : Dev) (who : Initiator) (a : Nat) (v : Word) (p : Dev → Dev) : Dev :=
  if a = SEC_CMD then d.secWrite who v
  else if a = SEC_CTRL then (p d).each (List.range 16) Dev.cipherStart
  else if a = SEC_KEY_CMD then d.keyCmd (fld v 7 0) (bitOf v 8)
  else if SEC_KEY_WR 0 ≤ a && a < SEC_KEY_CMD then
    d.setSec (fun s => { s with keyWr := tset s.keyWr ((a - SEC_KEY_WR 0) / 4) v })
  else if SEC_CQ_CFG 0 ≤ a && a < 0x1300C00 then
    let q := (a - SEC_CQ_CFG 0) / 0x40
    let o := a % 0x40
    if o = 0 then if tget [] d.sec.jobs q = [] then p d else d.refuse who a
    else if o = 4 then
      let x := p d
      if x.cipherLoad ≤ 20000 then x else d.refuse who a
    else if o = 8 then d.cipherGo who q v
    else if 0x20 ≤ o then if d.queueOwner who q then p d else d.refuseOwner who a
    else p d
  else if SEC_SC 0 0 ≤ a && a < 0x1301800 then d.scWrite ((a - SEC_SC 0 0) / 0x20) (a % 0x20 / 4) v p
  else p d

/-- ENG (spec/05_zelek_engines.md). DESIGN CHOICE, log entry 38. -/
def Dev.wrEng (d : Dev) (who : Initiator) (a : Nat) (v : Word) (p : Dev → Dev) : Dev :=
  let e := (a - 0x1400000) / 0x1000
  let o := a % 0x1000
  if o = 0 then d.engCtrl who e v
  else if o = 0x80 then d.dbgCtrl who e v ⟨.clean, .clean⟩
  else if o = 0x88 then d.dbgWrite who e v
  else p d

end Sys2Proof.Machine
end

