-- ==== Sys2Proof/Machine/RegRead.lean ====
section
/-!
DEFINITION. A read of a register word of BAR0, for every register of every block: the words that show what the block holds
elsewhere, the reads that latch, clear or pop, and all others by their access codes (R5-R8, R28, R531).
-/
namespace Sys2Proof.Machine

/-- A read that has no side effect. -/
def Dev.shows (d : Dev) (n : Nat) : Option (Word × Dev) := some (w32 n, d)

/-- The stored word with a field shown from elsewhere, and nothing else changed. -/
def Dev.showsIn (d : Dev) (a hi lo n : Nat) : Option (Word × Dev) := some (setFld (d.r a) hi lo n, d)

/-- PWR: the mode word (R27, R32) and the holdover counter (R41). -/
def Dev.rdPwr (d : Dev) (a : Nat) : Option (Word × Dev) :=
  if a = PWR_MODE then d.shows (d.mode.code + 8 * b2n (d.pwr.trans != .idle) + 16 * d.pwr.reqStatus)
  else if a = PWR_HOLD_CNT_LO then d.shows d.pwr.holdCnt
  else if a = PWR_HOLD_CNT_HI then d.shows (d.pwr.holdCnt / 2 ^ 32)
  else none

/-- TB: the reads that latch or pop (R60, R64, R69, R89, R94) and the servo's y and i. -/
def Dev.rdTb (d : Dev) (who : Initiator) (a : Nat) : Option (Word × Dev) :=
  if a = TB_ST then some d.stRead
  else if a = TB_TAI_NS then some d.taiReadOp
  else if a = TB_ANCHOR_ST then some d.anchorReadOp
  else if a = TB_SRV_FREQ_LO then d.shows (tc 64 d.tb.y)
  else if a = TB_SRV_FREQ_HI then d.shows (tc 64 d.tb.y / 2 ^ 32)
  else if a = TB_SRV_INTEG_LO then d.shows (tc 64 d.tb.i)
  else if a = TB_SRV_INTEG_HI then d.shows (tc 64 d.tb.i / 2 ^ 32)
  else if a = TB_PPS_IN_ST then some (d.r a, { d with tb := { d.tb with ppsUnread := false } })
  else if TB_TSQ_ENTRY 0 0 ≤ a && a < TB_TSQ_ENTRY 20 0 then
    some (d.tsqRead who ((a - TB_TSQ_ENTRY 0 0) / 16) (a / 4 % 4))
  else none

/-- TRD: latching reads (R99) and the read that re-arms a latch. -/
def Dev.rdTrd (d : Dev) (a : Nat) : Option (Word × Dev) :=
  match elem (TRD_INC_LO 0) 0x80 16 a, elem (TRD_ACC_LO 0) 0x80 16 a, elem (TRD_LATCH 0 3) 16 8 a with
  | some n, _, _ => some (d.incReadOp n)
  | _, some n, _ => some (d.accReadOp n)
  | _, _, some l => some (d.latchRead l)
  | _, _, _ => none

/-- Whole slots of a load, saturating in 16 bits; fractions are dropped. -/
def slotsShown (f : Frac) : Nat := Nat.min 65535 (f.1 / f.2)

/-- CUT: the Cutter's tables. -/
def Dev.rdCut (d : Dev) (a : Nat) : Option (Word × Dev) :=
  if a = CUT_STAT then
    d.showsIn a 1 1 (b2n ((tkeys d.cut.chans).any (fun c => (d.chan c).st == .recovering)))
  else if a = CUT_CHAN_COUNT then d.shows ((tkeys d.cut.chans).countP (fun c => (d.chan c).st != .free))
  else match elem (CUT_BANK_LOAD 0) 4 64 a, elem (CUT_ENG_LOAD 0) 4 96 a, elem (CUT_CHAN 0 0) 4 2048 a with
    | some b, _, _ => d.shows (slotsShown (d.bankLoad b true) + 2 ^ 16 * slotsShown (d.bankLoad b false))
    | _, some e, _ =>
      let ks := d.slotKeys e
      let u := Frac.sum (ks.map (fun k => d.utilU (keyChan k)))
      d.shows (Nat.min 1023 (1000 * u.1 / u.2) + 2 ^ 16 * ks.length)
    | _, _, some i => some (d.chanWord (i / 4) (i % 4), d)
    | _, _, _ => none

/-- MBX: a slot is read by the channel it is toward, or by the host (R469, R470). -/
def Dev.rdMbx (d : Dev) (who : Initiator) (a : Nat) : Option (Word × Dev) :=
  if MBX_PARTY 0 0 ≤ a && 0x40 ≤ a % 0x80 then
    some (d.mbxRead who ((a - MBX_PARTY 0 0) / 0x80) (a % 0x80 / 0x20 % 2) a)
  else none

/-- The bit of HBR_STAT that is an initiator's pending flag. -/
def pendBit : Initiator → Option Nat
  | .pcie => some 0 | .lb => some 1 | .engine _ => none | .internal => none

/-- HBR: the pending flag of the reader (R476), the semaphore (R478). -/
def Dev.rdHbr (d : Dev) (who : Initiator) (a : Nat) : Option (Word × Dev) :=
  if a = HBR_STAT then d.showsIn a 3 2 d.hbr.sem.code
  else if a = HBR_FENCE then
    (match pendBit who with
     | some i => some (w32 (b2n (d.b HBR_STAT i)), d.wb HBR_STAT i false)
     | none => some (0, d))
  else if a = HBR_SEM then some (d.semRead who)
  else none

/-- FBR: frames that wait. -/
def Dev.rdFbr (d : Dev) (a : Nat) : Option (Word × Dev) :=
  if a = FBR_STAT then d.showsIn a 5 0 d.fbr.length else none

/-- MEM: the ordering buffers. -/
def Dev.rdMem (d : Dev) (a : Nat) : Option (Word × Dev) :=
  match elem (MEM_BANK_STAT 0) 4 64 a with
  | some b => d.showsIn a 5 1 (d.ordBuf b).length
  | none => none

/-- MAC: tallies latch their upper word (R289). -/
def Dev.rdMac (d : Dev) (a : Nat) : Option (Word × Dev) :=
  if a < 0xB40000 && 0x800 ≤ a % 0x10000 && a % 8 == 0 then
    some (d.tallyReadOp ((a - 0xA00000) / 0x10000) (a % 0x10000 / 8 - 0x100))
  else none

/-- Cells and frames of a queue (SWC_Q_STAT). -/
def Dev.queueWord (d : Dev) (p q : Nat) : Nat :=
  Nat.min 65535 (d.chipCells p q) + 2 ^ 16 * Nat.min 65535 (d.queue p q).length

/-- SWC: the pool, the bolt store, the FDB's use, gates, queues and credits. -/
def Dev.rdSwc (d : Dev) (a : Nat) : Option (Word × Dev) :=
  if a = SWC_POOL_STAT then d.shows (Nat.min 65535 d.poolFree.toNat + 2 ^ 16 * d.lowest)
  else if a = SWC_BOLT_STAT then d.shows d.boltUsed
  else if a = SWC_FDB_STAT then d.showsIn a 30 16 d.swc.fdb.length
  else if a < 0xC10000 || 0xC26000 ≤ a then none
  else
    let p := (a - 0xC10000) / 0x1000
    let o := a % 0x1000
    let q := (o - 0x100) / 0x20
    if o = 0x3C && p < 20 then let d := d.gateShow p; some (d.r a, d)
    else if 0x100 ≤ o && o % 0x20 = 0x18 then d.shows (d.queueWord p q)
    else if 0x100 ≤ o && o % 0x20 = 0x1C then
      let d := d.credits p
      some (w32 (tc 32 (tget 0 d.swc.credit (8 * p + q) / 1048576)), d)
    else none

/-- The 50 µs bound does not apply (R362). -/
def Dev.overBound (d : Dev) : Bool :=
  let per := d.f RED_HB_CFG 6 0 * 125
  let c := d.r RED_DET_CFG
  22000 < per * (fld c 3 0 + 1) + fld c 27 16 || 20000 < per * (fld c 7 4 + 1) + fld c 27 16 ||
    20000 < per * (fld c 11 8 + 1) + fld c 27 16

/-- RED: the gate, the books, the pairs. DEDUCED, log entry 68. -/
def Dev.rdRed (d : Dev) (a : Nat) : Option (Word × Dev) :=
  if a = RED_STAT then
    let v := setFld (d.r a) 0 0 (b2n d.gateOpen)
    d.shows (v.toNat % 8 + 8 * b2n d.bookReady + 16 * b2n d.overBound + 32 * d.hbState)
  else if a = RED_BOOK_STAT then d.shows (d.booksReady + 2 ^ 16 * d.booksBroken)
  else match elem (RED_PAIR_STAT 0) 16 10 a with
    | some k =>
      let on := d.pairMode k != 0
      d.shows (b2n (d.linkUp (2 * k)) + 2 * b2n (d.linkUp (2 * k + 1)) + 4 * b2n (on && (d.pairUp k).length != 2) +
        8 * b2n (d.pairMode k == 5 && (d.quad k).isNone) + 2 ^ 16 * (d.dupTable k).length)
    | none => none

/-- SLV: a read of the alignment word clears the largest error; the slot follows from the grid (R375).
DEDUCED, log entry 68. -/
def Dev.rdSlv (d : Dev) (a : Nat) : Option (Word × Dev) :=
  if a = SLV_ALIGN_STAT then some (d.r a, d.wf a 31 16 0)
  else if a = SLV_ROUND then d.showsIn a 22 16 ((d.tb.st - d.slv.grid).toNat / 125 % 80)
  else none

/-- MDB: the operation in force, transmission, queue heads (R409) and the read that clears nd (R412).
DEDUCED, log entry 36. -/
def Dev.rdMdb (d : Dev) (a : Nat) : Option (Word × Dev) :=
  let n := (a - 0x1000000) / 0x1000
  let o := a % 0x1000
  if o = 4 then
    d.shows (d.canState n + 8 * d.opEff n + 64 * b2n (d.ctl n).sending.isSome)
  else if 0x100 ≤ o && o < 0x1C0 then
    match tget [] (d.ctl n).rxq ((o - 0x100) / 0x60) with
    | e :: _ => some (e.getD ((o - 0x100) % 0x60 / 4) 0, d)
    | [] => d.shows 0
  else if 0x600 ≤ o && (o - 0x600) % 0x50 = 8 && bitOf (d.r (bufCfg n ((o - 0x600) / 0x50))) 0 then
    some (d.r a, d.ndRead n ((o - 0x600) / 0x50))
  else none

/-- SHT_STAT.state (R426). -/
def ShtState.code : ShtState → Nat
  | .off => 0 | .run => 1 | .wait => 2 | .stall => 3 | .fault => 4 | .frozen => 5 | .halted => 6

/-- A half of the pads as driven: levels, or output enables. -/
def Dev.padWord (d : Dev) (oe : Bool) (lo : Nat) : Nat :=
  (List.range 32).foldl (fun n i =>
    n + 2 ^ i * (match d.pinDrive (lo + i) with | some v => b2n (oe || v) | none => 0)) 0

/-- SHT: what a shuttle holds, and the pads. -/
def Dev.rdSht (d : Dev) (a : Nat) : Option (Word × Dev) :=
  if a < 0x1108000 then
    let n := (a - 0x1100000) / 0x400
    let o := a % 0x400
    let s := d.shuttle n
    if o = 0x04 then d.shows (s.state.code + 8 * s.pc + 2 ^ 8 * s.ibCnt + 2 ^ 16 * s.obLeft)
    else if o = 0x1C then some (d.shtUpf n)
    else if o = 0x20 then d.shows (s.up.length + 16 * s.dn.length + 2 ^ 16 * s.stowSeq)
    else if o = 0x30 then some (s.s0, d)
    else if o = 0x34 then some (s.s1, d)
    else if o = 0x38 then some (s.ibs, d)
    else if o = 0x3C then some (s.obs, d)
    else if o = 0x40 then some (s.stamp.st, d)
    else if o = 0x44 then d.shows (s.stamp.quarter + 4 * s.stamp.gen)
    else none
  else if a = SHT_PAD_IN_LO then d.shows d.pins.pad.toNat
  else if a = SHT_PAD_IN_HI then d.shows (d.pins.pad.toNat / 2 ^ 32)
  else if a = SHT_PAD_OUT_LO then d.shows (d.padWord false 0)
  else if a = SHT_PAD_OUT_HI then d.shows (d.padWord false 32)
  else if a = SHT_PAD_OE_LO then d.shows (d.padWord true 0)
  else if a = SHT_PAD_OE_HI then d.shows (d.padWord true 32)
  else none

/-- Code of a scan state (R458). -/
def ScanState.code : ScanState → Nat
  | .stop => 0 | .run => 1 | .hold => 2

/-- SCN: the scan's state, its instants, the stations, the retained area (R449). -/
def Dev.rdScn (d : Dev) (who : Initiator) (a : Nat) : Option (Word × Dev) :=
  let s := d.scn
  if SCN_RET 0 ≤ a then some (d.retRead who ((a - SCN_RET 0) / 4), d)
  else if a = SCN_TIMING then d.shows (latNs d + 2 ^ 16 * outNs d)
  else if a = SCN_STAT then
    let v := setFld (d.r a) 1 0 s.state.code
    let v := setFld (setFld v 7 7 (b2n s.retValid)) 9 9 (b2n s.instActive)
    some (setFld v 27 16 (s.log.length + s.nextLog.length), d)
  else match elem (SCN_STN_STAT 0) 4 64 a with
    | some i =>
      let x := d.stn i
      d.showsIn a 15 0 (b2n x.up + 2 * b2n x.fill + 4 * b2n x.queued + 256 * Nat.min 255 x.misses)
    | none => none

/-- SEC: what the security unit shows (R491-R493, R500, R505-R507); `held` words wait in the generator.
DEDUCED, log entry 37; DESIGN CHOICE, log entry 38. -/
def Dev.rdSec (d : Dev) (a : Nat) : Option (Word × Dev) :=
  let s := d.sec
  if a = SEC_STAT then
    d.shows (d.lifecycle + 4 * b2n s.dbgUnlocked + 8 * Nat.min 3 s.dbgFails + 32 * s.bootFail + 256 * s.failImg +
      4096 * b2n s.rngFail)
  else if a = SEC_UID_LO then some (d.otp 77, d)
  else if a = SEC_UID_HI then some (d.otp 78, d)
  else if a = SEC_RNG then
    let (v, d) := d.free
    some (d.rngRead (v.toNat % 65))
  else if a = SEC_RNG_STAT then
    let (v, d) := d.free
    let d := d.wf SEC_RNG_STAT 6 0 (d.rngHeld (v.toNat % 65))
    some (d.r a, d)
  else if SEC_SC 0 0 ≤ a && a < SEC_SC 64 0 then
    let n := tget 0 s.pn (d.scWord ((a - SEC_SC 0 0) / 0x20))
    if a / 4 % 8 = 3 then d.shows n else if a / 4 % 8 = 4 then d.shows (n / 2 ^ 32) else none
  else match elem (SEC_ROLL 0) 4 64 a, elem (SEC_MEAS 0 0) 4 48 a, elem (SEC_ID_PUB 0) 4 24 a with
    | some c, _, _ => d.shows (d.roll c)
    | _, some i, _ => d.shows (leAt (d.measure (i / 12)) (4 * (i % 12)) 4)
    | _, _, some i => some (if d.lifecycle = 1 || d.lifecycle = 2 then s.idPub.getD i 0 else 0, d)
    | _, _, _ => none

/-- ENG: run state, slots, queues, the busy counter and the debug register (R131, R155, R166). -/
def Dev.rdEng (d : Dev) (a : Nat) : Option (Word × Dev) :=
  let e := (a - 0x1400000) / 0x1000
  let o := a % 0x1000
  let x := d.eng e
  if o = 0x04 then some (d.engStat e, d)
  else if o = 0x20 then d.shows (x.evq.length + 256 * x.evqHigh)
  else if o = 0x28 then d.shows (x.outq.length + 256 * x.outqHigh)
  else if o = 0x40 then d.shows (d.engBusy e) |>.map (fun p => (p.1, p.2.w (ENG_BUSY_HI e) (w32 (d.engBusy e / 2 ^ 32))))
  else if o = 0x88 then
    some (d.dbgRead e, d)
  else if 0x100 ≤ o && o < 0x300 then some (d.engSlot e ((o - 0x100) / 16) (o / 4 % 4), d)
  else none

/-- The word that the block shows, where it is not the stored word by its access codes. -/
def Dev.blockRead (d : Dev) (who : Initiator) (a : Nat) : Option (Word × Dev) :=
  if a < 0x100000 then none
  else if a < 0x200000 then d.rdPwr a
  else if a < 0x300000 then d.rdTb who a
  else if a < 0x400000 then d.rdTrd a
  else if a < 0x500000 then d.rdCut a
  else if a < 0x600000 then d.rdMbx who a
  else if a < 0x700000 then d.rdHbr who a
  else if a < 0x800000 then d.rdFbr a
  else if a < 0x900000 then d.rdMem a
  else if a < 0xA00000 then none
  else if a < 0xC00000 then d.rdMac a
  else if a < 0xE00000 then d.rdSwc a
  else if a < 0xF00000 then d.rdRed a
  else if a < 0x1000000 then d.rdSlv a
  else if a < 0x1100000 then d.rdMdb a
  else if a < 0x1200000 then d.rdSht a
  else if a < 0x1300000 then d.rdScn who a
  else if a < 0x1400000 then d.rdSec a
  else d.rdEng a

/-- A read of the word at BAR0 offset `a`: the value, and the device after the read's side effects. A host read while the main
domain is down reads 0, a refused one reads 0 and is recorded (R5, R28). -/
def Dev.regRead (d : Dev) (who : Initiator) (a : Nat) : Word × Dev :=
  if !d.hostUp then (0, d)
  else if !(d.blockOpen a) then (0, d.accErr who false 4 a)
  else match regDesc a with
    | none => (0, if beyondBlocks who a then d else d.accErr who false 2 a)
    | some r => (d.blockRead who a).getD (d.plainRead r a)

end Sys2Proof.Machine
end

