-- ==== Sys2Proof/Machine/Mdb.lean ====
section
/-!
DEFINITION. The meanings of the multi-drop bus commands (spec/14_multidrop_bus.md).
-/
namespace Sys2Proof.Machine

/-! ### Selective wake (R417-R419) -/

/-- A classical frame is a wake-up frame (R418). -/
def Dev.wakeMatch (d : Dev) (n : Nat) (w0 : Word) (dlc : Nat) (data : List Byte) : Bool :=
  let id := d.r (MDB_WAKE_ID n)
  let mask := leBytes 4 (d.r (MDB_WAKE_DMASK_LO n)).toNat ++ leBytes 4 (d.r (MDB_WAKE_DMASK_HI n)).toNat
  bitOf w0 29 == bitOf id 29 && ((w0 ^^^ id) &&& d.r (MDB_WAKE_IDMASK n) &&& 0x1FFFFFFF) == 0 &&
  (!(d.b (MDB_WAKE_CFG n) 2) || dlc == d.f (MDB_WAKE_CFG n) 7 4) &&
  (mask.all (· == 0) || (List.range 8).any (fun i => byteAt mask i &&& byteAt data i != 0))

/-- The filter of MDB `n` wakes the device when it is enabled (R418). -/
def Dev.mdbWake (d : Dev) (n cause : Nat) : Dev :=
  if d.b PWR_WAKE_CTRL (12 + n) then
    ((d.wf (MDB_WAKE_STAT n) 1 0 cause).wb (MDB_WAKE_STAT n) 8 false).wake (12 + n) 0 true
  else d

/-- An erroneous frame at the wake decoder (R418). -/
def Dev.wakeErr (d : Dev) (n : Nat) : Dev :=
  let c := d.f (MDB_WAKE_STAT n) 7 2
  let d := d.satf (MDB_WAKE_STAT n) 7 2 1
  if c = 31 then d.mdbWake n 2 else d

/-- The wake decoder has a frame (R418). -/
def Dev.wakeFrame (d : Dev) (n : Nat) (f : WakeFrame) : Dev :=
  if d.pwr.porLow || d.pwr.supplyLow then d
  else match f with
    | .erroneous => d.wakeErr n
    | .fd => if d.b (MDB_WAKE_CFG n) 3 then d else d.wakeErr n
    | .classical w0 dlc data =>
      let d := d.wf (MDB_WAKE_STAT n) 7 2 (d.f (MDB_WAKE_STAT n) 7 2 - 1)
      if d.wakeMatch n w0 dlc.val (if bitOf w0 30 then [] else data.take (Nat.min 8 dlc.val)) then d.mdbWake n 1 else d

/-- The false-wake test (R419, R46): at the timeout, or on reaching Stop when that is later. -/
def Dev.falseWake (d : Dev) (n : Nat) : Dev :=
  if !(d.pwr.wakeByMdbOnly && d.b PWR_WAKE_CAUSE (12 + n) && d.modeIn [.stop, .run, .spare] && d.pwr.trans = .idle) then d
  else if d.tb.now < d.pwr.wokeAt + 1000000 * d.f (MDB_WAKE_TIMEOUT n) 15 0 then d
  else
    let false_ := (d.r PWR_WAKE_CAUSE &&& 0x4FFF) = 0 && !d.pwr.wakeKept
    let d := d.setPwr (fun p => { p with wakeByMdbOnly := false })
    if false_ then (d.ringBit (.mdb n) 9).sleepBegin true else d

/-! ### Meanings -/

/-- R397. -/
def execCanEnable (who : Initiator) (n : Fin 8) (val : Word) : State → Host.Outcome State Fault Refusal :=
  lift (fun d => d.access who (MDB_CTRL n.val) (fun d => d.mdbCtrl n.val (val ||| 1)))
/-- R397: eleven recessive bits have been seen. -/
def execCanIntegrationDone (n : Fin 8) : State → Host.Outcome State Fault Refusal :=
  lift (fun d => if d.canState n.val = 1 then ((d.canStateSet n.val 2).errState n.val).canOffer n.val else d)
/-- R407. -/
def execCanFrameReceive (n : Fin 8) (f : CanRx) : State → Host.Outcome State Fault Refusal :=
  liftIf (canShape f) (fun d => d.canReceive n.val f)
/-- R403. -/
def execCanTxEnd (n : Fin 8) (b : Fin 33) (r : TxEnd) (tdcv : BitVec 7) : State → Host.Outcome State Fault Refusal :=
  lift (fun d => d.canTxEnd n.val b.val r tdcv.toNat)
/-- R398. DEDUCED, log entry 83. -/
def execCanRecoveryDone (n : Fin 8) : State → Host.Outcome State Fault Refusal :=
  lift (fun d => if d.canState n.val = 5 then
      ((d.canStateSet n.val 1).setCtl n.val (fun x => { x with txErr := 0, rxErr := 0 })).errShow n.val
    else d)
/-- R402. -/
def execCanPend (who : Initiator) (n : Fin 8) (b : Fin 32) : State → Host.Outcome State Fault Refusal :=
  lift (fun d => d.access who (bufStat n.val b.val) (fun d => d.bufStatWrite who n.val b.val 1))
/-- R406. -/
def execCanAbort (who : Initiator) (n : Fin 8) (b : Fin 32) : State → Host.Outcome State Fault Refusal :=
  lift (fun d => d.access who (bufStat n.val b.val) (fun d => d.bufStatWrite who n.val b.val 2))
/-- R409. -/
def execCanRxqPop (who : Initiator) (n : Fin 8) (q : Fin 2) (val : Word) : State → Host.Outcome State Fault Refusal :=
  lift (fun d => d.access who (MDB_RXQ_POP n.val q.val) (fun d => d.rxqPop n.val q.val val))
/-- R412. -/
def execReceiveBufferRead (who : Initiator) (n : Fin 8) (b : Fin 32) : State → Host.Outcome State Fault Refusal :=
  lift (fun d => d.accessR who (MDB_BUF n.val b.val 2) (fun d =>
    (d.r (MDB_BUF n.val b.val 2), d.ndRead n.val b.val)))
/-- R414. -/
def execTtCycleBoundary (n : Fin 8) : State → Host.Outcome State Fault Refusal := lift (fun d => d.ttBoundary n.val)
/-- R415. -/
def execTtTrigger (n : Fin 8) (t : Fin 64) : State → Host.Outcome State Fault Refusal := lift (fun d => d.ttTrigger n.val t.val)
/-- R416. -/
def execTtLevelClear (who : Initiator) (n : Fin 8) (val : Word) : State → Host.Outcome State Fault Refusal :=
  lift (fun d => d.access who (MDB_TT_STAT n.val) (fun d => d.ttLevelWrite n.val val))
/-- R418. -/
def execMdbWakeFrame (n : Fin 2) (f : WakeFrame) : State → Host.Outcome State Fault Refusal :=
  lift (fun d => d.wakeFrame n.val f)
/-- R419. -/
def execFalseWakeCheck (n : Fin 2) : State → Host.Outcome State Fault Refusal := lift (fun d => d.falseWake n.val)
/-- R419. -/
def execWakeConfirm (who : Initiator) (n : Fin 2) (val : Word) : State → Host.Outcome State Fault Refusal :=
  lift (fun d => d.access who (MDB_WAKE_STAT n.val) (fun d => d.wakeConfirm n.val val))
/-- R397. DESIGN CHOICE, log entry 93. -/
def execCanBusError (n : Fin 8) (code : Fin 8) (dataPhase : Bool) : State → Host.Outcome State Fault Refusal :=
  lift (fun d => if d.canState n.val = 2 || d.canState n.val = 3 then (d.rxError n.val code.val dataPhase).canOffer n.val
    else d)
/-- R415. -/
def execTxWindowMissed (n : Fin 8) (t : Fin 64) : State → Host.Outcome State Fault Refusal :=
  lift (fun d => d.txWindowMissed n.val t.val)

end Sys2Proof.Machine
end

