-- ==== Sys2Proof/Machine/Red.lean ====
section
/-!
DEFINITION. Meanings of the device pair's rows (12_redundancy_failover.md).
-/
namespace Sys2Proof.Machine

/-- R348. -/
def execHeartbeatSend : State → Host.Outcome State Fault Refusal := lift Dev.hbSend
/-- R349, R353, R354. -/
def execHeartbeatReceive (path : HbPath) (msg : List Byte) : State → Host.Outcome State Fault Refusal :=
  liftIf (msg.length == 24) (fun d => d.hbReceive (match path with | .ring => 0 | .hbo => 1) msg)
/-- R351. -/
def execHeartbeatMissCheck : State → Host.Outcome State Fault Refusal := lift Dev.missCheck
/-- R360, R364. -/
def execTakeoverCmd (who : Initiator) (v : Word) : State → Host.Outcome State Fault Refusal :=
  lift (fun d => d.access who RED_CMD (fun d => if bitOf v 0 then d.redCmd who v else d))
/-- R364. -/
def execRelinquishCmd (who : Initiator) (v : Word) : State → Host.Outcome State Fault Refusal :=
  lift (fun d => d.access who RED_CMD (fun d => if bitOf v 1 then d.redCmd who v else d))
/-- R345-R347. -/
def execBookRecordReceive (r : BookRecord) : State → Host.Outcome State Fault Refusal := lift (fun d => d.bookRecord r)
/-- R363. -/
def execRedDisagree : State → Host.Outcome State Fault Refusal := lift Dev.redFlag

end Sys2Proof.Machine
end

