-- ==== Sys2Proof/Machine/Slv.lean ====
section
/-!
DEFINITION. Meanings of the Selvedge ring's rows (13_selvedge_ring.md).
-/
namespace Sys2Proof.Machine

/-- R381. -/
def execRingEnable (who : Initiator) (v : Word) : State → Host.Outcome State Fault Refusal :=
  lift (fun d => d.access who SLV_CTRL (fun d => if bitOf v 0 then d.ringCtrl v else d))
/-- R381. -/
def execRingDisable (who : Initiator) (v : Word) : State → Host.Outcome State Fault Refusal :=
  lift (fun d => d.access who SLV_CTRL (fun d => if bitOf v 0 then d else d.ringCtrl v))
/-- R371, R372, R375. -/
def execRoundStart (linkDly : BitVec 16) : State → Host.Outcome State Fault Refusal :=
  lift (fun d => d.roundStart linkDly.toNat)
/-- R373, R374. -/
def execSlotInsert (k : Fin 80) : State → Host.Outcome State Fault Refusal := lift (fun d => d.slotInsert k.val)
/-- R376-R380, R390. -/
def execSlotFrameReceive (k : Fin 80) (b : List Byte) (path : Ecc) : State → Host.Outcome State Fault Refusal :=
  liftIf (b.length == 152) (fun d => d.slotReceive k.val b path)
/-- R381. -/
def execListenTimeout : State → Host.Outcome State Fault Refusal := lift Dev.listenOver
/-- R381. -/
def execColdstartTimeout : State → Host.Outcome State Fault Refusal := lift Dev.coldOver
/-- R381. -/
def execTimeFrameLoss : State → Host.Outcome State Fault Refusal := lift Dev.timeLost
/-- R383. -/
def execRingInputLost : State → Host.Outcome State Fault Refusal := lift (fun d => d.ringLoop false)
/-- R383. -/
def execReturnLaneFault : State → Host.Outcome State Fault Refusal := lift (fun d => d.ringLoop true)
/-- R387. -/
def execFailedHopLockHeld (laneA : Bool) : State → Host.Outcome State Fault Refusal := lift (fun d => d.hopHeld laneA)
/-- R387. -/
def execRingClose (who : Initiator) (v : Word) : State → Host.Outcome State Fault Refusal :=
  lift (fun d => d.access who SLV_CMD (fun d => d.ringClose who v))
/-- R387. -/
def execClosingRound : State → Host.Outcome State Fault Refusal := lift Dev.closingRound
/-- R392. -/
def execSlvDisagree : State → Host.Outcome State Fault Refusal := lift Dev.slvDiffer

end Sys2Proof.Machine
end

