-- ==== Sys2Proof/Machine/Swc.lean ====
section
/-!
DEFINITION. Meanings of the switch rows (11_switch_core.md): FDB commands and aging, gate lists, the bolt store, port state.
-/
namespace Sys2Proof.Machine

/-- A write of SWC_FDB_CMD with operation `op` (R310): it completes in the step. -/
def Dev.fdbOp (d : Dev) (who : Initiator) (op : Nat) : Dev := d.access who SWC_FDB_CMD (fun d => d.fdbCmd op)

/-- An aged entry goes (R309). -/
def Dev.fdbAge (d : Dev) (i : Nat) : Dev :=
  match tfind d.swc.fdb i with
  | some e => if d.fdbAged e then d.fdbErase i else d
  | none => d

/-- R310. -/
def execFdbLookup (who : Initiator) : State → Host.Outcome State Fault Refusal := lift (fun d => d.fdbOp who 0)
/-- R310. -/
def execFdbInsertStatic (who : Initiator) : State → Host.Outcome State Fault Refusal := lift (fun d => d.fdbOp who 1)
/-- R310. -/
def execFdbDelete (who : Initiator) : State → Host.Outcome State Fault Refusal := lift (fun d => d.fdbOp who 2)
/-- R310. -/
def execFdbFlushDynamic (who : Initiator) : State → Host.Outcome State Fault Refusal := lift (fun d => d.fdbOp who 3)
/-- R310. -/
def execFdbReadEntry (who : Initiator) : State → Host.Outcome State Fault Refusal := lift (fun d => d.fdbOp who 4)
/-- R309. -/
def execFdbAgeOut (i : Fin 16384) : State → Host.Outcome State Fault Refusal := lift (fun d => d.fdbAge i.val)
/-- R317. -/
def execGateInstall (who : Initiator) (p : Fin 20) (v : Word) : State → Host.Outcome State Fault Refusal :=
  lift (fun d => d.access who (SWC_GATE_CMD p.val) (fun d => if bitOf v 0 then d.gateCmd p.val v else d))
/-- R317. -/
def execGateStop (who : Initiator) (p : Fin 20) (v : Word) : State → Host.Outcome State Fault Refusal :=
  lift (fun d => d.access who (SWC_GATE_CMD p.val) (fun d => if bitOf v 1 then d.gateCmd p.val v else d))
/-- R317-R319. -/
def execGateListStart (p : Fin 20) : State → Host.Outcome State Fault Refusal := lift (fun d => d.gateListStart p.val)
/-- R316, R318, R321. -/
def execGateEntryChange (p : Fin 20) : State → Host.Outcome State Fault Refusal := lift (fun d => d.gateNext p.val)
/-- R324. -/
def execBoltFill (p : Fin 22) (q : Fin 8) (ecc retry : Ecc) : State → Host.Outcome State Fault Refusal :=
  lift (fun d => d.boltFill p.val q.val ecc retry)
/-- R332. -/
def execSwcPortDisagree (p : Fin 20) : State → Host.Outcome State Fault Refusal := lift (fun d => d.portDisagree p.val)

end Sys2Proof.Machine
end

