-- ==== Sys2Proof/Machine/RegWriteB.lean ====
section
/-!
DEFINITION. Writes of the registers of MAC, SWC, RED, SLV, MDB and SCN whose chapters give them more than their access codes.
In each function `p` is the write by access codes alone (RegPlain.lean).
-/
namespace Sys2Proof.Machine

/-! ### MAC (spec/10_ports_mac.md) -/

/-- Port `n` supports the interface (R277). -/
def ifaceOk (n i : Nat) : Bool := if n < 16 then i ≤ 3 else i == 4

/-- The management view follows a write of MAC_LINK_CFG (R299, R301). -/
def Dev.linkCfg (d : Dev) (n : Nat) : Dev :=
  let w := d.r (MAC_LINK_CFG n)
  if fld w 1 0 = 1 then d.mgmtView n (bitOf w 2) (fld w 5 3) else d.mgmtCopy n

/-- Registers of port `n`, at offset `o` of its 0x1_0000 bytes. -/
def Dev.wrPort (d : Dev) (who : Initiator) (n o : Nat) (v : Word) (p : Dev → Dev) : Dev :=
  if o = 0x04 then
    if d.b (MAC_CTRL n) 0 || !(ifaceOk n (fld v 2 0)) then d.refuse who (MAC_IF_CFG n) else p d
  else if o = 0x1C then if 1000000 < fld v 19 0 then d.refuse who (MAC_PAUSE_WDOG n) else p d
  else if o = 0x24 then (p d).linkCfg n
  else if o = 0x30 then
    (p d).setPort n (fun m => { m with intended := if bitOf v 0 then m.intended else [] })
  else if o = 0x40 then
    let x := p d
    if bitOf v 0 && 20000 < x.cipherLoad then d.refuse who (MAC_SEC_CFG n) else x
  else if o = 0x64 || o = 0x68 || o = 0x6C || o = 0x70 then (p d).tallySync n
  else if MAC_TALLY_CLR n = MAC_CTRL n + o then d.tallyClr n v
  else p d

/-- MAC. -/
def Dev.wrMac (d : Dev) (who : Initiator) (a : Nat) (v : Word) (p : Dev → Dev) : Dev :=
  if a < 0xB40000 then d.wrPort who ((a - 0xA00000) / 0x10000) (a % 0x10000) v p
  else match elem (MAC_MDIO_CFG 0) 4 2 a, elem (MAC_MDIO_CMD 0) 0x10 2 a with
    | some _, _ => if fld v 7 0 < 15 then d.refuse who a else p d
    | _, some m => d.mdioCmd who m (fld v 1 0) v false
    | _, _ => p d

/-! ### SWC (spec/11_switch_core.md) -/

/-- Idle slopes of the shaped classes of a port, in kb/s (R315). -/
def Dev.slopeSum (d : Dev) (n : Nat) : Nat :=
  ((List.range 8).map (fun q => if d.b (SWC_Q_MODE n q) 0 then (d.r (SWC_CBS_SLOPE n q)).toNat else 0)).foldl (· + ·) 0

/-- A write that shapes a class: the credits are brought up to the present, then the sum is judged.
DEDUCED, log entry 61. -/
def Dev.wrShaper (d : Dev) (who : Initiator) (n a : Nat) (p : Dev → Dev) : Dev :=
  let x := p (d.credits n)
  if d.portRate n * 1000 < x.slopeSum n then d.refuse who a else x

/-- A write of SWC_Q_LIM (R322): refused when it would make the pool negative; it ends a shortage of the reserves (R326).
DEDUCED, log entry 61. -/
def Dev.wrLimit (d : Dev) (who : Initiator) (a : Nat) (p : Dev → Dev) : Dev :=
  let x := (p d.poolLow).poolLow
  if x.poolCells < 0 then if x.poolCells < d.poolCells then d.refuse who a else x
  else { x.wb SWC_STAT 1 false with swc := { x.swc with limit := [] } }

/-- Registers of switch port `n`, at offset `o` of its 0x1000 bytes. -/
def Dev.wrSwPort (d : Dev) (who : Initiator) (n o : Nat) (v : Word) (p : Dev → Dev) : Dev :=
  let a := SWC_PORT_CFG n + o
  if o = 0x00 then (p d).portView n
  else if o = 0x0C then (p d).setPort n (fun m => { m with sampRx := 0, sampTx := 0 })
  else if o = 0x20 then (p (d.credits n)).gateShow n
  else if o = 0x38 then if n < 20 then d.gateCmd n v else d
  else if 0x100 ≤ o then
    if o % 0x20 = 0x00 then d.wrLimit who a p
    else if o % 0x20 = 0x04 then if 1000000 < fld v 19 0 then d.refuse who a else p d
    else if o % 0x20 = 0x08 || o % 0x20 = 0x0C then d.wrShaper who n a p
    else if o % 0x20 = 0x10 || o % 0x20 = 0x14 then p (d.credits n)
    else p d
  else p d

/-- The gate entry lies in the operating window of its port (R317). -/
def Dev.entryRuns (d : Dev) (n i : Nat) : Bool :=
  match (d.gatep n).oper with
  | some l => l.start ≤ i && i < l.start + l.len
  | none => false

/-- SWC. DEDUCED, log entry 57. -/
def Dev.wrSwc (d : Dev) (who : Initiator) (a : Nat) (v : Word) (p : Dev → Dev) : Dev :=
  if a = SWC_FDB_CMD then d.fdbCmd (fld v 2 0)
  else if a = SWC_SPILL_CFG then if 16000 < fld v 15 0 then d.refuse who a else p d
  else if 0xC10000 ≤ a && a < 0xC26000 then d.wrSwPort who ((a - 0xC10000) / 0x1000) (a % 0x1000) v p
  else if 0xC40000 ≤ a && a < 0xC4A000 then
    if d.entryRuns ((a - 0xC40000) / 0x800) (a % 0x800 / 8) then d.refuse who a else p d
  else p d

/-! ### RED (spec/12_redundancy_failover.md) -/

/-- A write refused with the bell of a configuration error (R335, R350). DEDUCED, log entry 63. -/
def Dev.cfgErr (d : Dev) (who : Initiator) (a : Nat) : Dev := (d.refuse who a).ringBit .red 9

/-- The pair may be enabled (R350). DEDUCED, log entry 63. -/
def Dev.pairMay (d : Dev) : Bool :=
  let w := d.r RED_HB_CFG
  let per := fld w 6 0
  let inside := fun (s : Nat) => 1 ≤ s && s < per
  inside (fld w 13 7) && inside (fld w 20 14) && d.f RED_DET_CFG 7 4 ≤ d.f RED_DET_CFG 3 0 &&
    (!(bitOf w 21) || d.ownSlots.all (fun k => d.b (SLV_LOOM k) 3 && d.f (SLV_LOOM k) 2 0 == d.nodeId))

/-- Role and pairing change: the gate, the drive of the pins and the two views of the role follow.
DEDUCED, log entry 63. -/
def Dev.wrRedCtrl (d : Dev) (who : Initiator) (v : Word) (p : Dev → Dev) : Dev :=
  if bitOf v 0 && !d.pairMay then d.cfgErr who RED_CTRL
  else
    let before := d
    let d := p d
    let d := if d.paired then d else { d with red := { d.red with demoted := false, tie := 0 } }
    (d.roleView).pinsSeen before

/-- The port lies in a pair whose mode is not 0. -/
def Dev.inAnyPair (d : Dev) (n : Nat) : Bool := d.pairMode (n / 2) != 0

/-- A port of pair `k` is the interlink of another pair's RedBox (R335). -/
def Dev.linksInto (d : Dev) (k : Nat) : Bool :=
  (List.range 10).any (fun j => j != k && (d.pairMode j == 3 || d.pairMode j == 4) && d.f (RED_PAIR_CFG j) 12 8 / 2 == k)

/-- A write of RED_PAIR_CFG[k] (R335). -/
def Dev.wrPairCfg (d : Dev) (who : Initiator) (k a : Nat) (v : Word) (p : Dev → Dev) : Dev :=
  let x := p d
  let m := fld v 2 0
  let i := fld v 12 8
  if d.b (MAC_CTRL (2 * k)) 0 || d.b (MAC_CTRL (2 * k + 1)) 0 then d.cfgErr who a
  else if (m = 3 || m = 4) && (20 ≤ i || x.inAnyPair i) || (m ≠ 0 && d.linksInto k) then d.cfgErr who a
  else x

/-- RED. -/
def Dev.wrRed (d : Dev) (who : Initiator) (a : Nat) (v : Word) (p : Dev → Dev) : Dev :=
  if a = RED_CTRL then d.wrRedCtrl who v p
  else if a = RED_HB_CFG then
    let per := fld v 6 0
    if d.paired then d.refuse who a
    else if per ≤ 1 || 80 % per ≠ 0 then d.cfgErr who a
    else p d
  else if a = RED_DET_CFG then if d.paired || 2000 < fld v 27 16 then d.refuse who a else p d
  else if a = RED_CLAIM then
    if d.paired then d.refuse who a
    else
      let d := p d
      if claimHigher (d.f a 15 0) (d.f a 31 16) then d.wf a 31 16 (d.f a 15 0) else d
  else if a = RED_CMD then d.redCmd who v
  else match elem (RED_PAIR_CFG 0) 0x10 10 a with
    | some k => d.wrPairCfg who k a v p
    | none => p d

/-! ### SLV (spec/13_selvedge_ring.md) -/

/-- SLV. -/
def Dev.wrSlv (d : Dev) (who : Initiator) (a : Nat) (v : Word) (p : Dev → Dev) : Dev :=
  if a = SLV_CTRL then d.ringCtrl v
  else if a = SLV_CMD then d.ringClose who v
  else if a = SLV_NODE_CFG then if d.b SLV_CTRL 0 then d.refuse who a else p d
  else match elem (SLV_LOOM 0) 4 80 a with
    | some k => if d.mode = .stop then p (d.loomWrite k) else d.refuseMode who a
    | none => p d

/-! ### MDB (spec/14_multidrop_bus.md) -/

/-- A nominal bit timing may be set (R395): 8 quanta at least, sjw within tseg2, 1 Mbit/s at most (80 CAN clocks a bit). -/
def nbtOk (v : Word) : Bool :=
  let q := 3 + fld v 16 8 + fld v 23 17
  8 ≤ q && fld v 30 24 ≤ fld v 23 17 && 80 ≤ (fld v 7 0 + 1) * q

/-- A data bit timing may be set: 5 quanta at least, 8 Mbit/s at most (10 CAN clocks a bit). -/
def dbtOk (v : Word) : Bool :=
  let q := 3 + fld v 12 8 + fld v 19 16
  5 ≤ q && fld v 27 24 ≤ fld v 19 16 && 10 ≤ (fld v 4 0 + 1) * q

/-- Registers of controller `n`, at offset `o` of its 0x1000 bytes. -/
def Dev.wrCtl (d : Dev) (who : Initiator) (n o : Nat) (v : Word) (p : Dev → Dev) : Dev :=
  if o = 0x00 then d.mdbCtrl n v
  else if o = 0x10 then if d.b (MDB_CTRL n) 0 || !(nbtOk v) then d.refuse who (MDB_NBT n) else p d
  else if o = 0x14 then if d.b (MDB_CTRL n) 0 || !(dbtOk v) then d.refuse who (MDB_DBT n) else p d
  else if o = 0x68 then d.rxqPop n 0 v
  else if o = 0x6C then d.rxqPop n 1 v
  else if o = 0xA0 then d.ttLevelWrite n v
  else if o = 0x1D8 then d.wakeConfirm n v
  else if 0x600 ≤ o then
    let b := (o - 0x600) / 0x50
    let w := (o - 0x600) % 0x50 / 4
    if w = 0 then p d else if w = 1 then d.bufStatWrite who n b v else d.bufRecWrite who n b w v
  else p d

/-- MDB. -/
def Dev.wrMdb (d : Dev) (who : Initiator) (a : Nat) (v : Word) (p : Dev → Dev) : Dev :=
  d.wrCtl who ((a - 0x1000000) / 0x1000) (a % 0x1000) v p

/-! ### SCN (spec/16_scan_bay_logic.md) -/

/-- Registers that may be written only while the scan is in STOP. DEDUCED, log entry 34. -/
def scnStopOnly (a : Nat) : Bool :=
  a == SCN_ERR_TASK || (SCN_TASK 0 ≤ a && a < SCN_CNT 0) || (SCN_STN_CFG 0 0 ≤ a && a < SCN_STN_PUB 0)

/-- SCN. DEDUCED, log entry 34. -/
def Dev.wrScn (d : Dev) (who : Initiator) (a : Nat) (v : Word) (p : Dev → Dev) : Dev :=
  if a = SCN_CTRL then d.scnCtrl v
  else if a = SCN_CFG then
    let per := fld v 19 0
    if d.scn.state ≠ .stop || (0 < per && per < 250) || 1000000 < per then d.refuse who a else p d
  else if SCN_RET 0 ≤ a then d.retWrite who ((a - SCN_RET 0) / 4) v
  else if scnStopOnly a then if d.scn.state = .stop then p d else d.refuse who a
  else match elem (SCN_STN_PUB 0) 4 64 a with
    | some s => d.stnPub s v
    | none => p d

end Sys2Proof.Machine
end

