-- ==== Sys2Proof/Machine/RegWrite.lean ====
section
/-!
DEFINITION. A write of a register word of BAR0, for every register of every block (R4-R8, R28, R531, R533-R535).
-/
namespace Sys2Proof.Machine

/-- The write as the block's chapter has it. -/
def Dev.blockWrite (d : Dev) (who : Initiator) (r : RegDesc) (a : Nat) (v hwSet : Word) : Dev :=
  let p := fun (d : Dev) => d.plainWrite who r a v hwSet
  if a < 0x100000 then p d
  else if a < 0x200000 then d.wrPwr who a v p
  else if a < 0x300000 then d.wrTb who a v p
  else if a < 0x400000 then d.wrTrd who a v p
  else if a < 0x500000 then d.wrCut who a v p
  else if a < 0x600000 then d.wrMbx who a v p
  else if a < 0x700000 then d.wrHbr who a v p
  else if a < 0x800000 then d.wrFbr a v p
  else if a < 0x900000 then p d
  else if a < 0xA00000 then d.wrXmc who a p
  else if a < 0xC00000 then d.wrMac who a v p
  else if a < 0xE00000 then d.wrSwc who a v p
  else if a < 0xF00000 then d.wrRed who a v p
  else if a < 0x1000000 then d.wrSlv who a v p
  else if a < 0x1100000 then d.wrMdb who a v p
  else if a < 0x1200000 then d.wrSht who a v p
  else if a < 0x1300000 then d.wrScn who a v p
  else if a < 0x1400000 then d.wrSec who a v p
  else d.wrEng who a v p

/-- A write of the word at BAR0 offset `a`; `hwSet` are the bits that hardware sets in the same clock (R8).
DEDUCED, log entry 81. -/
def Dev.regWrite (d : Dev) (who : Initiator) (a : Nat) (v hwSet : Word) : Dev :=
  d.access who a (fun d =>
    match regDesc a with
    | none => if beyondBlocks who a then d else d.accErr who true 2 a
    | some r => d.blockWrite who r a v hwSet)

/-- REGISTER_WRITE: a host write with partial byte enables is discarded and recorded (R4). -/
def execRegisterWrite (who : Initiator) (addr : Nat) (be : BitVec 4) (val hwSet : Word) :
    State → Host.Outcome State Fault Refusal :=
  lift (fun d =>
    if !d.hostUp then d
    else if isHost who && be ≠ 15#4 then d.accErr who true 1 addr
    else d.regWrite who addr val hwSet)

end Sys2Proof.Machine
end

