-- ==== Sys2Proof/Machine/BridgeOps.lean ====
section
/-!
DEFINITION. The host bridge (17_mailboxes_bridges.md): posted writes and the ledger (R474-R476), locked reads and the semaphore
(R477, R478), the outbound window (R479, R480), polled interrupts (R481) and the transmit rings (R484).
-/
namespace Sys2Proof.Machine

/-! ### The ledger (R474, R475) -/

/-- The code of a space in the ledger. -/
def spaceCode : HostSpace → Nat
  | .bar0 => 0 | .bar2 => 1 | .bar4 => 2 | .lbTarget => 3 | .obw => 4

/-- The posted writes of a port that have not been performed, oldest first. -/
def Dev.posts (d : Dev) : HostPort → List Posted
  | .pcie => d.hbr.postPcie
  | .lb => d.hbr.postLb

def Dev.setPosts (d : Dev) (i : HostPort) (l : List Posted) : Dev :=
  match i with
  | .pcie => d.setHbr (fun b => { b with postPcie := l })
  | .lb => d.setHbr (fun b => { b with postLb := l })

/-- Index of a port: its HBR_WSEQ, and its pending flag in HBR_STAT. -/
def portIdx : HostPort → Nat
  | .pcie => 0 | .lb => 1

/-- A failed write: one entry of the ledger, the initiator's pending flag, the bell. DEDUCED, log entry 74. -/
def Dev.ledger (d : Dev) (i : HostPort) (addr tag space wseq cause : Nat) : Dev :=
  let k := d.hbr.ledgerSeq
  let n := k % 64
  let d := (d.w (HBR_LEDGER n 0) (w32 addr)).w (HBR_LEDGER n 1) (w32 (tag + 2 ^ 16 * space + 2 ^ 24 * cause))
  let d := (d.w (HBR_LEDGER n 2) (w32 (wseq + 2 ^ 16 * (k % 65536)))).w (HBR_LEDGER n 3) d.tb.st
  let d := d.wf HBR_LEDGER_HEAD 5 0 ((n + 1) % 64)
  let d := if 64 ≤ k then d.satf HBR_LEDGER_HEAD 31 16 1 else d
  let d := d.setHbr (fun b => { b with ledgerSeq := k + 1 })
  (d.wb HBR_STAT (portIdx i) true).ringBit .hbr 0

/-! ### The outbound window (R479, R480) -/

/-- A failure of the outbound cycle `o`: a write's goes to the ledger, a read ends with Completer Abort. -/
def Dev.obFail (d : Dev) (o : Outbound) (cause : Nat) : Dev :=
  if o.write then d.ledger .pcie o.ofs o.tag 4 o.wseq cause
  else (d.satf HBR_OB_STAT 31 16 1).answer .pcie 0xFFFFFFFF true

/-- The outbound cycle `o` is tried, with what it meets on the bus; a write that is not acknowledged stands there until its time is
over (R474). DEDUCED, log entry 74. -/
def Dev.obTry (d : Dev) (o : Outbound) (res : ObResult) : Dev :=
  let d := d.setHbr (fun b => { b with ob := none })
  let addr := (d.r HBR_OBW_BASE).toNat / 2 ^ 19 * 2 ^ 19 + o.ofs
  if o.write && d.f HBR_LB_CFG 31 16 = 0 then d.obFail o 6
  else match res with
    | .ack v =>
      let d := d.emit (.lbCycle o.write addr o.be (if o.write then o.data else v))
      if o.write then d else d.answer .pcie v
    | .timeout => if o.write then d.setHbr (fun b => { b with ob := some { o with onBus := true } }) else d.obFail o 6
    | .crossed =>
      let d := d.satf HBR_OB_STAT 15 0 1
      let n := o.tries + 1
      if d.f HBR_LB_CFG 15 8 ≤ n then d.obFail o 7
      else d.setHbr (fun b => { b with ob := some { o with tries := n, since := d.tb.now } })

/-! ### The targets of host accesses -/

/-- Where the local bus decodes its 32-bit address. -/
def lbDecode (addr : Nat) : Option (HostSpace × Nat) :=
  if addr < 0x2000000 then some (.bar0, addr)
  else if addr < 0x6000000 then some (.bar2, addr - 0x2000000)
  else if 0x40000000 ≤ addr && addr < 0x80000000 then some (.bar4, addr - 0x40000000)
  else none

/-- The space that an access reaches: the outbound window lies inside BAR0, for PCIe alone (R479). -/
def hostTarget (i : HostPort) (space : HostSpace) (addr : Nat) : Option (HostSpace × Nat) :=
  match i, space with
  | .pcie, .bar0 => if 0x680000 ≤ addr && addr < 0x700000 then some (.obw, addr - 0x680000) else some (.bar0, addr)
  | .lb, .lbTarget => lbDecode addr
  | .lb, .obw => none
  | _, .lbTarget => none
  | _, s => some (s, addr)

/-- A byte offset of external memory lies in the pool or the bolt store. -/
def Dev.hostProtected (d : Dev) (o : Nat) : Bool :=
  let inside := fun (b s : Nat) => b * 2 ^ 20 ≤ o && o < (b + s) * 2 ^ 20
  d.b XMC_CTRL 2 && (inside (d.f XMC_BOLT_BASE 13 0) (d.f XMC_BOLT_SIZE 13 0) || inside (d.f XMC_POOL_BASE 13 0) (d.f XMC_POOL_SIZE 13 0))

/-- Byte offset in external memory of an access through BAR4 (R275). -/
def Dev.bar4Ofs (d : Dev) (addr : Nat) : Nat := d.f XMC_HOST_WIN 2 0 * 2 ^ 30 + addr / 4 * 4

/-- A host write through BAR4 (R275). DEDUCED, log entry 76. -/
def Dev.bar4Write (d : Dev) (who : Initiator) (addr : Nat) (be : BitVec 4) (v : Word) (ecc retry : Ecc) : Dev :=
  let shown := portAddr who 0x40000000 addr
  if !d.memOpen then d.accErr who true 4 shown
  else if d.extBytes ≤ d.bar4Ofs addr then d.refuse who shown
  else if d.hostProtected (d.bar4Ofs addr) then (d.failWrite 3).refuse who shown
  else d.hostPut (keyExt + d.bar4Ofs addr) be v ecc retry

/-- A host read through BAR4. DEDUCED, log entry 76. -/
def Dev.bar4Read (d : Dev) (who : Initiator) (addr : Nat) (ecc retry : Ecc) : Word × Dev :=
  if !d.memOpen then (0, d.accErr who false 4 (portAddr who 0x40000000 addr))
  else if d.extBytes ≤ d.bar4Ofs addr then (0, d.accErr who false 5 (portAddr who 0x40000000 addr))
  else d.hostGet (keyExt + d.bar4Ofs addr) ecc retry

/-- A write at its target, but for the outbound window. DEDUCED, log entry 76. -/
def Dev.hostDo (d : Dev) (w : HostWrite) (ecc retry : Ecc) : Dev :=
  let who := portWho w.port
  match hostTarget w.port w.space w.addr with
  | some (.bar0, a) =>
    let a := a / 4 * 4
    if w.be ≠ 15#4 then d.accErr who true 1 a else d.regWrite who a w.data 0
  | some (.bar2, a) => d.bar2Write who a w.be w.data ecc retry
  | some (.bar4, a) => d.bar4Write who a w.be w.data ecc retry
  | some (.obw, a) => d.accErr who true 2 (0x680000 + a)
  | _ => d.accErr who true 2 w.addr

/-- A value as its byte enables let it through (R4). -/
def beMask (be : BitVec 4) (v : Word) : Word :=
  (List.range 4).foldl (fun (x : Word) i => if be.getLsbD i then x ||| (v &&& (0xFF#32 <<< (8 * i))) else x) 0

/-- A read at its target, but for the outbound window. DESIGN CHOICE, log entry 49; DEDUCED, log entry 76. -/
def Dev.hostFetch (d : Dev) (i : HostPort) (space : HostSpace) (addr : Nat) (be : BitVec 4) (ecc retry : Ecc) : Dev :=
  let who := portWho i
  let (v, d) := match hostTarget i space addr with
    | some (.bar0, a) => d.regRead who (a / 4 * 4)
    | some (.bar2, a) => d.bar2Read who a ecc retry
    | some (.bar4, a) => d.bar4Read who a ecc retry
    | _ => (0, d.accErr who false 2 addr)
  d.answer who (beMask be v)

/-! ### Posted writes and reads (R474, R476) -/

/-- The bridge takes a write: at once, with the initiator's next write sequence. -/
def Dev.postWrite (d : Dev) (w : HostWrite) : Dev :=
  let n := d.f (HBR_WSEQ (portIdx w.port)) 15 0
  (d.setPosts w.port (d.posts w.port ++ [⟨w, n⟩])).wf (HBR_WSEQ (portIdx w.port)) 15 0 ((n + 1) % 65536)

/-- The local bus finds the device as a target. -/
def Dev.portUp (d : Dev) (i : HostPort) : Bool := d.hostUp && (i == .pcie || d.b HBR_CTRL 0)

/-- A write of this port still waits: one posted, or an outbound one that has backed off. -/
def Dev.postsWait (d : Dev) (i : HostPort) : Bool :=
  !(d.posts i).isEmpty || (i == .pcie && (match d.hbr.ob with | some o => o.write | none => false))

/-- PCIe accesses to BAR2 and BAR4 wait while the local bus holds the semaphore (R477). -/
def Dev.lockedOut (d : Dev) (i : HostPort) (space : HostSpace) : Bool :=
  i == .pcie && (space == .bar2 || space == .bar4) && d.hbr.sem == .lb

/-- A read of the host that goes to external memory. -/
def hostExt (space : HostSpace) (addr : Nat) : Bool :=
  space == .bar4 || (space == .lbTarget && 0x40000000 ≤ addr && addr < 0x80000000)

/-- The oldest posted write of a port is performed, or fails. One of external memory waits for the engines' requests (R273). -/
def Dev.performWrite (d : Dev) (i : HostPort) (res : ObResult) (ecc retry : Ecc) : Dev :=
  match d.posts i with
  | [] => d
  | p :: t =>
    let outbound := (hostTarget i p.w.space p.w.addr).any (fun x => x.1 == .obw) && d.b HBR_CTRL 1
    if !d.hostUp || d.lockedOut i p.w.space || (p.isExt && d.engineWaits) || (i == .pcie && d.hbr.ob.any (fun o => o.write || outbound)) then d
    else if outbound then
      (d.setPosts i t).obTry
        { write := true, ofs := ((hostTarget i p.w.space p.w.addr).map (·.2)).getD 0, be := p.w.be, data := p.w.data,
          tag := p.w.tag.toNat, wseq := p.wseq, tries := 0, since := d.tb.now, began := d.tb.now,
          onBus := false } res
    else
      let d := ((d.setPosts i t).setHbr (fun b => { b with fail := 0 })).hostDo p.w ecc retry
      let d := if d.hbr.fail = 0 then d else d.ledger i p.w.addr p.w.tag.toNat (spaceCode p.w.space) p.wseq d.hbr.fail
      if i == .lb && d.hbr.sem == .lb then d.semFree else d

/-- An address inside the block HBR, whose reads are always performed (R476). -/
def hbrRead (i : HostPort) (space : HostSpace) (addr : Nat) : Bool :=
  match hostTarget i space addr with
  | some (.bar0, a) => 0x600000 ≤ a && a < 0x700000
  | some (.obw, _) => true
  | _ => false

/-- A read that the initiator's pending flag lets through is performed by `f`; else it completes in error. -/
def Dev.fencedRead (d : Dev) (i : HostPort) (space : HostSpace) (addr : Nat) (f : Dev → Dev) : Dev :=
  if d.b HBR_STAT (portIdx i) && !(hbrRead i space addr) then (d.wb HBR_STAT (portIdx i) false).answer (portWho i) 0xFFFFFFFF true
  else f d

/-- An outbound read (R479). -/
def Dev.obRead (d : Dev) (ofs : Nat) (be : BitVec 4) (tag : Nat) (res : ObResult) : Dev :=
  if !(d.b HBR_CTRL 1) then (d.accErr .pcie false 2 (0x680000 + ofs)).answer .pcie 0
  else if d.hbr.ob.isSome then d
  else d.obTry { write := false, ofs := ofs, be := be, data := 0, tag := tag, wseq := 0, tries := 0, since := d.tb.now,
                 began := d.tb.now, onBus := false } res

/-- HOST_READ. A read of the outbound window that goes out on the bus comes as OUTBOUND_ACCESS.
DESIGN CHOICE, log entry 39. -/
def Dev.hostRead (d : Dev) (i : HostPort) (space : HostSpace) (addr : Nat) (be : BitVec 4) (ecc retry : Ecc) : Dev :=
  if !(d.portUp i) || d.postsWait i || d.lockedOut i space || (hostExt space addr && d.engineWaits) then d
  else match hostTarget i space addr with
    | some (.obw, ofs) => if d.b HBR_CTRL 1 then d else d.obRead ofs be 0 .timeout
    | _ => d.fencedRead i space addr (fun d => d.hostFetch i space addr be ecc retry)

/-- OUTBOUND_ACCESS: a write is accepted, and performed when nothing of the initiator waits before it. -/
def Dev.outbound (d : Dev) (write : Bool) (ofs : Nat) (be : BitVec 4) (v : Word) (tag : BitVec 16) (res : ObResult) : Dev :=
  if !d.hostUp then d
  else if write then
    let before := d.postsWait .pcie
    let d := d.postWrite { port := .pcie, space := .obw, addr := ofs, be := be, data := v, tag := tag }
    if before then d else d.performWrite .pcie res .clean .clean
  else if d.postsWait .pcie then d
  else d.obRead ofs be tag.toNat res

/-- CROSSING_RETRY: the cycle that backed off is tried again after retry_ns (R480). DEDUCED, log entry 74. -/
def Dev.crossRetry (d : Dev) (res : ObResult) : Dev :=
  match d.hbr.ob with
  | some o => if !o.onBus && o.since + 10 * d.f HBR_LB_CFG 7 0 ≤ d.tb.now then d.obTry o res else d
  | none => d

/-- LB_WRITE_TIMEOUT: an outbound write that is still not acknowledged after timeout_us fails. -/
def Dev.lbTimeout (d : Dev) : Dev :=
  match d.hbr.ob with
  | some o =>
    if o.write && o.began + 1000 * d.f HBR_LB_CFG 31 16 ≤ d.tb.now then
      (d.setHbr (fun b => { b with ob := none })).obFail o 6
    else d
  | none => d

/-! ### Locked reads and the semaphore (R477, R478) -/

/-- A hold of the semaphore ends by time: counted, and for the local bus the bell rings. -/
def Dev.lockExpire (d : Dev) : Dev :=
  let d := if d.hbr.sem == .lb then d.ringBit .hbr 1 else d
  (d.cnt (HBR_CNT 2)).semFree

/-- A local-bus read with LB_LOCK_N; a further one of the same sequence keeps the hold as it runs. DEDUCED, log entry 74. -/
def Dev.lockedRead (d : Dev) (addr : Nat) (ecc retry : Ecc) : Dev :=
  if !(d.portUp .lb) || d.postsWait .lb || (hostExt .lbTarget addr && d.engineWaits) then d
  else
    let read := fun (d : Dev) =>
      d.fencedRead .lb .lbTarget addr (fun d => d.hostFetch .lb .lbTarget addr 15#4 ecc retry)
    if !(d.b HBR_CTRL 2) then read d
    else match d.hbr.sem with
      | .engine _ => d
      | .lb => read d
      | .free =>
        let d := d.semTake .lb
        read (if d.f HBR_LOCK_CFG 15 0 = 0 then d.lockExpire else d)

/-- LB_LOCK_N is deasserted: without a write, the semaphore is free; a write that is posted frees it when it is performed (R477).
DEDUCED, log entry 74. -/
def Dev.lockEnd (d : Dev) : Dev := if d.hbr.sem == .lb && d.hbr.postLb.isEmpty then d.semFree else d

/-- The semaphore is held longer than hold_max_us. -/
def Dev.lockTimeout (d : Dev) : Dev :=
  let t := d.hbr.semSince + 1000 * d.f HBR_LOCK_CFG 15 0
  match d.hbr.sem with
  | .free => d
  | .lb => if t ≤ d.tb.now then d.lockExpire else d
  | .engine _ => if t < d.tb.now then d.lockExpire else d

/-! ### Polled interrupts (R481) -/

/-- Input `n` matches its rule at level `now`, after level `before`. -/
def irqMatch (cfg : Word) (before now : Bool) : Bool :=
  bitOf cfg 0 && (match fld cfg 2 1 with
    | 0 => !before && now
    | 1 => before && !now
    | 2 => before != now
    | _ => now == bitOf cfg 3)

/-- The sampling period of the polled interrupts, in ns. DEDUCED, log entry 74. -/
def Dev.irqPeriod (d : Dev) : Nat := 100 * (d.f HBR_IRQ_POLL 15 0 + 1)

/-- One sample of the sixteen inputs, when one is due; the samples keep their grid. DEDUCED, log entry 74. -/
def Dev.irqSample (d : Dev) (level : BitVec 16) : Dev :=
  if !d.hostUp || d.tb.now < d.hbr.irqAt + d.irqPeriod then d
  else
    let prev := d.hbr.irqPrev
    let d := d.each (List.range 16) (fun d n =>
      let c := d.r (HBR_IRQ_CFG n)
      if irqMatch c (prev.getLsbD n) (level.getLsbD n) then
        (d.w (HBR_IRQ_ST n) d.tb.st).ringBit (.hbell (fld c 4 4)) (fld c 9 5)
      else d)
    d.setHbr (fun b => { b with irqPrev := level, irqAt := d.tb.now - (d.tb.now - b.irqAt) % d.irqPeriod })

/-! ### Transmit rings (R484) -/

/-- Ring `r` has a frame to send. -/
def Dev.txWork (d : Dev) (r : Nat) : Bool := d.b (HBR_RING_CFG r) 5 && d.f (HBR_RING_HEAD r) 11 0 != d.f (HBR_RING_TAIL r) 11 0

/-- A descriptor has four words, and a frame in host memory the length that its descriptor gives. -/
def txShape (desc : List Word) (frame : List Byte) : Bool :=
  desc.length == 4 && frame.length == fld (desc.getD 2 0) 13 0

/-- The next frame of ring `r` enters PH ingress; the descriptor and, with location 0, the frame come from host memory. `ring`
and `buf` are what the reads of the descriptor and of the frame in external memory find: with a poisoned descriptor no frame is
injected and its write-back is discarded (R254, R271); a poisoned frame is not injected, and its status is a free value.
DESIGN CHOICE, log entry 9; DEDUCED, log entry 74; DESIGN CHOICE, log entry 91. -/
def Dev.txServe (d : Dev) (r : Nat) (desc : List Word) (frame : List Byte) (ring buf : ExtRead) : Dev :=
  if !d.hostUp || !(d.txWork r) || (List.range (r - 4)).any (fun i => d.txWork (4 + i)) then d
  else
    let cfg := d.r (HBR_RING_CFG r)
    let head := d.f (HBR_RING_HEAD r) 11 0
    let at_ := (d.r (HBR_RING_BASE_LO r)).toNat + 2 ^ 32 * (d.r (HBR_RING_BASE_HI r)).toNat + 16 * head
    let ext := bitOf cfg 4
    let desc := if ext then (List.range 4).map (fun i => d.mword (keyExt + at_ + 4 * i)) else desc
    let w2 := desc.getD 2 0
    let n := fld w2 13 0
    let src := (desc.getD 0 0).toNat + 2 ^ 32 * (desc.getD 1 0).toNat
    let bytes := if ext then d.mrd (keyExt + src) n else frame
    let (d, dead) := if ext then d.extEcc (keyExt + at_) 3 ring.ecc ring.retry else (d, false)
    let (d, torn) := if ext && !dead && n + 4 ≤ 9216 then
        (let (d, p) := d.extEcc (keyExt + src) 3 buf.ecc buf.retry; (d, p || d.spanRetired (keyExt + src) n))
      else (d, false)
    let (status, d) : Nat × Dev :=
      if dead then (0, d)
      else if torn then (let (v, d) := d.free; (v.toNat % 16, d))
      else if 9216 < n + 4 then (1, d)
      else
        let (seq, d) := d.nextIn 21
        let (f, d) := d.innerFrame 21 (fld w2 18 16) seq bytes
        let (refused, d) := (d.sample 21 false f).lookup 21 f false []
        if refused then (2, d) else (0, d.cnt (HBR_CNT 3))
    let back := leBytes 4 (setFld w2 23 20 status).toNat ++ leBytes 4 d.tb.st.toNat
    let d := if dead then d else if ext then d.extPut (keyExt + at_ + 8) back else d.emit (.dma (at_ + 8) back)
    (d.wf (HBR_RING_HEAD r) 11 0 ((head + 1) % 2 ^ fld cfg 3 0)).ringBit .hbr (2 + r)

/-! ### PCIE_PERST_N (R520) -/

/-- The link resets: the pending flag is cleared, and a read that the bridge has under way has no one to answer; posted writes
stand. DESIGN CHOICE, log entry 39. -/
def Dev.perst (d : Dev) : Dev :=
  (d.wb HBR_STAT 0 false).setHbr (fun b =>
    { b with ob := match b.ob with | some o => (if o.write then some o else none) | none => none })

end Sys2Proof.Machine
end

