-- ==== Sys2Proof/Machine/Fbr.lean ====
section
/-!
DEFINITION. The frame bridge's output (R485-R490).
-/
namespace Sys2Proof.Machine

/-- A byte run of an output, at its offset. -/
abbrev Layer := Nat × List Byte

/-- Byte `i` of an output: the last layer that covers it (R487). -/
def layerAt (l : List Layer) (i : Nat) : Option Byte :=
  match l.reverse.find? (fun x => x.1 ≤ i && i < x.1 + x.2.length) with
  | some x => some (byteAt x.2 (i - x.1))
  | none => none

/-- The largest end that a layer reaches; an empty one reaches nothing (R15). -/
def layerEnd (l : List Layer) : Nat :=
  l.foldl (fun n x => if x.2.isEmpty then n else Nat.max n (x.1 + x.2.length)) 0

/-- The bytes of an output of `n` bytes: what no layer covers is not stated, so those bytes are free values.
DEDUCED, log entry 77. -/
def Dev.layerBytes (d : Dev) (l : List Layer) (n : Nat) : List Byte × Dev :=
  if (List.range n).all (fun i => (layerAt l i).isSome) then ((List.range n).map (fun i => (layerAt l i).getD 0), d)
  else
    let (fill, d) := d.freeBytes n
    ((List.range n).map (fun i => (layerAt l i).getD (byteAt fill i)), d)

/-- A template word as the bridge reads it: a write in this tick comes after the read (R490). -/
def Dev.tmplWord (d : Dev) (j : Nat) : Nat :=
  match tfind d.hbr.tmplOld j with
  | some (t, v) => if t = d.tb.now then v else (d.r (FBR_TMPL j)).toNat
  | none => (d.r (FBR_TMPL j)).toNat

/-- A byte of the template memory. -/
def Dev.tmplByte (d : Dev) (j : Nat) : Byte := byteAt (leBytes 4 (d.tmplWord (j / 4))) (j % 4)

/-- The layers of route `i` over a source, in the order of R487; an identifier has a layer only in an Ethernet output. Bytes
of an Ethernet source that lie behind its end are free values. DEDUCED, log entry 77. -/
def Dev.routeLayers (d : Dev) (i : Nat) (s : FbrSource) : List Layer × Dev :=
  let w := fun k => d.r (FBR_ROUTE i k)
  let w4 := w 4
  let w5 := w 5
  let eth := fld (w 2) 1 0 != 1
  let tmpl := (List.range (fld w4 23 16)).map (fun j => d.tmplByte (fld w4 13 0 + j))
  let take := (s.payload.drop (fld w5 7 0)).take (fld w5 15 8)
  let short := fld w5 15 8 - take.length
  let (rest, d) := if short = 0 then ([], d) else if s.mdb then (List.replicate short 0, d) else d.freeBytes short
  let ident := if bitOf w5 24 && eth then [(fld w4 31 24, beBytes 2 (fld (w 3) 15 0))] else []
  let seq := if bitOf w5 25 then [(fld (w 6) 7 0, beBytes 2 (fld (w 6) 31 16))] else []
  ([(0, tmpl), (fld w5 23 16, take ++ rest)] ++ ident ++ seq, d)

/-- The data lengths that a CAN frame may have, and the code of the least that holds `n` bytes (R400). -/
def canLens : List Nat := [0, 1, 2, 3, 4, 5, 6, 7, 8, 12, 16, 20, 24, 32, 48, 64]
def dlcFor (n : Nat) : Nat := canLens.countP (fun l => l < n)

/-- An output that its destination cannot take is counted; one that it takes is counted as routed. -/
def Dev.fbrDone (ok : Bool) (d : Dev) : Dev := d.fbrCnt (if ok then 0 else 5)

/-- An MDB output of `n` bytes, padded, is delivered into the route's buffer as a give is (R403, R488).
DEDUCED, log entry 77. -/
def Dev.fbrCan (d : Dev) (i : Nat) (l : List Layer) (n : Nat) : Dev :=
  let w2 := d.r (FBR_ROUTE i 2)
  let w3 := d.r (FBR_ROUTE i 3)
  let fd := bitOf w3 30
  if (if fd then 64 else 8) < n then d.fbrCnt 4
  else
    let (b, d) := d.layerBytes l n
    let dlc := dlcFor n
    let data := b ++ List.replicate (64 - n) 0
    let (id, d) := if d.b (FBR_ROUTE i 5) 24 then (w32 (fld w3 28 0), d) else d.free
    let id := if bitOf w3 29 then id &&& 0x1FFFFFFF else if d.b (FBR_ROUTE i 5) 24 then id else id &&& 0x1FFC0000
    let w0 := w32 (id.toNat + 2 ^ 29 * b2n (bitOf w3 29))
    let w1 := w32 (dlc + 16 * b2n fd + 32 * b2n (bitOf w3 31))
    let can := fld w2 4 2
    let buf := fld w2 11 7
    let cfg := d.r (bufCfg can buf)
    if bitOf cfg 0 || fld cfg 19 18 ≠ 2 || !(d.recOk can w0 w1) then d.fbrDone false
    else (d.canDeliver can buf ([w0, w1] ++ (List.range 16).map (fun k => w32 (leAt data (4 * k) 4)))).fbrDone true

/-- An Ethernet output, without its FCS, goes to a port, to PH or to a channel (R488). -/
def Dev.fbrEth (d : Dev) (i : Nat) (l : List Layer) (n : Nat) : Dev :=
  if n < 14 then d.fbrCnt 4
  else
    let w2 := d.r (FBR_ROUTE i 2)
    let (b, d) := d.layerBytes l n
    let (seq, d) := d.nextIn 22
    let (f, d) := d.innerFrame 22 (fld w2 14 12) seq b
    let (cell, d) := d.allocCell (cellsOf f.bytes.length)
    let (ok, d) : Bool × Dev :=
      match fld w2 1 0 with
      | 0 =>
        if fld w2 6 2 < 20 then
          (let (l, d) := d.expand f [fld w2 6 2]; d.sendCopies cell l)
        else (false, d)
      | 2 => d.sendCopies cell [(21, f)]
      | _ =>
        let sub := fld w2 25 16
        if !(d.openSubs.contains sub) then (false, d)
        else match d.subChan sub 22 with
          | some c => d.peTake sub c f cell 12
          | none => (false, d)
    (d.fbrDone ok).drainIn

/-- The next output takes its 250 ns from the end of the last one, or from now where the bridge has waited longer (R489).
DEDUCED, log entry 77. -/
def Dev.fbrNext (d : Dev) : Nat := if d.tb.now < d.hbr.fbrAt + 254 then d.hbr.fbrAt + 250 else d.tb.now

/-- The bridge builds one output from the oldest source frame, 250 ns from the begin of its work (R487-R490); its route may have
been closed since. DEDUCED, log entry 77. -/
def Dev.fbrBuild (d : Dev) : Dev :=
  if !d.fbrOn || d.tb.now < d.hbr.fbrAt + 250 then d
  else match d.fbr with
    | [] => d
    | s :: t =>
      let d := { d with fbr := t, hbr := { d.hbr with fbrAt := d.fbrNext } }
      let i := s.route
      if !(d.b (FBR_ROUTE i 0) 31) || d.genOf 3 i ≠ s.rgen then d.fbrCnt 3
      else
        let can := d.f (FBR_ROUTE i 2) 1 0 = 1
        let (l, d) := d.routeLayers i s
        let d := if d.b (FBR_ROUTE i 5) 25 then d.incf (FBR_ROUTE i 6) 31 16 1 else d
        if can then d.fbrCan i l (layerEnd l) else d.fbrEth i l (layerEnd l)

end Sys2Proof.Machine
end

