-- ==== Sys2Proof/Machine/Bridge.lean ====
section
/-!
DEFINITION. The meanings of the commands of mailboxes and bridges (17_mailboxes_bridges.md) and of PCIE_PERST_N.
-/
namespace Sys2Proof.Machine

/-- MBX_SEND, as a write of the register by `who`. -/
def execMbxSend (who : Initiator) (m : Fin 256) (val : Word) : State → Host.Outcome State Fault Refusal :=
  lift (fun d => d.access who (MBX_SEND m.val) (fun d => d.mbxSend who m.val val))

/-- MBX_POP, as a write of the register by `who`. -/
def execMbxPop (who : Initiator) (val : Word) : State → Host.Outcome State Fault Refusal :=
  lift (fun d => d.access who MBX_POP (fun d => d.mbxPop val))

/-- HOST_WRITE_ACCEPT. -/
def execHostWriteAccept (w : HostWrite) : State → Host.Outcome State Fault Refusal :=
  lift (fun d => if d.portUp w.port then d.postWrite w else d)

/-- HOST_WRITE_PERFORM: `ob` is what an outbound write meets on the bus, `ecc` and `retry` what a narrow write of memory
reads. -/
def execHostWritePerform (i : HostPort) (ob : ObResult) (ecc retry : Ecc) : State → Host.Outcome State Fault Refusal :=
  lift (fun d => d.performWrite i ob ecc retry)

/-- HOST_READ. -/
def execHostRead (i : HostPort) (space : HostSpace) (addr : Nat) (be : BitVec 4) (ecc retry : Ecc) :
    State → Host.Outcome State Fault Refusal :=
  lift (fun d => d.hostRead i space addr be ecc retry)

/-- FENCE_READ: the read of HBR_FENCE. -/
def execFenceRead (i : HostPort) : State → Host.Outcome State Fault Refusal :=
  lift (fun d => d.hostRead i (match i with | .pcie => .bar0 | .lb => .lbTarget) HBR_FENCE 15#4 .clean .clean)

/-- R477. -/
def execLockedRead (addr : Nat) (ecc retry : Ecc) : State → Host.Outcome State Fault Refusal :=
  lift (fun d => d.lockedRead addr ecc retry)

/-- R477. -/
def execLockDeassert : State → Host.Outcome State Fault Refusal :=
  lift Dev.lockEnd

/-- R477. -/
def execLockHoldTimeout : State → Host.Outcome State Fault Refusal := lift Dev.lockTimeout

/-- SEM_READ: a locked read in the same clock takes the semaphore first (R478). -/
def execSemRead (e : Fin 96) (withLocked : Bool) : State → Host.Outcome State Fault Refusal :=
  lift (fun d => d.accessR (.engine e) HBR_SEM (fun d => if withLocked && d.b HBR_CTRL 2 then (0, d) else d.semRead (.engine e)))

/-- R478. -/
def execSemRelease (e : Fin 96) (val : Word) : State → Host.Outcome State Fault Refusal :=
  lift (fun d => d.access (.engine e) HBR_SEM (fun d => d.semWrite (.engine e) val))

/-- R479. -/
def execOutboundAccess (write : Bool) (ofs : Fin 524288) (be : BitVec 4) (val : Word) (tag : BitVec 16) (ob : ObResult) :
    State → Host.Outcome State Fault Refusal :=
  lift (fun d => d.outbound write ofs.val be val tag ob)

/-- R480. -/
def execCrossingRetry (ob : ObResult) : State → Host.Outcome State Fault Refusal := lift (fun d => d.crossRetry ob)
/-- R474. -/
def execLbWriteTimeout : State → Host.Outcome State Fault Refusal := lift Dev.lbTimeout
/-- R481. -/
def execIrqPollSample (level : BitVec 16) : State → Host.Outcome State Fault Refusal := lift (fun d => d.irqSample level)

/-- TX_RING_TAIL_WRITE, for transmit ring 4 + r. -/
def execTxRingTailWrite (who : Initiator) (r : Fin 4) (val : Word) : State → Host.Outcome State Fault Refusal :=
  lift (fun d => d.access who (HBR_RING_TAIL (4 + r.val)) (fun d => d.wf (HBR_RING_TAIL (4 + r.val)) 11 0 (fld val 11 0)))

/-- TX_DESCRIPTOR_SERVE, for transmit ring 4 + r. -/
def execTxDescriptorServe (r : Fin 4) (desc : List Word) (frame : List Byte) (ring buf : ExtRead) :
    State → Host.Outcome State Fault Refusal :=
  liftIf (txShape desc frame) (fun d => d.txServe (4 + r.val) desc frame ring buf)

/-- R489. -/
def execFbrBuild : State → Host.Outcome State Fault Refusal := lift Dev.fbrBuild
/-- R520. -/
def execPerstAssert : State → Host.Outcome State Fault Refusal := lift Dev.perst

end Sys2Proof.Machine
end

