-- ==== Sys2Proof/Machine/Far.lean ====
section
/-!
DEFINITION. The completion of an engine's far accesses (R144, R145, R198, R202, R254): loads, atomics and the copies of gives
return, and posted stores are performed, in program order toward each region.
-/
namespace Sys2Proof.Machine

/-- The codeword that engine `e` reads for a far access: whether the reader gets poison. DEDUCED, log entry 23. -/
def Dev.farEcc (d : Dev) (e : Nat) (f : FarOp) (ecc retry : Ecc) : Dev × Bool :=
  match f.region with
  | .dev => (d, false)
  | .ext => d.extEcc f.addr 3 ecc retry
  | .bank =>
    let port := match bankOfKey f.addr with | some b => bankPort b e | none => 0
    let dead := d.keyRetired f.addr
    (if dead then d else d.readEcc f.addr port ecc, dead || ecc == .uncorr)

/-- The bytes that a give names have been read (R202): the output has them; an uncorrectable codeword, or an MDB record that
R401 refuses, makes its input late. DEDUCED, log entry 47. -/
def Dev.copyReturn (d : Dev) (e id : Nat) (f : FarOp) (poison : Bool) : Dev :=
  match (d.eng e).outq.find? (fun o => o.id == id) with
  | none => d
  | some o =>
    let b := d.mrd f.addr f.size
    let refused := fld o.desc 3 0 == 3 && !(d.recOk (fld o.desc 6 4) (w32 (leAt b 0 4)) (w32 (leAt b 4 4)))
    if poison || refused then
      let gone := d.setEng e (fun x => { x with outq := x.outq.filter (fun (p : Out) => p.id != id) })
      if (d.act o.key).inId = o.inId then gone.lateInput o.key else gone
    else d.setEng e (fun x =>
      { x with outq := x.outq.map (fun (p : Out) => if p.id == id then { p with data := b } else p) })

/-- The oldest access of engine `e` to region `r` returns, if it is a load, an atomic or a copy; a copy from external memory
waits for every engine's loads (R273).
DEDUCED, log entry 23. -/
def Dev.farReturn (d : Dev) (e : Nat) (r : Region) (ecc retry : Ecc) : Dev :=
  match d.farHead e r with
  | none => d
  | some f =>
    if f.store || f.ord || (r == .ext && f.copy.isSome && d.extWaits true) then d
    else
      let old := leVal (d.mrd f.addr f.size)
      let d := d.farPop e r
      let (v, poison, d) : Nat × Bool × Dev :=
        match f.arrived with
        | some (v, p) => (v.toNat, p, d)
        | none =>
          if r = .dev then
            let (v, d) := d.regRead (if h : e < 96 then .engine ⟨e, h⟩ else .internal) f.addr
            (v.toNat, false, d)
          else
            let (d, p) := d.farEcc e f ecc retry
            let d := match f.atomic with
              | some op => if p then d else d.mwr f.addr (leBytes f.size (atomicRes op f.size old f.value.toNat))
              | none => d
            (old, p, d)
      let d :=
        if (d.act f.key).eng ≠ e then d
        else match f.copy with
          | some id => d.copyReturn e id f poison
          | none => d.farDeliver f (BitVec.ofNat 64 v) poison
      d.ordEnter

/-- The oldest access of engine `e` to region `r` is performed, if it is a store; in external memory it waits for every engine's
loads (R273). A store to memory reads the codeword first: an
uncorrectable one is left as it is (R254, R271). DEDUCED, log entry 23. -/
def Dev.farPerform (d : Dev) (e : Nat) (r : Region) (ecc retry : Ecc) : Dev :=
  match d.farHead e r with
  | none => d
  | some f =>
    if !f.store || (r == .ext && d.extWaits true) then d
    else
      let d := d.farPop e r
      let d :=
        if r = .dev then d.regWrite (if h : e < 96 then .engine ⟨e, h⟩ else .internal) f.addr (w32 f.value.toNat) 0
        else
          let (d, poison) := d.farEcc e f ecc retry
          if poison then d else d.farStore f
      d.ordEnter

/-- FAR_LOAD_RETURN: `ecc` and `retry` are what the read of the codeword, and of its repetition, find. -/
def execFarLoadReturn (e : Fin 96) (r : Region) (ecc retry : Ecc) : State → Host.Outcome State Fault Refusal :=
  lift (fun d => d.farReturn e.val r ecc retry)

/-- FAR_STORE_PERFORM. -/
def execFarStorePerform (e : Fin 96) (r : Region) (ecc retry : Ecc) : State → Host.Outcome State Fault Refusal :=
  lift (fun d => d.farPerform e.val r ecc retry)

end Sys2Proof.Machine
end

