-- ==== Sys2Proof/Machine/ScanCmd.lean ====
section
/-!
DEFINITION. The meanings of the scan unit's commands (spec/16_scan_bay_logic.md), with what its reads of the task memory find
(R261).
-/
namespace Sys2Proof.Machine

/-- The scan unit has read window `w` of the error task (R261): what the check found. -/
def Dev.scanEcc (d : Dev) (w : Nat) (ecc : Ecc) : Dev :=
  match d.scnWin w 0 with
  | some k => d.readEcc k 5 ecc
  | none => d

/-- SCAN_LATCH: where a cycle begins, the staging halves are read. -/
def Dev.scanLatchRow (d : Dev) (ecc : Ecc) : Dev :=
  let x := d.scanLatch
  if x.scn.cycle = d.scn.cycle then x else x.scanEcc 2 ecc

/-- SCAN_COMMIT: where the cycle commits, the output image is read. -/
def Dev.scanCommitRow (d : Dev) (ecc : Ecc) : Dev :=
  let x := d.scanCommit
  if d.scn.phase = .judged && x.scn.phase ≠ .judged && d.scn.commits then x.scanEcc 1 ecc else x

/-! ### Meanings -/

/-- R458. -/
def execScanRun (who : Initiator) (val : Word) : State → Host.Outcome State Fault Refusal :=
  lift (fun d => d.access who SCN_CTRL (fun d => d.scnCtrl (val ||| 1)))
/-- R458. -/
def execScanStop (who : Initiator) (val : Word) : State → Host.Outcome State Fault Refusal :=
  lift (fun d => d.access who SCN_CTRL (fun d => d.scnCtrl (val ||| 2)))
/-- R458, R459. -/
def execScanHold (who : Initiator) (val : Word) : State → Host.Outcome State Fault Refusal :=
  lift (fun d => d.access who SCN_CTRL (fun d => d.scnCtrl (val ||| 4)))
/-- R458. -/
def execScanRelease (who : Initiator) (val : Word) : State → Host.Outcome State Fault Refusal :=
  lift (fun d => d.access who SCN_CTRL (fun d => d.scnCtrl (val ||| 8)))
/-- R461. -/
def execScanChange (who : Initiator) (val : Word) : State → Host.Outcome State Fault Refusal :=
  lift (fun d => d.access who SCN_CTRL (fun d => d.scnCtrl (val ||| 64)))
/-- R445. -/
def execScanLatch (ecc : Ecc) : State → Host.Outcome State Fault Refusal := lift (fun d => d.scanLatchRow ecc)
/-- R445. -/
def execScanCopyDone : State → Host.Outcome State Fault Refusal := lift Dev.scanCopyDone
/-- R447. -/
def execScanSealJudge : State → Host.Outcome State Fault Refusal := lift Dev.scanSealJudge
/-- R447. -/
def execScanCommit (ecc : Ecc) : State → Host.Outcome State Fault Refusal := lift (fun d => d.scanCommitRow ecc)
/-- R445. -/
def execScanOutputDone : State → Host.Outcome State Fault Refusal := lift Dev.scanOutputDone
/-- R453. -/
def execStationPublish (who : Initiator) (s : Fin 64) (val : Word) : State → Host.Outcome State Fault Refusal :=
  lift (fun d => d.access who (SCN_STN_PUB s.val) (fun d => d.stnPub s.val val))
/-- R449. -/
def execRetainedWrite (who : Initiator) (i : Fin 65536) (val : Word) : State → Host.Outcome State Fault Refusal :=
  lift (fun d => d.access who (SCN_RET i.val) (fun d => d.retWrite who i.val val))

end Sys2Proof.Machine
end

