-- ==== Sys2Proof/Machine/Tap.lean ====
section
/-!
DEFINITION. The boundary-scan TAP (R529, R530).
-/
namespace Sys2Proof.Machine

/-- The identification code (R529): version 1, part 0x9600, manufacturer 0x51E. -/
def idCode : Word := 0x19600A3D

/-- An instruction is loaded, and acts as R530 lets it; where the bypass register is selected it is captured as 0, and the pads
follow. DESIGN CHOICE, log entry 78. -/
def Dev.tapSet (d : Dev) (i : TapInstr) : Dev :=
  let t : Dev := { d with tap := { d.tap with ir := i, bypass := false } }
  (t.emit (.tapOut t.tapActs)).pinsSeen d

/-- EXTEST: the boundary register drives the pads. -/
def execExtest : State → Host.Outcome State Fault Refusal := lift (fun d => d.tapSet .extest)
/-- CLAMP: the boundary register holds the pads, and the bypass register is selected. -/
def execClamp : State → Host.Outcome State Fault Refusal := lift (fun d => d.tapSet .clamp)
/-- HIGHZ: every output is high-impedance, and the bypass register is selected. -/
def execHighz : State → Host.Outcome State Fault Refusal := lift (fun d => d.tapSet .highz)
/-- BYPASS. -/
def execBypass : State → Host.Outcome State Fault Refusal := lift (fun d => d.tapSet .bypass)
/-- IDCODE: the identification code is selected and shifted out. -/
def execIdcode : State → Host.Outcome State Fault Refusal := lift (fun d => (d.tapSet .idcode).emit (.tapId idCode))
/-- SAMPLE/PRELOAD: the pads are captured, and the boundary register takes what is shifted in. -/
def execSamplePreload (pads shiftIn : BitVec 912) : State → Host.Outcome State Fault Refusal :=
  lift (fun d => { d.tapSet .sample with tap := { (d.tapSet .sample).tap with sampled := pads, boundary := shiftIn } })

end Sys2Proof.Machine
end

