-- ==== Sys2Proof/Machine/Dispatch.lean ====
section
/-! DEFINITION. Which meaning each command has: one arm per row of the opcode table. -/
namespace Sys2Proof.Machine
def exec (i : Instr) (s : State) : Host.Outcome State Fault Refusal :=
  match i with
  | .registerWrite who addr be val hwSet => Sys2Proof.Machine.execRegisterWrite who addr be val hwSet s
  | .porAssert => Sys2Proof.Machine.execPorAssert s
  | .porRelease straps pgMain => Sys2Proof.Machine.execPorRelease straps pgMain s
  | .aonSupplyLow core io ns => Sys2Proof.Machine.execAonSupplyLow core io ns s
  | .aonSupplyRecover core io => Sys2Proof.Machine.execAonSupplyRecover core io s
  | .warmPin seen => Sys2Proof.Machine.execWarmPin seen s
  | .warmResetCmd who val => Sys2Proof.Machine.execWarmResetCmd who val s
  | .modeRequest who val withHost => Sys2Proof.Machine.execModeRequest who val withHost s
  | .runStopDrained => Sys2Proof.Machine.execRunStopDrained s
  | .bootRomComplete b ddrOk => Sys2Proof.Machine.execBootRomComplete b ddrOk s
  | .pgMainFall => Sys2Proof.Machine.execPgMainFall s
  | .pgMainRise => Sys2Proof.Machine.execPgMainRise s
  | .pgMainTimeout => Sys2Proof.Machine.execPgMainTimeout s
  | .pwrEnRetry => Sys2Proof.Machine.execPwrEnRetry s
  | .wakePinHigh => Sys2Proof.Machine.execWakePinHigh s
  | .lswDebounced ix level seen => Sys2Proof.Machine.execLswDebounced ix level seen s
  | .cmpDebounced c mv seen => Sys2Proof.Machine.execCmpDebounced c mv seen s
  | .sleepPartyAgree p => Sys2Proof.Machine.execSleepPartyAgree p s
  | .sleepAgreeTimeout => Sys2Proof.Machine.execSleepAgreeTimeout s
  | .holdoverEntry => Sys2Proof.Machine.execHoldoverEntry s
  | .pendingWakeAct => Sys2Proof.Machine.execPendingWakeAct s
  | .pfwAssert mv seen => Sys2Proof.Machine.execPfwAssert mv seen s
  | .retainedFlushComplete ecc => Sys2Proof.Machine.execRetainedFlushComplete ecc s
  | .pfwRecover mv ms => Sys2Proof.Machine.execPfwRecover mv ms s
  | .falseWakeCheck n => Sys2Proof.Machine.execFalseWakeCheck n s
  | .shortTimeWrap => Sys2Proof.Machine.execShortTimeWrap s
  | .taiSecond => Sys2Proof.Machine.execTaiSecond s
  | .tbStRead who => Sys2Proof.Machine.execTbStRead who s
  | .taiRead who => Sys2Proof.Machine.execTaiRead who s
  | .anchorRead who => Sys2Proof.Machine.execAnchorRead who s
  | .servoCommit who val withSet withForce => Sys2Proof.Machine.execServoCommit who val withSet withForce s
  | .jumpForce who val => Sys2Proof.Machine.execJumpForce who val s
  | .taiSet who val => Sys2Proof.Machine.execTaiSet who val s
  | .servoLoss => Sys2Proof.Machine.execServoLoss s
  | .ppsInEdge rising back withSet withForce => Sys2Proof.Machine.execPpsInEdge rising back withSet withForce s
  | .refSelect who val => Sys2Proof.Machine.execRefSelect who val s
  | .tbPllRelock => Sys2Proof.Machine.execTbPllRelock s
  | .tbRefLost => Sys2Proof.Machine.execTbRefLost s
  | .pdelayResponse p back => Sys2Proof.Machine.execPdelayResponse p back s
  | .tsqPop who p => Sys2Proof.Machine.execTsqPop who p s
  | .treadleCarry n => Sys2Proof.Machine.execTreadleCarry n s
  | .stepPulseDelayed n => Sys2Proof.Machine.execStepPulseDelayed n s
  | .strobe n => Sys2Proof.Machine.execStrobe n s
  | .shtGroupTrigger g n => Sys2Proof.Machine.execShtGroupTrigger g n s
  | .incApply who n hi => Sys2Proof.Machine.execIncApply who n hi s
  | .incRead who n => Sys2Proof.Machine.execIncRead who n s
  | .accRead who n => Sys2Proof.Machine.execAccRead who n s
  | .treadleModeWrite who n val => Sys2Proof.Machine.execTreadleModeWrite who n val s
  | .zcCrossing n back => Sys2Proof.Machine.execZcCrossing n back s
  | .phaseAdjust who n adj => Sys2Proof.Machine.execPhaseAdjust who n adj s
  | .waveCompareReached n ix => Sys2Proof.Machine.execWaveCompareReached n ix s
  | .eventCommit t => Sys2Proof.Machine.execEventCommit t s
  | .waveSlipFire t => Sys2Proof.Machine.execWaveSlipFire t s
  | .rampPeriod n => Sys2Proof.Machine.execRampPeriod n s
  | .rampGo who n => Sys2Proof.Machine.execRampGo who n s
  | .rampStop who n => Sys2Proof.Machine.execRampStop who n s
  | .groupGo who g val => Sys2Proof.Machine.execGroupGo who g val s
  | .patternEntryFire t => Sys2Proof.Machine.execPatternEntryFire t s
  | .camFollowStep t => Sys2Proof.Machine.execCamFollowStep t s
  | .latchArm who l val => Sys2Proof.Machine.execLatchArm who l val s
  | .latchCapture l rising back => Sys2Proof.Machine.execLatchCapture l rising back s
  | .latchRearm who l => Sys2Proof.Machine.execLatchRearm who l s
  | .treadleStart who val => Sys2Proof.Machine.execTreadleStart who val s
  | .treadleStop who val => Sys2Proof.Machine.execTreadleStop who val s
  | .treadleStartAt => Sys2Proof.Machine.execTreadleStartAt s
  | .nop e m => Sys2Proof.Machine.execNop e m s
  | .ret e m => Sys2Proof.Machine.execRet e m s
  | .fence e m => Sys2Proof.Machine.execFence e m s
  | .rdc e m => Sys2Proof.Machine.execRdc e m s
  | .wrc e m => Sys2Proof.Machine.execWrc e m s
  | .mov e m => Sys2Proof.Machine.execMov e m s
  | .wra e m => Sys2Proof.Machine.execWra e m s
  | .rda e m => Sys2Proof.Machine.execRda e m s
  | .push e m => Sys2Proof.Machine.execPush e m s
  | .pop e m => Sys2Proof.Machine.execPop e m s
  | .ld e m => Sys2Proof.Machine.execLd e m s
  | .lds e m => Sys2Proof.Machine.execLds e m s
  | .st e m => Sys2Proof.Machine.execSt e m s
  | .sti e m => Sys2Proof.Machine.execSti e m s
  | .lda e m => Sys2Proof.Machine.execLda e m s
  | .add e m => Sys2Proof.Machine.execAdd e m s
  | .sub e m => Sys2Proof.Machine.execSub e m s
  | .adc e m => Sys2Proof.Machine.execAdc e m s
  | .sbc e m => Sys2Proof.Machine.execSbc e m s
  | .and_ e m => Sys2Proof.Machine.execAnd e m s
  | .or_ e m => Sys2Proof.Machine.execOr e m s
  | .xor_ e m => Sys2Proof.Machine.execXor e m s
  | .cmp e m => Sys2Proof.Machine.execCmp e m s
  | .tst e m => Sys2Proof.Machine.execTst e m s
  | .neg e m => Sys2Proof.Machine.execNeg e m s
  | .not_ e m => Sys2Proof.Machine.execNot e m s
  | .mul e m => Sys2Proof.Machine.execMul e m s
  | .mulh e m => Sys2Proof.Machine.execMulh e m s
  | .mulhu e m => Sys2Proof.Machine.execMulhu e m s
  | .min e m => Sys2Proof.Machine.execMin e m s
  | .max e m => Sys2Proof.Machine.execMax e m s
  | .shl e m => Sys2Proof.Machine.execShl e m s
  | .shr e m => Sys2Proof.Machine.execShr e m s
  | .sar e m => Sys2Proof.Machine.execSar e m s
  | .rol e m => Sys2Proof.Machine.execRol e m s
  | .ror e m => Sys2Proof.Machine.execRor e m s
  | .clz e m => Sys2Proof.Machine.execClz e m s
  | .popc e m => Sys2Proof.Machine.execPopc e m s
  | .bswap e m => Sys2Proof.Machine.execBswap e m s
  | .bfx e m => Sys2Proof.Machine.execBfx e m s
  | .bfxs e m => Sys2Proof.Machine.execBfxs e m s
  | .bfi e m => Sys2Proof.Machine.execBfi e m s
  | .bfc e m => Sys2Proof.Machine.execBfc e m s
  | .bfs e m => Sys2Proof.Machine.execBfs e m s
  | .btst e m => Sys2Proof.Machine.execBtst e m s
  | .bset e m => Sys2Proof.Machine.execBset e m s
  | .bclr e m => Sys2Proof.Machine.execBclr e m s
  | .bCond e m => Sys2Proof.Machine.execBCond e m s
  | .bLate e m => Sys2Proof.Machine.execBLate e m s
  | .bOntime e m => Sys2Proof.Machine.execBOntime e m s
  | .bTc e m => Sys2Proof.Machine.execBTc e m s
  | .call e m => Sys2Proof.Machine.execCall e m s
  | .callR e m => Sys2Proof.Machine.execCallR e m s
  | .jmpR e m => Sys2Proof.Machine.execJmpR e m s
  | .dbnz e m => Sys2Proof.Machine.execDbnz e m s
  | .mac e m => Sys2Proof.Machine.execMac e m s
  | .msu e m => Sys2Proof.Machine.execMsu e m s
  | .macR e m => Sys2Proof.Machine.execMacR e m s
  | .msuR e m => Sys2Proof.Machine.execMsuR e m s
  | .clra e m => Sys2Proof.Machine.execClra e m s
  | .ashr e m => Sys2Proof.Machine.execAshr e m s
  | .mvfa e m => Sys2Proof.Machine.execMvfa e m s
  | .mvta e m => Sys2Proof.Machine.execMvta e m s
  | .crcB e m => Sys2Proof.Machine.execCrcB e m s
  | .crcH e m => Sys2Proof.Machine.execCrcH e m s
  | .crcW e m => Sys2Proof.Machine.execCrcW e m s
  | .crcM e m => Sys2Proof.Machine.execCrcM e m s
  | .aadd e m => Sys2Proof.Machine.execAadd e m s
  | .aswap e m => Sys2Proof.Machine.execAswap e m s
  | .take e m => Sys2Proof.Machine.execTake e m s
  | .give e m => Sys2Proof.Machine.execGive e m s
  | .wait e m => Sys2Proof.Machine.execWait e m s
  | .stamp e m => Sys2Proof.Machine.execStamp e m s
  | .bell e m => Sys2Proof.Machine.execBell e m s
  | .atTargetReached c => Sys2Proof.Machine.execAtTargetReached c s
  | .farLoadReturn e r ecc retry => Sys2Proof.Machine.execFarLoadReturn e r ecc retry s
  | .farStorePerform e r ecc retry => Sys2Proof.Machine.execFarStorePerform e r ecc retry s
  | .bankAccess b a p => Sys2Proof.Machine.execBankAccess b a p s
  | .writeBack b row intervened => Sys2Proof.Machine.execWriteBack b row intervened s
  | .ordHoldEnd b ecc => Sys2Proof.Machine.execOrdHoldEnd b ecc s
  | .strikeDecay => Sys2Proof.Machine.execStrikeDecay s
  | .scrubRow b ecc => Sys2Proof.Machine.execScrubRow b ecc s
  | .xmcScrub ecc retry => Sys2Proof.Machine.execXmcScrub ecc retry s
  | .ddrRefresh => Sys2Proof.Machine.execDdrRefresh s
  | .memDisagree r => Sys2Proof.Machine.execMemDisagree r s
  | .eventPost ev => Sys2Proof.Machine.execEventPost ev s
  | .eventVisible e => Sys2Proof.Machine.execEventVisible e s
  | .dispatch e save restore => Sys2Proof.Machine.execDispatch e save restore s
  | .budgetExhausted e => Sys2Proof.Machine.execBudgetExhausted e s
  | .sealDeadline c => Sys2Proof.Machine.execSealDeadline c s
  | .outputRelease e ecc => Sys2Proof.Machine.execOutputRelease e ecc s
  | .engineEnable who e val => Sys2Proof.Machine.execEngineEnable who e val s
  | .engineHaltRequest who e val => Sys2Proof.Machine.execEngineHaltRequest who e val s
  | .engineReset who e val => Sys2Proof.Machine.execEngineReset who e val s
  | .engineStopPoint e => Sys2Proof.Machine.execEngineStopPoint e s
  | .debugStep who e val m => Sys2Proof.Machine.execDebugStep who e val m s
  | .breakpointHit e => Sys2Proof.Machine.execBreakpointHit e s
  | .debugDataAccess who e write val => Sys2Proof.Machine.execDebugDataAccess who e write val s
  | .hostLocalMemWrite ix addr be val => Sys2Proof.Machine.execHostLocalMemWrite ix addr be val s
  | .create k who => Sys2Proof.Machine.execCreate k who s
  | .start k who => Sys2Proof.Machine.execStart k who s
  | .stop k who => Sys2Proof.Machine.execStop k who s
  | .destroy k who => Sys2Proof.Machine.execDestroy k who s
  | .query k who => Sys2Proof.Machine.execQuery k who s
  | .migrate k who => Sys2Proof.Machine.execMigrate k who s
  | .checkpoint k who => Sys2Proof.Machine.execCheckpoint k who s
  | .openMailbox k who => Sys2Proof.Machine.execOpenMailbox k who s
  | .openRoute k who => Sys2Proof.Machine.execOpenRoute k who s
  | .openPattern k who => Sys2Proof.Machine.execOpenPattern k who s
  | .openStreamReservation k who => Sys2Proof.Machine.execOpenStreamReservation k who s
  | .close k who => Sys2Proof.Machine.execClose k who s
  | .unknownCutterCmd k who code => Sys2Proof.Machine.execUnknownCutterCmd k who code s
  | .periodBoundary c => Sys2Proof.Machine.execPeriodBoundary c s
  | .channelStopComplete c => Sys2Proof.Machine.execChannelStopComplete c s
  | .checkpointEpoch c => Sys2Proof.Machine.execCheckpointEpoch c s
  | .recoveryComplete c => Sys2Proof.Machine.execRecoveryComplete c s
  | .tableCompare ecc => Sys2Proof.Machine.execTableCompare ecc s
  | .resync who => Sys2Proof.Machine.execResync who s
  | .frameReceive p f => Sys2Proof.Machine.execFrameReceive p f s
  | .cutThroughStart p hdr back => Sys2Proof.Machine.execCutThroughStart p hdr back s
  | .pauseHoldExpire p q => Sys2Proof.Machine.execPauseHoldExpire p q s
  | .pauseWatchdog p q => Sys2Proof.Machine.execPauseWatchdog p q s
  | .pauseIgnoreEnd p q => Sys2Proof.Machine.execPauseIgnoreEnd p q s
  | .egressSelect p ecc => Sys2Proof.Machine.execEgressSelect p ecc s
  | .frameTransmitEnd p seen cell => Sys2Proof.Machine.execFrameTransmitEnd p seen cell s
  | .monitorMissing p => Sys2Proof.Machine.execMonitorMissing p s
  | .linkStateChange p l => Sys2Proof.Machine.execLinkStateChange p l s
  | .mdioPoll m p => Sys2Proof.Machine.execMdioPoll m p s
  | .mdioC22Write who m val withHost => Sys2Proof.Machine.execMdioC22Write who m val withHost s
  | .mdioC22Read who m val withHost => Sys2Proof.Machine.execMdioC22Read who m val withHost s
  | .mdioC45Write who m val withHost => Sys2Proof.Machine.execMdioC45Write who m val withHost s
  | .mdioC45Read who m val withHost => Sys2Proof.Machine.execMdioC45Read who m val withHost s
  | .mdioComplete m answer speed => Sys2Proof.Machine.execMdioComplete m answer speed s
  | .tallyClear who p val => Sys2Proof.Machine.execTallyClear who p val s
  | .tallyRead who p ix => Sys2Proof.Machine.execTallyRead who p ix s
  | .fdbLookup who => Sys2Proof.Machine.execFdbLookup who s
  | .fdbInsertStatic who => Sys2Proof.Machine.execFdbInsertStatic who s
  | .fdbDelete who => Sys2Proof.Machine.execFdbDelete who s
  | .fdbFlushDynamic who => Sys2Proof.Machine.execFdbFlushDynamic who s
  | .fdbReadEntry who => Sys2Proof.Machine.execFdbReadEntry who s
  | .fdbAgeOut ix => Sys2Proof.Machine.execFdbAgeOut ix s
  | .gateInstall who p val => Sys2Proof.Machine.execGateInstall who p val s
  | .gateStop who p val => Sys2Proof.Machine.execGateStop who p val s
  | .gateListStart p => Sys2Proof.Machine.execGateListStart p s
  | .gateEntryChange p => Sys2Proof.Machine.execGateEntryChange p s
  | .boltFill p q ecc retry => Sys2Proof.Machine.execBoltFill p q ecc retry s
  | .swcPortDisagree p => Sys2Proof.Machine.execSwcPortDisagree p s
  | .heartbeatSend => Sys2Proof.Machine.execHeartbeatSend s
  | .heartbeatReceive path msg => Sys2Proof.Machine.execHeartbeatReceive path msg s
  | .heartbeatMissCheck => Sys2Proof.Machine.execHeartbeatMissCheck s
  | .takeoverCmd who val => Sys2Proof.Machine.execTakeoverCmd who val s
  | .relinquishCmd who val => Sys2Proof.Machine.execRelinquishCmd who val s
  | .takeoverReplayDone c => Sys2Proof.Machine.execTakeoverReplayDone c s
  | .bookRecordReceive r => Sys2Proof.Machine.execBookRecordReceive r s
  | .redDisagree => Sys2Proof.Machine.execRedDisagree s
  | .ringEnable who val => Sys2Proof.Machine.execRingEnable who val s
  | .ringDisable who val => Sys2Proof.Machine.execRingDisable who val s
  | .roundStart linkDly => Sys2Proof.Machine.execRoundStart linkDly s
  | .slotInsert k => Sys2Proof.Machine.execSlotInsert k s
  | .slotFrameReceive k bytes path => Sys2Proof.Machine.execSlotFrameReceive k bytes path s
  | .listenTimeout => Sys2Proof.Machine.execListenTimeout s
  | .coldstartTimeout => Sys2Proof.Machine.execColdstartTimeout s
  | .timeFrameLoss => Sys2Proof.Machine.execTimeFrameLoss s
  | .ringInputLost => Sys2Proof.Machine.execRingInputLost s
  | .returnLaneFault => Sys2Proof.Machine.execReturnLaneFault s
  | .ringClose who val => Sys2Proof.Machine.execRingClose who val s
  | .closingRound => Sys2Proof.Machine.execClosingRound s
  | .slvDisagree => Sys2Proof.Machine.execSlvDisagree s
  | .canEnable who n val => Sys2Proof.Machine.execCanEnable who n val s
  | .canIntegrationDone n => Sys2Proof.Machine.execCanIntegrationDone n s
  | .canFrameReceive n f => Sys2Proof.Machine.execCanFrameReceive n f s
  | .canTxEnd n b r tdcv => Sys2Proof.Machine.execCanTxEnd n b r tdcv s
  | .canRecoveryDone n => Sys2Proof.Machine.execCanRecoveryDone n s
  | .canPend who n b => Sys2Proof.Machine.execCanPend who n b s
  | .canAbort who n b => Sys2Proof.Machine.execCanAbort who n b s
  | .canRxqPop who n q val => Sys2Proof.Machine.execCanRxqPop who n q val s
  | .receiveBufferRead who n b => Sys2Proof.Machine.execReceiveBufferRead who n b s
  | .ttCycleBoundary n => Sys2Proof.Machine.execTtCycleBoundary n s
  | .ttTrigger n t => Sys2Proof.Machine.execTtTrigger n t s
  | .ttLevelClear who n val => Sys2Proof.Machine.execTtLevelClear who n val s
  | .mdbWakeFrame n f => Sys2Proof.Machine.execMdbWakeFrame n f s
  | .wakeConfirm who n val => Sys2Proof.Machine.execWakeConfirm who n val s
  | .shtBr n pads => Sys2Proof.Machine.execShtBr n pads s
  | .shtLoop n pads => Sys2Proof.Machine.execShtLoop n pads s
  | .shtWait n pads => Sys2Proof.Machine.execShtWait n pads s
  | .shtWaitComplete n pads back => Sys2Proof.Machine.execShtWaitComplete n pads back s
  | .shtGet n pads => Sys2Proof.Machine.execShtGet n pads s
  | .shtPut n pads => Sys2Proof.Machine.execShtPut n pads s
  | .shtPins n pads => Sys2Proof.Machine.execShtPins n pads s
  | .shtLoad n pads => Sys2Proof.Machine.execShtLoad n pads s
  | .shtCopy n pads => Sys2Proof.Machine.execShtCopy n pads s
  | .shtStow n pads => Sys2Proof.Machine.execShtStow n pads s
  | .shtFetch n pads => Sys2Proof.Machine.execShtFetch n pads s
  | .shtBell n pads => Sys2Proof.Machine.execShtBell n pads s
  | .shtStallRetry n pads => Sys2Proof.Machine.execShtStallRetry n pads s
  | .shtUpDrain n => Sys2Proof.Machine.execShtUpDrain n s
  | .shtUpfRead who n => Sys2Proof.Machine.execShtUpfRead who n s
  | .shtDnfWrite who n val => Sys2Proof.Machine.execShtDnfWrite who n val s
  | .shtFlushUp who n => Sys2Proof.Machine.execShtFlushUp who n s
  | .shtFlushDn who n => Sys2Proof.Machine.execShtFlushDn who n s
  | .shtEnable who n val => Sys2Proof.Machine.execShtEnable who n val s
  | .shtGroupStart who g val => Sys2Proof.Machine.execShtGroupStart who g val s
  | .shtGroupStop who g val => Sys2Proof.Machine.execShtGroupStop who g val s
  | .shtInject n pads => Sys2Proof.Machine.execShtInject n pads s
  | .shtLoadGo n => Sys2Proof.Machine.execShtLoadGo n s
  | .padSense ix level => Sys2Proof.Machine.execPadSense ix level s
  | .scanRun who val => Sys2Proof.Machine.execScanRun who val s
  | .scanStop who val => Sys2Proof.Machine.execScanStop who val s
  | .scanHold who val => Sys2Proof.Machine.execScanHold who val s
  | .scanRelease who val => Sys2Proof.Machine.execScanRelease who val s
  | .scanChange who val => Sys2Proof.Machine.execScanChange who val s
  | .scanLatch ecc => Sys2Proof.Machine.execScanLatch ecc s
  | .scanCopyDone => Sys2Proof.Machine.execScanCopyDone s
  | .scanSealJudge => Sys2Proof.Machine.execScanSealJudge s
  | .scanCommit ecc => Sys2Proof.Machine.execScanCommit ecc s
  | .scanOutputDone => Sys2Proof.Machine.execScanOutputDone s
  | .stationPublish who st val => Sys2Proof.Machine.execStationPublish who st val s
  | .retainedWrite who ix val => Sys2Proof.Machine.execRetainedWrite who ix val s
  | .mbxSend who m val => Sys2Proof.Machine.execMbxSend who m val s
  | .mbxPop who val => Sys2Proof.Machine.execMbxPop who val s
  | .hostWriteAccept w => Sys2Proof.Machine.execHostWriteAccept w s
  | .hostWritePerform ix ob ecc retry => Sys2Proof.Machine.execHostWritePerform ix ob ecc retry s
  | .hostRead ix space addr be ecc retry => Sys2Proof.Machine.execHostRead ix space addr be ecc retry s
  | .fenceRead ix => Sys2Proof.Machine.execFenceRead ix s
  | .lockedRead addr ecc retry => Sys2Proof.Machine.execLockedRead addr ecc retry s
  | .lockDeassert => Sys2Proof.Machine.execLockDeassert s
  | .lockHoldTimeout => Sys2Proof.Machine.execLockHoldTimeout s
  | .semRead e withLocked => Sys2Proof.Machine.execSemRead e withLocked s
  | .semRelease e val => Sys2Proof.Machine.execSemRelease e val s
  | .outboundAccess write ofs be val tag ob => Sys2Proof.Machine.execOutboundAccess write ofs be val tag ob s
  | .crossingRetry ob => Sys2Proof.Machine.execCrossingRetry ob s
  | .lbWriteTimeout => Sys2Proof.Machine.execLbWriteTimeout s
  | .irqPollSample level => Sys2Proof.Machine.execIrqPollSample level s
  | .txRingTailWrite who r val => Sys2Proof.Machine.execTxRingTailWrite who r val s
  | .txDescriptorServe r desc frame ring buf => Sys2Proof.Machine.execTxDescriptorServe r desc frame ring buf s
  | .fbrBuild => Sys2Proof.Machine.execFbrBuild s
  | .perstAssert => Sys2Proof.Machine.execPerstAssert s
  | .provision who val withHost => Sys2Proof.Machine.execProvision who val withHost s
  | .field who val withHost miss => Sys2Proof.Machine.execField who val withHost miss s
  | .retire who val withHost miss => Sys2Proof.Machine.execRetire who val withHost miss s
  | .attest who val withHost => Sys2Proof.Machine.execAttest who val withHost s
  | .extend who val withHost => Sys2Proof.Machine.execExtend who val withHost s
  | .rollfwd who val withHost => Sys2Proof.Machine.execRollfwd who val withHost s
  | .otpProg who val withHost miss => Sys2Proof.Machine.execOtpProg who val withHost miss s
  | .dbgChal who val withHost => Sys2Proof.Machine.execDbgChal who val withHost s
  | .dbgUnlock who val withHost => Sys2Proof.Machine.execDbgUnlock who val withHost s
  | .dbgLock who val withHost => Sys2Proof.Machine.execDbgLock who val withHost s
  | .rngRestart who val withHost healthy => Sys2Proof.Machine.execRngRestart who val withHost healthy s
  | .unknownSecCmd who val withHost => Sys2Proof.Machine.execUnknownSecCmd who val withHost s
  | .keyWrite who val => Sys2Proof.Machine.execKeyWrite who val s
  | .keyErase who val => Sys2Proof.Machine.execKeyErase who val s
  | .cipherGo who q val => Sys2Proof.Machine.execCipherGo who q val s
  | .cipherJobDone q ecc => Sys2Proof.Machine.execCipherJobDone q ecc s
  | .rngRead who held => Sys2Proof.Machine.execRngRead who held s
  | .rngHealthFail => Sys2Proof.Machine.execRngHealthFail s
  | .pllLockLoss => Sys2Proof.Machine.execPllLockLoss s
  | .extest => Sys2Proof.Machine.execExtest s
  | .idcode => Sys2Proof.Machine.execIdcode s
  | .samplePreload pads shiftIn => Sys2Proof.Machine.execSamplePreload pads shiftIn s
  | .clamp => Sys2Proof.Machine.execClamp s
  | .highz => Sys2Proof.Machine.execHighz s
  | .bypass => Sys2Proof.Machine.execBypass s
  | .warmNRelease => Sys2Proof.Machine.execWarmNRelease s
  | .automaticMove c => Sys2Proof.Machine.execAutomaticMove c s
  | .failedHopLockHeld laneA => Sys2Proof.Machine.execFailedHopLockHeld laneA s
  | .canBusError n code dataPhase => Sys2Proof.Machine.execCanBusError n code dataPhase s
  | .txWindowMissed n t => Sys2Proof.Machine.execTxWindowMissed n t s
  | .illegalInstruction e m => Sys2Proof.Machine.execIllegalInstruction e m s
  | .shtIllegalInstruction n pads => Sys2Proof.Machine.execShtIllegalInstruction n pads s
end Sys2Proof.Machine
end

