-- ==== Sys2Proof/Machine/Tick.lean ====
section
/-!
DEFINITION. One tick of 4 ns: what the clocks do by themselves (R41, R60, R61, R96), and the commands that then wait because
a counter has wrapped or been crossed. `step` makes a tick when no command waits (notes/assumptions/3.md).
-/
namespace Sys2Proof.Machine

/-- The time base counts: the main rails are good and its PLL is in lock (R61, R95). -/
def Dev.taiRuns (d : Dev) : Bool :=
  d.pwr.pgMain && d.pwr.pwrEn && d.pwr.mode != .holdover && !d.pwr.porLow && !d.pwr.supplyLow && !d.pwr.pllLost &&
    !d.tb.relocking

/-- TAI advances by one tick and the servo's correction; the short time by the same nanoseconds (R60, R61, R73). At a second
boundary that passes while the main domain is held in reset, the holdover counter takes TAI at once (R42, R62). -/
def Dev.tickTime (d : Dev) : Dev :=
  if !d.taiRuns then d
  else
    let t := (4 * 2 ^ 48 + 4 * d.tb.y) + d.tb.frac
    let adv := (t / 2 ^ 48).toNat
    let frac := (t % 2 ^ 48).toNat
    let ns := d.tb.ns + adv
    let full : Bool := decide (1000000000 ≤ ns)
    let st := d.tb.st.toNat + adv
    let live := d.pwr.mainUp
    let d := { d with tb :=
      { d.tb with frac := frac, ns := ns % 1000000000, sec := (d.tb.sec + ns / 1000000000) % 2 ^ 48,
                  out10m := d.b TB_CTRL 1 && decide (ns % 100 < 50),
                  secondDue := d.tb.secondDue || (live && full),
                  st := if live then w32 st else 0,
                  wrapDue := d.tb.wrapDue || (live && decide (2 ^ 32 ≤ st)) } }
    if full && !live && d.b TB_STAT 0 then d.holdLoad else d

/-- PPS_OUT follows the short time while TAI is not valid and pps_free is 1: at each multiple of 10^9 ns, of which the wrap
to 0 is one (R91). -/
def Dev.ppsFree (d before : Dev) : Dev :=
  let a := before.tb.st.toNat
  let b := d.tb.st.toNat
  if d.pwr.mainUp && !(d.b TB_STAT 0) && d.b TB_CTRL 0 && (a / 1000000000 < b / 1000000000 || b < a) then d.ppsOut else d

/-- The holdover counter advances every 100 ns by 100 ns, corrected by the servo's last frequency correction (R41). -/
def Dev.tickHold (d : Dev) : Dev :=
  if d.pwr.porLow || d.pwr.supplyLow || d.tb.now % 100 ≠ 0 then d
  else
    let t := (100 * 2 ^ 48 + 100 * d.tb.y) + d.pwr.holdFrac
    d.setPwr (fun p => { p with holdCnt := (p.holdCnt + (t / 2 ^ 48).toNat) % 2 ^ 64, holdFrac := (t % 2 ^ 48).toNat })

/-- A treadle's accumulator advances (R96), after a phase step that waits (R106); a carry or borrow is left for
TREADLE_CARRY. -/
def Dev.tickTreadle (d : Dev) (n : Nat) : Dev :=
  let d := (d.memberInc n).adjApply n
  let a := ((d.trdl n).acc : Int) + d.rate n
  let d := d.setTrdl n (fun t =>
    { t with acc := tc 48 a, carry := t.carry + (if a < 0 then -1 else if 2 ^ 48 ≤ a then 1 else 0) })
  d.pulseOver n

/-- A group start or stop that waits for SHT_GRP_AT acts at the tick that reaches it (R437). -/
def Dev.tickGroups (d : Dev) : Dev :=
  d.each (tkeys d.pins.grpDue) (fun d g => match tfind d.pins.grpDue g with
    | some _ => if reached d.tb.st (d.r (SHT_GRP_AT g)) then d.shtGroupDue g else d
    | none => d)

/-- What a tick of 4 ns does to the device. DESIGN CHOICE, log entry 3; DESIGN CHOICE, log entry 79. -/
def Dev.tick (d : Dev) : Dev :=
  let before := d
  let d := { d with tb := { d.tb with now := d.tb.now + 4 } }
  let d := (d.tickTime.ppsFree before).tickHold
  if d.pwr.mainUp && d.taiRuns then ((d.each (tkeys d.trd.t) Dev.tickTreadle).each (List.range 8) Dev.tickCam).tickGroups else d

/-- The commands that a tick makes due: a wrap, a TAI second, the carries, the strobes and pattern entries that the wave has
passed, the shuttle groups that a strobe triggers, step pulses that may go, and a start at its target.
DESIGN CHOICE, log entry 3. -/
def Dev.due (d : Dev) : List Instr :=
  let trd := fun (p : Fin 16 → Bool) (c : Fin 16 → Instr) => ((List.finRange 16).filter p).map c
  (if d.tb.wrapDue then [Instr.shortTimeWrap] else []) ++ (if d.tb.secondDue then [.taiSecond] else []) ++
  trd (fun n => (d.trdl n.val).carry != 0) (fun n => .treadleCarry n) ++
  trd (fun n => (d.trdl n.val).stepWait != 0 && (d.trdl n.val).stepFree ≤ d.tb.now) (fun n => .stepPulseDelayed n) ++
  (if d.startReached then [.treadleStartAt] else [])

/-- The commands that the phases then reached make due, after the carries have been counted: the strobes, the pattern entries,
and the shuttle groups that those strobes start in this tick (R113). -/
def Dev.dueAfter (d : Dev) : List Instr :=
  let d := d.each (List.range 16) Dev.carryOp
  let e := d.each (List.range 16) Dev.strobe
  ((List.finRange 16).filter (fun n => d.strobeAhead n.val != 0)).map (fun n => Instr.strobe n) ++
  ((List.finRange 8).filter (fun t => !(d.patPassed t.val).isEmpty)).map (fun t => Instr.patternEntryFire t) ++
  ((List.finRange 4).filterMap (fun g => match tfind e.trd.trigDue g.val with
    | some (n, _) => if h : n < 16 then some (Instr.shtGroupTrigger g ⟨n, h⟩) else none
    | none => none))

/-- A tick of the whole block: the clocks, and the commands that wait after it. DESIGN CHOICE, log entry 3. -/
def State.tick (s : State) : State :=
  let d := s.dev.tick
  { pending := s.pending ++ d.due ++ d.dueAfter, dev := d }

end Sys2Proof.Machine
end

