-- ==== Sys2Proof/Machine/Step.lean ====
section
/-!
DEFINITION. One step of the block: the command at the front of the queue, or, when none waits, a tick of 4 ns.
-/
namespace Sys2Proof.Machine

/-- The state with a command put at the front of its queue. DESIGN CHOICE, log entry 1. -/
def State.withFront (s : State) (c : Instr) : State := { s with pending := c :: s.pending }

/-- One step: the front command on the state with the queue's rest; a tick where the queue is empty.
DESIGN CHOICE, log entry 1; DESIGN CHOICE, log entry 3; DESIGN CHOICE, log entry 79. -/
def step (s : State) : Host.Outcome State Fault Refusal :=
  match s.pending with
  | [] => .next s.tick
  | c :: rest => exec c { s with pending := rest }

/-- The state with the command that a word of the opcode table spells at the front of its queue.
DESIGN CHOICE, log entry 7. -/
def State.withFetchWord (s : State) (nbits w : Nat) : State :=
  match decodeTableWord nbits w with
  | some c => s.withFront c
  | none => s

end Sys2Proof.Machine
end

