-- ==== Sys2Proof/Machine/ZelekEncode.lean ====
section
/-!
DEFINITION. The encoder of Zelek instructions, written from the prefix and format tables of 06_zelek_encoding.md.
-/
namespace Sys2Proof.Machine

/-- The size prefix (R171). -/
def ZSize.prefix_ : ZSize → List Nat
  | .none => [] | .wide => [0xF2] | .byte => [0xF3] | .half => [0xF4]

/-- Prefix bytes in rising order, each with its operand byte (R171, R172). -/
def ZInstr.prefixes (z : ZInstr) : List Nat :=
  (if z.far then [0xF0] else []) ++ (if z.ord then [0xF1] else []) ++ z.size.prefix_ ++
    (match z.at_ with | some r => [0xF5, r] | none => []) ++
    (match z.rep with | some r => [0xF8 + (if r.reg then 1 else 0) + (if r.inter then 2 else 0), r.arg] | none => [])

/-- `n` bytes of a value, the low byte first. -/
def zLittle : Nat → Nat → List Nat
  | 0, _ => []
  | n + 1, v => v % 256 :: zLittle n (v / 256)

/-- The displacement of an M byte: none, 8 bits in mode 2, 32 bits in mode 3 (R178). -/
def ZInstr.dispBytes (z : ZInstr) : List Nat :=
  if z.m < 128 then [] else if z.m < 192 then zLittle 1 (tc 8 z.disp) else zLittle 4 (tc 32 z.disp)

/-- The bytes that follow the opcode in each format (R175). -/
def ZInstr.operands (z : ZInstr) : ZFmt → List Nat
  | .n => []
  | .r => [z.rb]
  | .rr => [z.rb]
  | .c => [z.rb]
  | .a => [z.rb]
  | .ac => [z.rb]
  | .ri8 => [z.rb, z.imm]
  | .ri32 => z.rb :: zLittle (if z.op = 0x12 && z.size == .wide then 8 else 4) z.imm
  | .bf => z.rb :: zLittle 2 z.imm
  | .m => z.m :: z.rb :: z.dispBytes
  | .mi => z.m :: z.dispBytes ++ zLittle z.size.bytes z.imm
  | .d8 => [tc 8 z.disp]
  | .d32 => zLittle 4 (tc 32 z.disp)
  | .rd8 => [z.rb, tc 8 z.disp]
  | .xy => [z.rb, z.b3]
  | .ar => [z.rb, z.b3]
  | .cr => [z.rb, z.b3]
  | .cx => [z.rb, z.b3]

/-- The bytes of an instruction: prefixes, opcode, operands. -/
def zEncode (z : ZInstr) : List Byte :=
  (z.prefixes ++ z.op :: (match zFmt z.op with | some f => z.operands f | none => [])).map (BitVec.ofNat 8)

end Sys2Proof.Machine
end

