-- ==== Sys2Proof/WellFormed.lean ====
section
/-!
DEFINITION. What the outside world can offer the block: the shape of each command's operands, beyond what their types say.
A command whose list operand has the wrong shape stops with a fault (`Fault.illFormed`); every other check bounds addresses
that no meaning could mistake.
-/
namespace Sys2Proof

/-- Size in bytes of the window that a host space offers (R531, and the local bus decode of 17_mailboxes_bridges.md). -/
def HostSpace.bytes : HostSpace → Nat
  | .bar0 => 0x2000000
  | .bar2 => 0x4000000
  | .bar4 => 0x40000000
  | .lbTarget => 0x100000000
  | .obw => 0x80000

/-- An address that a host port can name: PCIe by its BARs and the outbound window, the local bus by its target address. -/
def HostSpace.wf (i : HostPort) (space : HostSpace) (addr : Nat) : Bool :=
  addr < space.bytes && ((i == .lb) == (space == .lbTarget))

/-- A host write: its address, and the tag of a local-bus write (LEDGER word 1). -/
def HostWrite.wf (w : HostWrite) : Bool := w.space.wf w.port w.addr && (w.port == .pcie || w.tag == 0xFFFF#16)

/-- The operands that a meaning itself checks: lists of a fixed or stated length (R253, R327, R348, R373, R400, R484).
DESIGN CHOICE, log entry 4. -/
def Instr.shape : Instr → Bool
  | .bankAccess _ a p => a.all Machine.PortAccess.wf && p.all Machine.PortAccess.wf
  | .cutThroughStart _ hdr _ => hdr.length == 64
  | .heartbeatReceive _ msg => msg.length == 24
  | .slotFrameReceive _ bytes _ => bytes.length == 152
  | .canFrameReceive _ f => Machine.canShape f
  | .txDescriptorServe _ desc frame _ _ => Machine.txShape desc frame
  | _ => true

/-- A command that the outside world can offer. DESIGN CHOICE, log entry 4. -/
def Instr.wf (c : Instr) : Bool :=
  c.shape && match c with
    | .registerWrite _ addr _ _ _ => addr % 4 == 0 && addr < 0x2000000
    | .hostLocalMemWrite _ addr _ _ => addr % 4 == 0 && addr < 0x600000
    | .hostWriteAccept w => w.wf
    | .hostRead i space addr _ _ _ => space.wf i addr
    | .lockedRead addr _ _ => HostSpace.wf .lb .lbTarget addr
    | .frameReceive _ f => 0 < f.bytes.length
    | .mdbWakeFrame _ (.classical _ dlc data) => data.length ≤ Nat.min 8 dlc.val
    | _ => true

end Sys2Proof
end

