-- ==== Sys2Proof/Safety.lean ====
section
/-!
DEFINITION. What counts as a safe run of the block: every command that waits can be offered by the outside world, memory is in
its canonical form, and a step answers a next state.
-/
namespace Sys2Proof.Machine

/-- The command answers a next state from `s`, the queue stays as it is, and the device it leaves has the property `P`. -/
def Completes (c : Instr) (s : State) (P : Dev → Prop) : Prop :=
  ∃ t, exec c s = .next t ∧ t.pending = s.pending ∧ P t.dev

/-- Registers answer at this address: the main domain is up, the device is not in Holdover (R27), and in Boot and Provision
the block is DEV, PWR or SEC (R28). -/
abbrev Dev.reaches (d : Dev) (addr : Nat) : Prop := d.hostUp = true ∧ d.blockOpen addr = true

/-- Nothing but PG_MAIN and WARM_N can hold the main domain in reset (R30, R514, R519, R537). -/
abbrev Dev.resetFree (d : Dev) : Prop :=
  d.pwr.pwrEn = true ∧ d.pwr.porLow = false ∧ d.pwr.supplyLow = false ∧ d.pwr.pllLost = false

/-- Port `k` of the Cutter takes a command with code `code` now: the write reaches it, it is not busy, the mode is not Hold,
and in Safe the code is STOP, DESTROY or QUERY (R217, R222). -/
abbrev Dev.portReady (d : Dev) (k code : Nat) : Prop :=
  d.reaches (CUT_CMD k) ∧ d.b (CUT_CMD_STAT k) 8 = false ∧ d.mode ≠ .hold ∧
    (d.mode = .safe → code = 3 ∨ code = 4 ∨ code = 5)

/-- Port `k` of the Cutter holds a command: it is busy (R217). -/
def Dev.taken (d : Dev) (k : Nat) : Dev := d.wb (CUT_CMD_STAT k) 8 true

/-- CREATE on port `k` drafts its channel at index `c`: the descriptor words (R213). -/
def Dev.draft (d : Dev) (k c : Nat) : Dev :=
  (d.taken k).setChan c (fun _ =>
    { Chan.init with desc := (List.range 48).map (fun i => (i, d.r (CUT_DESC k i))), node := d.f SLV_NODE_CFG 2 0 })

/-- The draft with its settle time (R224), CREATED: what admission places. -/
def Dev.drafted (d : Dev) (k c : Nat) : Dev :=
  (d.draft k c).setChan c (fun ch => { ch with settle := (d.draft k c).settleTime c, st := .created })

/-- ARG0 of port `k` is a live channel handle, and the channel is in state `st`. -/
abbrev Dev.named (d : Dev) (k : Nat) (st : ChanState) : Prop :=
  d.checkHandle 1 (d.arg k 0) = .ok ∧ (d.chan (hIdx (d.arg k 0))).st = st

/-- The security unit takes a command of the lifecycles `lc` and the modes `modes` from `who`: the write reaches it, no host
command wins the tick, the key byte is right (R494). -/
abbrev Dev.secTakes (d : Dev) (who : Initiator) (v : Word) (withHost : Bool) (lc : List Nat) (modes : List Mode) : Prop :=
  d.reaches SEC_CMD ∧ (withHost = true → isHost who = true) ∧ fld v 15 8 = 0xA5 ∧ lc.contains d.lifecycle = true ∧
    d.modeIn modes = true

/-- Shuttle `n` executes instruction `w` with opcode `op` of its program at this tick (R428, R438-R440). -/
abbrev Dev.shtAt (d : Dev) (n op : Nat) (w : BitVec 16) : Prop :=
  (d.shuttle n).state = .run ∧ d.shtTicks n = true ∧ d.shtProgram n = true ∧ d.shtFetched n = w ∧ shtIllegal w = false ∧
    w.toNat % 16 = op

/-- What R535 says of a recorded access: the count, and the first record since valid was cleared. `d` before, `x` after. -/
abbrev Dev.recorded (d x : Dev) (who : Initiator) (write : Bool) (reason addr : Nat) : Prop :=
  x.f DEV_ACC_CNT 31 0 = Nat.min (d.f DEV_ACC_CNT 31 0 + 1) 0xFFFFFFFF ∧
    (d.b DEV_ACC_ERR 0 = false → x.b DEV_ACC_ERR 0 = true ∧ x.f DEV_ACC_ERR 2 1 = initCode who ∧ x.b DEV_ACC_ERR 3 = write ∧
      x.f DEV_ACC_ERR 7 4 = reason ∧ x.f DEV_ACC_ERR 14 8 = initEng who ∧ x.r DEV_ACC_ADDR = w32 (accAddr who addr)) ∧
    (d.b DEV_ACC_ERR 0 = true → x.r DEV_ACC_ERR = d.r DEV_ACC_ERR ∧ x.r DEV_ACC_ADDR = d.r DEV_ACC_ADDR)

/-- Nothing else of the device changes by the record: every other register below the counters' block end, memory, channels. -/
abbrev Dev.onlyRecorded (d x : Dev) : Prop :=
  (∀ a, a ≠ DEV_ACC_CNT → a ≠ DEV_ACC_ERR → a ≠ DEV_ACC_ADDR → x.r a = d.r a) ∧ x.mem = d.mem ∧ x.cut = d.cut ∧ x.pwr = d.pwr ∧
    x.tb = d.tb ∧ x.sec = d.sec ∧ x.swc = d.swc

/-! ### Zelek instructions -/

/-- Clean codewords in the instruction memory and in the data memory that the instruction reads. -/
def noEcc : LocalEcc := { fetch := .clean, data := .clean }

/-- The next instruction of engine `e` is `z`, of its running context `k`, with neither AT nor a repeat: no far load of the
context is outstanding, no register is poisoned, and no hold of the instruction waits to be charged (R141, R144, R145, R159,
R171). -/
abbrev Dev.issues (d : Dev) (e k : Nat) (z : ZInstr) : Prop :=
  d.canIssue e = some k ∧ d.zAt k = .ok z ∧ z.at_ = none ∧ z.rep = none ∧ (d.ctx k).repOn = false ∧ d.loadsOf k = [] ∧
    (d.ctx k).poison = [] ∧ (tfind d.cut.acts k).isSome = true ∧ (d.act k).heldAt = none

/-- The next instruction of engine `e` is `z`, of its running context `k`, which begins a repeat of `n` iterations (R210). -/
abbrev Dev.repeats (d : Dev) (e k : Nat) (z : ZInstr) (r : ZRep) (n : Nat) : Prop :=
  d.canIssue e = some k ∧ d.zAt k = .ok z ∧ z.at_ = none ∧ z.rep = some r ∧ (d.ctx k).repOn = false ∧ d.loadsOf k = [] ∧
    n = (if r.reg then ((d.ctx k).wr r.arg).toNat else r.arg) ∧ (tfind d.cut.acts k).isSome = true ∧
    (d.act k).heldAt = none

/-- Context `k` with its activation open and AT served: where a meaning starts. -/
def Dev.begun (d : Dev) (k : Nat) : Dev := d.setAct k (fun a => { a with atGo := false, open_ := true })

/-- Cycles of an instruction with clean codewords: one more where it crosses a line of 16 bytes, two more for a branch taken. -/
def Dev.zCost (d : Dev) (k : Nat) (z : ZInstr) (taken : Bool) : Nat :=
  zCycles z.op + (if 16 < (d.ctx k).pc % 16 + z.len then 1 else 0) + (if taken && zCycles z.op == 1 then 2 else 0)

/-- The device once `z` has executed with the registers `c`: load delays are one nearer, the budget and the busy cycles have
the cost, and the program counter has the target or the next instruction. Everything else is as it was. -/
def Dev.ran (d : Dev) (e k : Nat) (z : ZInstr) (c : Ctx) (target : Option Nat) : Dev :=
  (d.busyAdd e (d.zCost k z target.isSome)).setAct k (fun a =>
    { a with atGo := false, open_ := true,
             ctx := { c.age with budget := if d.replaying k then c.budget else c.budget - d.zCost k z target.isSome,
                                 pc := target.getD ((c.pc + z.len) % 2 ^ 32) } })

/-- rd := the result, with Z and N of it. -/
def Ctx.putZn (c : Ctx) (z : ZInstr) (r : Nat) : Ctx := (c.zn z.n r).setOpnd z.wide z.hi r

/-- rd := the result, with Z, N, C and V. -/
def Ctx.putAll (c : Ctx) (z : ZInstr) (x : Nat × Bool × Bool) : Ctx :=
  ((c.zn z.n x.1).cv x.2.1 x.2.2).setOpnd z.wide z.hi x.1

/-- The operand rd. -/
def Ctx.rd (c : Ctx) (z : ZInstr) : Nat := c.opnd z.wide z.hi

/-- The operand rs. -/
def Ctx.rs (c : Ctx) (z : ZInstr) : Nat := c.opnd z.wide z.lo

/-- Every command in the queue is well-formed. -/
def State.queueWf (s : State) : Bool := s.pending.all Instr.wf

/-- A step from `s` answers a next state. -/
def Safe (s : State) : Prop := ∃ t, step s = .next t

/-- Memory is in its canonical form. -/
def State.memWf (s : State) : Bool := s.dev.mem.wf

end Sys2Proof.Machine
end

