-- ==== Sys2Proof/Certificates/Slice0/Obligations.lean ====
section
/-!
DEFINITION. The statements for the provers. A statement named …Complete says of each command that it names where the command
completes, in terms of state and operands alone, and what it leaves; where it gives the whole next device, nothing else changes.
-/
open Sys2Proof Sys2Proof.Machine

/-- PWR: a reset source (R35, R37, R62, R268, R513-R519). POR and a low AON supply give every register word its reset value,
PWR_RESET_CAUSE naming WARM_N beside the POR where that pin is held, clear memory, and leave Boot with the main domain in
reset; the OTP stays. WARM keeps external memory and the retained area, is recorded in PWR_RESET_CAUSE, and a pulse of it
ends in Boot with the main domain up. Supplies and samples that the source's rule does not take change nothing.
Choices of the model in it: log entries 5, 6, 8. -/
def Obligations.ResetSourcesComplete : Prop :=
  (∀ s, Completes .porAssert s (fun t => t.pwr.mode = .boot ∧ t.pwr.mainUp = false ∧ t.pwr.porLow = true ∧
      t.mem = [] ∧
      (∀ a, t.r a = if s.dev.pwr.warmLow = true ∧ a = PWR_RESET_CAUSE then 3#32 else regReset a) ∧ t.sec.otp = s.dev.sec.otp)) ∧
  (∀ s core io ns, core < 700 ∨ io < 1550 → 1000 ≤ ns → Completes (.aonSupplyLow core io ns) s (fun t => t.pwr.mode = .boot ∧ t.pwr.mainUp = false ∧ t.pwr.supplyLow = true ∧
      t.mem = [] ∧
      (∀ a, t.r a = if s.dev.pwr.warmLow = true ∧ a = PWR_RESET_CAUSE then 3#32 else regReset a) ∧ t.sec.otp = s.dev.sec.otp)) ∧
  (∀ s core io ns, ns < 1000 ∨ (700 ≤ core ∧ 1550 ≤ io) → Completes (.aonSupplyLow core io ns) s (· = s.dev)) ∧
  (∀ s straps pg, s.dev.pwr.porLow = true → s.dev.pwr.supplyLow = false →
    Completes (.porRelease straps pg) s (fun t => t.pwr.porLow = false ∧ t.pwr.straps = straps ∧ t.pwr.pwrEn = true ∧
      t.pwr.release = .por ∧ t.mem = s.dev.mem ∧ t.sec = s.dev.sec)) ∧
  (∀ s core io, s.dev.pwr.supplyLow = true → s.dev.pwr.porLow = false → 740 < core → 1620 < io →
    Completes (.aonSupplyRecover core io) s (fun t => t.pwr.supplyLow = false ∧ t.pwr.pwrEn = true ∧ t.pwr.release = .por ∧
      t.mem = s.dev.mem ∧ t.sec = s.dev.sec)) ∧
  (∀ s core io, core ≤ 740 ∨ io ≤ 1620 → Completes (.aonSupplyRecover core io) s (· = s.dev)) ∧
  (∀ s seen, s.dev.warmMay = true → s.dev.pwr.warmLow = false → 10 ≤ seen →
    Completes (.warmPin seen) s (fun t => t.pwr.mode = .boot ∧ t.pwr.mainUp = false ∧ t.pwr.warmLow = true ∧
      t.b PWR_RESET_CAUSE 1 = true ∧ t.sec.otp = s.dev.sec.otp ∧
      (∀ k, keyExt ≤ k ∨ (keyRet ≤ k ∧ k < keyRet + 0x40000) → mget t.mem k = mget s.dev.mem k))) ∧
  (∀ s seen, s.dev.warmMay = false → s.dev.pwr.warmLow = false → 10 ≤ seen →
    Completes (.warmPin seen) s (fun t => t.pwr = { s.dev.pwr with warmLow := true, logSeq := t.pwr.logSeq, logCount := t.pwr.logCount } ∧
      t.b PWR_RESET_CAUSE 1 = true ∧ t.mem = s.dev.mem)) ∧
  (∀ s seen, seen < 10 → Completes (.warmPin seen) s (· = s.dev)) ∧
  (∀ s who v, s.dev.reaches PWR_RESET_CMD → s.dev.warmMay = true → fld v 15 8 = 0xA5 → bitOf v 0 = true → s.dev.resetFree →
    s.dev.pwr.pgMain = true → s.dev.pwr.warmLow = false →
    Completes (.warmResetCmd who v) s (fun t => t.pwr.mode = .boot ∧ t.pwr.mainUp = true ∧
      t.b PWR_RESET_CAUSE 2 = true ∧ t.sec.otp = s.dev.sec.otp ∧ t.tb.st = 0 ∧
      (∀ k, keyExt ≤ k ∨ (keyRet ≤ k ∧ k < keyRet + 0x40000) → mget t.mem k = mget s.dev.mem k))) ∧
  (∀ s, s.dev.pwr.mainUp = false → s.dev.resetFree → s.dev.pwr.pgMain = true → s.dev.pwr.warmLow = true →
    Completes .warmNRelease s (fun t => t.pwr.mode = .boot ∧ t.pwr.mainUp = true ∧ t.pwr.warmLow = false ∧ t.tb.st = 0 ∧
      t.mem = s.dev.mem ∧ t.sec = s.dev.sec)) ∧
  (∀ s, s.dev.pwr.mainUp = true → s.dev.pwr.mode ≠ .holdover → s.dev.aonUp = true → s.dev.pwr.pgMain = true →
    Completes .pllLockLoss s (fun t => t.pwr.mode = .boot ∧ t.pwr.mainUp = false ∧
      t.pwr.pllLost = true ∧ t.sec.otp = s.dev.sec.otp)) ∧
  (∀ s, s.dev.pwr.mainUp = true → s.dev.pwr.mode ≠ .holdover → s.dev.pwr.trans ≠ .powerDown →
    Completes .pgMainFall s (fun t => t.pwr.mode = .boot ∧ t.pwr.mainUp = false ∧ t.pwr.pgMain = false ∧
      t.b PWR_RESET_CAUSE 5 = true ∧ t.sec.otp = s.dev.sec.otp)) ∧
  (∀ s, s.dev.pwr.mainUp = false → s.dev.resetFree → s.dev.pwr.warmLow = false →
    s.dev.pwr.mode ≠ .holdover → s.dev.pwr.pgHeld = false →
    Completes .pgMainRise s (fun t => t.pwr.mode = .boot ∧ t.pwr.mainUp = true ∧ t.pwr.pgMain = true ∧ t.tb.st = 0 ∧
      t.mem = s.dev.mem ∧ t.sec = s.dev.sec))

/-- PWR: wakes, sleep and the power-fail warning (R42-R51, R53, R57, R58).
Choices of the model in it: log entries 30, 84, 85, 86. -/
def Obligations.WakeAndSleepComplete : Prop :=
  (∀ s t0, s.dev.pwr.mode = .holdover → s.dev.pwr.wakeSince = some t0 → t0 + 50000000 ≤ s.dev.tb.now → s.dev.pwr.pgMain = false →
    Completes .pgMainTimeout s (fun t => t.pwr.pwrEn = false ∧ t.pwr.retrySince = some s.dev.tb.now ∧ t.pwr.wakeSince = none ∧
      t.pwr.wakePending = true ∧ t.pwr.mode = .holdover ∧ t.mem = s.dev.mem)) ∧
  (∀ s t0, s.dev.pwr.mode = .holdover → s.dev.pwr.retrySince = some t0 → t0 + 1000000000 ≤ s.dev.tb.now →
    Completes .pwrEnRetry s (fun t => t.pwr.pwrEn = true ∧ t.pwr.wakeSince = some s.dev.tb.now ∧ t.pwr.retrySince = none ∧
      t.pwr.mode = .holdover ∧ t.mem = s.dev.mem)) ∧
  (∀ s, s.dev.aonUp = true → s.dev.pwr.mode = .holdover → s.dev.pwr.trans = .idle → s.dev.pwr.wakeSince = none → s.dev.pwr.retrySince = none →
    Completes .wakePinHigh s (fun t => t.pwr.pwrEn = true ∧ t.pwr.wakeSince = some s.dev.tb.now ∧ t.b PWR_WAKE_CAUSE 14 = true ∧
      t.pwr.mode = .holdover ∧ t.mem = s.dev.mem)) ∧
  (∀ s, s.dev.pwr.wakePending = true → s.dev.pwr.mode = .holdover → s.dev.pwr.wakeSince = none → s.dev.pwr.retrySince = none →
    Completes .pendingWakeAct s (fun t => t.pwr.pwrEn = true ∧ t.pwr.wakeSince = some s.dev.tb.now ∧ t.pwr.wakePending = false ∧
      t.mem = s.dev.mem)) ∧
  (∀ s (i : Fin 4) v seen, s.dev.aonUp = true → (s.dev.tb.now - s.dev.pwr.porAt) % 10000 = 0 →
    s.dev.f (PWR_LSW_CFG i) 15 0 < seen → s.dev.pwr.lsw.getLsbD i ≠ v → s.dev.b PWR_WAKE_CTRL i = false →
    Completes (.lswDebounced i v seen) s (fun t => t.pwr.lsw.getLsbD i = v ∧ (∀ j, j ≠ i.val → t.pwr.lsw.getLsbD j = s.dev.pwr.lsw.getLsbD j) ∧
      t.pwr.mode = s.dev.pwr.mode ∧ t.pwr.trans = s.dev.pwr.trans ∧ t.r PWR_WAKE_CAUSE = s.dev.r PWR_WAKE_CAUSE ∧ t.mem = s.dev.mem)) ∧
  (∀ s (i : Fin 4) v seen, seen ≤ s.dev.f (PWR_LSW_CFG i) 15 0 → Completes (.lswDebounced i v seen) s (· = s.dev)) ∧
  (∀ s (c : Fin 8) mv seen (v : Bool), s.dev.aonUp = true → (s.dev.tb.now - s.dev.pwr.porAt) % 100 = 0 →
    s.dev.f (PWR_CMP_CFG c) 31 16 < seen → s.dev.pwr.cmp.getLsbD c ≠ v → s.dev.b PWR_WAKE_CTRL (4 + c) = false →
    (if v then 5 * (s.dev.f (PWR_CMP_CFG c) 7 0 + s.dev.f (PWR_CMP_CFG c) 11 8) < mv else mv < 5 * s.dev.f (PWR_CMP_CFG c) 7 0) →
    Completes (.cmpDebounced c mv seen) s (fun t => t.pwr.cmp.getLsbD c = v ∧ (∀ j, j ≠ c.val → t.pwr.cmp.getLsbD j = s.dev.pwr.cmp.getLsbD j) ∧
      t.pwr.mode = s.dev.pwr.mode ∧ t.pwr.trans = s.dev.pwr.trans ∧ t.r PWR_WAKE_CAUSE = s.dev.r PWR_WAKE_CAUSE ∧ t.mem = s.dev.mem)) ∧
  (∀ s (c : Fin 8) mv seen, seen ≤ s.dev.f (PWR_CMP_CFG c) 31 16 → Completes (.cmpDebounced c mv seen) s (· = s.dev)) ∧
  (∀ s src t0 cu sc se hb, s.dev.pwr.trans = .agreeing src t0 cu sc se hb → t0 + 1000 * s.dev.f PWR_SLEEP_CFG 15 0 ≤ s.dev.tb.now →
    Completes .sleepAgreeTimeout s (fun t => t.pwr.trans = .idle ∧ t.pwr.reqStatus = 4 ∧ t.pwr.mode = s.dev.pwr.mode ∧ t.mem = s.dev.mem)) ∧
  (∀ s src t0 cu se hb, s.dev.pwr.trans = .agreeing src t0 cu false se hb → s.dev.pwr.sleepFlushed = true →
    Completes (.sleepPartyAgree .scan) s (fun t =>
      (if cu && se && hb then t.pwr.trans = .powerDown ∧ t.pwr.pwrEn = false else t.pwr.trans = .agreeing src t0 cu true se hb) ∧
      t.pwr.mode = s.dev.pwr.mode ∧ t.mem = s.dev.mem)) ∧
  (∀ s, s.dev.pwr.trans = .powerDown → s.dev.pwr.pgMain = false → s.dev.pwr.mode ≠ .hold →
    Completes .holdoverEntry s (fun t => t.pwr.mode = .holdover ∧ t.pwr.mainUp = false)) ∧
  (∀ s b e, s.dev.pwr.flushing = some b →
    Completes (.retainedFlushComplete e) s (fun t => t.pwr.flushing = none ∧
      (∃ x, tfind t.pwr.flash s.dev.pwr.flushPage = some x ∧ x.valid = true ∧ x.head.seq = s.dev.pwr.flushSeq ∧
        x.img = s.dev.pwr.flushImg) ∧
      (∀ q, q ≠ s.dev.pwr.flushPage → tfind t.pwr.flash q = tfind s.dev.pwr.flash q) ∧ t.mem = s.dev.mem)) ∧
  (∀ s mv seen, s.dev.aonUp = true → s.dev.pwr.pfw = false → s.dev.pwr.mode = .run → s.dev.pwr.trans = .idle →
    s.dev.scn.state = .stop → s.dev.scn.started = false → s.dev.scn.phase = .idle → s.dev.b PWR_FLUSH_CFG 0 = true →
    s.dev.pwr.flushing = none → mv < 5 * s.dev.f PWR_PFW_CFG 7 0 → s.dev.f PWR_PFW_CFG 31 24 < seen →
    Completes (.pfwAssert mv seen) s (fun t => t.pwr.pfw = true ∧ t.pwr.flushing.isSome = true ∧ t.pwr.mode = .run ∧ t.mem = s.dev.mem)) ∧
  (∀ s mv seen, 5 * s.dev.f PWR_PFW_CFG 7 0 ≤ mv ∨ seen ≤ s.dev.f PWR_PFW_CFG 31 24 →
    Completes (.pfwAssert mv seen) s (· = s.dev)) ∧
  (∀ s mv ms, s.dev.aonUp = true → s.dev.pwr.pfw = true → s.dev.warmMay = true →
    5 * (s.dev.f PWR_PFW_CFG 7 0 + s.dev.f PWR_PFW_CFG 11 8) < mv → s.dev.f PWR_PFW_CFG 23 12 ≤ ms →
    Completes (.pfwRecover mv ms) s (fun t => t.pwr.pfw = false ∧ t.pwr.mode = .boot ∧ t.b PWR_RESET_CAUSE 3 = true ∧ t.sec.otp = s.dev.sec.otp)) ∧
  (∀ s mv ms, mv ≤ 5 * (s.dev.f PWR_PFW_CFG 7 0 + s.dev.f PWR_PFW_CFG 11 8) ∨ ms < s.dev.f PWR_PFW_CFG 23 12 →
    Completes (.pfwRecover mv ms) s (· = s.dev))

/-- TB: the time base's reads and events (R60, R64, R69, R78, R89, R94, R95). -/
def Obligations.TimeBaseReadsComplete : Prop :=
  (∀ s, s.dev.tb.wrapDue = true → Completes .shortTimeWrap s (fun t => t.tb.wrapDue = false ∧ t.tb.st = s.dev.tb.st ∧
      t.r TB_WRAP_CNT = s.dev.r TB_WRAP_CNT + 1 ∧ t.b TB_BELL 0 = true ∧ t.mem = s.dev.mem)) ∧
  (∀ s who, s.dev.reaches TB_ST → Completes (.tbStRead who) s (fun t =>
      t = (s.dev.w TB_ST_HI (s.dev.r TB_WRAP_CNT + (if s.dev.tb.wrapDue then 1 else 0))).answer who s.dev.tb.st)) ∧
  (∀ s who, s.dev.reaches TB_TAI_NS → Completes (.taiRead who) s (fun t =>
      t = (((s.dev.w TB_TAI_SEC_LO (w32 s.dev.tb.sec)).w TB_TAI_SEC_HI (w32 (s.dev.tb.sec / 2 ^ 32))).w TB_TAI_FRAC
        (w32 (s.dev.tb.frac / 2 ^ 32))).answer who (w32 s.dev.tb.ns))) ∧
  (∀ s who, s.dev.reaches TB_ANCHOR_ST → Completes (.anchorRead who) s (fun t =>
      t.r TB_ANCHOR_NS = w32 s.dev.tb.anchor.ns ∧ t.r TB_ANCHOR_SEC_LO = w32 s.dev.tb.anchor.sec ∧
      (∃ x : Dev, t = x.answer who s.dev.tb.anchor.st) ∧ t.tb = s.dev.tb ∧ t.mem = s.dev.mem)) ∧
  (∀ s who (p : Fin 20), s.dev.reaches (TB_TSQ_ENTRY p 3) → s.dev.tsqOwner who p = true → Completes (.tsqPop who p) s (fun t =>
      tget [] t.tb.tsq p = (tget [] s.dev.tb.tsq p).drop 1 ∧ (∀ j, j ≠ p.val → tget [] t.tb.tsq j = tget [] s.dev.tb.tsq j) ∧
      (∃ x : Dev, t = x.answer who (if (tget [] s.dev.tb.tsq p).isEmpty then 0 else 1)) ∧ t.mem = s.dev.mem)) ∧
  (∀ s rising (back : Fin 16) ws wf, s.dev.pwr.mainUp = true → s.dev.f TB_PPS_IN_CFG 1 0 = 3 → s.dev.b TB_SRV_CFG 0 = false →
    s.dev.tb.ppsUnread = false → Completes (.ppsInEdge rising back ws wf) s (fun t =>
      t.r TB_PPS_IN_ST = (s.dev.stampBack back).st ∧ t.r TB_PPS_IN_FRAC = w32 ((s.dev.stampBack back).quarter + 4 * (s.dev.stampBack back).gen) ∧
      t.tb = { s.dev.tb with ppsUnread := true } ∧ t.b TB_BELL 6 = true ∧ t.mem = s.dev.mem)) ∧
  (∀ s who v, s.dev.reaches TB_CLK_CFG → s.dev.modeIn [.boot, .provision, .stop] = true → bitOf v 0 ≠ s.dev.b TB_CLK_CFG 0 →
    Completes (.refSelect who v) s (fun t => t.b TB_CLK_CFG 0 = bitOf v 0 ∧ t.b TB_STAT 9 = false ∧
      t.tb = { s.dev.tb with relocking := true, relockAt := if s.dev.tb.relocking then s.dev.tb.relockAt else s.dev.tb.now } ∧ t.mem = s.dev.mem)) ∧
  (∀ s, Completes .tbPllRelock s (fun t => t.b TB_STAT 9 = true ∧ t.tb = { s.dev.tb with relocking := false } ∧
      (s.dev.tb.relocking = true → t.f TB_CLK_CFG 31 8 = Nat.min (2 ^ 24 - 1) (s.dev.tb.now - s.dev.tb.relockAt)) ∧ t.mem = s.dev.mem)) ∧
  (∀ s, Completes .tbRefLost s (fun t => t = s.dev.wb TB_STAT 9 false)) ∧
  (∀ s, s.dev.tb.secondDue = true → s.dev.b TB_STAT 0 = true → s.dev.b TB_PPS_OUT_CFG 0 = false →
    Completes .taiSecond s (fun t => t.tb = { s.dev.tb with secondDue := false, anchor := ⟨s.dev.tb.st, s.dev.tb.sec, s.dev.tb.ns, s.dev.gen⟩ } ∧
      t.pwr.holdCnt = s.dev.taiNs ∧ t.b PWR_HOLD_STAT 0 = false ∧ t.b TB_BELL 1 = true))

/-- TB: the servo and its jump machine (R73-R78): a commit in UNSET steps TAI by −θ and makes it valid; a commit that meets
a set is discarded and counted, one that meets a force is judged after it; force applies the candidate; a set loads TAI; the loss of commits leaves FREERUN.
Choices of the model in it: log entries 31, 87. -/
def Obligations.ServoComplete : Prop :=
  (∀ s who v, s.dev.reaches TB_SRV_CMD → bitOf v 0 = true → s.dev.b TB_CTRL 2 = true → s.dev.b TB_SRV_CFG 0 = false →
    s.dev.logBad = false → s.dev.jump = 0 → Completes (.servoCommit who v false false) s (fun t =>
      t.jump = 1 ∧ t.b TB_STAT 0 = true ∧ t.f TB_STAT 2 1 = 1 ∧ t.b TB_BELL 5 = true ∧
      t.tai48 = (s.dev.tai48 - s.dev.stagedTheta * 2 ^ 32) % ((2 ^ 48 * 1000000000 * 2 ^ 48 : Nat) : Int) ∧ t.mem = s.dev.mem)) ∧
  (∀ s who v, s.dev.reaches TB_SRV_CMD → bitOf v 0 = true → (s.dev.b TB_CTRL 2 = false ∨ s.dev.b TB_SRV_CFG 0 = true ∨ s.dev.logBad = true) →
    Completes (.servoCommit who v false false) s (fun t => t = s.dev.satf TB_JUMP_STAT 31 16 1)) ∧
  (∀ s who v, s.dev.reaches TB_SRV_CMD → bitOf v 0 = true →
    Completes (.servoCommit who v true false) s (fun t => t = s.dev.satf TB_JUMP_STAT 31 16 1)) ∧
  (∀ s who v, s.dev.reaches TB_SRV_CMD → bitOf v 0 = true → s.dev.b TB_CTRL 2 = true → s.dev.b TB_SRV_CFG 0 = false →
    s.dev.logBad = false → s.dev.jump = 2 → s.dev.stagedTheta.natAbs ≤ (s.dev.r TB_JUMP_LIMIT).toNat * 65536 →
    Completes (.servoCommit who v false true) s (fun t => t.jump = 1 ∧ t.gen = (s.dev.gen + 1) % 16 ∧
      t.tai48 = (s.dev.tai48 - s.dev.tb.candidate * 2 ^ 32) % ((2 ^ 48 * 1000000000 * 2 ^ 48 : Nat) : Int) ∧
      t.tb.lossBase = s.dev.tb.now ∧ t.mem = s.dev.mem)) ∧
  (∀ s who v, s.dev.reaches TB_JUMP_CMD → bitOf v 0 = true → s.dev.jump = 2 → Completes (.jumpForce who v) s (fun t =>
      t.jump = 1 ∧ t.gen = (s.dev.gen + 1) % 16 ∧ t.b TB_BELL 3 = true ∧
      t.tai48 = (s.dev.tai48 - s.dev.tb.candidate * 2 ^ 32) % ((2 ^ 48 * 1000000000 * 2 ^ 48 : Nat) : Int) ∧ t.mem = s.dev.mem)) ∧
  (∀ s who v, s.dev.reaches TB_TAI_SET_CMD → bitOf v 0 = true → (s.dev.r TB_TAI_SET_NS).toNat ≤ 999999999 → s.dev.b TB_STAT 0 = false →
    Completes (.taiSet who v) s (fun t => t.tb.ns = (s.dev.r TB_TAI_SET_NS).toNat ∧
      t.tb.sec = (s.dev.r TB_TAI_SET_SEC_LO).toNat + 2 ^ 32 * s.dev.f TB_TAI_SET_SEC_HI 15 0 ∧ t.tb.frac = 0 ∧
      t.b TB_STAT 0 = true ∧ t.f TB_STAT 2 1 = 2 ∧ t.jump = 1 ∧ t.mem = s.dev.mem)) ∧
  (∀ s, s.dev.jump = 1 → s.dev.tb.lossBase + s.dev.lossTime ≤ s.dev.tb.now → s.dev.pwr.mainUp = true →
    Completes .servoLoss s (fun t => t.jump = 3 ∧ t.tb = { s.dev.tb with y := s.dev.tb.i } ∧ t.b TB_STAT 3 = true ∧ t.b TB_BELL 4 = true ∧
      t.mem = s.dev.mem))

/-- TRD: steps, increments, locking and phase (R97, R99, R100, R101, R106, R112, R115). A phase step that a write asks for is applied whole.
Choices of the model in it: log entries 40, 42, 88. -/
def Obligations.TreadleMotionComplete : Prop :=
  (∀ s (n : Fin 16), (s.dev.trdl n).carry = 0 - 1 ∨ (s.dev.trdl n).carry = 1 → s.dev.b (TRD_STEP_CFG n) 12 = false →
    (s.dev.trdl n).dirUp = decide (0 < (s.dev.trdl n).carry) → (s.dev.trdl n).ramp = .none → (s.dev.trdl n).leader = none →
    s.dev.trdMode n = 1 →
    Completes (.treadleCarry n) s (fun t => t = (s.dev.setTrdl n (fun x =>
        { x with carry := 0, cycle := tc 32 ((x.cycle : Int) + (s.dev.trdl n).carry) })).posSet n (s.dev.pos n + (s.dev.trdl n).carry))) ∧
  (∀ s (n : Fin 16), 0 < (s.dev.trdl n).stepWait → (s.dev.trdl n).stepFree ≤ s.dev.tb.now →
    Completes (.stepPulseDelayed n) s (fun t => t = (s.dev.setTrdl n (fun x => { x with stepWait := x.stepWait - 1 })).pulse n)) ∧
  (∀ s (n : Fin 16), s.dev.strobeAhead n = 1 → s.dev.f (TRD_STRB_CFG n) 20 16 = 0 →
    Completes (.strobe n) s (fun t =>
      t = s.dev.setTrdl n (fun x =>
        { x with lastStrobe := some (s.dev.strobePos n (decide (0 < s.dev.rate n)) / s.dev.f (TRD_STRB_CFG n) 15 0,
                                     s.dev.strobePos n (decide (0 < s.dev.rate n)) % s.dev.f (TRD_STRB_CFG n) 15 0),
                 lastUp := decide (0 < s.dev.rate n) }))) ∧
  (∀ s who (n : Fin 16) hi, s.dev.reaches (TRD_INC_HI n) → (s.dev.trdMode n = 0 ∨ s.dev.trdMode n = 1) →
    Completes (.incApply who n hi) s (fun t =>
      t = s.dev.setInc n (sx 48 ((s.dev.trdl n).incLo.toNat + fld hi 15 0 * 2 ^ 32)) ∧
      (t.trdl n).inc = sx 48 ((s.dev.trdl n).incLo.toNat + fld hi 15 0 * 2 ^ 32))) ∧
  (∀ s who (n : Fin 16), s.dev.reaches (TRD_INC_LO n) → Completes (.incRead who n) s (fun t =>
      t = (s.dev.w (TRD_INC_HI n) (w32 (tc 48 (s.dev.trdl n).inc / 2 ^ 32))).answer who (w32 (tc 48 (s.dev.trdl n).inc)))) ∧
  (∀ s who (n : Fin 16), s.dev.reaches (TRD_ACC_LO n) → Completes (.accRead who n) s (fun t =>
      t = ((s.dev.w (TRD_ACC_HI n) (w32 ((s.dev.trdl n).acc / 2 ^ 32))).w (TRD_CYCLE n) (w32 (s.dev.trdl n).cycle)).answer who
        (w32 (s.dev.trdl n).acc))) ∧
  (∀ s who (n : Fin 16) v, s.dev.reaches (TRD_CFG n) → fld v 2 0 ≠ 7 → s.dev.trdMode n ≠ fld v 2 0 →
    ((fld v 2 0 = 2 ∨ fld v 2 0 = 3) → s.dev.lockOk n = true) →
    Completes (.treadleModeWrite who n v) s (fun t => t.mem = s.dev.mem ∧
      ((fld v 2 0 < 4 ∨ (fld v 2 0 = 4 ∧ s.dev.modeIn [.stop, .safe] = false)) →
        t.f (TRD_CFG n) 2 0 = fld v 2 0 ∧ t.f (TRD_CFG n) 6 4 = fld v 6 4 ∧
        t.f (TRD_LOCK_STAT n) 1 0 = (if fld v 2 0 = 2 ∨ fld v 2 0 = 3 then 1 else 0) ∧ (t.trdl n).inc = (s.dev.trdl n).inc) ∧
      (fld v 2 0 = 5 ∨ fld v 2 0 = 6 ∨ (fld v 2 0 = 4 ∧ s.dev.modeIn [.stop, .safe] = true) → (t.trdl n).inc = 0))) ∧
  (∀ s (n : Fin 16) (back : Fin 16), s.dev.trdMode n = 2 → s.dev.f (TRD_LOCK_CFG n) 2 0 = 4 → s.dev.lockState n = 2 →
    (sx 32 (tc 32 (s.dev.totalBack n (s.dev.edgeBack false back) 16) + 2 ^ 32 - (s.dev.phaseOfs n).toNat)).natAbs ≤
      (s.dev.r (TRD_LOCK_ACCEPT n)).toNat →
    Completes (.zcCrossing n back) s (fun t => (t.trdl n).hit = true ∧ (t.trdl n).lastCross =
        some ((4 * s.dev.tb.st.toNat + 2 ^ 34 - s.dev.edgeBack false back % 2 ^ 34) % 2 ^ 34) ∧
      t.mem = s.dev.mem ∧ t.pwr = s.dev.pwr)) ∧
  (∀ s who (n : Fin 16) a, s.dev.reaches (TRD_PHASE_ADJ n) → (s.dev.trdMode n = 1 ∨ s.dev.trdMode n = 3) →
    (sx 32 a.toNat).natAbs ≤ 2 ^ 28 →
    Completes (.phaseAdjust who n a) s (fun t =>
      t = s.dev.setTrdl n (fun x => { x with adjPend := x.adjPend + sx 32 a.toNat }))) ∧
  (∀ s who (n : Fin 16) a, s.dev.reaches (TRD_PHASE_ADJ n) → (s.dev.trdMode n = 1 ∨ s.dev.trdMode n = 3) →
    2 ^ 28 < (sx 32 a.toNat).natAbs → Completes (.phaseAdjust who n a) s (fun t => t = s.dev.trdBell n 11)) ∧
  (∀ (d : Dev) n, (d.trdl n).adjPend ≠ 0 → ((d.adjApply n).trdl n).adjPend = 0 ∧
    (d.adjApply n).total n = tc 80 ((d.total n : Int) + (d.trdl n).adjPend * 65536))

/-- TRD: ramps, groups, pattern tables, cams, latches and starts (R117-R119, R122, R124, R126, R130).
Choices of the model in it: log entries 41, 43, 88. -/
def Obligations.TreadleProgramsComplete : Prop :=
  (∀ s (n : Fin 16), s.dev.rampDue n = true → (s.dev.trdl n).ramp = .stopping → s.dev.r (TRD_RAMP_ACCEL n) ≠ 0 →
    toward (s.dev.trdl n).inc 0 (s.dev.r (TRD_RAMP_ACCEL n)).toNat ≠ 0 →
    Completes (.rampPeriod n) s (fun t => (t.trdl n).inc = toward (s.dev.trdl n).inc 0 (s.dev.r (TRD_RAMP_ACCEL n)).toNat ∧
      (t.trdl n).rampAt = s.dev.tb.now ∧ (t.trdl n).ramp = .stopping ∧ t.mem = s.dev.mem)) ∧
  (∀ s who (n : Fin 16), s.dev.reaches (TRD_RAMP_CMD n) → s.dev.trdMode n = 4 → s.dev.r (TRD_RAMP_ACCEL n) ≠ 0 →
    Completes (.rampGo who n) s (fun t => t = s.dev.setTrdl n (fun x =>
      { x with ramp := if s.dev.b (TRD_RAMP_CFG n) 0 then .speed else .position, goal := sx 32 (s.dev.r (TRD_RAMP_TARGET n)).toNat,
               rampAt := s.dev.tb.now, leader := none }))) ∧
  (∀ s who (n : Fin 16), s.dev.reaches (TRD_RAMP_CMD n) → s.dev.trdMode n = 4 → s.dev.r (TRD_RAMP_ACCEL n) ≠ 0 →
    (s.dev.trdl n).inc ≠ 0 →
    Completes (.rampStop who n) s (fun t => t = s.dev.setTrdl n (fun x => { x with ramp := .stopping, rampAt := s.dev.tb.now }))) ∧
  (∀ s who (g : Fin 4) v, s.dev.reaches (TRD_GRP_CFG g) → bitOf v 16 = true →
    (s.dev.wf (TRD_GRP_CFG g) 15 0 (fld v 15 0)).groupBad g = false →
    Completes (.groupGo who g v) s (fun t => t = (s.dev.wf (TRD_GRP_CFG g) 15 0 (fld v 15 0)).groupStart g)) ∧
  (∀ s (t : Fin 8), s.dev.patRuns t 0 = true → s.dev.patAhead t = 1 →
    Completes (.patternEntryFire t) s (fun d => d = s.dev.patFire t (s.dev.patNow % 2 ^ 42))) ∧
  (∀ s (t : Fin 8) n, n = s.dev.f (TRD_PAT_CFG t) 5 2 → s.dev.patRuns t 1 = true → s.dev.trdMode n = 6 → s.dev.b TRD_PAT_GRP n = true →
    s.dev.modeIn [.stop, .safe] = false → (s.dev.camPos t - s.dev.pos n).natAbs ≤ s.dev.f (TRD_PAT_CFG t) 31 16 →
    s.dev.pos n < s.dev.camPos t → s.dev.b (TRD_STEP_CFG n) 12 = false → (s.dev.trdl n).dirUp = true →
    Completes (.camFollowStep t) s (fun d => d = s.dev.posSet n (s.dev.pos n + 1))) ∧
  (∀ s who (l : Fin 8) v, s.dev.reaches (TRD_LATCH_CFG l) → Completes (.latchArm who l v) s (fun t =>
      t = s.dev.w (TRD_LATCH_CFG l) (w32 (fld v 13 0 + 2 ^ 14 * b2n ((bitOf v 14 && tfind s.dev.trd.latchAt l != some s.dev.tb.now) || s.dev.b (TRD_LATCH_CFG l) 14))))) ∧
  (∀ s (l : Fin 8) rising (back : Fin 16), s.dev.f (TRD_LATCH_CFG l) 6 0 < 64 → s.dev.f (TRD_LATCH_CFG l) 8 7 = 3 →
    s.dev.b (TRD_LATCH_CFG l) 14 = true →
    Completes (.latchCapture l rising back) s (fun t => t.r (TRD_LATCH l 0) = (s.dev.stampBack (s.dev.edgeBack false back)).st ∧
      t.f (TRD_LATCH l 1) 1 0 = (s.dev.stampBack (s.dev.edgeBack false back)).quarter ∧ t.b (TRD_LATCH_CFG l) 14 = false ∧ t.b TRD_BELL (16 + l) = true ∧
      t.mem = s.dev.mem ∧
      t.trd = { s.dev.trd with latchAt := tset s.dev.trd.latchAt l s.dev.tb.now })) ∧
  (∀ s who (l : Fin 8), s.dev.reaches (TRD_LATCH l 3) → Completes (.latchRearm who l) s (fun t =>
      t = (s.dev.wb (TRD_LATCH_CFG l) 14 true).answer who (s.dev.r (TRD_LATCH l 3)))) ∧
  (∀ s who v, s.dev.reaches TRD_START → fld v 15 0 ≠ 0 → bitOf v 17 = false →
    Completes (.treadleStart who v) s (fun t => t = s.dev.trdStartAct who v)) ∧
  (∀ s who v, s.dev.reaches TRD_START → fld v 15 0 ≠ 0 → bitOf v 17 = true →
    Completes (.treadleStop who v) s (fun t => t = { s.dev with trd := { s.dev.trd with startAt := some (who, v ||| 0x10000) } })) ∧
  (∀ s who v, s.dev.trd.startDue = [] → s.dev.trd.startAt = some (who, v) → reached s.dev.tb.st (s.dev.r TRD_START_AT) = true →
    Completes .treadleStartAt s (fun t => t = ({ s.dev with trd := { s.dev.trd with startAt := none } } : Dev).trdStartAct who v)) ∧
  (∀ s who v a l, s.dev.trd.startDue = (who, v, a) :: l → reached s.dev.tb.st a = true →
    Completes .treadleStartAt s (fun t => t = ({ s.dev with trd := { s.dev.trd with startDue := l } } : Dev).trdStartAct who v))

/-- PWR: mode requests, the end of a stop and the boot ROM (R31-R34, R38, R538).
Choices of the model in it: log entry 30. -/
def Obligations.ModeChangesComplete : Prop :=
  (∀ s who v withHost, s.dev.reaches PWR_MODE_REQ → s.dev.pwr.trans = .idle → (withHost = true → isHost who = true) → fld v 15 8 = 0xA5 →
    s.dev.reqCond (fld v 2 0) = some true → fld v 2 0 ≠ 0 → ¬ (s.dev.mode = .run ∧ fld v 2 0 = 3) →
    Completes (.modeRequest who v withHost) s (fun t => t = (s.dev.reqDone 0).enterMode (modeOf (fld v 2 0)) ∧
      (s.dev.mode ≠ .hold → t.mode = modeOf (fld v 2 0)))) ∧
  (∀ s, s.dev.pwr.trans = .draining → s.dev.chansBusy = false → s.dev.mode = .run →
    Completes .runStopDrained s (fun t => t.mode = .stop ∧ t = (((s.dev.setPwr (fun p => { p with trans := .idle })).reqDone 0).enterMode .stop))) ∧
  (∀ s b ddrOk, s.dev.mode = .boot → s.dev.pwr.mainUp = true →
    Completes (.bootRomComplete b ddrOk) s (fun t => t.sec.otp = s.dev.sec.otp ∧
      (s.dev.lifecycle = 0 → t.mode = .provision ∧ t.sec.dbgUnlocked = true) ∧ (s.dev.lifecycle = 3 → t.mode = .safe) ∧
      (s.dev.lifecycle = 1 → (t.mode = .stop ∨ t.mode = .provision) ∧ t.sec.dbgUnlocked = false) ∧
      (s.dev.lifecycle = 2 → (t.mode = .stop ∨ t.mode = .safe) ∧ t.sec.dbgUnlocked = false)))

/-- Outputs and their commit stage (R108, R109, R154, R244).
Choices of the model in it: log entry 69. -/
def Obligations.OutputsComplete : Prop :=
  (∀ s (e : Fin 96) o, s.dev.mode = .run → s.dev.firstOut (s.dev.eng e).outq = some o →
    Completes (.outputRelease e .clean) s (fun t => t = ((s.dev.outTake e o).outAct e o).migrateDone (keyChan o.key))) ∧
  (∀ s (e : Fin 96) o c, s.dev.mode = .run → s.dev.firstOut (s.dev.eng e).outq = some o → c ≠ .uncorr →
    Completes (.outputRelease e c) s (fun t => t = (((s.dev.outTake e o).outAct e o).migrateDone (keyChan o.key)).queueEcc e c)) ∧
  (∀ s (e : Fin 96) o, s.dev.mode = .run → s.dev.firstOut (s.dev.eng e).outq = some o →
    Completes (.outputRelease e .uncorr) s (fun t => t = s.dev.queueEcc e .uncorr)) ∧
  (∀ s (e : Fin 96) i o, (s.dev.eng e).outq[i]? = some o → fld o.desc 3 0 = 1 → o.committed = false → o.muted = false →
    o.isSealed = true → o.stepped = false → s.dev.mode = .run → reached s.dev.tb.st (o.rel - 64) = true → s.dev.red.demoted = false →
    (bitOf o.desc 12 = true → s.dev.gateOpen = true) →
    Completes (.eventCommit (.shortOut e i)) s (fun t => t = s.dev.setEng e (fun en =>
      { en with outq := en.outq.map (fun (x : Out) => if x == o then { x with committed := true } else x) }))) ∧
  (∀ s (n : Fin 16) i o, (s.dev.trdl n).wave[i]? = some o → o.committed = false → s.dev.waveNear n o.target = true → s.dev.mode = .run →
    s.dev.red.demoted = false → (bitOf o.desc 12 = true → s.dev.gateOpen = true) →
    Completes (.eventCommit (.waveOut n i)) s (fun t => t = s.dev.setTrdl n (fun t => { t with wave := t.wave.map (fun (x : WaveOut) =>
      if x == o then { x with committed := true, commitTick := s.dev.tb.now / 4 } else x) }))) ∧
  (∀ s (t : Fin 8), s.dev.patRuns t 0 = true → s.dev.mode = .run → s.dev.patCommits t = [] →
    (tget none s.dev.trd.patPos t = none ∨ tget none s.dev.trd.patPos t = some (s.dev.patNow / 1024, s.dev.patNow % 1024)) →
    ((s.dev.patNow + 1) * 2 ^ 38 : Nat) - (s.dev.total s.dev.patMaster : Int) ≤ 16 * s.dev.rate s.dev.patMaster →
    Completes (.eventCommit (.pattern t)) s (fun d => d = { s.dev with trd :=
      { s.dev.trd with patCommit := tmod [] s.dev.trd.patCommit t (fun l => l ++
        [⟨(s.dev.patNow + 1) % 2 ^ 42, s.dev.patWord t ((s.dev.patNow + 1) % 1024), s.dev.gateOpen, s.dev.red.demoted,
          s.dev.tb.now / 4⟩]) } })) ∧
  (∀ s who v, s.dev.trd.startAt = some (who, v) → reached s.dev.tb.st (s.dev.r TRD_START_AT - 64) = true →
    Completes (.eventCommit .start) s (fun d => d = { s.dev with trd := { s.dev.trd with
      startAt := none, startDue := s.dev.trd.startDue ++ [(who, v, s.dev.r TRD_START_AT)] } })) ∧
  (∀ s (n : Fin 16) i o, (s.dev.trdl n).wave[i]? = some o → o.committed = true → s.dev.waveReached n o.target = true →
    Completes (.waveCompareReached n i) s (fun t => ∃ x ∈ (s.dev.trdl n).wave, x.desc = o.desc ∧ x.target = o.target ∧ x.chan = o.chan ∧
      t = s.dev.waveFire n x)) ∧
  (∀ s (n : Fin 16) i o, (s.dev.trdl n).wave[i]? = some o → o.committed = true → o.commitTick + 32 ≤ s.dev.tb.now / 4 →
    s.dev.waveReached n o.target = false →
    Completes (.waveSlipFire (.waveOut n i)) s (fun t => t = (s.dev.waveFire n o).trdBell n 6)) ∧
  (∀ s (t : Fin 8) c l, s.dev.patCommits t = c :: l → c.commitTick + 32 ≤ s.dev.tb.now / 4 →
    Completes (.waveSlipFire (.pattern t)) s (fun d => d = (s.dev.patFire t c.pos).trdBell s.dev.patMaster 6))

/-- CUT: the commands on channels that a port takes and finishes (R214, R216, R217, R219-R221, R234, R237). What the port shows at
the end is `Obligations.CommandPortCompletes`.
Choices of the model in it: log entries 15, 18, 19. -/
def Obligations.ChannelCommandsComplete : Prop :=
  (∀ s (k : Fin 4) who c x, s.dev.portReady k 1 → s.dev.freeChan = some c →
    (s.dev.draft k c).descCheck c = none → (s.dev.drafted k c).placeCreate c = .inr x →
    Completes (.create k who) s (fun t => ∃ g y, g = s.dev.issueGen 1 c ∧ y = (x.restoreCells c []).setGen 1 c g ∧
      t = (if (y.chan c).remote then y else y.mgmtTake c).cmdDone k 0 (some (mkHandle 1 g c).toNat) ∧
      t.r (CUT_RES k 0) = mkHandle 1 g c)) ∧
  (∀ s (k : Fin 4) who c, s.dev.portReady k 2 → s.dev.named k .created → c = hIdx (s.dev.arg k 0) →
    Completes (.start k who) s (fun t => (t.chan c).st = .armed ∧
      t = ((((s.dev.taken k).idleAct c).armBoundaries c (if bitOf (s.dev.arg k 1) 0 then some (s.dev.arg k 2) else none)).setChan c
        (fun ch => { ch with st := .armed })).cmdDone k 0)) ∧
  (∀ s (k : Fin 4) who c, s.dev.portReady k 2 → s.dev.named k .faulted → c = hIdx (s.dev.arg k 0) →
    (tfind s.dev.cut.acts c).isSome = true →
    Completes (.start k who) s (fun t => (t.chan c).st = .recovering ∧ (t.chan c).recF = some s.dev.tb.st ∧
      (t.chan c).replay = (s.dev.chan c).journal.length)) ∧
  (∀ s (k : Fin 4) who c, s.dev.portReady k 3 → s.dev.named k .running → (s.dev.chan c).mig = none → c = hIdx (s.dev.arg k 0) →
    Completes (.stop k who) s (fun t => (t.chan c).st = .stopping ∧
      t = ((s.dev.taken k).setChan c (fun ch => { ch with st := .stopping, stopReq := true })).cmdDone k 0)) ∧
  (∀ s (k : Fin 4) who c, s.dev.portReady k 3 → s.dev.named k .armed → c = hIdx (s.dev.arg k 0) →
    Completes (.stop k who) s (fun t => (t.chan c).st = .created ∧
      t = ((s.dev.taken k).setChan c (fun ch => { ch with st := .created, startAt := none })).cmdDone k 0)) ∧
  (∀ s (k : Fin 4) who c st, s.dev.portReady k 4 → s.dev.named k st → (st = .created ∨ st = .faulted ∨ st = .recovering) →
    c = hIdx (s.dev.arg k 0) →
    Completes (.destroy k who) s (fun t => t = ((s.dev.taken k).destroyChan c).cmdDone k 0)) ∧
  (∀ s (k : Fin 4) who c, s.dev.portReady k 5 → s.dev.checkHandle 1 (s.dev.arg k 0) = .ok → c = hIdx (s.dev.arg k 0) →
    Completes (.query k who) s (fun t => t.r (CUT_RES k 0) = s.dev.chanWord c 1 ∧ t.r (CUT_RES k 1) = s.dev.chanWord c 2 ∧
      (t.chan c).st = (s.dev.chan c).st ∧ (t.chan c).late = ((s.dev.chan c).late && !(bitOf (s.dev.arg k 1) 0)) ∧ t.mem = s.dev.mem)) ∧
  (∀ s (k : Fin 4) who c x, s.dev.portReady k 6 → s.dev.named k .running → c = hIdx (s.dev.arg k 0) → s.dev.isHeld c = false →
    (s.dev.chan c).remote = false →
    (s.dev.taken k).placeOn (512 + c) ((s.dev.taken k).migrateList c (s.dev.arg k 1)) = .inr x →
    (x.chan c).st = .running →
    Completes (.migrate k who) s (fun t => t = (x.restoreCells (512 + c) (x.cells c)).setChan c (fun ch =>
        { ch with st := .migrating, mig := some ⟨some k.val, none, false, 0, none, false, none, none⟩ }))) ∧
  (∀ s (k : Fin 4) who c, s.dev.portReady k 7 → s.dev.named k .running → c = hIdx (s.dev.arg k 0) → (s.dev.chan c).remote = false →
    Completes (.checkpoint k who) s (fun t => t = (s.dev.taken k).setChan c (fun ch =>
        { ch with ckptWanted := true, ckptFull := true, ckptPorts := ch.ckptPorts ++ [k.val] }))) ∧
  (∀ s (k : Fin 4) who c, s.dev.portReady k 7 → s.dev.named k .created → c = hIdx (s.dev.arg k 0) → (s.dev.chan c).remote = false →
    Completes (.checkpoint k who) s (fun t => t = ((s.dev.taken k).ckptNow c).cmdDone k 0 (some ((s.dev.taken k).ckptNow c |>.chan c).epochs)))

/-- CUT: OPEN, CLOSE and unknown codes (R12, R121, R218, R230, R465, R466, R485).
Choices of the model in it: log entries 17, 20. -/
def Obligations.HandleCommandsComplete : Prop :=
  (∀ s (k : Fin 4) who m g, s.dev.portReady k 8 → s.dev.arg k 0 = 2 → s.dev.partyBad (s.dev.arg k 1) = none →
    s.dev.partyBad (s.dev.arg k 2) = none → s.dev.arg k 1 ≠ s.dev.arg k 2 →
    (isHostParty (s.dev.arg k 1) && isHostParty (s.dev.arg k 2)) = false → s.dev.arg k 3 &&& 0xFFFFE0E0 = 0 →
    (List.range 256).find? (fun m => !(s.dev.b (MBX_MSTAT m) 31)) = some m → g = s.dev.issueGen 2 m →
    Completes (.openMailbox k who) s (fun t => t = (((((s.dev.taken k).setGen 2 m g).w (MBX_MSTAT m)
        (w32 (g + 65536 * fld (s.dev.arg k 3) 4 0 + 2 ^ 24 * fld (s.dev.arg k 3) 12 8 + 2 ^ 31))).w (MBX_PARTY m 0) (s.dev.arg k 1)).w
        (MBX_PARTY m 1) (s.dev.arg k 2)).cmdDone k 0 (some (mkHandle 2 g m).toNat) ∧ t.r (CUT_RES k 0) = mkHandle 2 g m)) ∧
  (∀ s (k : Fin 4) who i g, s.dev.portReady k 8 → s.dev.arg k 0 = 3 → (∀ j, j < 8 → s.dev.r (FBR_STAGE j) &&& routeReserved j = 0) →
    (∀ key, routeKey (s.dev.r (FBR_STAGE 0)) (s.dev.r (FBR_STAGE 1)) = some key → s.dev.routeOf key = none) →
    fld (s.dev.r (FBR_STAGE 4)) 13 0 + fld (s.dev.r (FBR_STAGE 4)) 23 16 ≤ 16384 →
    (List.range 4096).find? (fun i => !(s.dev.b (FBR_ROUTE i 0) 31)) = some i → g = s.dev.issueGen 3 i →
    Completes (.openRoute k who) s (fun t => ∃ x : Dev, t = x.cmdDone k 0 (some (mkHandle 3 g i).toNat) ∧ x.genOf 3 i = g ∧
      x.holds 3 i = true ∧ (∀ j, 1 ≤ j → j < 8 → x.r (FBR_ROUTE i j) = s.dev.r (FBR_STAGE j)) ∧
      x.f FBR_STAT 28 16 = (s.dev.f FBR_STAT 28 16 + 1) % 8192 ∧ t.r (CUT_RES k 0) = mkHandle 3 g i ∧ t.mem = s.dev.mem)) ∧
  (∀ s (k : Fin 4) who t g, s.dev.portReady k 8 → s.dev.arg k 0 = 4 → s.dev.checkHandle 1 (s.dev.arg k 2) = .ok → t = (s.dev.arg k 1).toNat →
    t < 8 → s.dev.holds 4 t = false → g = s.dev.issueGen 4 t →
    Completes (.openPattern k who) s (fun d => d.r (CUT_RES k 0) = mkHandle 4 g t ∧ d.genOf 4 t = g ∧
      d.trd = { s.dev.trd with patOwner := tset s.dev.trd.patOwner t (some (hIdx (s.dev.arg k 2))) } ∧ d.mem = s.dev.mem)) ∧
  (∀ s (k : Fin 4) who i g x, s.dev.portReady k 8 → s.dev.arg k 0 = 5 → (List.range 256).find? (fun i => !(s.dev.holds 5 i)) = some i →
    fld (s.dev.arg k 1) 4 0 < 22 → g = s.dev.issueGen 5 i →
    x = { (s.dev.taken k).setGen 5 i g with cut := { ((s.dev.taken k).setGen 5 i g).cut with
      reserv := tset s.dev.cut.reserv i (some (fld (s.dev.arg k 1) 4 0, fld (s.dev.arg k 1) 10 8, (s.dev.arg k 2).toNat, fld (s.dev.arg k 3) 15 0)) } } →
    (fld (s.dev.arg k 1) 4 0 < 20 → x.portOk (fld (s.dev.arg k 1) 4 0) (fld (s.dev.arg k 1) 10 8) = true) →
    Completes (.openStreamReservation k who) s (fun t => t = x.cmdDone k 0 (some (mkHandle 5 g i).toNat) ∧
      t.r (CUT_RES k 0) = mkHandle 5 g i)) ∧
  (∀ s (k : Fin 4) who kind i, s.dev.portReady k 9 → kind = hKind (s.dev.arg k 0) → 2 ≤ kind → kind ≤ 5 → i = hIdx (s.dev.arg k 0) →
    s.dev.checkHandle kind (s.dev.arg k 0) = .ok →
    Completes (.close k who) s (fun t => t = ((s.dev.taken k).closeObj kind i).cmdDone k 0 ∧
      t.genOf kind i = nextGen (s.dev.genOf kind i))) ∧
  (∀ s (k : Fin 4) who kind, s.dev.portReady k 9 → kind = hKind (s.dev.arg k 0) → 2 ≤ kind → kind ≤ 5 →
    s.dev.checkHandle kind (s.dev.arg k 0) ≠ .ok →
    Completes (.close k who) s (fun t => t = (s.dev.taken k).cmdDone k (s.dev.checkHandle kind (s.dev.arg k 0)).status)) ∧
  (∀ s (k : Fin 4) who code, s.dev.portReady k 3 → code.toNat = 0 ∨ 9 < code.toNat →
    Completes (.unknownCutterCmd k who code) s (fun t => t = (s.dev.taken k).cmdDone k 14))

/-- CUT: boundaries, the ends of stops, checkpoint epochs, recoveries and takeovers, the two views and automatic moves (R220, R221,
R225, R234, R239, R249, R361).
Choices of the model in it: log entries 26, 27, 29, 90. -/
def Obligations.ChannelEventsComplete : Prop :=
  (∀ s (c : Fin 512), (s.dev.chan c).st = .running → s.dev.scanTask c = false → s.dev.boundaryDue c = true →
    (s.dev.chan c).backTo = none →
    Completes (.periodBoundary c) s (fun t => t = (s.dev.boundaryNext c).boundary c (s.dev.boundarySt c) true)) ∧
  (∀ s (c : Fin 512) p, (s.dev.chan c).st = .stopping → (s.dev.chan c).stopAt = some p → s.dev.drained c = true →
    reached s.dev.tb.st (p + w32 (s.dev.chan c).settle) = true → (s.dev.chan c).ckptPorts = [] → (s.dev.chan c).destroyPort = none →
    Completes (.channelStopComplete c) s (fun t => (t.chan c).st = .created ∧ t = s.dev.setChan c (fun ch =>
      { ch with st := .created, stopReq := false, stopAt := none, startAt := none, ckptPorts := [] }))) ∧
  (∀ s (c : Fin 512) e, e = s.dev.ckptSettled c → (e.chan c).st = .running → fld (e.desc c 6) 27 16 ≠ 0 →
    (e.chan c).epochAt + fld (e.desc c 6) 27 16 * 10000 ≤ e.tb.now →
    Completes (.checkpointEpoch c) s (fun t => t = e.setChan c (fun ch => { ch with ckptWanted := true, epochAt := e.tb.now }))) ∧
  (∀ s (c : Fin 512), s.dev.replayOver c = true → (s.dev.chan c).takeover = false →
    Completes (.recoveryComplete c) s (fun t => t = ((s.dev.afterReplay c).ringBit .cut 7).satf CUT_MIGRATE_CNT 31 16 1 ∧
      t.b CUT_BELL 7 = true ∧ ((s.dev.chan c).backTo = none → (s.dev.chan c).stopReq = true → (t.chan c).st = .stopping))) ∧
  (∀ s (c : Fin 512), s.dev.replayOver c = true → (s.dev.chan c).takeover = true →
    Completes (.takeoverReplayDone c) s (fun t => (t.chan c).takeover = false ∧ (t.chan c).recF = none ∧ t.mem = s.dev.mem ∧
      (∀ a, t.r a = s.dev.r a))) ∧
  (∀ s c, c ∈ s.dev.liveChans → (s.dev.chan c).remote = false →
    (tget none s.dev.cut.mgmt c ≠ s.dev.slotOf c ∨ s.dev.stateAgrees c = false) → s.dev.isHeld c = false →
    Completes (.tableCompare .clean) s (fun t => t.b CUT_STAT 0 = true ∧ c ∈ t.cut.held ∧ t.b CUT_BELL 9 = true ∧ t.mem = s.dev.mem)) ∧
  (∀ s e, (∀ c ∈ s.dev.liveChans, (s.dev.chan c).remote = true ∨ (tget none s.dev.cut.mgmt c = s.dev.slotOf c ∧ s.dev.stateAgrees c = true)) →
    Completes (.tableCompare e) s (fun t => t = s.dev.tableEcc e)) ∧
  (∀ s who, s.dev.reaches CUT_CTRL → (∀ c ∈ s.dev.cut.held, (s.dev.chan c).st ≠ .recovering) →
    Completes (.resync who) s (fun t => t.b CUT_STAT 0 = false ∧ t.cut.held = [] ∧
      (∀ c ∈ s.dev.liveChans, (s.dev.chan c).remote = false → tget none t.cut.mgmt c = s.dev.slotOf c) ∧ t.mem = s.dev.mem)) ∧
  (∀ s (c : Fin 512) x, s.dev.b CUT_CTRL 0 = true → s.dev.modeIn [.stop, .run, .spare] = true → (s.dev.chan c).st = .running →
    s.dev.isHeld c = false → (s.dev.chan c).remote = false → s.dev.placeOn (512 + c) (s.dev.engineList c) = .inr x → (x.chan c).st = .running →
    Completes (.automaticMove c) s (fun t => t = (x.restoreCells (512 + c) (x.cells c)).setChan c (fun ch =>
        { ch with st := .migrating, mig := some ⟨none, none, false, 0, none, false, none, none⟩ })))

/-- SCN: the requests of SCN_CTRL, a station's publish and a write of the retained area (R443, R449, R450, R453, R458, R461).
Choices of the model in it: log entry 33. -/
def Obligations.ScanRequestsComplete : Prop :=
  (∀ s who v x, s.dev.reaches SCN_CTRL → x = s.dev.wf SCN_CTRL 5 4 (fld v 5 4) → fld v 3 1 = 0 → bitOf v 6 = false →
    s.dev.scn.state = .stop → s.dev.scn.started = false → s.dev.mode = .run → periodNs s.dev ≠ 0 → x.checkTasks (x.taskSet (SCN_TASK 0)) = 0 →
    Completes (.scanRun who v) s (fun t => t.f SCN_STAT 6 2 = 0 ∧ t = (x.scnStatus 0).setScn (fun c =>
      { c with started := true, nextLatch := some x.firstLatch,
               tasks := x.taskSet (SCN_TASK 0) }))) ∧
  (∀ s who v x, s.dev.reaches SCN_CTRL → x = s.dev.wf SCN_CTRL 5 4 (fld v 5 4) → bitOf v 0 = false → fld v 3 2 = 0 → bitOf v 6 = false →
    s.dev.scn.state = .run → Completes (.scanStop who v) s (fun t => t = (x.scnStatus 0).setScn (fun c => { c with stopReq := true }))) ∧
  (∀ s who v x, s.dev.reaches SCN_CTRL → x = s.dev.wf SCN_CTRL 5 4 (fld v 5 4) → fld v 1 0 = 0 → bitOf v 3 = false → bitOf v 6 = false →
    s.dev.scn.state = .run → s.dev.debug = true →
    Completes (.scanHold who v) s (fun t => t = ((x.scnStatus 0).scanSettle).setScn (fun c => { c with state := .hold, releaseReq := false }))) ∧
  (∀ s who v x, s.dev.reaches SCN_CTRL → x = s.dev.wf SCN_CTRL 5 4 (fld v 5 4) → fld v 2 0 = 0 → bitOf v 6 = false →
    s.dev.scn.state = .hold → Completes (.scanRelease who v) s (fun t => t = (x.scnStatus 0).setScn (fun c => { c with releaseReq := true }))) ∧
  (∀ s who v x, s.dev.reaches SCN_CTRL → x = s.dev.wf SCN_CTRL 5 4 (fld v 5 4) → fld v 3 0 = 0 → s.dev.scn.state ≠ .stop →
    x.checkTasks (x.taskSet (SCN_CHG_TASK 0)) = 0 → dupKey (x.instKeys x.instOther) = false →
    latNs x + x.taskLat (x.taskSet (SCN_CHG_TASK 0)) + outNs x + 2000 + 5 * x.f SCN_INST_CFG 12 0 ≤ periodNs x →
    Completes (.scanChange who v) s (fun t => t = (x.scnStatus 0).wb SCN_STAT 10 true)) ∧
  (∀ s who (n : Fin 64) v, s.dev.reaches (SCN_STN_PUB n) → fld v 1 0 = 3 → s.dev.scn.phase ≠ .latched →
    Completes (.stationPublish who n v) s (fun t => t = (s.dev.setStn n (fun x =>
      { x with published := true, queued := false, fill := !x.fill })).incf (SCN_STN_STAT n) 31 16 1)) ∧
  (∀ s who (n : Fin 64) v, s.dev.reaches (SCN_STN_PUB n) → fld v 1 0 = 3 → s.dev.scn.phase = .latched → (s.dev.stn n).queued = false →
    Completes (.stationPublish who n v) s (fun t => t = s.dev.setStn n (fun x => { x with queued := true }))) ∧
  (∀ s who (i : Fin 65536) v, s.dev.reaches (SCN_RET i) → isHost who = true → s.dev.scn.state = .stop →
    Completes (.retainedWrite who i v) s (fun t => t = s.dev.mwordSet (keyRet + 4 * i) v)) ∧
  (∀ s who (i : Fin 65536) v, s.dev.reaches (SCN_RET i) → isHost who = false → s.dev.scn.state = .run → s.dev.scn.phase = .idle →
    s.dev.scn.log.length < 2048 →
    Completes (.retainedWrite who i v) s (fun t => t = s.dev.setScn (fun c => { c with log := c.log ++ [(i.val, v)] })))

/-- SCN: the instants of the cycle (R444-R450, R458, R459). -/
def Obligations.ScanCycleComplete : Prop :=
  (∀ s t0 x, s.dev.scn.nextLatch = some t0 → reached s.dev.tb.st t0 = true →
    x = (s.dev.setScn (fun c => { c with nextLatch := some (t0 + w32 (periodNs s.dev)) })).bindNext → s.dev.agreeing = false →
    s.dev.pwr.pfw = false → s.dev.scn.started = false → x.scn.started = false → x.scn.state = .run → x.scn.tasks.any x.taskLost = false →
    Completes (.scanLatch .clean) s (fun t => t = x.latchAt t0)) ∧
  (∀ s t0 x, s.dev.scn.nextLatch = some t0 → reached s.dev.tb.st t0 = true →
    x = (s.dev.setScn (fun c => { c with nextLatch := some (t0 + w32 (periodNs s.dev)) })).bindNext → s.dev.agreeing = false →
    s.dev.pwr.pfw = false → s.dev.mode = .run → x.scn.started = true → x.scn.tasks.any x.taskLost = false →
    Completes (.scanLatch .clean) s (fun t => t = x.scanRestart.latchAt t0)) ∧
  (∀ s t0 x, s.dev.scn.nextLatch = some t0 → reached s.dev.tb.st t0 = true →
    x = (s.dev.setScn (fun c => { c with nextLatch := some (t0 + w32 (periodNs s.dev)) })).bindNext → s.dev.agreeing = false →
    s.dev.pwr.pfw = false → s.dev.scn.started = false → x.scn.started = false → x.scn.state = .hold → x.scn.releaseReq = false →
    x.scn.tasks.any x.taskLost = false →
    Completes (.scanLatch .clean) s (fun t => t = x.cnt (SCN_CNT 2))) ∧
  (∀ s t0, s.dev.scn.nextLatch = some t0 → reached s.dev.tb.st t0 = true → s.dev.agreeing = true ∨ s.dev.pwr.pfw = true →
    Completes (.scanLatch .clean) s (fun t =>
      t = s.dev.setScn (fun c => { c with nextLatch := some (t0 + w32 (periodNs s.dev)) }))) ∧
  (∀ s, s.dev.scn.phase = .latched → reached s.dev.tb.st s.dev.scn.tE = true →
    Completes .scanCopyDone s (fun t => t.scn.phase = .copied ∧ t.scn.firstCycle = false ∧ t.scn.afterChange = false)) ∧
  (∀ s, s.dev.scn.phase = .copied → reached s.dev.tb.st (s.dev.scn.tK - 64) = true →
    (s.dev.scn.tasks.filterMap s.dev.chanOf).all s.dev.taskSealed = true → s.dev.scn.withheld = false →
    Completes .scanSealJudge s (fun t => t = s.dev.setScn (fun c => { c with phase := .judged, commits := true, overruns := 0 }))) ∧
  (∀ s, s.dev.scn.phase = .copied → reached s.dev.tb.st (s.dev.scn.tK - 64) = true →
    ((s.dev.scn.tasks.filterMap s.dev.chanOf).all s.dev.taskSealed = false ∨ s.dev.scn.withheld = true) →
    Completes .scanSealJudge s (fun t => t.scn = { s.dev.scn with
      phase := .judged, commits := false, overruns := s.dev.scn.overruns + 1, log := [] } ∧ t.mem = s.dev.mem)) ∧
  (∀ s x, s.dev.scn.phase = .judged → reached s.dev.tb.st s.dev.scn.tK = true → s.dev.scn.commits = true → s.dev.scn.state = .run →
    x = (((s.dev.each s.dev.stnUsed (fun d n => d.stnCommit n)).applyLog).cnt (SCN_CNT 0)).setScn (fun c => { c with retValid := true }) →
    x.b SCN_STAT 10 = false → x.scn.stopReq = false → x.b SCN_CFG 24 = false →
    Completes (.scanCommit .clean) s (fun t => t = x.setScn (fun c => { c with
      phase := .committed, commits := true, log := c.nextLog, nextLog := [],
      commitTo := x.stnUsed.filter (fun n => !(x.stn n).dropped) }))) ∧
  (∀ s e, s.dev.scn.phase = .judged → reached s.dev.tb.st s.dev.scn.tK = true → s.dev.scn.commits = false →
    s.dev.scn.stopReq = false → s.dev.b SCN_CFG 24 = false →
    Completes (.scanCommit e) s (fun t => t = s.dev.setScn (fun c => { c with
      phase := .committed, commits := false, log := c.nextLog, nextLog := [],
      commitTo := s.dev.stnUsed.filter (fun n => !(s.dev.stn n).dropped) }))) ∧
  (∀ s x, s.dev.scn.phase = .committed → reached s.dev.tb.st s.dev.scn.tD = true → x = s.dev.setScn (fun c => { c with phase := .idle }) →
    Completes .scanOutputDone s (fun t => t = (x.each x.scn.commitTo
      (fun d n => d.scanEvent (d.r (SCN_STN_CFG n 0)) 1 (if s.dev.scn.commits then 0 else 2) n s.dev.scn.tD)).sleepFlush))

/-- SEC: the commands of SEC_CMD (R491-R496, R499-R501, R506, R507).
Choices of the model in it: log entries 21, 37, 38. -/
def Obligations.SecurityCommandsComplete : Prop :=
  (∀ s who v h i, s.dev.secTakes who v h [0] [.provision] → 4 ≤ i → i < 52 → s.dev.otp i ≠ 0 → s.dev.sec.rngFail = false → s.dev.b SEC_CTRL 0 = true →
    Completes (.provision who v h) s (fun t => t.otp 0 = 0xFFFFFFFF ∧
      (∀ j, j < 12 → t.otp (65 + j) = s.dev.otp (65 + j) ||| Config.randomWord (s.dev.freeCtr + j)) ∧
      (∀ j, j ≠ 0 → (j < 65 ∨ 77 ≤ j) → t.otp j = s.dev.otp j) ∧ t.mem = s.dev.mem)) ∧
  (∀ s who v h, s.dev.secTakes who v h [1] [.provision, .stop] →
    Completes (.field who v h 0) s (fun t => t = ((s.dev.otpOr 1 0xFFFFFFFF 0).secDone 0).tapView s.dev ∧ t.otp 1 = 0xFFFFFFFF)) ∧
  (∀ s who v h, s.dev.secTakes who v h [1, 2] [.provision, .stop, .run, .safe] →
    Completes (.retire who v h 0) s (fun t => t.otp 2 = 0xFFFFFFFF ∧ t.keyGone = true ∧ t.sec.dbgUnlocked = false ∧ t.mem = s.dev.mem)) ∧
  (∀ s who v h, s.dev.secTakes who v h [1, 2] [.provision, .stop, .run, .spare] → s.dev.keyGone = false →
    Completes (.attest who v h) s (fun t => t = ((s.dev.bufSet 0 (bytesWords 24 (beBytes 96 (Config.p384Sign (s.dev.otpBytes 65 12)
      (sha384b (s.dev.buf 0 8 ++ s.dev.measure 0 ++ s.dev.measure 1 ++ s.dev.measure 2 ++ s.dev.measure 3 ++ s.dev.otpBytes 0 4 ++
        s.dev.uidBytes ++ (List.range 64).map (fun c => BitVec.ofNat 8 (s.dev.roll c))))).toNat))).secDone 0).tapView s.dev)) ∧
  (∀ s who v h, s.dev.secTakes who v h [0, 1, 2, 3] [.provision, .stop, .run] →
    Completes (.extend who v h) s (fun t => t.measure 3 = sha384b (s.dev.measure 3 ++ s.dev.buf 0 12) ∧
      (∀ j, j ≠ 3 → t.measure j = s.dev.measure j) ∧ t.sec.otp = s.dev.sec.otp ∧ t.mem = s.dev.mem)) ∧
  (∀ s who v h, s.dev.secTakes who v h [1, 2] [.stop] → s.dev.f SEC_CMD_ARG 15 8 ≤ 128 →
    s.dev.roll (s.dev.f SEC_CMD_ARG 5 0) < s.dev.f SEC_CMD_ARG 15 8 →
    s.dev.f SEC_CMD_ARG 15 8 ≤ tget 0 s.dev.sec.booted (s.dev.f SEC_CMD_ARG 5 0) →
    Completes (.rollfwd who v h) s (fun t => (∀ i, i < 4 → t.otp (256 + 4 * s.dev.f SEC_CMD_ARG 5 0 + i) =
        s.dev.otp (256 + 4 * s.dev.f SEC_CMD_ARG 5 0 + i) ||| w32 (2 ^ (Nat.min 32 (s.dev.f SEC_CMD_ARG 15 8 - 32 * i)) - 1)) ∧ t.mem = s.dev.mem)) ∧
  (∀ s who v h i, s.dev.secTakes who v h [0, 1, 2, 3] anyMode → i = s.dev.f SEC_CMD_ARG 8 0 → s.dev.otpMay i = true →
    s.dev.modeIn [.provision, .stop] = true → (i = 52 → fld (s.dev.otp 52 ||| s.dev.r (SEC_BUF 0)) 3 0 ≠ 15) →
    Completes (.otpProg who v h 0) s (fun t => t = ((s.dev.otpOr i (s.dev.r (SEC_BUF 0)) 0).secDone 0).tapView s.dev ∧
      t.otp i = s.dev.otp i ||| s.dev.r (SEC_BUF 0))) ∧
  (∀ s who v h, s.dev.secTakes who v h [1, 2] anyMode → s.dev.sec.rngFail = false → s.dev.b SEC_CTRL 0 = true →
    Completes (.dbgChal who v h) s (fun t => t.sec = { s.dev.sec with
      challenge := some ((List.range 8).map (fun i => Config.randomWord (s.dev.freeCtr + i))) } ∧ t.mem = s.dev.mem)) ∧
  (∀ s who v h c, s.dev.secTakes who v h [1, 2] anyMode → s.dev.sec.challenge = some c → s.dev.sec.dbgFails < 3 →
    sha384b (s.dev.buf 0 24) = s.dev.otpBytes 53 12 →
    Completes (.dbgUnlock who v h) s (fun t => t.sec.challenge = none ∧
      t.sec.dbgUnlocked = (s.dev.sec.dbgUnlocked || Config.p384Verify (s.dev.buf 0 24) (sha384b (wordBytes c ++ s.dev.uidBytes)) (s.dev.buf 24 24)) ∧
      t.mem = s.dev.mem)) ∧
  (∀ s who v h, s.dev.secTakes who v h [0, 1, 2, 3] anyMode →
    Completes (.dbgLock who v h) s (fun t => t = ((s.dev.setSec (fun c => { c with dbgUnlocked := false })).secDone 0).tapView s.dev)) ∧
  (∀ s who v h healthy, s.dev.secTakes who v h [0, 1, 2, 3] anyMode →
    Completes (.rngRestart who v h healthy) s (fun t => t.sec = { s.dev.sec with rngFail := !healthy } ∧
      t = (if healthy then (s.dev.setSec (fun c => { c with rngFail := false })).secDone 0
        else ((s.dev.setSec (fun c => { c with rngFail := true })).ringBit .sec 1).secDone 6).tapView s.dev)) ∧
  (∀ s who v h, s.dev.secTakes who v h [0, 1, 2, 3] anyMode → (fld v 7 0 = 0 ∨ 0x0B < fld v 7 0) →
    Completes (.unknownSecCmd who v h) s (fun t => t = (s.dev.secDone 8).tapView s.dev))

/-- SEC: keys, the cipher queues and the random generator (R502-R504, R506).
Choices of the model in it: log entries 10, 11, 38. -/
def Obligations.SecurityUnitComplete : Prop :=
  (∀ s who v, s.dev.reaches SEC_KEY_CMD → Completes (.keyWrite who v) s (fun t => t = s.dev.setSec (fun c =>
      { c with keys := tset c.keys (fld v 7 0) ((List.range 8).map (fun i => tget 0 s.dev.sec.keyWr i)) }))) ∧
  (∀ s who v, s.dev.reaches SEC_KEY_CMD → Completes (.keyErase who v) s (fun t => t = s.dev.setSec (fun c =>
      { c with keys := terase c.keys (fld v 7 0) }))) ∧
  (∀ s (e : Fin 96) (q : Fin 16) v c ev, s.dev.reaches (SEC_CQ_GO q) → (s.dev.eng e).cur = some c → c < 512 →
    s.dev.chanOf (s.dev.r (SEC_CQ_CFG q)) = some c → s.dev.granted c 17 = true → bitOf v 0 = true → (s.dev.act c).input = some ev →
    (tget [] s.dev.sec.jobs q).length < 8 → jobBad ((List.range 8).map (fun i => s.dev.r (SEC_CQ_JOB q i))) = false →
    Completes (.cipherGo (.engine e) q v) s (fun t =>
      t = ((s.dev.setSec (fun x => { x with jobs := tset x.jobs q (tget [] s.dev.sec.jobs q ++
        [⟨(List.range 8).map (fun i => s.dev.r (SEC_CQ_JOB q i)), c, (s.dev.act c).ctx.cinSt, (s.dev.act c).ctx.cinQ, ev.stamp.gen, none,
          s.dev.tb.now⟩]) })).wf (SEC_CQ_STAT q) 3 0 ((tget [] s.dev.sec.jobs q).length + 1)).cipherStart q ∧
      (tget [] s.dev.sec.jobs q = [] → s.dev.b SEC_CTRL 1 = true → ∃ j, tget [] t.sec.jobs q = [j] ∧ j.key = some (s.dev.jobKey j.words)) ∧
      t.mem = s.dev.mem ∧ t.cut = s.dev.cut)) ∧
  (∀ s (q : Fin 16) ecc j rest, tget [] s.dev.sec.jobs q = j :: rest → j.key.isSome = true → s.dev.b SEC_CTRL 1 = true →
    Completes (.cipherJobDone q ecc) s (fun t => (tget [] t.sec.jobs q).length = rest.length ∧
      t.sec.jobSeq = wrapAdd 16 s.dev.sec.jobSeq 1 ∧ t.sec.keys = s.dev.sec.keys ∧ t.sec.otp = s.dev.sec.otp)) ∧
  (∀ s who (held : Fin 65) n, s.dev.reaches SEC_RNG → n = Nat.max (s.dev.f SEC_RNG_STAT 6 0) held → 0 < n → s.dev.sec.rngFail = false →
    s.dev.b SEC_CTRL 0 = true → Completes (.rngRead who held) s (fun t =>
      t = ({ s.dev.wf SEC_RNG_STAT 6 0 (n - 1) with freeCtr := s.dev.freeCtr + 1 } : Dev).answer who (Config.randomWord s.dev.freeCtr))) ∧
  (∀ s who, s.dev.reaches SEC_RNG → s.dev.f SEC_RNG_STAT 6 0 = 0 → Completes (.rngRead who 0) s (fun t =>
      t = (s.dev.satf SEC_RNG_STAT 31 16 1).answer who 0)) ∧
  (∀ s, s.dev.rngUp = true → s.dev.hostUp = true → Completes .rngHealthFail s (fun t =>
      t.sec = { s.dev.sec with rngFail := true } ∧ t.mem = s.dev.mem))

/-- MDB: a controller's life and the requests of its buffers (R397, R398, R401-R406, R409, R412).
Choices of the model in it: log entries 35, 36, 83, 93. -/
def Obligations.CanControllersComplete : Prop :=
  (∀ s who (n : Fin 8) v x, s.dev.reaches (MDB_CTRL n) → s.dev.b (MDB_CTRL n) 0 = false →
    (bitOf v 8 = false ∨ s.dev.b (MDB_CTRL n) 8 = true) →
    x = (((s.dev.w (MDB_CTRL n) ((v ||| 1) &&& 0x7FF)).canStateSet n 1).setCtl n (fun x => { x with txErr := 0, rxErr := 0 })).errShow n →
    Completes (.canEnable who n v) s (fun t => t = (x.canCut n).canOffer n ∧
      ((s.dev.ctl n).sending = none → t.b (MDB_CTRL n) 0 = true ∧ t.canState n = 1 ∧ (t.ctl n).txErr = 0 ∧ (t.ctl n).rxErr = 0 ∧
        (t.ctl n).sending = none ∧ t.r (MDB_ERR n) &&& 0x7FFF = 0 ∧ t.mem = s.dev.mem))) ∧
  (∀ s (n : Fin 8), s.dev.canState n = 1 → Completes (.canIntegrationDone n) s (fun t =>
      t = ((s.dev.canStateSet n 2).errState n).canOffer n)) ∧
  (∀ s (n : Fin 8), s.dev.canState n = 5 → Completes (.canRecoveryDone n) s (fun t =>
      t.canState n = 1 ∧ (t.ctl n).txErr = 0 ∧ (t.ctl n).rxErr = 0 ∧ t.mem = s.dev.mem)) ∧
  (∀ s (n : Fin 8) code dp, (s.dev.canState n = 2 ∨ s.dev.canState n = 3) →
    Completes (.canBusError n code dp) s (fun t => t = (s.dev.rxError n code dp).canOffer n)) ∧
  (∀ s who (n : Fin 8) (b : Fin 32), s.dev.reaches (bufStat n b) → fld (s.dev.r (bufCfg n b)) 19 18 = 0 → bitOf (s.dev.r (bufCfg n b)) 0 = false →
    s.dev.b (bufStat n b) 0 = false → Completes (.canPend who n b) s (fun t =>
      t = (if s.dev.recOk n (s.dev.r (MDB_BUF n b 2)) (s.dev.r (MDB_BUF n b 3)) then s.dev.wb (bufStat n b) 0 true
        else (s.dev.wb (bufStat n b) 0 true).reqEnd n b 7).canOffer n)) ∧
  (∀ s who (n : Fin 8) (b : Fin 32) x, s.dev.reaches (bufStat n b) → (s.dev.ctl n).sending ≠ some b.val → s.dev.b (bufStat n b) 0 = true →
    x = s.dev.setCtl n (fun x => { x with abortAt := tset x.abortAt b (s.dev.tb.now + 1) }) →
    Completes (.canAbort who n b) s (fun t => t = (((x.unarm n b).reqEnd n b 4).canOffer n).canOffer n)) ∧
  (∀ s who (n : Fin 8) (b : Fin 32) x, s.dev.reaches (bufStat n b) → (s.dev.ctl n).sending = some b.val →
    (s.dev.ctl n).startAt ≠ s.dev.tb.now →
    x = s.dev.setCtl n (fun x => { x with abortAt := tset x.abortAt b (s.dev.tb.now + 1) }) →
    Completes (.canAbort who n b) s (fun t =>
      t = ((x.wb (bufStat n b) 1 true).setCtl n (fun x => { x with abortSending := true })).canOffer n)) ∧
  (∀ s who (n : Fin 8) (b : Fin 32) x, s.dev.reaches (bufStat n b) → (s.dev.ctl n).sending = some b.val →
    (s.dev.ctl n).startAt = s.dev.tb.now → s.dev.b (bufStat n b) 0 = true →
    x = (s.dev.setCtl n (fun x => { x with abortAt := tset x.abortAt b (s.dev.tb.now + 1) })).unoffer n →
    Completes (.canAbort who n b) s (fun t => t = (((x.unarm n b).reqEnd n b 4).canOffer n).canOffer n)) ∧
  (∀ s (n : Fin 8) (b : Fin 33) tdcv x, (s.dev.ctl n).sending = some b.val → b.val < 32 → s.dev.b (MDB_TDC n) 0 = false →
    (s.dev.ctl n).window = none →
    x = (s.dev.setCtl n (fun x => { x with sending := none, abortSending := false })).txGood n →
    Completes (.canTxEnd n b .sent tdcv) s (fun t =>
      t = (((x.unarm n b).reqEnd n b 1).shadowUp n b).canOffer n)) ∧
  (∀ s who (n : Fin 8) (q : Fin 2) v, s.dev.reaches (MDB_RXQ_POP n q) → bitOf v 0 = true → Completes (.canRxqPop who n q v) s (fun t =>
      tget [] (t.ctl n).rxq q = (tget [] (s.dev.ctl n).rxq q).drop 1 ∧
      t.f (MDB_RXQ_STAT n q) 5 0 = ((tget [] (s.dev.ctl n).rxq q).length - 1) % 64 ∧ t.mem = s.dev.mem)) ∧
  (∀ s who (n : Fin 8) (b : Fin 32), s.dev.reaches (MDB_BUF n b 2) → s.dev.b (bufCfg n b) 0 = true →
    tget 0 (s.dev.ctl n).rxAt b ≠ s.dev.tb.now + 1 →
    Completes (.receiveBufferRead who n b) s (fun t => t = (s.dev.wb (bufStat n b) 2 false).answer who (s.dev.r (MDB_BUF n b 2)))) ∧
  (∀ s who (n : Fin 8) (b : Fin 32), s.dev.reaches (MDB_BUF n b 2) → tget 0 (s.dev.ctl n).rxAt b = s.dev.tb.now + 1 →
    Completes (.receiveBufferRead who n b) s (fun t => t = s.dev.answer who (s.dev.r (MDB_BUF n b 2))))

/-- MDB: reception, time-triggered operation and wakes (R407-R419).
Choices of the model in it: log entries 36, 93. -/
def Obligations.CanReceptionComplete : Prop :=
  (∀ s (n : Fin 8) f x, canShape f = true → s.dev.b (MDB_CTRL n) 0 = true → (s.dev.canState n = 2 ∨ s.dev.canState n = 3) →
    (bitOf f.w1 4 = true → s.dev.b (MDB_CTRL n) 3 = true) → x = ((if s.dev.opEff n < 2 then s.dev.emit (.canAck n) else s.dev).rxGood n).cnt (MDB_CNT n 0) → x.isRef n f.w0 f.w1 = false →
    (∀ i, i < 64 → bitOf (x.r (MDB_FILT n i 0)) 31 = false) → x.f (MDB_CTRL n) 10 9 = 0 →
    Completes (.canFrameReceive n f) s (fun t => t = (x.cnt (MDB_CNT n 4)).canOffer n)) ∧
  (∀ s (n : Fin 8) f x i, canShape f = true → s.dev.b (MDB_CTRL n) 0 = true → (s.dev.canState n = 2 ∨ s.dev.canState n = 3) →
    (bitOf f.w1 4 = true → s.dev.b (MDB_CTRL n) 3 = true) → x = ((if s.dev.opEff n < 2 then s.dev.emit (.canAck n) else s.dev).rxGood n).cnt (MDB_CNT n 0) → x.isRef n f.w0 f.w1 = false →
    (List.range 64).find? (fun i => bitOf (x.r (MDB_FILT n i 0)) 31 && bitOf (x.r (MDB_FILT n i 0)) 29 == bitOf f.w0 29 &&
      ((f.w0 ^^^ x.r (MDB_FILT n i 0)) &&& x.r (MDB_FILT n i 1) &&& 0x1FFFFFFF) == 0) = some i →
    fld (x.r (MDB_FILT n i 1)) 31 29 = 0 → bitOf (x.r (MDB_FILT n i 0)) 30 = false →
    Completes (.canFrameReceive n f) s (fun t =>
      t = (x.rxqPut n 0 ([f.w0, f.w1] ++ (List.range 16).map (fun i => w32 (leAt f.data (4 * i) 4))) (s.dev.canStamp f.back)
        (s.dev.canStamp (f.back + 4 * f.sofAgo)).st i false f.data.length).canOffer n)) ∧
  (∀ s (n : Fin 8) f, canShape f = true → s.dev.b (MDB_CTRL n) 0 = true → (s.dev.canState n = 2 ∨ s.dev.canState n = 3) →
    bitOf f.w1 4 = true → s.dev.b (MDB_CTRL n) 3 = false →
    Completes (.canFrameReceive n f) s (fun t =>
      t = if s.dev.b (MDB_CTRL n) 7 then s.dev.canStateSet n 1 else (s.dev.rxError n 2 false).canOffer n)) ∧
  (∀ s (n : Fin 8) m, s.dev.b (MDB_CTRL n) 8 = true → s.dev.b (MDB_TT_CTRL n) 0 = true → s.dev.b (MDB_TT_CTRL n) 5 = true →
    s.dev.ttCycle n ≠ 0 → s.dev.f (MDB_TT_STAT n) 1 0 ≠ 3 → s.dev.ttK n ≠ (s.dev.ctl n).refK →
    m = 4 * (s.dev.stLong - (s.dev.taiNs - (s.dev.ttK n * s.dev.ttCycle n + (s.dev.r (MDB_TT_PHASE n)).toNat))) →
    (s.dev.ctl n).refSeen ≤ m →
    Completes (.ttCycleBoundary n) s (fun t => t = ((s.dev.setCtl n (fun x => { x with
      refK := s.dev.ttK n, refSeen := 4 * s.dev.stLong })).setCtl n (fun x => { x with refPend := some m })).canOffer n)) ∧
  (∀ s (n : Fin 8) (k : Fin 64) a b m e x, a = s.dev.r (MDB_TRIG n k 0) → b = s.dev.r (MDB_TRIG n k 1) → s.dev.b (MDB_CTRL n) 0 = true →
    s.dev.b (MDB_CTRL n) 8 = true → bitOf b 31 = true → fld a 18 16 = 1 → fld b 13 8 < 2 ^ fld b 2 0 → (s.dev.ctl n).refMark = some m →
    s.dev.ttCycle n ≠ 0 → m + 4 * (fld a 15 0 * s.dev.ntu n) ≤ 4 * s.dev.stLong → (s.dev.ctl n).fired.contains k.val = false →
    s.dev.f (MDB_TT_STAT n) 8 3 % 2 ^ fld b 2 0 = fld b 13 8 → s.dev.f (MDB_TT_STAT n) 1 0 < 2 → e = fld a 23 19 →
    bitOf (s.dev.r (bufCfg n e)) 0 = false → s.dev.b (bufStat n e) 0 = true →
    x = s.dev.setCtl n (fun x => { x with fired := x.fired ++ [k.val], arb := x.arb.filter (fun b => x.once.contains b) }) →
    Completes (.ttTrigger n k) s (fun t =>
      t = ((x.unarm n e).setCtl n (fun x => { x with arb := x.arb ++ [e] })).canOffer n)) ∧
  (∀ s who (n : Fin 8) v, s.dev.reaches (MDB_TT_STAT n) → fld v 1 0 = 0 → s.dev.f (MDB_TT_STAT n) 1 0 = 1 →
    Completes (.ttLevelClear who n v) s (fun t => t = s.dev.wf (MDB_TT_STAT n) 1 0 0)) ∧
  (∀ s (n : Fin 8) (k : Fin 64) dl buf, (s.dev.ctl n).window = some (buf, dl) → dl ≤ 4 * s.dev.stLong → buf = s.dev.f (MDB_TRIG n k 0) 23 19 →
    (s.dev.ctl n).sending ≠ some buf → s.dev.b (bufStat n buf) 0 = true →
    Completes (.txWindowMissed n k) s (fun t => t = (((s.dev.unarm n buf).reqEnd n buf 3).ttRise n 1).canOffer n)) ∧
  (∀ s (n : Fin 2) w0 (dlc : Fin 16) data x, s.dev.pwr.porLow = false → s.dev.pwr.supplyLow = false →
    x = s.dev.wf (MDB_WAKE_STAT n) 7 2 (s.dev.f (MDB_WAKE_STAT n) 7 2 - 1) → x.wakeMatch n w0 dlc (if bitOf w0 30 then [] else data.take (Nat.min 8 dlc)) = true →
    Completes (.mdbWakeFrame n (.classical w0 dlc data)) s (fun t => t = x.mdbWake n 1)) ∧
  (∀ s (n : Fin 2), s.dev.pwr.porLow = false → s.dev.pwr.supplyLow = false → s.dev.f (MDB_WAKE_STAT n) 7 2 < 31 →
    Completes (.mdbWakeFrame n .erroneous) s (fun t => t = s.dev.satf (MDB_WAKE_STAT n) 7 2 1)) ∧
  (∀ s (n : Fin 2), s.dev.pwr.wakeByMdbOnly = true → s.dev.b PWR_WAKE_CAUSE (12 + n) = true → s.dev.modeIn [.stop, .run, .spare] = true →
    s.dev.pwr.trans = .idle → s.dev.pwr.wokeAt + 1000000 * s.dev.f (MDB_WAKE_TIMEOUT n) 15 0 ≤ s.dev.tb.now →
    s.dev.r PWR_WAKE_CAUSE &&& 0x4FFF = 0 → s.dev.pwr.wakeKept = false →
    Completes (.falseWakeCheck n) s (fun t =>
      t = (((s.dev.setPwr (fun p => { p with wakeByMdbOnly := false })).ringBit (.mdb n) 9).sleepBegin true))) ∧
  (∀ s who (n : Fin 2) v, s.dev.reaches (MDB_WAKE_STAT n) → bitOf v 8 = true →
    Completes (.wakeConfirm who n v) s (fun t => t = (s.dev.wb (MDB_WAKE_STAT n) 8 true).keepAwake n))

/-- MAC: frames received and sent, flow control, the monitor and the link views (R280-R284, R292-R300, R311, R327).
Choices of the model in it: log entries 53, 92. -/
def Obligations.PortFramesComplete : Prop :=
  (∀ s (p : Fin 20) f x k, s.dev.rxOn p = true → s.dev.portRetired p = false → f.path = .clean → x = s.dev.tally p 1 f.bytes.length →
    x.rxCheck p f = some k → (x.port p).cut = none → Completes (.frameReceive p f) s (fun t => t = x.tally p k 1)) ∧
  (∀ s (p : Fin 20) f x, s.dev.rxOn p = true → s.dev.portRetired p = false → f.path = .clean → x = s.dev.tally p 1 f.bytes.length →
    x.rxCheck p f = none → isPause f.bytes = true → Completes (.frameReceive p f) s (fun t =>
      t = (x.tallyRxGood p f.bytes.length (cutFcs f.bytes)).pauseFrame p f.bytes)) ∧
  (∀ s (p : Fin 20) f x, s.dev.rxOn p = true → s.dev.portRetired p = false → f.path = .clean → x = s.dev.tally p 1 f.bytes.length →
    x.rxCheck p f = none → isPause f.bytes = false → x.b (MAC_SEC_CFG p) 0 = false → x.vlanAccept p (cutFcs f.bytes) = true →
    Completes (.frameReceive p f) s (fun t => t = x.frameGood p f (cutFcs f.bytes) (s.dev.rxStamp p f.bytes.length f.back))) ∧
  (∀ s (p : Fin 20) (hdr : List Byte) (back : Fin 16) f, hdr.length = 64 → s.dev.rxOn p = true → s.dev.portRetired p = false →
    (s.dev.port p).cut = none → s.dev.f (MAC_SEC_CFG p) 3 2 = 0 → beAt hdr 12 2 ≠ 0x8808 → s.dev.vlanAccept p hdr = true →
    f = s.dev.mkFrame p (hdr ++ [0, 0, 0, 0]) 0 (wrapAdd 16 (s.dev.port p).inSeq 1) (s.dev.rxStamp p 64 back) →
    Completes (.cutThroughStart p hdr back) s (fun t => t = s.dev.cutThrough p { f with bytes := hdr, stored := 64 })) ∧
  (∀ s (p : Fin 20) (q : Fin 8) t0, tfind (s.dev.port p).holdEnd q = some t0 → t0 ≤ s.dev.tb.now →
    Completes (.pauseHoldExpire p q) s (fun t => t.b (MAC_PAUSE_STAT p) q = false ∧ tfind (t.port p).holdEnd q = none ∧
      tfind (t.port p).holdStart q = none ∧ t.mem = s.dev.mem)) ∧
  (∀ s (p : Fin 20) (q : Fin 8) t0, tfind (s.dev.port p).holdStart q = some t0 →
    t0 + 1000 * s.dev.f (MAC_PAUSE_WDOG p) 19 0 ≤ s.dev.tb.now →
    Completes (.pauseWatchdog p q) s (fun t => t = s.dev.holdBreak p q ∧ tfind (t.port p).holdEnd q = none)) ∧
  (∀ s (p : Fin 20) (q : Fin 8) t0, tfind (s.dev.port p).ignoreEnd q = some t0 → t0 ≤ s.dev.tb.now →
    Completes (.pauseIgnoreEnd p q) s (fun t => t.b (MAC_PAUSE_STAT p) (8 + q) = false ∧ tfind (t.port p).ignoreEnd q = none ∧
      t.mem = s.dev.mem)) ∧
  (∀ s (p : Fin 22) x y q e rest, p.val < 20 → y = ((s.dev.gateCatch p).claim p).credits p → y.linkUp p = true → y.portRetired p = false →
    x = y.each (List.range 8) (fun d q => d.dropAged p q) → (x.port p).sending = none → (x.port p).freeAt ≤ x.tb.now →
    x.txOn p = true → (List.range 8).reverse.find? (fun q => x.eligible p q) = some q → x.queue p q = e :: rest →
    Completes (.egressSelect p .clean) s (fun t => t = (x.setQueue p q rest).startFrame p x.tb.now 0 e)) ∧
  (∀ s (p : Fin 22) x q e rest w, 20 ≤ p.val → (s.dev.port p).sending = none →
    x = ((s.dev.credits p).setPort p (fun m => { m with sending := none })).each (List.range 8) (fun d q => d.dropAged p q) →
    (s.dev.credits p).port p = s.dev.port p →
    (List.range 8).reverse.find? (fun q => x.innerMay p q) = some q → x.queue p q = e :: rest → e.f.sampled = true →
    w = Sending.mk e x.tb.now (x.tb.now + x.bytesNs p (32 + e.f.bytes.length)) e.f.bytes false false none false false →
    Completes (.egressSelect p .clean) s (fun t =>
      t = ((x.setQueue p q rest).setPort p (fun m => { m with sending := some w })).innerGive p e)) ∧
  (∀ s (p : Fin 20) w, (s.dev.port p).sending = some w → w.sent ≠ [] → w.endAt ≤ s.dev.tb.now → w.lost = false →
    Completes (.frameTransmitEnd p none .clean) s (fun t =>
      t = (((s.dev.credits p).setPort p (fun m => { m with sending := none })).tallyTx p w w.sent.length).claim p)) ∧
  (∀ s (p : Fin 20) i, (s.dev.port p).intended.find? (fun i => i.seen.isNone && i.dig.isSome && i.due + 1000 ≤ s.dev.tb.now) = some i →
    Completes (.monitorMissing p) s (fun t =>
      t = ((s.dev.setPort p (fun m => { m with intended := m.intended.erase i })).foldInt (i.dig.getD 0)).outputFault p)) ∧
  (∀ s (p : Fin 20) l, s.dev.portsOn = true → s.dev.linkView p l ≠ s.dev.linkUp p → (l.half = true → s.dev.b (MAC_STAT p) 2 = true) →
    Completes (.linkStateChange p l) s (fun t => ∃ x : Dev, t = x.ringBit (.mac p) 0 ∧ x.linkUp p = s.dev.linkView p l ∧
      (x.port p).tally = (s.dev.port p).tally)) ∧
  (∀ s (p : Fin 20) (back : Fin 16) x rest, (s.dev.port p).pdelay = x :: rest → (s.dev.port p).sending = none → (s.dev.port p).freeAt ≤ s.dev.tb.now →
    s.dev.txOn p = true → s.dev.linkUp p = true → s.dev.portRetired p = false → s.dev.releaseGuard p (x.req.length + 4) = true →
    s.dev.b (MAC_SEC_CFG p) 0 = false →
    Completes (.pdelayResponse p back) s (fun t => (t.port p).pdelay = rest ∧ (t.port p).sending.isSome = true ∧ t.mem = s.dev.mem))

/-- MAC: MDIO and the tallies (R289, R290, R299, R304, R305).
Choices of the model in it: log entry 55. -/
def Obligations.PortManagementComplete : Prop :=
  (∀ s (m : Fin 2) (p : Fin 20) v, s.dev.hostUp = true → s.dev.f (MAC_LINK_CFG p) 1 0 = 0 → s.dev.f (MAC_LINK_CFG p) 6 6 = m.val →
    (s.dev.port p).polled = none → tget MdioOp.idle s.dev.mdio m = .idle → s.dev.b (MAC_LINK_CFG p) 12 = false →
    v = w32 (1 + 4 * s.dev.f (MAC_LINK_CFG p) 11 7 + 128) →
    Completes (.mdioPoll m p) s (fun t =>
      t = ((({ s.dev with mdio := tset s.dev.mdio m (.poll p none) } : Dev).wb (MAC_MDIO_STAT m) 0 true).setPort p
        (fun x => { x with polled := some s.dev.tb.now })).emit (.mdio m 1 v (s.dev.f (MAC_MDIO_DATA m) 15 0)
        (!(s.dev.b (MAC_MDIO_CFG m) 8))))) ∧
  (∀ s (m : Fin 2) (p : Fin 20) (x : BitVec 16) speed, tget MdioOp.idle s.dev.mdio m = .poll p none →
    s.dev.f (MAC_LINK_CFG p) 1 0 = 0 → Completes (.mdioComplete m (some x) speed) s (fun t =>
      t = (({ s.dev with mdio := tset s.dev.mdio m .idle } : Dev).wb (MAC_MDIO_STAT m) 0 false).mgmtView p (x.toNat.testBit 2) speed)) ∧
  (∀ s who (m : Fin 2) v h, s.dev.reaches (MAC_MDIO_CMD m) → fld v 1 0 = 0 → tget MdioOp.idle s.dev.mdio m = .idle →
    (h = true → isHost who = true) → Completes (.mdioC22Write who m v h) s (fun t =>
      t = (({ s.dev with mdio := tset s.dev.mdio m (.cmd v) } : Dev).wb (MAC_MDIO_STAT m) 0 true).emit (.mdio m 0 v (s.dev.f (MAC_MDIO_DATA m) 15 0)
        (!(s.dev.b (MAC_MDIO_CFG m) 8))))) ∧
  (∀ s who (m : Fin 2) v h, s.dev.reaches (MAC_MDIO_CMD m) → fld v 1 0 = 1 → tget MdioOp.idle s.dev.mdio m = .idle →
    (h = true → isHost who = true) → Completes (.mdioC22Read who m v h) s (fun t =>
      t = (({ s.dev with mdio := tset s.dev.mdio m (.cmd v) } : Dev).wb (MAC_MDIO_STAT m) 0 true).emit (.mdio m 1 v (s.dev.f (MAC_MDIO_DATA m) 15 0)
        (!(s.dev.b (MAC_MDIO_CFG m) 8))))) ∧
  (∀ s who (m : Fin 2) v h, s.dev.reaches (MAC_MDIO_CMD m) → fld v 1 0 = 2 → tget MdioOp.idle s.dev.mdio m = .idle →
    (h = true → isHost who = true) → Completes (.mdioC45Write who m v h) s (fun t =>
      t = (({ s.dev with mdio := tset s.dev.mdio m (.cmd v) } : Dev).wb (MAC_MDIO_STAT m) 0 true).emit (.mdio m 2 v (s.dev.f (MAC_MDIO_DATA m) 15 0)
        (!(s.dev.b (MAC_MDIO_CFG m) 8))))) ∧
  (∀ s who (m : Fin 2) v h, s.dev.reaches (MAC_MDIO_CMD m) → fld v 1 0 = 3 → tget MdioOp.idle s.dev.mdio m = .idle →
    (h = true → isHost who = true) → Completes (.mdioC45Read who m v h) s (fun t =>
      t = (({ s.dev with mdio := tset s.dev.mdio m (.cmd v) } : Dev).wb (MAC_MDIO_STAT m) 0 true).emit (.mdio m 3 v (s.dev.f (MAC_MDIO_DATA m) 15 0)
        (!(s.dev.b (MAC_MDIO_CFG m) 8))))) ∧
  (∀ s (m : Fin 2) v answer speed, tget MdioOp.idle s.dev.mdio m = .cmd v → fld v 1 0 % 2 = 1 →
    Completes (.mdioComplete m (some answer) speed) s (fun t => ∃ x : Dev, t = x.ringBit .macGlb m ∧ x.f (MAC_MDIO_DATA m) 15 0 = answer.toNat ∧
      x.b (MAC_MDIO_STAT m) 0 = false ∧ tget MdioOp.idle x.mdio m = .idle)) ∧
  (∀ s (m : Fin 2) v answer speed, tget MdioOp.idle s.dev.mdio m = .cmd v → fld v 1 0 % 2 = 0 →
    Completes (.mdioComplete m answer speed) s (fun t => ∃ x : Dev, t = x.ringBit .macGlb m ∧ x.r (MAC_MDIO_DATA m) = s.dev.r (MAC_MDIO_DATA m) ∧
      x.b (MAC_MDIO_STAT m) 0 = false ∧ tget MdioOp.idle x.mdio m = .idle)) ∧
  (∀ s who (p : Fin 20) v, s.dev.reaches (MAC_TALLY_CLR p) → bitOf v 0 = true →
    Completes (.tallyClear who p v) s (fun t => t = s.dev.setPort p (fun m => { m with tally := [] }))) ∧
  (∀ s who (p : Fin 20) (i : Fin 48), s.dev.reaches (MAC_TALLY p i 0) → Completes (.tallyRead who p i) s (fun t =>
      t = (s.dev.w (MAC_TALLY p i 1) (w32 (tget 0 (s.dev.port p).tally i / 2 ^ 32))).answer who (w32 (tget 0 (s.dev.port p).tally i))))

/-- SWC: the forwarding database, the gate lists, the bolt store and the port state check (R309, R310, R316-R318, R324, R332).
Choices of the model in it: log entries 21, 24, 92. -/
def Obligations.SwitchComplete : Prop :=
  (∀ s who mac vid x, s.dev.reaches SWC_FDB_CMD → mac = (s.dev.r (SWC_FDB_ARG 0)).toNat + 2 ^ 32 * s.dev.f (SWC_FDB_ARG 1) 15 0 →
    vid = s.dev.f (SWC_FDB_ARG 1) 27 16 → s.dev.fdbFind mac vid = some x →
    Completes (.fdbLookup who) s (fun t => t = s.dev.fdbDone 0 (some x))) ∧
  (∀ s who mac vid i e, s.dev.reaches SWC_FDB_CMD → mac = (s.dev.r (SWC_FDB_ARG 0)).toNat + 2 ^ 32 * s.dev.f (SWC_FDB_ARG 1) 15 0 →
    vid = s.dev.f (SWC_FDB_ARG 1) 27 16 → s.dev.fdbFind mac vid = none → s.dev.fdbRoom mac vid = some i →
    e = { mac := mac, vid := vid, ports := s.dev.f (SWC_FDB_ARG 2) 21 0, static := true, age := s.dev.tb.now } →
    Completes (.fdbInsertStatic who) s (fun t => t = (s.dev.fdbSet i e).fdbDone 0 (some (i, e)))) ∧
  (∀ s who mac vid x, s.dev.reaches SWC_FDB_CMD → mac = (s.dev.r (SWC_FDB_ARG 0)).toNat + 2 ^ 32 * s.dev.f (SWC_FDB_ARG 1) 15 0 →
    vid = s.dev.f (SWC_FDB_ARG 1) 27 16 → s.dev.fdbFind mac vid = some x →
    Completes (.fdbDelete who) s (fun t => t = (s.dev.fdbErase x.1).fdbDone 0 (some x))) ∧
  (∀ s who, s.dev.reaches SWC_FDB_CMD → Completes (.fdbFlushDynamic who) s (fun t => t = ({ s.dev with swc := { s.dev.swc with
      fdb := s.dev.swc.fdb.filter (fun x => x.2.static || x.2.ports &&& s.dev.f (SWC_FDB_ARG 2) 21 0 == 0) } } : Dev).fdbDone 0 none)) ∧
  (∀ s who i e, s.dev.reaches SWC_FDB_CMD → i = (s.dev.r (SWC_FDB_ARG 0)).toNat → i < 16384 → tfind s.dev.swc.fdb i = some e →
    Completes (.fdbReadEntry who) s (fun t => t = s.dev.fdbDone 0 (some (i, e)))) ∧
  (∀ s (i : Fin 16384) e, tfind s.dev.swc.fdb i = some e → s.dev.fdbAged e = true →
    Completes (.fdbAgeOut i) s (fun t => t = s.dev.fdbErase i)) ∧
  (∀ s who (p : Fin 20) v, s.dev.reaches (SWC_GATE_CMD p) → bitOf v 0 = true → bitOf v 1 = false →
    Completes (.gateInstall who p v) s (fun t => t = s.dev.gateInstall p ∧
      (s.dev.f (SWC_GATE_ADMIN p) 16 8 = 0 → t = s.dev.wf (SWC_GATE_STAT p) 20 18 0))) ∧
  (∀ s who (p : Fin 20) v, s.dev.reaches (SWC_GATE_CMD p) → bitOf v 1 = true → bitOf v 0 = false →
    Completes (.gateStop who p v) s (fun t => (t.gatep p).oper = none ∧ (t.gatep p).admin = none ∧ (t.gatep p).startAt = none ∧
      t.f (SWC_GATE_STAT p) 1 0 = 0 ∧ t.mem = s.dev.mem)) ∧
  (∀ s (p : Fin 20) l t0, (s.dev.gatep p).admin = some l → l.wave = false → (s.dev.gatep p).startAt = some t0 → reached s.dev.tb.st t0 = true →
    Completes (.gateListStart p) s (fun t => t = s.dev.gateBegin p l t0)) ∧
  (∀ s (p : Fin 20) l t0, (s.dev.gatep p).admin = some l → l.wave = true → s.dev.waveReached l.treadle l.base = true → t0 = s.dev.tb.st →
    Completes (.gateListStart p) s (fun t => t = s.dev.gateBegin p l t0)) ∧
  (∀ s (p : Fin 20) l i, (s.dev.gatep p).oper = some l → l.wave = false → (s.dev.gatep p).gap = false →
    i = s.dev.f (SWC_GATE_STAT p) 9 2 - l.start → s.dev.gateDur p l i ≤ (s.dev.tb.st - (s.dev.gatep p).entrySt).toNat →
    (s.dev.gateSpan p l i).2 < l.cycle →
    Completes (.gateEntryChange p) s (fun t => t = (s.dev.credits p).gateEnter p l (i + 1) ((s.dev.gatep p).entrySt + w32 (s.dev.gateDur p l i)))) ∧
  (∀ s (p : Fin 22) (q : Fin 8) retry near e rest c, s.dev.boltHead p q = some (near, e, rest) → s.dev.fillDue p q = some c →
    s.dev.engineWaits = false → s.dev.hostWaits = false → s.dev.keyRetired (keyExt + s.dev.boltOffset e.cell) = false →
    Completes (.boltFill p q .clean retry) s (fun t => t = ((s.dev.allocCell e.cells).2.setQueue p q
      (near ++ [{ e with charge := c, cell := (s.dev.allocCell e.cells).1 }] ++ rest)).cnt (SWC_CNT 7))) ∧
  (∀ s (p : Fin 20) t0, tfind s.dev.swc.differ p = some t0 → t0 + 10000 < s.dev.tb.now → s.dev.b (SWC_PORT_STAT p) 2 = false →
    Completes (.swcPortDisagree p) s (fun t =>
      t = ((s.dev.wb (SWC_PORT_STAT p) 2 true).wb SWC_STAT 0 true).ringBit .swc 0))

/-- RED: heartbeats, missed boundaries, commands and the pattern book (R345-R349, R351, R353, R360, R363, R364).
Choices of the model in it: log entries 62, 63, 64. -/
def Obligations.DevicePairComplete : Prop :=
  (∀ s since, s.dev.sinceSlot s.dev.ownSlots = some since → s.dev.paired = true → s.dev.modeIn [.stop, .run, .hold, .spare, .safe] = true →
    since < 125 → s.dev.red.sentFor ≠ some (s.dev.slotBoundary since) →
    Completes .heartbeatSend s (fun t => t.red.sentFor = some (s.dev.slotBoundary since) ∧ t.red.hbSeq = wrapAdd 16 s.dev.red.hbSeq 1 ∧
      t.red.foldInt = 0 ∧ t.red.foldObs = 0 ∧ t.mem = s.dev.mem)) ∧
  (∀ s (msg : List Byte) since, msg.length = 24 → s.dev.paired = true → s.dev.b RED_HB_CFG 22 = true → leAt msg 20 4 = (crc32 (msg.take 20)).toNat →
    fld (w32 (leAt msg 0 4)) 18 16 = s.dev.f RED_CTRL 4 2 → s.dev.sinceSlot s.dev.peerSlots = some since → since ≤ s.dev.f RED_DET_CFG 27 16 →
    s.dev.mode ≠ .spare →
    Completes (.heartbeatReceive .hbo msg) s (fun t => tfind t.red.peerSeq 1 = some (fld (w32 (leAt msg 0 4)) 15 0) ∧ t.red.hboOk = true ∧
      t.mode = s.dev.mode ∧ t.mem = s.dev.mem)) ∧
  (∀ s path (msg : List Byte), msg.length = 24 → s.dev.paired = true → s.dev.b RED_HB_CFG 21 = true → s.dev.b RED_HB_CFG 22 = true →
    leAt msg 20 4 ≠ (crc32 (msg.take 20)).toNat → Completes (.heartbeatReceive path msg) s (fun t => t = s.dev.satf RED_HB_CNT 15 0 1)) ∧
  (∀ s since, s.dev.sinceSlot s.dev.peerSlots = some since → s.dev.paired = true → s.dev.f RED_DET_CFG 27 16 ≤ since →
    s.dev.red.checkedFor ≠ some (s.dev.slotBoundary since) → s.dev.mode ≠ .spare →
    Completes .heartbeatMissCheck s (fun t => t.red.checkedFor = some (s.dev.slotBoundary since) ∧ t.red.ringOk = false ∧ t.red.hboOk = false ∧
      t.mode = s.dev.mode ∧ t.mem = s.dev.mem)) ∧
  (∀ s who v, s.dev.reaches RED_CMD → fld v 15 8 = 0xA5 → bitOf v 0 = true → bitOf v 1 = false → s.dev.mode = .spare →
    Completes (.takeoverCmd who v) s (fun t => ∃ x : Dev, t = x.ringBit .red 6 ∧ x.r RED_TAKE_ST = s.dev.tb.st ∧ x.f RED_TAKE_STAT 10 8 = 5 ∧
      t = s.dev.takeover 5)) ∧
  (∀ s who v, s.dev.reaches RED_CMD → fld v 15 8 = 0xA5 → bitOf v 1 = true → bitOf v 0 = false → s.dev.hbState = 1 →
    Completes (.relinquishCmd who v) s (fun t => t = { s.dev with red := { s.dev.red with relinquish := true } })) ∧
  (∀ s l, s.dev.mode = .spare → Completes (.bookRecordReceive (.redState l)) s (fun t =>
      t = { s.dev with red := { s.dev.red with bookCnt := wrapAdd 32 s.dev.red.bookCnt 1, seqs := l.map BitVec.toNat } })) ∧
  (∀ s (node : Fin 8) pack (v : EventIn), s.dev.mode = .spare → s.dev.bookHome v.chan.val pack.toNat = true →
    Completes (.bookRecordReceive (.event node pack v)) s (fun t => ∃ ev : Ev, ev.stamp.st = v.st + s.dev.r (SLV_MAP node) ∧
      ev.src = v.src.val ∧ ev.payload = v.payload ∧ ev.chan = v.chan.val ∧
      (t.bookOf v.chan).entries = (s.dev.bookOf v.chan).entries ++ [ev] ∧ t.red.bookCnt = wrapAdd 32 s.dev.red.bookCnt 1 ∧ t.mem = s.dev.mem)) ∧
  (∀ s (node : Fin 8) (c : Fin 512) pack epoch ctx cells last late, s.dev.mode = .spare → s.dev.bookHome c.val pack.toNat = true →
    Completes (.bookRecordReceive (.checkpoint node c pack true epoch ctx cells last late)) s (fun t =>
      (∃ k, (t.bookOf c).ckpt = some k ∧ k.ctx = ctx ∧ k.epoch = epoch ∧ k.full = true ∧ k.lateCount = late) ∧
      (t.bookOf c).broken = false ∧ t.mem = s.dev.mem)) ∧
  (∀ s t0, s.dev.red.differ = some t0 → t0 + 10000 < s.dev.tb.now → s.dev.b RED_STAT 1 = false →
    Completes .redDisagree s (fun t => t = (s.dev.wb RED_STAT 1 true).ringBit .red 0))

/-- SLV: the ring's states, rounds and slots (R371-R381).
Choices of the model in it: log entry 65. -/
def Obligations.RingRoundsComplete : Prop :=
  (∀ s who v, s.dev.reaches SLV_CTRL → bitOf v 0 = true → s.dev.b SLV_CTRL 0 = false → Completes (.ringEnable who v) s (fun t =>
      t.slv.state = .listen ∧ t.slv.timer = s.dev.tb.now ∧ t.slv.fresh = true ∧ t.b SLV_CTRL 0 = true ∧ t.b SLV_STAT 3 = false ∧
      t.mem = s.dev.mem)) ∧
  (∀ s who v, s.dev.reaches SLV_CTRL → bitOf v 0 = false → s.dev.b SLV_CTRL 0 = true → Completes (.ringDisable who v) s (fun t =>
      t.slv.state = .off ∧ t.slv.heard = 0 ∧ t.slv.inserted = [] ∧ t.slv.closeRound = none ∧ t.b SLV_CTRL 0 = false ∧
      t.b SLV_STAT 3 = false ∧ t.mem = s.dev.mem)) ∧
  (∀ s (dly : BitVec 16), s.dev.ringOn = true → (s.dev.slv.state = .sync ∨ s.dev.slv.state = .coldstart ∨ s.dev.slv.state = .passive) →
    reached s.dev.tb.st (s.dev.slv.grid + 10000) = true → Completes (.roundStart dly) s (fun t =>
      t.slv.grid = s.dev.slv.grid + 10000 ∧ t.slv.inserted = [] ∧ t.slv.heard = 0 ∧ t.slv.noTime = s.dev.slv.noTime + 1 ∧ t.mem = s.dev.mem)) ∧
  (∀ s (k : Fin 80), s.dev.ringOn = true → s.dev.ownsSlot k = true → s.dev.slv.inserted.contains k.val = false →
    (s.dev.tb.st - s.dev.slotOpen k).toNat ≤ 3 → s.dev.guardian k = true →
    Completes (.slotInsert k) s (fun t => t = ((s.dev.txLate.slotFill k).2.setSlv (fun r => { r with inserted := k.val :: r.inserted })).emit
      (.ringFrame k.val (s.dev.txLate.slotFill k).1))) ∧
  (∀ s (k : Fin 80), s.dev.ringOn = true → s.dev.ownsSlot k = true → s.dev.slv.inserted.contains k.val = false →
    (s.dev.tb.st - s.dev.slotOpen k).toNat < 125 → s.dev.guardian k = false →
    Completes (.slotInsert k) s (fun t =>
      t = (s.dev.setSlv (fun r => { r with inserted := k.val :: r.inserted })).cnt (SLV_CNT 7))) ∧
  (∀ s (k : Fin 80) (b : List Byte), b.length = 152 → s.dev.ringOn = true → s.dev.slv.state ≠ .dupId →
    s.dev.b SLV_STAT (12 + if s.dev.b SLV_STAT 9 then 0 else 1) = false →
    leAt b 148 4 ≠ (crc32 (b.take 148)).toNat →
    Completes (.slotFrameReceive k b .clean) s (fun t => t = (s.dev.relay k b).cnt (SLV_CNT 0))) ∧
  (∀ s (k : Fin 80) (b : List Byte) x, b.length = 152 → s.dev.ringOn = true →
    s.dev.b SLV_STAT (12 + if s.dev.b SLV_STAT 9 then 0 else 1) = false → x = s.dev.relay k b →
    (s.dev.slv.state = .sync ∨ s.dev.slv.state = .integrating ∨ s.dev.slv.state = .passive) → leAt b 148 4 = (crc32 (b.take 148)).toNat →
    fld (w32 (leAt b 0 4)) 10 8 ≠ s.dev.nodeId → s.dev.ownsSlot k = false → x.slotCheck k b = none →
    Completes (.slotFrameReceive k b .clean) s (fun t => t = x.slotAccept k b)) ∧
  (∀ s, s.dev.ringOn = true → s.dev.slv.state = .listen → s.dev.b SLV_CTRL 1 = true → s.dev.slv.timer + s.dev.listenTime ≤ s.dev.tb.now →
    Completes .listenTimeout s (fun t => t.slv.state = .coldstart ∧ t.slv.grid = s.dev.tb.st ∧ t.f SLV_ROUND 15 0 = 0 ∧ t.mem = s.dev.mem)) ∧
  (∀ s, s.dev.ringOn = true → s.dev.slv.state = .coldstart → 4 ≤ s.dev.slv.coldRounds →
    Completes .coldstartTimeout s (fun t => t.slv.state = .listen ∧ t.slv.timer = s.dev.tb.now ∧ t.mem = s.dev.mem)) ∧
  (∀ s, s.dev.ringOn = true → s.dev.leads = false → s.dev.slv.state = .sync → s.dev.slv.timer + 20000 ≤ s.dev.tb.now →
    s.dev.tb.now < s.dev.slv.timer + s.dev.listenTime → Completes .timeFrameLoss s (fun t => t = s.dev.syncLost ∧ t.slv.state = .integrating))

/-- SLV: folding, closing and the two views (R383, R387, R388, R392).
Choices of the model in it: log entry 67. -/
def Obligations.RingLoopsComplete : Prop :=
  (∀ s, s.dev.ringOn = true → s.dev.b SLV_STAT 9 = false → s.dev.leads = false → Completes .ringInputLost s (fun t =>
      t.b SLV_STAT 9 = true ∧ t.slv.heldB = false ∧ t.slv.relearn = true ∧ t.mem = s.dev.mem)) ∧
  (∀ s, s.dev.ringOn = true → s.dev.b SLV_STAT 8 = false → s.dev.leads = false → Completes .returnLaneFault s (fun t =>
      t.b SLV_STAT 8 = true ∧ t.slv.heldA = false ∧ t.slv.relearn = true ∧ t.mem = s.dev.mem)) ∧
  (∀ s laneA, s.dev.ringOn = true → s.dev.b SLV_STAT (if laneA then 8 else 9) = true →
    (if laneA then s.dev.slv.heldA else s.dev.slv.heldB) = false → Completes (.failedHopLockHeld laneA) s (fun t =>
      t = (s.dev.setHeld laneA true).ringBit .slv 4)) ∧
  (∀ s who v, s.dev.reaches SLV_CMD → fld v 15 8 = 0xA5 → bitOf v 0 = true → s.dev.leads = true → s.dev.b SLV_STAT 7 = true →
    s.dev.b SLV_STAT 8 = false → s.dev.b SLV_STAT 9 = false → Completes (.ringClose who v) s (fun t =>
      t = s.dev.setSlv (fun r => { r with closeRound := some (wrapAdd 16 s.dev.roundNo 2) }))) ∧
  (∀ s, s.dev.ringOn = true → s.dev.slv.closeRound = some s.dev.roundNo → Completes .closingRound s (fun t =>
      t.slv.closeRound = none ∧ t.slv.folded = false ∧ t.b SLV_STAT 7 = false ∧ t.b SLV_STAT 8 = false ∧ t.b SLV_STAT 9 = false ∧
      t.mem = s.dev.mem)) ∧
  (∀ s, 2 ≤ s.dev.slv.differRounds → s.dev.b SLV_STAT 11 = false → Completes .slvDisagree s (fun t =>
      t = (s.dev.wb SLV_STAT 11 true).ringBit .slv 8))

/-- MEM and XMC: bank accesses, write-back, the ordering buffer, scrubbing, strikes, refresh and the two views (R251-R257, R261-R264,
R267, R269, R272).
Choices of the model in it: log entries 22, 23, 91. -/
def Obligations.MemoryComplete : Prop :=
  (∀ s (b : Fin 64) a, PortAccess.wf a = true → a.eng = none → a.write = false → a.atomic = none → a.ecc = .clean →
    Completes (.bankAccess b (some a) none) s (fun t => t = s.dev.ordEnter) ∧
    Completes (.bankAccess b none (some a)) s (fun t => t = s.dev.ordEnter)) ∧
  (∀ s (b : Fin 64) a, PortAccess.wf a = true → a.eng = none → a.write = true → a.atomic = none → a.ecc = .clean → s.dev.bankRetired b = false →
    Completes (.bankAccess b (some a) none) s (fun t => t = (s.dev.mwr (keyBank b + a.addr) a.data).ordEnter) ∧
    Completes (.bankAccess b none (some a)) s (fun t => t = (s.dev.mwr (keyBank b + a.addr) a.data).ordEnter)) ∧
  (∀ s (b : Fin 64) a op, PortAccess.wf a = true → a.eng = none → a.atomic = some op → a.ecc = .clean → s.dev.bankRetired b = false →
    Completes (.bankAccess b (some a) none) s (fun t => t = (s.dev.mwr (keyBank b + a.addr)
      (leBytes a.size (atomicRes op a.size (leVal (s.dev.mrd (keyBank b + a.addr) a.size)) (leVal a.data)))).ordEnter)) ∧
  (∀ s (b : Fin 64) a e f g, PortAccess.wf a = true → a.eng = some e → a.write = false → a.atomic = none → a.ecc = .clean →
    s.dev.bankRetired b = false → s.dev.servedOp b 0 a = some f →
    g = (fun (o : FarOp) => { o with arrived := some (BitVec.ofNat 64 (leVal (s.dev.mrd (keyBank b + a.addr) a.size)), false) }) →
    Completes (.bankAccess b (some a) none) s (fun t =>
      t = (s.dev.setEng e (fun x => { x with far := modFirst (fun o => o == f) g x.far })).ordEnter)) ∧
  (∀ s (b : Fin 64) a c, PortAccess.wf a = true → PortAccess.wf c = true → a.eng = none → c.eng = none → a.write = true → c.write = true →
    a.atomic = none → c.atomic = none → a.ecc = .clean → c.ecc = .clean → s.dev.bankRetired b = false → bytesMeet a c = true →
    Completes (.bankAccess b (some a) (some c)) s (fun t =>
      t = ((((s.dev.mwr (keyBank b + a.addr) a.data).mwr (keyBank b + c.addr) c.data).satf (MEM_BANK_CNT b) 31 16 1).ringBit .mem 3).ordEnter)) ∧
  (∀ s (b : Fin 64) (row : Fin 16384) i, Completes (.writeBack b row i) s (fun t =>
      (∀ k, mget t.mem k = mget s.dev.mem k) ∧ t.regs = s.dev.regs ∧ t.cut = s.dev.cut ∧ t.memb.ord = s.dev.memb.ord)) ∧
  (∀ s (b : Fin 64) x l, s.dev.ordBuf b = x :: l → x.arrival + 256 ≤ s.dev.tb.now →
    Completes (.ordHoldEnd b .clean) s (fun t => t = ((ordSort (l.filter (fun y => y.addr / 8 == x.addr / 8 && ordBefore y x)) ++ [x]).foldl
      (fun (d : Dev) z => d.ordApply b z .clean) s.dev).ordEnter)) ∧
  (∀ s n, n = (s.dev.tb.now - s.dev.memb.decayAt) / s.dev.decayTime → 0 < n → Completes .strikeDecay s (fun t =>
      (∀ r, r < 254 → t.f (MEM_FC_RES r) 4 0 =
        (if s.dev.b (MEM_FC_RES r) 5 then s.dev.f (MEM_FC_RES r) 4 0 else s.dev.f (MEM_FC_RES r) 4 0 - n) ∧
        t.f (MEM_FC_RES r) 31 5 = s.dev.f (MEM_FC_RES r) 31 5) ∧
      t.memb = { s.dev.memb with decayAt := s.dev.memb.decayAt + n * s.dev.decayTime } ∧ t.mem = s.dev.mem)) ∧
  (∀ s, (s.dev.tb.now - s.dev.memb.decayAt) / s.dev.decayTime = 0 → Completes .strikeDecay s (fun t => t = s.dev)) ∧
  (∀ s (b : Fin 64), s.dev.hostUp = true → s.dev.b MEM_CTRL 0 = true → s.dev.bankRetired b = false →
    s.dev.memb.scrubDone.contains b.val = false → s.dev.passDue s.dev.memb.scrubAt s.dev.scrubTime 16384 (tget 0 s.dev.memb.scrubRow b) = true →
    tget 0 s.dev.memb.scrubRow b + 1 < 16384 → Completes (.scrubRow b .clean) s (fun t =>
      tget 0 t.memb.scrubRow b = tget 0 s.dev.memb.scrubRow b + 1 ∧ t.f MEM_SCRUB_STAT 21 16 = b ∧ t.b MEM_STAT 1 = true ∧ t.mem = s.dev.mem)) ∧
  (∀ s retry a, s.dev.hostUp = true → s.dev.b XMC_STAT 0 = true → s.dev.extBytes ≠ 0 → s.dev.engineWaits = false → s.dev.hostWaits = false →
    s.dev.anyFill = false → s.dev.passDue s.dev.memb.xmcAt s.dev.xmcTime s.dev.extBytes s.dev.memb.xmcPos = true →
    a = (s.dev.memb.xmcPos + 16) % s.dev.extBytes → a ≠ 0 → Completes (.xmcScrub .clean retry) s (fun t =>
      t = { s.dev with memb := { s.dev.memb with xmcPos := a, xmcAt := some (s.dev.memb.xmcAt.getD s.dev.tb.now) } })) ∧
  (∀ s, s.dev.hostUp = true → s.dev.b XMC_STAT 0 = true → s.dev.memb.refAt + s.dev.refreshTime ≤ s.dev.tb.now →
    Completes .ddrRefresh s (fun t => t = { s.dev with memb := { s.dev.memb with
      refAt := s.dev.memb.refAt + s.dev.refreshTime
      postponed := if s.dev.engineWaits then Nat.min 8 (s.dev.memb.postponed + 1) else 0 } })) ∧
  (∀ s (r : Fin 254), s.dev.b (MEM_FC_RES r) 5 ≠ s.dev.b (MEM_FC_RES r) 6 → tget 0 s.dev.memb.permAt r + 10000 < s.dev.tb.now →
    Completes (.memDisagree r) s (fun t => t = (s.dev.wb MEM_STAT 0 true).ringBit .mem 6)) ∧
  (∀ s (r : Fin 254), (∀ i, i < 254 → s.dev.b (MEM_FC_RES i) 5 = s.dev.b (MEM_FC_RES i) 6) → Completes (.memDisagree r) s (fun t =>
      t = s.dev.wb MEM_STAT 0 false))

/-- ENG: far accesses that return or are performed, the engine's control and debug rows, and the host's local memory window (R131,
R132, R137, R144, R167, R168, R212).
Choices of the model in it: log entry 48. -/
def Obligations.EngineControlComplete : Prop :=
  (∀ s (e : Fin 96) f, s.dev.farHead e .bank = some f → f.store = false → f.ord = false → f.arrived = none → f.atomic = none → f.copy = none →
    s.dev.keyRetired f.addr = false → (s.dev.act f.key).eng = e.val → Completes (.farLoadReturn e .bank .clean .clean) s (fun t =>
      t = ((s.dev.farPop e .bank).farDeliver f (BitVec.ofNat 64 (leVal (s.dev.mrd f.addr f.size))) false).ordEnter)) ∧
  (∀ s (e : Fin 96) f, s.dev.farHead e .bank = some f → f.store = true → s.dev.keyRetired f.addr = false →
    Completes (.farStorePerform e .bank .clean .clean) s (fun t => t = ((s.dev.farPop e .bank).mwr f.addr (leBytes f.size f.value.toNat)).ordEnter)) ∧
  (∀ s (e : Fin 96) f ecc retry, s.dev.farHead e .dev = some f → f.store = true → Completes (.farStorePerform e .dev ecc retry) s (fun t =>
      t = ((s.dev.farPop e .dev).regWrite (.engine e) f.addr (w32 f.value.toNat) 0).ordEnter)) ∧
  (∀ s who (e : Fin 96) v, s.dev.reaches (ENG_CTRL e) → bitOf v 8 = false → Completes (.engineEnable who e v) s (fun t =>
      t = if (s.dev.w (ENG_CTRL e) (v &&& 3)).engGo e then (s.dev.w (ENG_CTRL e) (v &&& 3)).setEng e (fun x => { x with stopped := false })
        else s.dev.w (ENG_CTRL e) (v &&& 3))) ∧
  (∀ s who (e : Fin 96) v, s.dev.reaches (ENG_CTRL e) → bitOf v 8 = false → bitOf v 1 = true → Completes (.engineHaltRequest who e v) s (fun t =>
      t = s.dev.w (ENG_CTRL e) (v &&& 3) ∧ t.engGo e = false)) ∧
  (∀ s who (e : Fin 96) v, s.dev.reaches (ENG_CTRL e) → (s.dev.slotKeys e).isEmpty = true →
    Completes (.engineReset who e v) s (fun t => t = s.dev.engineReset e ∧ (t.eng e).evq = [] ∧ (t.eng e).outq = [] ∧ (t.eng e).far = [] ∧
      (t.eng e).retired = (s.dev.eng e).retired ∧ (∀ a, a < 0x10000 → mget t.mem (keyInstr e + a) = 0) ∧
      t.r (ENG_CTRL e) = engineValue (ENG_CTRL e) (s.dev.r (ENG_CTRL e)))) ∧
  (∀ s who (e : Fin 96) v, s.dev.reaches (ENG_CTRL e) → (s.dev.eng e).retired = true →
    Completes (.engineReset who e v) s (fun t => t = s.dev.engineReset e)) ∧
  (∀ s who (e : Fin 96) v m, s.dev.reaches (ENG_DBG_CTRL e) → (s.dev.w (ENG_DBG_CTRL e) ((v ||| 1) &&& 6)).dbgOpen e = true → s.dev.mode = .hold →
    Completes (.debugStep who e v m) s (fun t => t = (s.dev.w (ENG_DBG_CTRL e) ((v ||| 1) &&& 6)).dbgStep e m)) ∧
  (∀ s (e : Fin 96) k, (s.dev.eng e).cur = some k → (s.dev.eng e).stopped = false → (s.dev.act k).st = .running → s.dev.bpMatch e k = true →
    s.dev.b (ENG_DBG_CTRL e) 2 = false → Completes (.breakpointHit e) s (fun t =>
      t = (s.dev.setEng e (fun x => { x with stopped := true })).setBell (.eng e) 32 ∧ (t.eng e).stopped = true)) ∧
  (∀ s who (e : Fin 96) v, s.dev.reaches (ENG_DBG_DATA e) → Completes (.debugDataAccess who e false v) s (fun t =>
      t = s.dev.answer who (s.dev.dbgRead e))) ∧
  (∀ s who (e : Fin 96) v k, s.dev.reaches (ENG_DBG_DATA e) → s.dev.dbgOpen e = true → s.dev.dbgKey e = some k → s.dev.f (ENG_DBG_SEL e) 15 8 < 16 →
    Completes (.debugDataAccess who e true v) s (fun t => t = s.dev.setCtx k (fun c => c.setW (s.dev.f (ENG_DBG_SEL e) 15 8) v))) ∧
  (∀ s i (addr : Nat) be v, s.dev.memOpen = true → addr < 0x600000 → 0x8000 ≤ addr % 0x10000 →
    Completes (.hostLocalMemWrite i addr be v) s (fun t => t = s.dev.mwrBe (addr / 4 * 4) be v))

/-- TAP: the six instructions (R528-R530).
Choices of the model in it: log entry 78. -/
def Obligations.TapComplete : Prop :=
  (∀ s, Completes .extest s (fun t => t.tap.ir = .extest ∧ t.tapActs = (if s.dev.tapOpen then .extest else .bypass) ∧ t.tap.bypass = false ∧ t.mem = s.dev.mem ∧
      t.regs = s.dev.regs)) ∧
  (∀ s, Completes .clamp s (fun t => t.tap.ir = .clamp ∧ t.tapActs = (if s.dev.tapOpen then .clamp else .bypass) ∧ t.tap.bypass = false ∧ t.mem = s.dev.mem ∧
      t.regs = s.dev.regs)) ∧
  (∀ s, Completes .highz s (fun t => t.tap.ir = .highz ∧ t.tapActs = (if s.dev.tapOpen then .highz else .bypass) ∧ t.tap.bypass = false ∧ t.mem = s.dev.mem ∧
      t.regs = s.dev.regs)) ∧
  (∀ s, Completes .bypass s (fun t => t.tap.ir = .bypass ∧ t.tap.bypass = false ∧ t.mem = s.dev.mem ∧ t.regs = s.dev.regs)) ∧
  (∀ s, Completes .idcode s (fun t => t.tap.ir = .idcode ∧ (∃ x : Dev, t = x.emit (.tapId 0x19600A3D)) ∧ t.mem = s.dev.mem ∧
      t.regs = s.dev.regs)) ∧
  (∀ s pads shiftIn, Completes (.samplePreload pads shiftIn) s (fun t => t.tap.ir = .sample ∧ t.tap.sampled = pads ∧
      t.tap.boundary = shiftIn ∧ t.mem = s.dev.mem ∧ t.regs = s.dev.regs))

/-- MBX and HBR: messages, and the accesses of the two hosts (R467, R470, R471, R474, R476-R480).
Choices of the model in it: log entries 75, 76. -/
def Obligations.HostAccessesComplete : Prop :=
  (∀ s who (m : Fin 256) v side, s.dev.reaches (MBX_SEND m) → isHost who = true → s.dev.hostSide m = some side → s.dev.b (MBX_MSTAT m) 31 = true →
    fld v 31 20 = s.dev.f (MBX_MSTAT m) 11 0 → fld v 3 0 ≤ 8 → s.dev.b (MBX_RXSTAT m (1 - side)) 0 = false →
    Completes (.mbxSend who m v) s (fun t => t = (s.dev.deliver m (1 - side) ((List.range (fld v 3 0)).map (fun i => s.dev.r (MBX_TX m i)))
      (s.dev.mbxBit m (1 - side))).1)) ∧
  (∀ s who v m p, s.dev.reaches MBX_POP → m = fld v 7 0 → p = fld v 8 8 → isHostParty (s.dev.r (MBX_PARTY m p)) = true →
    s.dev.b (MBX_RXSTAT m p) 0 = true → tfind s.dev.swc.fullAt (2 * m + p) ≠ some s.dev.tb.now → Completes (.mbxPop who v) s (fun t =>
      t = (s.dev.wf (MBX_RXSTAT m p) 4 0 0).wb (MBX_HFULL (m / 32)) (m % 32) false)) ∧
  (∀ s w, s.dev.portUp w.port = true → Completes (.hostWriteAccept w) s (fun t =>
      t.posts w.port = s.dev.posts w.port ++ [⟨w, s.dev.f (HBR_WSEQ (portIdx w.port)) 15 0⟩] ∧
      t.f (HBR_WSEQ (portIdx w.port)) 15 0 = (s.dev.f (HBR_WSEQ (portIdx w.port)) 15 0 + 1) % 65536 ∧ t.mem = s.dev.mem)) ∧
  (∀ s ob ecc retry p rest a x, s.dev.posts .pcie = p :: rest → s.dev.hostUp = true → p.w.space = .bar0 → p.w.port = .pcie →
    hostTarget .pcie .bar0 p.w.addr = some (.bar0, a) → p.w.be = 15 → s.dev.hbr.ob = none →
    x = (((s.dev.setPosts .pcie rest).setHbr (fun b => { b with fail := 0 })).regWrite .pcie (a / 4 * 4) p.w.data 0) → x.hbr.fail = 0 →
    Completes (.hostWritePerform .pcie ob ecc retry) s (fun t => t = x)) ∧
  (∀ s i (addr : Nat) be ecc retry a, s.dev.portUp i = true → s.dev.postsWait i = false → s.dev.b HBR_STAT (portIdx i) = false →
    hostTarget i (match i with | .pcie => .bar0 | .lb => .lbTarget) addr = some (.bar0, a) →
    Completes (.hostRead i (match i with | .pcie => .bar0 | .lb => .lbTarget) addr be ecc retry) s (fun t =>
      t = (s.dev.regRead (portWho i) (a / 4 * 4)).2.answer (portWho i) (beMask be (s.dev.regRead (portWho i) (a / 4 * 4)).1))) ∧
  (∀ s i, s.dev.portUp i = true → s.dev.postsWait i = false → Completes (.fenceRead i) s (fun t =>
      t = (s.dev.regRead (portWho i) HBR_FENCE).2.answer (portWho i) (beMask 15 (s.dev.regRead (portWho i) HBR_FENCE).1))) ∧
  (∀ s (addr : Nat) ecc retry, s.dev.portUp .lb = true → s.dev.postsWait .lb = false → s.dev.b HBR_CTRL 2 = true → s.dev.hbr.sem = .free →
    s.dev.f HBR_LOCK_CFG 15 0 ≠ 0 → (hostExt .lbTarget addr && s.dev.engineWaits) = false → Completes (.lockedRead addr ecc retry) s (fun t =>
      t = (s.dev.semTake .lb).fencedRead .lb .lbTarget addr (fun d => d.hostFetch .lb .lbTarget addr 15 ecc retry))) ∧
  (∀ s, s.dev.hbr.sem = .lb → s.dev.hbr.postLb = [] → Completes .lockDeassert s (fun t => t = s.dev.setHbr (fun b => { b with sem := .free }))) ∧
  (∀ s, s.dev.hbr.sem ≠ .free → s.dev.hbr.semSince + 1000 * s.dev.f HBR_LOCK_CFG 15 0 < s.dev.tb.now →
    Completes .lockHoldTimeout s (fun t => t = s.dev.lockExpire ∧ t.hbr.sem = .free)) ∧
  (∀ s (e : Fin 96), s.dev.reaches HBR_SEM → s.dev.hbr.sem = .free → Completes (.semRead e false) s (fun t =>
      t = (s.dev.setHbr (fun b => { b with sem := .engine e, semSince := s.dev.tb.now })).answer (.engine e) 1)) ∧
  (∀ s (e : Fin 96), s.dev.reaches HBR_SEM → s.dev.hbr.sem ≠ .free → Completes (.semRead e false) s (fun t =>
      t = s.dev.answer (.engine e) 0)) ∧
  (∀ s (e : Fin 96) v, s.dev.reaches HBR_SEM → bitOf v 0 = true → s.dev.hbr.sem = .engine e → Completes (.semRelease e v) s (fun t =>
      t = s.dev.setHbr (fun b => { b with sem := .free })))

/-- HBR and FBR: the outbound window, polled interrupts, transmit rings, the frame bridge and PERST (R479-R481, R484, R487, R490, R520).
Choices of the model in it: log entries 39, 74. -/
def Obligations.BridgeWorkComplete : Prop :=
  (∀ s (ofs : Fin 524288) be v tag x, s.dev.hostUp = true → s.dev.postsWait .pcie = false → s.dev.b HBR_CTRL 1 = true → s.dev.hbr.ob = none →
    Completes (.outboundAccess false ofs be v tag (.ack x)) s (fun t =>
      t = ((s.dev.setHbr (fun b => { b with ob := none })).emit (.lbCycle false ((s.dev.r HBR_OBW_BASE).toNat / 2 ^ 19 * 2 ^ 19 + ofs) be x)).answer
        .pcie x)) ∧
  (∀ s (ofs : Fin 524288) be v tag res, s.dev.hostUp = true → s.dev.postsWait .pcie = true →
    Completes (.outboundAccess true ofs be v tag res) s (fun t =>
      t = s.dev.postWrite { port := .pcie, space := .obw, addr := ofs, be := be, data := v, tag := tag })) ∧
  (∀ s o res, s.dev.hbr.ob = some o → o.onBus = false → o.since + 10 * s.dev.f HBR_LB_CFG 7 0 ≤ s.dev.tb.now → Completes (.crossingRetry res) s (fun t =>
      t = s.dev.obTry o res)) ∧
  (∀ s o, s.dev.hbr.ob = some o → o.write = true → o.began + 1000 * s.dev.f HBR_LB_CFG 31 16 ≤ s.dev.tb.now →
    Completes .lbWriteTimeout s (fun t => t = (s.dev.setHbr (fun b => { b with ob := none })).ledger .pcie o.ofs o.tag 4 o.wseq 6)) ∧
  (∀ s level, s.dev.hostUp = true → s.dev.hbr.irqAt + s.dev.irqPeriod ≤ s.dev.tb.now → Completes (.irqPollSample level) s (fun t => t.hbr.irqPrev = level ∧ t.mem = s.dev.mem)) ∧
  (∀ s who (r : Fin 4) v, s.dev.reaches (HBR_RING_TAIL (4 + r)) → Completes (.txRingTailWrite who r v) s (fun t =>
      t = s.dev.wf (HBR_RING_TAIL (4 + r)) 11 0 (fld v 11 0))) ∧
  (∀ s (r : Fin 4) desc frame ring buf, txShape desc frame = true → s.dev.hostUp = true → s.dev.txWork (4 + r) = true →
    (∀ i, i < r.val → s.dev.txWork (4 + i) = false) → Completes (.txDescriptorServe r desc frame ring buf) s (fun t =>
      ∃ x : Dev, t = x.ringBit .hbr (6 + r) ∧ x.f (HBR_RING_HEAD (4 + r)) 11 0 =
        (s.dev.f (HBR_RING_HEAD (4 + r)) 11 0 + 1) % 2 ^ (s.dev.f (HBR_RING_CFG (4 + r)) 3 0) % 4096)) ∧
  (∀ s f rest, s.dev.fbrOn = true → s.dev.hbr.fbrAt + 250 ≤ s.dev.tb.now → s.dev.fbr = f :: rest → s.dev.b (FBR_ROUTE f.route 0) 31 = false →
    Completes .fbrBuild s (fun t => t = ({ s.dev with fbr := rest, hbr := { s.dev.hbr with fbrAt := s.dev.fbrNext } } : Dev).fbrCnt 3)) ∧
  (∀ s f rest x l y, s.dev.fbrOn = true → s.dev.hbr.fbrAt + 250 ≤ s.dev.tb.now → s.dev.fbr = f :: rest →
    s.dev.genOf 3 f.route = f.rgen → s.dev.b (FBR_ROUTE f.route 0) 31 = true → s.dev.f (FBR_ROUTE f.route 2) 1 0 = 1 →
    y.b (FBR_ROUTE f.route 5) 25 = false → x = { s.dev with fbr := rest, hbr := { s.dev.hbr with fbrAt := s.dev.fbrNext } } → x.routeLayers f.route f = (l, y) →
    Completes .fbrBuild s (fun t => t = y.fbrCan f.route l (layerEnd l))) ∧
  (∀ s, Completes .perstAssert s (fun t => t.b HBR_STAT 0 = false ∧ t.hbr.postPcie = s.dev.hbr.postPcie ∧ t.hbr.postLb = s.dev.hbr.postLb ∧
      (∀ o, t.hbr.ob = some o → o.write = true) ∧ t.mem = s.dev.mem))

/-- SHT: the eleven instructions at a tick (R428-R433).
Choices of the model in it: log entry 73. -/
def Obligations.ShuttleInstructionsComplete : Prop :=
  (∀ s (n : Fin 32) pads w d, s.dev.shtAt n 0 w → d = s.dev.shtTake n → Completes (.shtBr n pads) s (fun t =>
      t = d.shtGo n (if s.dev.shtCond n (w.toNat / 8192) pads then w.toNat / 256 % 32 else (s.dev.shuttle n).pc + 1))) ∧
  (∀ s (n : Fin 32) pads w k, s.dev.shtAt n 1 w → k = w.toNat / 32768 → Completes (.shtLoop n pads) s (fun t =>
      (t.shuttle n).s k = (s.dev.shuttle n).s k - 1 ∧
      (t.shuttle n).pc = (if (s.dev.shuttle n).s k = 1 then (s.dev.shuttle n).pc + 1 else w.toNat / 256 % 32) % 32 ∧
      (t.shuttle n).obs = (s.dev.shuttle n).obs ∧ (t.shuttle n).ibs = (s.dev.shuttle n).ibs ∧ t.mem = s.dev.mem)) ∧
  (∀ s (n : Fin 32) pads w d st, s.dev.shtAt n 2 w → d = s.dev.shtTake n → d.shtWaitOver n w.toNat pads none none = some st →
    Completes (.shtWait n pads) s (fun t => (t.shuttle n).stamp = st ∧ (t.shuttle n).state = .run ∧
      (t.shuttle n).pc = ((s.dev.shuttle n).pc + 1) % 32 ∧ t.mem = s.dev.mem)) ∧
  (∀ s (n : Fin 32) pads w d, s.dev.shtAt n 2 w → d = s.dev.shtTake n → d.shtWaitOver n w.toNat pads none none = none →
    Completes (.shtWait n pads) s (fun t => (t.shuttle n).state = .wait ∧ (t.shuttle n).inst = w ∧ (t.shuttle n).pc = (s.dev.shuttle n).pc ∧
      (t.shuttle n).waitAt = (d.shuttle n).divAt ∧ t.mem = s.dev.mem)) ∧
  (∀ s (n : Fin 32) pads w d, s.dev.shtAt n 3 w → d = s.dev.shtTake n → w.toNat.testBit 7 = false → Completes (.shtGet n pads) s (fun t =>
      t = (d.shtGetShift n w.toNat pads).shtGo n ((s.dev.shuttle n).pc + 1))) ∧
  (∀ s (n : Fin 32) pads w d x, s.dev.shtAt n 4 w → d = s.dev.shtTake n → w.toNat.testBit 7 = false → x = d.shtPutShift n w.toNat →
    Completes (.shtPut n pads) s (fun t => t = x.shtGo n ((x.shuttle n).pc + 1))) ∧
  (∀ s (n : Fin 32) pads w d x, s.dev.shtAt n 5 w → d = s.dev.shtTake n → s.dev.f (SHT_WIN n) 10 8 ≠ 7 → x = (d.shtPins n w.toNat).2 →
    Completes (.shtPins n pads) s (fun t => t = x.shtGo n ((x.shuttle n).pc + 1))) ∧
  (∀ s (n : Fin 32) pads w, s.dev.shtAt n 6 w → Completes (.shtLoad n pads) s (fun t =>
      (t.shuttle n).s (w.toNat / 32768) = w32 (w.toNat / 128 % 256) ∧ (t.shuttle n).pc = ((s.dev.shuttle n).pc + 1) % 32 ∧
      (∀ a, t.r a = s.dev.r a) ∧ t.mem = s.dev.mem)) ∧
  (∀ s (n : Fin 32) pads w d, s.dev.shtAt n 7 w → d = s.dev.shtTake n → w.toNat / 8192 = 1 → w.toNat / 256 % 4 = 0 →
    Completes (.shtCopy n pads) s (fun t =>
      (t.shuttle n).s0 = d.shtSrc n (w.toNat / 1024 % 8) pads ∧ (t.shuttle n).s1 = (s.dev.shuttle n).s1 ∧
      (t.shuttle n).pc = ((s.dev.shuttle n).pc + 1) % 32 ∧ t.mem = s.dev.mem)) ∧
  (∀ s (n : Fin 32) pads w d, s.dev.shtAt n 8 w → d = s.dev.shtTake n → (s.dev.shuttle n).up.length < 4 →
    Completes (.shtStow n pads) s (fun t =>
      (t.shuttle n).up = (s.dev.shuttle n).up ++ [((s.dev.shuttle n).ibs, d.shtStamp n, (s.dev.shuttle n).stowSeq)] ∧ (t.shuttle n).ibs = 0 ∧
      (t.shuttle n).ibCnt = 0 ∧ (t.shuttle n).pc = ((s.dev.shuttle n).pc + 1) % 32 ∧ t.mem = s.dev.mem)) ∧
  (∀ s (n : Fin 32) pads w v rest, s.dev.shtAt n 9 w → (s.dev.shuttle n).dn = v :: rest → Completes (.shtFetch n pads) s (fun t =>
      (t.shuttle n).obs = v ∧ (t.shuttle n).dn = rest ∧ (t.shuttle n).obLeft = s.dev.shtW n ∧
      (t.shuttle n).pc = ((s.dev.shuttle n).pc + 1) % 32 ∧ t.mem = s.dev.mem)) ∧
  (∀ s (n : Fin 32) pads w d, s.dev.shtAt n 10 w → d = s.dev.shtTake n → w.toNat.testBit 15 = false → Completes (.shtBell n pads) s (fun t =>
      t = (d.ringBit (.sht n) (w.toNat / 4096 % 8)).shtGo n ((s.dev.shuttle n).pc + 1)))

/-- SHT: waits and stalls that end, faults, injection and loads (R431-R433, R438-R440).
Choices of the model in it: log entries 71, 73. -/
def Obligations.ShuttleTicksComplete : Prop :=
  (∀ s (n : Fin 32) pads back st d, (s.dev.shuttle n).state = .wait → s.dev.shtTicks n = true → s.dev.shtProgram n = true →
    (s.dev.shuttle n).bellWait = none → d = s.dev.shtTake n →
    d.shtWaitOver n (s.dev.shuttle n).inst.toNat pads (d.shtEdge n back) (d.shtTrig n) = some st →
    Completes (.shtWaitComplete n pads back) s (fun t => (t.shuttle n).stamp = st ∧ (t.shuttle n).state = .run ∧
      (t.shuttle n).pc = ((s.dev.shuttle n).pc + 1) % 32 ∧ t.mem = s.dev.mem)) ∧
  (∀ s (n : Fin 32) pads back b, (s.dev.shuttle n).state = .wait → s.dev.shtTicks n = true → s.dev.shtProgram n = true →
    (s.dev.shuttle n).bellWait = some b → s.dev.b (SHT_BELL n) b = false →
    Completes (.shtWaitComplete n pads back) s (fun t => t = (s.dev.shtTake n).shtGo n ((s.dev.shuttle n).pc + 1))) ∧
  (∀ s (n : Fin 32) pads, (s.dev.shuttle n).state = .stall → s.dev.shtTicks n = true → s.dev.shtProgram n = true →
    (s.dev.shuttle n).stall = some .stow → (s.dev.shuttle n).up.length < 4 → Completes (.shtStallRetry n pads) s (fun t =>
      (t.shuttle n).up = (s.dev.shuttle n).up ++ [((s.dev.shuttle n).ibs, (s.dev.shtTake n).shtStamp n, (s.dev.shuttle n).stowSeq)] ∧
      (t.shuttle n).state = .run ∧ (t.shuttle n).pc = ((s.dev.shuttle n).pc + 1) % 32 ∧ t.mem = s.dev.mem)) ∧
  (∀ s (n : Fin 32) pads, (s.dev.shuttle n).state = .run → s.dev.shtTicks n = true → s.dev.shtProgram n = true →
    shtIllegal (s.dev.shtFetched n) = true → Completes (.shtIllegalInstruction n pads) s (fun t =>
      t = ((s.dev.shtTake n).setSht n (fun x => { x with state := .fault })).shtCount n 7 (some 8) ∧ (t.shuttle n).state = .fault ∧
      (t.shuttle n).pc = (s.dev.shuttle n).pc)) ∧
  (∀ s (n : Fin 32) pads w x, (s.dev.shuttle n).inject = some w → (s.dev.shuttle n).load = none → s.dev.shtTicks n = true →
    ((s.dev.shtTake n).setSht n (fun x => { x with inject := none })).shtInjected n w pads = (.next, x, true) →
    Completes (.shtInject n pads) s (fun t => t = x)) ∧
  (∀ s (n : Fin 32) pads w, (s.dev.shuttle n).inject = some w → (s.dev.shuttle n).load = none → s.dev.shtTicks n = true → shtIllegal w = true →
    Completes (.shtInject n pads) s (fun t =>
      t = ((s.dev.shtTake n).setSht n (fun x => { x with inject := none })).shtCount n 6 (some 15))) ∧
  (∀ s (n : Fin 32) pc, (s.dev.shuttle n).load = some pc → s.dev.shtTicks n = true → s.dev.b (SHT_CTRL n) 0 = true →
    Completes (.shtLoadGo n) s (fun t => (t.shuttle n).pc = pc ∧ (t.shuttle n).load = none ∧ (t.shuttle n).stall = none ∧
      (t.shuttle n).bellWait = none ∧ t.mem = s.dev.mem))

/-- SHT: the FIFOs' ends, the control registers, groups, triggers and pads (R422, R425-R427, R434-R437).
Choices of the model in it: log entries 72, 73. -/
def Obligations.ShuttleControlComplete : Prop :=
  (∀ s (n : Fin 32) w st seq rest c, (s.dev.shuttle n).up = (w, st, seq) :: rest → s.dev.r (SHT_DEST n) ≠ 0 →
    (s.dev.shuttle n).drainAt ≤ s.dev.tb.now → s.dev.chanOf (s.dev.r (SHT_DEST n)) = some c → Completes (.shtUpDrain n) s (fun t =>
      t = (s.dev.setSht n (fun x => { x with up := rest, drainAt := s.dev.tb.now + 50 })).post c (mkEv 5 n st seq w))) ∧
  (∀ s who (n : Fin 32) w st seq rest, s.dev.reaches (SHT_UPF n) → s.dev.r (SHT_DEST n) = 0 → (s.dev.shuttle n).up = (w, st, seq) :: rest →
    Completes (.shtUpfRead who n) s (fun t => t = (s.dev.setSht n (fun x => { x with up := rest })).answer who w)) ∧
  (∀ s who (n : Fin 32) v, s.dev.reaches (SHT_DNF n) → (s.dev.shuttle n).dn.length < 4 → (s.dev.shuttle n).dnEng.1 ≠ s.dev.tb.now →
    Completes (.shtDnfWrite who n v) s (fun t =>
      t = s.dev.setSht n (fun x => { x with dn := (s.dev.shuttle n).dn ++ [v], dnEng := (s.dev.tb.now, if isHost who then 0 else 1) }))) ∧
  (∀ s who (n : Fin 32), s.dev.reaches (SHT_CTRL n) → s.dev.b (SHT_CTRL n) 2 = false → Completes (.shtFlushUp who n) s (fun t =>
      (t.shuttle n).up = [] ∧ (t.shuttle n).dn = (s.dev.shuttle n).dn ∧ (t.shuttle n).state = (s.dev.shuttle n).state ∧ t.mem = s.dev.mem)) ∧
  (∀ s who (n : Fin 32), s.dev.reaches (SHT_CTRL n) → s.dev.b (SHT_CTRL n) 1 = false → Completes (.shtFlushDn who n) s (fun t =>
      (t.shuttle n).dn = [] ∧ (t.shuttle n).up = (s.dev.shuttle n).up ∧ (t.shuttle n).state = (s.dev.shuttle n).state ∧ t.mem = s.dev.mem)) ∧
  (∀ s who (n : Fin 32) v, s.dev.reaches (SHT_CTRL n) → bitOf v 0 = true → fld v 2 1 = 0 → s.dev.b (SHT_CTRL n) 0 = false →
    Completes (.shtEnable who n v) s (fun t => t = ((s.dev.wb (SHT_CTRL n) 0 true).shtRunning n).shtRestart n ∧
      (t.shuttle n).pc = (s.dev.shuttle n).pc ∧ (t.shuttle n).divAt = s.dev.baseNext ∧ t.b (SHT_CTRL n) 0 = true)) ∧
  (∀ s who (g : Fin 4) v, s.dev.reaches (SHT_GRP_CTRL g) → bitOf v 8 = false → bitOf v 9 = false →
    Completes (.shtGroupStart who g v) s (fun t => t = s.dev.each (List.range 8) (fun d i =>
      if bitOf v i then ((d.shtEn (8 * g + i) true).shtRestart (8 * g + i)).setSht (8 * g + i) (fun x => { x with startAt := d.tb.now + 1 })
      else d))) ∧
  (∀ s who (g : Fin 4) v, s.dev.reaches (SHT_GRP_CTRL g) → bitOf v 9 = true → reached s.dev.tb.st (s.dev.r (SHT_GRP_AT g)) = false →
    Completes (.shtGroupStart who g v) s (fun t => t = { s.dev with pins := { s.dev.pins with
      grpDue := tset s.dev.pins.grpDue g (tget [] s.dev.pins.grpDue g ++ [w32 (fld v 9 0)]) } })) ∧
  (∀ s who (g : Fin 4) v, s.dev.reaches (SHT_GRP_CTRL g) → bitOf v 8 = true → bitOf v 9 = false →
    Completes (.shtGroupStop who g v) s (fun t => t = s.dev.each (List.range 8) (fun d i =>
      if bitOf v i then d.shtEn (8 * g + i) false else d))) ∧
  (∀ s (g : Fin 4) (n : Fin 16) st, tfind s.dev.trd.trigDue g = some (n.val, st) → (∀ i, i < 8 → s.dev.b (SHT_CTRL (8 * g + i)) 0 = false) →
    s.dev.b (SHT_GRP_CFG g) 0 = false → Completes (.shtGroupTrigger g n) s (fun t => tfind t.trd.trigDue g = none ∧
      t.f (SHT_GRP_TRIG g) 15 0 = wrapAdd 16 (s.dev.f (SHT_GRP_TRIG g) 15 0) 1 ∧ t.sht = s.dev.sht ∧ t.mem = s.dev.mem)) ∧
  (∀ s (i : Fin 64) level, s.dev.pinDrive i = none → tget 0 s.dev.pins.obsDue i = 0 → Completes (.padSense i level) s (fun t =>
      t = { s.dev with pins := { s.dev.pins with pad := put64 s.dev.pins.pad i level } }))

/-- Zelek moves and arithmetic (R186, R190, R191): result, flags, cost and program counter; nothing else changes.
Choices of the model in it: log entries 12, 13. -/
def Obligations.ZelekArithmeticComplete : Prop :=
  (∀ s (e : Fin 96) k z, s.dev.issues e k z → z.op = 0x01 →
    Completes (.nop e noEcc) s (fun t => t = s.dev.ran e k z (s.dev.ctx k) none)) ∧
  (∀ s (e : Fin 96) k z, s.dev.issues e k z → z.op ∈ [0x10, 0x11, 0x12] → Completes (.mov e noEcc) s (fun t =>
    t = s.dev.ran e k z ((s.dev.ctx k).setOpnd z.wide z.hi
      (if z.op = 0x10 then (s.dev.ctx k).rs z else if z.op = 0x11 then tc z.n (sx 8 z.imm) else z.imm)) none)) ∧
  (∀ s (e : Fin 96) k z, s.dev.issues e k z → z.op = 0x13 → Completes (.wra e noEcc) s (fun t =>
    t = s.dev.ran e k z ((s.dev.ctx k).setAr z.lo ((s.dev.ctx k).wr z.hi).toNat) none)) ∧
  (∀ s (e : Fin 96) k z, s.dev.issues e k z → z.op = 0x14 → Completes (.rda e noEcc) s (fun t =>
    t = s.dev.ran e k z ((s.dev.ctx k).setW z.hi (w32 ((s.dev.ctx k).arg z.lo))) none)) ∧
  (∀ s (e : Fin 96) k z, s.dev.issues e k z → z.op = 0x24 → Completes (.lda e noEcc) s (fun t =>
    t = s.dev.ran e k z ((s.dev.ctx k).setW z.hi ((s.dev.ctx k).wr (z.m % 16) + BitVec.ofInt 32 z.disp)) none)) ∧
  (∀ s (e : Fin 96) k z, s.dev.issues e k z → z.op ∈ [0x30, 0x40, 0x50] → Completes (.add e noEcc) s (fun t =>
    t = s.dev.ran e k z ((s.dev.ctx k).putAll z (addRes z.n ((s.dev.ctx k).rd z) (z.src2 (s.dev.ctx k)) 0)) none)) ∧
  (∀ s (e : Fin 96) k z, s.dev.issues e k z → z.op ∈ [0x31, 0x41, 0x51] → Completes (.sub e noEcc) s (fun t =>
    t = s.dev.ran e k z ((s.dev.ctx k).putAll z (subRes z.n ((s.dev.ctx k).rd z) (z.src2 (s.dev.ctx k)) 0)) none)) ∧
  (∀ s (e : Fin 96) k z, s.dev.issues e k z → z.op ∈ [0x32, 0x42, 0x52] → Completes (.adc e noEcc) s (fun t =>
    t = s.dev.ran e k z ((s.dev.ctx k).putAll z
      (addRes z.n ((s.dev.ctx k).rd z) (z.src2 (s.dev.ctx k)) (if (s.dev.ctx k).flag 2 then 1 else 0))) none)) ∧
  (∀ s (e : Fin 96) k z, s.dev.issues e k z → z.op ∈ [0x33, 0x43, 0x53] → Completes (.sbc e noEcc) s (fun t =>
    t = s.dev.ran e k z ((s.dev.ctx k).putAll z
      (subRes z.n ((s.dev.ctx k).rd z) (z.src2 (s.dev.ctx k)) (if (s.dev.ctx k).flag 2 then 0 else 1))) none)) ∧
  (∀ s (e : Fin 96) k z x, s.dev.issues e k z → z.op ∈ [0x37, 0x47, 0x57] →
    subRes z.n ((s.dev.ctx k).rd z) (z.src2 (s.dev.ctx k)) 0 = x → Completes (.cmp e noEcc) s (fun t =>
    t = s.dev.ran e k z (((s.dev.ctx k).zn z.n x.1).cv x.2.1 x.2.2) none)) ∧
  (∀ s (e : Fin 96) k z, s.dev.issues e k z → z.op = 0x39 → Completes (.neg e noEcc) s (fun t =>
    t = s.dev.ran e k z ((s.dev.ctx k).putAll z (subRes z.n 0 ((s.dev.ctx k).rs z) 0)) none))

/-- Zelek logic, multiplication and signed choice (R191): Z and N alone. -/
def Obligations.ZelekLogicComplete : Prop :=
  (∀ s (e : Fin 96) k z, s.dev.issues e k z → z.op ∈ [0x34, 0x44, 0x54] → Completes (.and_ e noEcc) s (fun t =>
    t = s.dev.ran e k z ((s.dev.ctx k).putZn z ((s.dev.ctx k).rd z &&& z.src2 (s.dev.ctx k))) none)) ∧
  (∀ s (e : Fin 96) k z, s.dev.issues e k z → z.op ∈ [0x35, 0x45, 0x55] → Completes (.or_ e noEcc) s (fun t =>
    t = s.dev.ran e k z ((s.dev.ctx k).putZn z ((s.dev.ctx k).rd z ||| z.src2 (s.dev.ctx k))) none)) ∧
  (∀ s (e : Fin 96) k z, s.dev.issues e k z → z.op ∈ [0x36, 0x46, 0x56] → Completes (.xor_ e noEcc) s (fun t =>
    t = s.dev.ran e k z ((s.dev.ctx k).putZn z ((s.dev.ctx k).rd z ^^^ z.src2 (s.dev.ctx k))) none)) ∧
  (∀ s (e : Fin 96) k z, s.dev.issues e k z → z.op ∈ [0x38, 0x48, 0x58] → Completes (.tst e noEcc) s (fun t =>
    t = s.dev.ran e k z ((s.dev.ctx k).zn z.n ((s.dev.ctx k).rd z &&& z.src2 (s.dev.ctx k))) none)) ∧
  (∀ s (e : Fin 96) k z, s.dev.issues e k z → z.op = 0x3A → Completes (.not_ e noEcc) s (fun t =>
    t = s.dev.ran e k z ((s.dev.ctx k).putZn z (2 ^ z.n - 1 - (s.dev.ctx k).rs z)) none)) ∧
  (∀ s (e : Fin 96) k z, s.dev.issues e k z → z.op = 0x3B → Completes (.mul e noEcc) s (fun t =>
    t = s.dev.ran e k z ((s.dev.ctx k).putZn z ((s.dev.ctx k).rd z * (s.dev.ctx k).rs z % 2 ^ 32)) none)) ∧
  (∀ s (e : Fin 96) k z, s.dev.issues e k z → z.op = 0x3C → Completes (.mulh e noEcc) s (fun t =>
    t = s.dev.ran e k z ((s.dev.ctx k).putZn z
      (tc 32 (sx 32 ((s.dev.ctx k).rd z) * sx 32 ((s.dev.ctx k).rs z) / 2 ^ 32))) none)) ∧
  (∀ s (e : Fin 96) k z, s.dev.issues e k z → z.op = 0x3D → Completes (.mulhu e noEcc) s (fun t =>
    t = s.dev.ran e k z ((s.dev.ctx k).putZn z ((s.dev.ctx k).rd z * (s.dev.ctx k).rs z / 2 ^ 32)) none)) ∧
  (∀ s (e : Fin 96) k z, s.dev.issues e k z → z.op = 0x3E → Completes (.min e noEcc) s (fun t =>
    t = s.dev.ran e k z ((s.dev.ctx k).putZn z (if sx z.n ((s.dev.ctx k).rd z) ≤ sx z.n ((s.dev.ctx k).rs z)
      then (s.dev.ctx k).rd z else (s.dev.ctx k).rs z)) none)) ∧
  (∀ s (e : Fin 96) k z, s.dev.issues e k z → z.op = 0x3F → Completes (.max e noEcc) s (fun t =>
    t = s.dev.ran e k z ((s.dev.ctx k).putZn z (if sx z.n ((s.dev.ctx k).rd z) ≤ sx z.n ((s.dev.ctx k).rs z)
      then (s.dev.ctx k).rs z else (s.dev.ctx k).rd z)) none))

/-- Zelek shifts and counts (R192, R193). A shift by a register uses its low byte; a count of zero leaves rd and every flag. -/
def Obligations.ZelekShiftsComplete : Prop :=
  (∀ s (e : Fin 96) k z n v, s.dev.issues e k z → z.op ∈ [0x60, 0x68] → (s.dev.ctx k).rd z = v →
    (if z.op = 0x60 then ((s.dev.ctx k).wr z.lo).toNat % 256 else z.imm) = n → Completes (.shl e noEcc) s (fun t =>
    (n = 0 → t = s.dev.ran e k z (s.dev.ctx k) none) ∧
    (1 ≤ n → n ≤ z.n → t = s.dev.ran e k z ((((s.dev.ctx k).zn z.n (v * 2 ^ n % 2 ^ z.n)).setFlag 2 (v.testBit (z.n - n))).setOpnd
      z.wide z.hi (v * 2 ^ n % 2 ^ z.n)) none) ∧
    (z.n < n → t = s.dev.ran e k z ((((s.dev.ctx k).zn z.n 0).setFlag 2 false).setOpnd z.wide z.hi 0) none))) ∧
  (∀ s (e : Fin 96) k z n v, s.dev.issues e k z → z.op ∈ [0x61, 0x69] → (s.dev.ctx k).rd z = v →
    (if z.op = 0x61 then ((s.dev.ctx k).wr z.lo).toNat % 256 else z.imm) = n → Completes (.shr e noEcc) s (fun t =>
    (n = 0 → t = s.dev.ran e k z (s.dev.ctx k) none) ∧
    (1 ≤ n → n ≤ z.n → t = s.dev.ran e k z ((((s.dev.ctx k).zn z.n (v / 2 ^ n)).setFlag 2 (v.testBit (n - 1))).setOpnd
      z.wide z.hi (v / 2 ^ n)) none) ∧
    (z.n < n → t = s.dev.ran e k z ((((s.dev.ctx k).zn z.n 0).setFlag 2 false).setOpnd z.wide z.hi 0) none))) ∧
  (∀ s (e : Fin 96) k z n v, s.dev.issues e k z → z.op ∈ [0x62, 0x6A] → (s.dev.ctx k).rd z = v →
    (if z.op = 0x62 then ((s.dev.ctx k).wr z.lo).toNat % 256 else z.imm) = n → Completes (.sar e noEcc) s (fun t =>
    (n = 0 → t = s.dev.ran e k z (s.dev.ctx k) none) ∧
    (1 ≤ n → n ≤ z.n → t = s.dev.ran e k z ((((s.dev.ctx k).zn z.n (tc z.n (sx z.n v / 2 ^ n))).setFlag 2 (v.testBit (n - 1))).setOpnd
      z.wide z.hi (tc z.n (sx z.n v / 2 ^ n))) none) ∧
    (z.n < n → ∀ r, (r = if v.testBit (z.n - 1) then 2 ^ z.n - 1 else 0) →
      t = s.dev.ran e k z ((((s.dev.ctx k).zn z.n r).setFlag 2 (v.testBit (z.n - 1))).setOpnd z.wide z.hi r) none))) ∧
  (∀ s (e : Fin 96) k z n v, s.dev.issues e k z → z.op ∈ [0x63, 0x6B] → (s.dev.ctx k).rd z = v →
    (if z.op = 0x63 then ((s.dev.ctx k).wr z.lo).toNat % 256 else z.imm) % z.n = n → Completes (.rol e noEcc) s (fun t =>
    (n = 0 → t = s.dev.ran e k z (s.dev.ctx k) none) ∧
    (n ≠ 0 → ∀ r, r = v * 2 ^ n % 2 ^ z.n + v / 2 ^ (z.n - n) →
      t = s.dev.ran e k z ((((s.dev.ctx k).zn z.n r).setFlag 2 (r.testBit 0)).setOpnd z.wide z.hi r) none))) ∧
  (∀ s (e : Fin 96) k z n v, s.dev.issues e k z → z.op ∈ [0x64, 0x6C] → (s.dev.ctx k).rd z = v →
    (if z.op = 0x64 then ((s.dev.ctx k).wr z.lo).toNat % 256 else z.imm) % z.n = n → Completes (.ror e noEcc) s (fun t =>
    (n = 0 → t = s.dev.ran e k z (s.dev.ctx k) none) ∧
    (n ≠ 0 → ∀ r, r = v / 2 ^ n + v % 2 ^ n * 2 ^ (z.n - n) →
      t = s.dev.ran e k z ((((s.dev.ctx k).zn z.n r).setFlag 2 (v.testBit (n - 1))).setOpnd z.wide z.hi r) none))) ∧
  (∀ s (e : Fin 96) k z r, s.dev.issues e k z → z.op = 0x65 → r = clzRes ((s.dev.ctx k).wr z.lo).toNat → Completes (.clz e noEcc) s (fun t =>
    t = s.dev.ran e k z (((s.dev.ctx k).setFlag 0 (r == 0)).setW z.hi (w32 r)) none)) ∧
  (∀ s (e : Fin 96) k z r, s.dev.issues e k z → z.op = 0x66 → r = popcRes ((s.dev.ctx k).wr z.lo).toNat → Completes (.popc e noEcc) s (fun t =>
    t = s.dev.ran e k z (((s.dev.ctx k).setFlag 0 (r == 0)).setW z.hi (w32 r)) none)) ∧
  (∀ s (e : Fin 96) k z r, s.dev.issues e k z → z.op = 0x67 → r = bswapRes ((s.dev.ctx k).wr z.lo).toNat → Completes (.bswap e noEcc) s (fun t =>
    t = s.dev.ran e k z (((s.dev.ctx k).zn 32 r).setW z.hi (w32 r)) none))

/-- Zelek bit fields and bits (R193). A field of width zero leaves rd and every flag. -/
def Obligations.ZelekFieldsComplete : Prop :=
  (∀ s (e : Fin 96) k z, s.dev.issues e k z → z.op ∈ [0x70, 0x71, 0x72, 0x73, 0x74] → z.imm / 64 % 128 = 0 →
    Completes (if z.op = 0x70 then .bfx e noEcc else if z.op = 0x71 then .bfxs e noEcc else if z.op = 0x72 then .bfi e noEcc
      else if z.op = 0x73 then .bfc e noEcc else .bfs e noEcc) s (fun t => t = s.dev.ran e k z (s.dev.ctx k) none)) ∧
  (∀ s (e : Fin 96) k z p w, s.dev.issues e k z → z.op = 0x70 → z.imm % 64 = p → z.imm / 64 % 128 = w → w ≠ 0 →
    Completes (.bfx e noEcc) s (fun t => t = s.dev.ran e k z ((s.dev.ctx k).putZn z ((s.dev.ctx k).rs z / 2 ^ p % 2 ^ w)) none)) ∧
  (∀ s (e : Fin 96) k z p w, s.dev.issues e k z → z.op = 0x71 → z.imm % 64 = p → z.imm / 64 % 128 = w → w ≠ 0 →
    Completes (.bfxs e noEcc) s (fun t =>
      t = s.dev.ran e k z ((s.dev.ctx k).putZn z (tc z.n (sx w ((s.dev.ctx k).rs z / 2 ^ p)))) none)) ∧
  (∀ s (e : Fin 96) k z p w, s.dev.issues e k z → z.op = 0x72 → z.imm % 64 = p → z.imm / 64 % 128 = w → w ≠ 0 →
    Completes (.bfi e noEcc) s (fun t => t = s.dev.ran e k z ((s.dev.ctx k).putZn z (z.insert ((s.dev.ctx k).rd z) ((s.dev.ctx k).rs z))) none ∧
      ∀ i, (z.insert ((s.dev.ctx k).rd z) ((s.dev.ctx k).rs z)).testBit i =
        if p ≤ i ∧ i < p + w then ((s.dev.ctx k).rs z).testBit (i - p) else ((s.dev.ctx k).rd z).testBit i)) ∧
  (∀ s (e : Fin 96) k z p w, s.dev.issues e k z → z.op = 0x73 → z.imm % 64 = p → z.imm / 64 % 128 = w → w ≠ 0 →
    Completes (.bfc e noEcc) s (fun t => t = s.dev.ran e k z ((s.dev.ctx k).putZn z (z.insert ((s.dev.ctx k).rd z) 0)) none ∧
      ∀ i, (z.insert ((s.dev.ctx k).rd z) 0).testBit i = if p ≤ i ∧ i < p + w then false else ((s.dev.ctx k).rd z).testBit i)) ∧
  (∀ s (e : Fin 96) k z p w, s.dev.issues e k z → z.op = 0x74 → z.imm % 64 = p → z.imm / 64 % 128 = w → w ≠ 0 →
    Completes (.bfs e noEcc) s (fun t => t = s.dev.ran e k z ((s.dev.ctx k).putZn z (z.insert ((s.dev.ctx k).rd z) (2 ^ w - 1))) none ∧
      ∀ i, (z.insert ((s.dev.ctx k).rd z) (2 ^ w - 1)).testBit i = if p ≤ i ∧ i < p + w then true else ((s.dev.ctx k).rd z).testBit i)) ∧
  (∀ s (e : Fin 96) k z, s.dev.issues e k z → z.op = 0x75 → Completes (.btst e noEcc) s (fun t =>
    t = s.dev.ran e k z ((s.dev.ctx k).setFlag 0 (!((s.dev.ctx k).rd z).testBit z.imm)) none)) ∧
  (∀ s (e : Fin 96) k z v, s.dev.issues e k z → z.op = 0x76 → (s.dev.ctx k).rd z = v → Completes (.bset e noEcc) s (fun t =>
    ∃ r, t = s.dev.ran e k z (((s.dev.ctx k).setFlag 0 (!v.testBit z.imm)).setOpnd z.wide z.hi r) none ∧
      ∀ i, r.testBit i = (i == z.imm || v.testBit i))) ∧
  (∀ s (e : Fin 96) k z v, s.dev.issues e k z → z.op = 0x77 → (s.dev.ctx k).rd z = v → Completes (.bclr e noEcc) s (fun t =>
    ∃ r, t = s.dev.ran e k z (((s.dev.ctx k).setFlag 0 (!v.testBit z.imm)).setOpnd z.wide z.hi r) none ∧
      ∀ i, r.testBit i = (i != z.imm && v.testBit i)))

/-- Zelek accumulators and CRC steps (R138, R195-R197). mac, msu and crc.m: with clean codewords and both fetches inside X and Y. -/
def Obligations.ZelekAccumulatorsComplete : Prop :=
  (∀ s (e : Fin 96) k z kx ky p, s.dev.issues e k z → z.op = 0xB0 →
    s.dev.arAccess k 0 ((s.dev.ctx k).arg (z.rb % 4)) 4 false = .inr (.local_ kx) →
    s.dev.arAccess k 1 ((s.dev.ctx k).arg (4 + z.rb / 4 % 4)) 2 false = .inr (.local_ ky) →
    sx 32 (leVal (s.dev.mrd kx 4)) * sx 16 (leVal (s.dev.mrd ky 2)) = p → Completes (.mac e noEcc) s (fun t =>
      t = s.dev.ran e k z ((((s.dev.ctx k).setAcc (z.rb / 16 % 2) ((s.dev.ctx k).acc (z.rb / 16 % 2) + BitVec.ofInt 72 p)).post
        (z.rb % 4) (sx 4 (z.b3 % 16) * 4)).post (4 + z.rb / 4 % 4) (sx 4 (z.b3 / 16) * 2)) none)) ∧
  (∀ s (e : Fin 96) k z kx ky p, s.dev.issues e k z → z.op = 0xB1 →
    s.dev.arAccess k 0 ((s.dev.ctx k).arg (z.rb % 4)) 4 false = .inr (.local_ kx) →
    s.dev.arAccess k 1 ((s.dev.ctx k).arg (4 + z.rb / 4 % 4)) 2 false = .inr (.local_ ky) →
    sx 32 (leVal (s.dev.mrd kx 4)) * sx 16 (leVal (s.dev.mrd ky 2)) = p → Completes (.msu e noEcc) s (fun t =>
      t = s.dev.ran e k z ((((s.dev.ctx k).setAcc (z.rb / 16 % 2) ((s.dev.ctx k).acc (z.rb / 16 % 2) - BitVec.ofInt 72 p)).post
        (z.rb % 4) (sx 4 (z.b3 % 16) * 4)).post (4 + z.rb / 4 % 4) (sx 4 (z.b3 / 16) * 2)) none)) ∧
  (∀ s (e : Fin 96) k z, s.dev.issues e k z → z.op = 0xB2 → Completes (.macR e noEcc) s (fun t =>
      t = s.dev.ran e k z ((s.dev.ctx k).setAcc (z.b3 % 2) ((s.dev.ctx k).acc (z.b3 % 2) +
        BitVec.ofInt 72 (sx 32 ((s.dev.ctx k).wr z.hi).toNat * sx 16 ((s.dev.ctx k).wr z.lo).toNat))) none)) ∧
  (∀ s (e : Fin 96) k z, s.dev.issues e k z → z.op = 0xB3 → Completes (.msuR e noEcc) s (fun t =>
      t = s.dev.ran e k z ((s.dev.ctx k).setAcc (z.b3 % 2) ((s.dev.ctx k).acc (z.b3 % 2) -
        BitVec.ofInt 72 (sx 32 ((s.dev.ctx k).wr z.hi).toNat * sx 16 ((s.dev.ctx k).wr z.lo).toNat))) none)) ∧
  (∀ s (e : Fin 96) k z, s.dev.issues e k z → z.op = 0xB4 → Completes (.clra e noEcc) s (fun t =>
      t = s.dev.ran e k z ((s.dev.ctx k).setAcc (z.rb % 2) 0) none)) ∧
  (∀ s (e : Fin 96) k z, s.dev.issues e k z → z.op = 0xB5 → Completes (.ashr e noEcc) s (fun t =>
      t = s.dev.ran e k z ((s.dev.ctx k).setAcc (z.rb % 2) (((s.dev.ctx k).acc (z.rb % 2)).sshiftRight (z.rb / 8))) none)) ∧
  (∀ s (e : Fin 96) k z r v, s.dev.issues e k z → z.op = 0xB6 → accPart ((s.dev.ctx k).acc (z.b3 % 2)) (z.b3 / 2 % 4) = (r, v) →
    Completes (.mvfa e noEcc) s (fun t => t = s.dev.ran e k z
      ((match v with | some b => (s.dev.ctx k).setFlag 3 b | none => s.dev.ctx k).setW z.hi (w32 r)) none)) ∧
  (∀ s (e : Fin 96) k z, s.dev.issues e k z → z.op = 0xB7 → Completes (.mvta e noEcc) s (fun t =>
      t = s.dev.ran e k z ((s.dev.ctx k).setAcc (z.b3 % 2) (BitVec.ofInt 72 (sx 32 ((s.dev.ctx k).wr z.lo).toNat))) none)) ∧
  (∀ s (e : Fin 96) k z r, s.dev.issues e k z → z.op = 0xC0 →
    crcStep ((s.dev.ctx k).wr (z.b3 % 16)) 8 ((s.dev.ctx k).wr z.lo).toNat ((s.dev.ctx k).wr z.hi) = r → Completes (.crcB e noEcc) s
      (fun t => t = s.dev.ran e k z (((s.dev.ctx k).setFlag 0 (r == 0)).setW z.hi r) none)) ∧
  (∀ s (e : Fin 96) k z r, s.dev.issues e k z → z.op = 0xC1 →
    crcStep ((s.dev.ctx k).wr (z.b3 % 16)) 16 ((s.dev.ctx k).wr z.lo).toNat ((s.dev.ctx k).wr z.hi) = r → Completes (.crcH e noEcc) s
      (fun t => t = s.dev.ran e k z (((s.dev.ctx k).setFlag 0 (r == 0)).setW z.hi r) none)) ∧
  (∀ s (e : Fin 96) k z r, s.dev.issues e k z → z.op = 0xC2 →
    crcStep ((s.dev.ctx k).wr (z.b3 % 16)) 32 ((s.dev.ctx k).wr z.lo).toNat ((s.dev.ctx k).wr z.hi) = r → Completes (.crcW e noEcc) s
      (fun t => t = s.dev.ran e k z (((s.dev.ctx k).setFlag 0 (r == 0)).setW z.hi r) none)) ∧
  (∀ s (e : Fin 96) k z i key r, s.dev.issues e k z → z.op = 0xC3 → z.b3 % 4 + 4 * (z.b3 / 4 % 2) = i →
    s.dev.arAccess k (z.b3 / 4 % 2) ((s.dev.ctx k).arg i) 1 false = .inr (.local_ key) →
    crcStep ((s.dev.ctx k).wr z.lo) 8 (leVal (s.dev.mrd key 1)) ((s.dev.ctx k).wr z.hi) = r → Completes (.crcM e noEcc) s
      (fun t => t = s.dev.ran e k z ((((s.dev.ctx k).setFlag 0 (r == 0)).setW z.hi r).post i 1) none))

/-- Zelek branches, calls and control registers (R139, R140, R180, R194, R208): the target, w15, the flags. -/
def Obligations.ZelekBranchesComplete : Prop :=
  (∀ s (e : Fin 96) k z, s.dev.issues e k z → z.op = 0x02 → Completes (.ret e noEcc) s (fun t =>
      t = s.dev.ran e k z (s.dev.ctx k) (some ((s.dev.ctx k).wr 15).toNat))) ∧
  (∀ s (e : Fin 96) k z, s.dev.issues e k z → 0x80 ≤ z.op → z.op ≤ 0x9F → Completes (.bCond e noEcc) s (fun t =>
      t = s.dev.ran e k z (s.dev.ctx k) (if (s.dev.ctx k).cond (z.op % 16) then
        some (tc 32 (((s.dev.ctx k).pc : Int) + z.len + z.disp)) else none))) ∧
  (∀ s (e : Fin 96) k z, s.dev.issues e k z → z.op = 0xA3 → Completes (.bLate e noEcc) s (fun t =>
      t = s.dev.ran e k z (s.dev.ctx k) (if (s.dev.ctx k).flag 5 then
        some (tc 32 (((s.dev.ctx k).pc : Int) + z.len + z.disp)) else none))) ∧
  (∀ s (e : Fin 96) k z, s.dev.issues e k z → z.op = 0xA4 → Completes (.bOntime e noEcc) s (fun t =>
      t = s.dev.ran e k z (s.dev.ctx k) (if (s.dev.ctx k).flag 5 then none else
        some (tc 32 (((s.dev.ctx k).pc : Int) + z.len + z.disp))))) ∧
  (∀ s (e : Fin 96) k z, s.dev.issues e k z → z.op = 0xA5 → Completes (.bTc e noEcc) s (fun t =>
      t = s.dev.ran e k z (s.dev.ctx k) (if (s.dev.ctx k).flag 4 then none else
        some (tc 32 (((s.dev.ctx k).pc : Int) + z.len + z.disp))))) ∧
  (∀ s (e : Fin 96) k z, s.dev.issues e k z → z.op = 0xA0 → Completes (.call e noEcc) s (fun t =>
      t = s.dev.ran e k z ((s.dev.ctx k).setW 15 (w32 ((s.dev.ctx k).pc + z.len)))
        (some (tc 32 (((s.dev.ctx k).pc : Int) + z.len + z.disp))))) ∧
  (∀ s (e : Fin 96) k z, s.dev.issues e k z → z.op = 0xA1 → Completes (.callR e noEcc) s (fun t =>
      t = s.dev.ran e k z ((s.dev.ctx k).setW 15 (w32 ((s.dev.ctx k).pc + z.len))) (some ((s.dev.ctx k).wr z.lo).toNat))) ∧
  (∀ s (e : Fin 96) k z, s.dev.issues e k z → z.op = 0xA2 → Completes (.jmpR e noEcc) s (fun t =>
      t = s.dev.ran e k z (s.dev.ctx k) (some ((s.dev.ctx k).wr z.lo).toNat))) ∧
  (∀ s (e : Fin 96) k z, s.dev.issues e k z → z.op = 0xA6 → Completes (.dbnz e noEcc) s (fun t =>
      t = s.dev.ran e k z ((s.dev.ctx k).setW z.hi ((s.dev.ctx k).wr z.hi - 1)) (if (s.dev.ctx k).wr z.hi = 1 then none else
        some (tc 32 (((s.dev.ctx k).pc : Int) + z.len + z.disp))))) ∧
  (∀ s (e : Fin 96) k z, s.dev.issues e k z → z.op = 0x04 → z.lo ≠ 3 → Completes (.rdc e noEcc) s (fun t =>
      t = s.dev.ran e k z ((s.dev.ctx k).setW z.hi (s.dev.ctlRead e k z.lo)) none)) ∧
  (∀ s (e : Fin 96) k z v, s.dev.issues e k z → z.op = 0x04 → z.lo = 3 → s.dev.boundWave e = v → Completes (.rdc e noEcc) s (fun t =>
      t = s.dev.ran e k z (({ s.dev.ctx k with wtimeHi := w32 (v / 2 ^ 32) }).setW z.hi (w32 v)) none)) ∧
  (∀ s (e : Fin 96) k z, s.dev.issues e k z → z.op = 0x05 → z.lo = 0 → Completes (.wrc e noEcc) s (fun t =>
      t = s.dev.ran e k z { s.dev.ctx k with flags := setFld (s.dev.ctx k).flags 4 0 (fld ((s.dev.ctx k).wr z.hi) 4 0) } none)) ∧
  (∀ s (e : Fin 96) k z, s.dev.issues e k z → z.op = 0x05 → z.lo = 1 → Completes (.wrc e noEcc) s (fun t =>
      t = s.dev.ran e k z { s.dev.ctx k with rcnt := (s.dev.ctx k).wr z.hi } none)) ∧
  (∀ s (e : Fin 96) k z, s.dev.issues e k z → z.op = 0x05 → 2 ≤ z.lo → Completes (.wrc e noEcc) s (fun t =>
      t = s.dev.ran e k z (s.dev.ctx k) none))

/-- Zelek memory instructions (R144, R178, R187-R189, R198, R209): loads, stores, the stack, atomics and fence.
Choices of the model in it: log entries 13, 22. -/
def Obligations.ZelekMemoryComplete : Prop :=
  (∀ s (e : Fin 96) k z, s.dev.issues e k z → z.op = 0x03 → (s.dev.eng e).far.any (fun f => f.key == k && f.copy.isNone) = false →
    Completes (.fence e noEcc) s (fun t => t = s.dev.ran e k z (s.dev.ctx k) none)) ∧
  (∀ s (e : Fin 96) k z key, s.dev.issues e k z → z.op = 0x15 → (s.dev.act k).stored = none →
    s.dev.stackAddr k ((s.dev.ctx k).wr 14 - w32 z.s).toNat z.s true = .inr (.local_ key) → Completes (.push e noEcc) s (fun t =>
      t = (s.dev.mwr key (leBytes z.s ((s.dev.ctx k).rs z))).ran e k z
        ((s.dev.ctx k).setW 14 ((s.dev.ctx k).wr 14 - w32 z.s)) none)) ∧
  (∀ s (e : Fin 96) k z key, s.dev.issues e k z → z.op = 0x16 →
    s.dev.stackAddr k ((s.dev.ctx k).wr 14).toNat z.s false = .inr (.local_ key) → Completes (.pop e noEcc) s (fun t =>
      t = s.dev.ran e k z (((s.dev.ctx k).setW 14 ((s.dev.ctx k).wr 14 + w32 z.s)).load z.wide z.lo (leVal (s.dev.mrd key z.s))) none)) ∧
  (∀ s (e : Fin 96) k z key, s.dev.issues e k z → z.op = 0x20 → s.dev.zOperand k z false = .inr (.local_ key) →
    Completes (.ld e noEcc) s (fun t =>
      t = s.dev.ran e k z (((s.dev.ctx k).postOperand z).load z.wide z.hi (leVal (s.dev.mrd key z.s))) none)) ∧
  (∀ s (e : Fin 96) k z r key, s.dev.issues e k z → z.op = 0x20 → s.dev.zOperand k z false = .inr (.far r key) →
    s.dev.farFull e = false → Completes (.ld e noEcc) s (fun t => ∃ f, farOp k z.s z.hi (.far r key) = some f ∧ f.region = r ∧
      f.addr = key ∧ f.size = z.s ∧ f.dest = z.hi ∧ f.store = false ∧ f.signed = false ∧
      t = (((s.dev.begun k).setCtx k (fun c => { c.postOperand z with
        delay := (c.postOperand z).delay.filter (fun (x : DelaySlot) => !((pairOf (z.s == 8) z.hi).contains x.dest)) })).farPush e f).zFinish
          e k z (s.dev.zCost k z false) none)) ∧
  (∀ s (e : Fin 96) k z key, s.dev.issues e k z → z.op = 0x21 → s.dev.zOperand k z false = .inr (.local_ key) →
    Completes (.lds e noEcc) s (fun t =>
      t = s.dev.ran e k z (((s.dev.ctx k).postOperand z).load z.wide z.hi (tc 32 (sx (8 * z.s) (leVal (s.dev.mrd key z.s))))) none)) ∧
  (∀ s (e : Fin 96) k z key, s.dev.issues e k z → z.op = 0x22 → (s.dev.act k).stored = none → s.dev.zOperand k z true = .inr (.local_ key) →
    Completes (.st e noEcc) s (fun t => t = (s.dev.mwr key (leBytes z.s ((s.dev.ctx k).rd z))).ran e k z
      ((s.dev.ctx k).postOperand z) none)) ∧
  (∀ s (e : Fin 96) k z key b l, s.dev.issues e k z → z.op = 0x22 → s.dev.zOperand k z true = .inr (.local_ key) →
    (s.dev.act k).stored = some l → s.dev.ckptBlock k key = some b → b ∉ l → Completes (.st e noEcc) s (fun t => ∃ n, n ≤ 4 ∧
      (t.act k).stored = some (b :: l) ∧ t.mem = (s.dev.mwr key (leBytes z.s ((s.dev.ctx k).rd z))).mem ∧
      (s.dev.replaying k = false → (t.ctx k).budget = (s.dev.ctx k).budget - (s.dev.zCost k z false + n)))) ∧
  (∀ s (e : Fin 96) k z r key, s.dev.issues e k z → z.op = 0x22 → (s.dev.act k).stored = none → s.dev.zOperand k z true = .inr (.far r key) →
    Completes (.st e noEcc) s (fun t => ∃ f, f.region = r ∧ f.addr = key ∧ f.size = z.s ∧ f.store = true ∧ f.key = k ∧
      f.value.toNat = (s.dev.ctx k).rd z % 2 ^ (8 * z.s) ∧
      t = (((s.dev.begun k).setCtx k (fun c => c.postOperand z)).farPush e f).zFinish e k z (s.dev.zCost k z false) none)) ∧
  (∀ s (e : Fin 96) k z key, s.dev.issues e k z → z.op = 0x23 → (s.dev.act k).stored = none → s.dev.zOperand k z true = .inr (.local_ key) →
    Completes (.sti e noEcc) s (fun t => t = (s.dev.mwr key (leBytes z.s z.imm)).ran e k z ((s.dev.ctx k).postOperand z) none)) ∧
  (∀ s (e : Fin 96) k z key a, s.dev.issues e k z → z.op = 0xD0 → (s.dev.act k).stored = none →
    ((s.dev.ctx k).wr (z.m % 16) + BitVec.ofInt 32 z.disp).toNat = a → a < 0x21000000 →
    s.dev.zAddr k z.far a z.s true = .inr (.far .bank key) → s.dev.farFull e = false → Completes (.aadd e noEcc) s (fun t =>
      ∃ f, f.atomic = some .add ∧ f.region = .bank ∧ f.addr = key ∧ f.size = z.s ∧ f.dest = z.hi ∧ f.ord = z.ord ∧ f.store = false ∧
        f.value = BitVec.ofNat 64 ((s.dev.ctx k).rs z) ∧
        t = (((s.dev.begun k).setCtx k (fun c => { c with
          delay := c.delay.filter (fun (x : DelaySlot) => !((pairOf (z.s == 8) z.hi).contains x.dest)) })).farPush e f).zFinish
            e k z (s.dev.zCost k z false) none)) ∧
  (∀ s (e : Fin 96) k z key a, s.dev.issues e k z → z.op = 0xD1 → (s.dev.act k).stored = none →
    ((s.dev.ctx k).wr (z.m % 16) + BitVec.ofInt 32 z.disp).toNat = a → a < 0x21000000 →
    s.dev.zAddr k z.far a z.s true = .inr (.far .bank key) → s.dev.farFull e = false → Completes (.aswap e noEcc) s (fun t =>
      ∃ f, f.atomic = some .swap ∧ f.region = .bank ∧ f.addr = key ∧ f.size = z.s ∧ f.dest = z.hi ∧ f.ord = z.ord ∧ f.store = false ∧
        f.value = BitVec.ofNat 64 ((s.dev.ctx k).rs z) ∧
        t = (((s.dev.begun k).setCtx k (fun c => { c with
          delay := c.delay.filter (fun (x : DelaySlot) => !((pairOf (z.s == 8) z.hi).contains x.dest)) })).farPush e f).zFinish
            e k z (s.dev.zCost k z false) none))

/-- take, wait, give, bell and stamp (R151-R153, R200-R207).
Choices of the model in it: log entries 47, 89. -/
def Obligations.ZelekActivationsComplete : Prop :=
  (∀ s (e : Fin 96) k z d, s.dev.issues e k z → z.op = 0xE0 → s.dev.copyDue k = false →
    ((s.dev.begun k).judgeLate k).sealInput k = d → d.isPlaced k = true → firstEv (d.visibleOf k) = none →
    Completes (.take e noEcc) s (fun t =>
      t = (d.setCtx k (fun c => c.setFlag 0 true)).zFinish e k z (s.dev.zCost k z false) none)) ∧
  (∀ s (e : Fin 96) k z d v, s.dev.issues e k z → z.op = 0xE0 → s.dev.copyDue k = false →
    ((s.dev.begun k).judgeLate k).sealInput k = d → d.isPlaced k = true → firstEv (d.visibleOf k) = some v →
    Completes (.take e noEcc) s (fun t => t = (d.takeEvent k v).zFinish e k z (s.dev.zCost k z false) none)) ∧
  (∀ s (e : Fin 96) k z d, s.dev.issues e k z → z.op = 0xE2 → s.dev.copyDue k = false →
    ((s.dev.begun k).judgeLate k).sealInput k = d → d.isPlaced k = true → Completes (.wait e noEcc) s (fun t =>
      t = ((d.leave e k .waiting).setAct k (fun a => { a with open_ := false })).zFinish e k z (s.dev.zCost k z false) none)) ∧
  (∀ s (e : Fin 96) k z n, s.dev.issues e k z → z.op = 0xE3 → (s.dev.act k).input.isSome = true →
    (s.dev.ctx k).cinRel - 64 - s.dev.tb.st = n → Completes (.stamp e noEcc) s (fun t =>
      t = s.dev.ran e k z ((((s.dev.ctx k).zn 32 n.toNat).setFlag 4 (n == 0 || n.msb)).setW z.lo n) none)) ∧
  (∀ s (e : Fin 96) k z, s.dev.issues e k z → z.op = 0xE3 → (s.dev.act k).input = none → Completes (.stamp e noEcc) s (fun t =>
      t = s.dev.ran e k z (((((s.dev.ctx k).setFlag 0 false).setFlag 1 false).setFlag 4 false).setW z.lo 0x7FFFFFFF) none)) ∧
  (∀ s (e : Fin 96) k z desc pair d, s.dev.issues e k z → z.op = 0xE1 → (s.dev.ctx k).wr z.hi = desc →
    BitVec.ofNat 64 ((s.dev.ctx k).opnd true z.lo) = pair → giveBuf desc pair = none → s.dev.giveOk (keyChan k) desc pair = true →
    (s.dev.begun k).judgeLate k = d → (d.act k).input.isSome = true → (d.act k).inputLate = false →
    (d.act k).given < fld (d.desc (keyChan k) 5) 15 8 → (d.eng e).outq.length < 64 → Completes (.give e noEcc) s (fun t =>
      t = ((d.setAct k (fun a => { a with given := a.given + 1 })).outPush e k desc pair none).zFinish e k z (s.dev.zCost k z false) none)) ∧
  (∀ s (e : Fin 96) k z desc pair a n o ro key d, s.dev.issues e k z → z.op = 0xE1 → (s.dev.ctx k).wr z.hi = desc →
    BitVec.ofNat 64 ((s.dev.ctx k).opnd true z.lo) = pair → giveBuf desc pair = some (a, n) → n ≠ 0 → a % 4 = 0 →
    s.dev.farWin k a n = some (o, ro, key) → s.dev.giveOk (keyChan k) desc pair = true →
    (s.dev.begun k).judgeLate k = d → (d.act k).input.isSome = true → (d.act k).inputLate = false →
    (d.act k).given < fld (d.desc (keyChan k) 5) 15 8 → (d.eng e).outq.length < 64 → Completes (.give e noEcc) s (fun t =>
      t = ((d.setAct k (fun a => { a with given := a.given + 1 })).outPush e k desc pair
        (some (if (bankOfKey key).isSome then .bank else .ext, key, n))).zFinish e k z (s.dev.zCost k z false) none)) ∧
  (∀ s (e : Fin 96) k z h d, s.dev.issues e k z → z.op = 0xE4 → (s.dev.ctx k).wr z.hi = h → s.dev.checkHandle 2 h = .ok →
    (s.dev.sendDir (keyChan k) (hIdx h)).isSome = true →
    (s.dev.begun k).judgeLate k = d → (d.act k).input.isSome = true → (d.act k).inputLate = false →
    (d.act k).given < fld (d.desc (keyChan k) 5) 15 8 → (d.eng e).outq.length < 64 → Completes (.bell e noEcc) s (fun t =>
      t = ((d.setAct k (fun a => { a with given := a.given + 1 })).outPush e k (w32 (15 + 16 * hIdx h + 65536 * z.imm)) 0 none).zFinish
        e k z (s.dev.zCost k z false) none))

/-- The scheduler, exceptions of the decoder, and the posting of an event (R131, R134, R146-R149, R153, R155-R160, R183, R184, R236).
Choices of the model in it: log entries 26, 46. -/
def Obligations.SchedulerComplete : Prop :=
  (∀ s (e : Fin 96) k, s.dev.engGo e = true → (s.dev.eng e).stopped = false → (s.dev.eng e).cur = none → s.dev.bestReady e = some k →
    Completes (.dispatch e .clean .clean) s (fun t => (t.eng e).cur = some k ∧ (t.eng e).loaded = some k ∧ (t.act k).st = .running ∧
      (t.act k).open_ = true ∧ (t.eng e).busy = ((s.dev.eng e).busy + (if (s.dev.eng e).loaded = some k then 4
        else if (s.dev.eng e).loaded.isSome then 52 else 28)) % 2 ^ 64 ∧ t.mem = s.dev.mem ∧ ∀ j, j ≠ k → t.act j = s.dev.act j)) ∧
  (∀ s (e : Fin 96) c, s.dev.each ((s.dev.slotKeys e).filter (fun k => k < 512)) (fun d c => d.ckptSettled c) = c →
    (c.eng e).cur = none → Completes (.eventVisible e) s (fun t => t = c.setEng e (fun x => { x with evq := x.evq.map (fun (v : Ev) =>
        { v with visible := v.visible || reached c.tb.st (c.visAt v) }) }))) ∧
  (∀ s (e : Fin 96) k j c d, s.dev.each ((s.dev.slotKeys e).filter (fun k => k < 512)) (fun d c => d.ckptSettled c) = c →
    c.setEng e (fun x => { x with evq := x.evq.map (fun (v : Ev) =>
      { v with visible := v.visible || reached c.tb.st (c.visAt v) }) }) = d →
    d.engGo e = true → (d.eng e).stopped = false → (d.eng e).cur = some k → d.bestReady e = some j → (d.act k).st = .running →
    d.preemptible k = true → d.earlier j k = true → Completes (.eventVisible e) s (fun t =>
      (t.act k).st = .preempted ∧ (t.eng e).cur = none ∧ (t.eng e).evq = (d.eng e).evq ∧ t = (d.leave e k .preempted).cnt (ENG_PREEMPT e))) ∧
  (∀ s (e : Fin 96) k, (s.dev.eng e).cur = some k → (s.dev.act k).st = .running → (s.dev.ctx k).budget = 0 → s.dev.replaying k = false →
    (s.dev.act k).heldAt = none → s.dev.loadsOf k = [] → Completes (.budgetExhausted e) s (fun t => (t.act k).st = .suspended ∧ (t.eng e).cur = none ∧
      (t.ctx k) = s.dev.ctx k ∧ t.mem = s.dev.mem ∧ t = ((s.dev.leave e k .suspended).cnt (ENG_BUDGET_OVR e)).setBell (.eng e) 4)) ∧
  (∀ s (c : Fin 512), Completes (.atTargetReached c) s (fun t => (∀ k, k ∈ [c.val, 512 + c.val] → (s.dev.act k).st = .parked →
      reached s.dev.tb.st (s.dev.act k).atTarget = true → (t.act k).st = .preempted ∧ (t.act k).atGo = true) ∧
      (∀ k, (k ∉ [c.val, 512 + c.val] ∨ (s.dev.act k).st ≠ .parked ∨ reached s.dev.tb.st (s.dev.act k).atTarget = false) →
        t.act k = s.dev.act k) ∧ t.mem = s.dev.mem ∧ t.regs = s.dev.regs)) ∧
  (∀ s (c : Fin 512), (s.dev.act c).input.isSome = true → s.dev.replaying c = false → s.dev.deadPast c = true →
    Completes (.sealDeadline c) s (fun t => t = (s.dev.lateInput c).judgeLate (512 + c))) ∧
  (∀ s (c : Fin 512), (∀ k, k ∈ [c.val, 512 + c.val] → (s.dev.act k).input = none ∨ s.dev.replaying k = true ∨ s.dev.deadPast k = false) →
    Completes (.sealDeadline c) s (fun t => t = s.dev)) ∧
  (∀ s (e : Fin 96), (s.dev.eng e).stopped = false → (s.dev.eng e).retired = false → s.dev.pwr.mainUp = true → s.dev.engGo e = false →
    (∀ k, (s.dev.eng e).cur = some k → s.dev.preemptible k = true) → Completes (.engineStopPoint e) s (fun t =>
      (t.eng e).stopped = true ∧ t.mem = s.dev.mem ∧ t.cut.acts = s.dev.cut.acts ∧
      t = (if s.dev.b (ENG_CTRL e) 0 then (s.dev.setEng e (fun x => { x with stopped := true })).setBell (.eng e) 128
        else s.dev.setEng e (fun x => { x with stopped := true })))) ∧
  (∀ s (e : Fin 96) k o, s.dev.canIssue e = some k → s.dev.zAt k = .illegal o → Completes (.illegalInstruction e noEcc) s (fun t =>
      t = s.dev.raise e k 1 (some ((s.dev.ctx k).pc + o)))) ∧
  (∀ s (e : Fin 96) k, s.dev.canIssue e = some k → s.dev.zAt k = .outside → Completes (.illegalInstruction e noEcc) s (fun t =>
      t = s.dev.raise e k 2 (some (s.dev.ctx k).pc))) ∧
  (∀ s ev, (s.dev.chan ev.chan).st = .running → (s.dev.chan ev.chan).stopAt = none → (tfind s.dev.cut.acts ev.chan).isSome = true →
    (s.dev.chan ev.chan).mig = none → s.dev.b CUT_CKPT_CFG 0 = false →
    ((s.dev.eng (s.dev.act ev.chan).eng).eventsOf ev.chan).length < fld (s.dev.desc ev.chan 5) 7 0 →
    (s.dev.eng (s.dev.act ev.chan).eng).evq.length < 128 → Completes (.eventPost ev) s (fun t => ∃ v, v.src = ev.src.val ∧
      v.unit = ev.unit.toNat ∧ v.stamp = ⟨ev.st, ev.quarter.val, ev.gen.val⟩ ∧ v.seq = ev.seq.toNat ∧ v.payload = ev.payload ∧
      v.chan = ev.chan.val ∧ v.overrun = false ∧
      (t.eng (s.dev.act ev.chan).eng).evq = (s.dev.eng (s.dev.act ev.chan).eng).evq ++ [v] ∧
      (t.chan ev.chan).journal.length = (s.dev.chan ev.chan).journal.length + 1 ∧ (t.act ev.chan).dropped = (s.dev.act ev.chan).dropped ∧ t.mem = s.dev.mem)) ∧
  (∀ s ev, (s.dev.chan ev.chan).st = .running → (s.dev.chan ev.chan).stopAt = none → (tfind s.dev.cut.acts ev.chan).isSome = true →
    (s.dev.chan ev.chan).mig = none → s.dev.b CUT_CKPT_CFG 0 = false →
    fld (s.dev.desc ev.chan 5) 7 0 ≤ ((s.dev.eng (s.dev.act ev.chan).eng).eventsOf ev.chan).length → Completes (.eventPost ev) s (fun t =>
      (t.act ev.chan).dropped = true ∧ (t.chan ev.chan).journal = (s.dev.chan ev.chan).journal ∧
      (t.eng (s.dev.act ev.chan).eng).evq = (s.dev.eng (s.dev.act ev.chan).eng).evq ∧ t.mem = s.dev.mem))

/-- REGISTER_WRITE (R4, R5, R7, R8, R28): partial byte enables, no register at the offset, a block that is closed, and a register that
only has access codes. An engine's write has no byte enables.
Choices of the model in it: log entries 81, 82. -/
def Obligations.RegisterWritesComplete : Prop :=
  (∀ s who a be v hw, isHost who = true → be ≠ 15#4 → s.dev.hostUp = true → Completes (.registerWrite who a be v hw) s (fun t =>
      t = s.dev.accErr who true 1 a)) ∧
  (∀ s who a be v hw r, (isHost who = false ∨ be = 15#4) → s.dev.reaches a → regDesc a = some r → Completes (.registerWrite who a be v hw) s (fun t =>
      t = s.dev.blockWrite who r a v hw)) ∧
  (∀ s who a be v hw, be = 15#4 → s.dev.reaches a → regDesc a = none → beyondBlocks who a = false → Completes (.registerWrite who a be v hw) s (fun t =>
      t = s.dev.accErr who true 2 a)) ∧
  (∀ s who a be v hw, be = 15#4 → s.dev.hostUp = true → s.dev.blockOpen a = false → Completes (.registerWrite who a be v hw) s (fun t =>
      t = s.dev.accErr who true 4 a)) ∧
  (∀ s who a be v hw r, be = 15#4 → s.dev.reaches a → regDesc a = some r →
    (a < 0x100000 ∨ 0x800000 ≤ a ∧ a < 0x900000) → bellAt a = none → (r.rwl = 0 ∨ s.dev.lockOpen = true) →
    Completes (.registerWrite who a be v hw) s (fun t => t = s.dev.w a (writeByCode r s.dev.lockOpen (s.dev.r a) v hw))) ∧
  (∀ s who a be v hw r b, be = 15#4 → s.dev.reaches a → regDesc a = some r → (a < 0x100000 ∨ 0x800000 ≤ a ∧ a < 0x900000) →
    bellAt a = some b → (r.rwl = 0 ∨ s.dev.lockOpen = true) → Completes (.registerWrite who a be v hw) s (fun t =>
      t = (s.dev.w a (writeByCode r s.dev.lockOpen (s.dev.r a) v hw)).bellWritten b (b.addr == a) (match b.vec with | some n => s.dev.vecOr n | none => false))) ∧
  (∀ s who a be v hw r, be = 15#4 → s.dev.reaches a → regDesc a = some r →
    (a < 0x100000 ∨ 0x800000 ≤ a ∧ a < 0x900000) → bellAt a = none → r.rwl ≠ 0 → s.dev.lockOpen = false →
    Completes (.registerWrite who a be v hw) s (fun t =>
      t = (s.dev.w a (writeByCode r false (s.dev.r a) v hw)).accErr who true 3 a))

/-- A step with a command at the front of the queue is that command's effect on the state with the queue's rest. -/
def Obligations.StepRunsFront : Prop := ∀ c s, step (s.withFront c) = exec c s

/-- On an empty queue the step is a tick of 4 ns: the model's choice for the passing of time (log entry 3). The clock advances, memory and
the security unit stay. -/
def Obligations.EmptyQueueTicks : Prop := ∀ s, s.pending = [] → ∃ t, step s = .next t ∧ t.dev.tb.now = s.dev.tb.now + 4 ∧
  t.dev.mem = s.dev.mem ∧ t.dev.sec = s.dev.sec ∧
  (s.dev.taiRuns = true → s.dev.pwr.mainUp = true → s.dev.tb.y = 0 → s.dev.tb.frac = 0 → t.dev.tb.st = s.dev.tb.st + 4)

/-- What reset leaves, where the spec gives the value (R10, R12, R25, R27, R61): Boot with every domain out of reset, short time 0,
no channel, no generation issued, nothing in memory but zeros, idle command ports, the part number and the reset values of some
registers with a value other than 0.
Choices of the model in it: log entries 6, 8. -/
def Obligations.ResetLeaves : Prop :=
  State.reset.pending = [] ∧ State.reset.dev.mode = .boot ∧ State.reset.dev.pwr.mainUp = true ∧ State.reset.dev.tb.st = 0 ∧
  (∀ c, (State.reset.dev.chan c).st = .free) ∧ (∀ k i, State.reset.dev.genOf k i = 0) ∧
  (∀ k, State.reset.dev.b (CUT_CMD_STAT k) 8 = false ∨ 4 ≤ k) ∧ State.reset.dev.r DEV_ID = 0x9600 ∧
  (∀ e, e < 96 → State.reset.dev.f (ENG_CFG e) 27 16 = 256 ∧ State.reset.dev.b (ENG_CTRL e) 0 = false)

/-- At reset memory is in its canonical form and the queue is well-formed. -/
def Obligations.ResetWellFormed : Prop := State.reset.memWf = true ∧ State.reset.queueWf = true

/-- Nothing that a well-formed queue holds ends the run: every step of it answers a next state, whose queue is well-formed again. -/
def Obligations.RunNeverStops : Prop := ∀ s, s.queueWf = true → ∃ t, step s = .next t ∧ t.queueWf = true

/-- The decoder of Zelek instructions loses no bit of an instruction that it accepts and reads no byte behind it: the encoder gives
back exactly the bytes, and whatever follows them they decode to the same instruction (R169-R184). -/
def Obligations.ZelekEncodingRoundTrip : Prop := ∀ bs z, zDecode bs = .ok z →
  zEncode z = bs.take z.len ∧ ∀ rest, zDecode (zEncode z ++ rest) = .ok z

/-- A read and a write of an unassigned offset; an engine's access to the unassigned range of BAR0 has raised ADDR, and records nothing. -/
def Obligations.UnassignedOffsets : Prop := ∀ (d : Dev) who a v hw, d.reaches a → regDesc a = none →
  (d.regRead who a).1 = 0 ∧
  (beyondBlocks who a = false → d.recorded (d.regRead who a).2 who false 2 a ∧ d.onlyRecorded (d.regRead who a).2 ∧
    d.recorded (d.regWrite who a v hw) who true 2 a ∧ d.onlyRecorded (d.regWrite who a v hw)) ∧
  (beyondBlocks who a = true → (d.regRead who a).2 = d ∧ d.regWrite who a v hw = d)

/-- In Boot and Provision the blocks outside DEV, PWR and SEC do not answer. -/
def Obligations.BootAccessesRefused : Prop := ∀ (d : Dev) who a v hw, d.hostUp = true → (d.mode = .boot ∨ d.mode = .provision) →
  0x200000 ≤ a → (a < 0x1300000 ∨ 0x1400000 ≤ a) →
  (d.regRead who a).1 = 0 ∧ d.recorded (d.regRead who a).2 who false 4 a ∧ d.onlyRecorded (d.regRead who a).2 ∧
  d.recorded (d.regWrite who a v hw) who true 4 a ∧ d.onlyRecorded (d.regWrite who a v hw)

/-- What a write leaves in one bit of a register, by the bit's access code (R7, R8).
Choices of the model in it: log entry 82. -/
def Obligations.AccessCodesOfABit : Prop := ∀ r lockOpen old v hw i, i < 32 →
  (bitOf r.rw i = true → bitOf r.w1c i = false → bitOf r.w1s i = false → bitOf (writeByCode r lockOpen old v hw) i = bitOf v i) ∧
  (bitOf r.rw i = false → bitOf r.rwl i = false → bitOf r.w1c i = false → bitOf r.w1s i = false →
    bitOf (writeByCode r lockOpen old v hw) i = bitOf old i) ∧
  (bitOf r.rw i = false → bitOf r.rwl i = true → bitOf r.w1c i = false → bitOf r.w1s i = false →
    bitOf (writeByCode r lockOpen old v hw) i = if lockOpen then bitOf v i else bitOf old i) ∧
  (bitOf r.rw i = false → bitOf r.rwl i = false → bitOf r.w1c i = true → bitOf r.w1s i = false →
    bitOf (writeByCode r lockOpen old v hw) i = (bitOf old i && (!bitOf v i || bitOf hw i))) ∧
  (bitOf r.rw i = false → bitOf r.rwl i = false → bitOf r.w1c i = false → bitOf r.w1s i = true →
    bitOf (writeByCode r lockOpen old v hw) i = (bitOf old i || bitOf v i))

/-- The compare rule of short time: reached from the target on for half of the range. -/
def Obligations.CompareRule : Prop := ∀ now t : Word,
  (reached now t = true ↔ (now.toNat + 2 ^ 32 - t.toNat) % 2 ^ 32 ≤ 0x7FFFFFFF) ∧ reached t t = true ∧ reached (t - 1) t = false ∧
  (stBefore now t = true ↔ reached now t = false)

/-- The order of the handle check, and the status of commands on the null handle and on a handle of another kind (R11, R13). -/
def Obligations.HandleChecks : Prop :=
  (∀ (d : Dev) kind h, d.checkHandle kind h = .ok ↔ fld h 31 24 = kind ∧ fld h 11 0 < kindRange kind ∧ fld h 23 12 ≠ 0 ∧
    fld h 23 12 = d.genOf kind (fld h 11 0) ∧ d.holds kind (fld h 11 0) = true) ∧
  (∀ (d : Dev) kind h, d.checkHandle kind h = .stale ↔ fld h 31 24 = kind ∧ fld h 11 0 < kindRange kind ∧ fld h 23 12 ≠ 0 ∧
    d.genOf kind (fld h 11 0) ≠ 0 ∧ fld h 23 12 ≠ d.genOf kind (fld h 11 0)) ∧
  (∀ (d : Dev) kind, d.checkHandle kind 0 = .badHandle) ∧ (∀ (d : Dev) h, fld h 31 24 = 2 → d.checkHandle 1 h = .badHandle)

/-- Z, N, C and V of additions and subtractions, in integers (R191). -/
def Obligations.ArithmeticFlags : Prop := ∀ n a b cin : Nat, 0 < n → a < 2 ^ n → b < 2 ^ n → cin ≤ 1 →
  ((addRes n a b cin).1 < 2 ^ n ∧ ((addRes n a b cin).1 + (if (addRes n a b cin).2.1 then 2 ^ n else 0) = a + b + cin) ∧
    ((addRes n a b cin).2.2 = true ↔ (sx n a + sx n b + cin < -(2 ^ (n - 1) : Int) ∨ (2 ^ (n - 1) : Int) ≤ sx n a + sx n b + cin))) ∧
  ((subRes n a b cin).1 < 2 ^ n ∧ ((subRes n a b cin).2.1 = true ↔ b + cin ≤ a) ∧
    ((subRes n a b cin).1 + b + cin = a + (if (subRes n a b cin).2.1 then 0 else 2 ^ n)) ∧
    ((subRes n a b cin).2.2 = true ↔ (sx n a - sx n b - cin < -(2 ^ (n - 1) : Int) ∨ (2 ^ (n - 1) : Int) ≤ sx n a - sx n b - cin)))

/-- A repeat with a count of zero, for every meaning: the instruction is skipped, or its poisoned count register raises FAR_UNCORR. -/
def Obligations.ZeroCountSkips : Prop := ∀ (d : Dev) e k z r (ops : Nat → Bool) (sem : ZSem), d.repeats e k z r 0 → ops z.op = true →
  ((r.reg = false ∨ r.arg ∉ (d.ctx k).poison) → d.zStep e noEcc ops sem =
    (d.busyAdd e 1).setAct k (fun a => { a with ctx := { a.ctx.age with
      rcnt := 0, pc := (a.ctx.pc + z.len) % 2 ^ 32, budget := if d.replaying k then a.ctx.budget else a.ctx.budget - 1 } })) ∧
  (r.reg = true → r.arg ∈ (d.ctx k).poison → d.zStep e noEcc ops sem = d.raise e k 4 none)

/-- A non-interruptible repeat beyond nonint_max, where nothing else is wrong, with a limit of zero as well; a count of zero skips. -/
def Obligations.RepeatLimit : Prop :=
  (∀ (d : Dev) e k z r n (ops : Nat → Bool) (sem : ZSem), d.repeats e k z r n → ops z.op = true →
    r.inter = false → (d.ctx k).poison = [] → (∀ x f, sem x e k z ≠ .fault f) → n ≠ 0 → d.f (ENG_CFG e) 27 16 < n →
    d.zStep e noEcc ops sem = d.raise e k 6 none) ∧
  (∀ (d : Dev) e k z r (ops : Nat → Bool) (sem : ZSem), d.repeats e k z r 0 → ops z.op = true → (d.ctx k).poison = [] →
    d.zStep e noEcc ops sem = (d.busyAdd e 1).setAct k (fun a => { a with ctx := { a.ctx.age with
      rcnt := 0, pc := (a.ctx.pc + z.len) % 2 ^ 32, budget := if d.replaying k then a.ctx.budget else a.ctx.budget - 1 } }))

/-- A repeat, the AT prefix and a hold (R144, R159, R160, R210): one iteration of a repeated addition leaves rcnt one lower and the program counter on the
instruction until the last one; before its target an instruction with AT parks the channel, which keeps its registers and its
budget; the cycles for which an instruction has been held are charged when it issues, to the budget and the busy counter. -/
def Obligations.ZelekPrefixes : Prop :=
  (∀ s (e : Fin 96) k z r n, s.dev.repeats e k z r n → z.op ∈ [0x30, 0x40, 0x50] →
    0 < n → n < 2 ^ 32 → (r.inter = true ∨ n ≤ s.dev.f (ENG_CFG e) 27 16) → (s.dev.ctx k).poison = [] →
    Completes (.add e noEcc) s (fun t => (t.ctx k).rcnt = w32 (n - 1) ∧ (t.ctx k).repOn = (n != 1) ∧
      (t.ctx k).pc = (if n = 1 then ((s.dev.ctx k).pc + z.len) % 2 ^ 32 else (s.dev.ctx k).pc) ∧ t.mem = s.dev.mem ∧ t.regs = s.dev.regs)) ∧
  (∀ (d : Dev) e k z r (ops : Nat → Bool) (sem : ZSem), d.canIssue e = some k → d.zAt k = .ok z → ops z.op = true → z.at_ = some r →
    z.rep = none → d.loadsOf k = [] → r ∉ (d.ctx k).poison → (d.act k).atGo = false → reached d.tb.st ((d.ctx k).wr r) = false →
    (d.act k).heldAt = none → ((d.zStep e noEcc ops sem).act k).st = .parked ∧ ((d.zStep e noEcc ops sem).act k).atTarget = (d.ctx k).wr r ∧
    (d.zStep e noEcc ops sem).ctx k = d.ctx k ∧ ((d.zStep e noEcc ops sem).eng e).cur = none ∧ (d.zStep e noEcc ops sem).mem = d.mem) ∧
  (∀ (d : Dev) e k z (ops : Nat → Bool) (sem : ZSem) h n, d.canIssue e = some k → d.holdNow e = h → h.canIssue e = some k →
    h.zAt k = .ok z → ops z.op = true → (d.act k).heldAt = some n → d.zStep e noEcc ops sem = h.zStep e noEcc ops sem ∧
    (h.act k).heldAt = none ∧ (d.replaying k = false → (h.ctx k).budget = (d.ctx k).budget - (4 * d.tb.now - n + (d.act k).heldPart) / 5) ∧
    (h.eng e).busy = ((d.eng e).busy + (4 * d.tb.now - n + (d.act k).heldPart) / 5) % 2 ^ 64)

/-- Where an engine access can lead: inside the channel's own X or Y window, through one of its far windows, or to a block that it
is granted; always aligned (R133-R136). -/
def Obligations.EngineAccessConfined : Prop := ∀ (d : Dev) k far a s write m, d.zAddr k far a s write = .inr m → 0 < s →
  a % s = 0 ∧ match m with
  | .local_ key => far = false ∧
      ((0x10000000 ≤ a ∧ a + s ≤ 0x10000000 + fld (d.desc (keyChan k) 4) 15 0 ∧
          key = keyX (d.act k).eng + (d.act k).xBase + (a - 0x10000000)) ∨
       (0x10010000 ≤ a ∧ a + s ≤ 0x10010000 + fld (d.desc (keyChan k) 4) 31 16 ∧
          key = keyY (d.act k).eng + (d.act k).yBase + (a - 0x10010000)))
  | .far _ key => far = true ∧ ∃ w base i, w < 8 ∧ base = (d.desc (keyChan k) (16 + 4 * w)).toNat ∧ i = d.desc (keyChan k) (17 + 4 * w) ∧
      bitOf i 22 = true ∧ (write = true → bitOf i 23 = false) ∧ base ≤ a ∧ a + s ≤ base + fld i 19 0 * 4096 ∧
      key = tget 0 (d.act k).winPhys w + (a - base)
  | .reg ofs => far = true ∧ s = 4 ∧ 0x80000000 ≤ a ∧ ofs = a - 0x80000000 ∧ ∃ b, regBlock ofs = some b ∧ d.granted (keyChan k) b = true
  | .priv ofs => far = false ∧ 0xF0000000 ≤ a ∧ a + s ≤ 0xF0001000 ∧ ofs = a - 0xF0000000

/-- An exception that is no memory error leaves the channel FAULTED and off the engine, with its input gone (R161, R162). -/
def Obligations.ExceptionFaultsChannel : Prop := ∀ (d : Dev) e k cause addr, k < 512 → cause ≠ 4 → cause ≠ 5 → (d.chan k).mig = none →
  (d.chan k).ckptPorts = [] → ((d.raise e k cause addr).chan k).st = .faulted ∧ ((d.raise e k cause addr).act k).st = .faulted ∧
  ((d.raise e k cause addr).act k).input = none ∧ ((d.raise e k cause addr).eng e).cur ≠ some k ∧
  (d.raise e k cause addr).mem = d.mem ∧ (d.raise e k cause addr).sec = d.sec

/-- Memory stays in its canonical form through what writes it, with clean codewords: bank accesses, ordered atomics, far stores and
the host's window into local memory.
Choices of the model in it: log entries 8, 23. -/
def Obligations.MemoryKeepsForm : Prop := ∀ s t, s.memWf = true →
  (∀ (b : Fin 64) pa pb, (∀ a, pa = some a → a.ecc = .clean) → (∀ a, pb = some a → a.ecc = .clean) →
    exec (.bankAccess b pa pb) s = .next t → t.memWf = true) ∧
  (∀ i (a : Nat) be v, exec (.hostLocalMemWrite i a be v) s = .next t → t.memWf = true) ∧
  (∀ (b : Fin 64), exec (.ordHoldEnd b .clean) s = .next t → t.memWf = true) ∧
  (∀ (e : Fin 96) r, r ≠ .dev → exec (.farStorePerform e r .clean .clean) s = .next t → t.memWf = true)

/-- The completion of a Cutter command (R217): status, busy, seq and the bell of its port.
Choices of the model in it: log entry 15. -/
def Obligations.CommandPortCompletes : Prop := ∀ (d : Dev) k status, k < 4 → status < 256 →
  (d.cmdDone k status).f (CUT_CMD_STAT k) 7 0 = status ∧ (d.cmdDone k status).b (CUT_CMD_STAT k) 8 = false ∧
  (d.cmdDone k status).f (CUT_CMD_STAT k) 31 16 = wrapAdd 16 (d.f (CUT_CMD_STAT k) 31 16) 1 ∧
  (d.cmdDone k status).b BellReg.cut.addr k = true ∧ (d.cmdDone k status).mem = d.mem ∧ (d.cmdDone k status).sec = d.sec
end

