-- ==== Sys2Proof/Laws/Bits.lean ====
section
/-!
SUPPORT. Laws of the bit fields: what a field reads as after it has been stored, and after another field has.
-/
namespace Sys2Proof.Machine

theorem fld_testBit (w : Word) (hi lo i : Nat) : (fld w hi lo).testBit i = (decide (i < hi + 1 - lo) && w.toNat.testBit (lo + i)) := by
  simp [fld, Nat.testBit_mod_two_pow]

theorem maskOf_testBit (hi lo i : Nat) (h : hi < 32) (hl : lo ≤ hi) :
    (maskOf hi lo).toNat.testBit i = (decide (lo ≤ i) && decide (i ≤ hi)) := by
  have hb : (2 ^ (hi + 1 - lo) - 1) * 2 ^ lo < 2 ^ 32 := by
    have h1 : (2 ^ (hi + 1 - lo) - 1) * 2 ^ lo < 2 ^ (hi + 1 - lo) * 2 ^ lo :=
      Nat.mul_lt_mul_of_pos_right (Nat.sub_lt (Nat.two_pow_pos _) (by decide)) (Nat.two_pow_pos _)
    rw [← Nat.pow_add, show hi + 1 - lo + lo = hi + 1 by omega] at h1
    exact Nat.lt_of_lt_of_le h1 (Nat.pow_le_pow_right (by decide) (by omega))
  simp only [maskOf, BitVec.toNat_ofNat, Nat.mod_eq_of_lt hb]
  rw [Nat.testBit_mul_two_pow, Nat.testBit_two_pow_sub_one]
  by_cases h1 : lo ≤ i
  · have : (i - lo < hi + 1 - lo) ↔ (i ≤ hi) := by omega
    simp [h1, this]
  · simp [h1]

theorem setFld_testBit (w : Word) (hi lo v i : Nat) (h : hi < 32) (hl : lo ≤ hi) :
    (setFld w hi lo v).toNat.testBit i = if lo ≤ i ∧ i ≤ hi then v.testBit (i - lo) else w.toNat.testBit i := by
  have hm := fun j => maskOf_testBit hi lo j h hl
  unfold setFld
  by_cases h32 : i < 32
  · simp only [BitVec.toNat_or, BitVec.toNat_and, Nat.testBit_or, Nat.testBit_and, hm, BitVec.toNat_ofNat,
      Nat.testBit_mod_two_pow, Nat.testBit_mul_two_pow, h32, decide_true, Bool.true_and]
    have hnot : (~~~(maskOf hi lo)).toNat.testBit i = !(decide (lo ≤ i) && decide (i ≤ hi)) := by
      have h2 : (~~~(maskOf hi lo)).getLsbD i = !((maskOf hi lo).getLsbD i) := by simp [h32]
      rw [BitVec.getLsbD, BitVec.getLsbD, hm] at h2
      exact h2
    rw [hnot]
    by_cases h1 : lo ≤ i ∧ i ≤ hi
    · simp [h1.1, h1.2]
    · by_cases ha : lo ≤ i
      · have hb : ¬ i ≤ hi := fun hb => h1 ⟨ha, hb⟩
        simp [hb]
      · simp [ha]
  · have hz : ∀ x : Word, x.toNat.testBit i = false := fun x =>
      Nat.testBit_lt_two_pow (Nat.lt_of_lt_of_le x.isLt (Nat.pow_le_pow_right (by decide) (by omega)))
    have h1 : ¬ (lo ≤ i ∧ i ≤ hi) := by omega
    rw [hz, if_neg h1, hz]

/-- A field reads back as it was stored. -/
theorem fld_setFld_self (w : Word) (hi lo v : Nat) (h : hi < 32) (hl : lo ≤ hi) :
    fld (setFld w hi lo v) hi lo = v % 2 ^ (hi + 1 - lo) := by
  apply Nat.eq_of_testBit_eq
  intro i
  rw [fld_testBit, setFld_testBit w hi lo v _ h hl, Nat.testBit_mod_two_pow]
  by_cases hi' : i < hi + 1 - lo
  · have : lo ≤ lo + i ∧ lo + i ≤ hi := by omega
    simp [hi', this]
  · simp [hi']

/-- Another field stays. -/
theorem fld_setFld_ne (w : Word) (hi lo v a b : Nat) (h : hi < 32) (hl : lo ≤ hi) (hd : a < lo ∨ hi < b) :
    fld (setFld w hi lo v) a b = fld w a b := by
  apply Nat.eq_of_testBit_eq
  intro i
  rw [fld_testBit, fld_testBit, setFld_testBit w hi lo v _ h hl]
  by_cases hi' : i < a + 1 - b
  · have : ¬ (lo ≤ b + i ∧ b + i ≤ hi) := by omega
    simp [this]
  · simp [hi']

theorem bitOf_setFld (w : Word) (hi lo v i : Nat) (h : hi < 32) (hl : lo ≤ hi) :
    bitOf (setFld w hi lo v) i = if lo ≤ i ∧ i ≤ hi then v.testBit (i - lo) else bitOf w i := setFld_testBit w hi lo v i h hl

@[simp] theorem bitOf_setBit_self (w : Word) (i : Nat) (b : Bool) (h : i < 32) : bitOf (setBit w i b) i = b := by
  rw [setBit, bitOf_setFld _ _ _ _ _ h (Nat.le_refl i)]
  cases b <;> simp [b2n]

theorem bitOf_setBit_ne (w : Word) (i j : Nat) (b : Bool) (h : i < 32) (hij : j ≠ i) : bitOf (setBit w i b) j = bitOf w j := by
  rw [setBit, bitOf_setFld _ _ _ _ _ h (Nat.le_refl i), if_neg (by omega)]

/-- A field that does not cover a bit stays when the bit is stored. -/
theorem fld_setBit_ne (w : Word) (i a b : Nat) (v : Bool) (h : i < 32) (hd : a < i ∨ i < b) : fld (setBit w i v) a b = fld w a b :=
  fld_setFld_ne w i i _ a b h (Nat.le_refl i) hd

/-- Bits set by OR. -/
theorem bitOf_or (a b : Word) (i : Nat) : bitOf (a ||| b) i = (bitOf a i || bitOf b i) := by
  simp [bitOf]

theorem bitOf_two_pow (i j : Nat) (h : i < 32) : bitOf (w32 (2 ^ i)) j = decide (i = j) := by
  have hb : 2 ^ i < 2 ^ 32 := Nat.pow_lt_pow_right (by decide) h
  simp only [bitOf, w32, BitVec.toNat_ofNat, Nat.mod_eq_of_lt hb]
  exact Nat.testBit_two_pow

/-- A bit that has been set by OR reads 1. -/
theorem bitOf_or_self (w : Word) (i : Nat) (h : i < 32) : bitOf (w ||| w32 (2 ^ i)) i = true := by
  rw [bitOf_or, bitOf_two_pow i i h]
  simp

end Sys2Proof.Machine
end

