-- ==== Sys2Proof/Laws/Dispatch.lean ====
section
/-!
SUPPORT. One equation per command: the meaning that exec gives it. They save a proof from unfolding the whole dispatch.
-/
namespace Sys2Proof.Machine

theorem exec_registerWrite {s : State} {who addr be val hwSet} : exec (.registerWrite who addr be val hwSet) s = execRegisterWrite who addr be val hwSet s := rfl
theorem exec_porAssert {s : State} : exec .porAssert s = execPorAssert s := rfl
theorem exec_porRelease {s : State} {straps pgMain} : exec (.porRelease straps pgMain) s = execPorRelease straps pgMain s := rfl
theorem exec_aonSupplyLow {s : State} {core io ns} : exec (.aonSupplyLow core io ns) s = execAonSupplyLow core io ns s := rfl
theorem exec_aonSupplyRecover {s : State} {core io} : exec (.aonSupplyRecover core io) s = execAonSupplyRecover core io s := rfl
theorem exec_warmPin {s : State} {seen} : exec (.warmPin seen) s = execWarmPin seen s := rfl
theorem exec_warmResetCmd {s : State} {who val} : exec (.warmResetCmd who val) s = execWarmResetCmd who val s := rfl
theorem exec_modeRequest {s : State} {who val withHost} : exec (.modeRequest who val withHost) s = execModeRequest who val withHost s := rfl
theorem exec_runStopDrained {s : State} : exec .runStopDrained s = execRunStopDrained s := rfl
theorem exec_bootRomComplete {s : State} {b ddrOk} : exec (.bootRomComplete b ddrOk) s = execBootRomComplete b ddrOk s := rfl
theorem exec_pgMainFall {s : State} : exec .pgMainFall s = execPgMainFall s := rfl
theorem exec_pgMainRise {s : State} : exec .pgMainRise s = execPgMainRise s := rfl
theorem exec_pgMainTimeout {s : State} : exec .pgMainTimeout s = execPgMainTimeout s := rfl
theorem exec_pwrEnRetry {s : State} : exec .pwrEnRetry s = execPwrEnRetry s := rfl
theorem exec_wakePinHigh {s : State} : exec .wakePinHigh s = execWakePinHigh s := rfl
theorem exec_lswDebounced {s : State} {ix level seen} : exec (.lswDebounced ix level seen) s = execLswDebounced ix level seen s := rfl
theorem exec_cmpDebounced {s : State} {c mv seen} : exec (.cmpDebounced c mv seen) s = execCmpDebounced c mv seen s := rfl
theorem exec_sleepPartyAgree {s : State} {p} : exec (.sleepPartyAgree p) s = execSleepPartyAgree p s := rfl
theorem exec_sleepAgreeTimeout {s : State} : exec .sleepAgreeTimeout s = execSleepAgreeTimeout s := rfl
theorem exec_holdoverEntry {s : State} : exec .holdoverEntry s = execHoldoverEntry s := rfl
theorem exec_pendingWakeAct {s : State} : exec .pendingWakeAct s = execPendingWakeAct s := rfl
theorem exec_pfwAssert {s : State} {mv seen} : exec (.pfwAssert mv seen) s = execPfwAssert mv seen s := rfl
theorem exec_retainedFlushComplete {s : State} {ecc} : exec (.retainedFlushComplete ecc) s = execRetainedFlushComplete ecc s := rfl
theorem exec_pfwRecover {s : State} {mv ms} : exec (.pfwRecover mv ms) s = execPfwRecover mv ms s := rfl
theorem exec_falseWakeCheck {s : State} {n} : exec (.falseWakeCheck n) s = execFalseWakeCheck n s := rfl
theorem exec_shortTimeWrap {s : State} : exec .shortTimeWrap s = execShortTimeWrap s := rfl
theorem exec_taiSecond {s : State} : exec .taiSecond s = execTaiSecond s := rfl
theorem exec_tbStRead {s : State} {who} : exec (.tbStRead who) s = execTbStRead who s := rfl
theorem exec_taiRead {s : State} {who} : exec (.taiRead who) s = execTaiRead who s := rfl
theorem exec_anchorRead {s : State} {who} : exec (.anchorRead who) s = execAnchorRead who s := rfl
theorem exec_servoCommit {s : State} {who val withSet withForce} : exec (.servoCommit who val withSet withForce) s = execServoCommit who val withSet withForce s := rfl
theorem exec_jumpForce {s : State} {who val} : exec (.jumpForce who val) s = execJumpForce who val s := rfl
theorem exec_taiSet {s : State} {who val} : exec (.taiSet who val) s = execTaiSet who val s := rfl
theorem exec_servoLoss {s : State} : exec .servoLoss s = execServoLoss s := rfl
theorem exec_ppsInEdge {s : State} {rising back withSet withForce} : exec (.ppsInEdge rising back withSet withForce) s = execPpsInEdge rising back withSet withForce s := rfl
theorem exec_refSelect {s : State} {who val} : exec (.refSelect who val) s = execRefSelect who val s := rfl
theorem exec_tbPllRelock {s : State} : exec .tbPllRelock s = execTbPllRelock s := rfl
theorem exec_tbRefLost {s : State} : exec .tbRefLost s = execTbRefLost s := rfl
theorem exec_pdelayResponse {s : State} {p back} : exec (.pdelayResponse p back) s = execPdelayResponse p back s := rfl
theorem exec_tsqPop {s : State} {who p} : exec (.tsqPop who p) s = execTsqPop who p s := rfl
theorem exec_treadleCarry {s : State} {n} : exec (.treadleCarry n) s = execTreadleCarry n s := rfl
theorem exec_stepPulseDelayed {s : State} {n} : exec (.stepPulseDelayed n) s = execStepPulseDelayed n s := rfl
theorem exec_strobe {s : State} {n} : exec (.strobe n) s = execStrobe n s := rfl
theorem exec_shtGroupTrigger {s : State} {g n} : exec (.shtGroupTrigger g n) s = execShtGroupTrigger g n s := rfl
theorem exec_incApply {s : State} {who n hi} : exec (.incApply who n hi) s = execIncApply who n hi s := rfl
theorem exec_incRead {s : State} {who n} : exec (.incRead who n) s = execIncRead who n s := rfl
theorem exec_accRead {s : State} {who n} : exec (.accRead who n) s = execAccRead who n s := rfl
theorem exec_treadleModeWrite {s : State} {who n val} : exec (.treadleModeWrite who n val) s = execTreadleModeWrite who n val s := rfl
theorem exec_zcCrossing {s : State} {n back} : exec (.zcCrossing n back) s = execZcCrossing n back s := rfl
theorem exec_phaseAdjust {s : State} {who n adj} : exec (.phaseAdjust who n adj) s = execPhaseAdjust who n adj s := rfl
theorem exec_waveCompareReached {s : State} {n ix} : exec (.waveCompareReached n ix) s = execWaveCompareReached n ix s := rfl
theorem exec_eventCommit {s : State} {t} : exec (.eventCommit t) s = execEventCommit t s := rfl
theorem exec_waveSlipFire {s : State} {t} : exec (.waveSlipFire t) s = execWaveSlipFire t s := rfl
theorem exec_rampPeriod {s : State} {n} : exec (.rampPeriod n) s = execRampPeriod n s := rfl
theorem exec_rampGo {s : State} {who n} : exec (.rampGo who n) s = execRampGo who n s := rfl
theorem exec_rampStop {s : State} {who n} : exec (.rampStop who n) s = execRampStop who n s := rfl
theorem exec_groupGo {s : State} {who g val} : exec (.groupGo who g val) s = execGroupGo who g val s := rfl
theorem exec_patternEntryFire {s : State} {t} : exec (.patternEntryFire t) s = execPatternEntryFire t s := rfl
theorem exec_camFollowStep {s : State} {t} : exec (.camFollowStep t) s = execCamFollowStep t s := rfl
theorem exec_latchArm {s : State} {who l val} : exec (.latchArm who l val) s = execLatchArm who l val s := rfl
theorem exec_latchCapture {s : State} {l rising back} : exec (.latchCapture l rising back) s = execLatchCapture l rising back s := rfl
theorem exec_latchRearm {s : State} {who l} : exec (.latchRearm who l) s = execLatchRearm who l s := rfl
theorem exec_treadleStart {s : State} {who val} : exec (.treadleStart who val) s = execTreadleStart who val s := rfl
theorem exec_treadleStop {s : State} {who val} : exec (.treadleStop who val) s = execTreadleStop who val s := rfl
theorem exec_treadleStartAt {s : State} : exec .treadleStartAt s = execTreadleStartAt s := rfl
theorem exec_nop {s : State} {e m} : exec (.nop e m) s = execNop e m s := rfl
theorem exec_ret {s : State} {e m} : exec (.ret e m) s = execRet e m s := rfl
theorem exec_fence {s : State} {e m} : exec (.fence e m) s = execFence e m s := rfl
theorem exec_rdc {s : State} {e m} : exec (.rdc e m) s = execRdc e m s := rfl
theorem exec_wrc {s : State} {e m} : exec (.wrc e m) s = execWrc e m s := rfl
theorem exec_mov {s : State} {e m} : exec (.mov e m) s = execMov e m s := rfl
theorem exec_wra {s : State} {e m} : exec (.wra e m) s = execWra e m s := rfl
theorem exec_rda {s : State} {e m} : exec (.rda e m) s = execRda e m s := rfl
theorem exec_push {s : State} {e m} : exec (.push e m) s = execPush e m s := rfl
theorem exec_pop {s : State} {e m} : exec (.pop e m) s = execPop e m s := rfl
theorem exec_ld {s : State} {e m} : exec (.ld e m) s = execLd e m s := rfl
theorem exec_lds {s : State} {e m} : exec (.lds e m) s = execLds e m s := rfl
theorem exec_st {s : State} {e m} : exec (.st e m) s = execSt e m s := rfl
theorem exec_sti {s : State} {e m} : exec (.sti e m) s = execSti e m s := rfl
theorem exec_lda {s : State} {e m} : exec (.lda e m) s = execLda e m s := rfl
theorem exec_add {s : State} {e m} : exec (.add e m) s = execAdd e m s := rfl
theorem exec_sub {s : State} {e m} : exec (.sub e m) s = execSub e m s := rfl
theorem exec_adc {s : State} {e m} : exec (.adc e m) s = execAdc e m s := rfl
theorem exec_sbc {s : State} {e m} : exec (.sbc e m) s = execSbc e m s := rfl
theorem exec_and {s : State} {e m} : exec (.and_ e m) s = execAnd e m s := rfl
theorem exec_or {s : State} {e m} : exec (.or_ e m) s = execOr e m s := rfl
theorem exec_xor {s : State} {e m} : exec (.xor_ e m) s = execXor e m s := rfl
theorem exec_cmp {s : State} {e m} : exec (.cmp e m) s = execCmp e m s := rfl
theorem exec_tst {s : State} {e m} : exec (.tst e m) s = execTst e m s := rfl
theorem exec_neg {s : State} {e m} : exec (.neg e m) s = execNeg e m s := rfl
theorem exec_not {s : State} {e m} : exec (.not_ e m) s = execNot e m s := rfl
theorem exec_mul {s : State} {e m} : exec (.mul e m) s = execMul e m s := rfl
theorem exec_mulh {s : State} {e m} : exec (.mulh e m) s = execMulh e m s := rfl
theorem exec_mulhu {s : State} {e m} : exec (.mulhu e m) s = execMulhu e m s := rfl
theorem exec_min {s : State} {e m} : exec (.min e m) s = execMin e m s := rfl
theorem exec_max {s : State} {e m} : exec (.max e m) s = execMax e m s := rfl
theorem exec_shl {s : State} {e m} : exec (.shl e m) s = execShl e m s := rfl
theorem exec_shr {s : State} {e m} : exec (.shr e m) s = execShr e m s := rfl
theorem exec_sar {s : State} {e m} : exec (.sar e m) s = execSar e m s := rfl
theorem exec_rol {s : State} {e m} : exec (.rol e m) s = execRol e m s := rfl
theorem exec_ror {s : State} {e m} : exec (.ror e m) s = execRor e m s := rfl
theorem exec_clz {s : State} {e m} : exec (.clz e m) s = execClz e m s := rfl
theorem exec_popc {s : State} {e m} : exec (.popc e m) s = execPopc e m s := rfl
theorem exec_bswap {s : State} {e m} : exec (.bswap e m) s = execBswap e m s := rfl
theorem exec_bfx {s : State} {e m} : exec (.bfx e m) s = execBfx e m s := rfl
theorem exec_bfxs {s : State} {e m} : exec (.bfxs e m) s = execBfxs e m s := rfl
theorem exec_bfi {s : State} {e m} : exec (.bfi e m) s = execBfi e m s := rfl
theorem exec_bfc {s : State} {e m} : exec (.bfc e m) s = execBfc e m s := rfl
theorem exec_bfs {s : State} {e m} : exec (.bfs e m) s = execBfs e m s := rfl
theorem exec_btst {s : State} {e m} : exec (.btst e m) s = execBtst e m s := rfl
theorem exec_bset {s : State} {e m} : exec (.bset e m) s = execBset e m s := rfl
theorem exec_bclr {s : State} {e m} : exec (.bclr e m) s = execBclr e m s := rfl
theorem exec_bCond {s : State} {e m} : exec (.bCond e m) s = execBCond e m s := rfl
theorem exec_bLate {s : State} {e m} : exec (.bLate e m) s = execBLate e m s := rfl
theorem exec_bOntime {s : State} {e m} : exec (.bOntime e m) s = execBOntime e m s := rfl
theorem exec_bTc {s : State} {e m} : exec (.bTc e m) s = execBTc e m s := rfl
theorem exec_call {s : State} {e m} : exec (.call e m) s = execCall e m s := rfl
theorem exec_callR {s : State} {e m} : exec (.callR e m) s = execCallR e m s := rfl
theorem exec_jmpR {s : State} {e m} : exec (.jmpR e m) s = execJmpR e m s := rfl
theorem exec_dbnz {s : State} {e m} : exec (.dbnz e m) s = execDbnz e m s := rfl
theorem exec_mac {s : State} {e m} : exec (.mac e m) s = execMac e m s := rfl
theorem exec_msu {s : State} {e m} : exec (.msu e m) s = execMsu e m s := rfl
theorem exec_macR {s : State} {e m} : exec (.macR e m) s = execMacR e m s := rfl
theorem exec_msuR {s : State} {e m} : exec (.msuR e m) s = execMsuR e m s := rfl
theorem exec_clra {s : State} {e m} : exec (.clra e m) s = execClra e m s := rfl
theorem exec_ashr {s : State} {e m} : exec (.ashr e m) s = execAshr e m s := rfl
theorem exec_mvfa {s : State} {e m} : exec (.mvfa e m) s = execMvfa e m s := rfl
theorem exec_mvta {s : State} {e m} : exec (.mvta e m) s = execMvta e m s := rfl
theorem exec_crcB {s : State} {e m} : exec (.crcB e m) s = execCrcB e m s := rfl
theorem exec_crcH {s : State} {e m} : exec (.crcH e m) s = execCrcH e m s := rfl
theorem exec_crcW {s : State} {e m} : exec (.crcW e m) s = execCrcW e m s := rfl
theorem exec_crcM {s : State} {e m} : exec (.crcM e m) s = execCrcM e m s := rfl
theorem exec_aadd {s : State} {e m} : exec (.aadd e m) s = execAadd e m s := rfl
theorem exec_aswap {s : State} {e m} : exec (.aswap e m) s = execAswap e m s := rfl
theorem exec_take {s : State} {e m} : exec (.take e m) s = execTake e m s := rfl
theorem exec_give {s : State} {e m} : exec (.give e m) s = execGive e m s := rfl
theorem exec_wait {s : State} {e m} : exec (.wait e m) s = execWait e m s := rfl
theorem exec_stamp {s : State} {e m} : exec (.stamp e m) s = execStamp e m s := rfl
theorem exec_bell {s : State} {e m} : exec (.bell e m) s = execBell e m s := rfl
theorem exec_atTargetReached {s : State} {c} : exec (.atTargetReached c) s = execAtTargetReached c s := rfl
theorem exec_farLoadReturn {s : State} {e r ecc retry} : exec (.farLoadReturn e r ecc retry) s = execFarLoadReturn e r ecc retry s := rfl
theorem exec_farStorePerform {s : State} {e r ecc retry} : exec (.farStorePerform e r ecc retry) s = execFarStorePerform e r ecc retry s := rfl
theorem exec_bankAccess {s : State} {b a p} : exec (.bankAccess b a p) s = execBankAccess b a p s := rfl
theorem exec_writeBack {s : State} {b row intervened} : exec (.writeBack b row intervened) s = execWriteBack b row intervened s := rfl
theorem exec_ordHoldEnd {s : State} {b ecc} : exec (.ordHoldEnd b ecc) s = execOrdHoldEnd b ecc s := rfl
theorem exec_strikeDecay {s : State} : exec .strikeDecay s = execStrikeDecay s := rfl
theorem exec_scrubRow {s : State} {b ecc} : exec (.scrubRow b ecc) s = execScrubRow b ecc s := rfl
theorem exec_xmcScrub {s : State} {ecc retry} : exec (.xmcScrub ecc retry) s = execXmcScrub ecc retry s := rfl
theorem exec_ddrRefresh {s : State} : exec .ddrRefresh s = execDdrRefresh s := rfl
theorem exec_memDisagree {s : State} {r} : exec (.memDisagree r) s = execMemDisagree r s := rfl
theorem exec_eventPost {s : State} {ev} : exec (.eventPost ev) s = execEventPost ev s := rfl
theorem exec_eventVisible {s : State} {e} : exec (.eventVisible e) s = execEventVisible e s := rfl
theorem exec_dispatch {s : State} {e save restore} : exec (.dispatch e save restore) s = execDispatch e save restore s := rfl
theorem exec_budgetExhausted {s : State} {e} : exec (.budgetExhausted e) s = execBudgetExhausted e s := rfl
theorem exec_sealDeadline {s : State} {c} : exec (.sealDeadline c) s = execSealDeadline c s := rfl
theorem exec_outputRelease {s : State} {e ecc} : exec (.outputRelease e ecc) s = execOutputRelease e ecc s := rfl
theorem exec_engineEnable {s : State} {who e val} : exec (.engineEnable who e val) s = execEngineEnable who e val s := rfl
theorem exec_engineHaltRequest {s : State} {who e val} : exec (.engineHaltRequest who e val) s = execEngineHaltRequest who e val s := rfl
theorem exec_engineReset {s : State} {who e val} : exec (.engineReset who e val) s = execEngineReset who e val s := rfl
theorem exec_engineStopPoint {s : State} {e} : exec (.engineStopPoint e) s = execEngineStopPoint e s := rfl
theorem exec_debugStep {s : State} {who e val m} : exec (.debugStep who e val m) s = execDebugStep who e val m s := rfl
theorem exec_breakpointHit {s : State} {e} : exec (.breakpointHit e) s = execBreakpointHit e s := rfl
theorem exec_debugDataAccess {s : State} {who e write val} : exec (.debugDataAccess who e write val) s = execDebugDataAccess who e write val s := rfl
theorem exec_hostLocalMemWrite {s : State} {ix addr be val} : exec (.hostLocalMemWrite ix addr be val) s = execHostLocalMemWrite ix addr be val s := rfl
theorem exec_create {s : State} {k who} : exec (.create k who) s = execCreate k who s := rfl
theorem exec_start {s : State} {k who} : exec (.start k who) s = execStart k who s := rfl
theorem exec_stop {s : State} {k who} : exec (.stop k who) s = execStop k who s := rfl
theorem exec_destroy {s : State} {k who} : exec (.destroy k who) s = execDestroy k who s := rfl
theorem exec_query {s : State} {k who} : exec (.query k who) s = execQuery k who s := rfl
theorem exec_migrate {s : State} {k who} : exec (.migrate k who) s = execMigrate k who s := rfl
theorem exec_checkpoint {s : State} {k who} : exec (.checkpoint k who) s = execCheckpoint k who s := rfl
theorem exec_openMailbox {s : State} {k who} : exec (.openMailbox k who) s = execOpenMailbox k who s := rfl
theorem exec_openRoute {s : State} {k who} : exec (.openRoute k who) s = execOpenRoute k who s := rfl
theorem exec_openPattern {s : State} {k who} : exec (.openPattern k who) s = execOpenPattern k who s := rfl
theorem exec_openStreamReservation {s : State} {k who} : exec (.openStreamReservation k who) s = execOpenStreamReservation k who s := rfl
theorem exec_close {s : State} {k who} : exec (.close k who) s = execClose k who s := rfl
theorem exec_unknownCutterCmd {s : State} {k who code} : exec (.unknownCutterCmd k who code) s = execUnknownCutterCmd k who code s := rfl
theorem exec_periodBoundary {s : State} {c} : exec (.periodBoundary c) s = execPeriodBoundary c s := rfl
theorem exec_channelStopComplete {s : State} {c} : exec (.channelStopComplete c) s = execChannelStopComplete c s := rfl
theorem exec_checkpointEpoch {s : State} {c} : exec (.checkpointEpoch c) s = execCheckpointEpoch c s := rfl
theorem exec_recoveryComplete {s : State} {c} : exec (.recoveryComplete c) s = execRecoveryComplete c s := rfl
theorem exec_tableCompare {s : State} {ecc} : exec (.tableCompare ecc) s = execTableCompare ecc s := rfl
theorem exec_resync {s : State} {who} : exec (.resync who) s = execResync who s := rfl
theorem exec_frameReceive {s : State} {p f} : exec (.frameReceive p f) s = execFrameReceive p f s := rfl
theorem exec_cutThroughStart {s : State} {p hdr back} : exec (.cutThroughStart p hdr back) s = execCutThroughStart p hdr back s := rfl
theorem exec_pauseHoldExpire {s : State} {p q} : exec (.pauseHoldExpire p q) s = execPauseHoldExpire p q s := rfl
theorem exec_pauseWatchdog {s : State} {p q} : exec (.pauseWatchdog p q) s = execPauseWatchdog p q s := rfl
theorem exec_pauseIgnoreEnd {s : State} {p q} : exec (.pauseIgnoreEnd p q) s = execPauseIgnoreEnd p q s := rfl
theorem exec_egressSelect {s : State} {p ecc} : exec (.egressSelect p ecc) s = execEgressSelect p ecc s := rfl
theorem exec_frameTransmitEnd {s : State} {p seen cell} : exec (.frameTransmitEnd p seen cell) s = execFrameTransmitEnd p seen cell s := rfl
theorem exec_monitorMissing {s : State} {p} : exec (.monitorMissing p) s = execMonitorMissing p s := rfl
theorem exec_linkStateChange {s : State} {p l} : exec (.linkStateChange p l) s = execLinkStateChange p l s := rfl
theorem exec_mdioPoll {s : State} {m p} : exec (.mdioPoll m p) s = execMdioPoll m p s := rfl
theorem exec_mdioC22Write {s : State} {who m val withHost} : exec (.mdioC22Write who m val withHost) s = execMdioC22Write who m val withHost s := rfl
theorem exec_mdioC22Read {s : State} {who m val withHost} : exec (.mdioC22Read who m val withHost) s = execMdioC22Read who m val withHost s := rfl
theorem exec_mdioC45Write {s : State} {who m val withHost} : exec (.mdioC45Write who m val withHost) s = execMdioC45Write who m val withHost s := rfl
theorem exec_mdioC45Read {s : State} {who m val withHost} : exec (.mdioC45Read who m val withHost) s = execMdioC45Read who m val withHost s := rfl
theorem exec_mdioComplete {s : State} {m answer speed} : exec (.mdioComplete m answer speed) s = execMdioComplete m answer speed s := rfl
theorem exec_tallyClear {s : State} {who p val} : exec (.tallyClear who p val) s = execTallyClear who p val s := rfl
theorem exec_tallyRead {s : State} {who p ix} : exec (.tallyRead who p ix) s = execTallyRead who p ix s := rfl
theorem exec_fdbLookup {s : State} {who} : exec (.fdbLookup who) s = execFdbLookup who s := rfl
theorem exec_fdbInsertStatic {s : State} {who} : exec (.fdbInsertStatic who) s = execFdbInsertStatic who s := rfl
theorem exec_fdbDelete {s : State} {who} : exec (.fdbDelete who) s = execFdbDelete who s := rfl
theorem exec_fdbFlushDynamic {s : State} {who} : exec (.fdbFlushDynamic who) s = execFdbFlushDynamic who s := rfl
theorem exec_fdbReadEntry {s : State} {who} : exec (.fdbReadEntry who) s = execFdbReadEntry who s := rfl
theorem exec_fdbAgeOut {s : State} {ix} : exec (.fdbAgeOut ix) s = execFdbAgeOut ix s := rfl
theorem exec_gateInstall {s : State} {who p val} : exec (.gateInstall who p val) s = execGateInstall who p val s := rfl
theorem exec_gateStop {s : State} {who p val} : exec (.gateStop who p val) s = execGateStop who p val s := rfl
theorem exec_gateListStart {s : State} {p} : exec (.gateListStart p) s = execGateListStart p s := rfl
theorem exec_gateEntryChange {s : State} {p} : exec (.gateEntryChange p) s = execGateEntryChange p s := rfl
theorem exec_boltFill {s : State} {p q ecc retry} : exec (.boltFill p q ecc retry) s = execBoltFill p q ecc retry s := rfl
theorem exec_swcPortDisagree {s : State} {p} : exec (.swcPortDisagree p) s = execSwcPortDisagree p s := rfl
theorem exec_heartbeatSend {s : State} : exec .heartbeatSend s = execHeartbeatSend s := rfl
theorem exec_heartbeatReceive {s : State} {path msg} : exec (.heartbeatReceive path msg) s = execHeartbeatReceive path msg s := rfl
theorem exec_heartbeatMissCheck {s : State} : exec .heartbeatMissCheck s = execHeartbeatMissCheck s := rfl
theorem exec_takeoverCmd {s : State} {who val} : exec (.takeoverCmd who val) s = execTakeoverCmd who val s := rfl
theorem exec_relinquishCmd {s : State} {who val} : exec (.relinquishCmd who val) s = execRelinquishCmd who val s := rfl
theorem exec_takeoverReplayDone {s : State} {c} : exec (.takeoverReplayDone c) s = execTakeoverReplayDone c s := rfl
theorem exec_bookRecordReceive {s : State} {r} : exec (.bookRecordReceive r) s = execBookRecordReceive r s := rfl
theorem exec_redDisagree {s : State} : exec .redDisagree s = execRedDisagree s := rfl
theorem exec_ringEnable {s : State} {who val} : exec (.ringEnable who val) s = execRingEnable who val s := rfl
theorem exec_ringDisable {s : State} {who val} : exec (.ringDisable who val) s = execRingDisable who val s := rfl
theorem exec_roundStart {s : State} {linkDly} : exec (.roundStart linkDly) s = execRoundStart linkDly s := rfl
theorem exec_slotInsert {s : State} {k} : exec (.slotInsert k) s = execSlotInsert k s := rfl
theorem exec_slotFrameReceive {s : State} {k bytes path} : exec (.slotFrameReceive k bytes path) s = execSlotFrameReceive k bytes path s := rfl
theorem exec_listenTimeout {s : State} : exec .listenTimeout s = execListenTimeout s := rfl
theorem exec_coldstartTimeout {s : State} : exec .coldstartTimeout s = execColdstartTimeout s := rfl
theorem exec_timeFrameLoss {s : State} : exec .timeFrameLoss s = execTimeFrameLoss s := rfl
theorem exec_ringInputLost {s : State} : exec .ringInputLost s = execRingInputLost s := rfl
theorem exec_returnLaneFault {s : State} : exec .returnLaneFault s = execReturnLaneFault s := rfl
theorem exec_ringClose {s : State} {who val} : exec (.ringClose who val) s = execRingClose who val s := rfl
theorem exec_closingRound {s : State} : exec .closingRound s = execClosingRound s := rfl
theorem exec_slvDisagree {s : State} : exec .slvDisagree s = execSlvDisagree s := rfl
theorem exec_canEnable {s : State} {who n val} : exec (.canEnable who n val) s = execCanEnable who n val s := rfl
theorem exec_canIntegrationDone {s : State} {n} : exec (.canIntegrationDone n) s = execCanIntegrationDone n s := rfl
theorem exec_canFrameReceive {s : State} {n f} : exec (.canFrameReceive n f) s = execCanFrameReceive n f s := rfl
theorem exec_canTxEnd {s : State} {n b r tdcv} : exec (.canTxEnd n b r tdcv) s = execCanTxEnd n b r tdcv s := rfl
theorem exec_canRecoveryDone {s : State} {n} : exec (.canRecoveryDone n) s = execCanRecoveryDone n s := rfl
theorem exec_canPend {s : State} {who n b} : exec (.canPend who n b) s = execCanPend who n b s := rfl
theorem exec_canAbort {s : State} {who n b} : exec (.canAbort who n b) s = execCanAbort who n b s := rfl
theorem exec_canRxqPop {s : State} {who n q val} : exec (.canRxqPop who n q val) s = execCanRxqPop who n q val s := rfl
theorem exec_receiveBufferRead {s : State} {who n b} : exec (.receiveBufferRead who n b) s = execReceiveBufferRead who n b s := rfl
theorem exec_ttCycleBoundary {s : State} {n} : exec (.ttCycleBoundary n) s = execTtCycleBoundary n s := rfl
theorem exec_ttTrigger {s : State} {n t} : exec (.ttTrigger n t) s = execTtTrigger n t s := rfl
theorem exec_ttLevelClear {s : State} {who n val} : exec (.ttLevelClear who n val) s = execTtLevelClear who n val s := rfl
theorem exec_mdbWakeFrame {s : State} {n f} : exec (.mdbWakeFrame n f) s = execMdbWakeFrame n f s := rfl
theorem exec_wakeConfirm {s : State} {who n val} : exec (.wakeConfirm who n val) s = execWakeConfirm who n val s := rfl
theorem exec_shtBr {s : State} {n pads} : exec (.shtBr n pads) s = execShtBr n pads s := rfl
theorem exec_shtLoop {s : State} {n pads} : exec (.shtLoop n pads) s = execShtLoop n pads s := rfl
theorem exec_shtWait {s : State} {n pads} : exec (.shtWait n pads) s = execShtWait n pads s := rfl
theorem exec_shtWaitComplete {s : State} {n pads back} : exec (.shtWaitComplete n pads back) s = execShtWaitComplete n pads back s := rfl
theorem exec_shtGet {s : State} {n pads} : exec (.shtGet n pads) s = execShtGet n pads s := rfl
theorem exec_shtPut {s : State} {n pads} : exec (.shtPut n pads) s = execShtPut n pads s := rfl
theorem exec_shtPins {s : State} {n pads} : exec (.shtPins n pads) s = execShtPins n pads s := rfl
theorem exec_shtLoad {s : State} {n pads} : exec (.shtLoad n pads) s = execShtLoad n pads s := rfl
theorem exec_shtCopy {s : State} {n pads} : exec (.shtCopy n pads) s = execShtCopy n pads s := rfl
theorem exec_shtStow {s : State} {n pads} : exec (.shtStow n pads) s = execShtStow n pads s := rfl
theorem exec_shtFetch {s : State} {n pads} : exec (.shtFetch n pads) s = execShtFetch n pads s := rfl
theorem exec_shtBell {s : State} {n pads} : exec (.shtBell n pads) s = execShtBell n pads s := rfl
theorem exec_shtStallRetry {s : State} {n pads} : exec (.shtStallRetry n pads) s = execShtStallRetry n pads s := rfl
theorem exec_shtUpDrain {s : State} {n} : exec (.shtUpDrain n) s = execShtUpDrain n s := rfl
theorem exec_shtUpfRead {s : State} {who n} : exec (.shtUpfRead who n) s = execShtUpfRead who n s := rfl
theorem exec_shtDnfWrite {s : State} {who n val} : exec (.shtDnfWrite who n val) s = execShtDnfWrite who n val s := rfl
theorem exec_shtFlushUp {s : State} {who n} : exec (.shtFlushUp who n) s = execShtFlushUp who n s := rfl
theorem exec_shtFlushDn {s : State} {who n} : exec (.shtFlushDn who n) s = execShtFlushDn who n s := rfl
theorem exec_shtEnable {s : State} {who n val} : exec (.shtEnable who n val) s = execShtEnable who n val s := rfl
theorem exec_shtGroupStart {s : State} {who g val} : exec (.shtGroupStart who g val) s = execShtGroupStart who g val s := rfl
theorem exec_shtGroupStop {s : State} {who g val} : exec (.shtGroupStop who g val) s = execShtGroupStop who g val s := rfl
theorem exec_shtInject {s : State} {n pads} : exec (.shtInject n pads) s = execShtInject n pads s := rfl
theorem exec_shtLoadGo {s : State} {n} : exec (.shtLoadGo n) s = execShtLoadGo n s := rfl
theorem exec_padSense {s : State} {ix level} : exec (.padSense ix level) s = execPadSense ix level s := rfl
theorem exec_scanRun {s : State} {who val} : exec (.scanRun who val) s = execScanRun who val s := rfl
theorem exec_scanStop {s : State} {who val} : exec (.scanStop who val) s = execScanStop who val s := rfl
theorem exec_scanHold {s : State} {who val} : exec (.scanHold who val) s = execScanHold who val s := rfl
theorem exec_scanRelease {s : State} {who val} : exec (.scanRelease who val) s = execScanRelease who val s := rfl
theorem exec_scanChange {s : State} {who val} : exec (.scanChange who val) s = execScanChange who val s := rfl
theorem exec_scanLatch {s : State} {ecc} : exec (.scanLatch ecc) s = execScanLatch ecc s := rfl
theorem exec_scanCopyDone {s : State} : exec .scanCopyDone s = execScanCopyDone s := rfl
theorem exec_scanSealJudge {s : State} : exec .scanSealJudge s = execScanSealJudge s := rfl
theorem exec_scanCommit {s : State} {ecc} : exec (.scanCommit ecc) s = execScanCommit ecc s := rfl
theorem exec_scanOutputDone {s : State} : exec .scanOutputDone s = execScanOutputDone s := rfl
theorem exec_stationPublish {s : State} {who st val} : exec (.stationPublish who st val) s = execStationPublish who st val s := rfl
theorem exec_retainedWrite {s : State} {who ix val} : exec (.retainedWrite who ix val) s = execRetainedWrite who ix val s := rfl
theorem exec_mbxSend {s : State} {who m val} : exec (.mbxSend who m val) s = execMbxSend who m val s := rfl
theorem exec_mbxPop {s : State} {who val} : exec (.mbxPop who val) s = execMbxPop who val s := rfl
theorem exec_hostWriteAccept {s : State} {w} : exec (.hostWriteAccept w) s = execHostWriteAccept w s := rfl
theorem exec_hostWritePerform {s : State} {ix ob ecc retry} : exec (.hostWritePerform ix ob ecc retry) s = execHostWritePerform ix ob ecc retry s := rfl
theorem exec_hostRead {s : State} {ix space addr be ecc retry} : exec (.hostRead ix space addr be ecc retry) s = execHostRead ix space addr be ecc retry s := rfl
theorem exec_fenceRead {s : State} {ix} : exec (.fenceRead ix) s = execFenceRead ix s := rfl
theorem exec_lockedRead {s : State} {addr ecc retry} : exec (.lockedRead addr ecc retry) s = execLockedRead addr ecc retry s := rfl
theorem exec_lockDeassert {s : State} : exec .lockDeassert s = execLockDeassert s := rfl
theorem exec_lockHoldTimeout {s : State} : exec .lockHoldTimeout s = execLockHoldTimeout s := rfl
theorem exec_semRead {s : State} {e withLocked} : exec (.semRead e withLocked) s = execSemRead e withLocked s := rfl
theorem exec_semRelease {s : State} {e val} : exec (.semRelease e val) s = execSemRelease e val s := rfl
theorem exec_outboundAccess {s : State} {write ofs be val tag ob} : exec (.outboundAccess write ofs be val tag ob) s = execOutboundAccess write ofs be val tag ob s := rfl
theorem exec_crossingRetry {s : State} {ob} : exec (.crossingRetry ob) s = execCrossingRetry ob s := rfl
theorem exec_lbWriteTimeout {s : State} : exec .lbWriteTimeout s = execLbWriteTimeout s := rfl
theorem exec_irqPollSample {s : State} {level} : exec (.irqPollSample level) s = execIrqPollSample level s := rfl
theorem exec_txRingTailWrite {s : State} {who r val} : exec (.txRingTailWrite who r val) s = execTxRingTailWrite who r val s := rfl
theorem exec_txDescriptorServe {s : State} {r desc frame ring buf} : exec (.txDescriptorServe r desc frame ring buf) s = execTxDescriptorServe r desc frame ring buf s := rfl
theorem exec_fbrBuild {s : State} : exec .fbrBuild s = execFbrBuild s := rfl
theorem exec_perstAssert {s : State} : exec .perstAssert s = execPerstAssert s := rfl
theorem exec_provision {s : State} {who val withHost} : exec (.provision who val withHost) s = execProvision who val withHost s := rfl
theorem exec_field {s : State} {who val withHost miss} : exec (.field who val withHost miss) s = execField who val withHost miss s := rfl
theorem exec_retire {s : State} {who val withHost miss} : exec (.retire who val withHost miss) s = execRetire who val withHost miss s := rfl
theorem exec_attest {s : State} {who val withHost} : exec (.attest who val withHost) s = execAttest who val withHost s := rfl
theorem exec_extend {s : State} {who val withHost} : exec (.extend who val withHost) s = execExtend who val withHost s := rfl
theorem exec_rollfwd {s : State} {who val withHost} : exec (.rollfwd who val withHost) s = execRollfwd who val withHost s := rfl
theorem exec_otpProg {s : State} {who val withHost miss} : exec (.otpProg who val withHost miss) s = execOtpProg who val withHost miss s := rfl
theorem exec_dbgChal {s : State} {who val withHost} : exec (.dbgChal who val withHost) s = execDbgChal who val withHost s := rfl
theorem exec_dbgUnlock {s : State} {who val withHost} : exec (.dbgUnlock who val withHost) s = execDbgUnlock who val withHost s := rfl
theorem exec_dbgLock {s : State} {who val withHost} : exec (.dbgLock who val withHost) s = execDbgLock who val withHost s := rfl
theorem exec_rngRestart {s : State} {who val withHost healthy} : exec (.rngRestart who val withHost healthy) s = execRngRestart who val withHost healthy s := rfl
theorem exec_unknownSecCmd {s : State} {who val withHost} : exec (.unknownSecCmd who val withHost) s = execUnknownSecCmd who val withHost s := rfl
theorem exec_keyWrite {s : State} {who val} : exec (.keyWrite who val) s = execKeyWrite who val s := rfl
theorem exec_keyErase {s : State} {who val} : exec (.keyErase who val) s = execKeyErase who val s := rfl
theorem exec_cipherGo {s : State} {who q val} : exec (.cipherGo who q val) s = execCipherGo who q val s := rfl
theorem exec_cipherJobDone {s : State} {q ecc} : exec (.cipherJobDone q ecc) s = execCipherJobDone q ecc s := rfl
theorem exec_rngRead {s : State} {who held} : exec (.rngRead who held) s = execRngRead who held s := rfl
theorem exec_rngHealthFail {s : State} : exec .rngHealthFail s = execRngHealthFail s := rfl
theorem exec_pllLockLoss {s : State} : exec .pllLockLoss s = execPllLockLoss s := rfl
theorem exec_extest {s : State} : exec .extest s = execExtest s := rfl
theorem exec_idcode {s : State} : exec .idcode s = execIdcode s := rfl
theorem exec_samplePreload {s : State} {pads shiftIn} : exec (.samplePreload pads shiftIn) s = execSamplePreload pads shiftIn s := rfl
theorem exec_clamp {s : State} : exec .clamp s = execClamp s := rfl
theorem exec_highz {s : State} : exec .highz s = execHighz s := rfl
theorem exec_bypass {s : State} : exec .bypass s = execBypass s := rfl
theorem exec_warmNRelease {s : State} : exec .warmNRelease s = execWarmNRelease s := rfl
theorem exec_automaticMove {s : State} {c} : exec (.automaticMove c) s = execAutomaticMove c s := rfl
theorem exec_failedHopLockHeld {s : State} {laneA} : exec (.failedHopLockHeld laneA) s = execFailedHopLockHeld laneA s := rfl
theorem exec_canBusError {s : State} {n code dataPhase} : exec (.canBusError n code dataPhase) s = execCanBusError n code dataPhase s := rfl
theorem exec_txWindowMissed {s : State} {n t} : exec (.txWindowMissed n t) s = execTxWindowMissed n t s := rfl
theorem exec_illegalInstruction {s : State} {e m} : exec (.illegalInstruction e m) s = execIllegalInstruction e m s := rfl
theorem exec_shtIllegalInstruction {s : State} {n pads} : exec (.shtIllegalInstruction n pads) s = execShtIllegalInstruction n pads s := rfl

end Sys2Proof.Machine
end

