-- ==== Sys2Proof/Laws/State.lean ====
section
/-!
SUPPORT. One lemma per update of the device: what it leaves alone, field by field, and the one field it changes. Each is a
conjunction of equations true by rfl, which simp uses one by one, so that no later proof unfolds a record update.
-/
namespace Sys2Proof.Machine

@[simp] theorem State.withDev_fields (s : State) (d : Dev) :
    ({ s with dev := d } : State).pending = s.pending ∧ ({ s with dev := d } : State).dev = d := ⟨rfl, rfl⟩

@[simp] theorem Dev.w_frame (d : Dev) (a : Nat) (v : Word) :
    (d.w a v).mem = d.mem ∧ (d.w a v).pwr = d.pwr ∧ (d.w a v).tb = d.tb ∧ (d.w a v).trd = d.trd ∧
    (d.w a v).cut = d.cut ∧ (d.w a v).memb = d.memb ∧ (d.w a v).mac = d.mac ∧ (d.w a v).mdio = d.mdio ∧
    (d.w a v).swc = d.swc ∧ (d.w a v).red = d.red ∧ (d.w a v).slv = d.slv ∧ (d.w a v).mdb = d.mdb ∧
    (d.w a v).sht = d.sht ∧ (d.w a v).pins = d.pins ∧ (d.w a v).scn = d.scn ∧ (d.w a v).hbr = d.hbr ∧
    (d.w a v).fbr = d.fbr ∧ (d.w a v).sec = d.sec ∧ (d.w a v).tap = d.tap ∧ (d.w a v).obs = d.obs ∧
    (d.w a v).freeCtr = d.freeCtr ∧ (d.w a v).mode = d.mode ∧ (d.w a v).hostUp = d.hostUp ∧
    (∀ c', (d.w a v).chan c' = d.chan c') ∧ (∀ e', (d.w a v).eng e' = d.eng e') ∧ (∀ k', (d.w a v).act k' = d.act k') ∧
    (∀ p', (d.w a v).port p' = d.port p') ∧ (∀ n', (d.w a v).trdl n' = d.trdl n') ∧
    (∀ n', (d.w a v).ctl n' = d.ctl n') ∧ (∀ n', (d.w a v).shuttle n' = d.shuttle n') ∧
    (∀ p' q', (d.w a v).queue p' q' = d.queue p' q') ∧ (∀ p', (d.w a v).gatep p' = d.gatep p') ∧
    (∀ x', (d.w a v).stn x' = d.stn x') ∧ (∀ k' n', (d.w a v).mrd k' n' = d.mrd k' n') :=
    ⟨rfl, rfl, rfl, rfl, rfl, rfl, rfl, rfl, rfl, rfl, rfl, rfl, rfl, rfl, rfl, rfl, rfl, rfl, rfl, rfl, rfl, rfl, rfl,
    fun _ => rfl, fun _ => rfl, fun _ => rfl, fun _ => rfl, fun _ => rfl, fun _ => rfl, fun _ => rfl, fun _ _ => rfl,
    fun _ => rfl, fun _ => rfl, fun _ _ => rfl⟩

@[simp] theorem Dev.wf_frame (d : Dev) (a hi lo v : Nat) :
    (d.wf a hi lo v).mem = d.mem ∧ (d.wf a hi lo v).pwr = d.pwr ∧ (d.wf a hi lo v).tb = d.tb ∧
    (d.wf a hi lo v).trd = d.trd ∧ (d.wf a hi lo v).cut = d.cut ∧ (d.wf a hi lo v).memb = d.memb ∧
    (d.wf a hi lo v).mac = d.mac ∧ (d.wf a hi lo v).mdio = d.mdio ∧ (d.wf a hi lo v).swc = d.swc ∧
    (d.wf a hi lo v).red = d.red ∧ (d.wf a hi lo v).slv = d.slv ∧ (d.wf a hi lo v).mdb = d.mdb ∧
    (d.wf a hi lo v).sht = d.sht ∧ (d.wf a hi lo v).pins = d.pins ∧ (d.wf a hi lo v).scn = d.scn ∧
    (d.wf a hi lo v).hbr = d.hbr ∧ (d.wf a hi lo v).fbr = d.fbr ∧ (d.wf a hi lo v).sec = d.sec ∧
    (d.wf a hi lo v).tap = d.tap ∧ (d.wf a hi lo v).obs = d.obs ∧ (d.wf a hi lo v).freeCtr = d.freeCtr ∧
    (d.wf a hi lo v).mode = d.mode ∧ (d.wf a hi lo v).hostUp = d.hostUp ∧ (∀ c', (d.wf a hi lo v).chan c' = d.chan c') ∧
    (∀ e', (d.wf a hi lo v).eng e' = d.eng e') ∧ (∀ k', (d.wf a hi lo v).act k' = d.act k') ∧
    (∀ p', (d.wf a hi lo v).port p' = d.port p') ∧ (∀ n', (d.wf a hi lo v).trdl n' = d.trdl n') ∧
    (∀ n', (d.wf a hi lo v).ctl n' = d.ctl n') ∧ (∀ n', (d.wf a hi lo v).shuttle n' = d.shuttle n') ∧
    (∀ p' q', (d.wf a hi lo v).queue p' q' = d.queue p' q') ∧ (∀ p', (d.wf a hi lo v).gatep p' = d.gatep p') ∧
    (∀ x', (d.wf a hi lo v).stn x' = d.stn x') ∧ (∀ k' n', (d.wf a hi lo v).mrd k' n' = d.mrd k' n') :=
    ⟨rfl, rfl, rfl, rfl, rfl, rfl, rfl, rfl, rfl, rfl, rfl, rfl, rfl, rfl, rfl, rfl, rfl, rfl, rfl, rfl, rfl, rfl, rfl,
    fun _ => rfl, fun _ => rfl, fun _ => rfl, fun _ => rfl, fun _ => rfl, fun _ => rfl, fun _ => rfl, fun _ _ => rfl,
    fun _ => rfl, fun _ => rfl, fun _ _ => rfl⟩

@[simp] theorem Dev.wb_frame (d : Dev) (a i : Nat) (v : Bool) :
    (d.wb a i v).mem = d.mem ∧ (d.wb a i v).pwr = d.pwr ∧ (d.wb a i v).tb = d.tb ∧ (d.wb a i v).trd = d.trd ∧
    (d.wb a i v).cut = d.cut ∧ (d.wb a i v).memb = d.memb ∧ (d.wb a i v).mac = d.mac ∧ (d.wb a i v).mdio = d.mdio ∧
    (d.wb a i v).swc = d.swc ∧ (d.wb a i v).red = d.red ∧ (d.wb a i v).slv = d.slv ∧ (d.wb a i v).mdb = d.mdb ∧
    (d.wb a i v).sht = d.sht ∧ (d.wb a i v).pins = d.pins ∧ (d.wb a i v).scn = d.scn ∧ (d.wb a i v).hbr = d.hbr ∧
    (d.wb a i v).fbr = d.fbr ∧ (d.wb a i v).sec = d.sec ∧ (d.wb a i v).tap = d.tap ∧ (d.wb a i v).obs = d.obs ∧
    (d.wb a i v).freeCtr = d.freeCtr ∧ (d.wb a i v).mode = d.mode ∧ (d.wb a i v).hostUp = d.hostUp ∧
    (∀ c', (d.wb a i v).chan c' = d.chan c') ∧ (∀ e', (d.wb a i v).eng e' = d.eng e') ∧
    (∀ k', (d.wb a i v).act k' = d.act k') ∧ (∀ p', (d.wb a i v).port p' = d.port p') ∧
    (∀ n', (d.wb a i v).trdl n' = d.trdl n') ∧ (∀ n', (d.wb a i v).ctl n' = d.ctl n') ∧
    (∀ n', (d.wb a i v).shuttle n' = d.shuttle n') ∧ (∀ p' q', (d.wb a i v).queue p' q' = d.queue p' q') ∧
    (∀ p', (d.wb a i v).gatep p' = d.gatep p') ∧ (∀ x', (d.wb a i v).stn x' = d.stn x') ∧
    (∀ k' n', (d.wb a i v).mrd k' n' = d.mrd k' n') :=
    ⟨rfl, rfl, rfl, rfl, rfl, rfl, rfl, rfl, rfl, rfl, rfl, rfl, rfl, rfl, rfl, rfl, rfl, rfl, rfl, rfl, rfl, rfl, rfl,
    fun _ => rfl, fun _ => rfl, fun _ => rfl, fun _ => rfl, fun _ => rfl, fun _ => rfl, fun _ => rfl, fun _ _ => rfl,
    fun _ => rfl, fun _ => rfl, fun _ _ => rfl⟩

@[simp] theorem Dev.satf_frame (d : Dev) (a hi lo n : Nat) :
    (d.satf a hi lo n).mem = d.mem ∧ (d.satf a hi lo n).pwr = d.pwr ∧ (d.satf a hi lo n).tb = d.tb ∧
    (d.satf a hi lo n).trd = d.trd ∧ (d.satf a hi lo n).cut = d.cut ∧ (d.satf a hi lo n).memb = d.memb ∧
    (d.satf a hi lo n).mac = d.mac ∧ (d.satf a hi lo n).mdio = d.mdio ∧ (d.satf a hi lo n).swc = d.swc ∧
    (d.satf a hi lo n).red = d.red ∧ (d.satf a hi lo n).slv = d.slv ∧ (d.satf a hi lo n).mdb = d.mdb ∧
    (d.satf a hi lo n).sht = d.sht ∧ (d.satf a hi lo n).pins = d.pins ∧ (d.satf a hi lo n).scn = d.scn ∧
    (d.satf a hi lo n).hbr = d.hbr ∧ (d.satf a hi lo n).fbr = d.fbr ∧ (d.satf a hi lo n).sec = d.sec ∧
    (d.satf a hi lo n).tap = d.tap ∧ (d.satf a hi lo n).obs = d.obs ∧ (d.satf a hi lo n).freeCtr = d.freeCtr ∧
    (d.satf a hi lo n).mode = d.mode ∧ (d.satf a hi lo n).hostUp = d.hostUp ∧
    (∀ c', (d.satf a hi lo n).chan c' = d.chan c') ∧ (∀ e', (d.satf a hi lo n).eng e' = d.eng e') ∧
    (∀ k', (d.satf a hi lo n).act k' = d.act k') ∧ (∀ p', (d.satf a hi lo n).port p' = d.port p') ∧
    (∀ n', (d.satf a hi lo n).trdl n' = d.trdl n') ∧ (∀ n', (d.satf a hi lo n).ctl n' = d.ctl n') ∧
    (∀ n', (d.satf a hi lo n).shuttle n' = d.shuttle n') ∧ (∀ p' q', (d.satf a hi lo n).queue p' q' = d.queue p' q') ∧
    (∀ p', (d.satf a hi lo n).gatep p' = d.gatep p') ∧ (∀ x', (d.satf a hi lo n).stn x' = d.stn x') ∧
    (∀ k' n', (d.satf a hi lo n).mrd k' n' = d.mrd k' n') :=
    ⟨rfl, rfl, rfl, rfl, rfl, rfl, rfl, rfl, rfl, rfl, rfl, rfl, rfl, rfl, rfl, rfl, rfl, rfl, rfl, rfl, rfl, rfl, rfl,
    fun _ => rfl, fun _ => rfl, fun _ => rfl, fun _ => rfl, fun _ => rfl, fun _ => rfl, fun _ => rfl, fun _ _ => rfl,
    fun _ => rfl, fun _ => rfl, fun _ _ => rfl⟩

@[simp] theorem Dev.incf_frame (d : Dev) (a hi lo n : Nat) :
    (d.incf a hi lo n).mem = d.mem ∧ (d.incf a hi lo n).pwr = d.pwr ∧ (d.incf a hi lo n).tb = d.tb ∧
    (d.incf a hi lo n).trd = d.trd ∧ (d.incf a hi lo n).cut = d.cut ∧ (d.incf a hi lo n).memb = d.memb ∧
    (d.incf a hi lo n).mac = d.mac ∧ (d.incf a hi lo n).mdio = d.mdio ∧ (d.incf a hi lo n).swc = d.swc ∧
    (d.incf a hi lo n).red = d.red ∧ (d.incf a hi lo n).slv = d.slv ∧ (d.incf a hi lo n).mdb = d.mdb ∧
    (d.incf a hi lo n).sht = d.sht ∧ (d.incf a hi lo n).pins = d.pins ∧ (d.incf a hi lo n).scn = d.scn ∧
    (d.incf a hi lo n).hbr = d.hbr ∧ (d.incf a hi lo n).fbr = d.fbr ∧ (d.incf a hi lo n).sec = d.sec ∧
    (d.incf a hi lo n).tap = d.tap ∧ (d.incf a hi lo n).obs = d.obs ∧ (d.incf a hi lo n).freeCtr = d.freeCtr ∧
    (d.incf a hi lo n).mode = d.mode ∧ (d.incf a hi lo n).hostUp = d.hostUp ∧
    (∀ c', (d.incf a hi lo n).chan c' = d.chan c') ∧ (∀ e', (d.incf a hi lo n).eng e' = d.eng e') ∧
    (∀ k', (d.incf a hi lo n).act k' = d.act k') ∧ (∀ p', (d.incf a hi lo n).port p' = d.port p') ∧
    (∀ n', (d.incf a hi lo n).trdl n' = d.trdl n') ∧ (∀ n', (d.incf a hi lo n).ctl n' = d.ctl n') ∧
    (∀ n', (d.incf a hi lo n).shuttle n' = d.shuttle n') ∧ (∀ p' q', (d.incf a hi lo n).queue p' q' = d.queue p' q') ∧
    (∀ p', (d.incf a hi lo n).gatep p' = d.gatep p') ∧ (∀ x', (d.incf a hi lo n).stn x' = d.stn x') ∧
    (∀ k' n', (d.incf a hi lo n).mrd k' n' = d.mrd k' n') :=
    ⟨rfl, rfl, rfl, rfl, rfl, rfl, rfl, rfl, rfl, rfl, rfl, rfl, rfl, rfl, rfl, rfl, rfl, rfl, rfl, rfl, rfl, rfl, rfl,
    fun _ => rfl, fun _ => rfl, fun _ => rfl, fun _ => rfl, fun _ => rfl, fun _ => rfl, fun _ => rfl, fun _ _ => rfl,
    fun _ => rfl, fun _ => rfl, fun _ _ => rfl⟩

@[simp] theorem Dev.cnt_frame (d : Dev) (a n : Nat) :
    (d.cnt a n).mem = d.mem ∧ (d.cnt a n).pwr = d.pwr ∧ (d.cnt a n).tb = d.tb ∧ (d.cnt a n).trd = d.trd ∧
    (d.cnt a n).cut = d.cut ∧ (d.cnt a n).memb = d.memb ∧ (d.cnt a n).mac = d.mac ∧ (d.cnt a n).mdio = d.mdio ∧
    (d.cnt a n).swc = d.swc ∧ (d.cnt a n).red = d.red ∧ (d.cnt a n).slv = d.slv ∧ (d.cnt a n).mdb = d.mdb ∧
    (d.cnt a n).sht = d.sht ∧ (d.cnt a n).pins = d.pins ∧ (d.cnt a n).scn = d.scn ∧ (d.cnt a n).hbr = d.hbr ∧
    (d.cnt a n).fbr = d.fbr ∧ (d.cnt a n).sec = d.sec ∧ (d.cnt a n).tap = d.tap ∧ (d.cnt a n).obs = d.obs ∧
    (d.cnt a n).freeCtr = d.freeCtr ∧ (d.cnt a n).mode = d.mode ∧ (d.cnt a n).hostUp = d.hostUp ∧
    (∀ c', (d.cnt a n).chan c' = d.chan c') ∧ (∀ e', (d.cnt a n).eng e' = d.eng e') ∧
    (∀ k', (d.cnt a n).act k' = d.act k') ∧ (∀ p', (d.cnt a n).port p' = d.port p') ∧
    (∀ n', (d.cnt a n).trdl n' = d.trdl n') ∧ (∀ n', (d.cnt a n).ctl n' = d.ctl n') ∧
    (∀ n', (d.cnt a n).shuttle n' = d.shuttle n') ∧ (∀ p' q', (d.cnt a n).queue p' q' = d.queue p' q') ∧
    (∀ p', (d.cnt a n).gatep p' = d.gatep p') ∧ (∀ x', (d.cnt a n).stn x' = d.stn x') ∧
    (∀ k' n', (d.cnt a n).mrd k' n' = d.mrd k' n') :=
    ⟨rfl, rfl, rfl, rfl, rfl, rfl, rfl, rfl, rfl, rfl, rfl, rfl, rfl, rfl, rfl, rfl, rfl, rfl, rfl, rfl, rfl, rfl, rfl,
    fun _ => rfl, fun _ => rfl, fun _ => rfl, fun _ => rfl, fun _ => rfl, fun _ => rfl, fun _ => rfl, fun _ _ => rfl,
    fun _ => rfl, fun _ => rfl, fun _ _ => rfl⟩

@[simp] theorem Dev.emit_frame (d : Dev) (o : Obs) :
    (d.emit o).regs = d.regs ∧ (d.emit o).mem = d.mem ∧ (d.emit o).pwr = d.pwr ∧ (d.emit o).tb = d.tb ∧
    (d.emit o).trd = d.trd ∧ (d.emit o).cut = d.cut ∧ (d.emit o).memb = d.memb ∧ (d.emit o).mac = d.mac ∧
    (d.emit o).mdio = d.mdio ∧ (d.emit o).swc = d.swc ∧ (d.emit o).red = d.red ∧ (d.emit o).slv = d.slv ∧
    (d.emit o).mdb = d.mdb ∧ (d.emit o).sht = d.sht ∧ (d.emit o).pins = d.pins ∧ (d.emit o).scn = d.scn ∧
    (d.emit o).hbr = d.hbr ∧ (d.emit o).fbr = d.fbr ∧ (d.emit o).sec = d.sec ∧ (d.emit o).tap = d.tap ∧
    (d.emit o).freeCtr = d.freeCtr ∧ (d.emit o).obs = o :: d.obs ∧ (∀ a', (d.emit o).r a' = d.r a') ∧
    (d.emit o).mode = d.mode ∧ (d.emit o).hostUp = d.hostUp ∧ (∀ c', (d.emit o).chan c' = d.chan c') ∧
    (∀ e', (d.emit o).eng e' = d.eng e') ∧ (∀ k', (d.emit o).act k' = d.act k') ∧
    (∀ p', (d.emit o).port p' = d.port p') ∧ (∀ n', (d.emit o).trdl n' = d.trdl n') ∧
    (∀ n', (d.emit o).ctl n' = d.ctl n') ∧ (∀ n', (d.emit o).shuttle n' = d.shuttle n') ∧
    (∀ p' q', (d.emit o).queue p' q' = d.queue p' q') ∧ (∀ p', (d.emit o).gatep p' = d.gatep p') ∧
    (∀ x', (d.emit o).stn x' = d.stn x') ∧ (∀ k' n', (d.emit o).mrd k' n' = d.mrd k' n') :=
    ⟨rfl, rfl, rfl, rfl, rfl, rfl, rfl, rfl, rfl, rfl, rfl, rfl, rfl, rfl, rfl, rfl, rfl, rfl, rfl, rfl, rfl, rfl,
    fun _ => rfl, rfl, rfl, fun _ => rfl, fun _ => rfl, fun _ => rfl, fun _ => rfl, fun _ => rfl, fun _ => rfl,
    fun _ => rfl, fun _ _ => rfl, fun _ => rfl, fun _ => rfl, fun _ _ => rfl⟩

@[simp] theorem Dev.mwr_frame (d : Dev) (k : Nat) (l : List Byte) :
    (d.mwr k l).regs = d.regs ∧ (d.mwr k l).pwr = d.pwr ∧ (d.mwr k l).tb = d.tb ∧ (d.mwr k l).trd = d.trd ∧
    (d.mwr k l).cut = d.cut ∧ (d.mwr k l).memb = d.memb ∧ (d.mwr k l).mac = d.mac ∧ (d.mwr k l).mdio = d.mdio ∧
    (d.mwr k l).swc = d.swc ∧ (d.mwr k l).red = d.red ∧ (d.mwr k l).slv = d.slv ∧ (d.mwr k l).mdb = d.mdb ∧
    (d.mwr k l).sht = d.sht ∧ (d.mwr k l).pins = d.pins ∧ (d.mwr k l).scn = d.scn ∧ (d.mwr k l).hbr = d.hbr ∧
    (d.mwr k l).fbr = d.fbr ∧ (d.mwr k l).sec = d.sec ∧ (d.mwr k l).tap = d.tap ∧ (d.mwr k l).obs = d.obs ∧
    (d.mwr k l).freeCtr = d.freeCtr ∧ (d.mwr k l).mem = mwrite d.mem k l ∧ (∀ a', (d.mwr k l).r a' = d.r a') ∧
    (d.mwr k l).mode = d.mode ∧ (d.mwr k l).hostUp = d.hostUp ∧ (∀ c', (d.mwr k l).chan c' = d.chan c') ∧
    (∀ e', (d.mwr k l).eng e' = d.eng e') ∧ (∀ k', (d.mwr k l).act k' = d.act k') ∧
    (∀ p', (d.mwr k l).port p' = d.port p') ∧ (∀ n', (d.mwr k l).trdl n' = d.trdl n') ∧
    (∀ n', (d.mwr k l).ctl n' = d.ctl n') ∧ (∀ n', (d.mwr k l).shuttle n' = d.shuttle n') ∧
    (∀ p' q', (d.mwr k l).queue p' q' = d.queue p' q') ∧ (∀ p', (d.mwr k l).gatep p' = d.gatep p') ∧
    (∀ x', (d.mwr k l).stn x' = d.stn x') :=
    ⟨rfl, rfl, rfl, rfl, rfl, rfl, rfl, rfl, rfl, rfl, rfl, rfl, rfl, rfl, rfl, rfl, rfl, rfl, rfl, rfl, rfl, rfl,
    fun _ => rfl, rfl, rfl, fun _ => rfl, fun _ => rfl, fun _ => rfl, fun _ => rfl, fun _ => rfl, fun _ => rfl,
    fun _ => rfl, fun _ _ => rfl, fun _ => rfl, fun _ => rfl⟩

@[simp] theorem Dev.mwordSet_frame (d : Dev) (k : Nat) (v : Word) :
    (d.mwordSet k v).regs = d.regs ∧ (d.mwordSet k v).pwr = d.pwr ∧ (d.mwordSet k v).tb = d.tb ∧
    (d.mwordSet k v).trd = d.trd ∧ (d.mwordSet k v).cut = d.cut ∧ (d.mwordSet k v).memb = d.memb ∧
    (d.mwordSet k v).mac = d.mac ∧ (d.mwordSet k v).mdio = d.mdio ∧ (d.mwordSet k v).swc = d.swc ∧
    (d.mwordSet k v).red = d.red ∧ (d.mwordSet k v).slv = d.slv ∧ (d.mwordSet k v).mdb = d.mdb ∧
    (d.mwordSet k v).sht = d.sht ∧ (d.mwordSet k v).pins = d.pins ∧ (d.mwordSet k v).scn = d.scn ∧
    (d.mwordSet k v).hbr = d.hbr ∧ (d.mwordSet k v).fbr = d.fbr ∧ (d.mwordSet k v).sec = d.sec ∧
    (d.mwordSet k v).tap = d.tap ∧ (d.mwordSet k v).obs = d.obs ∧ (d.mwordSet k v).freeCtr = d.freeCtr ∧
    (∀ a', (d.mwordSet k v).r a' = d.r a') ∧ (d.mwordSet k v).mode = d.mode ∧ (d.mwordSet k v).hostUp = d.hostUp ∧
    (∀ c', (d.mwordSet k v).chan c' = d.chan c') ∧ (∀ e', (d.mwordSet k v).eng e' = d.eng e') ∧
    (∀ k', (d.mwordSet k v).act k' = d.act k') ∧ (∀ p', (d.mwordSet k v).port p' = d.port p') ∧
    (∀ n', (d.mwordSet k v).trdl n' = d.trdl n') ∧ (∀ n', (d.mwordSet k v).ctl n' = d.ctl n') ∧
    (∀ n', (d.mwordSet k v).shuttle n' = d.shuttle n') ∧ (∀ p' q', (d.mwordSet k v).queue p' q' = d.queue p' q') ∧
    (∀ p', (d.mwordSet k v).gatep p' = d.gatep p') ∧ (∀ x', (d.mwordSet k v).stn x' = d.stn x') :=
    ⟨rfl, rfl, rfl, rfl, rfl, rfl, rfl, rfl, rfl, rfl, rfl, rfl, rfl, rfl, rfl, rfl, rfl, rfl, rfl, rfl, rfl,
    fun _ => rfl, rfl, rfl, fun _ => rfl, fun _ => rfl, fun _ => rfl, fun _ => rfl, fun _ => rfl, fun _ => rfl,
    fun _ => rfl, fun _ _ => rfl, fun _ => rfl, fun _ => rfl⟩

@[simp] theorem Dev.failWrite_frame (d : Dev) (c : Nat) :
    (d.failWrite c).regs = d.regs ∧ (d.failWrite c).mem = d.mem ∧ (d.failWrite c).pwr = d.pwr ∧
    (d.failWrite c).tb = d.tb ∧ (d.failWrite c).trd = d.trd ∧ (d.failWrite c).cut = d.cut ∧
    (d.failWrite c).memb = d.memb ∧ (d.failWrite c).mac = d.mac ∧ (d.failWrite c).mdio = d.mdio ∧
    (d.failWrite c).swc = d.swc ∧ (d.failWrite c).red = d.red ∧ (d.failWrite c).slv = d.slv ∧
    (d.failWrite c).mdb = d.mdb ∧ (d.failWrite c).sht = d.sht ∧ (d.failWrite c).pins = d.pins ∧
    (d.failWrite c).scn = d.scn ∧ (d.failWrite c).fbr = d.fbr ∧ (d.failWrite c).sec = d.sec ∧
    (d.failWrite c).tap = d.tap ∧ (d.failWrite c).obs = d.obs ∧ (d.failWrite c).freeCtr = d.freeCtr ∧
    (∀ a', (d.failWrite c).r a' = d.r a') ∧ (d.failWrite c).mode = d.mode ∧ (d.failWrite c).hostUp = d.hostUp ∧
    (∀ c', (d.failWrite c).chan c' = d.chan c') ∧ (∀ e', (d.failWrite c).eng e' = d.eng e') ∧
    (∀ k', (d.failWrite c).act k' = d.act k') ∧ (∀ p', (d.failWrite c).port p' = d.port p') ∧
    (∀ n', (d.failWrite c).trdl n' = d.trdl n') ∧ (∀ n', (d.failWrite c).ctl n' = d.ctl n') ∧
    (∀ n', (d.failWrite c).shuttle n' = d.shuttle n') ∧ (∀ p' q', (d.failWrite c).queue p' q' = d.queue p' q') ∧
    (∀ p', (d.failWrite c).gatep p' = d.gatep p') ∧ (∀ x', (d.failWrite c).stn x' = d.stn x') ∧
    (∀ k' n', (d.failWrite c).mrd k' n' = d.mrd k' n') :=
    ⟨rfl, rfl, rfl, rfl, rfl, rfl, rfl, rfl, rfl, rfl, rfl, rfl, rfl, rfl, rfl, rfl, rfl, rfl, rfl, rfl, rfl,
    fun _ => rfl, rfl, rfl, fun _ => rfl, fun _ => rfl, fun _ => rfl, fun _ => rfl, fun _ => rfl, fun _ => rfl,
    fun _ => rfl, fun _ _ => rfl, fun _ => rfl, fun _ => rfl, fun _ _ => rfl⟩

@[simp] theorem Dev.setPwr_frame (d : Dev) (f : Pwr → Pwr) :
    (d.setPwr f).regs = d.regs ∧ (d.setPwr f).mem = d.mem ∧ (d.setPwr f).tb = d.tb ∧ (d.setPwr f).trd = d.trd ∧
    (d.setPwr f).cut = d.cut ∧ (d.setPwr f).memb = d.memb ∧ (d.setPwr f).mac = d.mac ∧ (d.setPwr f).mdio = d.mdio ∧
    (d.setPwr f).swc = d.swc ∧ (d.setPwr f).red = d.red ∧ (d.setPwr f).slv = d.slv ∧ (d.setPwr f).mdb = d.mdb ∧
    (d.setPwr f).sht = d.sht ∧ (d.setPwr f).pins = d.pins ∧ (d.setPwr f).scn = d.scn ∧ (d.setPwr f).hbr = d.hbr ∧
    (d.setPwr f).fbr = d.fbr ∧ (d.setPwr f).sec = d.sec ∧ (d.setPwr f).tap = d.tap ∧ (d.setPwr f).obs = d.obs ∧
    (d.setPwr f).freeCtr = d.freeCtr ∧ (d.setPwr f).pwr = f d.pwr ∧ (∀ a', (d.setPwr f).r a' = d.r a') ∧
    (∀ c', (d.setPwr f).chan c' = d.chan c') ∧ (∀ e', (d.setPwr f).eng e' = d.eng e') ∧
    (∀ k', (d.setPwr f).act k' = d.act k') ∧ (∀ p', (d.setPwr f).port p' = d.port p') ∧
    (∀ n', (d.setPwr f).trdl n' = d.trdl n') ∧ (∀ n', (d.setPwr f).ctl n' = d.ctl n') ∧
    (∀ n', (d.setPwr f).shuttle n' = d.shuttle n') ∧ (∀ p' q', (d.setPwr f).queue p' q' = d.queue p' q') ∧
    (∀ p', (d.setPwr f).gatep p' = d.gatep p') ∧ (∀ x', (d.setPwr f).stn x' = d.stn x') ∧
    (∀ k' n', (d.setPwr f).mrd k' n' = d.mrd k' n') :=
    ⟨rfl, rfl, rfl, rfl, rfl, rfl, rfl, rfl, rfl, rfl, rfl, rfl, rfl, rfl, rfl, rfl, rfl, rfl, rfl, rfl, rfl, rfl,
    fun _ => rfl, fun _ => rfl, fun _ => rfl, fun _ => rfl, fun _ => rfl, fun _ => rfl, fun _ => rfl, fun _ => rfl,
    fun _ _ => rfl, fun _ => rfl, fun _ => rfl, fun _ _ => rfl⟩

@[simp] theorem Dev.setChan_frame (d : Dev) (c : Nat) (f : Chan → Chan) :
    (d.setChan c f).regs = d.regs ∧ (d.setChan c f).mem = d.mem ∧ (d.setChan c f).pwr = d.pwr ∧
    (d.setChan c f).tb = d.tb ∧ (d.setChan c f).trd = d.trd ∧ (d.setChan c f).memb = d.memb ∧
    (d.setChan c f).mac = d.mac ∧ (d.setChan c f).mdio = d.mdio ∧ (d.setChan c f).swc = d.swc ∧
    (d.setChan c f).red = d.red ∧ (d.setChan c f).slv = d.slv ∧ (d.setChan c f).mdb = d.mdb ∧
    (d.setChan c f).sht = d.sht ∧ (d.setChan c f).pins = d.pins ∧ (d.setChan c f).scn = d.scn ∧
    (d.setChan c f).hbr = d.hbr ∧ (d.setChan c f).fbr = d.fbr ∧ (d.setChan c f).sec = d.sec ∧
    (d.setChan c f).tap = d.tap ∧ (d.setChan c f).obs = d.obs ∧ (d.setChan c f).freeCtr = d.freeCtr ∧
    (∀ a', (d.setChan c f).r a' = d.r a') ∧ (d.setChan c f).mode = d.mode ∧ (d.setChan c f).hostUp = d.hostUp ∧
    (∀ p', (d.setChan c f).port p' = d.port p') ∧ (∀ n', (d.setChan c f).trdl n' = d.trdl n') ∧
    (∀ n', (d.setChan c f).ctl n' = d.ctl n') ∧ (∀ n', (d.setChan c f).shuttle n' = d.shuttle n') ∧
    (∀ p' q', (d.setChan c f).queue p' q' = d.queue p' q') ∧ (∀ p', (d.setChan c f).gatep p' = d.gatep p') ∧
    (∀ x', (d.setChan c f).stn x' = d.stn x') ∧ (∀ k' n', (d.setChan c f).mrd k' n' = d.mrd k' n') :=
    ⟨rfl, rfl, rfl, rfl, rfl, rfl, rfl, rfl, rfl, rfl, rfl, rfl, rfl, rfl, rfl, rfl, rfl, rfl, rfl, rfl, rfl,
    fun _ => rfl, rfl, rfl, fun _ => rfl, fun _ => rfl, fun _ => rfl, fun _ => rfl, fun _ _ => rfl, fun _ => rfl,
    fun _ => rfl, fun _ _ => rfl⟩

@[simp] theorem Dev.setEng_frame (d : Dev) (e : Nat) (f : Engine → Engine) :
    (d.setEng e f).regs = d.regs ∧ (d.setEng e f).mem = d.mem ∧ (d.setEng e f).pwr = d.pwr ∧ (d.setEng e f).tb = d.tb ∧
    (d.setEng e f).trd = d.trd ∧ (d.setEng e f).memb = d.memb ∧ (d.setEng e f).mac = d.mac ∧
    (d.setEng e f).mdio = d.mdio ∧ (d.setEng e f).swc = d.swc ∧ (d.setEng e f).red = d.red ∧
    (d.setEng e f).slv = d.slv ∧ (d.setEng e f).mdb = d.mdb ∧ (d.setEng e f).sht = d.sht ∧
    (d.setEng e f).pins = d.pins ∧ (d.setEng e f).scn = d.scn ∧ (d.setEng e f).hbr = d.hbr ∧
    (d.setEng e f).fbr = d.fbr ∧ (d.setEng e f).sec = d.sec ∧ (d.setEng e f).tap = d.tap ∧ (d.setEng e f).obs = d.obs ∧
    (d.setEng e f).freeCtr = d.freeCtr ∧ (∀ a', (d.setEng e f).r a' = d.r a') ∧ (d.setEng e f).mode = d.mode ∧
    (d.setEng e f).hostUp = d.hostUp ∧ (∀ p', (d.setEng e f).port p' = d.port p') ∧
    (∀ n', (d.setEng e f).trdl n' = d.trdl n') ∧ (∀ n', (d.setEng e f).ctl n' = d.ctl n') ∧
    (∀ n', (d.setEng e f).shuttle n' = d.shuttle n') ∧ (∀ p' q', (d.setEng e f).queue p' q' = d.queue p' q') ∧
    (∀ p', (d.setEng e f).gatep p' = d.gatep p') ∧ (∀ x', (d.setEng e f).stn x' = d.stn x') ∧
    (∀ k' n', (d.setEng e f).mrd k' n' = d.mrd k' n') :=
    ⟨rfl, rfl, rfl, rfl, rfl, rfl, rfl, rfl, rfl, rfl, rfl, rfl, rfl, rfl, rfl, rfl, rfl, rfl, rfl, rfl, rfl,
    fun _ => rfl, rfl, rfl, fun _ => rfl, fun _ => rfl, fun _ => rfl, fun _ => rfl, fun _ _ => rfl, fun _ => rfl,
    fun _ => rfl, fun _ _ => rfl⟩

@[simp] theorem Dev.setAct_frame (d : Dev) (k : Nat) (f : Act → Act) :
    (d.setAct k f).regs = d.regs ∧ (d.setAct k f).mem = d.mem ∧ (d.setAct k f).pwr = d.pwr ∧ (d.setAct k f).tb = d.tb ∧
    (d.setAct k f).trd = d.trd ∧ (d.setAct k f).memb = d.memb ∧ (d.setAct k f).mac = d.mac ∧
    (d.setAct k f).mdio = d.mdio ∧ (d.setAct k f).swc = d.swc ∧ (d.setAct k f).red = d.red ∧
    (d.setAct k f).slv = d.slv ∧ (d.setAct k f).mdb = d.mdb ∧ (d.setAct k f).sht = d.sht ∧
    (d.setAct k f).pins = d.pins ∧ (d.setAct k f).scn = d.scn ∧ (d.setAct k f).hbr = d.hbr ∧
    (d.setAct k f).fbr = d.fbr ∧ (d.setAct k f).sec = d.sec ∧ (d.setAct k f).tap = d.tap ∧ (d.setAct k f).obs = d.obs ∧
    (d.setAct k f).freeCtr = d.freeCtr ∧ (∀ a', (d.setAct k f).r a' = d.r a') ∧ (d.setAct k f).mode = d.mode ∧
    (d.setAct k f).hostUp = d.hostUp ∧ (∀ p', (d.setAct k f).port p' = d.port p') ∧
    (∀ n', (d.setAct k f).trdl n' = d.trdl n') ∧ (∀ n', (d.setAct k f).ctl n' = d.ctl n') ∧
    (∀ n', (d.setAct k f).shuttle n' = d.shuttle n') ∧ (∀ p' q', (d.setAct k f).queue p' q' = d.queue p' q') ∧
    (∀ p', (d.setAct k f).gatep p' = d.gatep p') ∧ (∀ x', (d.setAct k f).stn x' = d.stn x') ∧
    (∀ k' n', (d.setAct k f).mrd k' n' = d.mrd k' n') :=
    ⟨rfl, rfl, rfl, rfl, rfl, rfl, rfl, rfl, rfl, rfl, rfl, rfl, rfl, rfl, rfl, rfl, rfl, rfl, rfl, rfl, rfl,
    fun _ => rfl, rfl, rfl, fun _ => rfl, fun _ => rfl, fun _ => rfl, fun _ => rfl, fun _ _ => rfl, fun _ => rfl,
    fun _ => rfl, fun _ _ => rfl⟩

@[simp] theorem Dev.setCtx_frame (d : Dev) (k : Nat) (f : Ctx → Ctx) :
    (d.setCtx k f).regs = d.regs ∧ (d.setCtx k f).mem = d.mem ∧ (d.setCtx k f).pwr = d.pwr ∧ (d.setCtx k f).tb = d.tb ∧
    (d.setCtx k f).trd = d.trd ∧ (d.setCtx k f).memb = d.memb ∧ (d.setCtx k f).mac = d.mac ∧
    (d.setCtx k f).mdio = d.mdio ∧ (d.setCtx k f).swc = d.swc ∧ (d.setCtx k f).red = d.red ∧
    (d.setCtx k f).slv = d.slv ∧ (d.setCtx k f).mdb = d.mdb ∧ (d.setCtx k f).sht = d.sht ∧
    (d.setCtx k f).pins = d.pins ∧ (d.setCtx k f).scn = d.scn ∧ (d.setCtx k f).hbr = d.hbr ∧
    (d.setCtx k f).fbr = d.fbr ∧ (d.setCtx k f).sec = d.sec ∧ (d.setCtx k f).tap = d.tap ∧ (d.setCtx k f).obs = d.obs ∧
    (d.setCtx k f).freeCtr = d.freeCtr ∧ (∀ a', (d.setCtx k f).r a' = d.r a') ∧ (d.setCtx k f).mode = d.mode ∧
    (d.setCtx k f).hostUp = d.hostUp ∧ (∀ p', (d.setCtx k f).port p' = d.port p') ∧
    (∀ n', (d.setCtx k f).trdl n' = d.trdl n') ∧ (∀ n', (d.setCtx k f).ctl n' = d.ctl n') ∧
    (∀ n', (d.setCtx k f).shuttle n' = d.shuttle n') ∧ (∀ p' q', (d.setCtx k f).queue p' q' = d.queue p' q') ∧
    (∀ p', (d.setCtx k f).gatep p' = d.gatep p') ∧ (∀ x', (d.setCtx k f).stn x' = d.stn x') ∧
    (∀ k' n', (d.setCtx k f).mrd k' n' = d.mrd k' n') :=
    ⟨rfl, rfl, rfl, rfl, rfl, rfl, rfl, rfl, rfl, rfl, rfl, rfl, rfl, rfl, rfl, rfl, rfl, rfl, rfl, rfl, rfl,
    fun _ => rfl, rfl, rfl, fun _ => rfl, fun _ => rfl, fun _ => rfl, fun _ => rfl, fun _ _ => rfl, fun _ => rfl,
    fun _ => rfl, fun _ _ => rfl⟩

@[simp] theorem Dev.setPort_frame (d : Dev) (p : Nat) (f : MacPort → MacPort) :
    (d.setPort p f).regs = d.regs ∧ (d.setPort p f).mem = d.mem ∧ (d.setPort p f).pwr = d.pwr ∧
    (d.setPort p f).tb = d.tb ∧ (d.setPort p f).trd = d.trd ∧ (d.setPort p f).cut = d.cut ∧
    (d.setPort p f).memb = d.memb ∧ (d.setPort p f).mdio = d.mdio ∧ (d.setPort p f).swc = d.swc ∧
    (d.setPort p f).red = d.red ∧ (d.setPort p f).slv = d.slv ∧ (d.setPort p f).mdb = d.mdb ∧
    (d.setPort p f).sht = d.sht ∧ (d.setPort p f).pins = d.pins ∧ (d.setPort p f).scn = d.scn ∧
    (d.setPort p f).hbr = d.hbr ∧ (d.setPort p f).fbr = d.fbr ∧ (d.setPort p f).sec = d.sec ∧
    (d.setPort p f).tap = d.tap ∧ (d.setPort p f).obs = d.obs ∧ (d.setPort p f).freeCtr = d.freeCtr ∧
    (d.setPort p f).mac = tmod MacPort.init d.mac p f ∧ (∀ a', (d.setPort p f).r a' = d.r a') ∧
    (d.setPort p f).mode = d.mode ∧ (d.setPort p f).hostUp = d.hostUp ∧ (∀ c', (d.setPort p f).chan c' = d.chan c') ∧
    (∀ e', (d.setPort p f).eng e' = d.eng e') ∧ (∀ k', (d.setPort p f).act k' = d.act k') ∧
    (∀ n', (d.setPort p f).trdl n' = d.trdl n') ∧ (∀ n', (d.setPort p f).ctl n' = d.ctl n') ∧
    (∀ n', (d.setPort p f).shuttle n' = d.shuttle n') ∧ (∀ p' q', (d.setPort p f).queue p' q' = d.queue p' q') ∧
    (∀ p', (d.setPort p f).gatep p' = d.gatep p') ∧ (∀ x', (d.setPort p f).stn x' = d.stn x') ∧
    (∀ k' n', (d.setPort p f).mrd k' n' = d.mrd k' n') :=
    ⟨rfl, rfl, rfl, rfl, rfl, rfl, rfl, rfl, rfl, rfl, rfl, rfl, rfl, rfl, rfl, rfl, rfl, rfl, rfl, rfl, rfl, rfl,
    fun _ => rfl, rfl, rfl, fun _ => rfl, fun _ => rfl, fun _ => rfl, fun _ => rfl, fun _ => rfl, fun _ => rfl,
    fun _ _ => rfl, fun _ => rfl, fun _ => rfl, fun _ _ => rfl⟩

@[simp] theorem Dev.setTrdl_frame (d : Dev) (n : Nat) (f : Treadle → Treadle) :
    (d.setTrdl n f).regs = d.regs ∧ (d.setTrdl n f).mem = d.mem ∧ (d.setTrdl n f).pwr = d.pwr ∧
    (d.setTrdl n f).tb = d.tb ∧ (d.setTrdl n f).cut = d.cut ∧ (d.setTrdl n f).memb = d.memb ∧
    (d.setTrdl n f).mac = d.mac ∧ (d.setTrdl n f).mdio = d.mdio ∧ (d.setTrdl n f).swc = d.swc ∧
    (d.setTrdl n f).red = d.red ∧ (d.setTrdl n f).slv = d.slv ∧ (d.setTrdl n f).mdb = d.mdb ∧
    (d.setTrdl n f).sht = d.sht ∧ (d.setTrdl n f).pins = d.pins ∧ (d.setTrdl n f).scn = d.scn ∧
    (d.setTrdl n f).hbr = d.hbr ∧ (d.setTrdl n f).fbr = d.fbr ∧ (d.setTrdl n f).sec = d.sec ∧
    (d.setTrdl n f).tap = d.tap ∧ (d.setTrdl n f).obs = d.obs ∧ (d.setTrdl n f).freeCtr = d.freeCtr ∧
    (∀ a', (d.setTrdl n f).r a' = d.r a') ∧ (d.setTrdl n f).mode = d.mode ∧ (d.setTrdl n f).hostUp = d.hostUp ∧
    (∀ c', (d.setTrdl n f).chan c' = d.chan c') ∧ (∀ e', (d.setTrdl n f).eng e' = d.eng e') ∧
    (∀ k', (d.setTrdl n f).act k' = d.act k') ∧ (∀ p', (d.setTrdl n f).port p' = d.port p') ∧
    (∀ n', (d.setTrdl n f).ctl n' = d.ctl n') ∧ (∀ n', (d.setTrdl n f).shuttle n' = d.shuttle n') ∧
    (∀ p' q', (d.setTrdl n f).queue p' q' = d.queue p' q') ∧ (∀ p', (d.setTrdl n f).gatep p' = d.gatep p') ∧
    (∀ x', (d.setTrdl n f).stn x' = d.stn x') ∧ (∀ k' n', (d.setTrdl n f).mrd k' n' = d.mrd k' n') :=
    ⟨rfl, rfl, rfl, rfl, rfl, rfl, rfl, rfl, rfl, rfl, rfl, rfl, rfl, rfl, rfl, rfl, rfl, rfl, rfl, rfl, rfl,
    fun _ => rfl, rfl, rfl, fun _ => rfl, fun _ => rfl, fun _ => rfl, fun _ => rfl, fun _ => rfl, fun _ => rfl,
    fun _ _ => rfl, fun _ => rfl, fun _ => rfl, fun _ _ => rfl⟩

@[simp] theorem Dev.setCtl_frame (d : Dev) (n : Nat) (f : Mdb → Mdb) :
    (d.setCtl n f).regs = d.regs ∧ (d.setCtl n f).mem = d.mem ∧ (d.setCtl n f).pwr = d.pwr ∧ (d.setCtl n f).tb = d.tb ∧
    (d.setCtl n f).trd = d.trd ∧ (d.setCtl n f).cut = d.cut ∧ (d.setCtl n f).memb = d.memb ∧
    (d.setCtl n f).mac = d.mac ∧ (d.setCtl n f).mdio = d.mdio ∧ (d.setCtl n f).swc = d.swc ∧
    (d.setCtl n f).red = d.red ∧ (d.setCtl n f).slv = d.slv ∧ (d.setCtl n f).sht = d.sht ∧
    (d.setCtl n f).pins = d.pins ∧ (d.setCtl n f).scn = d.scn ∧ (d.setCtl n f).hbr = d.hbr ∧
    (d.setCtl n f).fbr = d.fbr ∧ (d.setCtl n f).sec = d.sec ∧ (d.setCtl n f).tap = d.tap ∧ (d.setCtl n f).obs = d.obs ∧
    (d.setCtl n f).freeCtr = d.freeCtr ∧ (d.setCtl n f).mdb = tmod Mdb.init d.mdb n f ∧
    (∀ a', (d.setCtl n f).r a' = d.r a') ∧ (d.setCtl n f).mode = d.mode ∧ (d.setCtl n f).hostUp = d.hostUp ∧
    (∀ c', (d.setCtl n f).chan c' = d.chan c') ∧ (∀ e', (d.setCtl n f).eng e' = d.eng e') ∧
    (∀ k', (d.setCtl n f).act k' = d.act k') ∧ (∀ p', (d.setCtl n f).port p' = d.port p') ∧
    (∀ n', (d.setCtl n f).trdl n' = d.trdl n') ∧ (∀ n', (d.setCtl n f).shuttle n' = d.shuttle n') ∧
    (∀ p' q', (d.setCtl n f).queue p' q' = d.queue p' q') ∧ (∀ p', (d.setCtl n f).gatep p' = d.gatep p') ∧
    (∀ x', (d.setCtl n f).stn x' = d.stn x') ∧ (∀ k' n', (d.setCtl n f).mrd k' n' = d.mrd k' n') :=
    ⟨rfl, rfl, rfl, rfl, rfl, rfl, rfl, rfl, rfl, rfl, rfl, rfl, rfl, rfl, rfl, rfl, rfl, rfl, rfl, rfl, rfl, rfl,
    fun _ => rfl, rfl, rfl, fun _ => rfl, fun _ => rfl, fun _ => rfl, fun _ => rfl, fun _ => rfl, fun _ => rfl,
    fun _ _ => rfl, fun _ => rfl, fun _ => rfl, fun _ _ => rfl⟩

@[simp] theorem Dev.setSht_frame (d : Dev) (n : Nat) (f : Shuttle → Shuttle) :
    (d.setSht n f).regs = d.regs ∧ (d.setSht n f).mem = d.mem ∧ (d.setSht n f).pwr = d.pwr ∧ (d.setSht n f).tb = d.tb ∧
    (d.setSht n f).trd = d.trd ∧ (d.setSht n f).cut = d.cut ∧ (d.setSht n f).memb = d.memb ∧
    (d.setSht n f).mac = d.mac ∧ (d.setSht n f).mdio = d.mdio ∧ (d.setSht n f).swc = d.swc ∧
    (d.setSht n f).red = d.red ∧ (d.setSht n f).slv = d.slv ∧ (d.setSht n f).mdb = d.mdb ∧
    (d.setSht n f).pins = d.pins ∧ (d.setSht n f).scn = d.scn ∧ (d.setSht n f).hbr = d.hbr ∧
    (d.setSht n f).fbr = d.fbr ∧ (d.setSht n f).sec = d.sec ∧ (d.setSht n f).tap = d.tap ∧ (d.setSht n f).obs = d.obs ∧
    (d.setSht n f).freeCtr = d.freeCtr ∧ (d.setSht n f).sht = tmod Shuttle.init d.sht n f ∧
    (∀ a', (d.setSht n f).r a' = d.r a') ∧ (d.setSht n f).mode = d.mode ∧ (d.setSht n f).hostUp = d.hostUp ∧
    (∀ c', (d.setSht n f).chan c' = d.chan c') ∧ (∀ e', (d.setSht n f).eng e' = d.eng e') ∧
    (∀ k', (d.setSht n f).act k' = d.act k') ∧ (∀ p', (d.setSht n f).port p' = d.port p') ∧
    (∀ n', (d.setSht n f).trdl n' = d.trdl n') ∧ (∀ n', (d.setSht n f).ctl n' = d.ctl n') ∧
    (∀ p' q', (d.setSht n f).queue p' q' = d.queue p' q') ∧ (∀ p', (d.setSht n f).gatep p' = d.gatep p') ∧
    (∀ x', (d.setSht n f).stn x' = d.stn x') ∧ (∀ k' n', (d.setSht n f).mrd k' n' = d.mrd k' n') :=
    ⟨rfl, rfl, rfl, rfl, rfl, rfl, rfl, rfl, rfl, rfl, rfl, rfl, rfl, rfl, rfl, rfl, rfl, rfl, rfl, rfl, rfl, rfl,
    fun _ => rfl, rfl, rfl, fun _ => rfl, fun _ => rfl, fun _ => rfl, fun _ => rfl, fun _ => rfl, fun _ => rfl,
    fun _ _ => rfl, fun _ => rfl, fun _ => rfl, fun _ _ => rfl⟩

@[simp] theorem Dev.setQueue_frame (d : Dev) (p q : Nat) (l : List QEntry) :
    (d.setQueue p q l).regs = d.regs ∧ (d.setQueue p q l).mem = d.mem ∧ (d.setQueue p q l).pwr = d.pwr ∧
    (d.setQueue p q l).tb = d.tb ∧ (d.setQueue p q l).trd = d.trd ∧ (d.setQueue p q l).cut = d.cut ∧
    (d.setQueue p q l).memb = d.memb ∧ (d.setQueue p q l).mac = d.mac ∧ (d.setQueue p q l).mdio = d.mdio ∧
    (d.setQueue p q l).red = d.red ∧ (d.setQueue p q l).slv = d.slv ∧ (d.setQueue p q l).mdb = d.mdb ∧
    (d.setQueue p q l).sht = d.sht ∧ (d.setQueue p q l).pins = d.pins ∧ (d.setQueue p q l).scn = d.scn ∧
    (d.setQueue p q l).hbr = d.hbr ∧ (d.setQueue p q l).fbr = d.fbr ∧ (d.setQueue p q l).sec = d.sec ∧
    (d.setQueue p q l).tap = d.tap ∧ (d.setQueue p q l).obs = d.obs ∧ (d.setQueue p q l).freeCtr = d.freeCtr ∧
    (∀ a', (d.setQueue p q l).r a' = d.r a') ∧ (d.setQueue p q l).mode = d.mode ∧ (d.setQueue p q l).hostUp = d.hostUp ∧
    (∀ c', (d.setQueue p q l).chan c' = d.chan c') ∧ (∀ e', (d.setQueue p q l).eng e' = d.eng e') ∧
    (∀ k', (d.setQueue p q l).act k' = d.act k') ∧ (∀ p', (d.setQueue p q l).port p' = d.port p') ∧
    (∀ n', (d.setQueue p q l).trdl n' = d.trdl n') ∧ (∀ n', (d.setQueue p q l).ctl n' = d.ctl n') ∧
    (∀ n', (d.setQueue p q l).shuttle n' = d.shuttle n') ∧ (∀ x', (d.setQueue p q l).stn x' = d.stn x') ∧
    (∀ k' n', (d.setQueue p q l).mrd k' n' = d.mrd k' n') :=
    ⟨rfl, rfl, rfl, rfl, rfl, rfl, rfl, rfl, rfl, rfl, rfl, rfl, rfl, rfl, rfl, rfl, rfl, rfl, rfl, rfl, rfl,
    fun _ => rfl, rfl, rfl, fun _ => rfl, fun _ => rfl, fun _ => rfl, fun _ => rfl, fun _ => rfl, fun _ => rfl,
    fun _ => rfl, fun _ => rfl, fun _ _ => rfl⟩

@[simp] theorem Dev.setGate_frame (d : Dev) (p : Nat) (f : GatePort → GatePort) :
    (d.setGate p f).regs = d.regs ∧ (d.setGate p f).mem = d.mem ∧ (d.setGate p f).pwr = d.pwr ∧
    (d.setGate p f).tb = d.tb ∧ (d.setGate p f).trd = d.trd ∧ (d.setGate p f).cut = d.cut ∧
    (d.setGate p f).memb = d.memb ∧ (d.setGate p f).mac = d.mac ∧ (d.setGate p f).mdio = d.mdio ∧
    (d.setGate p f).red = d.red ∧ (d.setGate p f).slv = d.slv ∧ (d.setGate p f).mdb = d.mdb ∧
    (d.setGate p f).sht = d.sht ∧ (d.setGate p f).pins = d.pins ∧ (d.setGate p f).scn = d.scn ∧
    (d.setGate p f).hbr = d.hbr ∧ (d.setGate p f).fbr = d.fbr ∧ (d.setGate p f).sec = d.sec ∧
    (d.setGate p f).tap = d.tap ∧ (d.setGate p f).obs = d.obs ∧ (d.setGate p f).freeCtr = d.freeCtr ∧
    (∀ a', (d.setGate p f).r a' = d.r a') ∧ (d.setGate p f).mode = d.mode ∧ (d.setGate p f).hostUp = d.hostUp ∧
    (∀ c', (d.setGate p f).chan c' = d.chan c') ∧ (∀ e', (d.setGate p f).eng e' = d.eng e') ∧
    (∀ k', (d.setGate p f).act k' = d.act k') ∧ (∀ p', (d.setGate p f).port p' = d.port p') ∧
    (∀ n', (d.setGate p f).trdl n' = d.trdl n') ∧ (∀ n', (d.setGate p f).ctl n' = d.ctl n') ∧
    (∀ n', (d.setGate p f).shuttle n' = d.shuttle n') ∧ (∀ x', (d.setGate p f).stn x' = d.stn x') ∧
    (∀ k' n', (d.setGate p f).mrd k' n' = d.mrd k' n') :=
    ⟨rfl, rfl, rfl, rfl, rfl, rfl, rfl, rfl, rfl, rfl, rfl, rfl, rfl, rfl, rfl, rfl, rfl, rfl, rfl, rfl, rfl,
    fun _ => rfl, rfl, rfl, fun _ => rfl, fun _ => rfl, fun _ => rfl, fun _ => rfl, fun _ => rfl, fun _ => rfl,
    fun _ => rfl, fun _ => rfl, fun _ _ => rfl⟩

@[simp] theorem Dev.setStn_frame (d : Dev) (x : Nat) (f : Station → Station) :
    (d.setStn x f).regs = d.regs ∧ (d.setStn x f).mem = d.mem ∧ (d.setStn x f).pwr = d.pwr ∧ (d.setStn x f).tb = d.tb ∧
    (d.setStn x f).trd = d.trd ∧ (d.setStn x f).cut = d.cut ∧ (d.setStn x f).memb = d.memb ∧
    (d.setStn x f).mac = d.mac ∧ (d.setStn x f).mdio = d.mdio ∧ (d.setStn x f).swc = d.swc ∧
    (d.setStn x f).red = d.red ∧ (d.setStn x f).slv = d.slv ∧ (d.setStn x f).mdb = d.mdb ∧ (d.setStn x f).sht = d.sht ∧
    (d.setStn x f).pins = d.pins ∧ (d.setStn x f).hbr = d.hbr ∧ (d.setStn x f).fbr = d.fbr ∧
    (d.setStn x f).sec = d.sec ∧ (d.setStn x f).tap = d.tap ∧ (d.setStn x f).obs = d.obs ∧
    (d.setStn x f).freeCtr = d.freeCtr ∧ (∀ a', (d.setStn x f).r a' = d.r a') ∧ (d.setStn x f).mode = d.mode ∧
    (d.setStn x f).hostUp = d.hostUp ∧ (∀ c', (d.setStn x f).chan c' = d.chan c') ∧
    (∀ e', (d.setStn x f).eng e' = d.eng e') ∧ (∀ k', (d.setStn x f).act k' = d.act k') ∧
    (∀ p', (d.setStn x f).port p' = d.port p') ∧ (∀ n', (d.setStn x f).trdl n' = d.trdl n') ∧
    (∀ n', (d.setStn x f).ctl n' = d.ctl n') ∧ (∀ n', (d.setStn x f).shuttle n' = d.shuttle n') ∧
    (∀ p' q', (d.setStn x f).queue p' q' = d.queue p' q') ∧ (∀ p', (d.setStn x f).gatep p' = d.gatep p') ∧
    (∀ k' n', (d.setStn x f).mrd k' n' = d.mrd k' n') :=
    ⟨rfl, rfl, rfl, rfl, rfl, rfl, rfl, rfl, rfl, rfl, rfl, rfl, rfl, rfl, rfl, rfl, rfl, rfl, rfl, rfl, rfl,
    fun _ => rfl, rfl, rfl, fun _ => rfl, fun _ => rfl, fun _ => rfl, fun _ => rfl, fun _ => rfl, fun _ => rfl,
    fun _ => rfl, fun _ _ => rfl, fun _ => rfl, fun _ _ => rfl⟩

@[simp] theorem Dev.setHbr_frame (d : Dev) (f : Bridge → Bridge) :
    (d.setHbr f).regs = d.regs ∧ (d.setHbr f).mem = d.mem ∧ (d.setHbr f).pwr = d.pwr ∧ (d.setHbr f).tb = d.tb ∧
    (d.setHbr f).trd = d.trd ∧ (d.setHbr f).cut = d.cut ∧ (d.setHbr f).memb = d.memb ∧ (d.setHbr f).mac = d.mac ∧
    (d.setHbr f).mdio = d.mdio ∧ (d.setHbr f).swc = d.swc ∧ (d.setHbr f).red = d.red ∧ (d.setHbr f).slv = d.slv ∧
    (d.setHbr f).mdb = d.mdb ∧ (d.setHbr f).sht = d.sht ∧ (d.setHbr f).pins = d.pins ∧ (d.setHbr f).scn = d.scn ∧
    (d.setHbr f).fbr = d.fbr ∧ (d.setHbr f).sec = d.sec ∧ (d.setHbr f).tap = d.tap ∧ (d.setHbr f).obs = d.obs ∧
    (d.setHbr f).freeCtr = d.freeCtr ∧ (d.setHbr f).hbr = f d.hbr ∧ (∀ a', (d.setHbr f).r a' = d.r a') ∧
    (d.setHbr f).mode = d.mode ∧ (d.setHbr f).hostUp = d.hostUp ∧ (∀ c', (d.setHbr f).chan c' = d.chan c') ∧
    (∀ e', (d.setHbr f).eng e' = d.eng e') ∧ (∀ k', (d.setHbr f).act k' = d.act k') ∧
    (∀ p', (d.setHbr f).port p' = d.port p') ∧ (∀ n', (d.setHbr f).trdl n' = d.trdl n') ∧
    (∀ n', (d.setHbr f).ctl n' = d.ctl n') ∧ (∀ n', (d.setHbr f).shuttle n' = d.shuttle n') ∧
    (∀ p' q', (d.setHbr f).queue p' q' = d.queue p' q') ∧ (∀ p', (d.setHbr f).gatep p' = d.gatep p') ∧
    (∀ x', (d.setHbr f).stn x' = d.stn x') ∧ (∀ k' n', (d.setHbr f).mrd k' n' = d.mrd k' n') :=
    ⟨rfl, rfl, rfl, rfl, rfl, rfl, rfl, rfl, rfl, rfl, rfl, rfl, rfl, rfl, rfl, rfl, rfl, rfl, rfl, rfl, rfl, rfl,
    fun _ => rfl, rfl, rfl, fun _ => rfl, fun _ => rfl, fun _ => rfl, fun _ => rfl, fun _ => rfl, fun _ => rfl,
    fun _ => rfl, fun _ _ => rfl, fun _ => rfl, fun _ => rfl, fun _ _ => rfl⟩

@[simp] theorem Dev.setSec_frame (d : Dev) (f : Security → Security) :
    (d.setSec f).regs = d.regs ∧ (d.setSec f).mem = d.mem ∧ (d.setSec f).pwr = d.pwr ∧ (d.setSec f).tb = d.tb ∧
    (d.setSec f).trd = d.trd ∧ (d.setSec f).cut = d.cut ∧ (d.setSec f).memb = d.memb ∧ (d.setSec f).mac = d.mac ∧
    (d.setSec f).mdio = d.mdio ∧ (d.setSec f).swc = d.swc ∧ (d.setSec f).red = d.red ∧ (d.setSec f).slv = d.slv ∧
    (d.setSec f).mdb = d.mdb ∧ (d.setSec f).sht = d.sht ∧ (d.setSec f).pins = d.pins ∧ (d.setSec f).scn = d.scn ∧
    (d.setSec f).hbr = d.hbr ∧ (d.setSec f).fbr = d.fbr ∧ (d.setSec f).tap = d.tap ∧ (d.setSec f).obs = d.obs ∧
    (d.setSec f).freeCtr = d.freeCtr ∧ (d.setSec f).sec = f d.sec ∧ (∀ a', (d.setSec f).r a' = d.r a') ∧
    (d.setSec f).mode = d.mode ∧ (d.setSec f).hostUp = d.hostUp ∧ (∀ c', (d.setSec f).chan c' = d.chan c') ∧
    (∀ e', (d.setSec f).eng e' = d.eng e') ∧ (∀ k', (d.setSec f).act k' = d.act k') ∧
    (∀ p', (d.setSec f).port p' = d.port p') ∧ (∀ n', (d.setSec f).trdl n' = d.trdl n') ∧
    (∀ n', (d.setSec f).ctl n' = d.ctl n') ∧ (∀ n', (d.setSec f).shuttle n' = d.shuttle n') ∧
    (∀ p' q', (d.setSec f).queue p' q' = d.queue p' q') ∧ (∀ p', (d.setSec f).gatep p' = d.gatep p') ∧
    (∀ x', (d.setSec f).stn x' = d.stn x') ∧ (∀ k' n', (d.setSec f).mrd k' n' = d.mrd k' n') :=
    ⟨rfl, rfl, rfl, rfl, rfl, rfl, rfl, rfl, rfl, rfl, rfl, rfl, rfl, rfl, rfl, rfl, rfl, rfl, rfl, rfl, rfl, rfl,
    fun _ => rfl, rfl, rfl, fun _ => rfl, fun _ => rfl, fun _ => rfl, fun _ => rfl, fun _ => rfl, fun _ => rfl,
    fun _ => rfl, fun _ _ => rfl, fun _ => rfl, fun _ => rfl, fun _ _ => rfl⟩

@[simp] theorem Dev.setScn_frame (d : Dev) (f : Scan → Scan) :
    (d.setScn f).regs = d.regs ∧ (d.setScn f).mem = d.mem ∧ (d.setScn f).pwr = d.pwr ∧ (d.setScn f).tb = d.tb ∧
    (d.setScn f).trd = d.trd ∧ (d.setScn f).cut = d.cut ∧ (d.setScn f).memb = d.memb ∧ (d.setScn f).mac = d.mac ∧
    (d.setScn f).mdio = d.mdio ∧ (d.setScn f).swc = d.swc ∧ (d.setScn f).red = d.red ∧ (d.setScn f).slv = d.slv ∧
    (d.setScn f).mdb = d.mdb ∧ (d.setScn f).sht = d.sht ∧ (d.setScn f).pins = d.pins ∧ (d.setScn f).hbr = d.hbr ∧
    (d.setScn f).fbr = d.fbr ∧ (d.setScn f).sec = d.sec ∧ (d.setScn f).tap = d.tap ∧ (d.setScn f).obs = d.obs ∧
    (d.setScn f).freeCtr = d.freeCtr ∧ (d.setScn f).scn = f d.scn ∧ (∀ a', (d.setScn f).r a' = d.r a') ∧
    (d.setScn f).mode = d.mode ∧ (d.setScn f).hostUp = d.hostUp ∧ (∀ c', (d.setScn f).chan c' = d.chan c') ∧
    (∀ e', (d.setScn f).eng e' = d.eng e') ∧ (∀ k', (d.setScn f).act k' = d.act k') ∧
    (∀ p', (d.setScn f).port p' = d.port p') ∧ (∀ n', (d.setScn f).trdl n' = d.trdl n') ∧
    (∀ n', (d.setScn f).ctl n' = d.ctl n') ∧ (∀ n', (d.setScn f).shuttle n' = d.shuttle n') ∧
    (∀ p' q', (d.setScn f).queue p' q' = d.queue p' q') ∧ (∀ p', (d.setScn f).gatep p' = d.gatep p') ∧
    (∀ k' n', (d.setScn f).mrd k' n' = d.mrd k' n') :=
    ⟨rfl, rfl, rfl, rfl, rfl, rfl, rfl, rfl, rfl, rfl, rfl, rfl, rfl, rfl, rfl, rfl, rfl, rfl, rfl, rfl, rfl, rfl,
    fun _ => rfl, rfl, rfl, fun _ => rfl, fun _ => rfl, fun _ => rfl, fun _ => rfl, fun _ => rfl, fun _ => rfl,
    fun _ => rfl, fun _ _ => rfl, fun _ => rfl, fun _ _ => rfl⟩

@[simp] theorem Dev.setSlv_frame (d : Dev) (f : Ring → Ring) :
    (d.setSlv f).regs = d.regs ∧ (d.setSlv f).mem = d.mem ∧ (d.setSlv f).pwr = d.pwr ∧ (d.setSlv f).tb = d.tb ∧
    (d.setSlv f).trd = d.trd ∧ (d.setSlv f).cut = d.cut ∧ (d.setSlv f).memb = d.memb ∧ (d.setSlv f).mac = d.mac ∧
    (d.setSlv f).mdio = d.mdio ∧ (d.setSlv f).swc = d.swc ∧ (d.setSlv f).red = d.red ∧ (d.setSlv f).mdb = d.mdb ∧
    (d.setSlv f).sht = d.sht ∧ (d.setSlv f).pins = d.pins ∧ (d.setSlv f).scn = d.scn ∧ (d.setSlv f).hbr = d.hbr ∧
    (d.setSlv f).fbr = d.fbr ∧ (d.setSlv f).sec = d.sec ∧ (d.setSlv f).tap = d.tap ∧ (d.setSlv f).obs = d.obs ∧
    (d.setSlv f).freeCtr = d.freeCtr ∧ (d.setSlv f).slv = f d.slv ∧ (∀ a', (d.setSlv f).r a' = d.r a') ∧
    (d.setSlv f).mode = d.mode ∧ (d.setSlv f).hostUp = d.hostUp ∧ (∀ c', (d.setSlv f).chan c' = d.chan c') ∧
    (∀ e', (d.setSlv f).eng e' = d.eng e') ∧ (∀ k', (d.setSlv f).act k' = d.act k') ∧
    (∀ p', (d.setSlv f).port p' = d.port p') ∧ (∀ n', (d.setSlv f).trdl n' = d.trdl n') ∧
    (∀ n', (d.setSlv f).ctl n' = d.ctl n') ∧ (∀ n', (d.setSlv f).shuttle n' = d.shuttle n') ∧
    (∀ p' q', (d.setSlv f).queue p' q' = d.queue p' q') ∧ (∀ p', (d.setSlv f).gatep p' = d.gatep p') ∧
    (∀ x', (d.setSlv f).stn x' = d.stn x') ∧ (∀ k' n', (d.setSlv f).mrd k' n' = d.mrd k' n') :=
    ⟨rfl, rfl, rfl, rfl, rfl, rfl, rfl, rfl, rfl, rfl, rfl, rfl, rfl, rfl, rfl, rfl, rfl, rfl, rfl, rfl, rfl, rfl,
    fun _ => rfl, rfl, rfl, fun _ => rfl, fun _ => rfl, fun _ => rfl, fun _ => rfl, fun _ => rfl, fun _ => rfl,
    fun _ => rfl, fun _ _ => rfl, fun _ => rfl, fun _ => rfl, fun _ _ => rfl⟩

/-! A record update of another part leaves every register word. -/

@[simp] theorem Dev.r_with_mem (d : Dev) (x : Memory) (a : Nat) : ({ d with mem := x } : Dev).r a = d.r a := rfl
@[simp] theorem Dev.r_with_pwr (d : Dev) (x : Pwr) (a : Nat) : ({ d with pwr := x } : Dev).r a = d.r a := rfl
@[simp] theorem Dev.r_with_tb (d : Dev) (x : TimeBase) (a : Nat) : ({ d with tb := x } : Dev).r a = d.r a := rfl
@[simp] theorem Dev.r_with_trd (d : Dev) (x : TreadleBlock) (a : Nat) : ({ d with trd := x } : Dev).r a = d.r a := rfl
@[simp] theorem Dev.r_with_cut (d : Dev) (x : Cutter) (a : Nat) : ({ d with cut := x } : Dev).r a = d.r a := rfl
@[simp] theorem Dev.r_with_memb (d : Dev) (x : MemBlock) (a : Nat) : ({ d with memb := x } : Dev).r a = d.r a := rfl
@[simp] theorem Dev.r_with_mac (d : Dev) (x : Tab MacPort) (a : Nat) : ({ d with mac := x } : Dev).r a = d.r a := rfl
@[simp] theorem Dev.r_with_mdio (d : Dev) (x : Tab MdioOp) (a : Nat) : ({ d with mdio := x } : Dev).r a = d.r a := rfl
@[simp] theorem Dev.r_with_swc (d : Dev) (x : Switch) (a : Nat) : ({ d with swc := x } : Dev).r a = d.r a := rfl
@[simp] theorem Dev.r_with_red (d : Dev) (x : Redundancy) (a : Nat) : ({ d with red := x } : Dev).r a = d.r a := rfl
@[simp] theorem Dev.r_with_slv (d : Dev) (x : Ring) (a : Nat) : ({ d with slv := x } : Dev).r a = d.r a := rfl
@[simp] theorem Dev.r_with_mdb (d : Dev) (x : Tab Mdb) (a : Nat) : ({ d with mdb := x } : Dev).r a = d.r a := rfl
@[simp] theorem Dev.r_with_sht (d : Dev) (x : Tab Shuttle) (a : Nat) : ({ d with sht := x } : Dev).r a = d.r a := rfl
@[simp] theorem Dev.r_with_pins (d : Dev) (x : Pins) (a : Nat) : ({ d with pins := x } : Dev).r a = d.r a := rfl
@[simp] theorem Dev.r_with_scn (d : Dev) (x : Scan) (a : Nat) : ({ d with scn := x } : Dev).r a = d.r a := rfl
@[simp] theorem Dev.r_with_hbr (d : Dev) (x : Bridge) (a : Nat) : ({ d with hbr := x } : Dev).r a = d.r a := rfl
@[simp] theorem Dev.r_with_fbr (d : Dev) (x : List FbrSource) (a : Nat) : ({ d with fbr := x } : Dev).r a = d.r a := rfl
@[simp] theorem Dev.r_with_sec (d : Dev) (x : Security) (a : Nat) : ({ d with sec := x } : Dev).r a = d.r a := rfl
@[simp] theorem Dev.r_with_tap (d : Dev) (x : Tap) (a : Nat) : ({ d with tap := x } : Dev).r a = d.r a := rfl
@[simp] theorem Dev.r_with_obs (d : Dev) (x : List Obs) (a : Nat) : ({ d with obs := x } : Dev).r a = d.r a := rfl
@[simp] theorem Dev.r_with_freeCtr (d : Dev) (x : Nat) (a : Nat) : ({ d with freeCtr := x } : Dev).r a = d.r a := rfl

end Sys2Proof.Machine
end

