-- ==== Sys2Proof/Laws/Tables.lean ====
section
/-!
SUPPORT. Laws of the sparse tables and of memory: a read after a write, and that every memory operation keeps the canonical
form.
-/
namespace Sys2Proof.Machine

variable {α : Type}

/-! ### Reading a table that has changed -/

theorem tfind_tset (t : Tab α) (k j : Nat) (v : α) : tfind (tset t k v) j = if j = k then some v else tfind t j := by
  induction t with
  | nil => simp [tset, tfind, eq_comm]
  | cons c t ih =>
    obtain ⟨a, u⟩ := c
    simp only [tset]
    split
    · simp only [tfind, ih]
      split <;> split <;> first | rfl | omega
    · split
      · subst_vars
        simp only [tfind, eq_comm]
        split <;> rfl
      · simp only [tfind, eq_comm]

theorem tfind_terase (t : Tab α) (k j : Nat) : tfind (terase t k) j = if j = k then none else tfind t j := by
  induction t with
  | nil => simp [terase, tfind]
  | cons c t ih =>
    obtain ⟨a, u⟩ := c
    simp only [terase]
    split
    · rw [ih]
      simp only [tfind]
      split
      · rfl
      · split <;> first | rfl | omega
    · simp only [tfind, ih]
      split <;> split <;> first | rfl | omega

theorem tget_tset (d : α) (t : Tab α) (k j : Nat) (v : α) : tget d (tset t k v) j = if j = k then v else tget d t j := by
  unfold tget
  rw [tfind_tset]
  split <;> rfl

@[simp] theorem tget_tset_self (d : α) (t : Tab α) (k : Nat) (v : α) : tget d (tset t k v) k = v := by simp [tget_tset]

theorem tget_tset_ne (d : α) (t : Tab α) (k j : Nat) (v : α) (h : j ≠ k) : tget d (tset t k v) j = tget d t j := by
  simp [tget_tset, h]

theorem tget_terase (d : α) (t : Tab α) (k j : Nat) : tget d (terase t k) j = if j = k then d else tget d t j := by
  unfold tget
  rw [tfind_terase]
  split <;> rfl

theorem tget_tmod (d : α) (t : Tab α) (k j : Nat) (f : α → α) :
    tget d (tmod d t k f) j = if j = k then f (tget d t k) else tget d t j := tget_tset ..

@[simp] theorem tget_tmod_self (d : α) (t : Tab α) (k : Nat) (f : α → α) : tget d (tmod d t k f) k = f (tget d t k) := by
  simp [tget_tmod]

theorem tget_tmod_ne (d : α) (t : Tab α) (k j : Nat) (f : α → α) (h : j ≠ k) : tget d (tmod d t k f) j = tget d t j := by
  simp [tget_tmod, h]

/-! ### Sorted tables -/

/-- Every key of the table lies above `lo`. -/
def above (lo : Nat) (t : Tab α) : Prop := ∀ c ∈ t, lo < c.1

theorem tsorted_cons (a : Nat) (v : α) (t : Tab α) : tsorted ((a, v) :: t) = true ↔ above a t ∧ tsorted t = true := by
  induction t generalizing a v with
  | nil => simp [tsorted, above]
  | cons c t ih =>
    obtain ⟨b, w⟩ := c
    simp only [tsorted, Bool.and_eq_true, decide_eq_true_eq]
    constructor
    · rintro ⟨h, s⟩
      refine ⟨?_, s⟩
      intro e he
      rcases List.mem_cons.mp he with rfl | he
      · exact h
      · exact Nat.lt_trans h ((ih b w).mp s |>.1 e he)
    · rintro ⟨h, s⟩
      exact ⟨h (b, w) (List.mem_cons_self ..), s⟩

theorem above_tset {lo : Nat} {t : Tab α} {k : Nat} {v : α} (h : above lo t) (hk : lo < k) : above lo (tset t k v) := by
  induction t with
  | nil => simpa [tset, above] using hk
  | cons c t ih =>
    obtain ⟨a, u⟩ := c
    have ht : above lo t := fun e he => h e (List.mem_cons_of_mem _ he)
    have ha : lo < a := h (a, u) (List.mem_cons_self ..)
    simp only [tset]
    split
    · intro e he
      rcases List.mem_cons.mp he with rfl | he
      · exact ha
      · exact ih ht e he
    · split
      · intro e he
        rcases List.mem_cons.mp he with rfl | he
        · exact hk
        · exact ht e he
      · intro e he
        rcases List.mem_cons.mp he with rfl | he
        · exact hk
        · exact h e he

theorem mem_terase {t : Tab α} {k : Nat} {e : Nat × α} (h : e ∈ terase t k) : e ∈ t := by
  induction t with
  | nil => exact h
  | cons c t ih =>
    obtain ⟨a, u⟩ := c
    simp only [terase] at h
    split at h
    · exact List.mem_cons_of_mem _ (ih h)
    · rcases List.mem_cons.mp h with rfl | h
      · exact List.mem_cons_self ..
      · exact List.mem_cons_of_mem _ (ih h)

theorem tsorted_tset {t : Tab α} (k : Nat) (v : α) (h : tsorted t = true) : tsorted (tset t k v) = true := by
  induction t with
  | nil => rfl
  | cons c t ih =>
    obtain ⟨a, u⟩ := c
    obtain ⟨ha, ht⟩ := (tsorted_cons a u t).mp h
    simp only [tset]
    split
    · rename_i hk
      exact (tsorted_cons ..).mpr ⟨above_tset ha hk, ih ht⟩
    · split
      · subst_vars
        exact (tsorted_cons ..).mpr ⟨ha, ht⟩
      · refine (tsorted_cons ..).mpr ⟨?_, h⟩
        intro e he
        rcases List.mem_cons.mp he with rfl | he
        · show k < a; omega
        · have := ha e he; omega

theorem tsorted_terase {t : Tab α} (k : Nat) (h : tsorted t = true) : tsorted (terase t k) = true := by
  induction t with
  | nil => rfl
  | cons c t ih =>
    obtain ⟨a, u⟩ := c
    obtain ⟨ha, ht⟩ := (tsorted_cons a u t).mp h
    simp only [terase]
    split
    · exact ih ht
    · exact (tsorted_cons ..).mpr ⟨fun e he => ha e (mem_terase he), ih ht⟩

theorem tsorted_filter {t : Tab α} (p : Nat × α → Bool) (h : tsorted t = true) : tsorted (t.filter p) = true := by
  induction t with
  | nil => rfl
  | cons c t ih =>
    obtain ⟨a, u⟩ := c
    obtain ⟨ha, ht⟩ := (tsorted_cons a u t).mp h
    simp only [List.filter_cons]
    split
    · exact (tsorted_cons ..).mpr ⟨fun e he => ha e ((List.mem_filter.mp he).1), ih ht⟩
    · exact ih ht

/-! ### Memory -/

/-- A read after a write of one byte. -/
theorem mget_mset (m : Memory) (a k : Nat) (b : Byte) : mget (mset m a b) k = if k = a then b else mget m k := by
  unfold mset mget
  split
  · subst_vars
    rw [tget_terase]
  · rw [tget_tset]

/-- A read after a write of a range: the written byte inside it, the old one outside. -/
theorem mget_mwrite (m : Memory) (a k : Nat) (l : List Byte) :
    mget (mwrite m a l) k = if a ≤ k ∧ k < a + l.length then l.getD (k - a) 0 else mget m k := by
  induction l generalizing m a with
  | nil =>
    rw [mwrite, if_neg (by simp only [List.length_nil]; omega)]
  | cons b t ih =>
    rw [mwrite, ih, mget_mset, List.length_cons]
    by_cases h1 : k = a
    · subst h1
      rw [if_neg (by omega), if_pos rfl, if_pos (by omega), Nat.sub_self]
      rfl
    · rw [if_neg h1]
      by_cases h2 : a ≤ k ∧ k < a + (t.length + 1)
      · rw [if_pos h2, if_pos (by omega), show k - a = (k - (a + 1)) + 1 by omega]
        rfl
      · rw [if_neg h2, if_neg (by omega)]

theorem mread_length (m : Memory) (a n : Nat) : (mread m a n).length = n := by
  induction n generalizing a with
  | zero => rfl
  | succ n ih => simp [mread, ih]

/-- Reading back the range that was written. -/
theorem mread_mwrite (m : Memory) (a : Nat) (l : List Byte) : mread (mwrite m a l) a l.length = l := by
  have key : ∀ (n j : Nat), j + n = l.length → mread (mwrite m a l) (a + j) n = l.drop j := by
    intro n
    induction n with
    | zero => intro j hj; simp [mread, List.drop_eq_nil_of_le (by omega : l.length ≤ j)]
    | succ n ih =>
      intro j hj
      have h1 : j < l.length := by omega
      have h2 := ih (j + 1) (by omega)
      rw [show a + (j + 1) = a + j + 1 from rfl] at h2
      rw [mread, h2, mget_mwrite, List.drop_eq_getElem_cons h1]
      simp [h1]
  simpa using key l.length 0 (by simp)

theorem memory_wf_iff (m : Memory) : m.wf = true ↔ tsorted m = true ∧ ∀ c ∈ m, c.2 ≠ Memory.unlisted := by
  simp [Memory.wf]

theorem mem_tset {t : Tab α} {k : Nat} {v : α} {e : Nat × α} (h : e ∈ tset t k v) : e = (k, v) ∨ e ∈ t := by
  induction t with
  | nil => simpa [tset] using h
  | cons c t ih =>
    obtain ⟨a, u⟩ := c
    simp only [tset] at h
    split at h
    · rcases List.mem_cons.mp h with rfl | h
      · exact .inr (List.mem_cons_self ..)
      · rcases ih h with h | h
        · exact .inl h
        · exact .inr (List.mem_cons_of_mem _ h)
    · split at h
      · rcases List.mem_cons.mp h with rfl | h
        · exact .inl rfl
        · exact .inr (List.mem_cons_of_mem _ h)
      · rcases List.mem_cons.mp h with rfl | h
        · exact .inl rfl
        · exact .inr h

/-- Writing one byte keeps the canonical form. -/
theorem mset_wf {m : Memory} (a : Nat) (b : Byte) (h : m.wf = true) : (mset m a b).wf = true := by
  rw [memory_wf_iff] at *
  unfold mset
  split
  · exact ⟨tsorted_terase a h.1, fun c hc => h.2 c (mem_terase hc)⟩
  · rename_i hb
    refine ⟨tsorted_tset a b h.1, fun c hc => ?_⟩
    rcases mem_tset hc with rfl | hc
    · exact hb
    · exact h.2 c hc

/-- Writing a range keeps the canonical form. -/
theorem mwrite_wf {m : Memory} (a : Nat) (l : List Byte) (h : m.wf = true) : (mwrite m a l).wf = true := by
  induction l generalizing m a with
  | nil => exact h
  | cons b t ih => exact ih _ (mset_wf a b h)

/-- Dropping listed bytes keeps the canonical form. -/
theorem filter_wf {m : Memory} (p : Host.Cell → Bool) (h : m.wf = true) : Memory.wf (m.filter p) = true := by
  rw [memory_wf_iff] at *
  exact ⟨tsorted_filter p h.1, fun c hc => h.2 c ((List.mem_filter.mp hc).1)⟩

/-- A byte whose key the filter keeps reads as before. -/
theorem mget_filter (m : Memory) (p : Host.Cell → Bool) (k : Nat) (h : ∀ v, p (k, v) = true) :
    mget (m.filter p) k = mget m k := by
  unfold mget tget
  congr 1
  induction m with
  | nil => rfl
  | cons c t ih =>
    obtain ⟨a, u⟩ := c
    by_cases hk : a = k
    · subst hk
      simp [h, tfind]
    · simp only [List.filter_cons]
      split <;> simp [tfind, hk, ih]

theorem mclear_wf {m : Memory} (a n : Nat) (h : m.wf = true) : (mclear m a n).wf = true := filter_wf _ h

theorem mrestore_wf {m : Memory} (a n : Nat) (cells : Memory) (h : m.wf = true) : (mrestore m a n cells).wf = true := by
  unfold mrestore
  generalize hm : mclear m a n = m0
  have h0 : m0.wf = true := hm ▸ mclear_wf a n h
  clear hm
  induction cells generalizing m0 with
  | nil => exact h0
  | cons c t ih => exact ih _ (mset_wf _ _ h0)

end Sys2Proof.Machine
end

