-- ==== Sys2Proof/Laws/Ops.lean ====
section
/-!
SUPPORT. What the shared operations can do: how a meaning becomes a step, register accesses and their answers, bells, and
reads of registers after writes.
-/
namespace Sys2Proof.Machine

/-! ### Meanings as steps -/

/-- A lifted meaning completes, with the device that it gives. -/
theorem completes_lift {c : Instr} {s : State} {f : Dev → Dev} {P : Dev → Prop} (h : exec c s = lift f s) (hp : P (f s.dev)) :
    Completes c s P := ⟨{ s with dev := f s.dev }, h, rfl, hp⟩

/-- A meaning with a check on its operands completes where the check holds. -/
theorem completes_liftIf {c : Instr} {s : State} {ok : Bool} {f : Dev → Dev} {P : Dev → Prop} (h : exec c s = liftIf ok f s)
    (hok : ok = true) (hp : P (f s.dev)) : Completes c s P := by
  refine ⟨{ s with dev := f s.dev }, ?_, rfl, hp⟩
  rw [h, liftIf, if_pos hok]
  rfl

/-- A lifted meaning answers a next state whose queue is that of the state before. -/
theorem lift_next (f : Dev → Dev) (s : State) : lift f s = .next { s with dev := f s.dev } := rfl

/-! ### Register accesses -/

/-- A write that the mode lets through is its meaning. -/
theorem access_of_reaches {d : Dev} {who : Initiator} {a : Nat} {f : Dev → Dev} (h : d.reaches a) : d.access who a f = f d := by
  simp [Dev.access, h.1, h.2]

/-- A write that meets Holdover or the reset of the main domain has no effect. -/
theorem access_of_down {d : Dev} {who : Initiator} {a : Nat} {f : Dev → Dev} (h : d.hostUp = false) : d.access who a f = d := by
  simp [Dev.access, h]

/-- A write that the mode keeps out is recorded with reason 4. -/
theorem access_of_closed {d : Dev} {who : Initiator} {a : Nat} {f : Dev → Dev} (h : d.hostUp = true)
    (hb : d.blockOpen a = false) : d.access who a f = d.accErr who true 4 a := by simp [Dev.access, h, hb]

/-- A read that the mode lets through answers the initiator with the value and keeps the read's side effect. -/
theorem accessR_of_reaches {d : Dev} {who : Initiator} {a : Nat} {f : Dev → Word × Dev} (h : d.reaches a) :
    d.accessR who a f = (f d).2.answer who (f d).1 := by
  simp [Dev.accessR, h.1, h.2]

/-! ### Registers -/

@[simp] theorem Dev.r_w_self (d : Dev) (a : Nat) (v : Word) : (d.w a v).r a = v := tget_tset_self ..

theorem Dev.r_w (d : Dev) (a b : Nat) (v : Word) : (d.w a v).r b = if b = a then v else d.r b := by
  unfold Dev.r Dev.w
  simp only [tget_tset]

theorem Dev.r_w_ne (d : Dev) {a b : Nat} (v : Word) (h : b ≠ a) : (d.w a v).r b = d.r b := by simp [Dev.r_w, h]

@[simp] theorem Dev.r_wf_self (d : Dev) (a hi lo v : Nat) : (d.wf a hi lo v).r a = setFld (d.r a) hi lo v := Dev.r_w_self ..

theorem Dev.r_wf_ne (d : Dev) {a b : Nat} (hi lo v : Nat) (h : b ≠ a) : (d.wf a hi lo v).r b = d.r b := Dev.r_w_ne d _ h

@[simp] theorem Dev.r_wb_self (d : Dev) (a i : Nat) (v : Bool) : (d.wb a i v).r a = setBit (d.r a) i v := Dev.r_w_self ..

theorem Dev.r_wb_ne (d : Dev) {a b : Nat} (i : Nat) (v : Bool) (h : b ≠ a) : (d.wb a i v).r b = d.r b := Dev.r_w_ne d _ h

theorem Dev.r_wf (d : Dev) (a b hi lo v : Nat) :
    (d.wf a hi lo v).r b = if b = a then setFld (d.r a) hi lo v else d.r b := Dev.r_w ..

theorem Dev.r_wb (d : Dev) (a b i : Nat) (v : Bool) :
    (d.wb a i v).r b = if b = a then setBit (d.r a) i v else d.r b := Dev.r_w ..

theorem Dev.r_incf (d : Dev) (a b hi lo n : Nat) : (d.incf a hi lo n).r b =
    if b = a then setFld (d.r a) hi lo (wrapAdd (hi + 1 - lo) (d.f a hi lo) n) else d.r b := Dev.r_w ..

theorem Dev.r_satf (d : Dev) (a b hi lo n : Nat) : (d.satf a hi lo n).r b =
    if b = a then setFld (d.r a) hi lo (satAdd (hi + 1 - lo) (d.f a hi lo) n) else d.r b := Dev.r_w ..

/-- What an answer to a read leaves alone: everything but what has left the device and the last answer to the initiator. -/
@[simp] theorem answer_parts (d : Dev) (who : Initiator) (v : Word) (e : Bool) :
    (d.answer who v e).mem = d.mem ∧ (d.answer who v e).pwr = d.pwr ∧ (d.answer who v e).tb = d.tb ∧
    (d.answer who v e).trd = d.trd ∧ (d.answer who v e).cut = d.cut ∧ (d.answer who v e).memb = d.memb ∧
    (d.answer who v e).mac = d.mac ∧ (d.answer who v e).mdio = d.mdio ∧ (d.answer who v e).swc = d.swc ∧
    (d.answer who v e).red = d.red ∧ (d.answer who v e).slv = d.slv ∧ (d.answer who v e).mdb = d.mdb ∧
    (d.answer who v e).sht = d.sht ∧ (d.answer who v e).pins = d.pins ∧ (d.answer who v e).scn = d.scn ∧
    (d.answer who v e).fbr = d.fbr ∧ (d.answer who v e).sec = d.sec ∧ (d.answer who v e).tap = d.tap ∧
    (∀ a, (d.answer who v e).r a = d.r a) :=
  ⟨rfl, rfl, rfl, rfl, rfl, rfl, rfl, rfl, rfl, rfl, rfl, rfl, rfl, rfl, rfl, rfl, rfl, rfl, fun _ => rfl⟩

end Sys2Proof.Machine
end

