-- ==== Sys2Proof/Laws/Events.lean ====
section
/-!
SUPPORT. What ringing a bell, recording an access error and posting an event can change at most: the register words, what has
left the device, the Cutter's and the switch's bookkeeping, and the queues toward the pattern book. Everything else stays.
-/
namespace Sys2Proof.Machine

/-- The parts of the device that no bell and no event touches. -/
def Dev.still (d : Dev) :=
  (d.mem, d.pwr, d.tb, d.trd, d.memb, d.mac, d.mdio, d.mdb, d.sht, d.pins, d.scn, d.hbr, d.fbr, d.sec, d.tap)

/-- A part of the device that every step of a fold keeps is kept by the fold. -/
theorem foldl_keeps {α β : Type} (g : Dev → β) (l : List α) (f : Dev → α → Dev) (h : ∀ d x, g (f d x) = g d) (d : Dev) :
    g (l.foldl f d) = g d := by
  induction l generalizing d with
  | nil => rfl
  | cons x t ih => rw [List.foldl_cons, ih, h]

theorem each_keeps {β : Type} (g : Dev → β) (l : List Nat) (f : Dev → Nat → Dev) (h : ∀ d x, g (f d x) = g d) (d : Dev) :
    g (d.each l f) = g d := foldl_keeps g l f h d

/-- A part of the device that both branches agree on. -/
theorem ite_keeps {β : Type} (g : Dev → β) {c : Prop} [Decidable c] {a b : Dev} {x : β} (ha : g a = x) (hb : g b = x) :
    g (if c then a else b) = x := by
  split
  · exact ha
  · exact hb

theorem vecRise_still (d : Dev) (v : Option Nat) (b : Bool) : (d.vecRise v b).still = d.still := by
  unfold Dev.vecRise
  split
  · split <;> rfl
  · rfl

theorem setBell_still (d : Dev) (b : BellReg) (bits : Word) : (d.setBell b bits).still = d.still := by
  unfold Dev.setBell
  rw [vecRise_still]
  rfl

theorem freeSlots_still (d : Dev) (ev : Ev) : (d.freeSlots ev).still = d.still := by
  unfold Dev.freeSlots
  show Dev.still (List.foldl _ d _) = _
  apply foldl_keeps
  intro d u
  split <;> rfl

theorem enqueue_still (d : Dev) (k : Nat) (ev : Ev) : (d.enqueue k ev).still = d.still := by
  unfold Dev.enqueue
  dsimp only
  split
  · split
    · show Dev.still (Dev.setBell _ _ _) = _
      rw [setBell_still]; rfl
    · rw [freeSlots_still]
      show Dev.still (Dev.setBell _ _ _) = _
      rw [setBell_still]; rfl
  · show Dev.still (ite _ _ _) = _
    repeat' split
    all_goals first | rfl | (rw [setBell_still]; rfl)

theorem bookPut_still (d : Dev) (h : Word) (n : Nat) (st : Word) (b : List Byte) : (d.bookPut h n st b).still = d.still := by
  unfold Dev.bookPut Dev.free
  dsimp only
  split <;> rfl

theorem bookChan_still (d : Dev) (c : Nat) (b : List Byte) : (d.bookChan c b).still = d.still := by
  unfold Dev.bookChan
  split
  · rw [bookPut_still]
  · rfl

theorem journal_still (d : Dev) (c : Nat) (ev : Ev) : (d.journal c ev).still = d.still := by
  unfold Dev.journal
  rw [bookChan_still]
  rfl

theorem deliverEv_still (d : Dev) (c : Nat) (ev : Ev) : (d.deliverEv c ev).still = d.still := by
  have h : ((if d.evRoom c then d.journal c ev else d).enqueue c ev).still = d.still := by
    rw [enqueue_still]
    exact ite_keeps Dev.still (journal_still ..) rfl
  unfold Dev.deliverEv
  refine ite_keeps Dev.still (freeSlots_still ..) ?_
  generalize (if d.evRoom c then d.journal c ev else d).enqueue c ev = t at h
  dsimp only
  split
  · exact h
  · split
    · exact ite_keeps Dev.still h (by rw [enqueue_still, h])
    · split
      · exact ite_keeps Dev.still (by rw [enqueue_still, h]) h
      · exact h

theorem deliverUpTo_still (d : Dev) (c : Nat) (ev : Ev) : (d.deliverUpTo c ev).still = d.still := by
  unfold Dev.deliverUpTo
  split
  · exact ite_keeps Dev.still (freeSlots_still ..) (deliverEv_still ..)
  · exact deliverEv_still ..

theorem post_still (d : Dev) (c : Nat) (ev : Ev) : (d.post c ev).still = d.still := by
  unfold Dev.post
  dsimp only
  split
  · exact ite_keeps Dev.still (journal_still ..) (freeSlots_still ..)
  · exact deliverUpTo_still ..
  · exact deliverUpTo_still ..
  · exact deliverUpTo_still ..
  · split
    · exact deliverUpTo_still ..
    · exact ite_keeps Dev.still (journal_still ..) (freeSlots_still ..)
    · exact freeSlots_still ..
  · exact freeSlots_still ..

theorem control_still (d : Dev) (b unit : Nat) (bell : Word) : (d.control b unit bell).still = d.still := by
  unfold Dev.control
  dsimp only
  split
  · rfl
  · split
    · rw [post_still]; rfl
    · rfl

theorem rxFill_still (d : Dev) (m dir : Nat) (ws : List Word) : (d.rxFill m dir ws).still = d.still := by
  have h : (d.each (List.range ws.length) (fun d i => d.w (MBX_RX m dir i) (ws.getD i 0))).still = d.still := by
    apply each_keeps
    intros
    rfl
  unfold Dev.rxFill
  exact ite_keeps Dev.still h h

theorem partyRing_still (d : Dev) (p : Word) (bit : Nat) : (d.partyRing p bit).still = d.still := by
  unfold Dev.partyRing
  split
  · exact setBell_still ..
  · rfl

theorem rxEvent_still (d : Dev) (m dir c n bit : Nat) : (d.rxEvent m dir c n bit).still = d.still := by
  unfold Dev.rxEvent
  dsimp only
  rw [post_still]
  split <;> rfl

theorem deliver_still (d : Dev) (m dir : Nat) (ws : List Word) (bit : Nat) : (d.deliver m dir ws bit).1.still = d.still := by
  have h : ∀ x : Dev, x.still = d.still → ((x.incf (MBX_RXSTAT m dir) 31 16 1).w (MBX_RXST m dir) x.tb.st).still = d.still :=
    fun x hx => hx
  unfold Dev.deliver
  dsimp only
  split
  · rfl
  · have key : (((if ws = [] then d.cnt (MBX_CNT 2) else (d.cnt (MBX_CNT 1)).rxFill m dir ws).incf (MBX_RXSTAT m dir) 31 16
        1).w (MBX_RXST m dir) ((if ws = [] then d.cnt (MBX_CNT 2) else (d.cnt (MBX_CNT 1)).rxFill m dir ws).incf
          (MBX_RXSTAT m dir) 31 16 1).tb.st).still = d.still := by
      apply h
      split
      · rfl
      · rw [rxFill_still]; rfl
    split
    · rw [partyRing_still, key]
    · rw [rxEvent_still, partyRing_still, key]

theorem doorbell_still (d : Dev) (p : Word) : (d.doorbell p).still = d.still := by
  unfold Dev.doorbell
  apply each_keeps
  intro d m
  split
  · split
    · exact deliver_still ..
    · split
      · exact deliver_still ..
      · rfl
  · rfl

theorem ring_still (d : Dev) (b : BellReg) (bits : Word) : (d.ring b bits).still = d.still := by
  unfold Dev.ring
  dsimp only
  split
  · split
    · rw [doorbell_still]
      split
      · split
        · rw [control_still, setBell_still]
        · rw [setBell_still]
      · rw [setBell_still]
    · split
      · split
        · rw [control_still, setBell_still]
        · rw [setBell_still]
      · rw [setBell_still]
  · split
    · split
      · rw [control_still, setBell_still]
      · rw [setBell_still]
    · rw [setBell_still]

theorem ringBit_still (d : Dev) (b : BellReg) (i : Nat) : (d.ringBit b i).still = d.still := ring_still ..

theorem accErr_still (d : Dev) (who : Initiator) (w : Bool) (r a : Nat) :
    (d.accErr who w r a).still = (d.failWrite 1).still := by
  unfold Dev.accErr
  dsimp only
  split
  · rfl
  · rw [setBell_still]; rfl

/-! ### The same, part by part -/

@[simp] theorem ring_parts (d : Dev) (b : BellReg) (bits : Word) :
    (d.ring b bits).mem = d.mem ∧ (d.ring b bits).pwr = d.pwr ∧ (d.ring b bits).tb = d.tb ∧ (d.ring b bits).trd = d.trd ∧
    (d.ring b bits).memb = d.memb ∧ (d.ring b bits).mac = d.mac ∧ (d.ring b bits).mdio = d.mdio ∧
    (d.ring b bits).mdb = d.mdb ∧ (d.ring b bits).sht = d.sht ∧ (d.ring b bits).pins = d.pins ∧
    (d.ring b bits).scn = d.scn ∧ (d.ring b bits).hbr = d.hbr ∧ (d.ring b bits).fbr = d.fbr ∧
    (d.ring b bits).sec = d.sec ∧ (d.ring b bits).tap = d.tap := by
  simpa [Dev.still] using ring_still d b bits

@[simp] theorem ringBit_parts (d : Dev) (b : BellReg) (i : Nat) :
    (d.ringBit b i).mem = d.mem ∧ (d.ringBit b i).pwr = d.pwr ∧ (d.ringBit b i).tb = d.tb ∧ (d.ringBit b i).trd = d.trd ∧
    (d.ringBit b i).memb = d.memb ∧ (d.ringBit b i).mac = d.mac ∧ (d.ringBit b i).mdio = d.mdio ∧
    (d.ringBit b i).mdb = d.mdb ∧ (d.ringBit b i).sht = d.sht ∧ (d.ringBit b i).pins = d.pins ∧
    (d.ringBit b i).scn = d.scn ∧ (d.ringBit b i).hbr = d.hbr ∧ (d.ringBit b i).fbr = d.fbr ∧
    (d.ringBit b i).sec = d.sec ∧ (d.ringBit b i).tap = d.tap := ring_parts ..

@[simp] theorem post_parts (d : Dev) (c : Nat) (ev : Ev) :
    (d.post c ev).mem = d.mem ∧ (d.post c ev).pwr = d.pwr ∧ (d.post c ev).tb = d.tb ∧ (d.post c ev).trd = d.trd ∧
    (d.post c ev).memb = d.memb ∧ (d.post c ev).mac = d.mac ∧ (d.post c ev).mdio = d.mdio ∧
    (d.post c ev).mdb = d.mdb ∧ (d.post c ev).sht = d.sht ∧ (d.post c ev).pins = d.pins ∧
    (d.post c ev).scn = d.scn ∧ (d.post c ev).hbr = d.hbr ∧ (d.post c ev).fbr = d.fbr ∧
    (d.post c ev).sec = d.sec ∧ (d.post c ev).tap = d.tap := by
  simpa [Dev.still] using post_still d c ev

@[simp] theorem setBell_parts (d : Dev) (b : BellReg) (bits : Word) :
    (d.setBell b bits).mem = d.mem ∧ (d.setBell b bits).pwr = d.pwr ∧ (d.setBell b bits).tb = d.tb ∧
    (d.setBell b bits).trd = d.trd ∧ (d.setBell b bits).memb = d.memb ∧ (d.setBell b bits).mac = d.mac ∧
    (d.setBell b bits).mdio = d.mdio ∧ (d.setBell b bits).mdb = d.mdb ∧ (d.setBell b bits).sht = d.sht ∧
    (d.setBell b bits).pins = d.pins ∧ (d.setBell b bits).scn = d.scn ∧ (d.setBell b bits).hbr = d.hbr ∧
    (d.setBell b bits).fbr = d.fbr ∧ (d.setBell b bits).sec = d.sec ∧ (d.setBell b bits).tap = d.tap := by
  simpa [Dev.still] using setBell_still d b bits

/-! ### Registers of DEV, PWR, TB, TRD and CUT

They lie below the blocks whose registers bells and events write (MBX, SLV and ENG), so that they change by their own bell
alone. -/

/-- The register words below the MBX block. -/
def Dev.low (d : Dev) : Nat → Word := fun a => if a < 0x500000 then d.r a else 0

theorem low_w (d : Dev) (a : Nat) (v : Word) (h : 0x500000 ≤ a) : (d.w a v).low = d.low := by
  funext b
  unfold Dev.low
  split
  · exact Dev.r_w_ne d v (by omega)
  · rfl

theorem low_wf (d : Dev) (a hi lo v : Nat) (h : 0x500000 ≤ a) : (d.wf a hi lo v).low = d.low := low_w d a _ h

theorem low_emit (d : Dev) (o : Obs) : (d.emit o).low = d.low := rfl

theorem vecRise_low (d : Dev) (v : Option Nat) (b : Bool) : (d.vecRise v b).low = d.low := by
  unfold Dev.vecRise
  cases v with
  | none => rfl
  | some n => exact ite_keeps Dev.low rfl rfl

theorem setBell_low (d : Dev) (b : BellReg) (bits : Word) (h : 0x500000 ≤ b.addr) : (d.setBell b bits).low = d.low := by
  unfold Dev.setBell
  rw [vecRise_low, low_w _ _ _ h]

theorem vecRise_r (d : Dev) (v : Option Nat) (b : Bool) (a : Nat) : (d.vecRise v b).r a = d.r a := by
  unfold Dev.vecRise
  cases v with
  | none => rfl
  | some n => exact ite_keeps (fun d => d.r a) rfl rfl

/-- A bell register after its bits have been set. -/
theorem setBell_r (d : Dev) (b : BellReg) (bits : Word) (a : Nat) :
    (d.setBell b bits).r a = if a = b.addr then d.r b.addr ||| bits else d.r a := by
  unfold Dev.setBell
  rw [vecRise_r, Dev.r_w]

theorem freeSlots_low (d : Dev) (ev : Ev) : (d.freeSlots ev).low = d.low := by
  unfold Dev.freeSlots
  show Dev.low (List.foldl _ d _) = _
  apply foldl_keeps
  intro d u
  exact ite_keeps Dev.low (low_wf _ _ _ _ _ (by simp only [MBX_RXSTAT]; omega)) rfl

theorem enqueue_low (d : Dev) (k : Nat) (ev : Ev) : (d.enqueue k ev).low = d.low := by
  have hb : ∀ (x : Dev) (e : Nat) (bits : Word) (a : Nat), 0x500000 ≤ a → x.low = d.low →
      ((x.cnt a).setBell (.eng e) bits).low = d.low := by
    intro x e bits a ha hx
    rw [setBell_low _ _ _ (by simp only [BellReg.addr, ENG_BELL]; omega)]
    unfold Dev.cnt Dev.satf
    rw [low_wf _ _ _ _ _ ha, hx]
  unfold Dev.enqueue
  refine ite_keeps Dev.low ?_ ?_
  · refine ite_keeps Dev.low ?_ ?_
    · exact hb d _ _ _ (by simp only [ENG_EVQ_DROP]; omega) rfl
    · rw [freeSlots_low]
      exact hb d _ _ _ (by simp only [ENG_EVQ_DROP]; omega) rfl
  · refine ite_keeps Dev.low ?_ rfl
    exact hb d _ _ _ (by simp only [ENG_SETTLE_BRCH]; omega) rfl

theorem bookPut_low (d : Dev) (h : Word) (n : Nat) (st : Word) (b : List Byte) : (d.bookPut h n st b).low = d.low := by
  unfold Dev.bookPut Dev.free
  refine ite_keeps Dev.low ?_ rfl
  unfold Dev.cnt Dev.satf
  rw [low_wf _ _ _ _ _ (by simp only [SLV_CNT]; omega)]
  rfl

theorem bookChan_low (d : Dev) (c : Nat) (b : List Byte) : (d.bookChan c b).low = d.low :=
  ite_keeps Dev.low (bookPut_low ..) rfl

theorem journal_low (d : Dev) (c : Nat) (ev : Ev) : (d.journal c ev).low = d.low := by
  unfold Dev.journal
  rw [bookChan_low]
  rfl

theorem deliverEv_low (d : Dev) (c : Nat) (ev : Ev) : (d.deliverEv c ev).low = d.low := by
  have h : ((if d.evRoom c then d.journal c ev else d).enqueue c ev).low = d.low := by
    rw [enqueue_low]
    exact ite_keeps Dev.low (journal_low ..) rfl
  unfold Dev.deliverEv
  refine ite_keeps Dev.low (freeSlots_low ..) ?_
  generalize (if d.evRoom c then d.journal c ev else d).enqueue c ev = t at h
  dsimp only
  split
  · exact h
  · split
    · exact ite_keeps Dev.low h (by rw [enqueue_low, h])
    · split
      · exact ite_keeps Dev.low (by rw [enqueue_low, h]) h
      · exact h

theorem deliverUpTo_low (d : Dev) (c : Nat) (ev : Ev) : (d.deliverUpTo c ev).low = d.low := by
  unfold Dev.deliverUpTo
  split
  · exact ite_keeps Dev.low (freeSlots_low ..) (deliverEv_low ..)
  · exact deliverEv_low ..

theorem post_low (d : Dev) (c : Nat) (ev : Ev) : (d.post c ev).low = d.low := by
  unfold Dev.post
  dsimp only
  split
  · exact ite_keeps Dev.low (journal_low ..) (freeSlots_low ..)
  · exact deliverUpTo_low ..
  · exact deliverUpTo_low ..
  · exact deliverUpTo_low ..
  · split
    · exact deliverUpTo_low ..
    · exact ite_keeps Dev.low (journal_low ..) (freeSlots_low ..)
    · exact freeSlots_low ..
  · exact freeSlots_low ..

theorem control_low (d : Dev) (b unit : Nat) (bell : Word) : (d.control b unit bell).low = d.low := by
  unfold Dev.control
  dsimp only
  split
  · rfl
  · exact ite_keeps Dev.low (by rw [post_low]; rfl) rfl

theorem partyBell_addr (d : Dev) (p : Word) (b : BellReg) (h : d.partyBell p = some b) : 0x500000 ≤ b.addr := by
  unfold Dev.partyBell at h
  repeat' split at h
  all_goals first
    | (cases h; simp only [BellReg.addr, MBX_HBELL, MBX_CBELL, MBX_SBELL, MBX_YBELL, MBX_EBELL]; omega)
    | cases h

theorem partyRing_low (d : Dev) (p : Word) (bit : Nat) : (d.partyRing p bit).low = d.low := by
  unfold Dev.partyRing
  cases h : d.partyBell p with
  | none => rfl
  | some b => exact setBell_low _ _ _ (partyBell_addr d p b h)

theorem rxFill_low (d : Dev) (m dir : Nat) (ws : List Word) : (d.rxFill m dir ws).low = d.low := by
  have h : (d.each (List.range ws.length) (fun d i => d.w (MBX_RX m dir i) (ws.getD i 0))).low = d.low := by
    apply each_keeps
    intro d i
    exact low_w _ _ _ (by simp only [MBX_RX]; omega)
  have g : ∀ v, (Dev.wf (d.each (List.range ws.length) (fun d i => d.w (MBX_RX m dir i) (ws.getD i 0)))
      (MBX_RXSTAT m dir) 4 0 v).low = d.low := fun v => by
    rw [low_wf _ _ _ _ _ (by simp only [MBX_RXSTAT]; omega), h]
  unfold Dev.rxFill
  refine ite_keeps Dev.low ?_ (g _)
  show Dev.low (Dev.wf _ _ _ _ _) = _
  rw [low_wf _ _ _ _ _ (by simp only [MBX_HFULL]; omega)]
  exact g _

theorem rxEvent_low (d : Dev) (m dir c n bit : Nat) : (d.rxEvent m dir c n bit).low = d.low := by
  have h : ∀ v, (d.wb (MBX_RXSTAT m dir) 5 v).low = d.low := fun v => low_wf _ _ _ _ _ (by simp only [MBX_RXSTAT]; omega)
  unfold Dev.rxEvent
  dsimp only
  rw [post_low]
  exact ite_keeps Dev.low (h _) (h _)

theorem deliver_low (d : Dev) (m dir : Nat) (ws : List Word) (bit : Nat) : (d.deliver m dir ws bit).1.low = d.low := by
  have cnt : ∀ (x : Dev) (i : Nat), (x.cnt (MBX_CNT i)).low = x.low := by
    intro x i
    exact low_wf _ _ _ _ _ (by simp only [MBX_CNT]; omega)
  have h : ∀ x : Dev, x.low = d.low → ((x.incf (MBX_RXSTAT m dir) 31 16 1).w (MBX_RXST m dir) x.tb.st).low = d.low := by
    intro x hx
    rw [low_w _ _ _ (by simp only [MBX_RXST]; omega)]
    unfold Dev.incf
    rw [low_wf _ _ _ _ _ (by simp only [MBX_RXSTAT]; omega), hx]
  have key : (((if ws = [] then d.cnt (MBX_CNT 2) else (d.cnt (MBX_CNT 1)).rxFill m dir ws).incf (MBX_RXSTAT m dir) 31 16
        1).w (MBX_RXST m dir) ((if ws = [] then d.cnt (MBX_CNT 2) else (d.cnt (MBX_CNT 1)).rxFill m dir ws).incf
          (MBX_RXSTAT m dir) 31 16 1).tb.st).low = d.low := by
    apply h
    exact ite_keeps Dev.low (cnt ..) (by rw [rxFill_low, cnt])
  unfold Dev.deliver
  dsimp only
  split
  · show Dev.low (Dev.wf _ _ _ _ _) = _
    rw [low_wf _ _ _ _ _ (by simp only [MBX_RXSTAT]; omega), cnt]
  · split
    · rw [partyRing_low, key]
    · rw [rxEvent_low, partyRing_low, key]

theorem doorbell_low (d : Dev) (p : Word) : (d.doorbell p).low = d.low := by
  unfold Dev.doorbell
  apply each_keeps
  intro d m
  exact ite_keeps Dev.low (ite_keeps Dev.low (deliver_low ..) (ite_keeps Dev.low (deliver_low ..) rfl)) rfl

/-- A low register after a bell has rung: its own bits are set, every other word stays. -/
theorem ring_r (d : Dev) (b : BellReg) (bits : Word) (a : Nat) (h : a < 0x500000) :
    (d.ring b bits).r a = if a = b.addr then d.r b.addr ||| bits else d.r a := by
  have key : (d.ring b bits).low = (d.setBell b bits).low := by
    unfold Dev.ring
    dsimp only
    have c : (match b.event with
        | some (blk, unit) =>
          if (decide (d.unmasked b = 0) && bits &&& (d.setBell b bits).r b.mask &&& ~~~d.unmasked b != 0) = true then
            (d.setBell b bits).control blk unit ((d.setBell b bits).r b.addr)
          else d.setBell b bits
        | none => d.setBell b bits).low = (d.setBell b bits).low := by
      split
      · exact ite_keeps Dev.low (control_low ..) rfl
      · rfl
    split
    · exact ite_keeps Dev.low ((doorbell_low ..).trans c) c
    · exact c
  have e := congrFun key a
  simp only [Dev.low, if_pos h] at e
  rw [e, setBell_r]

theorem ringBit_r (d : Dev) (b : BellReg) (i : Nat) (a : Nat) (h : a < 0x500000) :
    (d.ringBit b i).r a = if a = b.addr then d.r b.addr ||| w32 (2 ^ i) else d.r a := ring_r d b _ a h

/-- The same, where the register table is in sight. -/
theorem ringBit_regs (d : Dev) (b : BellReg) (i : Nat) (a : Nat) (x : Word) (h : a < 0x500000) (hx : x = regReset a) :
    tget x (d.ringBit b i).regs a =
      if a = b.addr then tget (regReset b.addr) d.regs b.addr ||| w32 (2 ^ i) else tget x d.regs a := by
  subst hx
  exact ringBit_r d b i a h

end Sys2Proof.Machine
end

