-- ==== Sys2Proof/Laws/Faults.lean ====
section
/-!
SUPPORT. What the memory error log and a read of the block's own storage can change at most.
-/
namespace Sys2Proof.Machine

/-- The parts of the device that neither a bell, an event nor an entry of the memory error log touches. -/
def Dev.firm (d : Dev) :=
  (d.mem, d.pwr, d.tb, d.trd, d.mac, d.mdio, d.mdb, d.sht, d.pins, d.scn, d.hbr, d.fbr, d.sec, d.tap)

theorem firm_of_still {d e : Dev} (h : d.still = e.still) : d.firm = e.firm := by
  simp only [Dev.still, Prod.mk.injEq] at h
  simp only [Dev.firm, Prod.mk.injEq]
  tauto

theorem ringBit_firm (d : Dev) (b : BellReg) (i : Nat) : (d.ringBit b i).firm = d.firm := firm_of_still (ringBit_still ..)

theorem errLog_firm (d : Dev) (r : Nat) (u : Bool) (k s a : Nat) : (d.errLog r u k s a).firm = d.firm := by
  have h : ∀ x : Dev, (if x.b (MEM_ERR_LOG (x.f MEM_ERR_HEAD 4 0) 3) 16 = true then x.satf MEM_ERR_HEAD 31 16 1 else x).firm =
      x.firm := fun x => ite_keeps Dev.firm rfl rfl
  exact h d

/-- A read of storage that the block keeps for itself changes registers, bells and the free counter at most. -/
theorem ownEcc_firm (d : Dev) (c : Ecc) : (d.ownEcc c).firm = d.firm := by
  cases c
  · rfl
  · exact (ringBit_firm ..).trans (errLog_firm ..)
  · exact (ringBit_firm ..).trans (errLog_firm ..)

theorem ownEcc_parts (d : Dev) (c : Ecc) : (d.ownEcc c).mem = d.mem ∧ (d.ownEcc c).pwr = d.pwr ∧ (d.ownEcc c).tb = d.tb ∧
    (d.ownEcc c).trd = d.trd ∧ (d.ownEcc c).mac = d.mac ∧ (d.ownEcc c).pins = d.pins ∧ (d.ownEcc c).scn = d.scn ∧
    (d.ownEcc c).sec = d.sec := by
  have h := ownEcc_firm d c
  simp only [Dev.firm, Prod.mk.injEq] at h
  tauto

end Sys2Proof.Machine
end

