-- ==== Sys2Proof/Laws/Pins.lean ====
section
/-!
SUPPORT. What looking at the pins, logging, completing a mode request and entering a mode leave alone.
-/
namespace Sys2Proof.Machine

/-- The device but for what has left it. -/
def Dev.butObs (d : Dev) : Dev := { d with obs := [] }

theorem pinSeen_butObs (d : Dev) (i : Nat) (b : Option Bool) : (d.pinSeen i b).butObs = d.butObs := by
  unfold Dev.pinSeen
  split
  · rfl
  · split <;> rfl

theorem pullSeen_butObs (d : Dev) (i b : Nat) : (d.pullSeen i b).butObs = d.butObs := by
  unfold Dev.pullSeen
  split <;> rfl

theorem pinsSeen_butObs (d b : Dev) : (d.pinsSeen b).butObs = d.butObs := by
  unfold Dev.pinsSeen
  apply each_keeps
  intros
  rw [pullSeen_butObs, pinSeen_butObs]

theorem tapView_butObs (d b : Dev) : (d.tapView b).butObs = d.butObs := by
  unfold Dev.tapView
  split
  · exact pinsSeen_butObs ..
  · rfl

/-- Looking at the pins changes nothing but what has left the device. -/
@[simp] theorem pinsSeen_parts (d b : Dev) :
    (d.pinsSeen b).regs = d.regs ∧ (d.pinsSeen b).mem = d.mem ∧ (d.pinsSeen b).pwr = d.pwr ∧ (d.pinsSeen b).tb = d.tb ∧
    (d.pinsSeen b).trd = d.trd ∧ (d.pinsSeen b).cut = d.cut ∧ (d.pinsSeen b).memb = d.memb ∧ (d.pinsSeen b).mac = d.mac ∧
    (d.pinsSeen b).mdio = d.mdio ∧ (d.pinsSeen b).swc = d.swc ∧ (d.pinsSeen b).red = d.red ∧ (d.pinsSeen b).slv = d.slv ∧
    (d.pinsSeen b).mdb = d.mdb ∧ (d.pinsSeen b).sht = d.sht ∧ (d.pinsSeen b).pins = d.pins ∧ (d.pinsSeen b).scn = d.scn ∧
    (d.pinsSeen b).hbr = d.hbr ∧ (d.pinsSeen b).fbr = d.fbr ∧ (d.pinsSeen b).sec = d.sec ∧ (d.pinsSeen b).tap = d.tap ∧
    (d.pinsSeen b).freeCtr = d.freeCtr ∧ (∀ a, (d.pinsSeen b).r a = d.r a) := by
  have h := pinsSeen_butObs d b
  simp only [Dev.butObs, Dev.mk.injEq] at h
  obtain ⟨h1, h2, h3, h4, h5, h6, h7, h8, h9, h10, h11, h12, h13, h14, h15, h16, h17, h18, h19, h20, h21, h22⟩ := h
  refine ⟨h1, h2, h3, h4, h5, h6, h7, h8, h9, h10, h11, h12, h13, h14, h15, h16, h17, h18, h19, h20, h22, fun a => ?_⟩
  unfold Dev.r
  rw [h1]

/-- The same of a look for the test access port. -/
@[simp] theorem tapView_parts (d b : Dev) :
    (d.tapView b).regs = d.regs ∧ (d.tapView b).mem = d.mem ∧ (d.tapView b).pwr = d.pwr ∧ (d.tapView b).tb = d.tb ∧
    (d.tapView b).trd = d.trd ∧ (d.tapView b).cut = d.cut ∧ (d.tapView b).memb = d.memb ∧ (d.tapView b).mac = d.mac ∧
    (d.tapView b).mdio = d.mdio ∧ (d.tapView b).swc = d.swc ∧ (d.tapView b).red = d.red ∧ (d.tapView b).slv = d.slv ∧
    (d.tapView b).mdb = d.mdb ∧ (d.tapView b).sht = d.sht ∧ (d.tapView b).pins = d.pins ∧ (d.tapView b).scn = d.scn ∧
    (d.tapView b).hbr = d.hbr ∧ (d.tapView b).fbr = d.fbr ∧ (d.tapView b).sec = d.sec ∧ (d.tapView b).tap = d.tap ∧
    (d.tapView b).freeCtr = d.freeCtr ∧ (∀ a, (d.tapView b).r a = d.r a) := by
  have h := tapView_butObs d b
  simp only [Dev.butObs, Dev.mk.injEq] at h
  obtain ⟨h1, h2, h3, h4, h5, h6, h7, h8, h9, h10, h11, h12, h13, h14, h15, h16, h17, h18, h19, h20, h21, h22⟩ := h
  refine ⟨h1, h2, h3, h4, h5, h6, h7, h8, h9, h10, h11, h12, h13, h14, h15, h16, h17, h18, h19, h20, h22, fun a => ?_⟩
  unfold Dev.r
  rw [h1]

/-- The event log: its four words, its state and its counters change, nothing else. -/
theorem logEvent_pwr (d : Dev) (code src v : Nat) : (d.logEvent code src v).pwr =
    { d.pwr with logCount := d.pwr.logCount + 1, logSeq := wrapAdd 16 d.pwr.logSeq 1 } := by
  unfold Dev.logEvent
  dsimp only
  split <;> rfl

/-- The device but for its registers and the always-on domain. -/
def Dev.butRegsPwr (d : Dev) : Dev := { d with regs := [], pwr := Pwr.init }

theorem logEvent_butRegsPwr (d : Dev) (code src v : Nat) : (d.logEvent code src v).butRegsPwr = d.butRegsPwr := by
  unfold Dev.logEvent
  dsimp only
  split <;> rfl

@[simp] theorem logEvent_parts (d : Dev) (code src v : Nat) :
    (d.logEvent code src v).mem = d.mem ∧ (d.logEvent code src v).tb = d.tb ∧
    (d.logEvent code src v).trd = d.trd ∧ (d.logEvent code src v).cut = d.cut ∧ (d.logEvent code src v).memb = d.memb ∧
    (d.logEvent code src v).mac = d.mac ∧ (d.logEvent code src v).mdio = d.mdio ∧ (d.logEvent code src v).swc = d.swc ∧
    (d.logEvent code src v).red = d.red ∧ (d.logEvent code src v).slv = d.slv ∧ (d.logEvent code src v).mdb = d.mdb ∧
    (d.logEvent code src v).sht = d.sht ∧ (d.logEvent code src v).pins = d.pins ∧ (d.logEvent code src v).scn = d.scn ∧
    (d.logEvent code src v).hbr = d.hbr ∧ (d.logEvent code src v).fbr = d.fbr ∧ (d.logEvent code src v).sec = d.sec ∧
    (d.logEvent code src v).tap = d.tap ∧ (d.logEvent code src v).obs = d.obs ∧
    (d.logEvent code src v).freeCtr = d.freeCtr := by
  have h := logEvent_butRegsPwr d code src v
  simp only [Dev.butRegsPwr, Dev.mk.injEq] at h
  obtain ⟨h1, h2, h3, h4, h5, h6, h7, h8, h9, h10, h11, h12, h13, h14, h15, h16, h17, h18, h19, h20, h21, h22⟩ := h
  exact ⟨h2, h4, h5, h6, h7, h8, h9, h10, h11, h12, h13, h14, h15, h16, h17, h18, h19, h20, h21, h22⟩

/-- A register outside the log's window and its state word stays. -/
theorem logEvent_r (d : Dev) (code src v a : Nat) (h : ∀ i < 256, ∀ j < 4, a ≠ PWR_LOG i j) (hs : a ≠ PWR_LOG_STAT) :
    (d.logEvent code src v).r a = d.r a := by
  have hi : d.pwr.logCount % 256 < 256 := Nat.mod_lt _ (by decide)
  unfold Dev.logEvent
  dsimp only
  split
  · show Dev.r (Dev.wf _ _ _ _ _) a = _
    rw [Dev.r_wf_ne _ _ _ _ hs]
    rw [Dev.r_w_ne _ _ (h _ hi 3 (by decide)), Dev.r_w_ne _ _ (h _ hi 2 (by decide)),
      Dev.r_w_ne _ _ (h _ hi 1 (by decide)), Dev.r_w_ne _ _ (h _ hi 0 (by decide))]
  · show Dev.r (Dev.satf _ _ _ _ _) a = _
    unfold Dev.satf
    rw [Dev.r_wf_ne _ _ _ _ hs, Dev.r_wf_ne _ _ _ _ hs]
    rw [Dev.r_w_ne _ _ (h _ hi 3 (by decide)), Dev.r_w_ne _ _ (h _ hi 2 (by decide)),
      Dev.r_w_ne _ _ (h _ hi 1 (by decide)), Dev.r_w_ne _ _ (h _ hi 0 (by decide))]

end Sys2Proof.Machine
end

