-- ==== Sys2Proof/Laws/Modes.lean ====
section
/-!
SUPPORT. What a reset of the main domain, its release and the entry to a mode leave.
-/
namespace Sys2Proof.Machine

/-! ### Resets -/

theorem logEvent_resetCause (d : Dev) (code src v : Nat) : (d.logEvent code src v).r PWR_RESET_CAUSE = d.r PWR_RESET_CAUSE :=
  logEvent_r d code src v _ (by intro i _ j _; simp only [PWR_RESET_CAUSE, PWR_LOG]; omega) (by decide)

theorem logEvent_wakeCause (d : Dev) (code src v : Nat) : (d.logEvent code src v).r PWR_WAKE_CAUSE = d.r PWR_WAKE_CAUSE :=
  logEvent_r d code src v _ (by intro i _ j _; simp only [PWR_WAKE_CAUSE, PWR_LOG]; omega) (by decide)

/-- A WARM reset holds the main domain in Boot, and lists the fields of the always-on domain that it clears. -/
theorem mainReset_pwr (d : Dev) : d.mainReset.pwr =
    { d.pwr with mode := .boot, trans := if d.pwr.trans = .powerDown then .powerDown else .idle, reqStatus := 0, mainUp := false, flushing := none, flushImg := [],
                 flushForSleep := false, sleepFlushed := false,
                 release := if d.pwr.mode = .boot then d.pwr.release else .warm } := by
  unfold Dev.mainReset
  simp only [pinsSeen_parts]
  rfl

theorem mainReset_otp (d : Dev) : d.mainReset.sec.otp = d.sec.otp := by
  unfold Dev.mainReset
  simp only [pinsSeen_parts]
  rfl

theorem mainReset_mem (d : Dev) : d.mainReset.mem = d.mem.filter (fun (c : Host.Cell) =>
    (decide (keyRet ≤ c.1) && decide (c.1 < keyRet + 0x40000)) || decide (keyExt ≤ c.1)) := by
  unfold Dev.mainReset
  simp only [pinsSeen_parts]
  rfl

/-- External memory and the retained area survive a WARM reset. -/
theorem mainReset_keeps (d : Dev) (k : Nat) (hk : keyExt ≤ k ∨ (keyRet ≤ k ∧ k < keyRet + 0x40000)) :
    mget d.mainReset.mem k = mget d.mem k := by
  rw [mainReset_mem, mget_filter]
  intro v
  simp only [Bool.or_eq_true, Bool.and_eq_true, decide_eq_true_eq]
  omega

/-- A POR clears memory, and leaves Boot with the main domain in reset; the OTP stays. -/
theorem porReset_parts (d : Dev) : d.porReset.pwr.mode = .boot ∧ d.porReset.pwr.mainUp = false ∧
    d.porReset.pwr.porLow = d.pwr.porLow ∧ d.porReset.pwr.supplyLow = d.pwr.supplyLow ∧
    d.porReset.pwr.warmLow = d.pwr.warmLow ∧ d.porReset.mem = [] ∧ d.porReset.sec.otp = d.sec.otp := by
  unfold Dev.porReset
  simp only [pinsSeen_parts]
  repeat' split
  all_goals exact ⟨rfl, rfl, rfl, rfl, rfl, rfl, rfl⟩

/-- A POR gives every register word its reset value; PWR_RESET_CAUSE names WARM_N beside it where that pin is held (R37). -/
theorem porReset_r (d : Dev) (a : Nat) : d.porReset.r a =
    if d.pwr.warmLow = true ∧ a = PWR_RESET_CAUSE then 3#32 else regReset a := by
  have hx : ∀ x : Dev, x.regs = [] → (if d.pwr.warmLow = true then x.wb PWR_RESET_CAUSE 1 true else x).r a =
      if d.pwr.warmLow = true ∧ a = PWR_RESET_CAUSE then 3#32 else regReset a := by
    intro x h
    by_cases hw : d.pwr.warmLow = true
    · by_cases ha : a = PWR_RESET_CAUSE
      · subst ha
        simp only [hw, and_self, if_true, Dev.wb, Dev.wf, Dev.w, Dev.r, h, tget_tset]
        exact (by decide : setFld (regReset PWR_RESET_CAUSE) 1 1 1 = 3#32)
      · simp only [hw, ha, and_false, if_true, if_false, Dev.wb, Dev.wf, Dev.w, Dev.r, h, tget_tset]
        rfl
    · rw [if_neg hw, if_neg (fun h => hw h.1), Dev.r, h]
      rfl
  have hp : ∀ x y : Dev, (x.pinsSeen y).r a = x.r a := fun x y => congrArg (tget (regReset a) · a) (pinsSeen_parts x y).1
  unfold Dev.porReset
  dsimp only
  rw [hp]
  exact hx _ (by split <;> rfl)

/-- The release of the main domain where nothing holds it in reset. -/
theorem mainRelease_up (d : Dev) (k : Option ReleaseKind) (h : d.resetFree) (hg : d.pwr.pgMain = true)
    (hw : d.pwr.warmLow = false) (hm : d.pwr.mainUp = false) :
    (d.mainRelease k).pwr.mode = .boot ∧ (d.mainRelease k).pwr.mainUp = true ∧ (d.mainRelease k).tb.st = 0 ∧
    (d.mainRelease k).mem = d.mem ∧ (d.mainRelease k).sec = d.sec := by
  obtain ⟨a, b, c, e⟩ := h
  unfold Dev.mainRelease
  simp only [Dev.setPwr_frame, hm, a, b, c, e, hg, hw, Bool.not_true, Bool.or_self, Bool.false_eq_true, ↓reduceIte,
    logEvent_pwr, logEvent_parts, and_self]

/-- What the release leaves alone whether or not it happens. -/
theorem mainRelease_parts (d : Dev) (k : Option ReleaseKind) :
    (d.mainRelease k).pwr.porLow = d.pwr.porLow ∧ (d.mainRelease k).pwr.supplyLow = d.pwr.supplyLow ∧
    (d.mainRelease k).pwr.straps = d.pwr.straps ∧ (d.mainRelease k).pwr.pwrEn = d.pwr.pwrEn ∧
    (d.mainRelease k).pwr.warmLow = d.pwr.warmLow ∧ (d.mainRelease k).pwr.pgMain = d.pwr.pgMain ∧
    (d.mainRelease k).pwr.release = k.getD d.pwr.release ∧ (d.mainRelease k).mem = d.mem ∧
    (d.mainRelease k).sec = d.sec ∧ (d.mainRelease k).r PWR_RESET_CAUSE = d.r PWR_RESET_CAUSE := by
  unfold Dev.mainRelease
  dsimp only
  split
  · exact ⟨rfl, rfl, rfl, rfl, rfl, rfl, rfl, rfl, rfl, rfl⟩
  · simp only [logEvent_pwr, logEvent_parts, logEvent_resetCause]
    exact ⟨rfl, rfl, rfl, rfl, rfl, rfl, rfl, rfl, rfl, rfl⟩

/-! ### Entering a mode -/

/-- The parts of the device that neither a bell, an event nor a multi-drop bus touches. -/
def Dev.calm (d : Dev) :=
  (d.mem, d.pwr, d.tb, d.trd, d.memb, d.mac, d.mdio, d.sht, d.pins, d.scn, d.hbr, d.fbr, d.sec, d.tap)

theorem calm_of_still {d e : Dev} (h : d.still = e.still) : d.calm = e.calm := by
  simp only [Dev.still, Prod.mk.injEq] at h
  simp only [Dev.calm, Prod.mk.injEq]
  tauto

theorem ringBit_calm (d : Dev) (b : BellReg) (i : Nat) : (d.ringBit b i).calm = d.calm := calm_of_still (ringBit_still ..)

@[simp] theorem setCtl_calm (d : Dev) (n : Nat) (f : Mdb → Mdb) : (d.setCtl n f).calm = d.calm := rfl
@[simp] theorem wf_calm (d : Dev) (a hi lo v : Nat) : (d.wf a hi lo v).calm = d.calm := rfl
@[simp] theorem wb_calm (d : Dev) (a i : Nat) (v : Bool) : (d.wb a i v).calm = d.calm := rfl
@[simp] theorem w_calm (d : Dev) (a : Nat) (v : Word) : (d.w a v).calm = d.calm := rfl
@[simp] theorem incf_calm (d : Dev) (a hi lo n : Nat) : (d.incf a hi lo n).calm = d.calm := rfl
@[simp] theorem cnt_calm (d : Dev) (a : Nat) : (d.cnt a).calm = d.calm := rfl
@[simp] theorem emit_calm (d : Dev) (o : Obs) : (d.emit o).calm = d.calm := rfl
@[simp] theorem unarm_calm (d : Dev) (n b : Nat) : (d.unarm n b).calm = d.calm := rfl

theorem bufRecSet_calm (d : Dev) (n b : Nat) (l : List Word) : (d.bufRecSet n b l).calm = d.calm := by
  unfold Dev.bufRecSet
  apply each_keeps
  intros
  exact w_calm ..

theorem mdbEvent_calm (d : Dev) (n c : Nat) (st : Stamp) (w : Word) : (d.mdbEvent n c st w).calm = d.calm := by
  unfold Dev.mdbEvent
  dsimp only
  rw [calm_of_still (post_still ..), setCtl_calm]
  exact ite_keeps Dev.calm (by apply each_keeps; intros; exact setCtl_calm ..) rfl

theorem reqEnd_calm (d : Dev) (n b r : Nat) : (d.reqEnd n b r).calm = d.calm := by
  unfold Dev.reqEnd
  dsimp only
  refine ite_keeps Dev.calm ?_ ?_
  · rw [mdbEvent_calm, ringBit_calm]
    exact ite_keeps Dev.calm rfl rfl
  · rw [ringBit_calm]
    exact ite_keeps Dev.calm rfl rfl

theorem shadowUp_calm (d : Dev) (n b : Nat) : (d.shadowUp n b).calm = d.calm := by
  unfold Dev.shadowUp
  split
  · rfl
  · rw [wb_calm, incf_calm, bufRecSet_calm, setCtl_calm]

theorem txFailed_calm (d : Dev) (n b c : Nat) (x y : Bool) : (d.txFailed n b c x y).calm = d.calm := by
  unfold Dev.txFailed
  repeat' split
  all_goals simp only [shadowUp_calm, reqEnd_calm, unarm_calm]

theorem canCut_calm (d : Dev) (n : Nat) : (d.canCut n).calm = d.calm := by
  unfold Dev.canCut
  repeat' split
  all_goals simp only [txFailed_calm, setCtl_calm]

theorem endPending_calm (d : Dev) (n r : Nat) (p : Nat → Bool) : (d.endPending n r p).calm = d.calm := by
  unfold Dev.endPending
  apply each_keeps
  intro d b
  have h : ∀ x : Dev, x.calm = d.calm → (if x.b (bufStat n b) 0 = true then (x.unarm n b).reqEnd n b r else x).calm = d.calm :=
    fun x hx => ite_keeps Dev.calm (by rw [reqEnd_calm, unarm_calm, hx]) hx
  dsimp only
  refine ite_keeps Dev.calm ?_ (h _ rfl)
  rw [reqEnd_calm, shadowUp_calm]
  exact h _ rfl

theorem mdbSafe_calm (d : Dev) : d.mdbSafe.calm = d.calm := by
  unfold Dev.mdbSafe
  apply each_keeps
  intros
  exact endPending_calm ..

theorem unoffer_calm (d : Dev) (n : Nat) : (d.unoffer n).calm = d.calm := ite_keeps Dev.calm rfl rfl

theorem refStart_calm (d : Dev) (n : Nat) : (d.refStart n).calm = d.calm := by
  unfold Dev.refStart
  dsimp only
  rw [emit_calm]
  refine ite_keeps Dev.calm ?_ rfl
  rw [ringBit_calm, w_calm, setCtl_calm]

theorem canOffer_calm (d : Dev) (n : Nat) : (d.canOffer n).calm = d.calm := by
  unfold Dev.canOffer
  dsimp only
  refine ite_keeps Dev.calm (unoffer_calm ..) ?_
  split
  · exact unoffer_calm ..
  · refine ite_keeps Dev.calm ?_ ?_
    · rw [refStart_calm, setCtl_calm, unoffer_calm]
    · rw [emit_calm, setCtl_calm, unoffer_calm]

theorem trdModeStop_pwr (d : Dev) (n : Nat) : (d.trdModeStop n).pwr = d.pwr := by
  unfold Dev.trdModeStop
  repeat' split
  all_goals rfl

theorem engMode_pwr (d : Dev) (e : Nat) : (d.engMode e).pwr = d.pwr := by
  unfold Dev.engMode
  split <;> rfl

theorem roleView_pwr (d : Dev) : d.roleView.pwr = d.pwr := by
  unfold Dev.roleView
  repeat' split
  all_goals rfl

theorem pwr_of_calm {d e : Dev} (h : d.calm = e.calm) : d.pwr = e.pwr := by
  simp only [Dev.calm, Prod.mk.injEq] at h
  exact h.2.1

theorem modeTreadles_pwr (d : Dev) (m : Mode) : (d.modeTreadles m).pwr = d.pwr :=
  ite_keeps Dev.pwr (each_keeps Dev.pwr _ _ trdModeStop_pwr d) rfl

theorem modeFrames_pwr (d : Dev) (m : Mode) : (d.modeFrames m).pwr = d.pwr := ite_keeps Dev.pwr rfl rfl

theorem modeEngines_pwr (d : Dev) (m : Mode) : (d.modeEngines m).pwr = d.pwr :=
  ite_keeps Dev.pwr (each_keeps Dev.pwr _ _ engMode_pwr d) rfl

theorem modeTap_pwr (d : Dev) (m : Mode) : (d.modeTap m).pwr = d.pwr := ite_keeps Dev.pwr rfl rfl

theorem modeBuses_pwr (d : Dev) (m : Mode) : (d.modeBuses m).pwr = d.pwr := by
  unfold Dev.modeBuses
  rw [each_keeps Dev.pwr _ _ (fun d n => pwr_of_calm ((canOffer_calm _ n).trans (canCut_calm d n)))]
  exact ite_keeps Dev.pwr (pwr_of_calm (mdbSafe_calm d)) rfl

theorem modePair_pwr (d : Dev) (m : Mode) : (d.modePair m).pwr = d.pwr := ite_keeps Dev.pwr rfl rfl

/-- The mode entered is the device's mode. From Hold, the Cutter commands that waited run as well: not treated here. -/
theorem enterMode_mode (d : Dev) (m : Mode) (h : d.pwr.mode ≠ .hold ∨ m = .boot) : (d.enterMode m).pwr.mode = m := by
  have hold : ((decide (d.mode = .hold)) && (m != .boot)) = false := by
    rcases h with h | h
    · simp [Dev.mode, h]
    · simp [h]
  unfold Dev.enterMode Dev.modeCmds
  simp only [roleView_pwr, pinsSeen_parts, hold, Bool.false_eq_true, if_false, modePair_pwr, modeBuses_pwr, modeTap_pwr,
    modeEngines_pwr, modeFrames_pwr]
  show ((Dev.modeTreadles _ m).pwr).mode = m
  rw [modeTreadles_pwr, Dev.modeSet, logEvent_pwr]
  rfl

end Sys2Proof.Machine
end

