-- ==== Sys2Proof/Laws/Zelek.lean ====
section
/-!
SUPPORT. Laws of the issue of Zelek instructions: what one step leaves when the instruction executes.
-/
namespace Sys2Proof.Machine

theorem tset_tset {α : Type} (t : Tab α) (k : Nat) (a b : α) : tset (tset t k a) k b = tset t k b := by
  induction t with
  | nil => simp [tset]
  | cons c t ih =>
    obtain ⟨j, u⟩ := c
    simp only [tset]
    split
    · rename_i h
      simp only [tset, h, ↓reduceIte, ih]
    · split <;> simp [tset]

@[simp] theorem readEcc_clean (d : Dev) (k r : Nat) : d.readEcc k r .clean = d := by
  unfold Dev.readEcc
  split <;> rfl

@[simp] theorem act_setAct (d : Dev) (k : Nat) (f : Act → Act) : (d.setAct k f).act k = f (d.act k) := tget_tmod_self ..

theorem act_setAct_ne (d : Dev) (k j : Nat) (f : Act → Act) (h : j ≠ k) : (d.setAct k f).act j = d.act j :=
  tget_tmod_ne _ _ _ _ _ h

@[simp] theorem act_setEng (d : Dev) (e k : Nat) (f : Engine → Engine) : (d.setEng e f).act k = d.act k := rfl

@[simp] theorem setAct_setAct (d : Dev) (k : Nat) (f g : Act → Act) : (d.setAct k f).setAct k g = d.setAct k (fun a => g (f a)) := by
  simp only [Dev.setAct, tmod, tset_tset, tget_tset_self]

theorem setAct_setEng (d : Dev) (k e : Nat) (f : Act → Act) (g : Engine → Engine) :
    (d.setAct k f).setEng e g = (d.setEng e g).setAct k f := rfl

@[simp] theorem ctx_setCtx (d : Dev) (k : Nat) (f : Ctx → Ctx) : (d.setCtx k f).ctx k = f (d.ctx k) := by
  simp [Dev.ctx, Dev.setCtx]

@[simp] theorem ctx_begun (d : Dev) (k : Nat) : (d.begun k).ctx k = d.ctx k := by simp [Dev.begun, Dev.ctx]

/-- The engine's running context is the one that may issue. -/
theorem canIssue_cur {d : Dev} {e k : Nat} (h : d.canIssue e = some k) : (d.eng e).cur = some k := by
  unfold Dev.canIssue at h
  split at h
  · simp at h
  · split at h <;> simp_all

/-- Where no hold waits, there is none to charge. -/
theorem holdNow_none {d : Dev} {e k : Nat} (h : d.canIssue e = some k) (hn : (d.act k).heldAt = none) : d.holdNow e = d := by
  unfold Dev.holdNow
  rw [canIssue_cur h]
  simp only [hn]

@[simp] theorem queueEcc_clean (d : Dev) (e : Nat) : d.queueEcc e .clean = d := rfl

/-- The opcodes that store, whose meaning may wait for the streamer's copy of a block (R235). -/
def storeOps : List Nat := [0x15, 0x22, 0x23, 0xD0, 0xD1]

/-- An instruction that stores nothing waits for no copy. -/
theorem copyHold_plain {d b : Dev} {k : Nat} {z : ZInstr} {ops : Nat → Bool} (hno : storeOps.any ops = false)
    (ho : ops z.op = true) : d.copyHold k (b.zStoreKey k z) = (0, d) := by
  have hk : b.zStoreKey k z = none := by
    simp only [storeOps, List.any_cons, List.any_nil, Bool.or_false, Bool.or_eq_false_iff] at hno
    obtain ⟨h1, h2, h3, h4, h5⟩ := hno
    have ne : ∀ n, ops n = false → z.op ≠ n := fun n hn he => by rw [he, hn] at ho; cases ho
    unfold Dev.zStoreKey
    simp [ne _ h1, ne _ h2, ne _ h3, ne _ h4, ne _ h5]
  unfold Dev.copyHold
  rw [hk]
  rfl

/-- A row of the instruction set that executes: the meaning starts on the open activation, a store waits for the streamer's
copy, and the end of the instruction follows. -/
theorem zStep_issues {d : Dev} {e k : Nat} {z : ZInstr} {ops : Nat → Bool} {sem : ZSem} {d2 : Dev} {tg : Option Nat}
    (h : d.issues e k z) (ho : ops z.op = true) (hs : sem (d.begun k) e k z = .ok d2 tg) :
    d.zStep e noEcc ops sem = (d2.copyHold k ((d.begun k).zStoreKey k z)).2.zFinish e k z
      (d.zCost k z tg.isSome + (d2.copyHold k ((d.begun k).zStoreKey k z)).1) tg := by
  obtain ⟨h1, h2, h3, h4, h5, h6, h7, h8, h9⟩ := h
  have hb : ((d.setAct k (fun a => { a with atGo := false, open_ := true })).setCtx k (fun c => c)) = d.begun k := by
    simp [Dev.begun, Dev.setCtx]
  unfold Dev.zStep
  simp only [holdNow_none h1 h9, h1, h2, ho, if_true, noEcc, reduceCtorEq, if_false, readEcc_clean]
  have hr : (d.ctx k).poison.contains = fun _ => false := by rw [h7]; rfl
  have hc : ([] : List Nat).contains = fun _ => false := rfl
  have ha : ∀ l : List Nat, (l.any fun _ => false) = false := by intro l; induction l <;> simp_all
  unfold Dev.zRun
  simp only [h3, h4, h5, h6, hr, hc, ha, List.flatMap_nil, Option.isSome_none, Bool.false_and, Bool.false_eq_true, if_false,
    hb, hs, List.append_nil, reduceCtorEq, readEcc_clean]
  cases d.zReadKey k z <;> simp [lowestCause, Dev.zCost, Nat.add_right_comm]

/-- The same of a row that stores nothing. -/
theorem zStep_plain {d : Dev} {e k : Nat} {z : ZInstr} {ops : Nat → Bool} {sem : ZSem} {d2 : Dev} {tg : Option Nat}
    (h : d.issues e k z) (ho : ops z.op = true) (hs : sem (d.begun k) e k z = .ok d2 tg)
    (hno : storeOps.any ops = false := by decide) :
    d.zStep e noEcc ops sem = d2.zFinish e k z (d.zCost k z tg.isSome) tg := by
  rw [zStep_issues h ho hs, copyHold_plain hno ho, Nat.add_zero]

theorem age_budget (c : Ctx) : c.age.budget = c.budget := by
  have h : ∀ (l : List DelaySlot) (c : Ctx), (l.foldl (fun (c : Ctx) (s : DelaySlot) => c.setW s.dest s.value) c).budget = c.budget := by
    intro l
    induction l with
    | nil => intro c; rfl
    | cons s l ih => intro c; exact (ih _).trans rfl
  exact h _ _

theorem setAct_congr (d : Dev) (k : Nat) {f g : Act → Act} (h : f (d.act k) = g (d.act k)) : d.setAct k f = d.setAct k g := by
  have h' : f (tget Act.init d.cut.acts k) = g (tget Act.init d.cut.acts k) := h
  simp only [Dev.setAct, tmod, h']

/-- The end of an instruction without a repeat, where the meaning changed the registers to `c` alone. -/
theorem zFinish_regs {d : Dev} {e k : Nat} {z : ZInstr} {f : Ctx → Ctx} (tg : Option Nat) (hz : z.rep = none)
    (hp : (f (d.ctx k)).pc = (d.ctx k).pc) :
    ((d.begun k).setCtx k f).zFinish e k z (d.zCost k z tg.isSome) tg = d.ran e k z (f (d.ctx k)) tg := by
  have hs : ((tfind ((d.begun k).setCtx k f).cut.acts k).isNone) = false := by
    simp [Dev.begun, Dev.setCtx, Dev.setAct, tmod, tfind_tset]
  have hr : ∀ n, (((d.begun k).setCtx k f).busyAdd e n).replaying k = d.replaying k := by
    intro n
    have ha : (((d.begun k).setCtx k f).busyAdd e n).act k = ((d.begun k).setCtx k f).act k := act_setEng ..
    have hc : (((d.begun k).setCtx k f).busyAdd e n).chan k = d.chan k := rfl
    unfold Dev.replaying
    rw [ha, hc]
    simp [Dev.setCtx, Dev.begun]
  have hn : (((d.begun k).setCtx k f).ctx k).pc = (d.ctx k).pc := by rw [ctx_setCtx, ctx_begun]; exact hp
  unfold Dev.zFinish
  simp only [hn]
  rw [if_neg (by rw [show (((d.begun k).setCtx k f).busyAdd e (d.zCost k z tg.isSome)).cut.acts = ((d.begun k).setCtx k f).cut.acts from rfl, hs]; decide)]
  simp only [hr, hz, Option.isSome_none, Bool.false_eq_true, if_false]
  unfold Dev.begun Dev.setCtx Dev.busyAdd
  simp only [setAct_setAct, setAct_setEng]
  unfold Dev.ran Dev.busyAdd
  apply setAct_congr
  simp only [act_setEng]
  rw [age_budget]
  have hb : (f (d.act k).ctx).pc = (d.act k).ctx.pc := hp
  simp only [Dev.ctx, hb]

/-- The program counter is no register that a meaning writes. -/
@[simp] theorem setFlag_pc (c : Ctx) (i : Nat) (b : Bool) : (c.setFlag i b).pc = c.pc := rfl
@[simp] theorem zn_pc (c : Ctx) (n r : Nat) : (c.zn n r).pc = c.pc := rfl
@[simp] theorem cv_pc (c : Ctx) (a b : Bool) : (c.cv a b).pc = c.pc := rfl
@[simp] theorem setW_pc (c : Ctx) (i : Nat) (v : Word) : (c.setW i v).pc = c.pc := rfl
@[simp] theorem setAr_pc (c : Ctx) (i v : Nat) : (c.setAr i v).pc = c.pc := rfl
@[simp] theorem setAcc_pc (c : Ctx) (j : Nat) (v : BitVec 72) : (c.setAcc j v).pc = c.pc := by unfold Ctx.setAcc; split <;> rfl
@[simp] theorem setOpnd_pc (c : Ctx) (w : Bool) (i v : Nat) : (c.setOpnd w i v).pc = c.pc := by cases w <;> rfl
@[simp] theorem post_pc (c : Ctx) (i : Nat) (n : Int) : (c.post i n).pc = c.pc := by
  unfold Ctx.post
  dsimp only
  repeat' split
  all_goals rfl
@[simp] theorem postOperand_pc (c : Ctx) (z : ZInstr) : (c.postOperand z).pc = c.pc := by
  unfold Ctx.postOperand
  split
  · exact post_pc ..
  · rfl
@[simp] theorem load_pc (c : Ctx) (w : Bool) (i v : Nat) : (c.load w i v).pc = c.pc := rfl

/-- A row whose meaning changes the registers alone. -/
theorem zStep_pure {d : Dev} {e k : Nat} {z : ZInstr} {ops : Nat → Bool} {f : ZInstr → Ctx → Ctx} (h : d.issues e k z)
    (ho : ops z.op = true) (hp : (f z (d.ctx k)).pc = (d.ctx k).pc) (hno : storeOps.any ops = false := by decide) :
    d.zStep e noEcc ops (zPure f) = d.ran e k z (f z (d.ctx k)) none := by
  rw [zStep_plain h ho (d2 := (d.begun k).setCtx k (f z)) (tg := none) rfl hno]
  exact zFinish_regs none h.2.2.2.1 hp

theorem completes_pure {c : Instr} {s : State} {e k : Nat} {z : ZInstr} {ops : Nat → Bool} {f : ZInstr → Ctx → Ctx}
    {P : Dev → Prop} (hx : exec c s = lift (fun d => d.zStep e noEcc ops (zPure f)) s) (h : s.dev.issues e k z)
    (ho : ops z.op = true) (hp : (f z (s.dev.ctx k)).pc = (s.dev.ctx k).pc)
    (hP : P (s.dev.ran e k z (f z (s.dev.ctx k)) none)) (hno : storeOps.any ops = false := by decide) : Completes c s P :=
  ⟨_, hx, rfl, by dsimp only; rw [zStep_pure h ho hp hno]; exact hP⟩

end Sys2Proof.Machine
end

