-- ==== Sys2Proof/Tests/Slice0.lean ====
section
/-!
SUPPORT. The package's own tests: small states, an ill-formed term for each check of WellFormed.lean, instruction bytes written
out from the spec's encoding tables, single steps, and a state that meets the hypotheses of every clause of every statement.
-/
namespace Sys2Proof.Tests
set_option Elab.async false
open Sys2Proof Sys2Proof.Machine

/-! ### Small states -/

/-- The device in a mode, with the main domain up and everything else as at reset. -/
def on (m : Mode) : Dev := { Dev.reset with pwr := { Pwr.init with mode := m } }

/-- A state with nothing waiting. -/
def st (d : Dev) : State := ⟨[], d⟩

/-- The always-on domain, the time base, the Cutter, the switch, the ring and so on, each changed alone. -/
def pw (f : Pwr → Pwr) (d : Dev) : Dev := { d with pwr := f d.pwr }
def tbs (f : TimeBase → TimeBase) (d : Dev) : Dev := { d with tb := f d.tb }
def cuts (f : Cutter → Cutter) (d : Dev) : Dev := { d with cut := f d.cut }
def trds (f : TreadleBlock → TreadleBlock) (d : Dev) : Dev := { d with trd := f d.trd }
def trd1 (n : Nat) (f : Treadle → Treadle) (d : Dev) : Dev := d.setTrdl n f
def mbs (f : MemBlock → MemBlock) (d : Dev) : Dev := { d with memb := f d.memb }
def sws (f : Switch → Switch) (d : Dev) : Dev := { d with swc := f d.swc }
def rds (f : Redundancy → Redundancy) (d : Dev) : Dev := { d with red := f d.red }
def rgs (f : Ring → Ring) (d : Dev) : Dev := { d with slv := f d.slv }
def pns (f : Pins → Pins) (d : Dev) : Dev := { d with pins := f d.pins }
def scs (f : Scan → Scan) (d : Dev) : Dev := { d with scn := f d.scn }
def ses (f : Security → Security) (d : Dev) : Dev := { d with sec := f d.sec }
def hbs (f : Bridge → Bridge) (d : Dev) : Dev := { d with hbr := f d.hbr }
/-- One register word written. -/
def rw (a v : Nat) (d : Dev) : Dev := d.w a (w32 v)

/-- One CAN controller, port, gate, engine, context or shuttle changed alone. -/
def cts (n : Nat) (f : Mdb → Mdb) (d : Dev) : Dev := d.setCtl n f
def pts (p : Nat) (f : MacPort → MacPort) (d : Dev) : Dev := d.setPort p f
def gts (p : Nat) (f : GatePort → GatePort) (d : Dev) : Dev := d.setGate p f
def egs (e : Nat) (f : Engine → Engine) (d : Dev) : Dev := d.setEng e f
def acs (k : Nat) (f : Act → Act) (d : Dev) : Dev := d.setAct k f
def shs (n : Nat) (f : Shuttle → Shuttle) (d : Dev) : Dev := d.setSht n f

/-- Channel 0 in a state, its handle 0x01001000 issued, on engine 0. -/
def ch0 (x : ChanState) (d : Dev) : Dev :=
  d |> cuts fun c => { c with chans := [(0, { Chan.init with st := x })], genChan := [(0, 1)], acts := [(0, Act.init)] }

/-- Channel 0 changed alone. -/
def chf (f : Chan → Chan) (d : Dev) : Dev := d.setChan 0 f

/-- An output of channel 0 for a PIN, sealed and due. -/
def pinOut : Out :=
  { key := 0, inId := 0, id := 0, desc := 1, pair := 0, data := [], rel := 0, inSt := 0, inEv := none, isSealed := true, committed := false,
    stepped := false, muted := false }

/-- A wave-time output with a target. -/
def waveAt (t : Nat) (done : Bool) : WaveOut :=
  { chan := 0, inId := 0, eng := 0, desc := 2, target := t, committed := done, commitTick := 0 }

/-- A descriptor that can be placed on engine 0 alone: a period of 1 ms, 100 cycles, checkpoints every millisecond. -/
def desc0 : List (Nat × Word) :=
  [(0, 1), (1, 1000000), (2, 100), (3, 100000), (5, 0x00010404), (6, 0x00640000), (14, 0xF80F0000)]

/-- A pack with ID 1, and a pool for the journals. -/
def roomy (d : Dev) : Dev :=
  d |> rw (CUT_PACK 0 0) 1 |> rw (CUT_PACK 0 1) 16 |> rw XMC_POOL_SIZE 1 |> mbs fun m => { m with extMib := 64 }

/-- The arguments of a command on port 0. -/
def args (l : List Nat) (d : Dev) : Dev := (l.zipIdx).foldl (fun d p => rw (CUT_ARG 0 p.2) p.1 d) d

/-- What a placement gives. -/
def placed (x : Sum (Nat × Nat) Dev) : Dev := match x with | .inr d => d | .inl _ => Dev.reset

/-- A device that has a good descriptor at command port 0. -/
def creatable : Dev := desc0.foldl (fun d p => rw (CUT_DESC 0 p.1) p.2.toNat d) (roomy (on .run))

/-- Channel 0 with that descriptor. -/
def made (x : ChanState) : Dev := (roomy (on .run)) |> ch0 x |> chf fun c => { c with desc := desc0 }

theorem placed_eq {x : Sum (Nat × Nat) Dev} (h : x.isRight = true) : x = .inr (placed x) := by
  cases x with
  | inl _ => cases h
  | inr _ => rfl

/-- The scan unit with channel 0 as its error task, which may run. -/
def scanning (d : Dev) : Dev :=
  d |> ch0 .armed |> chf (fun c => { c with desc := [(1, 1000000), (3, 100000), (12, 0x10000), (17, 0x400001), (21, 0x400001),
      (25, 0x400001), (29, 0x400001), (33, 0x400001)] }) |>
    rw SCN_CFG 1000 |> rw SCN_ERR_TASK 0x01001000

/-- A lifecycle: words 0 to `n`-1 of the OTP written. -/
def life (n : Nat) (d : Dev) : Dev :=
  d |> ses fun s => { s with otp := ((List.range n).map fun i => (i, 0xFFFFFFFF)) ++ s.otp }

/-- An event for channel 0. -/
def ev0 : Ev :=
  { src := 0, unit := 0, chan := 0, overrun := false, breach := false, late := false, stamp := ⟨0, 0, 0⟩, seq := 0, payload := 0,
    visible := true, ring := none }

/-- Four bytes survive the way through a word. -/
theorem four_bytes (a b c d : Byte) : leBytes 4 (w32 (leVal [a, b, c, d])).toNat = [a, b, c, d] := by
  have ha := a.isLt; have hb := b.isLt; have hc := c.isLt; have hd := d.isLt
  have h : (w32 (leVal [a, b, c, d])).toNat = leVal [a, b, c, d] := by
    simp only [w32, BitVec.toNat_ofNat, leVal]; omega
  rw [h]
  simp only [leBytes, leVal, List.cons.injEq, and_true]
  refine ⟨?_, ?_, ?_, ?_⟩ <;> apply BitVec.eq_of_toNat_eq <;> simp only [BitVec.toNat_ofNat] <;> omega

/-- Bytes survive the way through the OTP's words. -/
theorem words_back (n : Nat) : ∀ l : List Byte, l.length = 4 * n → wordBytes (bytesWords n l) = l := by
  induction n with
  | zero => intro l h; simp at h; subst h; rfl
  | succ n ih =>
    intro l h
    match l, h with
    | a :: b :: c :: d :: t, h =>
      have ht : t.length = 4 * n := by simp only [List.length_cons] at h; omega
      have e : bytesWords (n + 1) (a :: b :: c :: d :: t) = w32 (leVal [a, b, c, d]) :: bytesWords n t := by
        simp only [bytesWords, List.range_succ_eq_map, List.map_cons, List.map_map]
        congr 1
      rw [e]
      show leBytes 4 (w32 (leVal [a, b, c, d])).toNat ++ wordBytes (bytesWords n t) = _
      rw [four_bytes, ih t ht]
      rfl

/-- The device whose debug password is the 96 zero bytes that SEC_BUF holds. -/
def locked : Dev :=
  on .run |> life 1 |> ses fun s =>
    { s with challenge := some [], otp := s.otp ++ (bytesWords 12 (sha384b (List.replicate 96 0))).zipIdx.map fun p => (53 + p.2, p.1) }

theorem locked_answer : sha384b (locked.buf 0 24) = locked.otpBytes 53 12 := by
  have h : locked.buf 0 24 = List.replicate 96 0 := by decide +kernel
  have l : (sha384b (List.replicate 96 0)).length = 4 * 12 := rfl
  rw [h]
  exact (words_back 12 _ l).symm.trans rfl

/-- Port `p` enabled with its link up. -/
def live (p : Nat) (d : Dev) : Dev := d |> rw (MAC_CTRL p) 0x06000007 |> rw (MAC_LINK_STAT p) 0x15

/-- A frame with a good FCS. -/
def whole (l : List Byte) : RxFrame := { bytes := l ++ fcsOf l, symErr := false, oddNibble := false, back := 0, path := .clean }

/-- A queued frame of 64 bytes. -/
def queued (c : Charge) : QEntry :=
  { f := { bytes := List.replicate 64 0, st := 0, quarter := 0, gen := 0, inPort := 1, cls := 7, cut := false, sampled := false,
           truncated := false, stomped := false, red := 0, vid := 0, pcp := 0, tagged := false, length := 64, etype := 0, inSeq := 0,
           redSeq := 0, lan := 0, tag := 0, tsReq := false, onestep := false, cmd := false, chanOut := false, enqSt := 0, stored := 64 },
    cells := 1, charge := c, yields := 0, cell := 0, pe := none }

/-- A frame on the wire. -/
def onWire : Sending :=
  { e := queued .pool, since := 0, endAt := 0, sent := [0], stomp := false, lost := false, pdelay := none, onestep := false,
    secured := false }

/-- A gate list of one entry over a cycle of 1 ms. -/
def glist (w : Bool) : GateList := { start := 0, len := 1, wave := w, treadle := 0, base := 0, cycle := 1000000 }

/-- A heartbeat and a slot frame of 152 bytes with their CRCs. -/
def beat (w0 : Nat) : List Byte :=
  let b := leBytes 4 w0 ++ List.replicate 16 0
  b ++ leBytes 4 (crc32 b).toNat
def slotBody (w0 : Nat) : List Byte := leBytes 4 w0 ++ List.replicate 144 0
def slotBytes (w0 : Nat) (x : Word) : List Byte := slotBody w0 ++ leBytes 4 x.toNat

theorem slot_crc (w0 : Nat) (x : Word) : leAt (slotBytes w0 x) 148 4 = x.toNat ∧ (slotBytes w0 x).take 148 = slotBody w0 := by
  have h : (slotBody w0).length = 148 := by simp [slotBody, leBytes]
  have hx := x.isLt
  constructor
  · unfold leAt slotBytes
    rw [← h, List.drop_left]
    simp only [leBytes, leVal, List.take_succ_cons, List.take_nil, BitVec.toNat_ofNat]
    omega
  · unfold slotBytes
    rw [← h, List.take_left]

/-- The CRC of a slot frame is good, or it is not. -/
theorem slot_good (w0 : Nat) : leAt (slotBytes w0 (crc32 (slotBody w0))) 148 4 =
    (crc32 ((slotBytes w0 (crc32 (slotBody w0))).take 148)).toNat := by
  rw [(slot_crc _ _).1, (slot_crc _ _).2]
theorem slot_bad (w0 : Nat) : leAt (slotBytes w0 (crc32 (slotBody w0) + 1)) 148 4 ≠
    (crc32 ((slotBytes w0 (crc32 (slotBody w0) + 1)).take 148)).toNat := by
  rw [(slot_crc _ _).1, (slot_crc _ _).2]
  intro h
  have := BitVec.eq_of_toNat_eq h
  bv_omega

/-- A far access of channel 0 on engine 0, an ORD atomic in a bank's buffer, an access at a bank port. -/
def farAcc (r : Region) (store : Bool) (a : Nat) : FarOp :=
  { key := 0, region := r, addr := a, size := 4, store := store, value := 5, dest := 1, signed := false, atomic := none, ord := false,
    entered := false, copy := none, st := 0, quarter := 0, arrived := none }
def ordAt (addr : Nat) : OrdEntry :=
  { eng := 0, key := 0, addr := addr, size := 4, op := .add, value := 1, dest := 1, st := 0, quarter := 0, arrival := 0, order := 0 }
def portAcc (w : Bool) (data : List Byte) (op : Option AtomicOp) : PortAccess :=
  { addr := 262140, size := 4, write := w, data := data, atomic := op, eng := none, ecc := .clean }

/-- A mailbox between the PCIe host and channel 0, generation 1; an outbound cycle under way; a posted write. -/
def box (m : Nat) (d : Dev) : Dev :=
  d |> rw (MBX_PARTY m 0) 0xFF000000 |> rw (MBX_PARTY m 1) 0x01001000 |> rw (MBX_MSTAT m) 0x80000001
def outb (w : Bool) : Outbound :=
  { write := w, ofs := 0, be := 15, data := 0, tag := 0, wseq := 0, tries := 0, since := 0, began := 0, onBus := false }
def postedAt (a : Nat) : Posted := ⟨{ port := .pcie, space := .bar0, addr := a, be := 15, data := 7, tag := 0 }, 0⟩
def fsrc : FbrSource := { route := 4095, rgen := 0, payload := [], mdb := true, st := 0, quarter := 0, gen := 0 }

/-- The frame bridge with one source frame for route 4095, which leads to a CAN controller. -/
def bridged (l : List FbrSource) : Dev :=
  { on .run |> rw FBR_CTRL 1 |> rw (FBR_ROUTE 4095 0) 0x80000000 |> rw (FBR_ROUTE 4095 2) 1 |> tbs fun t => { t with now := 250 } with fbr := l }
def bridgedX : Dev :=
  { bridged [fsrc] with fbr := [], hbr := { (bridged [fsrc]).hbr with fbrAt := (bridged [fsrc]).fbrNext } }
def layers0 : List Layer × Dev := bridgedX.routeLayers 4095 fsrc
theorem layers0_eq : bridgedX.routeLayers 4095 fsrc = (layers0.1, layers0.2) := rfl

/-- The present tick reaches the first tick of shuttle 31's divider. -/
def due (d : Dev) : Dev := d |> tbs (fun t => { t with now := 4, st := 4 }) |> shs 31 fun x => { x with divD := 65536 }

/-- Shuttle `n` runs, with instruction `w` at its program counter. -/
def weave (n w : Nat) (d : Dev) : Dev := d |> rw (SHT_PROG n 0) w |> shs n fun x => { x with state := .run }

/-- Channel 0 running on engine 0 with this code at its program counter. -/
def woven (code : List Byte) : Dev :=
  { on .run |> ch0 .running |> rw (ENG_CTRL 0) 1 |> rw (SHT_PIN_CFG 0) 2 |> rw (MBX_PARTY 0 0) 0x01001000 |>
      rw (MBX_PARTY 0 1) 0xFF000000 |> rw (MBX_MSTAT 0) 0x80000001 |>
      chf (fun c => { c with desc := [(3, 100000), (4, 0x10001000), (5, 0x00010404), (7, 1), (10, 1), (16, 0x20000000), (17, 0x400001)] }) |>
      cuts (fun c => { c with genMbx := [(0, 1)] }) |>
      egs 0 (fun x => { x with cur := some 0, stopped := false, slots := [(0, some 0)] }) |>
      acs 0 (fun a => { a with st := .running, codeLen := 0x4000, winPhys := [(0, 0x1000000)], ctx := { Ctx.init with budget := 100 } })
    with mem := mwrite [] 0 code }

/-- Its registers changed; an input that it has taken. -/
def regs (l : Tab Word) (d : Dev) : Dev := d |> acs 0 fun a => { a with ctx := { a.ctx with w := l } }
def taken (d : Dev) : Dev := d |> acs 0 fun a => { a with input := some ev0, ctx := { a.ctx with cinRel := 100000 } }

/-- The instruction that the bytes decode to. -/
def insn (code : List Byte) : ZInstr :=
  match zDecode code with
  | .ok z => z
  | _ => ⟨0, 0, false, false, .none, none, none, 0, 0, 0, 0, 0⟩

/-- The memory key of a local access. -/
def zk (x : Sum ZFault ZMem) : Nat := match x with | .inr (.local_ k) => k | _ => 0

/-- A channel of key 1 beside it, ready with an earlier deadline. -/
def second : Dev :=
  let d := woven [1] |> acs 0 fun a => { a with input := some { ev0 with stamp := ⟨1000, 0, 0⟩ }, ctx := { a.ctx with cinRel := 5000 } }
  { d with cut := { d.cut with acts := d.cut.acts ++ [(1, { Act.init with st := .ready, open_ := true, slot := 1, input := some ev0 })] } }
    |> egs 0 fun x => { x with slots := [(0, some 0), (1, some 1)] }

/-- A register of the memory block that is writable, and one that the lifecycle locks. -/
def memCtrl : RegDesc := ⟨"MEM_CTRL", 0x800000, [], 0x3, 0x0, 0x0, 0x0, 0x0, 0x0, 0x0, 0x3, 0x3, 0x0⟩
def memBell : RegDesc := ⟨"MEM_BELL", 0x800008, [], 0x0, 0x0, 0x7F, 0x0, 0x0, 0x0, 0x0, 0x0, 0x7F, 0x0⟩
def fcCfg : RegDesc := ⟨"MEM_FC_CFG", 0x800020, [], 0x0, 0x0, 0x0, 0x0, 0x0, 0x0, 0xFFFF1F, 0x630F, 0x0, 0x0⟩
def ev1 : EventIn := ⟨0, 0, 0, 0, 0, 0, 0, 0⟩

/-- A frame that sampling has copied for PE. -/
def sampledIn : QEntry := { queued .pool with f := { (queued .pool).f with sampled := true } }

/-- A port with a frame in its highest class. -/
def loaded (p : Nat) : Dev := on .run |> live p |> sws fun x => { x with q := [(8 * p + 7, [queued .pool])] }

/-- The device with two channels, once the settle times of its checkpoints have been looked at. -/
def settled : Dev := second.each ((second.slotKeys (0 : Fin 96)).filter (fun k => k < 512)) (fun d c => d.ckptSettled c)

/-! ### An ill-formed command for each check of WellFormed.lean -/

theorem test_wf_bank_row : Instr.wf (.bankAccess 0 (some { portAcc false [] none with addr := 13 }) none) = false := by decide +kernel
theorem test_wf_bank_empty : Instr.wf (.bankAccess 0 (some { portAcc false [] none with size := 0 }) none) = false := by decide +kernel
theorem test_wf_bank_data : Instr.wf (.bankAccess 0 none (some (portAcc true [1] none))) = false := by decide +kernel
theorem test_wf_bank_atomic : Instr.wf (.bankAccess 0 (some { portAcc false [1, 2, 3, 4] (some .add) with addr := 2 }) none) = false := by
  decide +kernel
theorem test_wf_cut_through : Instr.wf (.cutThroughStart 0 [0] 0) = false := by decide +kernel
theorem test_wf_heartbeat : Instr.wf (.heartbeatReceive .hbo (List.replicate 23 0)) = false := by decide +kernel
theorem test_wf_slot_frame : Instr.wf (.slotFrameReceive 0 (List.replicate 151 0) .clean) = false := by decide +kernel
theorem test_wf_can_frame : Instr.wf (.canFrameReceive 0 ⟨0x123, 3, [1, 2], 0, 0⟩) = false := by decide +kernel
theorem test_wf_tx_descriptor : Instr.wf (.txDescriptorServe 0 [0, 0, 1, 0] [] ⟨.clean, .clean⟩ ⟨.clean, .clean⟩) = false := by decide +kernel
theorem test_wf_register_write : Instr.wf (.registerWrite .pcie 2 15 0 0) = false := by decide +kernel
theorem test_wf_register_range : Instr.wf (.registerWrite .pcie 0x2000000 15 0 0) = false := by decide +kernel
theorem test_wf_local_mem : Instr.wf (.hostLocalMemWrite .pcie 0x600000 15 0) = false := by decide +kernel
theorem test_wf_local_mem_word : Instr.wf (.hostLocalMemWrite .pcie 2 15 0) = false := by decide +kernel
theorem test_wf_host_write : Instr.wf (.hostWriteAccept ⟨.lb, .bar0, 0, 15, 0, 0xFFFF⟩) = false := by decide +kernel
theorem test_wf_host_tag : Instr.wf (.hostWriteAccept ⟨.lb, .lbTarget, 0, 15, 0, 0⟩) = false := by decide +kernel
theorem test_wf_host_read : Instr.wf (.hostRead .pcie .bar2 0x4000000 15 .clean .clean) = false := by decide +kernel
theorem test_wf_locked_read : Instr.wf (.lockedRead 0x100000000 .clean .clean) = false := by decide +kernel
theorem test_wf_frame_empty : Instr.wf (.frameReceive 0 ⟨[], false, false, 0, .clean⟩) = false := by decide +kernel
theorem test_wf_wake_frame : Instr.wf (.mdbWakeFrame 0 (.classical 0 1 [1, 2])) = false := by decide +kernel
theorem test_wf_accepts : Instr.wf (.bankAccess 0 (some (portAcc true [1, 2, 3, 4] none)) none) = true := by decide +kernel

/-! ### Instruction bytes from the tables of 06_zelek_encoding.md -/

/-- add w1, w2 is 0x30 and the R byte 0x12 (R173, R175). -/
theorem test_word_add : zDecode [0x30, 0x12] =
    .ok { op := 0x30, len := 2, far := false, ord := false, size := .none, at_ := none, rep := none, rb := 0x12, b3 := 0, m := 0, disp := 0,
          imm := 0 } := by decide +kernel
/-- WIDE is 0xF2; add.i has the register in the upper nibble and 8 bits behind it. -/
theorem test_word_wide : zDecode [0xF2, 0x40, 0x40, 0xFF] =
    .ok { op := 0x40, len := 4, far := false, ord := false, size := .wide, at_ := none, rep := none, rb := 0x40, b3 := 0, m := 0, disp := 0,
          imm := 0xFF } := by decide +kernel
/-- FAR is 0xF0; M byte 0x83 is mode 2, register 3; the displacement 0xFC is -4 (R178). -/
theorem test_word_far : zDecode [0xF0, 0x20, 0x83, 0x50, 0xFC] =
    .ok { op := 0x20, len := 5, far := true, ord := false, size := .none, at_ := none, rep := none, rb := 0x50, b3 := 0, m := 0x83, disp := -4,
          imm := 0 } := by decide +kernel
/-- 0xF9 repeats by the register that its operand byte names. -/
theorem test_word_repeat : zDecode [0xF9, 0x07, 0xB0, 0x00, 0x11] =
    .ok { op := 0xB0, len := 5, far := false, ord := false, size := .none, at_ := none, rep := some ⟨false, true, 7⟩, rb := 0, b3 := 0x11,
          m := 0, disp := 0, imm := 0 } := by decide +kernel
theorem test_word_branch : zDecode [0x80, 0xFE] =
    .ok { op := 0x80, len := 2, far := false, ord := false, size := .none, at_ := none, rep := none, rb := 0, b3 := 0, m := 0, disp := -2,
          imm := 0 } := by decide +kernel
theorem test_word_prefix_reserved : zDecode [0xF6, 0x01] = .illegal 0 := by decide +kernel
theorem test_word_outside : zDecode [0x30] = .outside := by decide +kernel
/-- Opcode 11 of a shuttle is reserved; LOAD s1, 255 is not (R428). -/
theorem test_shuttle_reserved : shtIllegal 0x000B = true ∧ shtIllegal 0xFF86 = false := by decide +kernel

/-! ### Single steps -/

/-- The device that a command leaves. -/
def after (c : Instr) (d : Dev) : Dev := match exec c (st d) with | .next t => t.dev | _ => d

/-- 0xFFFFFFFF + 1 is 0 with Z and C; the budget loses the one cycle (R185, R191). -/
theorem test_add_wraps : let d := after (.add 0 noEcc) (regs [(1, 0xFFFFFFFF), (2, 1)] (woven [0x30, 0x12]))
    (d.ctx 0).wr 1 = 0 ∧ (d.ctx 0).flags = 5 ∧ (d.ctx 0).pc = 2 ∧ (d.ctx 0).budget = 99 := by decide +kernel
/-- 0x80000000 - 1 overflows without a borrow: C and V (R191). -/
theorem test_sub_overflows : let d := after (.sub 0 noEcc) (regs [(1, 0x80000000), (2, 1)] (woven [0x31, 0x12]))
    (d.ctx 0).wr 1 = 0x7FFFFFFF ∧ (d.ctx 0).flags = 0xC := by decide +kernel
/-- A shift right by 33 leaves 0 with Z alone (R192). -/
theorem test_shr_beyond : let d := after (.shr 0 noEcc) (regs [(1, 0xFFFFFFFF), (2, 33)] (woven [0x61, 0x12]))
    (d.ctx 0).wr 1 = 0 ∧ (d.ctx 0).flags = 1 := by decide +kernel
/-- Byte 0 of a word in X is the lowest (R3). -/
theorem test_st_little_endian : let d := after (.st 0 noEcc) (regs [(1, 0x11223344)] (woven [0x22, 0x00, 0x10]))
    d.mrd 0x8000 4 = [0x44, 0x33, 0x22, 0x11] := by decide +kernel
/-- DEV_ID reads 0x9600, in Boot as well. -/
theorem test_device_id : (Dev.reset.regRead .pcie DEV_ID).1 = 0x9600 := by decide +kernel
/-- The check value of CRC-32 over the digits 1 to 9, and of CRC-32C. -/
theorem test_crc : crc32 [49, 50, 51, 52, 53, 54, 55, 56, 57] = 0xCBF43926 ∧
    crc32c [49, 50, 51, 52, 53, 54, 55, 56, 57] = 0xE3069283 := by decide +kernel
/-- An unlisted byte of memory reads 0, and writing 0 lists nothing. -/
theorem test_memory_form : mwrite [] 5 [0, 7, 0] = [⟨6, 7⟩] := by decide +kernel
/-- The front command runs first; the rest of the queue stays. -/
theorem test_step_front : (match step ⟨[.perstAssert, .scanCopyDone], on .run⟩ with | .next t => t.pending | _ => []) = [.scanCopyDone] := by
  decide +kernel
/-- No word spells a command, so the queue stays as it is. -/
theorem test_fetch_word (s : State) (nbits w : Nat) : s.withFetchWord nbits w = s := rfl

/-! ### States that meet the hypotheses of the statements -/

/-- The hypotheses of each clause can be met. -/
theorem meets_ResetSourcesComplete :
    (∃ (core : Nat), ∃ (io : Nat), ∃ (ns : Nat), (core < 700 ∨ io < 1550) ∧ 1000 ≤ ns) ∧
    (∃ (core : Nat), ∃ (io : Nat), ∃ (ns : Nat), (ns < 1000 ∨ (700 ≤ core ∧ 1550 ≤ io))) ∧
    (∃ (s : State), s.dev.pwr.porLow = true ∧ s.dev.pwr.supplyLow = false) ∧
    (∃ (s : State), ∃ core, ∃ io, s.dev.pwr.supplyLow = true ∧ s.dev.pwr.porLow = false ∧ 740 < core ∧ 1620 < io) ∧
    (∃ (core : Nat), ∃ (io : Nat), (core ≤ 740 ∨ io ≤ 1620)) ∧
    (∃ (s : State), ∃ seen, s.dev.warmMay = true ∧ s.dev.pwr.warmLow = false ∧ 10 ≤ seen) ∧
    (∃ (s : State), ∃ seen, s.dev.warmMay = false ∧ s.dev.pwr.warmLow = false ∧ 10 ≤ seen) ∧
    (∃ (seen : Nat), seen < 10) ∧
    (∃ (s : State), ∃ v, s.dev.reaches PWR_RESET_CMD ∧ s.dev.warmMay = true ∧ fld v 15 8 = 0xA5 ∧ bitOf v 0 = true ∧ s.dev.resetFree ∧ s.dev.pwr.pgMain = true ∧ s.dev.pwr.warmLow = false) ∧
    (∃ (s : State), s.dev.pwr.mainUp = false ∧ s.dev.resetFree ∧ s.dev.pwr.pgMain = true ∧ s.dev.pwr.warmLow = true) ∧
    (∃ (s : State), s.dev.pwr.mainUp = true ∧ s.dev.pwr.mode ≠ .holdover ∧ s.dev.aonUp = true ∧ s.dev.pwr.pgMain = true) ∧
    (∃ (s : State), s.dev.pwr.mainUp = true ∧ s.dev.pwr.mode ≠ .holdover ∧ s.dev.pwr.trans ≠ .powerDown) ∧
    (∃ (s : State), s.dev.pwr.mainUp = false ∧ s.dev.resetFree ∧ s.dev.pwr.warmLow = false ∧ s.dev.pwr.mode ≠ .holdover ∧ s.dev.pwr.pgHeld = false) :=
  ⟨⟨699, 2000, 1000, by decide +kernel⟩,
    ⟨700, 1550, 1000, by decide +kernel⟩,
    ⟨st (on .boot |> pw fun p => { p with porLow := true }), by decide +kernel⟩,
    ⟨st (on .boot |> pw fun p => { p with supplyLow := true }), 741, 1621, by decide +kernel⟩,
    ⟨740, 2000, by decide +kernel⟩,
    ⟨st (on .run), 10, by decide +kernel⟩,
    ⟨st (on .holdover), 10, by decide +kernel⟩,
    ⟨9, by decide +kernel⟩,
    ⟨st (on .run), 0xA501, by decide +kernel⟩,
    ⟨st (on .boot |> pw fun p => { p with mainUp := false, warmLow := true }), by decide +kernel⟩,
    ⟨st (on .run |> pw fun p => { p with pgMain := true }), by decide +kernel⟩,
    ⟨st (on .run), by decide +kernel⟩,
    ⟨st (on .boot |> pw fun p => { p with mainUp := false, pgMain := false }), by decide +kernel⟩⟩

/-- The hypotheses of each clause can be met. -/
theorem meets_WakeAndSleepComplete :
    (∃ (s : State), ∃ t0, s.dev.pwr.mode = .holdover ∧ s.dev.pwr.wakeSince = some t0 ∧ t0 + 50000000 ≤ s.dev.tb.now ∧ s.dev.pwr.pgMain = false) ∧
    (∃ (s : State), ∃ t0, s.dev.pwr.mode = .holdover ∧ s.dev.pwr.retrySince = some t0 ∧ t0 + 1000000000 ≤ s.dev.tb.now) ∧
    (∃ (s : State), s.dev.aonUp = true ∧ s.dev.pwr.mode = .holdover ∧ s.dev.pwr.trans = .idle ∧ s.dev.pwr.wakeSince = none ∧ s.dev.pwr.retrySince = none) ∧
    (∃ (s : State), s.dev.pwr.wakePending = true ∧ s.dev.pwr.mode = .holdover ∧ s.dev.pwr.wakeSince = none ∧ s.dev.pwr.retrySince = none) ∧
    (∃ (s : State), ∃ (i : Fin 4), ∃ v, ∃ seen, s.dev.aonUp = true ∧ (s.dev.tb.now - s.dev.pwr.porAt) % 10000 = 0 ∧ s.dev.f (PWR_LSW_CFG i) 15 0 < seen ∧ s.dev.pwr.lsw.getLsbD i ≠ v ∧ s.dev.b PWR_WAKE_CTRL i = false) ∧
    (∃ (s : State), ∃ (i : Fin 4), ∃ seen, seen ≤ s.dev.f (PWR_LSW_CFG i) 15 0) ∧
    (∃ (s : State), ∃ (c : Fin 8), ∃ mv, ∃ seen, ∃ (v : Bool), s.dev.aonUp = true ∧ (s.dev.tb.now - s.dev.pwr.porAt) % 100 = 0 ∧ s.dev.f (PWR_CMP_CFG c) 31 16 < seen ∧ s.dev.pwr.cmp.getLsbD c ≠ v ∧ s.dev.b PWR_WAKE_CTRL (4 + c) = false ∧ (if v then 5 * (s.dev.f (PWR_CMP_CFG c) 7 0 + s.dev.f (PWR_CMP_CFG c) 11 8) < mv else mv < 5 * s.dev.f (PWR_CMP_CFG c) 7 0)) ∧
    (∃ (s : State), ∃ (c : Fin 8), ∃ seen, seen ≤ s.dev.f (PWR_CMP_CFG c) 31 16) ∧
    (∃ (s : State), ∃ src, ∃ t0, ∃ cu, ∃ sc, ∃ se, ∃ hb, s.dev.pwr.trans = .agreeing src t0 cu sc se hb ∧ t0 + 1000 * s.dev.f PWR_SLEEP_CFG 15 0 ≤ s.dev.tb.now) ∧
    (∃ (s : State), ∃ src, ∃ t0, ∃ cu, ∃ se, ∃ hb, s.dev.pwr.trans = .agreeing src t0 cu false se hb ∧ s.dev.pwr.sleepFlushed = true) ∧
    (∃ (s : State), s.dev.pwr.trans = .powerDown ∧ s.dev.pwr.pgMain = false ∧ s.dev.pwr.mode ≠ .hold) ∧
    (∃ (s : State), ∃ b, s.dev.pwr.flushing = some b) ∧
    (∃ (s : State), ∃ mv, ∃ seen, s.dev.aonUp = true ∧ s.dev.pwr.pfw = false ∧ s.dev.pwr.mode = .run ∧ s.dev.pwr.trans = .idle ∧ s.dev.scn.state = .stop ∧ s.dev.scn.started = false ∧ s.dev.scn.phase = .idle ∧ s.dev.b PWR_FLUSH_CFG 0 = true ∧ s.dev.pwr.flushing = none ∧ mv < 5 * s.dev.f PWR_PFW_CFG 7 0 ∧ s.dev.f PWR_PFW_CFG 31 24 < seen) ∧
    (∃ (s : State), ∃ mv, ∃ seen, (5 * s.dev.f PWR_PFW_CFG 7 0 ≤ mv ∨ seen ≤ s.dev.f PWR_PFW_CFG 31 24)) ∧
    (∃ (s : State), ∃ mv, ∃ ms, s.dev.aonUp = true ∧ s.dev.pwr.pfw = true ∧ s.dev.warmMay = true ∧ 5 * (s.dev.f PWR_PFW_CFG 7 0 + s.dev.f PWR_PFW_CFG 11 8) < mv ∧ s.dev.f PWR_PFW_CFG 23 12 ≤ ms) ∧
    (∃ (s : State), ∃ mv, ∃ ms, (mv ≤ 5 * (s.dev.f PWR_PFW_CFG 7 0 + s.dev.f PWR_PFW_CFG 11 8) ∨ ms < s.dev.f PWR_PFW_CFG 23 12)) :=
  ⟨⟨st (on .holdover |> pw (fun p => { p with wakeSince := some 0, pgMain := false, mainUp := false }) |> tbs fun t => { t with now := 50000000 }), 0, by decide +kernel⟩,
    ⟨st (on .holdover |> pw (fun p => { p with retrySince := some 7 }) |> tbs fun t => { t with now := 1000000007 }), 7, by decide +kernel⟩,
    ⟨st (on .holdover), by decide +kernel⟩,
    ⟨st (on .holdover |> pw fun p => { p with wakePending := true }), by decide +kernel⟩,
    ⟨st (on .holdover), 3, true, 0x10000, by decide +kernel⟩,
    ⟨st (on .holdover), 3, 0, by decide +kernel⟩,
    ⟨st (on .holdover |> rw (PWR_CMP_CFG 7) 100), 7, 501, 1, true, by decide +kernel⟩,
    ⟨st (on .holdover), 7, 0, by decide +kernel⟩,
    ⟨st (on .stop |> pw (fun p => { p with trans := .agreeing .holdover 0 false false false false }) |> tbs fun t => { t with now := 10000000000 }), .holdover, 0, false, false, false, false, by decide +kernel⟩,
    ⟨st (on .stop |> pw fun p => { p with trans := .agreeing .holdover 0 false false false false, sleepFlushed := true }), .holdover, 0, false, false, false, by decide +kernel⟩,
    ⟨st (on .stop |> pw fun p => { p with trans := .powerDown, pgMain := false }), by decide +kernel⟩,
    ⟨st (on .run |> pw fun p => { p with flushing := some true }), true, by decide +kernel⟩,
    ⟨st (on .run |> rw PWR_FLUSH_CFG 1 |> rw PWR_PFW_CFG 100), 499, 1, by decide +kernel⟩,
    ⟨st (on .run |> rw PWR_PFW_CFG 100), 500, 0, by decide +kernel⟩,
    ⟨st (on .run |> rw PWR_PFW_CFG 100 |> pw fun p => { p with pfw := true }), 501, 0, by decide +kernel⟩,
    ⟨st (on .run |> rw PWR_PFW_CFG 100), 500, 0, by decide +kernel⟩⟩

/-- The hypotheses of each clause can be met. -/
theorem meets_TimeBaseReadsComplete :
    (∃ (s : State), s.dev.tb.wrapDue = true) ∧
    (∃ (s : State), s.dev.reaches TB_ST) ∧
    (∃ (s : State), s.dev.reaches TB_TAI_NS) ∧
    (∃ (s : State), s.dev.reaches TB_ANCHOR_ST) ∧
    (∃ (s : State), ∃ who, ∃ (p : Fin 20), s.dev.reaches (TB_TSQ_ENTRY p 3) ∧ s.dev.tsqOwner who p = true) ∧
    (∃ (s : State), s.dev.pwr.mainUp = true ∧ s.dev.f TB_PPS_IN_CFG 1 0 = 3 ∧ s.dev.b TB_SRV_CFG 0 = false ∧ s.dev.tb.ppsUnread = false) ∧
    (∃ (s : State), ∃ v, s.dev.reaches TB_CLK_CFG ∧ s.dev.modeIn [.boot, .provision, .stop] = true ∧ bitOf v 0 ≠ s.dev.b TB_CLK_CFG 0) ∧
    (∃ (s : State), s.dev.tb.secondDue = true ∧ s.dev.b TB_STAT 0 = true ∧ s.dev.b TB_PPS_OUT_CFG 0 = false) :=
  ⟨⟨st (on .run |> tbs fun t => { t with wrapDue := true }), by decide +kernel⟩,
    ⟨st (on .run), by decide +kernel⟩,
    ⟨st (on .run), by decide +kernel⟩,
    ⟨st (on .run), by decide +kernel⟩,
    ⟨st (on .run), .pcie, 19, by decide +kernel⟩,
    ⟨st (on .run |> rw TB_PPS_IN_CFG 3), by decide +kernel⟩,
    ⟨st (on .boot |> rw PWR_MODE 0 |> fun d => { d with pwr := { d.pwr with mode := .stop } }), 1, by decide +kernel⟩,
    ⟨st (on .run |> rw TB_STAT 1 |> tbs fun t => { t with secondDue := true }), by decide +kernel⟩⟩

/-- The hypotheses of each clause can be met. -/
theorem meets_ServoComplete :
    (∃ (s : State), ∃ v, s.dev.reaches TB_SRV_CMD ∧ bitOf v 0 = true ∧ s.dev.b TB_CTRL 2 = true ∧ s.dev.b TB_SRV_CFG 0 = false ∧ s.dev.logBad = false ∧ s.dev.jump = 0) ∧
    (∃ (s : State), ∃ v, s.dev.reaches TB_SRV_CMD ∧ bitOf v 0 = true ∧ (s.dev.b TB_CTRL 2 = false ∨ s.dev.b TB_SRV_CFG 0 = true ∨ s.dev.logBad = true)) ∧
    (∃ (s : State), ∃ v, s.dev.reaches TB_SRV_CMD ∧ bitOf v 0 = true) ∧
    (∃ (s : State), ∃ v, s.dev.reaches TB_SRV_CMD ∧ bitOf v 0 = true ∧ s.dev.b TB_CTRL 2 = true ∧ s.dev.b TB_SRV_CFG 0 = false ∧ s.dev.logBad = false ∧ s.dev.jump = 2 ∧ s.dev.stagedTheta.natAbs ≤ (s.dev.r TB_JUMP_LIMIT).toNat * 65536) ∧
    (∃ (s : State), ∃ v, s.dev.reaches TB_JUMP_CMD ∧ bitOf v 0 = true ∧ s.dev.jump = 2) ∧
    (∃ (s : State), ∃ v, s.dev.reaches TB_TAI_SET_CMD ∧ bitOf v 0 = true ∧ (s.dev.r TB_TAI_SET_NS).toNat ≤ 999999999 ∧ s.dev.b TB_STAT 0 = false) ∧
    (∃ (s : State), s.dev.jump = 1 ∧ s.dev.tb.lossBase + s.dev.lossTime ≤ s.dev.tb.now ∧ s.dev.pwr.mainUp = true) :=
  ⟨⟨st (on .run |> rw TB_CTRL 4), 1, by decide +kernel⟩,
    ⟨st (on .run |> rw TB_SRV_CFG 1), 1, by decide +kernel⟩,
    ⟨st (on .run), 1, by decide +kernel⟩,
    ⟨st (on .run |> rw TB_CTRL 4 |> rw TB_JUMP_STAT 2), 1, by decide +kernel⟩,
    ⟨st (on .run |> rw TB_JUMP_STAT 2), 1, by decide +kernel⟩,
    ⟨st (on .run |> rw TB_TAI_SET_NS 999999999), 1, by decide +kernel⟩,
    ⟨st (on .run |> rw TB_JUMP_STAT 1 |> tbs fun t => { t with now := 2000000000000 }), by decide +kernel⟩⟩

/-- The hypotheses of each clause can be met. -/
theorem meets_TreadleMotionComplete :
    (∃ (s : State), ∃ (n : Fin 16), ((s.dev.trdl n).carry = 0 - 1 ∨ (s.dev.trdl n).carry = 1) ∧ s.dev.b (TRD_STEP_CFG n) 12 = false ∧ (s.dev.trdl n).dirUp = decide (0 < (s.dev.trdl n).carry) ∧ (s.dev.trdl n).ramp = .none ∧ (s.dev.trdl n).leader = none ∧ s.dev.trdMode n = 1) ∧
    (∃ (s : State), ∃ (n : Fin 16), 0 < (s.dev.trdl n).stepWait ∧ (s.dev.trdl n).stepFree ≤ s.dev.tb.now) ∧
    (∃ (s : State), ∃ (n : Fin 16), s.dev.strobeAhead n = 1 ∧ s.dev.f (TRD_STRB_CFG n) 20 16 = 0) ∧
    (∃ (s : State), ∃ (n : Fin 16), s.dev.reaches (TRD_INC_HI n) ∧ (s.dev.trdMode n = 0 ∨ s.dev.trdMode n = 1)) ∧
    (∃ (s : State), ∃ (n : Fin 16), s.dev.reaches (TRD_INC_LO n)) ∧
    (∃ (s : State), ∃ (n : Fin 16), s.dev.reaches (TRD_ACC_LO n)) ∧
    (∃ (s : State), ∃ (n : Fin 16), ∃ v, s.dev.reaches (TRD_CFG n) ∧ fld v 2 0 ≠ 7 ∧ s.dev.trdMode n ≠ fld v 2 0 ∧ ((fld v 2 0 = 2 ∨ fld v 2 0 = 3) → s.dev.lockOk n = true)) ∧
    (∃ (s : State), ∃ (n : Fin 16), ∃ (back : Fin 16), s.dev.trdMode n = 2 ∧ s.dev.f (TRD_LOCK_CFG n) 2 0 = 4 ∧ s.dev.lockState n = 2 ∧ (sx 32 (tc 32 (s.dev.totalBack n (s.dev.edgeBack false back) 16) + 2 ^ 32 - (s.dev.phaseOfs n).toNat)).natAbs ≤ (s.dev.r (TRD_LOCK_ACCEPT n)).toNat) ∧
    (∃ (s : State), ∃ (n : Fin 16), ∃ (a : Word), s.dev.reaches (TRD_PHASE_ADJ n) ∧ (s.dev.trdMode n = 1 ∨ s.dev.trdMode n = 3) ∧ (sx 32 a.toNat).natAbs ≤ 2 ^ 28) ∧
    (∃ (s : State), ∃ (n : Fin 16), ∃ (a : Word), s.dev.reaches (TRD_PHASE_ADJ n) ∧ (s.dev.trdMode n = 1 ∨ s.dev.trdMode n = 3) ∧ 2 ^ 28 < (sx 32 a.toNat).natAbs) ∧
    (∃ (d : Dev), ∃ n, (d.trdl n).adjPend ≠ 0) :=
  ⟨⟨st (on .run |> rw (TRD_CFG 15) 1 |> trd1 15 fun t => { t with carry := 1 }), 15, by decide +kernel⟩,
    ⟨st (on .run |> trd1 0 fun t => { t with stepWait := 1 }), 0, by decide +kernel⟩,
    ⟨st (on .run |> rw (TRD_CFG 0) 1 |> rw (TRD_STRB_CFG 0) 1 |> trd1 0 fun t => { t with inc := 1 }), 0, by decide +kernel⟩,
    ⟨st (on .run |> rw (TRD_CFG 15) 1), 15, by decide +kernel⟩,
    ⟨st (on .run), 15, by decide +kernel⟩,
    ⟨st (on .run), 15, by decide +kernel⟩,
    ⟨st (on .run), 15, 1, by decide +kernel⟩,
    ⟨st (on .run |> rw (TRD_CFG 0) 2 |> rw (TRD_LOCK_CFG 0) 4 |> rw (TRD_LOCK_STAT 0) 2), 0, 0, by decide +kernel⟩,
    ⟨st (on .run |> rw (TRD_CFG 15) 1), 15, 0x10000000, by decide +kernel⟩,
    ⟨st (on .run |> rw (TRD_CFG 15) 1), 15, 0x10000001, by decide +kernel⟩,
    ⟨on .run |> trd1 3 (fun t => { t with adjPend := 5 }), 3, by decide +kernel⟩⟩

/-- The hypotheses of each clause can be met. -/
theorem meets_TreadleProgramsComplete :
    (∃ (s : State), ∃ (n : Fin 16), s.dev.rampDue n = true ∧ (s.dev.trdl n).ramp = .stopping ∧ s.dev.r (TRD_RAMP_ACCEL n) ≠ 0 ∧ toward (s.dev.trdl n).inc 0 (s.dev.r (TRD_RAMP_ACCEL n)).toNat ≠ 0) ∧
    (∃ (s : State), ∃ (n : Fin 16), s.dev.reaches (TRD_RAMP_CMD n) ∧ s.dev.trdMode n = 4 ∧ s.dev.r (TRD_RAMP_ACCEL n) ≠ 0) ∧
    (∃ (s : State), ∃ (n : Fin 16), s.dev.reaches (TRD_RAMP_CMD n) ∧ s.dev.trdMode n = 4 ∧ s.dev.r (TRD_RAMP_ACCEL n) ≠ 0 ∧ (s.dev.trdl n).inc ≠ 0) ∧
    (∃ (s : State), ∃ (g : Fin 4), ∃ v, s.dev.reaches (TRD_GRP_CFG g) ∧ bitOf v 16 = true ∧ (s.dev.wf (TRD_GRP_CFG g) 15 0 (fld v 15 0)).groupBad g = false) ∧
    (∃ (s : State), ∃ (t : Fin 8), s.dev.patRuns t 0 = true ∧ s.dev.patAhead t = 1) ∧
    (∃ (s : State), ∃ (t : Fin 8), ∃ n, n = s.dev.f (TRD_PAT_CFG t) 5 2 ∧ s.dev.patRuns t 1 = true ∧ s.dev.trdMode n = 6 ∧ s.dev.b TRD_PAT_GRP n = true ∧ s.dev.modeIn [.stop, .safe] = false ∧ (s.dev.camPos t - s.dev.pos n).natAbs ≤ s.dev.f (TRD_PAT_CFG t) 31 16 ∧ s.dev.pos n < s.dev.camPos t ∧ s.dev.b (TRD_STEP_CFG n) 12 = false ∧ (s.dev.trdl n).dirUp = true) ∧
    (∃ (s : State), ∃ (l : Fin 8), s.dev.reaches (TRD_LATCH_CFG l)) ∧
    (∃ (s : State), ∃ (l : Fin 8), s.dev.f (TRD_LATCH_CFG l) 6 0 < 64 ∧ s.dev.f (TRD_LATCH_CFG l) 8 7 = 3 ∧ s.dev.b (TRD_LATCH_CFG l) 14 = true) ∧
    (∃ (s : State), ∃ (l : Fin 8), s.dev.reaches (TRD_LATCH l 3)) ∧
    (∃ (s : State), ∃ v, s.dev.reaches TRD_START ∧ fld v 15 0 ≠ 0 ∧ bitOf v 17 = false) ∧
    (∃ (s : State), ∃ v, s.dev.reaches TRD_START ∧ fld v 15 0 ≠ 0 ∧ bitOf v 17 = true) ∧
    (∃ (s : State), ∃ who, ∃ v, s.dev.trd.startDue = [] ∧ s.dev.trd.startAt = some (who, v) ∧ reached s.dev.tb.st (s.dev.r TRD_START_AT) = true) ∧
    (∃ (s : State), ∃ who, ∃ v, ∃ a, ∃ l, s.dev.trd.startDue = (who, v, a) :: l ∧ reached s.dev.tb.st a = true) :=
  ⟨⟨st (on .run |> rw (TRD_RAMP_ACCEL 0) 1 |> trd1 0 (fun t => { t with ramp := .stopping, inc := 5 }) |> tbs fun t => { t with now := 4000000 }), 0, by decide +kernel⟩,
    ⟨st (on .run |> rw (TRD_CFG 15) 4 |> rw (TRD_RAMP_ACCEL 15) 1), 15, by decide +kernel⟩,
    ⟨st (on .run |> rw (TRD_CFG 0) 4 |> rw (TRD_RAMP_ACCEL 0) 1 |> trd1 0 fun t => { t with inc := -1 }), 0, by decide +kernel⟩,
    ⟨st (on .run |> rw (TRD_CFG 0) 5 |> rw (TRD_CFG 15) 5 |> rw (TRD_RAMP_TARGET 0) 10 |> rw (TRD_RAMP_TARGET 15) 3), 3, 0x18001, by decide +kernel⟩,
    ⟨st (on .run |> rw TRD_PAT_GRP 0x100000 |> rw (TRD_PAT_CFG 7) 1), 7, by decide +kernel⟩,
    ⟨st (on .run |> rw TRD_PAT_GRP 0x100001 |> rw (TRD_PAT_CFG 0) 0x00640003 |> rw (TRD_CFG 0) 6 |> rw (TRD_PAT_TAB 0 0) 50 |> rw (TRD_PAT_TAB 0 1) 50), 0, 0, by decide +kernel⟩,
    ⟨st (on .run), 7, by decide +kernel⟩,
    ⟨st (on .run |> rw (TRD_LATCH_CFG 7) 0x4180), 7, by decide +kernel⟩,
    ⟨st (on .run), 7, by decide +kernel⟩,
    ⟨st (on .run), 0x8000, by decide +kernel⟩,
    ⟨st (on .run), 0x20001, by decide +kernel⟩,
    ⟨st (on .run |> trds fun t => { t with startAt := some (.pcie, 0x20001) }), .pcie, 0x20001, by decide +kernel⟩,
    ⟨st (on .run |> trds fun t => { t with startDue := [(.pcie, 0x20001, 0)] }), .pcie, 0x20001, 0, [], by decide +kernel⟩⟩

/-- The hypotheses of each clause can be met. -/
theorem meets_ModeChangesComplete :
    (∃ (s : State), ∃ who, ∃ v, ∃ withHost, s.dev.reaches PWR_MODE_REQ ∧ s.dev.pwr.trans = .idle ∧ (withHost = true → isHost who = true) ∧ fld v 15 8 = 0xA5 ∧ s.dev.reqCond (fld v 2 0) = some true ∧ fld v 2 0 ≠ 0 ∧ ¬ (s.dev.mode = .run ∧ fld v 2 0 = 3)) ∧
    (∃ (s : State), s.dev.pwr.trans = .draining ∧ s.dev.chansBusy = false ∧ s.dev.mode = .run) ∧
    (∃ (s : State), s.dev.mode = .boot ∧ s.dev.pwr.mainUp = true) :=
  ⟨⟨st (on .stop), .pcie, 0xA504, false, by decide +kernel⟩,
    ⟨st (on .run |> pw fun p => { p with trans := .draining }), by decide +kernel⟩,
    ⟨st (on .boot), by decide +kernel⟩⟩

/-- The hypotheses of each clause can be met. -/
theorem meets_OutputsComplete :
    (∃ (s : State), ∃ (e : Fin 96), ∃ o, s.dev.mode = .run ∧ s.dev.firstOut (s.dev.eng e).outq = some o) ∧
    (∃ (s : State), ∃ (e : Fin 96), ∃ o, ∃ (c : Ecc), s.dev.mode = .run ∧ s.dev.firstOut (s.dev.eng e).outq = some o ∧ c ≠ .uncorr) ∧
    (∃ (s : State), ∃ (e : Fin 96), ∃ o, s.dev.mode = .run ∧ s.dev.firstOut (s.dev.eng e).outq = some o) ∧
    (∃ (s : State), ∃ (e : Fin 96), ∃ (i : Nat), ∃ (o : Out), (s.dev.eng e).outq[i]? = some o ∧ fld o.desc 3 0 = 1 ∧ o.committed = false ∧ o.muted = false ∧ o.isSealed = true ∧ o.stepped = false ∧ s.dev.mode = .run ∧ reached s.dev.tb.st (o.rel - 64) = true ∧ s.dev.red.demoted = false ∧ (bitOf o.desc 12 = true → s.dev.gateOpen = true)) ∧
    (∃ (s : State), ∃ (n : Fin 16), ∃ (i : Nat), ∃ (o : WaveOut), (s.dev.trdl n).wave[i]? = some o ∧ o.committed = false ∧ s.dev.waveNear n o.target = true ∧ s.dev.mode = .run ∧ s.dev.red.demoted = false ∧ (bitOf o.desc 12 = true → s.dev.gateOpen = true)) ∧
    (∃ (s : State), ∃ (t : Fin 8), s.dev.patRuns t 0 = true ∧ s.dev.mode = .run ∧ s.dev.patCommits t = [] ∧ (tget none s.dev.trd.patPos t = none ∨ tget none s.dev.trd.patPos t = some (s.dev.patNow / 1024, s.dev.patNow % 1024)) ∧ ((s.dev.patNow + 1) * 2 ^ 38 : Nat) - (s.dev.total s.dev.patMaster : Int) ≤ 16 * s.dev.rate s.dev.patMaster) ∧
    (∃ (s : State), ∃ who, ∃ v, s.dev.trd.startAt = some (who, v) ∧ reached s.dev.tb.st (s.dev.r TRD_START_AT - 64) = true) ∧
    (∃ (s : State), ∃ (n : Fin 16), ∃ (i : Nat), ∃ (o : WaveOut), (s.dev.trdl n).wave[i]? = some o ∧ o.committed = true ∧ s.dev.waveReached n o.target = true) ∧
    (∃ (s : State), ∃ (n : Fin 16), ∃ (i : Nat), ∃ (o : WaveOut), (s.dev.trdl n).wave[i]? = some o ∧ o.committed = true ∧ o.commitTick + 32 ≤ s.dev.tb.now / 4 ∧ s.dev.waveReached n o.target = false) ∧
    (∃ (s : State), ∃ (t : Fin 8), ∃ c, ∃ l, s.dev.patCommits t = c :: l ∧ c.commitTick + 32 ≤ s.dev.tb.now / 4) :=
  ⟨⟨st (on .run |> (·.setEng 95 fun e => { e with outq := [pinOut] })), 95, pinOut, by decide +kernel⟩,
    ⟨st (on .run |> egs 95 fun x => { x with outq := [pinOut] }), 95, pinOut, .clean, by decide +kernel⟩,
    ⟨st (on .run |> egs 95 fun x => { x with outq := [pinOut] }), 95, pinOut, by decide +kernel⟩,
    ⟨st (on .run |> (·.setEng 95 fun e => { e with outq := [pinOut] })), 95, 0, pinOut, by decide +kernel⟩,
    ⟨st (on .run |> trd1 15 fun t => { t with inc := 1, wave := [waveAt 0 false] }), 15, 0, waveAt 0 false, by decide +kernel⟩,
    ⟨st (on .run |> rw TRD_PAT_GRP 0x100000 |> rw (TRD_PAT_CFG 7) 1 |> rw (TRD_CFG 0) 1 |> trd1 0 fun t => { t with inc := 2 ^ 38 }), 7, by decide +kernel⟩,
    ⟨st (on .run |> trds fun t => { t with startAt := some (.pcie, 0x20001) }), .pcie, 0x20001, by decide +kernel⟩,
    ⟨st (on .run |> trd1 15 fun t => { t with wave := [waveAt 0 true] }), 15, 0, waveAt 0 true, by decide +kernel⟩,
    ⟨st (on .run |> trd1 0 (fun t => { t with wave := [waveAt 1 true] }) |> tbs fun t => { t with now := 128 }), 0, 0, waveAt 1 true, by decide +kernel⟩,
    ⟨st (on .run |> tbs (fun t => { t with now := 128 }) |> trds fun t => { t with patCommit := [(7, [⟨5, 0, true, false, 0⟩])] }), 7, ⟨5, 0, true, false, 0⟩, [], by decide +kernel⟩⟩

/-- The hypotheses of each clause can be met. -/
theorem meets_ChannelCommandsComplete :
    (∃ (s : State), ∃ (k : Fin 4), ∃ c, ∃ x, s.dev.portReady k 1 ∧ s.dev.freeChan = some c ∧ (s.dev.draft k c).descCheck c = none ∧ (s.dev.drafted k c).placeCreate c = .inr x) ∧
    (∃ (s : State), ∃ (k : Fin 4), ∃ c, s.dev.portReady k 2 ∧ s.dev.named k .created ∧ c = hIdx (s.dev.arg k 0)) ∧
    (∃ (s : State), ∃ (k : Fin 4), ∃ c, s.dev.portReady k 2 ∧ s.dev.named k .faulted ∧ c = hIdx (s.dev.arg k 0) ∧ (tfind s.dev.cut.acts c).isSome = true) ∧
    (∃ (s : State), ∃ (k : Fin 4), ∃ c, s.dev.portReady k 3 ∧ s.dev.named k .running ∧ (s.dev.chan c).mig = none ∧ c = hIdx (s.dev.arg k 0)) ∧
    (∃ (s : State), ∃ (k : Fin 4), ∃ c, s.dev.portReady k 3 ∧ s.dev.named k .armed ∧ c = hIdx (s.dev.arg k 0)) ∧
    (∃ (s : State), ∃ (k : Fin 4), ∃ c, ∃ st, s.dev.portReady k 4 ∧ s.dev.named k st ∧ (st = .created ∨ st = .faulted ∨ st = .recovering) ∧ c = hIdx (s.dev.arg k 0)) ∧
    (∃ (s : State), ∃ (k : Fin 4), ∃ c, s.dev.portReady k 5 ∧ s.dev.checkHandle 1 (s.dev.arg k 0) = .ok ∧ c = hIdx (s.dev.arg k 0)) ∧
    (∃ (s : State), ∃ (k : Fin 4), ∃ c, ∃ x, s.dev.portReady k 6 ∧ s.dev.named k .running ∧ c = hIdx (s.dev.arg k 0) ∧ s.dev.isHeld c = false ∧ (s.dev.chan c).remote = false ∧ (s.dev.taken k).placeOn (512 + c) ((s.dev.taken k).migrateList c (s.dev.arg k 1)) = .inr x ∧ (x.chan c).st = .running) ∧
    (∃ (s : State), ∃ (k : Fin 4), ∃ c, s.dev.portReady k 7 ∧ s.dev.named k .running ∧ c = hIdx (s.dev.arg k 0) ∧ (s.dev.chan c).remote = false) ∧
    (∃ (s : State), ∃ (k : Fin 4), ∃ c, s.dev.portReady k 7 ∧ s.dev.named k .created ∧ c = hIdx (s.dev.arg k 0) ∧ (s.dev.chan c).remote = false) :=
  ⟨⟨st creatable, 0, 0, placed ((creatable.drafted 0 0).placeCreate 0), ⟨by decide +kernel, by decide +kernel, by decide +kernel, placed_eq (by decide +kernel)⟩⟩,
    ⟨st (made .created |> args [0x01001000]), 0, 0, by decide +kernel⟩,
    ⟨st (made .faulted |> args [0x01001000]), 0, 0, by decide +kernel⟩,
    ⟨st (made .running |> args [0x01001000]), 0, 0, by decide +kernel⟩,
    ⟨st (made .armed |> args [0x01001000]), 0, 0, by decide +kernel⟩,
    ⟨st (made .faulted |> args [0x01001000]), 0, 0, .faulted, by decide +kernel⟩,
    ⟨st (made .armed |> args [0x01001000]), 0, 0, by decide +kernel⟩,
    ⟨st (made .running |> args [0x01001000, 1]), 0, 0, placed (((made .running |> args [0x01001000, 1]).taken 0).placeOn (512 + 0) (((made .running |> args [0x01001000, 1]).taken 0).migrateList 0 1)), ⟨by decide +kernel, by decide +kernel, by decide +kernel, by decide +kernel, by decide +kernel, placed_eq (by decide +kernel), by decide +kernel⟩⟩,
    ⟨st (made .running |> args [0x01001000]), 0, 0, by decide +kernel⟩,
    ⟨st (made .created |> args [0x01001000]), 0, 0, by decide +kernel⟩⟩

/-- The hypotheses of each clause can be met. -/
theorem meets_HandleCommandsComplete :
    (∃ (s : State), ∃ (k : Fin 4), ∃ m, ∃ g, s.dev.portReady k 8 ∧ s.dev.arg k 0 = 2 ∧ s.dev.partyBad (s.dev.arg k 1) = none ∧ s.dev.partyBad (s.dev.arg k 2) = none ∧ s.dev.arg k 1 ≠ s.dev.arg k 2 ∧ (isHostParty (s.dev.arg k 1) && isHostParty (s.dev.arg k 2)) = false ∧ s.dev.arg k 3 &&& 0xFFFFE0E0 = 0 ∧ (List.range 256).find? (fun m => !(s.dev.b (MBX_MSTAT m) 31)) = some m ∧ g = s.dev.issueGen 2 m) ∧
    (∃ (s : State), ∃ (k : Fin 4), ∃ i, ∃ g, s.dev.portReady k 8 ∧ s.dev.arg k 0 = 3 ∧ (∀ j, j < 8 → s.dev.r (FBR_STAGE j) &&& routeReserved j = 0) ∧ (∀ key, routeKey (s.dev.r (FBR_STAGE 0)) (s.dev.r (FBR_STAGE 1)) = some key → s.dev.routeOf key = none) ∧ fld (s.dev.r (FBR_STAGE 4)) 13 0 + fld (s.dev.r (FBR_STAGE 4)) 23 16 ≤ 16384 ∧ (List.range 4096).find? (fun i => !(s.dev.b (FBR_ROUTE i 0) 31)) = some i ∧ g = s.dev.issueGen 3 i) ∧
    (∃ (s : State), ∃ (k : Fin 4), ∃ t, ∃ g, s.dev.portReady k 8 ∧ s.dev.arg k 0 = 4 ∧ s.dev.checkHandle 1 (s.dev.arg k 2) = .ok ∧ t = (s.dev.arg k 1).toNat ∧ t < 8 ∧ s.dev.holds 4 t = false ∧ g = s.dev.issueGen 4 t) ∧
    (∃ (s : State), ∃ (k : Fin 4), ∃ i, ∃ g, ∃ x, s.dev.portReady k 8 ∧ s.dev.arg k 0 = 5 ∧ (List.range 256).find? (fun i => !(s.dev.holds 5 i)) = some i ∧ fld (s.dev.arg k 1) 4 0 < 22 ∧ g = s.dev.issueGen 5 i ∧ x = { (s.dev.taken k).setGen 5 i g with cut := { ((s.dev.taken k).setGen 5 i g).cut with reserv := tset s.dev.cut.reserv i (some (fld (s.dev.arg k 1) 4 0, fld (s.dev.arg k 1) 10 8, (s.dev.arg k 2).toNat, fld (s.dev.arg k 3) 15 0)) } } ∧ (fld (s.dev.arg k 1) 4 0 < 20 → x.portOk (fld (s.dev.arg k 1) 4 0) (fld (s.dev.arg k 1) 10 8) = true)) ∧
    (∃ (s : State), ∃ (k : Fin 4), ∃ kind, ∃ i, s.dev.portReady k 9 ∧ kind = hKind (s.dev.arg k 0) ∧ 2 ≤ kind ∧ kind ≤ 5 ∧ i = hIdx (s.dev.arg k 0) ∧ s.dev.checkHandle kind (s.dev.arg k 0) = .ok) ∧
    (∃ (s : State), ∃ (k : Fin 4), ∃ kind, s.dev.portReady k 9 ∧ kind = hKind (s.dev.arg k 0) ∧ 2 ≤ kind ∧ kind ≤ 5 ∧ s.dev.checkHandle kind (s.dev.arg k 0) ≠ .ok) ∧
    (∃ (s : State), ∃ (k : Fin 4), ∃ (code : Word), s.dev.portReady k 3 ∧ (code.toNat = 0 ∨ 9 < code.toNat)) :=
  ⟨⟨st (made .running |> args [2, 0x01001000, 0xFF000000, 0x1F1F]), 0, 0, 1, by decide +kernel⟩,
    ⟨st (on .run |> args [3] |> rw (FBR_STAGE 0) 0x10), 0, 0, 1, by decide +kernel⟩,
    ⟨st (made .running |> args [4, 7, 0x01001000]), 0, 7, 1, by decide +kernel⟩,
    ⟨st (on .run |> args [5, 21]), 0, 0, 1, { ((on .run |> args [5, 21]).taken 0).setGen 5 0 1 with cut := { (((on .run |> args [5, 21]).taken 0).setGen 5 0 1).cut with reserv := tset (on .run |> args [5, 21]).cut.reserv 0 (some (21, 0, 0, 0)) } }, ⟨by decide +kernel, by decide +kernel, by decide +kernel, by decide +kernel, by decide +kernel, rfl, by decide +kernel⟩⟩,
    ⟨st (on .run |> args [0x04001007] |> cuts (fun c => { c with genPat := [(7, 1)] }) |> trds fun t => { t with patOwner := [(7, some 0)] }), 0, 4, 7, by decide +kernel⟩,
    ⟨st (on .run |> args [0x05001000]), 0, 5, by decide +kernel⟩,
    ⟨st (on .run), 3, 10, by decide +kernel⟩⟩

/-- The hypotheses of each clause can be met. -/
theorem meets_ChannelEventsComplete :
    (∃ (s : State), ∃ (c : Fin 512), (s.dev.chan c).st = .running ∧ s.dev.scanTask c = false ∧ s.dev.boundaryDue c = true ∧ (s.dev.chan c).backTo = none) ∧
    (∃ (s : State), ∃ (c : Fin 512), ∃ p, (s.dev.chan c).st = .stopping ∧ (s.dev.chan c).stopAt = some p ∧ s.dev.drained c = true ∧ reached s.dev.tb.st (p + w32 (s.dev.chan c).settle) = true ∧ (s.dev.chan c).ckptPorts = [] ∧ (s.dev.chan c).destroyPort = none) ∧
    (∃ (s : State), ∃ (c : Fin 512), ∃ e, e = s.dev.ckptSettled c ∧ (e.chan c).st = .running ∧ fld (e.desc c 6) 27 16 ≠ 0 ∧ (e.chan c).epochAt + fld (e.desc c 6) 27 16 * 10000 ≤ e.tb.now) ∧
    (∃ (s : State), ∃ (c : Fin 512), s.dev.replayOver c = true ∧ (s.dev.chan c).takeover = false) ∧
    (∃ (s : State), ∃ (c : Fin 512), s.dev.replayOver c = true ∧ (s.dev.chan c).takeover = true) ∧
    (∃ (s : State), ∃ c, c ∈ s.dev.liveChans ∧ (s.dev.chan c).remote = false ∧ (tget none s.dev.cut.mgmt c ≠ s.dev.slotOf c ∨ s.dev.stateAgrees c = false) ∧ s.dev.isHeld c = false) ∧
    (∃ (s : State), (∀ c ∈ s.dev.liveChans, (s.dev.chan c).remote = true ∨ (tget none s.dev.cut.mgmt c = s.dev.slotOf c ∧ s.dev.stateAgrees c = true))) ∧
    (∃ (s : State), s.dev.reaches CUT_CTRL ∧ (∀ c ∈ s.dev.cut.held, (s.dev.chan c).st ≠ .recovering)) ∧
    (∃ (s : State), ∃ (c : Fin 512), ∃ x, s.dev.b CUT_CTRL 0 = true ∧ s.dev.modeIn [.stop, .run, .spare] = true ∧ (s.dev.chan c).st = .running ∧ s.dev.isHeld c = false ∧ (s.dev.chan c).remote = false ∧ s.dev.placeOn (512 + c) (s.dev.engineList c) = .inr x ∧ (x.chan c).st = .running) :=
  ⟨⟨st (made .running), 0, by decide +kernel⟩,
    ⟨st (made .stopping |> chf fun c => { c with stopAt := some 0 }), 0, 0, by decide +kernel⟩,
    ⟨st (made .running |> tbs fun t => { t with now := 1000000 }), 0, ((made .running |> tbs fun t => { t with now := 1000000 })).ckptSettled (0 : Fin 512), ⟨rfl, by decide +kernel⟩⟩,
    ⟨st (made .recovering |> chf fun c => { c with recF := some 0 }), 0, by decide +kernel⟩,
    ⟨st (made .recovering |> chf fun c => { c with recF := some 0, takeover := true }), 0, by decide +kernel⟩,
    ⟨st (made .running |> cuts fun c => { c with mgmt := [(0, some (0, 0))] }), 0, by decide +kernel⟩,
    ⟨st (on .run), by decide +kernel⟩,
    ⟨st (on .run), by decide +kernel⟩,
    ⟨st (made .running |> rw CUT_CTRL 1 |> chf fun c => { c with desc := tset c.desc 14 0xF81F0000 }), 0, placed ((made .running |> rw CUT_CTRL 1 |> chf fun c => { c with desc := tset c.desc 14 0xF81F0000 }).placeOn (512 + 0) ((made .running |> rw CUT_CTRL 1 |> chf fun c => { c with desc := tset c.desc 14 0xF81F0000 }).engineList 0)), ⟨by decide +kernel, by decide +kernel, by decide +kernel, by decide +kernel, by decide +kernel, placed_eq (by decide +kernel), by decide +kernel⟩⟩⟩

/-- The hypotheses of each clause can be met. -/
theorem meets_ScanRequestsComplete :
    (∃ (s : State), ∃ v, ∃ x, s.dev.reaches SCN_CTRL ∧ x = s.dev.wf SCN_CTRL 5 4 (fld v 5 4) ∧ fld v 3 1 = 0 ∧ bitOf v 6 = false ∧ s.dev.scn.state = .stop ∧ s.dev.scn.started = false ∧ s.dev.mode = .run ∧ periodNs s.dev ≠ 0 ∧ x.checkTasks (x.taskSet (SCN_TASK 0)) = 0) ∧
    (∃ (s : State), ∃ v, ∃ x, s.dev.reaches SCN_CTRL ∧ x = s.dev.wf SCN_CTRL 5 4 (fld v 5 4) ∧ bitOf v 0 = false ∧ fld v 3 2 = 0 ∧ bitOf v 6 = false ∧ s.dev.scn.state = .run) ∧
    (∃ (s : State), ∃ v, ∃ x, s.dev.reaches SCN_CTRL ∧ x = s.dev.wf SCN_CTRL 5 4 (fld v 5 4) ∧ fld v 1 0 = 0 ∧ bitOf v 3 = false ∧ bitOf v 6 = false ∧ s.dev.scn.state = .run ∧ s.dev.debug = true) ∧
    (∃ (s : State), ∃ v, ∃ x, s.dev.reaches SCN_CTRL ∧ x = s.dev.wf SCN_CTRL 5 4 (fld v 5 4) ∧ fld v 2 0 = 0 ∧ bitOf v 6 = false ∧ s.dev.scn.state = .hold) ∧
    (∃ (s : State), ∃ v, ∃ x, s.dev.reaches SCN_CTRL ∧ x = s.dev.wf SCN_CTRL 5 4 (fld v 5 4) ∧ fld v 3 0 = 0 ∧ s.dev.scn.state ≠ .stop ∧ x.checkTasks (x.taskSet (SCN_CHG_TASK 0)) = 0 ∧ dupKey (x.instKeys x.instOther) = false ∧ latNs x + x.taskLat (x.taskSet (SCN_CHG_TASK 0)) + outNs x + 2000 + 5 * x.f SCN_INST_CFG 12 0 ≤ periodNs x) ∧
    (∃ (s : State), ∃ (n : Fin 64), ∃ v, s.dev.reaches (SCN_STN_PUB n) ∧ fld v 1 0 = 3 ∧ s.dev.scn.phase ≠ .latched) ∧
    (∃ (s : State), ∃ (n : Fin 64), ∃ v, s.dev.reaches (SCN_STN_PUB n) ∧ fld v 1 0 = 3 ∧ s.dev.scn.phase = .latched ∧ (s.dev.stn n).queued = false) ∧
    (∃ (s : State), ∃ who, ∃ (i : Fin 65536), s.dev.reaches (SCN_RET i) ∧ isHost who = true ∧ s.dev.scn.state = .stop) ∧
    (∃ (s : State), ∃ who, ∃ (i : Fin 65536), s.dev.reaches (SCN_RET i) ∧ isHost who = false ∧ s.dev.scn.state = .run ∧ s.dev.scn.phase = .idle ∧ s.dev.scn.log.length < 2048) :=
  ⟨⟨st (on .run |> scanning), 1, (on .run |> scanning).wf SCN_CTRL 5 4 0, ⟨by decide +kernel, rfl, by decide +kernel⟩⟩,
    ⟨st (on .run |> scs fun s => { s with state := .run }), 2, (on .run |> scs fun s => { s with state := .run }).wf SCN_CTRL 5 4 0, ⟨by decide +kernel, rfl, by decide +kernel⟩⟩,
    ⟨st (on .run |> scs (fun s => { s with state := .run }) |> ses fun s => { s with dbgUnlocked := true }), 4, (on .run |> scs (fun s => { s with state := .run }) |> ses fun s => { s with dbgUnlocked := true }).wf SCN_CTRL 5 4 0, ⟨by decide +kernel, rfl, by decide +kernel⟩⟩,
    ⟨st (on .run |> scs fun s => { s with state := .hold }), 8, (on .run |> scs fun s => { s with state := .hold }).wf SCN_CTRL 5 4 0, ⟨by decide +kernel, rfl, by decide +kernel⟩⟩,
    ⟨st (on .run |> scanning |> scs fun s => { s with state := .run }), 0x40, (on .run |> scanning |> scs fun s => { s with state := .run }).wf SCN_CTRL 5 4 0, ⟨by decide +kernel, rfl, by decide +kernel⟩⟩,
    ⟨st (on .run), 63, 3, by decide +kernel⟩,
    ⟨st (on .run |> scs fun s => { s with phase := .latched }), 63, 3, by decide +kernel⟩,
    ⟨st (on .run), .pcie, 65535, by decide +kernel⟩,
    ⟨st (on .run |> scs fun s => { s with state := .run }), .engine 95, 65535, by decide +kernel⟩⟩

/-- The hypotheses of each clause can be met. -/
theorem meets_ScanCycleComplete :
    (∃ (s : State), ∃ t0, ∃ x, s.dev.scn.nextLatch = some t0 ∧ reached s.dev.tb.st t0 = true ∧ x = (s.dev.setScn (fun c => { c with nextLatch := some (t0 + w32 (periodNs s.dev)) })).bindNext ∧ s.dev.agreeing = false ∧ s.dev.pwr.pfw = false ∧ s.dev.scn.started = false ∧ x.scn.started = false ∧ x.scn.state = .run ∧ x.scn.tasks.any x.taskLost = false) ∧
    (∃ (s : State), ∃ t0, ∃ x, s.dev.scn.nextLatch = some t0 ∧ reached s.dev.tb.st t0 = true ∧ x = (s.dev.setScn (fun c => { c with nextLatch := some (t0 + w32 (periodNs s.dev)) })).bindNext ∧ s.dev.agreeing = false ∧ s.dev.pwr.pfw = false ∧ s.dev.mode = .run ∧ x.scn.started = true ∧ x.scn.tasks.any x.taskLost = false) ∧
    (∃ (s : State), ∃ t0, ∃ x, s.dev.scn.nextLatch = some t0 ∧ reached s.dev.tb.st t0 = true ∧ x = (s.dev.setScn (fun c => { c with nextLatch := some (t0 + w32 (periodNs s.dev)) })).bindNext ∧ s.dev.agreeing = false ∧ s.dev.pwr.pfw = false ∧ s.dev.scn.started = false ∧ x.scn.started = false ∧ x.scn.state = .hold ∧ x.scn.releaseReq = false ∧ x.scn.tasks.any x.taskLost = false) ∧
    (∃ (s : State), ∃ t0, s.dev.scn.nextLatch = some t0 ∧ reached s.dev.tb.st t0 = true ∧ (s.dev.agreeing = true ∨ s.dev.pwr.pfw = true)) ∧
    (∃ (s : State), s.dev.scn.phase = .latched ∧ reached s.dev.tb.st s.dev.scn.tE = true) ∧
    (∃ (s : State), s.dev.scn.phase = .copied ∧ reached s.dev.tb.st (s.dev.scn.tK - 64) = true ∧ (s.dev.scn.tasks.filterMap s.dev.chanOf).all s.dev.taskSealed = true ∧ s.dev.scn.withheld = false) ∧
    (∃ (s : State), s.dev.scn.phase = .copied ∧ reached s.dev.tb.st (s.dev.scn.tK - 64) = true ∧ ((s.dev.scn.tasks.filterMap s.dev.chanOf).all s.dev.taskSealed = false ∨ s.dev.scn.withheld = true)) ∧
    (∃ (s : State), ∃ x, s.dev.scn.phase = .judged ∧ reached s.dev.tb.st s.dev.scn.tK = true ∧ s.dev.scn.commits = true ∧ s.dev.scn.state = .run ∧ x = (((s.dev.each s.dev.stnUsed (fun d n => d.stnCommit n)).applyLog).cnt (SCN_CNT 0)).setScn (fun c => { c with retValid := true }) ∧ x.b SCN_STAT 10 = false ∧ x.scn.stopReq = false ∧ x.b SCN_CFG 24 = false) ∧
    (∃ (s : State), s.dev.scn.phase = .judged ∧ reached s.dev.tb.st s.dev.scn.tK = true ∧ s.dev.scn.commits = false ∧ s.dev.scn.stopReq = false ∧ s.dev.b SCN_CFG 24 = false) ∧
    (∃ (s : State), ∃ x, s.dev.scn.phase = .committed ∧ reached s.dev.tb.st s.dev.scn.tD = true ∧ x = s.dev.setScn (fun c => { c with phase := .idle })) :=
  ⟨⟨st (on .run |> scs fun s => { s with state := .run, nextLatch := some 0 }), 0, ((on .run |> scs fun s => { s with state := .run, nextLatch := some 0 }).setScn (fun c => { c with nextLatch := some (0 + w32 (periodNs (on .run |> scs fun s => { s with state := .run, nextLatch := some 0 }))) })).bindNext, ⟨by decide +kernel, by decide +kernel, rfl, by decide +kernel⟩⟩,
    ⟨st (on .run |> scs fun s => { s with started := true, nextLatch := some 0 }), 0, ((on .run |> scs fun s => { s with started := true, nextLatch := some 0 }).setScn (fun c => { c with nextLatch := some (0 + w32 (periodNs (on .run |> scs fun s => { s with started := true, nextLatch := some 0 }))) })).bindNext, ⟨by decide +kernel, by decide +kernel, rfl, by decide +kernel⟩⟩,
    ⟨st (on .run |> scs fun s => { s with state := .hold, nextLatch := some 0 }), 0, ((on .run |> scs fun s => { s with state := .hold, nextLatch := some 0 }).setScn (fun c => { c with nextLatch := some (0 + w32 (periodNs (on .run |> scs fun s => { s with state := .hold, nextLatch := some 0 }))) })).bindNext, ⟨by decide +kernel, by decide +kernel, rfl, by decide +kernel⟩⟩,
    ⟨st (on .run |> pw (fun p => { p with pfw := true }) |> scs fun s => { s with nextLatch := some 0 }), 0, by decide +kernel⟩,
    ⟨st (on .run |> scs fun s => { s with phase := .latched }), by decide +kernel⟩,
    ⟨st (on .run |> scs fun s => { s with phase := .copied }), by decide +kernel⟩,
    ⟨st (on .run |> scs fun s => { s with phase := .copied, withheld := true }), by decide +kernel⟩,
    ⟨st (on .run |> scs fun s => { s with phase := .judged, commits := true, state := .run }), (((on .run |> scs fun s => { s with phase := .judged, commits := true, state := .run }).each (on .run |> scs fun s => { s with phase := .judged, commits := true, state := .run }).stnUsed (fun d n => d.stnCommit n)).applyLog.cnt (SCN_CNT 0)).setScn (fun c => { c with retValid := true }), ⟨by decide +kernel, by decide +kernel, by decide +kernel, by decide +kernel, rfl, by decide +kernel⟩⟩,
    ⟨st (on .run |> scs fun s => { s with phase := .judged }), by decide +kernel⟩,
    ⟨st (on .run |> scs fun s => { s with phase := .committed }), (on .run |> scs fun s => { s with phase := .committed }).setScn (fun c => { c with phase := .idle }), ⟨by decide +kernel, by decide +kernel, rfl⟩⟩⟩

/-- The hypotheses of each clause can be met. -/
theorem meets_SecurityCommandsComplete :
    (∃ (s : State), ∃ who, ∃ v, ∃ h, ∃ i, s.dev.secTakes who v h [0] [.provision] ∧ 4 ≤ i ∧ i < 52 ∧ s.dev.otp i ≠ 0 ∧ s.dev.sec.rngFail = false ∧ s.dev.b SEC_CTRL 0 = true) ∧
    (∃ (s : State), ∃ who, ∃ v, ∃ h, s.dev.secTakes who v h [1] [.provision, .stop]) ∧
    (∃ (s : State), ∃ who, ∃ v, ∃ h, s.dev.secTakes who v h [1, 2] [.provision, .stop, .run, .safe]) ∧
    (∃ (s : State), ∃ who, ∃ v, ∃ h, s.dev.secTakes who v h [1, 2] [.provision, .stop, .run, .spare] ∧ s.dev.keyGone = false) ∧
    (∃ (s : State), ∃ who, ∃ v, ∃ h, s.dev.secTakes who v h [0, 1, 2, 3] [.provision, .stop, .run]) ∧
    (∃ (s : State), ∃ who, ∃ v, ∃ h, s.dev.secTakes who v h [1, 2] [.stop] ∧ s.dev.f SEC_CMD_ARG 15 8 ≤ 128 ∧ s.dev.roll (s.dev.f SEC_CMD_ARG 5 0) < s.dev.f SEC_CMD_ARG 15 8 ∧ s.dev.f SEC_CMD_ARG 15 8 ≤ tget 0 s.dev.sec.booted (s.dev.f SEC_CMD_ARG 5 0)) ∧
    (∃ (s : State), ∃ who, ∃ v, ∃ h, ∃ i, s.dev.secTakes who v h [0, 1, 2, 3] anyMode ∧ i = s.dev.f SEC_CMD_ARG 8 0 ∧ s.dev.otpMay i = true ∧ s.dev.modeIn [.provision, .stop] = true ∧ (i = 52 → fld (s.dev.otp 52 ||| s.dev.r (SEC_BUF 0)) 3 0 ≠ 15)) ∧
    (∃ (s : State), ∃ who, ∃ v, ∃ h, s.dev.secTakes who v h [1, 2] anyMode ∧ s.dev.sec.rngFail = false ∧ s.dev.b SEC_CTRL 0 = true) ∧
    (∃ (s : State), ∃ who, ∃ v, ∃ h, ∃ c, s.dev.secTakes who v h [1, 2] anyMode ∧ s.dev.sec.challenge = some c ∧ s.dev.sec.dbgFails < 3 ∧ sha384b (s.dev.buf 0 24) = s.dev.otpBytes 53 12) ∧
    (∃ (s : State), ∃ who, ∃ v, ∃ h, s.dev.secTakes who v h [0, 1, 2, 3] anyMode) ∧
    (∃ (s : State), ∃ who, ∃ v, ∃ h, s.dev.secTakes who v h [0, 1, 2, 3] anyMode) ∧
    (∃ (s : State), ∃ who, ∃ v, ∃ h, s.dev.secTakes who v h [0, 1, 2, 3] anyMode ∧ (fld v 7 0 = 0 ∨ 0x0B < fld v 7 0)) :=
  ⟨⟨st (on .provision |> rw SEC_CTRL 1 |> ses fun s => { s with otp := [(51, 1)] }), .pcie, 0xA501, false, 51, by decide +kernel⟩,
    ⟨st (on .stop |> life 1), .pcie, 0xA502, false, by decide +kernel⟩,
    ⟨st (on .safe |> life 2), .pcie, 0xA503, false, by decide +kernel⟩,
    ⟨st (on .spare |> life 2), .pcie, 0xA504, true, by decide +kernel⟩,
    ⟨st (on .run |> life 3), .pcie, 0xA505, false, by decide +kernel⟩,
    ⟨st (on .stop |> life 2 |> rw SEC_CMD_ARG 0x803F |> ses fun s => { s with booted := [(63, 128)] }), .pcie, 0xA506, false, by decide +kernel⟩,
    ⟨st (on .stop |> life 1 |> rw SEC_CMD_ARG 255), .pcie, 0xA507, false, 255, by decide +kernel⟩,
    ⟨st (on .run |> life 1 |> rw SEC_CTRL 1), .pcie, 0xA508, false, by decide +kernel⟩,
    ⟨st locked, .pcie, 0xA509, false, [], ⟨by decide +kernel, rfl, by decide +kernel, locked_answer⟩⟩,
    ⟨st (on .hold), .pcie, 0xA50A, false, by decide +kernel⟩,
    ⟨st (on .hold), .pcie, 0xA50B, false, by decide +kernel⟩,
    ⟨st (on .hold), .pcie, 0xA50C, false, by decide +kernel⟩⟩

/-- The hypotheses of each clause can be met. -/
theorem meets_SecurityUnitComplete :
    (∃ (s : State), s.dev.reaches SEC_KEY_CMD) ∧
    (∃ (s : State), s.dev.reaches SEC_KEY_CMD) ∧
    (∃ (s : State), ∃ (e : Fin 96), ∃ (q : Fin 16), ∃ v, ∃ c, ∃ ev, s.dev.reaches (SEC_CQ_GO q) ∧ (s.dev.eng e).cur = some c ∧ c < 512 ∧ s.dev.chanOf (s.dev.r (SEC_CQ_CFG q)) = some c ∧ s.dev.granted c 17 = true ∧ bitOf v 0 = true ∧ (s.dev.act c).input = some ev ∧ (tget [] s.dev.sec.jobs q).length < 8 ∧ jobBad ((List.range 8).map (fun i => s.dev.r (SEC_CQ_JOB q i))) = false) ∧
    (∃ (s : State), ∃ (q : Fin 16), ∃ j, ∃ rest, tget [] s.dev.sec.jobs q = j :: rest ∧ j.key.isSome = true ∧ s.dev.b SEC_CTRL 1 = true) ∧
    (∃ (s : State), ∃ (held : Fin 65), ∃ n, s.dev.reaches SEC_RNG ∧ n = Nat.max (s.dev.f SEC_RNG_STAT 6 0) held ∧ 0 < n ∧ s.dev.sec.rngFail = false ∧ s.dev.b SEC_CTRL 0 = true) ∧
    (∃ (s : State), s.dev.reaches SEC_RNG ∧ s.dev.f SEC_RNG_STAT 6 0 = 0) ∧
    (∃ (s : State), s.dev.rngUp = true ∧ s.dev.hostUp = true) :=
  ⟨⟨st (on .run), by decide +kernel⟩,
    ⟨st (on .run), by decide +kernel⟩,
    ⟨st (on .run |> ch0 .running |> chf (fun c => { c with desc := [(12, 0x20000)] }) |> rw (SEC_CQ_CFG 15) 0x01001000 |> rw (SEC_CQ_JOB 15 0) 8 |> (·.setEng 95 fun e => { e with cur := some 0 }) |> (·.setAct 0 fun a => { a with input := some ev0 })), 95, 15, 1, 0, ev0, by decide +kernel⟩,
    ⟨st (on .run |> rw SEC_CTRL 2 |> ses fun s => { s with jobs := [(15, [{ words := [], chan := 0, st := 0, quarter := 0, gen := 0, key := some [], at_ := 0 }])] }), 15, { words := [], chan := 0, st := 0, quarter := 0, gen := 0, key := some [], at_ := 0 }, [], by decide +kernel⟩,
    ⟨st (on .run |> rw SEC_CTRL 1), 64, 64, by decide +kernel⟩,
    ⟨st (on .run |> rw SEC_RNG_STAT 0), by decide +kernel⟩,
    ⟨st (on .run |> rw SEC_CTRL 1), by decide +kernel⟩⟩

/-- The hypotheses of each clause can be met. -/
theorem meets_CanControllersComplete :
    (∃ (s : State), ∃ (n : Fin 8), ∃ v, ∃ x, s.dev.reaches (MDB_CTRL n) ∧ s.dev.b (MDB_CTRL n) 0 = false ∧ (bitOf v 8 = false ∨ s.dev.b (MDB_CTRL n) 8 = true) ∧ x = (((s.dev.w (MDB_CTRL n) ((v ||| 1) &&& 0x7FF)).canStateSet n 1).setCtl n (fun x => { x with txErr := 0, rxErr := 0 })).errShow n) ∧
    (∃ (s : State), ∃ (n : Fin 8), s.dev.canState n = 1) ∧
    (∃ (s : State), ∃ (n : Fin 8), s.dev.canState n = 5) ∧
    (∃ (s : State), ∃ (n : Fin 8), (s.dev.canState n = 2 ∨ s.dev.canState n = 3)) ∧
    (∃ (s : State), ∃ (n : Fin 8), ∃ (b : Fin 32), s.dev.reaches (bufStat n b) ∧ fld (s.dev.r (bufCfg n b)) 19 18 = 0 ∧ bitOf (s.dev.r (bufCfg n b)) 0 = false ∧ s.dev.b (bufStat n b) 0 = false) ∧
    (∃ (s : State), ∃ (n : Fin 8), ∃ (b : Fin 32), ∃ x, s.dev.reaches (bufStat n b) ∧ (s.dev.ctl n).sending ≠ some b.val ∧ s.dev.b (bufStat n b) 0 = true ∧ x = s.dev.setCtl n (fun x => { x with abortAt := tset x.abortAt b (s.dev.tb.now + 1) })) ∧
    (∃ (s : State), ∃ (n : Fin 8), ∃ (b : Fin 32), ∃ x, s.dev.reaches (bufStat n b) ∧ (s.dev.ctl n).sending = some b.val ∧ (s.dev.ctl n).startAt ≠ s.dev.tb.now ∧ x = s.dev.setCtl n (fun x => { x with abortAt := tset x.abortAt b (s.dev.tb.now + 1) })) ∧
    (∃ (s : State), ∃ (n : Fin 8), ∃ (b : Fin 32), ∃ x, s.dev.reaches (bufStat n b) ∧ (s.dev.ctl n).sending = some b.val ∧ (s.dev.ctl n).startAt = s.dev.tb.now ∧ s.dev.b (bufStat n b) 0 = true ∧ x = (s.dev.setCtl n (fun x => { x with abortAt := tset x.abortAt b (s.dev.tb.now + 1) })).unoffer n) ∧
    (∃ (s : State), ∃ (n : Fin 8), ∃ (b : Fin 33), ∃ x, (s.dev.ctl n).sending = some b.val ∧ b.val < 32 ∧ s.dev.b (MDB_TDC n) 0 = false ∧ (s.dev.ctl n).window = none ∧ x = (s.dev.setCtl n (fun x => { x with sending := none, abortSending := false })).txGood n) ∧
    (∃ (s : State), ∃ (n : Fin 8), ∃ (q : Fin 2), ∃ v, s.dev.reaches (MDB_RXQ_POP n q) ∧ bitOf v 0 = true) ∧
    (∃ (s : State), ∃ (n : Fin 8), ∃ (b : Fin 32), s.dev.reaches (MDB_BUF n b 2) ∧ s.dev.b (bufCfg n b) 0 = true ∧ tget 0 (s.dev.ctl n).rxAt b ≠ s.dev.tb.now + 1) ∧
    (∃ (s : State), ∃ (n : Fin 8), ∃ (b : Fin 32), s.dev.reaches (MDB_BUF n b 2) ∧ tget 0 (s.dev.ctl n).rxAt b = s.dev.tb.now + 1) :=
  ⟨⟨st (on .run), 7, 1, (((((on .run)).w (MDB_CTRL (7 : Fin 8)) ((HOr.hOr (1 : Word) (1 : Word) : Word) &&& 0x7FF)).canStateSet (7 : Fin 8) 1).setCtl (7 : Fin 8) (fun x => { x with txErr := 0, rxErr := 0 })).errShow (7 : Fin 8), ⟨by decide +kernel, by decide +kernel, by decide +kernel, rfl⟩⟩,
    ⟨st (on .run |> rw (MDB_STAT 7) 1), 7, by decide +kernel⟩,
    ⟨st (on .run |> rw (MDB_STAT 0) 5), 0, by decide +kernel⟩,
    ⟨st (on .run |> rw (MDB_STAT 0) 3), 0, by decide +kernel⟩,
    ⟨st (on .run), 7, 31, by decide +kernel⟩,
    ⟨st (on .run |> rw (bufStat 7 31) 1), 7, 31, ((on .run |> rw (bufStat 7 31) 1)).setCtl (7 : Fin 8) (fun x => { x with abortAt := tset x.abortAt (31 : Fin 32) (((on .run |> rw (bufStat 7 31) 1)).tb.now + 1) }), ⟨by decide +kernel, by decide +kernel, by decide +kernel, rfl⟩⟩,
    ⟨st (on .run |> cts 7 (fun c => { c with sending := some 31, startAt := 4 })), 7, 31, ((on .run |> cts 7 (fun c => { c with sending := some 31, startAt := 4 }))).setCtl (7 : Fin 8) (fun x => { x with abortAt := tset x.abortAt (31 : Fin 32) (((on .run |> cts 7 (fun c => { c with sending := some 31, startAt := 4 }))).tb.now + 1) }), ⟨by decide +kernel, by decide +kernel, by decide +kernel, rfl⟩⟩,
    ⟨st (on .run |> rw (bufStat 7 31) 1 |> cts 7 (fun c => { c with sending := some 31, startAt := 0 })), 7, 31, (((on .run |> rw (bufStat 7 31) 1 |> cts 7 (fun c => { c with sending := some 31, startAt := 0 }))).setCtl (7 : Fin 8) (fun x => { x with abortAt := tset x.abortAt (31 : Fin 32) (((on .run |> rw (bufStat 7 31) 1 |> cts 7 (fun c => { c with sending := some 31, startAt := 0 }))).tb.now + 1) })).unoffer (7 : Fin 8), ⟨by decide +kernel, by decide +kernel, by decide +kernel, by decide +kernel, rfl⟩⟩,
    ⟨st (on .run |> cts 7 (fun c => { c with sending := some 31 })), 7, 31, (((on .run |> cts 7 (fun c => { c with sending := some 31 }))).setCtl (7 : Fin 8) (fun x => { x with sending := none, abortSending := false })).txGood (7 : Fin 8), ⟨by decide +kernel, by decide +kernel, by decide +kernel, by decide +kernel, rfl⟩⟩,
    ⟨st (on .run), 7, 1, 1, by decide +kernel⟩,
    ⟨st (on .run |> rw (bufCfg 7 31) 1), 7, 31, by decide +kernel⟩,
    ⟨st (on .run |> cts 7 (fun c => { c with rxAt := [(31, 1)] })), 7, 31, by decide +kernel⟩⟩

/-- The hypotheses of each clause can be met. -/
theorem meets_CanReceptionComplete :
    (∃ (s : State), ∃ (n : Fin 8), ∃ f, ∃ x, canShape f = true ∧ s.dev.b (MDB_CTRL n) 0 = true ∧ (s.dev.canState n = 2 ∨ s.dev.canState n = 3) ∧ (bitOf f.w1 4 = true → s.dev.b (MDB_CTRL n) 3 = true) ∧ x = ((if s.dev.opEff n < 2 then s.dev.emit (.canAck n) else s.dev).rxGood n).cnt (MDB_CNT n 0) ∧ x.isRef n f.w0 f.w1 = false ∧ (∀ i, i < 64 → bitOf (x.r (MDB_FILT n i 0)) 31 = false) ∧ x.f (MDB_CTRL n) 10 9 = 0) ∧
    (∃ (s : State), ∃ (n : Fin 8), ∃ f, ∃ x, ∃ i, canShape f = true ∧ s.dev.b (MDB_CTRL n) 0 = true ∧ (s.dev.canState n = 2 ∨ s.dev.canState n = 3) ∧ (bitOf f.w1 4 = true → s.dev.b (MDB_CTRL n) 3 = true) ∧ x = ((if s.dev.opEff n < 2 then s.dev.emit (.canAck n) else s.dev).rxGood n).cnt (MDB_CNT n 0) ∧ x.isRef n f.w0 f.w1 = false ∧ (List.range 64).find? (fun i => bitOf (x.r (MDB_FILT n i 0)) 31 && bitOf (x.r (MDB_FILT n i 0)) 29 == bitOf f.w0 29 && ((f.w0 ^^^ x.r (MDB_FILT n i 0)) &&& x.r (MDB_FILT n i 1) &&& 0x1FFFFFFF) == 0) = some i ∧ fld (x.r (MDB_FILT n i 1)) 31 29 = 0 ∧ bitOf (x.r (MDB_FILT n i 0)) 30 = false) ∧
    (∃ (s : State), ∃ (n : Fin 8), ∃ (f : CanRx), canShape f = true ∧ s.dev.b (MDB_CTRL n) 0 = true ∧ (s.dev.canState n = 2 ∨ s.dev.canState n = 3) ∧ bitOf f.w1 4 = true ∧ s.dev.b (MDB_CTRL n) 3 = false) ∧
    (∃ (s : State), ∃ (n : Fin 8), ∃ m, s.dev.b (MDB_CTRL n) 8 = true ∧ s.dev.b (MDB_TT_CTRL n) 0 = true ∧ s.dev.b (MDB_TT_CTRL n) 5 = true ∧ s.dev.ttCycle n ≠ 0 ∧ s.dev.f (MDB_TT_STAT n) 1 0 ≠ 3 ∧ s.dev.ttK n ≠ (s.dev.ctl n).refK ∧ m = 4 * (s.dev.stLong - (s.dev.taiNs - (s.dev.ttK n * s.dev.ttCycle n + (s.dev.r (MDB_TT_PHASE n)).toNat))) ∧ (s.dev.ctl n).refSeen ≤ m) ∧
    (∃ (s : State), ∃ (n : Fin 8), ∃ (k : Fin 64), ∃ a, ∃ b, ∃ m, ∃ e, ∃ x, a = s.dev.r (MDB_TRIG n k 0) ∧ b = s.dev.r (MDB_TRIG n k 1) ∧ s.dev.b (MDB_CTRL n) 0 = true ∧ s.dev.b (MDB_CTRL n) 8 = true ∧ bitOf b 31 = true ∧ fld a 18 16 = 1 ∧ fld b 13 8 < 2 ^ fld b 2 0 ∧ (s.dev.ctl n).refMark = some m ∧ s.dev.ttCycle n ≠ 0 ∧ m + 4 * (fld a 15 0 * s.dev.ntu n) ≤ 4 * s.dev.stLong ∧ (s.dev.ctl n).fired.contains k.val = false ∧ s.dev.f (MDB_TT_STAT n) 8 3 % 2 ^ fld b 2 0 = fld b 13 8 ∧ s.dev.f (MDB_TT_STAT n) 1 0 < 2 ∧ e = fld a 23 19 ∧ bitOf (s.dev.r (bufCfg n e)) 0 = false ∧ s.dev.b (bufStat n e) 0 = true ∧ x = s.dev.setCtl n (fun x => { x with fired := x.fired ++ [k.val], arb := x.arb.filter (fun b => x.once.contains b) })) ∧
    (∃ (s : State), ∃ (n : Fin 8), ∃ v, s.dev.reaches (MDB_TT_STAT n) ∧ fld v 1 0 = 0 ∧ s.dev.f (MDB_TT_STAT n) 1 0 = 1) ∧
    (∃ (s : State), ∃ (n : Fin 8), ∃ (k : Fin 64), ∃ dl, ∃ buf, (s.dev.ctl n).window = some (buf, dl) ∧ dl ≤ 4 * s.dev.stLong ∧ buf = s.dev.f (MDB_TRIG n k 0) 23 19 ∧ (s.dev.ctl n).sending ≠ some buf ∧ s.dev.b (bufStat n buf) 0 = true) ∧
    (∃ (s : State), ∃ (n : Fin 2), ∃ w0, ∃ (dlc : Fin 16), ∃ (data : List Byte), ∃ x, s.dev.pwr.porLow = false ∧ s.dev.pwr.supplyLow = false ∧ x = s.dev.wf (MDB_WAKE_STAT n) 7 2 (s.dev.f (MDB_WAKE_STAT n) 7 2 - 1) ∧ x.wakeMatch n w0 dlc (if bitOf w0 30 then [] else data.take (Nat.min 8 dlc)) = true) ∧
    (∃ (s : State), ∃ (n : Fin 2), s.dev.pwr.porLow = false ∧ s.dev.pwr.supplyLow = false ∧ s.dev.f (MDB_WAKE_STAT n) 7 2 < 31) ∧
    (∃ (s : State), ∃ (n : Fin 2), s.dev.pwr.wakeByMdbOnly = true ∧ s.dev.b PWR_WAKE_CAUSE (12 + n) = true ∧ s.dev.modeIn [.stop, .run, .spare] = true ∧ s.dev.pwr.trans = .idle ∧ s.dev.pwr.wokeAt + 1000000 * s.dev.f (MDB_WAKE_TIMEOUT n) 15 0 ≤ s.dev.tb.now ∧ s.dev.r PWR_WAKE_CAUSE &&& 0x4FFF = 0 ∧ s.dev.pwr.wakeKept = false) ∧
    (∃ (s : State), ∃ (n : Fin 2), ∃ v, s.dev.reaches (MDB_WAKE_STAT n) ∧ bitOf v 8 = true) :=
  ⟨⟨st (on .run |> rw (MDB_CTRL 7) 1 |> rw (MDB_STAT 7) 2), 7, ⟨0x048C0000, 2, [1, 2], 0, 100⟩, ((if ((on .run |> rw (MDB_CTRL 7) 1 |> rw (MDB_STAT 7) 2)).opEff (7 : Fin 8) < 2 then ((on .run |> rw (MDB_CTRL 7) 1 |> rw (MDB_STAT 7) 2)).emit (.canAck (7 : Fin 8)) else (on .run |> rw (MDB_CTRL 7) 1 |> rw (MDB_STAT 7) 2)).rxGood (7 : Fin 8)).cnt (MDB_CNT (7 : Fin 8) 0), ⟨by decide +kernel, by decide +kernel, by decide +kernel, by decide +kernel, rfl, by decide +kernel, by decide +kernel, by decide +kernel⟩⟩,
    ⟨st (on .run |> rw (MDB_CTRL 7) 1 |> rw (MDB_STAT 7) 2 |> rw (MDB_FILT 7 63 0) 0x848C0000 |> rw (MDB_FILT 7 63 1) 0x1FFC0000), 7, ⟨0x048C0000, 2, [1, 2], 0, 100⟩, ((if ((on .run |> rw (MDB_CTRL 7) 1 |> rw (MDB_STAT 7) 2 |> rw (MDB_FILT 7 63 0) 0x848C0000 |> rw (MDB_FILT 7 63 1) 0x1FFC0000)).opEff (7 : Fin 8) < 2 then ((on .run |> rw (MDB_CTRL 7) 1 |> rw (MDB_STAT 7) 2 |> rw (MDB_FILT 7 63 0) 0x848C0000 |> rw (MDB_FILT 7 63 1) 0x1FFC0000)).emit (.canAck (7 : Fin 8)) else (on .run |> rw (MDB_CTRL 7) 1 |> rw (MDB_STAT 7) 2 |> rw (MDB_FILT 7 63 0) 0x848C0000 |> rw (MDB_FILT 7 63 1) 0x1FFC0000)).rxGood (7 : Fin 8)).cnt (MDB_CNT (7 : Fin 8) 0), 63, ⟨by decide +kernel, by decide +kernel, by decide +kernel, by decide +kernel, rfl, by decide +kernel, by decide +kernel, by decide +kernel, by decide +kernel⟩⟩,
    ⟨st (on .run |> rw (MDB_CTRL 7) 1 |> rw (MDB_STAT 7) 2), 7, ⟨0x048C0000, 0x12, [1, 2], 0, 100⟩, by decide +kernel⟩,
    ⟨st (on .run |> rw (MDB_CTRL 7) 0x101 |> rw (MDB_TT_CTRL 7) 0x21 |> tbs fun t => { t with sec := 1 }), 7, 4 * (((on .run |> rw (MDB_CTRL 7) 0x101 |> rw (MDB_TT_CTRL 7) 0x21 |> tbs fun t => { t with sec := 1 })).stLong - (((on .run |> rw (MDB_CTRL 7) 0x101 |> rw (MDB_TT_CTRL 7) 0x21 |> tbs fun t => { t with sec := 1 })).taiNs - (((on .run |> rw (MDB_CTRL 7) 0x101 |> rw (MDB_TT_CTRL 7) 0x21 |> tbs fun t => { t with sec := 1 })).ttK (7 : Fin 8) * ((on .run |> rw (MDB_CTRL 7) 0x101 |> rw (MDB_TT_CTRL 7) 0x21 |> tbs fun t => { t with sec := 1 })).ttCycle (7 : Fin 8) + (((on .run |> rw (MDB_CTRL 7) 0x101 |> rw (MDB_TT_CTRL 7) 0x21 |> tbs fun t => { t with sec := 1 })).r (MDB_TT_PHASE (7 : Fin 8))).toNat))), by decide +kernel⟩,
    ⟨st (on .run |> rw (MDB_CTRL 7) 0x101 |> rw (bufStat 7 0) 1 |> rw (MDB_TRIG 7 63 0) 0x10000 |> rw (MDB_TRIG 7 63 1) 0x80000000 |> cts 7 (fun c => { c with refMark := some 0 })), 7, 63, 0x10000, 0x80000000, 0, 0, ((on .run |> rw (MDB_CTRL 7) 0x101 |> rw (bufStat 7 0) 1 |> rw (MDB_TRIG 7 63 0) 0x10000 |> rw (MDB_TRIG 7 63 1) 0x80000000 |> cts 7 (fun c => { c with refMark := some 0 }))).setCtl (7 : Fin 8) (fun x => { x with fired := x.fired ++ [(63 : Fin 64).val], arb := x.arb.filter (fun b => x.once.contains b) }), by and_intros <;> first | rfl | decide +kernel⟩,
    ⟨st (on .run |> rw (MDB_TT_STAT 7) 1), 7, 0, by decide +kernel⟩,
    ⟨st (on .run |> rw (bufStat 7 0) 1 |> cts 7 (fun c => { c with window := some (0, 0) })), 7, 63, 0, 0, by decide +kernel⟩,
    ⟨st (on .holdover |> rw (MDB_WAKE_CFG 1) 1), 1, 0, 0, [], ((on .holdover |> rw (MDB_WAKE_CFG 1) 1)).wf (MDB_WAKE_STAT (1 : Fin 2)) 7 2 (((on .holdover |> rw (MDB_WAKE_CFG 1) 1)).f (MDB_WAKE_STAT (1 : Fin 2)) 7 2 - 1), ⟨by decide +kernel, by decide +kernel, rfl, by decide +kernel⟩⟩,
    ⟨st (on .holdover), 1, by decide +kernel⟩,
    ⟨st (on .stop |> pw (fun p => { p with wakeByMdbOnly := true }) |> rw PWR_WAKE_CAUSE 0x2000 |> rw (MDB_WAKE_TIMEOUT 1) 0), 1, by decide +kernel⟩,
    ⟨st (on .run), 1, 256, by decide +kernel⟩⟩

/-- The hypotheses of each clause can be met. -/
theorem meets_PortFramesComplete :
    (∃ (s : State), ∃ (p : Fin 20), ∃ f, ∃ x, ∃ k, s.dev.rxOn p = true ∧ s.dev.portRetired p = false ∧ f.path = .clean ∧ x = s.dev.tally p 1 f.bytes.length ∧ x.rxCheck p f = some k ∧ (x.port p).cut = none) ∧
    (∃ (s : State), ∃ (p : Fin 20), ∃ f, ∃ x, s.dev.rxOn p = true ∧ s.dev.portRetired p = false ∧ f.path = .clean ∧ x = s.dev.tally p 1 f.bytes.length ∧ x.rxCheck p f = none ∧ isPause f.bytes = true) ∧
    (∃ (s : State), ∃ (p : Fin 20), ∃ f, ∃ x, s.dev.rxOn p = true ∧ s.dev.portRetired p = false ∧ f.path = .clean ∧ x = s.dev.tally p 1 f.bytes.length ∧ x.rxCheck p f = none ∧ isPause f.bytes = false ∧ x.b (MAC_SEC_CFG p) 0 = false ∧ x.vlanAccept p (cutFcs f.bytes) = true) ∧
    (∃ (s : State), ∃ (p : Fin 20), ∃ (hdr : List Byte), ∃ (back : Fin 16), ∃ f, hdr.length = 64 ∧ s.dev.rxOn p = true ∧ s.dev.portRetired p = false ∧ (s.dev.port p).cut = none ∧ s.dev.f (MAC_SEC_CFG p) 3 2 = 0 ∧ beAt hdr 12 2 ≠ 0x8808 ∧ s.dev.vlanAccept p hdr = true ∧ f = s.dev.mkFrame p (hdr ++ [0, 0, 0, 0]) 0 (wrapAdd 16 (s.dev.port p).inSeq 1) (s.dev.rxStamp p 64 back)) ∧
    (∃ (s : State), ∃ (p : Fin 20), ∃ (q : Fin 8), ∃ t0, tfind (s.dev.port p).holdEnd q = some t0 ∧ t0 ≤ s.dev.tb.now) ∧
    (∃ (s : State), ∃ (p : Fin 20), ∃ (q : Fin 8), ∃ t0, tfind (s.dev.port p).holdStart q = some t0 ∧ t0 + 1000 * s.dev.f (MAC_PAUSE_WDOG p) 19 0 ≤ s.dev.tb.now) ∧
    (∃ (s : State), ∃ (p : Fin 20), ∃ (q : Fin 8), ∃ t0, tfind (s.dev.port p).ignoreEnd q = some t0 ∧ t0 ≤ s.dev.tb.now) ∧
    (∃ (s : State), ∃ (p : Fin 22), ∃ x, ∃ y, ∃ q, ∃ e, ∃ rest, p.val < 20 ∧ y = ((s.dev.gateCatch p).claim p).credits p ∧ y.linkUp p = true ∧ y.portRetired p = false ∧ x = y.each (List.range 8) (fun d q => d.dropAged p q) ∧ (x.port p).sending = none ∧ (x.port p).freeAt ≤ x.tb.now ∧ x.txOn p = true ∧ (List.range 8).reverse.find? (fun q => x.eligible p q) = some q ∧ x.queue p q = e :: rest) ∧
    (∃ (s : State), ∃ (p : Fin 22), ∃ x, ∃ q, ∃ e, ∃ rest, ∃ w, 20 ≤ p.val ∧ (s.dev.port p).sending = none ∧ x = ((s.dev.credits p).setPort p (fun m => { m with sending := none })).each (List.range 8) (fun d q => d.dropAged p q) ∧ (s.dev.credits p).port p = s.dev.port p ∧ (List.range 8).reverse.find? (fun q => x.innerMay p q) = some q ∧ x.queue p q = e :: rest ∧ e.f.sampled = true ∧ w = Sending.mk e x.tb.now (x.tb.now + x.bytesNs p (32 + e.f.bytes.length)) e.f.bytes false false none false false) ∧
    (∃ (s : State), ∃ (p : Fin 20), ∃ w, (s.dev.port p).sending = some w ∧ w.sent ≠ [] ∧ w.endAt ≤ s.dev.tb.now ∧ w.lost = false) ∧
    (∃ (s : State), ∃ (p : Fin 20), ∃ (i : Intent), (s.dev.port p).intended.find? (fun i => i.seen.isNone && i.dig.isSome && i.due + 1000 ≤ s.dev.tb.now) = some i) ∧
    (∃ (s : State), ∃ (p : Fin 20), ∃ l, s.dev.portsOn = true ∧ s.dev.linkView p l ≠ s.dev.linkUp p ∧ (l.half = true → s.dev.b (MAC_STAT p) 2 = true)) ∧
    (∃ (s : State), ∃ (p : Fin 20), ∃ x, ∃ rest, (s.dev.port p).pdelay = x :: rest ∧ (s.dev.port p).sending = none ∧ (s.dev.port p).freeAt ≤ s.dev.tb.now ∧ s.dev.txOn p = true ∧ s.dev.linkUp p = true ∧ s.dev.portRetired p = false ∧ s.dev.releaseGuard p (x.req.length + 4) = true ∧ s.dev.b (MAC_SEC_CFG p) 0 = false) :=
  ⟨⟨st (on .run |> live 19), 19, ⟨[0], false, false, 0, .clean⟩, ((on .run |> live 19)).tally (19 : Fin 20) 1 1, 37, ⟨by decide +kernel, by decide +kernel, by decide +kernel, rfl, by decide +kernel, by decide +kernel⟩⟩,
    ⟨st (on .run |> live 0), 0, whole (List.replicate 12 0 ++ [0x88, 8, 0, 1] ++ List.replicate 44 0), ((on .run |> live 0)).tally (0 : Fin 20) 1 64, ⟨by decide +kernel, by decide +kernel, rfl, rfl, by decide +kernel, by decide +kernel⟩⟩,
    ⟨st (on .run |> live 0), 0, whole (List.replicate 60 0), ((on .run |> live 0)).tally (0 : Fin 20) 1 64, ⟨by decide +kernel, by decide +kernel, rfl, rfl, by decide +kernel, by decide +kernel, by decide +kernel, by decide +kernel⟩⟩,
    ⟨st (on .run |> live 19), 19, List.replicate 64 0, 15, ((on .run |> live 19)).mkFrame (19 : Fin 20) (List.replicate 64 0 ++ [0, 0, 0, 0]) 0 1 (((on .run |> live 19)).rxStamp (19 : Fin 20) 64 (15 : Fin 16)), by decide +kernel⟩,
    ⟨st (on .run |> pts 19 fun m => { m with holdEnd := [(7, 0)] }), 19, 7, 0, by decide +kernel⟩,
    ⟨st (on .run |> rw (MAC_PAUSE_WDOG 19) 0 |> pts 19 fun m => { m with holdStart := [(7, 0)] }), 19, 7, 0, by decide +kernel⟩,
    ⟨st (on .run |> pts 19 fun m => { m with ignoreEnd := [(7, 0)] }), 19, 7, 0, by decide +kernel⟩,
    ⟨st (loaded 19), 19, (((((loaded 19)).gateCatch (19 : Fin 22)).claim (19 : Fin 22)).credits (19 : Fin 22)).each (List.range 8) (fun d q => d.dropAged (19 : Fin 22) q), ((((loaded 19)).gateCatch (19 : Fin 22)).claim (19 : Fin 22)).credits (19 : Fin 22), 7, queued .pool, [], ⟨by decide +kernel, rfl, by decide +kernel, by decide +kernel, rfl, by decide +kernel, by decide +kernel, by decide +kernel, by decide +kernel, by decide +kernel⟩⟩,
    ⟨st (on .run |> sws fun x => { x with q := [(167, [sampledIn])] }), 20, ((((on .run |> sws fun x => { x with q := [(167, [sampledIn])] })).credits (20 : Fin 22)).setPort (20 : Fin 22) (fun m => { m with sending := none })).each (List.range 8) (fun d q => d.dropAged (20 : Fin 22) q), 7, sampledIn, [], Sending.mk sampledIn 0 20 (List.replicate 64 0) false false none false false, ⟨by decide +kernel, by decide +kernel, rfl, by decide +kernel, by decide +kernel, by decide +kernel, by decide +kernel, by decide +kernel⟩⟩,
    ⟨st (on .run |> rw (MAC_MON_CFG 19) 0 |> pts 19 fun m => { m with sending := some onWire }), 19, onWire, by decide +kernel⟩,
    ⟨st (on .run |> tbs (fun t => { t with now := 1000 }) |> pts 19 fun m => { m with intended := [⟨some 0, none, 0, none⟩] }), 19, ⟨some 0, none, 0, none⟩, by decide +kernel⟩,
    ⟨st (on .run), 0, ⟨true, true, true, false, false, 2⟩, by decide +kernel⟩,
    ⟨st (on .run |> live 19 |> pts 19 fun m => { m with pdelay := [⟨[], 0, 0⟩] }), 19, ⟨[], 0, 0⟩, [], by decide +kernel⟩⟩

/-- The hypotheses of each clause can be met. -/
theorem meets_PortManagementComplete :
    (∃ (s : State), ∃ (m : Fin 2), ∃ (p : Fin 20), ∃ v, s.dev.hostUp = true ∧ s.dev.f (MAC_LINK_CFG p) 1 0 = 0 ∧ s.dev.f (MAC_LINK_CFG p) 6 6 = m.val ∧ (s.dev.port p).polled = none ∧ tget MdioOp.idle s.dev.mdio m = .idle ∧ s.dev.b (MAC_LINK_CFG p) 12 = false ∧ v = w32 (1 + 4 * s.dev.f (MAC_LINK_CFG p) 11 7 + 128)) ∧
    (∃ (s : State), ∃ (m : Fin 2), ∃ (p : Fin 20), tget MdioOp.idle s.dev.mdio m = .poll p none ∧ s.dev.f (MAC_LINK_CFG p) 1 0 = 0) ∧
    (∃ (s : State), ∃ who, ∃ (m : Fin 2), ∃ v, ∃ h, s.dev.reaches (MAC_MDIO_CMD m) ∧ fld v 1 0 = 0 ∧ tget MdioOp.idle s.dev.mdio m = .idle ∧ (h = true → isHost who = true)) ∧
    (∃ (s : State), ∃ who, ∃ (m : Fin 2), ∃ v, ∃ h, s.dev.reaches (MAC_MDIO_CMD m) ∧ fld v 1 0 = 1 ∧ tget MdioOp.idle s.dev.mdio m = .idle ∧ (h = true → isHost who = true)) ∧
    (∃ (s : State), ∃ who, ∃ (m : Fin 2), ∃ v, ∃ h, s.dev.reaches (MAC_MDIO_CMD m) ∧ fld v 1 0 = 2 ∧ tget MdioOp.idle s.dev.mdio m = .idle ∧ (h = true → isHost who = true)) ∧
    (∃ (s : State), ∃ who, ∃ (m : Fin 2), ∃ v, ∃ h, s.dev.reaches (MAC_MDIO_CMD m) ∧ fld v 1 0 = 3 ∧ tget MdioOp.idle s.dev.mdio m = .idle ∧ (h = true → isHost who = true)) ∧
    (∃ (s : State), ∃ (m : Fin 2), ∃ v, tget MdioOp.idle s.dev.mdio m = .cmd v ∧ fld v 1 0 % 2 = 1) ∧
    (∃ (s : State), ∃ (m : Fin 2), ∃ v, tget MdioOp.idle s.dev.mdio m = .cmd v ∧ fld v 1 0 % 2 = 0) ∧
    (∃ (s : State), ∃ (p : Fin 20), ∃ v, s.dev.reaches (MAC_TALLY_CLR p) ∧ bitOf v 0 = true) ∧
    (∃ (s : State), ∃ (p : Fin 20), ∃ (i : Fin 48), s.dev.reaches (MAC_TALLY p i 0)) :=
  ⟨⟨st (on .run |> rw (MAC_LINK_CFG 19) 0x640040), 1, 19, 129, by decide +kernel⟩,
    ⟨st ({ on .run |> rw (MAC_LINK_CFG 19) 0x640040 with mdio := [(1, .poll 19 none)] }), 1, 19, by decide +kernel⟩,
    ⟨st (on .run), .pcie, 1, 0, true, by decide +kernel⟩,
    ⟨st (on .run), .pcie, 1, 1, true, by decide +kernel⟩,
    ⟨st (on .run), .pcie, 1, 2, true, by decide +kernel⟩,
    ⟨st (on .run), .pcie, 1, 3, true, by decide +kernel⟩,
    ⟨st ({ on .run with mdio := [(1, .cmd 3)] }), 1, 3, by decide +kernel⟩,
    ⟨st ({ on .run with mdio := [(1, .cmd 2)] }), 1, 2, by decide +kernel⟩,
    ⟨st (on .run), 19, 1, by decide +kernel⟩,
    ⟨st (on .run), 19, 47, by decide +kernel⟩⟩

/-- The hypotheses of each clause can be met. -/
theorem meets_SwitchComplete :
    (∃ (s : State), ∃ mac, ∃ vid, ∃ x, s.dev.reaches SWC_FDB_CMD ∧ mac = (s.dev.r (SWC_FDB_ARG 0)).toNat + 2 ^ 32 * s.dev.f (SWC_FDB_ARG 1) 15 0 ∧ vid = s.dev.f (SWC_FDB_ARG 1) 27 16 ∧ s.dev.fdbFind mac vid = some x) ∧
    (∃ (s : State), ∃ mac, ∃ vid, ∃ i, ∃ (e : FdbEntry), s.dev.reaches SWC_FDB_CMD ∧ mac = (s.dev.r (SWC_FDB_ARG 0)).toNat + 2 ^ 32 * s.dev.f (SWC_FDB_ARG 1) 15 0 ∧ vid = s.dev.f (SWC_FDB_ARG 1) 27 16 ∧ s.dev.fdbFind mac vid = none ∧ s.dev.fdbRoom mac vid = some i ∧ e = { mac := mac, vid := vid, ports := s.dev.f (SWC_FDB_ARG 2) 21 0, static := true, age := s.dev.tb.now }) ∧
    (∃ (s : State), ∃ mac, ∃ vid, ∃ x, s.dev.reaches SWC_FDB_CMD ∧ mac = (s.dev.r (SWC_FDB_ARG 0)).toNat + 2 ^ 32 * s.dev.f (SWC_FDB_ARG 1) 15 0 ∧ vid = s.dev.f (SWC_FDB_ARG 1) 27 16 ∧ s.dev.fdbFind mac vid = some x) ∧
    (∃ (s : State), s.dev.reaches SWC_FDB_CMD) ∧
    (∃ (s : State), ∃ i, ∃ e, s.dev.reaches SWC_FDB_CMD ∧ i = (s.dev.r (SWC_FDB_ARG 0)).toNat ∧ i < 16384 ∧ tfind s.dev.swc.fdb i = some e) ∧
    (∃ (s : State), ∃ (i : Fin 16384), ∃ e, tfind s.dev.swc.fdb i = some e ∧ s.dev.fdbAged e = true) ∧
    (∃ (s : State), ∃ (p : Fin 20), ∃ v, s.dev.reaches (SWC_GATE_CMD p) ∧ bitOf v 0 = true ∧ bitOf v 1 = false) ∧
    (∃ (s : State), ∃ (p : Fin 20), ∃ v, s.dev.reaches (SWC_GATE_CMD p) ∧ bitOf v 1 = true ∧ bitOf v 0 = false) ∧
    (∃ (s : State), ∃ (p : Fin 20), ∃ l, ∃ t0, (s.dev.gatep p).admin = some l ∧ l.wave = false ∧ (s.dev.gatep p).startAt = some t0 ∧ reached s.dev.tb.st t0 = true) ∧
    (∃ (s : State), ∃ (p : Fin 20), ∃ l, ∃ t0, (s.dev.gatep p).admin = some l ∧ l.wave = true ∧ s.dev.waveReached l.treadle l.base = true ∧ t0 = s.dev.tb.st) ∧
    (∃ (s : State), ∃ (p : Fin 20), ∃ l, ∃ i, (s.dev.gatep p).oper = some l ∧ l.wave = false ∧ (s.dev.gatep p).gap = false ∧ i = s.dev.f (SWC_GATE_STAT p) 9 2 - l.start ∧ s.dev.gateDur p l i ≤ (s.dev.tb.st - (s.dev.gatep p).entrySt).toNat ∧ (s.dev.gateSpan p l i).2 < l.cycle) ∧
    (∃ (s : State), ∃ (p : Fin 22), ∃ (q : Fin 8), ∃ near, ∃ e, ∃ rest, ∃ c, s.dev.boltHead p q = some (near, e, rest) ∧ s.dev.fillDue p q = some c ∧ s.dev.engineWaits = false ∧ s.dev.hostWaits = false ∧ s.dev.keyRetired (keyExt + s.dev.boltOffset e.cell) = false) ∧
    (∃ (s : State), ∃ (p : Fin 20), ∃ t0, tfind s.dev.swc.differ p = some t0 ∧ t0 + 10000 < s.dev.tb.now ∧ s.dev.b (SWC_PORT_STAT p) 2 = false) :=
  ⟨⟨st (on .run |> sws fun x => { x with fdb := [(16383, ⟨0, 0, 1, true, 0⟩)] }), 0, 0, (16383, ⟨0, 0, 1, true, 0⟩), by decide +kernel⟩,
    ⟨st (on .run), 0, 0, 4 * (Config.fdbHash 0 0).toNat + 0, ⟨0, 0, 0, true, 0⟩, ⟨by decide +kernel, by decide +kernel, by decide +kernel, by decide +kernel, rfl, rfl⟩⟩,
    ⟨st (on .run |> sws fun x => { x with fdb := [(16383, ⟨0, 0, 1, true, 0⟩)] }), 0, 0, (16383, ⟨0, 0, 1, true, 0⟩), by decide +kernel⟩,
    ⟨st (on .run), by decide +kernel⟩,
    ⟨st (on .run |> rw (SWC_FDB_ARG 0) 16383 |> sws fun x => { x with fdb := [(16383, ⟨0, 0, 1, true, 0⟩)] }), 16383, ⟨0, 0, 1, true, 0⟩, by decide +kernel⟩,
    ⟨st (on .run |> tbs (fun t => { t with now := 300000000001 }) |> sws fun x => { x with fdb := [(16383, ⟨0, 0, 1, false, 0⟩)] }), 16383, ⟨0, 0, 1, false, 0⟩, by decide +kernel⟩,
    ⟨st (on .run), 19, 1, by decide +kernel⟩,
    ⟨st (on .run), 19, 2, by decide +kernel⟩,
    ⟨st (on .run |> gts 19 fun g => { g with admin := some (glist false), startAt := some 0 }), 19, glist false, 0, by decide +kernel⟩,
    ⟨st (on .run |> gts 19 fun g => { g with admin := some (glist true) }), 19, glist true, 0, by decide +kernel⟩,
    ⟨st (on .run |> tbs (fun t => { t with st := 1000 }) |> rw (SWC_GATE_TAB 19 0 1) 1000 |> gts 19 fun g => { g with oper := some { glist false with len := 2 } }), 19, { glist false with len := 2 }, 0, by decide +kernel⟩,
    ⟨st (on .run |> rw (SWC_Q_MODE 19 7) 0x10000 |> sws fun x => { x with q := [(159, [queued .bolt])] }), 19, 7, [], queued .bolt, [], .reserve, by decide +kernel⟩,
    ⟨st (on .run |> tbs (fun t => { t with now := 10001 }) |> sws fun x => { x with differ := [(19, 0)] }), 19, 0, by decide +kernel⟩⟩

/-- The hypotheses of each clause can be met. -/
theorem meets_DevicePairComplete :
    (∃ (s : State), ∃ since, s.dev.sinceSlot s.dev.ownSlots = some since ∧ s.dev.paired = true ∧ s.dev.modeIn [.stop, .run, .hold, .spare, .safe] = true ∧ since < 125 ∧ s.dev.red.sentFor ≠ some (s.dev.slotBoundary since)) ∧
    (∃ (s : State), ∃ (msg : List Byte), ∃ since, msg.length = 24 ∧ s.dev.paired = true ∧ s.dev.b RED_HB_CFG 22 = true ∧ leAt msg 20 4 = (crc32 (msg.take 20)).toNat ∧ fld (w32 (leAt msg 0 4)) 18 16 = s.dev.f RED_CTRL 4 2 ∧ s.dev.sinceSlot s.dev.peerSlots = some since ∧ since ≤ s.dev.f RED_DET_CFG 27 16 ∧ s.dev.mode ≠ .spare) ∧
    (∃ (s : State), ∃ (msg : List Byte), msg.length = 24 ∧ s.dev.paired = true ∧ s.dev.b RED_HB_CFG 21 = true ∧ s.dev.b RED_HB_CFG 22 = true ∧ leAt msg 20 4 ≠ (crc32 (msg.take 20)).toNat) ∧
    (∃ (s : State), ∃ since, s.dev.sinceSlot s.dev.peerSlots = some since ∧ s.dev.paired = true ∧ s.dev.f RED_DET_CFG 27 16 ≤ since ∧ s.dev.red.checkedFor ≠ some (s.dev.slotBoundary since) ∧ s.dev.mode ≠ .spare) ∧
    (∃ (s : State), ∃ v, s.dev.reaches RED_CMD ∧ fld v 15 8 = 0xA5 ∧ bitOf v 0 = true ∧ bitOf v 1 = false ∧ s.dev.mode = .spare) ∧
    (∃ (s : State), ∃ v, s.dev.reaches RED_CMD ∧ fld v 15 8 = 0xA5 ∧ bitOf v 1 = true ∧ bitOf v 0 = false ∧ s.dev.hbState = 1) ∧
    (∃ (s : State), s.dev.mode = .spare) ∧
    (∃ (s : State), ∃ (pack : BitVec 16), ∃ (v : EventIn), s.dev.mode = .spare ∧ s.dev.bookHome v.chan.val pack.toNat = true) ∧
    (∃ (s : State), ∃ (c : Fin 512), ∃ (pack : BitVec 16), s.dev.mode = .spare ∧ s.dev.bookHome c.val pack.toNat = true) ∧
    (∃ (s : State), ∃ t0, s.dev.red.differ = some t0 ∧ t0 + 10000 < s.dev.tb.now ∧ s.dev.b RED_STAT 1 = false) :=
  ⟨⟨st (on .run |> rw RED_CTRL 1 |> tbs fun t => { t with st := 249 }), 124, by decide +kernel⟩,
    ⟨st (on .run |> rw RED_CTRL 1 |> tbs fun t => { t with st := 1250 }), beat 7, 1000, by decide +kernel⟩,
    ⟨st (on .run |> rw RED_CTRL 1), List.replicate 24 0, by decide +kernel⟩,
    ⟨st (on .run |> rw RED_CTRL 1 |> tbs fun t => { t with st := 1250 }), 1000, by decide +kernel⟩,
    ⟨st (on .spare), 0xA501, by decide +kernel⟩,
    ⟨st (on .run |> rw RED_CTRL 1), 0xA502, by decide +kernel⟩,
    ⟨st (on .spare), by decide +kernel⟩,
    ⟨st (on .spare |> ch0 .armed), 0, ⟨0, 0, 0, 0, 0, 0, 0, 0⟩, by decide +kernel⟩,
    ⟨st (on .spare |> ch0 .armed), 0, 0, by decide +kernel⟩,
    ⟨st (on .run |> tbs (fun t => { t with now := 10001 }) |> rds fun r => { r with differ := some 0 }), 0, by decide +kernel⟩⟩

/-- The hypotheses of each clause can be met. -/
theorem meets_RingRoundsComplete :
    (∃ (s : State), ∃ v, s.dev.reaches SLV_CTRL ∧ bitOf v 0 = true ∧ s.dev.b SLV_CTRL 0 = false) ∧
    (∃ (s : State), ∃ v, s.dev.reaches SLV_CTRL ∧ bitOf v 0 = false ∧ s.dev.b SLV_CTRL 0 = true) ∧
    (∃ (s : State), s.dev.ringOn = true ∧ (s.dev.slv.state = .sync ∨ s.dev.slv.state = .coldstart ∨ s.dev.slv.state = .passive) ∧ reached s.dev.tb.st (s.dev.slv.grid + 10000) = true) ∧
    (∃ (s : State), ∃ (k : Fin 80), s.dev.ringOn = true ∧ s.dev.ownsSlot k = true ∧ s.dev.slv.inserted.contains k.val = false ∧ (s.dev.tb.st - s.dev.slotOpen k).toNat ≤ 3 ∧ s.dev.guardian k = true) ∧
    (∃ (s : State), ∃ (k : Fin 80), s.dev.ringOn = true ∧ s.dev.ownsSlot k = true ∧ s.dev.slv.inserted.contains k.val = false ∧ (s.dev.tb.st - s.dev.slotOpen k).toNat < 125 ∧ s.dev.guardian k = false) ∧
    (∃ (s : State), ∃ (b : List Byte), b.length = 152 ∧ s.dev.ringOn = true ∧ s.dev.slv.state ≠ .dupId ∧ s.dev.b SLV_STAT (12 + if s.dev.b SLV_STAT 9 then 0 else 1) = false ∧ leAt b 148 4 ≠ (crc32 (b.take 148)).toNat) ∧
    (∃ (s : State), ∃ (k : Fin 80), ∃ (b : List Byte), ∃ x, b.length = 152 ∧ s.dev.ringOn = true ∧ s.dev.b SLV_STAT (12 + if s.dev.b SLV_STAT 9 then 0 else 1) = false ∧ x = s.dev.relay k b ∧ (s.dev.slv.state = .sync ∨ s.dev.slv.state = .integrating ∨ s.dev.slv.state = .passive) ∧ leAt b 148 4 = (crc32 (b.take 148)).toNat ∧ fld (w32 (leAt b 0 4)) 10 8 ≠ s.dev.nodeId ∧ s.dev.ownsSlot k = false ∧ x.slotCheck k b = none) ∧
    (∃ (s : State), s.dev.ringOn = true ∧ s.dev.slv.state = .listen ∧ s.dev.b SLV_CTRL 1 = true ∧ s.dev.slv.timer + s.dev.listenTime ≤ s.dev.tb.now) ∧
    (∃ (s : State), s.dev.ringOn = true ∧ s.dev.slv.state = .coldstart ∧ 4 ≤ s.dev.slv.coldRounds) ∧
    (∃ (s : State), s.dev.ringOn = true ∧ s.dev.leads = false ∧ s.dev.slv.state = .sync ∧ s.dev.slv.timer + 20000 ≤ s.dev.tb.now ∧ s.dev.tb.now < s.dev.slv.timer + s.dev.listenTime) :=
  ⟨⟨st (on .run), 1, by decide +kernel⟩,
    ⟨st (on .run |> rw SLV_CTRL 1), 0, by decide +kernel⟩,
    ⟨st (on .run |> tbs (fun t => { t with st := 10000 }) |> rgs fun r => { r with state := .sync }), by decide +kernel⟩,
    ⟨st (on .run |> tbs (fun t => { t with st := 9878 }) |> rw SLV_STAT 0x400 |> rw (SLV_LOOM 79) 8 |> rgs fun r => { r with state := .sync }), 79, by decide +kernel⟩,
    ⟨st (on .run |> tbs (fun t => { t with st := 9999 }) |> rw (SLV_LOOM 79) 8 |> rgs fun r => { r with state := .sync }), 79, by decide +kernel⟩,
    ⟨st (on .run |> rgs fun r => { r with state := .sync }), slotBytes 0 (crc32 (slotBody 0) + 1), ⟨by decide +kernel, by decide +kernel, by decide +kernel, by decide +kernel, slot_bad 0⟩⟩,
    ⟨st (on .run |> rgs fun r => { r with state := .sync, follow := 3 }), 79, slotBytes 0x034F (crc32 (slotBody 0x034F)), ((on .run |> rgs fun r => { r with state := .sync, follow := 3 })).relay (79 : Fin 80) (slotBytes 0x034F (crc32 (slotBody 0x034F))), ⟨by decide +kernel, by decide +kernel, by decide +kernel, rfl, by decide +kernel, slot_good 0x034F, by decide +kernel, by decide +kernel, by decide +kernel⟩⟩,
    ⟨st (on .run |> rw SLV_CTRL 3 |> tbs (fun t => { t with now := 20000 }) |> rgs fun r => { r with state := .listen }), by decide +kernel⟩,
    ⟨st (on .run |> rgs fun r => { r with state := .coldstart, coldRounds := 4 }), by decide +kernel⟩,
    ⟨st (on .run |> rw SLV_NODE_CFG 1 |> tbs (fun t => { t with now := 20000 }) |> rgs fun r => { r with state := .sync, noTime := 2 }), by decide +kernel⟩⟩

/-- The hypotheses of each clause can be met. -/
theorem meets_RingLoopsComplete :
    (∃ (s : State), s.dev.ringOn = true ∧ s.dev.b SLV_STAT 9 = false ∧ s.dev.leads = false) ∧
    (∃ (s : State), s.dev.ringOn = true ∧ s.dev.b SLV_STAT 8 = false ∧ s.dev.leads = false) ∧
    (∃ (s : State), ∃ (laneA : Bool), s.dev.ringOn = true ∧ s.dev.b SLV_STAT (if laneA then 8 else 9) = true ∧ (if laneA then s.dev.slv.heldA else s.dev.slv.heldB) = false) ∧
    (∃ (s : State), ∃ v, s.dev.reaches SLV_CMD ∧ fld v 15 8 = 0xA5 ∧ bitOf v 0 = true ∧ s.dev.leads = true ∧ s.dev.b SLV_STAT 7 = true ∧ s.dev.b SLV_STAT 8 = false ∧ s.dev.b SLV_STAT 9 = false) ∧
    (∃ (s : State), s.dev.ringOn = true ∧ s.dev.slv.closeRound = some s.dev.roundNo) ∧
    (∃ (s : State), 2 ≤ s.dev.slv.differRounds ∧ s.dev.b SLV_STAT 11 = false) :=
  ⟨⟨st (on .run |> rgs fun r => { r with state := .sync }), by decide +kernel⟩,
    ⟨st (on .run |> rgs fun r => { r with state := .sync }), by decide +kernel⟩,
    ⟨st (on .run |> rw SLV_STAT 0x100 |> rgs fun r => { r with state := .sync }), true, by decide +kernel⟩,
    ⟨st (on .run |> rw SLV_STAT 0x88), 0xA501, by decide +kernel⟩,
    ⟨st (on .run |> rw SLV_ROUND 65535 |> rgs fun r => { r with state := .sync, closeRound := some 65535 }), by decide +kernel⟩,
    ⟨st (on .run |> rgs fun r => { r with differRounds := 2 }), by decide +kernel⟩⟩

/-- The hypotheses of each clause can be met. -/
theorem meets_MemoryComplete :
    (∃ a, PortAccess.wf a = true ∧ a.eng = none ∧ a.write = false ∧ a.atomic = none ∧ a.ecc = .clean) ∧
    (∃ (s : State), ∃ (b : Fin 64), ∃ a, PortAccess.wf a = true ∧ a.eng = none ∧ a.write = true ∧ a.atomic = none ∧ a.ecc = .clean ∧ s.dev.bankRetired b = false) ∧
    (∃ (s : State), ∃ (b : Fin 64), ∃ a, ∃ op, PortAccess.wf a = true ∧ a.eng = none ∧ a.atomic = some op ∧ a.ecc = .clean ∧ s.dev.bankRetired b = false) ∧
    (∃ (s : State), ∃ (b : Fin 64), ∃ a, ∃ e, ∃ f, ∃ g, PortAccess.wf a = true ∧ a.eng = some e ∧ a.write = false ∧ a.atomic = none ∧ a.ecc = .clean ∧ s.dev.bankRetired b = false ∧ s.dev.servedOp b 0 a = some f ∧ g = (fun (o : FarOp) => { o with arrived := some (BitVec.ofNat 64 (leVal (s.dev.mrd (keyBank b + a.addr) a.size)), false) })) ∧
    (∃ (s : State), ∃ (b : Fin 64), ∃ a, ∃ c, PortAccess.wf a = true ∧ PortAccess.wf c = true ∧ a.eng = none ∧ c.eng = none ∧ a.write = true ∧ c.write = true ∧ a.atomic = none ∧ c.atomic = none ∧ a.ecc = .clean ∧ c.ecc = .clean ∧ s.dev.bankRetired b = false ∧ bytesMeet a c = true) ∧
    (∃ (s : State), ∃ (b : Fin 64), ∃ x, ∃ l, s.dev.ordBuf b = x :: l ∧ x.arrival + 256 ≤ s.dev.tb.now) ∧
    (∃ (s : State), ∃ n, n = (s.dev.tb.now - s.dev.memb.decayAt) / s.dev.decayTime ∧ 0 < n) ∧
    (∃ (s : State), (s.dev.tb.now - s.dev.memb.decayAt) / s.dev.decayTime = 0) ∧
    (∃ (s : State), ∃ (b : Fin 64), s.dev.hostUp = true ∧ s.dev.b MEM_CTRL 0 = true ∧ s.dev.bankRetired b = false ∧ s.dev.memb.scrubDone.contains b.val = false ∧ s.dev.passDue s.dev.memb.scrubAt s.dev.scrubTime 16384 (tget 0 s.dev.memb.scrubRow b) = true ∧ tget 0 s.dev.memb.scrubRow b + 1 < 16384) ∧
    (∃ (s : State), ∃ (a : Nat), s.dev.hostUp = true ∧ s.dev.b XMC_STAT 0 = true ∧ s.dev.extBytes ≠ 0 ∧ s.dev.engineWaits = false ∧ s.dev.hostWaits = false ∧ s.dev.anyFill = false ∧ s.dev.passDue s.dev.memb.xmcAt s.dev.xmcTime s.dev.extBytes s.dev.memb.xmcPos = true ∧ a = (s.dev.memb.xmcPos + 16) % s.dev.extBytes ∧ a ≠ 0) ∧
    (∃ (s : State), s.dev.hostUp = true ∧ s.dev.b XMC_STAT 0 = true ∧ s.dev.memb.refAt + s.dev.refreshTime ≤ s.dev.tb.now) ∧
    (∃ (s : State), ∃ (r : Fin 254), s.dev.b (MEM_FC_RES r) 5 ≠ s.dev.b (MEM_FC_RES r) 6 ∧ tget 0 s.dev.memb.permAt r + 10000 < s.dev.tb.now) ∧
    (∃ (s : State), (∀ i, i < 254 → s.dev.b (MEM_FC_RES i) 5 = s.dev.b (MEM_FC_RES i) 6)) :=
  ⟨⟨portAcc false [] none, by decide +kernel⟩,
    ⟨st (on .run), 63, portAcc true [1, 2, 3, 4] none, by decide +kernel⟩,
    ⟨st (on .run), 63, portAcc false [1, 2, 3, 4] (some .add), .add, by decide +kernel⟩,
    ⟨st (on .run |> egs 47 fun x => { x with far := [farAcc .bank false (keyBank 63 + 262140)] }), 63, { portAcc false [] none with eng := some 47 }, 47, farAcc .bank false (keyBank 63 + 262140), (fun (o : FarOp) => { o with arrived := some (BitVec.ofNat 64 (leVal (((on .run |> egs 47 fun x => { x with far := [farAcc .bank false (keyBank 63 + 262140)] })).mrd (keyBank (63 : Fin 64) + ({ portAcc false [] none with eng := some 47 } : PortAccess).addr) ({ portAcc false [] none with eng := some 47 } : PortAccess).size)), false) }), ⟨by decide +kernel, by decide +kernel, by decide +kernel, by decide +kernel, by decide +kernel, by decide +kernel, by decide +kernel, rfl⟩⟩,
    ⟨st (on .run), 63, portAcc true [1, 2, 3, 4] none, portAcc true [5, 6, 7, 8] none, by decide +kernel⟩,
    ⟨st (on .run |> tbs (fun t => { t with now := 256 }) |> mbs fun m => { m with ord := [(63, [ordAt 0])] }), 63, ordAt 0, [], by decide +kernel⟩,
    ⟨st (on .run |> tbs (fun t => { t with now := 10 ^ 15 })), (10 ^ 15) / ((on .run |> tbs (fun t => { t with now := 10 ^ 15 }))).decayTime, by decide +kernel⟩,
    ⟨st (on .run), by decide +kernel⟩,
    ⟨st (on .run |> mbs fun m => { m with scrubRow := [(63, 16382)] }), 63, by decide +kernel⟩,
    ⟨st (on .run |> rw XMC_STAT 1 |> mbs fun m => { m with extMib := 64 }), 16, by decide +kernel⟩,
    ⟨st (on .run |> rw XMC_STAT 1 |> tbs (fun t => { t with now := 10 ^ 9 })), by decide +kernel⟩,
    ⟨st (on .run |> rw (MEM_FC_RES 253) 32 |> tbs (fun t => { t with now := 10001 })), 253, by decide +kernel⟩,
    ⟨st (on .run), by decide +kernel⟩⟩

/-- The hypotheses of each clause can be met. -/
theorem meets_EngineControlComplete :
    (∃ (s : State), ∃ (e : Fin 96), ∃ f, s.dev.farHead e .bank = some f ∧ f.store = false ∧ f.ord = false ∧ f.arrived = none ∧ f.atomic = none ∧ f.copy = none ∧ s.dev.keyRetired f.addr = false ∧ (s.dev.act f.key).eng = e.val) ∧
    (∃ (s : State), ∃ (e : Fin 96), ∃ f, s.dev.farHead e .bank = some f ∧ f.store = true ∧ s.dev.keyRetired f.addr = false) ∧
    (∃ (s : State), ∃ (e : Fin 96), ∃ f, s.dev.farHead e .dev = some f ∧ f.store = true) ∧
    (∃ (s : State), ∃ (e : Fin 96), ∃ v, s.dev.reaches (ENG_CTRL e) ∧ bitOf v 8 = false) ∧
    (∃ (s : State), ∃ (e : Fin 96), ∃ v, s.dev.reaches (ENG_CTRL e) ∧ bitOf v 8 = false ∧ bitOf v 1 = true) ∧
    (∃ (s : State), ∃ (e : Fin 96), s.dev.reaches (ENG_CTRL e) ∧ (s.dev.slotKeys e).isEmpty = true) ∧
    (∃ (s : State), ∃ (e : Fin 96), s.dev.reaches (ENG_CTRL e) ∧ (s.dev.eng e).retired = true) ∧
    (∃ (s : State), ∃ (e : Fin 96), ∃ v, s.dev.reaches (ENG_DBG_CTRL e) ∧ (s.dev.w (ENG_DBG_CTRL e) ((v ||| 1) &&& 6)).dbgOpen e = true ∧ s.dev.mode = .hold) ∧
    (∃ (s : State), ∃ (e : Fin 96), ∃ k, (s.dev.eng e).cur = some k ∧ (s.dev.eng e).stopped = false ∧ (s.dev.act k).st = .running ∧ s.dev.bpMatch e k = true ∧ s.dev.b (ENG_DBG_CTRL e) 2 = false) ∧
    (∃ (s : State), ∃ (e : Fin 96), s.dev.reaches (ENG_DBG_DATA e)) ∧
    (∃ (s : State), ∃ (e : Fin 96), ∃ k, s.dev.reaches (ENG_DBG_DATA e) ∧ s.dev.dbgOpen e = true ∧ s.dev.dbgKey e = some k ∧ s.dev.f (ENG_DBG_SEL e) 15 8 < 16) ∧
    (∃ (s : State), ∃ (addr : Nat), s.dev.memOpen = true ∧ addr < 0x600000 ∧ 0x8000 ≤ addr % 0x10000) :=
  ⟨⟨st (on .run |> egs 0 fun x => { x with far := [farAcc .bank false 0x1000000] }), 0, farAcc .bank false 0x1000000, by decide +kernel⟩,
    ⟨st (on .run |> egs 95 fun x => { x with far := [farAcc .bank true 0x1000000] }), 95, farAcc .bank true 0x1000000, by decide +kernel⟩,
    ⟨st (on .run |> egs 95 fun x => { x with far := [farAcc .dev true 0x1000000] }), 95, farAcc .dev true 0x1000000, by decide +kernel⟩,
    ⟨st (on .run), 95, 1, by decide +kernel⟩,
    ⟨st (on .run), 95, 3, by decide +kernel⟩,
    ⟨st (on .run), 95, by decide +kernel⟩,
    ⟨st (on .run |> egs 95 fun x => { x with retired := true }), 95, by decide +kernel⟩,
    ⟨st (on .hold |> rw (ENG_CTRL 95) 1), 95, 1, by decide +kernel⟩,
    ⟨st (on .run |> ch0 .running |> rw (ENG_DBG_CTRL 0) 2 |> rw (ENG_DBG_BP 0 3) 0x10000 |> egs 0 (fun x => { x with cur := some 0, stopped := false }) |> acs 0 fun a => { a with st := .running }), 0, 0, by decide +kernel⟩,
    ⟨st (on .run), 95, by decide +kernel⟩,
    ⟨st (on .hold |> ch0 .running |> rw (ENG_CTRL 0) 1 |> rw (ENG_DBG_SEL 0) 0xF00 |> egs 0 fun x => { x with slots := [(0, some 0)] }), 0, 0, by decide +kernel⟩,
    ⟨st (on .run), 0x5FFFFF, by decide +kernel⟩⟩

/-- The hypotheses of each clause can be met. -/
theorem meets_HostAccessesComplete :
    (∃ (s : State), ∃ who, ∃ (m : Fin 256), ∃ v, ∃ side, s.dev.reaches (MBX_SEND m) ∧ isHost who = true ∧ s.dev.hostSide m = some side ∧ s.dev.b (MBX_MSTAT m) 31 = true ∧ fld v 31 20 = s.dev.f (MBX_MSTAT m) 11 0 ∧ fld v 3 0 ≤ 8 ∧ s.dev.b (MBX_RXSTAT m (1 - side)) 0 = false) ∧
    (∃ (s : State), ∃ v, ∃ m, ∃ p, s.dev.reaches MBX_POP ∧ m = fld v 7 0 ∧ p = fld v 8 8 ∧ isHostParty (s.dev.r (MBX_PARTY m p)) = true ∧ s.dev.b (MBX_RXSTAT m p) 0 = true ∧ tfind s.dev.swc.fullAt (2 * m + p) ≠ some s.dev.tb.now) ∧
    (∃ (s : State), ∃ (w : HostWrite), s.dev.portUp w.port = true) ∧
    (∃ (s : State), ∃ p, ∃ rest, ∃ a, ∃ x, s.dev.posts .pcie = p :: rest ∧ s.dev.hostUp = true ∧ p.w.space = .bar0 ∧ p.w.port = .pcie ∧ hostTarget .pcie .bar0 p.w.addr = some (.bar0, a) ∧ p.w.be = 15 ∧ s.dev.hbr.ob = none ∧ x = (((s.dev.setPosts .pcie rest).setHbr (fun b => { b with fail := 0 })).regWrite .pcie (a / 4 * 4) p.w.data 0) ∧ x.hbr.fail = 0) ∧
    (∃ (s : State), ∃ i, ∃ (addr : Nat), ∃ a, s.dev.portUp i = true ∧ s.dev.postsWait i = false ∧ s.dev.b HBR_STAT (portIdx i) = false ∧ hostTarget i (match i with | .pcie => .bar0 | .lb => .lbTarget) addr = some (.bar0, a)) ∧
    (∃ (s : State), ∃ i, s.dev.portUp i = true ∧ s.dev.postsWait i = false) ∧
    (∃ (s : State), ∃ (addr : Nat), s.dev.portUp .lb = true ∧ s.dev.postsWait .lb = false ∧ s.dev.b HBR_CTRL 2 = true ∧ s.dev.hbr.sem = .free ∧ s.dev.f HBR_LOCK_CFG 15 0 ≠ 0 ∧ (hostExt .lbTarget addr && s.dev.engineWaits) = false) ∧
    (∃ (s : State), s.dev.hbr.sem = .lb ∧ s.dev.hbr.postLb = []) ∧
    (∃ (s : State), s.dev.hbr.sem ≠ .free ∧ s.dev.hbr.semSince + 1000 * s.dev.f HBR_LOCK_CFG 15 0 < s.dev.tb.now) ∧
    (∃ (s : State), s.dev.reaches HBR_SEM ∧ s.dev.hbr.sem = .free) ∧
    (∃ (s : State), s.dev.reaches HBR_SEM ∧ s.dev.hbr.sem ≠ .free) ∧
    (∃ (s : State), ∃ (e : Fin 96), ∃ v, s.dev.reaches HBR_SEM ∧ bitOf v 0 = true ∧ s.dev.hbr.sem = .engine e) :=
  ⟨⟨st (on .run |> box 255), .pcie, 255, 0x00100008, 0, by decide +kernel⟩,
    ⟨st (on .run |> box 255 |> rw (MBX_RXSTAT 255 0) 1), 255, 255, 0, by decide +kernel⟩,
    ⟨st (on .run), (postedAt 0).w, by decide +kernel⟩,
    ⟨st (on .run |> hbs fun b => { b with postPcie := [postedAt HBR_LB_CFG] }), postedAt HBR_LB_CFG, [], HBR_LB_CFG, ((((on .run |> hbs fun b => { b with postPcie := [postedAt HBR_LB_CFG] })).setPosts .pcie []).setHbr (fun b => { b with fail := 0 })).regWrite .pcie (HBR_LB_CFG / 4 * 4) 7 0, ⟨by decide +kernel, by decide +kernel, by decide +kernel, by decide +kernel, by decide +kernel, by decide +kernel, by decide +kernel, rfl, by decide +kernel⟩⟩,
    ⟨st (on .run), .lb, 0, 0, by decide +kernel⟩,
    ⟨st (on .run), .lb, by decide +kernel⟩,
    ⟨st (on .run |> rw HBR_CTRL 5), 0, by decide +kernel⟩,
    ⟨st (on .run |> hbs fun b => { b with sem := .lb }), by decide +kernel⟩,
    ⟨st (on .run |> tbs (fun t => { t with now := 10001 }) |> hbs fun b => { b with sem := .engine 95 }), by decide +kernel⟩,
    ⟨st (on .run), by decide +kernel⟩,
    ⟨st (on .run |> hbs fun b => { b with sem := .lb }), by decide +kernel⟩,
    ⟨st (on .run |> hbs fun b => { b with sem := .engine 95 }), 95, 1, by decide +kernel⟩⟩

/-- The hypotheses of each clause can be met. -/
theorem meets_BridgeWorkComplete :
    (∃ (s : State), s.dev.hostUp = true ∧ s.dev.postsWait .pcie = false ∧ s.dev.b HBR_CTRL 1 = true ∧ s.dev.hbr.ob = none) ∧
    (∃ (s : State), s.dev.hostUp = true ∧ s.dev.postsWait .pcie = true) ∧
    (∃ (s : State), ∃ o, s.dev.hbr.ob = some o ∧ o.onBus = false ∧ o.since + 10 * s.dev.f HBR_LB_CFG 7 0 ≤ s.dev.tb.now) ∧
    (∃ (s : State), ∃ o, s.dev.hbr.ob = some o ∧ o.write = true ∧ o.began + 1000 * s.dev.f HBR_LB_CFG 31 16 ≤ s.dev.tb.now) ∧
    (∃ (s : State), s.dev.hostUp = true ∧ s.dev.hbr.irqAt + s.dev.irqPeriod ≤ s.dev.tb.now) ∧
    (∃ (s : State), ∃ (r : Fin 4), s.dev.reaches (HBR_RING_TAIL (4 + r))) ∧
    (∃ (s : State), ∃ (r : Fin 4), ∃ desc, ∃ frame, txShape desc frame = true ∧ s.dev.hostUp = true ∧ s.dev.txWork (4 + r) = true ∧ (∀ i, i < r.val → s.dev.txWork (4 + i) = false)) ∧
    (∃ (s : State), ∃ f, ∃ rest, s.dev.fbrOn = true ∧ s.dev.hbr.fbrAt + 250 ≤ s.dev.tb.now ∧ s.dev.fbr = f :: rest ∧ s.dev.b (FBR_ROUTE f.route 0) 31 = false) ∧
    (∃ (s : State), ∃ f, ∃ rest, ∃ x, ∃ l, ∃ y, s.dev.fbrOn = true ∧ s.dev.hbr.fbrAt + 250 ≤ s.dev.tb.now ∧ s.dev.fbr = f :: rest ∧ s.dev.genOf 3 f.route = f.rgen ∧ s.dev.b (FBR_ROUTE f.route 0) 31 = true ∧ s.dev.f (FBR_ROUTE f.route 2) 1 0 = 1 ∧ y.b (FBR_ROUTE f.route 5) 25 = false ∧ x = { s.dev with fbr := rest, hbr := { s.dev.hbr with fbrAt := s.dev.fbrNext } } ∧ x.routeLayers f.route f = (l, y)) :=
  ⟨⟨st (on .run |> rw HBR_CTRL 3), by decide +kernel⟩,
    ⟨st (on .run |> hbs fun b => { b with postPcie := [postedAt 0] }), by decide +kernel⟩,
    ⟨st (on .run |> tbs (fun t => { t with now := 200 }) |> hbs fun b => { b with ob := some (outb false) }), outb false, by decide +kernel⟩,
    ⟨st (on .run |> tbs (fun t => { t with now := 100000 }) |> hbs fun b => { b with ob := some (outb true) }), outb true, by decide +kernel⟩,
    ⟨st (on .run |> tbs fun t => { t with now := 10000000 }), by decide +kernel⟩,
    ⟨st (on .run), 3, by decide +kernel⟩,
    ⟨st (on .run |> rw (HBR_RING_CFG 7) 0x23 |> rw (HBR_RING_TAIL 7) 1), 3, [0, 0, 1, 0], [0], by decide +kernel⟩,
    ⟨st ({ on .run |> rw FBR_CTRL 1 |> tbs fun t => { t with now := 250 } with fbr := [fsrc] }), fsrc, [], by decide +kernel⟩,
    ⟨st (bridged [fsrc]), fsrc, [], bridgedX, layers0.1, layers0.2, ⟨by decide +kernel, by decide +kernel, by decide +kernel, by decide +kernel, by decide +kernel, by decide +kernel, by decide +kernel, rfl, layers0_eq⟩⟩⟩

/-- The hypotheses of each clause can be met. -/
theorem meets_ShuttleInstructionsComplete :
    (∃ (s : State), ∃ (n : Fin 32), ∃ w, ∃ d, s.dev.shtAt n 0 w ∧ d = s.dev.shtTake n) ∧
    (∃ (s : State), ∃ (n : Fin 32), ∃ w, ∃ k, s.dev.shtAt n 1 w ∧ k = w.toNat / 32768) ∧
    (∃ (s : State), ∃ (n : Fin 32), ∃ pads, ∃ w, ∃ d, ∃ st, s.dev.shtAt n 2 w ∧ d = s.dev.shtTake n ∧ d.shtWaitOver n w.toNat pads none none = some st) ∧
    (∃ (s : State), ∃ (n : Fin 32), ∃ pads, ∃ w, ∃ d, s.dev.shtAt n 2 w ∧ d = s.dev.shtTake n ∧ d.shtWaitOver n w.toNat pads none none = none) ∧
    (∃ (s : State), ∃ (n : Fin 32), ∃ w, ∃ d, s.dev.shtAt n 3 w ∧ d = s.dev.shtTake n ∧ w.toNat.testBit 7 = false) ∧
    (∃ (s : State), ∃ (n : Fin 32), ∃ w, ∃ d, ∃ x, s.dev.shtAt n 4 w ∧ d = s.dev.shtTake n ∧ w.toNat.testBit 7 = false ∧ x = d.shtPutShift n w.toNat) ∧
    (∃ (s : State), ∃ (n : Fin 32), ∃ w, ∃ d, ∃ x, s.dev.shtAt n 5 w ∧ d = s.dev.shtTake n ∧ s.dev.f (SHT_WIN n) 10 8 ≠ 7 ∧ x = (d.shtPins n w.toNat).2) ∧
    (∃ (s : State), ∃ (n : Fin 32), ∃ w, s.dev.shtAt n 6 w) ∧
    (∃ (s : State), ∃ (n : Fin 32), ∃ w, ∃ d, s.dev.shtAt n 7 w ∧ d = s.dev.shtTake n ∧ w.toNat / 8192 = 1 ∧ w.toNat / 256 % 4 = 0) ∧
    (∃ (s : State), ∃ (n : Fin 32), ∃ w, ∃ d, s.dev.shtAt n 8 w ∧ d = s.dev.shtTake n ∧ (s.dev.shuttle n).up.length < 4) ∧
    (∃ (s : State), ∃ (n : Fin 32), ∃ w, ∃ v, ∃ rest, s.dev.shtAt n 9 w ∧ (s.dev.shuttle n).dn = v :: rest) ∧
    (∃ (s : State), ∃ (n : Fin 32), ∃ w, ∃ d, s.dev.shtAt n 10 w ∧ d = s.dev.shtTake n ∧ w.toNat.testBit 15 = false) :=
  ⟨⟨st (on .run |> due |> weave 31 0xFF00), 31, 0xFF00, ((on .run |> due |> weave 31 0xFF00)).shtTake (31 : Fin 32), ⟨by decide +kernel, rfl⟩⟩,
    ⟨st (on .run |> due |> weave 31 0x8001), 31, 0x8001, 1, by decide +kernel⟩,
    ⟨st (on .run |> due |> weave 31 2), 31, 0, 2, ((on .run |> due |> weave 31 2)).shtTake (31 : Fin 32), ⟨0, 0, 0⟩, ⟨by decide +kernel, rfl, rfl⟩⟩,
    ⟨st (on .run |> due |> weave 31 0x2002), 31, 0, 0x2002, ((on .run |> due |> weave 31 0x2002)).shtTake (31 : Fin 32), ⟨by decide +kernel, rfl, by decide +kernel⟩⟩,
    ⟨st (on .run |> due |> weave 31 3), 31, 3, ((on .run |> due |> weave 31 3)).shtTake (31 : Fin 32), ⟨by decide +kernel, rfl, by decide +kernel⟩⟩,
    ⟨st (on .run |> due |> weave 31 4), 31, 4, ((on .run |> due |> weave 31 4)).shtTake (31 : Fin 32), ((((on .run |> due |> weave 31 4)).shtTake (31 : Fin 32)).shtPutShift (31 : Fin 32) (4 : BitVec 16).toNat), ⟨by decide +kernel, rfl, by decide +kernel, rfl⟩⟩,
    ⟨st (on .run |> rw (SHT_WIN 31) 0x600 |> due |> weave 31 5), 31, 5, ((on .run |> rw (SHT_WIN 31) 0x600 |> due |> weave 31 5)).shtTake (31 : Fin 32), ((((on .run |> rw (SHT_WIN 31) 0x600 |> due |> weave 31 5)).shtTake (31 : Fin 32)).shtPins (31 : Fin 32) (5 : BitVec 16).toNat).2, ⟨by decide +kernel, rfl, by decide +kernel, rfl⟩⟩,
    ⟨st (on .run |> due |> weave 31 0xFF86), 31, 0xFF86, by decide +kernel⟩,
    ⟨st (on .run |> due |> weave 31 0x2007), 31, 0x2007, ((on .run |> due |> weave 31 0x2007)).shtTake (31 : Fin 32), ⟨by decide +kernel, rfl, by decide +kernel, by decide +kernel⟩⟩,
    ⟨st (on .run |> due |> weave 31 8), 31, 8, ((on .run |> due |> weave 31 8)).shtTake (31 : Fin 32), ⟨by decide +kernel, rfl, by decide +kernel⟩⟩,
    ⟨st (on .run |> due |> weave 31 9 |> shs 31 fun x => { x with dn := [7] }), 31, 9, 7, [], by decide +kernel⟩,
    ⟨st (on .run |> due |> weave 31 0x700A), 31, 0x700A, ((on .run |> due |> weave 31 0x700A)).shtTake (31 : Fin 32), ⟨by decide +kernel, rfl, by decide +kernel⟩⟩⟩

/-- The hypotheses of each clause can be met. -/
theorem meets_ShuttleTicksComplete :
    (∃ (s : State), ∃ (n : Fin 32), ∃ pads, ∃ back, ∃ st, ∃ d, (s.dev.shuttle n).state = .wait ∧ s.dev.shtTicks n = true ∧ s.dev.shtProgram n = true ∧ (s.dev.shuttle n).bellWait = none ∧ d = s.dev.shtTake n ∧ d.shtWaitOver n (s.dev.shuttle n).inst.toNat pads (d.shtEdge n back) (d.shtTrig n) = some st) ∧
    (∃ (s : State), ∃ (n : Fin 32), ∃ b, (s.dev.shuttle n).state = .wait ∧ s.dev.shtTicks n = true ∧ s.dev.shtProgram n = true ∧ (s.dev.shuttle n).bellWait = some b ∧ s.dev.b (SHT_BELL n) b = false) ∧
    (∃ (s : State), ∃ (n : Fin 32), (s.dev.shuttle n).state = .stall ∧ s.dev.shtTicks n = true ∧ s.dev.shtProgram n = true ∧ (s.dev.shuttle n).stall = some .stow ∧ (s.dev.shuttle n).up.length < 4) ∧
    (∃ (s : State), ∃ (n : Fin 32), (s.dev.shuttle n).state = .run ∧ s.dev.shtTicks n = true ∧ s.dev.shtProgram n = true ∧ shtIllegal (s.dev.shtFetched n) = true) ∧
    (∃ (s : State), ∃ (n : Fin 32), ∃ pads, ∃ w, ∃ x, (s.dev.shuttle n).inject = some w ∧ (s.dev.shuttle n).load = none ∧ s.dev.shtTicks n = true ∧ ((s.dev.shtTake n).setSht n (fun x => { x with inject := none })).shtInjected n w pads = (.next, x, true)) ∧
    (∃ (s : State), ∃ (n : Fin 32), ∃ w, (s.dev.shuttle n).inject = some w ∧ (s.dev.shuttle n).load = none ∧ s.dev.shtTicks n = true ∧ shtIllegal w = true) ∧
    (∃ (s : State), ∃ (n : Fin 32), ∃ pc, (s.dev.shuttle n).load = some pc ∧ s.dev.shtTicks n = true ∧ s.dev.b (SHT_CTRL n) 0 = true) :=
  ⟨⟨st (on .run |> due |> shs 31 fun x => { x with state := .wait, inst := 2 }), 31, 0, 0, ⟨0, 0, 0⟩, ((on .run |> due |> shs 31 fun x => { x with state := .wait, inst := 2 })).shtTake (31 : Fin 32), ⟨by decide +kernel, by decide +kernel, by decide +kernel, by decide +kernel, rfl, rfl⟩⟩,
    ⟨st (on .run |> due |> shs 31 fun x => { x with state := .wait, bellWait := some 7 }), 31, 7, by decide +kernel⟩,
    ⟨st (on .run |> due |> shs 31 fun x => { x with state := .stall, stall := some .stow, up := [(0, ⟨0, 0, 0⟩, 0), (0, ⟨0, 0, 0⟩, 1), (0, ⟨0, 0, 0⟩, 2)] }), 31, by decide +kernel⟩,
    ⟨st (on .run |> due |> weave 31 0xF), 31, by decide +kernel⟩,
    ⟨st (on .run |> due |> shs 31 fun x => { x with state := .run, inject := some 6 }), 31, 0, 6, (((((on .run |> due |> shs 31 fun x => { x with state := .run, inject := some 6 })).shtTake (31 : Fin 32)).setSht (31 : Fin 32) (fun x => { x with inject := none })).shtInjected (31 : Fin 32) 6 0).2.1, ⟨by decide +kernel, by decide +kernel, by decide +kernel, rfl⟩⟩,
    ⟨st (on .hold |> due |> shs 31 fun x => { x with state := .frozen, inject := some 0xF }), 31, 0xF, by decide +kernel⟩,
    ⟨st (on .hold |> rw (SHT_CTRL 31) 1 |> due |> shs 31 fun x => { x with state := .frozen, load := some 31 }), 31, 31, by decide +kernel⟩⟩

/-- The hypotheses of each clause can be met. -/
theorem meets_ShuttleControlComplete :
    (∃ (s : State), ∃ (n : Fin 32), ∃ w, ∃ st, ∃ seq, ∃ rest, ∃ c, (s.dev.shuttle n).up = (w, st, seq) :: rest ∧ s.dev.r (SHT_DEST n) ≠ 0 ∧ (s.dev.shuttle n).drainAt ≤ s.dev.tb.now ∧ s.dev.chanOf (s.dev.r (SHT_DEST n)) = some c) ∧
    (∃ (s : State), ∃ (n : Fin 32), ∃ w, ∃ st, ∃ seq, ∃ rest, s.dev.reaches (SHT_UPF n) ∧ s.dev.r (SHT_DEST n) = 0 ∧ (s.dev.shuttle n).up = (w, st, seq) :: rest) ∧
    (∃ (s : State), ∃ (n : Fin 32), s.dev.reaches (SHT_DNF n) ∧ (s.dev.shuttle n).dn.length < 4 ∧ (s.dev.shuttle n).dnEng.1 ≠ s.dev.tb.now) ∧
    (∃ (s : State), ∃ (n : Fin 32), s.dev.reaches (SHT_CTRL n) ∧ s.dev.b (SHT_CTRL n) 2 = false) ∧
    (∃ (s : State), ∃ (n : Fin 32), s.dev.reaches (SHT_CTRL n) ∧ s.dev.b (SHT_CTRL n) 1 = false) ∧
    (∃ (s : State), ∃ (n : Fin 32), ∃ v, s.dev.reaches (SHT_CTRL n) ∧ bitOf v 0 = true ∧ fld v 2 1 = 0 ∧ s.dev.b (SHT_CTRL n) 0 = false) ∧
    (∃ (s : State), ∃ (g : Fin 4), ∃ v, s.dev.reaches (SHT_GRP_CTRL g) ∧ bitOf v 8 = false ∧ bitOf v 9 = false) ∧
    (∃ (s : State), ∃ (g : Fin 4), ∃ v, s.dev.reaches (SHT_GRP_CTRL g) ∧ bitOf v 9 = true ∧ reached s.dev.tb.st (s.dev.r (SHT_GRP_AT g)) = false) ∧
    (∃ (s : State), ∃ (g : Fin 4), ∃ v, s.dev.reaches (SHT_GRP_CTRL g) ∧ bitOf v 8 = true ∧ bitOf v 9 = false) ∧
    (∃ (s : State), ∃ (g : Fin 4), ∃ (n : Fin 16), ∃ st, tfind s.dev.trd.trigDue g = some (n.val, st) ∧ (∀ i, i < 8 → s.dev.b (SHT_CTRL (8 * g + i)) 0 = false) ∧ s.dev.b (SHT_GRP_CFG g) 0 = false) ∧
    (∃ (s : State), ∃ (i : Fin 64), s.dev.pinDrive i = none ∧ tget 0 s.dev.pins.obsDue i = 0) :=
  ⟨⟨st (on .run |> ch0 .running |> rw (SHT_DEST 31) 0x01001000 |> shs 31 fun x => { x with up := [(7, ⟨0, 0, 0⟩, 0)] }), 31, 7, ⟨0, 0, 0⟩, 0, [], 0, by decide +kernel⟩,
    ⟨st (on .run |> shs 31 fun x => { x with up := [(7, ⟨0, 0, 0⟩, 0)] }), 31, 7, ⟨0, 0, 0⟩, 0, [], by decide +kernel⟩,
    ⟨st (on .run |> tbs (fun t => { t with now := 8 }) |> shs 31 fun x => { x with dn := [1, 2, 3] }), 31, by decide +kernel⟩,
    ⟨st (on .run), 31, by decide +kernel⟩,
    ⟨st (on .run), 31, by decide +kernel⟩,
    ⟨st (on .run), 31, 1, by decide +kernel⟩,
    ⟨st (on .run), 3, 0xFF, by decide +kernel⟩,
    ⟨st (on .run |> rw (SHT_GRP_AT 3) 100), 3, 0x3FF, by decide +kernel⟩,
    ⟨st (on .run), 3, 0x1FF, by decide +kernel⟩,
    ⟨st (on .run |> trds fun t => { t with trigDue := [(3, 15, ⟨0, 0, 0⟩)] }), 3, 15, ⟨0, 0, 0⟩, by decide +kernel⟩,
    ⟨st (on .run), 63, by decide +kernel⟩⟩

/-- The hypotheses of each clause can be met. -/
theorem meets_ZelekArithmeticComplete :
    (∃ (s : State), ∃ (e : Fin 96), ∃ k, ∃ z, s.dev.issues e k z ∧ z.op = 0x01) ∧
    (∃ (s : State), ∃ (e : Fin 96), ∃ k, ∃ z, s.dev.issues e k z ∧ z.op ∈ [0x10, 0x11, 0x12]) ∧
    (∃ (s : State), ∃ (e : Fin 96), ∃ k, ∃ z, s.dev.issues e k z ∧ z.op = 0x13) ∧
    (∃ (s : State), ∃ (e : Fin 96), ∃ k, ∃ z, s.dev.issues e k z ∧ z.op = 0x14) ∧
    (∃ (s : State), ∃ (e : Fin 96), ∃ k, ∃ z, s.dev.issues e k z ∧ z.op = 0x24) ∧
    (∃ (s : State), ∃ (e : Fin 96), ∃ k, ∃ z, s.dev.issues e k z ∧ z.op ∈ [0x30, 0x40, 0x50]) ∧
    (∃ (s : State), ∃ (e : Fin 96), ∃ k, ∃ z, s.dev.issues e k z ∧ z.op ∈ [0x31, 0x41, 0x51]) ∧
    (∃ (s : State), ∃ (e : Fin 96), ∃ k, ∃ z, s.dev.issues e k z ∧ z.op ∈ [0x32, 0x42, 0x52]) ∧
    (∃ (s : State), ∃ (e : Fin 96), ∃ k, ∃ z, s.dev.issues e k z ∧ z.op ∈ [0x33, 0x43, 0x53]) ∧
    (∃ (s : State), ∃ (e : Fin 96), ∃ k, ∃ z, ∃ x, s.dev.issues e k z ∧ z.op ∈ [0x37, 0x47, 0x57] ∧ subRes z.n ((s.dev.ctx k).rd z) (z.src2 (s.dev.ctx k)) 0 = x) ∧
    (∃ (s : State), ∃ (e : Fin 96), ∃ k, ∃ z, s.dev.issues e k z ∧ z.op = 0x39) :=
  ⟨⟨st (woven [0x01]), 0, 0, insn [0x01], by decide +kernel⟩,
    ⟨st (woven [0xF2, 0x12, 0xE0, 0x00, 0x00, 0x00, 0x00, 0x00, 0x00, 0x00, 0x80]), 0, 0, insn [0xF2, 0x12, 0xE0, 0x00, 0x00, 0x00, 0x00, 0x00, 0x00, 0x00, 0x80], by decide +kernel⟩,
    ⟨st (woven [0x13, 0x17]), 0, 0, insn [0x13, 0x17], by decide +kernel⟩,
    ⟨st (woven [0x14, 0x17]), 0, 0, insn [0x14, 0x17], by decide +kernel⟩,
    ⟨st (woven [0x24, 0x81, 0x50, 0xFC]), 0, 0, insn [0x24, 0x81, 0x50, 0xFC], by decide +kernel⟩,
    ⟨st (woven [0x30, 0xFF]), 0, 0, insn [0x30, 0xFF], by decide +kernel⟩,
    ⟨st (woven [0xF2, 0x41, 0xE0, 0xFF]), 0, 0, insn [0xF2, 0x41, 0xE0, 0xFF], by decide +kernel⟩,
    ⟨st (woven [0x52, 0x10, 0x00, 0x00, 0x00, 0x80]), 0, 0, insn [0x52, 0x10, 0x00, 0x00, 0x00, 0x80], by decide +kernel⟩,
    ⟨st (woven [0x33, 0x12]), 0, 0, insn [0x33, 0x12], by decide +kernel⟩,
    ⟨st (woven [0x37, 0x12]), 0, 0, insn [0x37, 0x12], subRes 32 0 0 0, by decide +kernel⟩,
    ⟨st (woven [0x39, 0x12]), 0, 0, insn [0x39, 0x12], by decide +kernel⟩⟩

/-- The hypotheses of each clause can be met. -/
theorem meets_ZelekLogicComplete :
    (∃ (s : State), ∃ (e : Fin 96), ∃ k, ∃ z, s.dev.issues e k z ∧ z.op ∈ [0x34, 0x44, 0x54]) ∧
    (∃ (s : State), ∃ (e : Fin 96), ∃ k, ∃ z, s.dev.issues e k z ∧ z.op ∈ [0x35, 0x45, 0x55]) ∧
    (∃ (s : State), ∃ (e : Fin 96), ∃ k, ∃ z, s.dev.issues e k z ∧ z.op ∈ [0x36, 0x46, 0x56]) ∧
    (∃ (s : State), ∃ (e : Fin 96), ∃ k, ∃ z, s.dev.issues e k z ∧ z.op ∈ [0x38, 0x48, 0x58]) ∧
    (∃ (s : State), ∃ (e : Fin 96), ∃ k, ∃ z, s.dev.issues e k z ∧ z.op = 0x3A) ∧
    (∃ (s : State), ∃ (e : Fin 96), ∃ k, ∃ z, s.dev.issues e k z ∧ z.op = 0x3B) ∧
    (∃ (s : State), ∃ (e : Fin 96), ∃ k, ∃ z, s.dev.issues e k z ∧ z.op = 0x3C) ∧
    (∃ (s : State), ∃ (e : Fin 96), ∃ k, ∃ z, s.dev.issues e k z ∧ z.op = 0x3D) ∧
    (∃ (s : State), ∃ (e : Fin 96), ∃ k, ∃ z, s.dev.issues e k z ∧ z.op = 0x3E) ∧
    (∃ (s : State), ∃ (e : Fin 96), ∃ k, ∃ z, s.dev.issues e k z ∧ z.op = 0x3F) :=
  ⟨⟨st (woven [0x34, 0x12]), 0, 0, insn [0x34, 0x12], by decide +kernel⟩,
    ⟨st (woven [0x45, 0x10, 0xFF]), 0, 0, insn [0x45, 0x10, 0xFF], by decide +kernel⟩,
    ⟨st (woven [0xF2, 0x36, 0x24]), 0, 0, insn [0xF2, 0x36, 0x24], by decide +kernel⟩,
    ⟨st (woven [0x38, 0x12]), 0, 0, insn [0x38, 0x12], by decide +kernel⟩,
    ⟨st (woven [0x3A, 0x12]), 0, 0, insn [0x3A, 0x12], by decide +kernel⟩,
    ⟨st (woven [0x3B, 0x12]), 0, 0, insn [0x3B, 0x12], by decide +kernel⟩,
    ⟨st (woven [0x3C, 0x12]), 0, 0, insn [0x3C, 0x12], by decide +kernel⟩,
    ⟨st (woven [0x3D, 0x12]), 0, 0, insn [0x3D, 0x12], by decide +kernel⟩,
    ⟨st (woven [0x3E, 0x12]), 0, 0, insn [0x3E, 0x12], by decide +kernel⟩,
    ⟨st (woven [0x3F, 0x12]), 0, 0, insn [0x3F, 0x12], by decide +kernel⟩⟩

/-- The hypotheses of each clause can be met. -/
theorem meets_ZelekShiftsComplete :
    (∃ (s : State), ∃ (e : Fin 96), ∃ k, ∃ z, ∃ n, ∃ v, s.dev.issues e k z ∧ z.op ∈ [0x60, 0x68] ∧ (s.dev.ctx k).rd z = v ∧ (if z.op = 0x60 then ((s.dev.ctx k).wr z.lo).toNat % 256 else z.imm) = n) ∧
    (∃ (s : State), ∃ (e : Fin 96), ∃ k, ∃ z, ∃ n, ∃ v, s.dev.issues e k z ∧ z.op ∈ [0x61, 0x69] ∧ (s.dev.ctx k).rd z = v ∧ (if z.op = 0x61 then ((s.dev.ctx k).wr z.lo).toNat % 256 else z.imm) = n) ∧
    (∃ (s : State), ∃ (e : Fin 96), ∃ k, ∃ z, ∃ n, ∃ v, s.dev.issues e k z ∧ z.op ∈ [0x62, 0x6A] ∧ (s.dev.ctx k).rd z = v ∧ (if z.op = 0x62 then ((s.dev.ctx k).wr z.lo).toNat % 256 else z.imm) = n) ∧
    (∃ (s : State), ∃ (e : Fin 96), ∃ k, ∃ z, ∃ n, ∃ v, s.dev.issues e k z ∧ z.op ∈ [0x63, 0x6B] ∧ (s.dev.ctx k).rd z = v ∧ (if z.op = 0x63 then ((s.dev.ctx k).wr z.lo).toNat % 256 else z.imm) % z.n = n) ∧
    (∃ (s : State), ∃ (e : Fin 96), ∃ k, ∃ z, ∃ n, ∃ v, s.dev.issues e k z ∧ z.op ∈ [0x64, 0x6C] ∧ (s.dev.ctx k).rd z = v ∧ (if z.op = 0x64 then ((s.dev.ctx k).wr z.lo).toNat % 256 else z.imm) % z.n = n) ∧
    (∃ (s : State), ∃ (e : Fin 96), ∃ k, ∃ z, ∃ r, s.dev.issues e k z ∧ z.op = 0x65 ∧ r = clzRes ((s.dev.ctx k).wr z.lo).toNat) ∧
    (∃ (s : State), ∃ (e : Fin 96), ∃ k, ∃ z, ∃ r, s.dev.issues e k z ∧ z.op = 0x66 ∧ r = popcRes ((s.dev.ctx k).wr z.lo).toNat) ∧
    (∃ (s : State), ∃ (e : Fin 96), ∃ k, ∃ z, ∃ r, s.dev.issues e k z ∧ z.op = 0x67 ∧ r = bswapRes ((s.dev.ctx k).wr z.lo).toNat) :=
  ⟨⟨st (woven [0x60, 0x12] |> regs [(1, 1), (2, 32)]), 0, 0, insn [0x60, 0x12], 32, 1, by decide +kernel⟩,
    ⟨st (woven [0x69, 0x10, 0x1F]), 0, 0, insn [0x69, 0x10, 0x1F], 31, 0, by decide +kernel⟩,
    ⟨st (woven [0x62, 0x12] |> regs [(2, 0xFFFFFFFF)]), 0, 0, insn [0x62, 0x12], 255, 0, by decide +kernel⟩,
    ⟨st (woven [0x6B, 0x10, 0x1F]), 0, 0, insn [0x6B, 0x10, 0x1F], 31, 0, by decide +kernel⟩,
    ⟨st (woven [0x64, 0x12]), 0, 0, insn [0x64, 0x12], 0, 0, by decide +kernel⟩,
    ⟨st (woven [0x65, 0x12]), 0, 0, insn [0x65, 0x12], 32, by decide +kernel⟩,
    ⟨st (woven [0x66, 0x12] |> regs [(2, 0xFFFFFFFF)]), 0, 0, insn [0x66, 0x12], 32, by decide +kernel⟩,
    ⟨st (woven [0x67, 0x12]), 0, 0, insn [0x67, 0x12], 0, by decide +kernel⟩⟩

/-- The hypotheses of each clause can be met. -/
theorem meets_ZelekFieldsComplete :
    (∃ (s : State), ∃ (e : Fin 96), ∃ k, ∃ z, s.dev.issues e k z ∧ z.op ∈ [0x70, 0x71, 0x72, 0x73, 0x74] ∧ z.imm / 64 % 128 = 0) ∧
    (∃ (s : State), ∃ (e : Fin 96), ∃ k, ∃ z, ∃ p, ∃ w, s.dev.issues e k z ∧ z.op = 0x70 ∧ z.imm % 64 = p ∧ z.imm / 64 % 128 = w ∧ w ≠ 0) ∧
    (∃ (s : State), ∃ (e : Fin 96), ∃ k, ∃ z, ∃ p, ∃ w, s.dev.issues e k z ∧ z.op = 0x71 ∧ z.imm % 64 = p ∧ z.imm / 64 % 128 = w ∧ w ≠ 0) ∧
    (∃ (s : State), ∃ (e : Fin 96), ∃ k, ∃ z, ∃ p, ∃ w, s.dev.issues e k z ∧ z.op = 0x72 ∧ z.imm % 64 = p ∧ z.imm / 64 % 128 = w ∧ w ≠ 0) ∧
    (∃ (s : State), ∃ (e : Fin 96), ∃ k, ∃ z, ∃ p, ∃ w, s.dev.issues e k z ∧ z.op = 0x73 ∧ z.imm % 64 = p ∧ z.imm / 64 % 128 = w ∧ w ≠ 0) ∧
    (∃ (s : State), ∃ (e : Fin 96), ∃ k, ∃ z, ∃ p, ∃ w, s.dev.issues e k z ∧ z.op = 0x74 ∧ z.imm % 64 = p ∧ z.imm / 64 % 128 = w ∧ w ≠ 0) ∧
    (∃ (s : State), ∃ (e : Fin 96), ∃ k, ∃ z, s.dev.issues e k z ∧ z.op = 0x75) ∧
    (∃ (s : State), ∃ (e : Fin 96), ∃ k, ∃ z, ∃ v, s.dev.issues e k z ∧ z.op = 0x76 ∧ (s.dev.ctx k).rd z = v) ∧
    (∃ (s : State), ∃ (e : Fin 96), ∃ k, ∃ z, ∃ v, s.dev.issues e k z ∧ z.op = 0x77 ∧ (s.dev.ctx k).rd z = v) :=
  ⟨⟨st (woven [0x70, 0x12, 0x00, 0x00]), 0, 0, insn [0x70, 0x12, 0x00, 0x00], by decide +kernel⟩,
    ⟨st (woven [0x70, 0x12, 0x00, 0x08]), 0, 0, insn [0x70, 0x12, 0x00, 0x08], 0, 32, by decide +kernel⟩,
    ⟨st (woven [0x71, 0x12, 0x00, 0x08]), 0, 0, insn [0x71, 0x12, 0x00, 0x08], 0, 32, by decide +kernel⟩,
    ⟨st (woven [0x72, 0x12, 0x00, 0x08]), 0, 0, insn [0x72, 0x12, 0x00, 0x08], 0, 32, by decide +kernel⟩,
    ⟨st (woven [0x73, 0x10, 0x00, 0x08]), 0, 0, insn [0x73, 0x10, 0x00, 0x08], 0, 32, by decide +kernel⟩,
    ⟨st (woven [0x74, 0x10, 0x00, 0x08]), 0, 0, insn [0x74, 0x10, 0x00, 0x08], 0, 32, by decide +kernel⟩,
    ⟨st (woven [0x75, 0x10, 0x1F]), 0, 0, insn [0x75, 0x10, 0x1F], by decide +kernel⟩,
    ⟨st (woven [0x76, 0x10, 0x1F]), 0, 0, insn [0x76, 0x10, 0x1F], 0, by decide +kernel⟩,
    ⟨st (woven [0xF2, 0x77, 0x20, 0x3F]), 0, 0, insn [0xF2, 0x77, 0x20, 0x3F], 0, by decide +kernel⟩⟩

/-- The hypotheses of each clause can be met. -/
theorem meets_ZelekAccumulatorsComplete :
    (∃ (s : State), ∃ (e : Fin 96), ∃ k, ∃ z, ∃ kx, ∃ ky, ∃ p, s.dev.issues e k z ∧ z.op = 0xB0 ∧ s.dev.arAccess k 0 ((s.dev.ctx k).arg (z.rb % 4)) 4 false = .inr (.local_ kx) ∧ s.dev.arAccess k 1 ((s.dev.ctx k).arg (4 + z.rb / 4 % 4)) 2 false = .inr (.local_ ky) ∧ sx 32 (leVal (s.dev.mrd kx 4)) * sx 16 (leVal (s.dev.mrd ky 2)) = p) ∧
    (∃ (s : State), ∃ (e : Fin 96), ∃ k, ∃ z, ∃ kx, ∃ ky, ∃ p, s.dev.issues e k z ∧ z.op = 0xB1 ∧ s.dev.arAccess k 0 ((s.dev.ctx k).arg (z.rb % 4)) 4 false = .inr (.local_ kx) ∧ s.dev.arAccess k 1 ((s.dev.ctx k).arg (4 + z.rb / 4 % 4)) 2 false = .inr (.local_ ky) ∧ sx 32 (leVal (s.dev.mrd kx 4)) * sx 16 (leVal (s.dev.mrd ky 2)) = p) ∧
    (∃ (s : State), ∃ (e : Fin 96), ∃ k, ∃ z, s.dev.issues e k z ∧ z.op = 0xB2) ∧
    (∃ (s : State), ∃ (e : Fin 96), ∃ k, ∃ z, s.dev.issues e k z ∧ z.op = 0xB3) ∧
    (∃ (s : State), ∃ (e : Fin 96), ∃ k, ∃ z, s.dev.issues e k z ∧ z.op = 0xB4) ∧
    (∃ (s : State), ∃ (e : Fin 96), ∃ k, ∃ z, s.dev.issues e k z ∧ z.op = 0xB5) ∧
    (∃ (s : State), ∃ (e : Fin 96), ∃ k, ∃ z, ∃ r, ∃ v, s.dev.issues e k z ∧ z.op = 0xB6 ∧ accPart ((s.dev.ctx k).acc (z.b3 % 2)) (z.b3 / 2 % 4) = (r, v)) ∧
    (∃ (s : State), ∃ (e : Fin 96), ∃ k, ∃ z, s.dev.issues e k z ∧ z.op = 0xB7) ∧
    (∃ (s : State), ∃ (e : Fin 96), ∃ k, ∃ z, ∃ r, s.dev.issues e k z ∧ z.op = 0xC0 ∧ crcStep ((s.dev.ctx k).wr (z.b3 % 16)) 8 ((s.dev.ctx k).wr z.lo).toNat ((s.dev.ctx k).wr z.hi) = r) ∧
    (∃ (s : State), ∃ (e : Fin 96), ∃ k, ∃ z, ∃ r, s.dev.issues e k z ∧ z.op = 0xC1 ∧ crcStep ((s.dev.ctx k).wr (z.b3 % 16)) 16 ((s.dev.ctx k).wr z.lo).toNat ((s.dev.ctx k).wr z.hi) = r) ∧
    (∃ (s : State), ∃ (e : Fin 96), ∃ k, ∃ z, ∃ r, s.dev.issues e k z ∧ z.op = 0xC2 ∧ crcStep ((s.dev.ctx k).wr (z.b3 % 16)) 32 ((s.dev.ctx k).wr z.lo).toNat ((s.dev.ctx k).wr z.hi) = r) ∧
    (∃ (s : State), ∃ (e : Fin 96), ∃ k, ∃ z, ∃ i, ∃ key, ∃ r, s.dev.issues e k z ∧ z.op = 0xC3 ∧ z.b3 % 4 + 4 * (z.b3 / 4 % 2) = i ∧ s.dev.arAccess k (z.b3 / 4 % 2) ((s.dev.ctx k).arg i) 1 false = .inr (.local_ key) ∧ crcStep ((s.dev.ctx k).wr z.lo) 8 (leVal (s.dev.mrd key 1)) ((s.dev.ctx k).wr z.hi) = r) :=
  ⟨⟨st (woven [0xB0, 0x00, 0x00]), 0, 0, insn [0xB0, 0x00, 0x00], 0x8000, 0xC000, 0, by decide +kernel⟩,
    ⟨st (woven [0xB1, 0x00, 0x00]), 0, 0, insn [0xB1, 0x00, 0x00], 0x8000, 0xC000, 0, by decide +kernel⟩,
    ⟨st (woven [0xB2, 0x12, 0x01]), 0, 0, insn [0xB2, 0x12, 0x01], by decide +kernel⟩,
    ⟨st (woven [0xB3, 0x12, 0x01]), 0, 0, insn [0xB3, 0x12, 0x01], by decide +kernel⟩,
    ⟨st (woven [0xB4, 0x00]), 0, 0, insn [0xB4, 0x00], by decide +kernel⟩,
    ⟨st (woven [0xB5, 0x01]), 0, 0, insn [0xB5, 0x01], by decide +kernel⟩,
    ⟨st (woven [0xB6, 0x10, 0x06]), 0, 0, insn [0xB6, 0x10, 0x06], 0, some false, by decide +kernel⟩,
    ⟨st (woven [0xB7, 0x01, 0x00]), 0, 0, insn [0xB7, 0x01, 0x00], by decide +kernel⟩,
    ⟨st (woven [0xC0, 0x12, 0x03]), 0, 0, insn [0xC0, 0x12, 0x03], crcStep 0 8 0 0, by decide +kernel⟩,
    ⟨st (woven [0xC1, 0x12, 0x03]), 0, 0, insn [0xC1, 0x12, 0x03], crcStep 0 16 0 0, by decide +kernel⟩,
    ⟨st (woven [0xC2, 0x12, 0x03]), 0, 0, insn [0xC2, 0x12, 0x03], crcStep 0 32 0 0, by decide +kernel⟩,
    ⟨st (woven [0xC3, 0x12, 0x00]), 0, 0, insn [0xC3, 0x12, 0x00], 0, 0x8000, crcStep 0 8 0 0, by decide +kernel⟩⟩

/-- The hypotheses of each clause can be met. -/
theorem meets_ZelekBranchesComplete :
    (∃ (s : State), ∃ (e : Fin 96), ∃ k, ∃ z, s.dev.issues e k z ∧ z.op = 0x02) ∧
    (∃ (s : State), ∃ (e : Fin 96), ∃ k, ∃ z, s.dev.issues e k z ∧ 0x80 ≤ z.op ∧ z.op ≤ 0x9F) ∧
    (∃ (s : State), ∃ (e : Fin 96), ∃ k, ∃ z, s.dev.issues e k z ∧ z.op = 0xA3) ∧
    (∃ (s : State), ∃ (e : Fin 96), ∃ k, ∃ z, s.dev.issues e k z ∧ z.op = 0xA4) ∧
    (∃ (s : State), ∃ (e : Fin 96), ∃ k, ∃ z, s.dev.issues e k z ∧ z.op = 0xA5) ∧
    (∃ (s : State), ∃ (e : Fin 96), ∃ k, ∃ z, s.dev.issues e k z ∧ z.op = 0xA0) ∧
    (∃ (s : State), ∃ (e : Fin 96), ∃ k, ∃ z, s.dev.issues e k z ∧ z.op = 0xA1) ∧
    (∃ (s : State), ∃ (e : Fin 96), ∃ k, ∃ z, s.dev.issues e k z ∧ z.op = 0xA2) ∧
    (∃ (s : State), ∃ (e : Fin 96), ∃ k, ∃ z, s.dev.issues e k z ∧ z.op = 0xA6) ∧
    (∃ (s : State), ∃ (e : Fin 96), ∃ k, ∃ z, s.dev.issues e k z ∧ z.op = 0x04 ∧ z.lo ≠ 3) ∧
    (∃ (s : State), ∃ (e : Fin 96), ∃ k, ∃ z, ∃ v, s.dev.issues e k z ∧ z.op = 0x04 ∧ z.lo = 3 ∧ s.dev.boundWave e = v) ∧
    (∃ (s : State), ∃ (e : Fin 96), ∃ k, ∃ z, s.dev.issues e k z ∧ z.op = 0x05 ∧ z.lo = 0) ∧
    (∃ (s : State), ∃ (e : Fin 96), ∃ k, ∃ z, s.dev.issues e k z ∧ z.op = 0x05 ∧ z.lo = 1) ∧
    (∃ (s : State), ∃ (e : Fin 96), ∃ k, ∃ z, s.dev.issues e k z ∧ z.op = 0x05 ∧ 2 ≤ z.lo) :=
  ⟨⟨st (woven [0x02]), 0, 0, insn [0x02], by decide +kernel⟩,
    ⟨st (woven [0x9F, 0x00, 0x00, 0x00, 0x80]), 0, 0, insn [0x9F, 0x00, 0x00, 0x00, 0x80], by decide +kernel⟩,
    ⟨st (woven [0xA3, 0x80]), 0, 0, insn [0xA3, 0x80], by decide +kernel⟩,
    ⟨st (woven [0xA4, 0x02]), 0, 0, insn [0xA4, 0x02], by decide +kernel⟩,
    ⟨st (woven [0xA5, 0x02]), 0, 0, insn [0xA5, 0x02], by decide +kernel⟩,
    ⟨st (woven [0xA0, 0x00, 0x01, 0x00, 0x00]), 0, 0, insn [0xA0, 0x00, 0x01, 0x00, 0x00], by decide +kernel⟩,
    ⟨st (woven [0xA1, 0x01]), 0, 0, insn [0xA1, 0x01], by decide +kernel⟩,
    ⟨st (woven [0xA2, 0x01]), 0, 0, insn [0xA2, 0x01], by decide +kernel⟩,
    ⟨st (woven [0xA6, 0x10, 0x02]), 0, 0, insn [0xA6, 0x10, 0x02], by decide +kernel⟩,
    ⟨st (woven [0x04, 0x17]), 0, 0, insn [0x04, 0x17], by decide +kernel⟩,
    ⟨st (woven [0x04, 0x13]), 0, 0, insn [0x04, 0x13], 0, by decide +kernel⟩,
    ⟨st (woven [0x05, 0x10]), 0, 0, insn [0x05, 0x10], by decide +kernel⟩,
    ⟨st (woven [0x05, 0x11]), 0, 0, insn [0x05, 0x11], by decide +kernel⟩,
    ⟨st (woven [0x05, 0x17]), 0, 0, insn [0x05, 0x17], by decide +kernel⟩⟩

/-- The hypotheses of each clause can be met. -/
theorem meets_ZelekMemoryComplete :
    (∃ (s : State), ∃ (e : Fin 96), ∃ k, ∃ z, s.dev.issues e k z ∧ z.op = 0x03 ∧ (s.dev.eng e).far.any (fun f => f.key == k && f.copy.isNone) = false) ∧
    (∃ (s : State), ∃ (e : Fin 96), ∃ k, ∃ z, ∃ key, s.dev.issues e k z ∧ z.op = 0x15 ∧ (s.dev.act k).stored = none ∧ s.dev.stackAddr k ((s.dev.ctx k).wr 14 - w32 z.s).toNat z.s true = .inr (.local_ key)) ∧
    (∃ (s : State), ∃ (e : Fin 96), ∃ k, ∃ z, ∃ key, s.dev.issues e k z ∧ z.op = 0x16 ∧ s.dev.stackAddr k ((s.dev.ctx k).wr 14).toNat z.s false = .inr (.local_ key)) ∧
    (∃ (s : State), ∃ (e : Fin 96), ∃ k, ∃ z, ∃ key, s.dev.issues e k z ∧ z.op = 0x20 ∧ s.dev.zOperand k z false = .inr (.local_ key)) ∧
    (∃ (s : State), ∃ (e : Fin 96), ∃ k, ∃ z, ∃ r, ∃ key, s.dev.issues e k z ∧ z.op = 0x20 ∧ s.dev.zOperand k z false = .inr (.far r key) ∧ s.dev.farFull e = false) ∧
    (∃ (s : State), ∃ (e : Fin 96), ∃ k, ∃ z, ∃ key, s.dev.issues e k z ∧ z.op = 0x21 ∧ s.dev.zOperand k z false = .inr (.local_ key)) ∧
    (∃ (s : State), ∃ (e : Fin 96), ∃ k, ∃ z, ∃ key, s.dev.issues e k z ∧ z.op = 0x22 ∧ (s.dev.act k).stored = none ∧ s.dev.zOperand k z true = .inr (.local_ key)) ∧
    (∃ (s : State), ∃ (e : Fin 96), ∃ k, ∃ z, ∃ key, ∃ b, ∃ l, s.dev.issues e k z ∧ z.op = 0x22 ∧ s.dev.zOperand k z true = .inr (.local_ key) ∧ (s.dev.act k).stored = some l ∧ s.dev.ckptBlock k key = some b ∧ b ∉ l) ∧
    (∃ (s : State), ∃ (e : Fin 96), ∃ k, ∃ z, ∃ r, ∃ key, s.dev.issues e k z ∧ z.op = 0x22 ∧ (s.dev.act k).stored = none ∧ s.dev.zOperand k z true = .inr (.far r key)) ∧
    (∃ (s : State), ∃ (e : Fin 96), ∃ k, ∃ z, ∃ key, s.dev.issues e k z ∧ z.op = 0x23 ∧ (s.dev.act k).stored = none ∧ s.dev.zOperand k z true = .inr (.local_ key)) ∧
    (∃ (s : State), ∃ (e : Fin 96), ∃ k, ∃ z, ∃ key, ∃ a, s.dev.issues e k z ∧ z.op = 0xD0 ∧ (s.dev.act k).stored = none ∧ ((s.dev.ctx k).wr (z.m % 16) + BitVec.ofInt 32 z.disp).toNat = a ∧ a < 0x21000000 ∧ s.dev.zAddr k z.far a z.s true = .inr (.far .bank key) ∧ s.dev.farFull e = false) ∧
    (∃ (s : State), ∃ (e : Fin 96), ∃ k, ∃ z, ∃ key, ∃ a, s.dev.issues e k z ∧ z.op = 0xD1 ∧ (s.dev.act k).stored = none ∧ ((s.dev.ctx k).wr (z.m % 16) + BitVec.ofInt 32 z.disp).toNat = a ∧ a < 0x21000000 ∧ s.dev.zAddr k z.far a z.s true = .inr (.far .bank key) ∧ s.dev.farFull e = false) :=
  ⟨⟨st (woven [0x03]), 0, 0, insn [0x03], by decide +kernel⟩,
    ⟨st (woven [0x15, 0x01] |> regs [(14, 4)]), 0, 0, insn [0x15, 0x01], 0x8000, by decide +kernel⟩,
    ⟨st (woven [0xF2, 0x16, 0x00] |> regs [(14, 0xFF8)]), 0, 0, insn [0xF2, 0x16, 0x00], 0x8FF8, by decide +kernel⟩,
    ⟨st (woven [0x20, 0x00, 0x10]), 0, 0, insn [0x20, 0x00, 0x10], 0x8000, by decide +kernel⟩,
    ⟨st (woven [0xF0, 0x20, 0x83, 0x50, 0xFC] |> regs [(3, 0x20001000)]), 0, 0, insn [0xF0, 0x20, 0x83, 0x50, 0xFC], .bank, 0x1000FFC, by decide +kernel⟩,
    ⟨st (woven [0xF3, 0x21, 0x40, 0x10]), 0, 0, insn [0xF3, 0x21, 0x40, 0x10], 0xC000, by decide +kernel⟩,
    ⟨st (woven [0xF2, 0x22, 0x00, 0x20]), 0, 0, insn [0xF2, 0x22, 0x00, 0x20], 0x8000, by decide +kernel⟩,
    ⟨st (woven [0xF2, 0x22, 0x00, 0x20] |> acs 0 fun a => { a with stored := some [] }), 0, 0, insn [0xF2, 0x22, 0x00, 0x20], 0x8000, 512, [], by decide +kernel⟩,
    ⟨st (woven [0xF0, 0x22, 0x83, 0x50, 0x00] |> regs [(3, 0x20000000)]), 0, 0, insn [0xF0, 0x22, 0x83, 0x50, 0x00], .bank, 0x1000000, by decide +kernel⟩,
    ⟨st (woven [0xF3, 0x23, 0x00, 0x07]), 0, 0, insn [0xF3, 0x23, 0x00, 0x07], 0x8000, by decide +kernel⟩,
    ⟨st (woven [0xF0, 0xF1, 0xD0, 0x83, 0x12, 0x00] |> regs [(3, 0x20000000)]), 0, 0, insn [0xF0, 0xF1, 0xD0, 0x83, 0x12, 0x00], 0x1000000, 0x20000000, by decide +kernel⟩,
    ⟨st (woven [0xF0, 0xD1, 0x83, 0x12, 0x00] |> regs [(3, 0x20000000)]), 0, 0, insn [0xF0, 0xD1, 0x83, 0x12, 0x00], 0x1000000, 0x20000000, by decide +kernel⟩⟩

/-- The hypotheses of each clause can be met. -/
theorem meets_ZelekActivationsComplete :
    (∃ (s : State), ∃ (e : Fin 96), ∃ k, ∃ z, ∃ d, s.dev.issues e k z ∧ z.op = 0xE0 ∧ s.dev.copyDue k = false ∧ ((s.dev.begun k).judgeLate k).sealInput k = d ∧ d.isPlaced k = true ∧ firstEv (d.visibleOf k) = none) ∧
    (∃ (s : State), ∃ (e : Fin 96), ∃ k, ∃ z, ∃ d, ∃ v, s.dev.issues e k z ∧ z.op = 0xE0 ∧ s.dev.copyDue k = false ∧ ((s.dev.begun k).judgeLate k).sealInput k = d ∧ d.isPlaced k = true ∧ firstEv (d.visibleOf k) = some v) ∧
    (∃ (s : State), ∃ (e : Fin 96), ∃ k, ∃ z, ∃ d, s.dev.issues e k z ∧ z.op = 0xE2 ∧ s.dev.copyDue k = false ∧ ((s.dev.begun k).judgeLate k).sealInput k = d ∧ d.isPlaced k = true) ∧
    (∃ (s : State), ∃ (e : Fin 96), ∃ k, ∃ z, ∃ n, s.dev.issues e k z ∧ z.op = 0xE3 ∧ (s.dev.act k).input.isSome = true ∧ (s.dev.ctx k).cinRel - 64 - s.dev.tb.st = n) ∧
    (∃ (s : State), ∃ (e : Fin 96), ∃ k, ∃ z, s.dev.issues e k z ∧ z.op = 0xE3 ∧ (s.dev.act k).input = none) ∧
    (∃ (s : State), ∃ (e : Fin 96), ∃ k, ∃ z, ∃ desc, ∃ pair, ∃ d, s.dev.issues e k z ∧ z.op = 0xE1 ∧ (s.dev.ctx k).wr z.hi = desc ∧ BitVec.ofNat 64 ((s.dev.ctx k).opnd true z.lo) = pair ∧ giveBuf desc pair = none ∧ s.dev.giveOk (keyChan k) desc pair = true ∧ (s.dev.begun k).judgeLate k = d ∧ (d.act k).input.isSome = true ∧ (d.act k).inputLate = false ∧ (d.act k).given < fld (d.desc (keyChan k) 5) 15 8 ∧ (d.eng e).outq.length < 64) ∧
    (∃ (s : State), ∃ (e : Fin 96), ∃ k, ∃ z, ∃ desc, ∃ pair, ∃ a, ∃ n, ∃ o, ∃ ro, ∃ key, ∃ d, s.dev.issues e k z ∧ z.op = 0xE1 ∧ (s.dev.ctx k).wr z.hi = desc ∧ BitVec.ofNat 64 ((s.dev.ctx k).opnd true z.lo) = pair ∧ giveBuf desc pair = some (a, n) ∧ n ≠ 0 ∧ a % 4 = 0 ∧ s.dev.farWin k a n = some (o, ro, key) ∧ s.dev.giveOk (keyChan k) desc pair = true ∧ (s.dev.begun k).judgeLate k = d ∧ (d.act k).input.isSome = true ∧ (d.act k).inputLate = false ∧ (d.act k).given < fld (d.desc (keyChan k) 5) 15 8 ∧ (d.eng e).outq.length < 64) ∧
    (∃ (s : State), ∃ (e : Fin 96), ∃ k, ∃ z, ∃ h, ∃ d, s.dev.issues e k z ∧ z.op = 0xE4 ∧ (s.dev.ctx k).wr z.hi = h ∧ s.dev.checkHandle 2 h = .ok ∧ (s.dev.sendDir (keyChan k) (hIdx h)).isSome = true ∧ (s.dev.begun k).judgeLate k = d ∧ (d.act k).input.isSome = true ∧ (d.act k).inputLate = false ∧ (d.act k).given < fld (d.desc (keyChan k) 5) 15 8 ∧ (d.eng e).outq.length < 64) :=
  ⟨⟨st (woven [0xE0] |> taken), 0, 0, insn [0xE0], ((((woven [0xE0] |> taken)).begun 0).judgeLate 0).sealInput 0, by and_intros <;> first | rfl | decide +kernel⟩,
    ⟨st (woven [0xE0] |> egs 0 (fun x => { x with evq := [ev0] })), 0, 0, insn [0xE0], ((((woven [0xE0] |> egs 0 (fun x => { x with evq := [ev0] }))).begun 0).judgeLate 0).sealInput 0, ev0, by and_intros <;> first | rfl | decide +kernel⟩,
    ⟨st (woven [0xE2] |> taken), 0, 0, insn [0xE2], ((((woven [0xE2] |> taken)).begun 0).judgeLate 0).sealInput 0, by and_intros <;> first | rfl | decide +kernel⟩,
    ⟨st (woven [0xE3, 0x01] |> taken), 0, 0, insn [0xE3, 0x01], 99936, by decide +kernel⟩,
    ⟨st (woven [0xE3, 0x01]), 0, 0, insn [0xE3, 0x01], by decide +kernel⟩,
    ⟨st (woven [0xE1, 0x12] |> regs [(1, 1)] |> taken), 0, 0, insn [0xE1, 0x12], 1, 0, (((woven [0xE1, 0x12] |> regs [(1, 1)] |> taken)).begun 0).judgeLate 0, by and_intros <;> first | rfl | decide +kernel⟩,
    ⟨st (woven [0xE1, 0x12] |> regs [(1, 0x00400000), (2, 0x20000000)] |> taken), 0, 0, insn [0xE1, 0x12], 0x00400000, 0x20000000, 0x20000000, 64, 0, false, 0x1000000, (((woven [0xE1, 0x12] |> regs [(1, 0x00400000), (2, 0x20000000)] |> taken)).begun 0).judgeLate 0, by and_intros <;> first | rfl | decide +kernel⟩,
    ⟨st (woven [0xE4, 0x10, 0x1F] |> regs [(1, 0x02001000)] |> taken), 0, 0, insn [0xE4, 0x10, 0x1F], 0x02001000, (((woven [0xE4, 0x10, 0x1F] |> regs [(1, 0x02001000)] |> taken)).begun 0).judgeLate 0, by and_intros <;> first | rfl | decide +kernel⟩⟩

/-- The hypotheses of each clause can be met. -/
theorem meets_SchedulerComplete :
    (∃ (s : State), ∃ (e : Fin 96), ∃ k, s.dev.engGo e = true ∧ (s.dev.eng e).stopped = false ∧ (s.dev.eng e).cur = none ∧ s.dev.bestReady e = some k) ∧
    (∃ (s : State), ∃ (e : Fin 96), ∃ c, s.dev.each ((s.dev.slotKeys e).filter (fun k => k < 512)) (fun d c => d.ckptSettled c) = c ∧ (c.eng e).cur = none) ∧
    (∃ (s : State), ∃ (e : Fin 96), ∃ k, ∃ j, ∃ c, ∃ d, s.dev.each ((s.dev.slotKeys e).filter (fun k => k < 512)) (fun d c => d.ckptSettled c) = c ∧ c.setEng e (fun x => { x with evq := x.evq.map (fun (v : Ev) => { v with visible := v.visible || reached c.tb.st (c.visAt v) }) }) = d ∧ d.engGo e = true ∧ (d.eng e).stopped = false ∧ (d.eng e).cur = some k ∧ d.bestReady e = some j ∧ (d.act k).st = .running ∧ d.preemptible k = true ∧ d.earlier j k = true) ∧
    (∃ (s : State), ∃ (e : Fin 96), ∃ k, (s.dev.eng e).cur = some k ∧ (s.dev.act k).st = .running ∧ (s.dev.ctx k).budget = 0 ∧ s.dev.replaying k = false ∧ (s.dev.act k).heldAt = none ∧ s.dev.loadsOf k = []) ∧
    (∃ (s : State), ∃ (c : Fin 512), (s.dev.act c).input.isSome = true ∧ s.dev.replaying c = false ∧ s.dev.deadPast c = true) ∧
    (∃ (s : State), ∃ (c : Fin 512), (∀ k, k ∈ [c.val, 512 + c.val] → (s.dev.act k).input = none ∨ s.dev.replaying k = true ∨ s.dev.deadPast k = false)) ∧
    (∃ (s : State), ∃ (e : Fin 96), (s.dev.eng e).stopped = false ∧ (s.dev.eng e).retired = false ∧ s.dev.pwr.mainUp = true ∧ s.dev.engGo e = false ∧ (∀ k, (s.dev.eng e).cur = some k → s.dev.preemptible k = true)) ∧
    (∃ (s : State), ∃ (e : Fin 96), ∃ k, ∃ o, s.dev.canIssue e = some k ∧ s.dev.zAt k = .illegal o) ∧
    (∃ (s : State), ∃ (e : Fin 96), ∃ k, s.dev.canIssue e = some k ∧ s.dev.zAt k = .outside) ∧
    (∃ (s : State), ∃ (ev : EventIn), (s.dev.chan ev.chan).st = .running ∧ (s.dev.chan ev.chan).stopAt = none ∧ (tfind s.dev.cut.acts ev.chan).isSome = true ∧ (s.dev.chan ev.chan).mig = none ∧ s.dev.b CUT_CKPT_CFG 0 = false ∧ ((s.dev.eng (s.dev.act ev.chan).eng).eventsOf ev.chan).length < fld (s.dev.desc ev.chan 5) 7 0 ∧ (s.dev.eng (s.dev.act ev.chan).eng).evq.length < 128) ∧
    (∃ (s : State), ∃ (ev : EventIn), (s.dev.chan ev.chan).st = .running ∧ (s.dev.chan ev.chan).stopAt = none ∧ (tfind s.dev.cut.acts ev.chan).isSome = true ∧ (s.dev.chan ev.chan).mig = none ∧ s.dev.b CUT_CKPT_CFG 0 = false ∧ fld (s.dev.desc ev.chan 5) 7 0 ≤ ((s.dev.eng (s.dev.act ev.chan).eng).eventsOf ev.chan).length) :=
  ⟨⟨st (woven [1] |> acs 0 (fun a => { a with st := .ready, open_ := true }) |> egs 0 fun x => { x with cur := none }), 0, 0, by decide +kernel⟩,
    ⟨st (on .run), 95, ((on .run)).each ((((on .run)).slotKeys (95 : Fin 96)).filter (fun k => k < 512)) (fun d c => d.ckptSettled c), ⟨rfl, by decide +kernel⟩⟩,
    ⟨st second, 0, 0, 1, settled, (settled).setEng (0 : Fin 96) (fun x => { x with evq := x.evq.map (fun (v : Ev) => { v with visible := or v.visible (reached settled.tb.st (settled.visAt v)) }) }), by and_intros <;> first | rfl | decide +kernel⟩,
    ⟨st (woven [1] |> acs 0 fun a => { a with ctx := { a.ctx with budget := 0 } }), 0, 0, by decide +kernel⟩,
    ⟨st (woven [1] |> acs 0 fun a => { a with input := some ev0, ctx := { a.ctx with cinRel := 64 } }), 0, by decide +kernel⟩,
    ⟨st (woven [1] |> taken), 0, by decide +kernel⟩,
    ⟨st (woven [1] |> rw (ENG_CTRL 0) 3), 0, ⟨by decide +kernel, by decide +kernel, by decide +kernel, by decide +kernel, fun k h => by cases h; decide +kernel⟩⟩,
    ⟨st (woven [0xF6]), 0, 0, 0, by decide +kernel⟩,
    ⟨st (woven [0x30] |> acs 0 fun a => { a with codeLen := 1 }), 0, 0, by decide +kernel⟩,
    ⟨st (woven [1]), ev1, by decide +kernel⟩,
    ⟨st (woven [1] |> egs 0 fun x => { x with evq := List.replicate 4 ev0 }), ev1, by decide +kernel⟩⟩

/-- The hypotheses of each clause can be met. -/
theorem meets_RegisterWritesComplete :
    (∃ (s : State), ∃ who, ∃ be, isHost who = true ∧ be ≠ 15#4 ∧ s.dev.hostUp = true) ∧
    (∃ (s : State), ∃ who, ∃ a, ∃ be, ∃ r, (isHost who = false ∨ be = 15#4) ∧ s.dev.reaches a ∧ regDesc a = some r) ∧
    (∃ (s : State), ∃ who, ∃ a, ∃ be, be = 15#4 ∧ s.dev.reaches a ∧ regDesc a = none ∧ beyondBlocks who a = false) ∧
    (∃ (s : State), ∃ a, ∃ be, be = 15#4 ∧ s.dev.hostUp = true ∧ s.dev.blockOpen a = false) ∧
    (∃ (s : State), ∃ a, ∃ be, ∃ r, be = 15#4 ∧ s.dev.reaches a ∧ regDesc a = some r ∧ (a < 0x100000 ∨ 0x800000 ≤ a ∧ a < 0x900000) ∧ bellAt a = none ∧ (r.rwl = 0 ∨ s.dev.lockOpen = true)) ∧
    (∃ (s : State), ∃ a, ∃ be, ∃ r, ∃ b, be = 15#4 ∧ s.dev.reaches a ∧ regDesc a = some r ∧ (a < 0x100000 ∨ 0x800000 ≤ a ∧ a < 0x900000) ∧ bellAt a = some b ∧ (r.rwl = 0 ∨ s.dev.lockOpen = true)) ∧
    (∃ (s : State), ∃ a, ∃ be, ∃ r, be = 15#4 ∧ s.dev.reaches a ∧ regDesc a = some r ∧ (a < 0x100000 ∨ 0x800000 ≤ a ∧ a < 0x900000) ∧ bellAt a = none ∧ r.rwl ≠ 0 ∧ s.dev.lockOpen = false) :=
  ⟨⟨st (on .run), .lb, 7, by decide +kernel⟩,
    ⟨st (on .run), .lb, 0x800000, 15, memCtrl, by decide +kernel⟩,
    ⟨st (on .run), .lb, 0x1FFFFFC, 15, by decide +kernel⟩,
    ⟨st (on .boot), 0x200000, 15, by decide +kernel⟩,
    ⟨st (on .run), 0x800000, 15, memCtrl, by decide +kernel⟩,
    ⟨st (on .run), 0x800008, 15, memBell, .mem, by decide +kernel⟩,
    ⟨st (on .run |> life 2), MEM_FC_CFG, 15, fcCfg, by decide +kernel⟩⟩

/-- The hypotheses can be met. -/
theorem meets_EmptyQueueTicks : (∃ (s : State), s.pending = []) :=
  ⟨st (on .run), by decide +kernel⟩

/-- The hypotheses can be met. -/
theorem meets_ResetLeaves : (∃ e, e < 96) :=
  ⟨95, by decide +kernel⟩

/-- The hypotheses can be met. -/
theorem meets_RunNeverStops : (∃ (s : State), s.queueWf = true) :=
  ⟨⟨[.porRelease 0 true], on .run⟩, by decide +kernel⟩

/-- The hypotheses can be met. -/
theorem meets_ZelekEncodingRoundTrip : (∃ bs, ∃ z, zDecode bs = .ok z) :=
  ⟨[0xF0, 0xF5, 0x0F, 0x20, 0x83, 0x50, 0xFC], insn [0xF0, 0xF5, 0x0F, 0x20, 0x83, 0x50, 0xFC], by decide +kernel⟩

/-- The hypotheses can be met. -/
theorem meets_UnassignedOffsets : (∃ (d : Dev), ∃ a, d.reaches a ∧ regDesc a = none) :=
  ⟨on .run, 0x1460000, by decide +kernel⟩

/-- The hypotheses can be met. -/
theorem meets_BootAccessesRefused : (∃ (d : Dev), ∃ a, d.hostUp = true ∧ (d.mode = .boot ∨ d.mode = .provision) ∧ 0x200000 ≤ a ∧ (a < 0x1300000 ∨ 0x1400000 ≤ a)) :=
  ⟨on .boot, 0x12FFFFC, by decide +kernel⟩

/-- The hypotheses can be met. -/
theorem meets_AccessCodesOfABit : (∃ i, i < 32) :=
  ⟨31, by decide +kernel⟩

/-- The hypotheses can be met. -/
theorem meets_HandleChecks : (∃ h, fld h 31 24 = 2) :=
  ⟨0x02FFFFFF, by decide +kernel⟩

/-- The hypotheses can be met. -/
theorem meets_ArithmeticFlags : (∃ n, ∃ a, ∃ b, ∃ cin, 0 < n ∧ a < 2 ^ n ∧ b < 2 ^ n ∧ cin ≤ 1) :=
  ⟨64, 2 ^ 64 - 1, 2 ^ 64 - 1, 1, by decide +kernel⟩

/-- The hypotheses can be met. -/
theorem meets_ZeroCountSkips : (∃ (d : Dev), ∃ e, ∃ k, ∃ z, ∃ r, ∃ (ops : Nat → Bool), d.repeats e k z r 0 ∧ ops z.op = true) :=
  ⟨woven [0xF9, 7, 0x30, 0x12], 0, 0, insn [0xF9, 7, 0x30, 0x12], ⟨false, true, 7⟩, fun _ => true, by decide +kernel⟩

/-- The hypotheses of each clause can be met. -/
theorem meets_RepeatLimit :
    (∃ (d : Dev), ∃ e, ∃ k, ∃ z, ∃ r, ∃ n, ∃ (ops : Nat → Bool), ∃ (sem : ZSem), d.repeats e k z r n ∧ ops z.op = true ∧ r.inter = false ∧ (d.ctx k).poison = [] ∧ (∀ x f, sem x e k z ≠ .fault f) ∧ n ≠ 0 ∧ d.f (ENG_CFG e) 27 16 < n) ∧
    (∃ (d : Dev), ∃ e, ∃ k, ∃ z, ∃ r, ∃ (ops : Nat → Bool), d.repeats e k z r 0 ∧ ops z.op = true ∧ (d.ctx k).poison = []) :=
  ⟨⟨woven [0xF8, 2, 0x30, 0x12] |> rw (ENG_CFG 0) 0x10000, 0, 0, insn [0xF8, 2, 0x30, 0x12], ⟨false, false, 2⟩, 2, fun _ => true, fun _ _ _ _ => .hold, ⟨by decide +kernel, by decide +kernel, by decide +kernel, by decide +kernel, fun _ _ h => (by cases h), by decide +kernel, by decide +kernel⟩⟩,
    ⟨woven [0xF8, 0, 0x30, 0x12], 0, 0, insn [0xF8, 0, 0x30, 0x12], ⟨false, false, 0⟩, fun _ => true, by decide +kernel⟩⟩

/-- The hypotheses of each clause can be met. -/
theorem meets_ZelekPrefixes :
    (∃ (s : State), ∃ (e : Fin 96), ∃ k, ∃ z, ∃ r, ∃ n, s.dev.repeats e k z r n ∧ z.op ∈ [0x30, 0x40, 0x50] ∧ 0 < n ∧ n < 2 ^ 32 ∧ (r.inter = true ∨ n ≤ s.dev.f (ENG_CFG e) 27 16) ∧ (s.dev.ctx k).poison = []) ∧
    (∃ (d : Dev), ∃ e, ∃ k, ∃ z, ∃ r, ∃ (ops : Nat → Bool), d.canIssue e = some k ∧ d.zAt k = .ok z ∧ ops z.op = true ∧ z.at_ = some r ∧ z.rep = none ∧ d.loadsOf k = [] ∧ r ∉ (d.ctx k).poison ∧ (d.act k).atGo = false ∧ reached d.tb.st ((d.ctx k).wr r) = false ∧ (d.act k).heldAt = none) ∧
    (∃ (d : Dev), ∃ e, ∃ k, ∃ z, ∃ (ops : Nat → Bool), ∃ h, ∃ n, d.canIssue e = some k ∧ d.holdNow e = h ∧ h.canIssue e = some k ∧ h.zAt k = .ok z ∧ ops z.op = true ∧ (d.act k).heldAt = some n) :=
  ⟨⟨st (woven [0xFB, 7, 0x30, 0x12] |> regs [(7, 0xFFFFFFFF)]), 0, 0, insn [0xFB, 7, 0x30, 0x12], ⟨true, true, 7⟩, 0xFFFFFFFF, by decide +kernel⟩,
    ⟨woven [0xF5, 7, 0x30, 0x12] |> regs [(7, 1)], 0, 0, insn [0xF5, 7, 0x30, 0x12], 7, fun _ => true, by decide +kernel⟩,
    ⟨woven [1] |> acs 0 (fun a => { a with heldAt := some 0 }), 0, 0, insn [1], fun _ => true, (woven [1] |> acs 0 (fun a => { a with heldAt := some 0 })).holdNow 0, 0, ⟨by decide +kernel, rfl, by decide +kernel, by decide +kernel, rfl, by decide +kernel⟩⟩⟩

/-- The hypotheses can be met. -/
theorem meets_EngineAccessConfined : (∃ (d : Dev), ∃ k, ∃ far, ∃ a, ∃ (s : Nat), ∃ write, ∃ m, d.zAddr k far a s write = .inr m ∧ 0 < s) :=
  ⟨woven [], 0, false, 0x10000FFC, 4, true, .local_ 0x8FFC, by decide +kernel⟩

/-- The hypotheses can be met. -/
theorem meets_ExceptionFaultsChannel : (∃ (d : Dev), ∃ k, ∃ cause, k < 512 ∧ cause ≠ 4 ∧ cause ≠ 5 ∧ (d.chan k).mig = none ∧ (d.chan k).ckptPorts = []) :=
  ⟨woven [1], 0, 3, by decide +kernel⟩

/-- The hypotheses can be met. -/
theorem meets_MemoryKeepsForm : (∃ (s : State), s.memWf = true) :=
  ⟨st (on .run), by decide +kernel⟩

/-- The hypotheses can be met. -/
theorem meets_CommandPortCompletes : (∃ k, ∃ status, k < 4 ∧ status < 256) :=
  ⟨3, 255, by decide +kernel⟩


end Sys2Proof.Tests
end

section
/-!
SUPPORT. What a refused access leaves behind (R535): one equation for every register word, the fields of the record, and the
parts of the device that stay. Accesses to unassigned offsets (R5, R531) are settled from it.
-/
namespace Sys2Proof.Machine

/-! ### The word that DEV_ACC_ERR holds of a refused access -/

/-- DEV_ACC_ERR of a refused access that is held: valid, initiator, direction, reason and engine (R535). -/
def accHeld (who : Initiator) (write : Bool) (reason : Nat) : Word :=
  w32 (2 * initCode who + 8 * b2n write + 16 * reason + 256 * initEng who) ||| 1

theorem initCode_lt (who : Initiator) : initCode who < 4 := by
  cases who <;> simp [initCode]

theorem initEng_lt (who : Initiator) : initEng who < 96 := by
  cases who with
  | engine e => exact e.isLt
  | _ => simp [initEng]

/-- The record as a number: its fields do not overlap, since a reason has four bits. -/
theorem accHeld_toNat (who : Initiator) (write : Bool) {reason : Nat} (h : reason < 16) :
    (accHeld who write reason).toNat = 2 * (initCode who + 4 * b2n write + 8 * reason + 128 * initEng who) + 1 := by
  have hc := initCode_lt who
  have he := initEng_lt who
  have hw : b2n write ≤ 1 := by cases write <;> simp [b2n]
  have hn : 2 * initCode who + 8 * b2n write + 16 * reason + 256 * initEng who =
      2 * (initCode who + 4 * b2n write + 8 * reason + 128 * initEng who) := by omega
  have hlt : 2 * (initCode who + 4 * b2n write + 8 * reason + 128 * initEng who) < 2 ^ 32 := by omega
  rw [accHeld, w32, hn, BitVec.toNat_or, BitVec.toNat_ofNat, Nat.mod_eq_of_lt hlt]
  exact (Nat.two_pow_add_eq_or_of_lt (i := 1) (by decide) _).symm

/-- The record's fields read back: valid, initiator, direction, reason and engine. -/
theorem accHeld_fields (who : Initiator) (write : Bool) {reason : Nat} (h : reason < 16) :
    bitOf (accHeld who write reason) 0 = true ∧ fld (accHeld who write reason) 2 1 = initCode who ∧
    bitOf (accHeld who write reason) 3 = write ∧ fld (accHeld who write reason) 7 4 = reason ∧
    fld (accHeld who write reason) 14 8 = initEng who := by
  have hc := initCode_lt who
  have he := initEng_lt who
  simp only [bitOf, fld, accHeld_toNat who write h, Nat.testBit_eq_decide_div_mod_eq, Nat.shiftRight_eq_div_pow,
    decide_eq_true_eq]
  cases write
  case false =>
    simp only [b2n, Bool.false_eq_true, if_false, decide_eq_false_iff_not]
    omega
  case true =>
    simp only [b2n, if_true, decide_eq_true_eq]
    omega

/-! ### The device after a refused access -/

/-- Every register word after a refused access: the count advances, and the record is taken where none was held (R535). -/
theorem accErr_r (d : Dev) (who : Initiator) (write : Bool) (reason addr b : Nat) :
    (d.accErr who write reason addr).r b =
      if b = DEV_ACC_CNT then setFld (d.r DEV_ACC_CNT) 31 0 (satAdd 32 (d.f DEV_ACC_CNT 31 0) 1)
      else if d.b DEV_ACC_ERR 0 = true then d.r b
      else if b = DEV_ACC_ERR then accHeld who write reason
      else if b = DEV_ACC_ADDR then w32 (accAddr who addr)
      else d.r b := by
  have hcnt : ∀ c, ((d.cnt DEV_ACC_CNT).failWrite 1).r c =
      if c = DEV_ACC_CNT then setFld (d.r DEV_ACC_CNT) 31 0 (satAdd 32 (d.f DEV_ACC_CNT 31 0) 1) else d.r c :=
    fun c => Dev.r_satf d DEV_ACC_CNT c 31 0 1
  have hvalid : ((d.cnt DEV_ACC_CNT).failWrite 1).b DEV_ACC_ERR 0 = d.b DEV_ACC_ERR 0 := by
    rw [Dev.b, hcnt, if_neg (by decide), Dev.b]
  unfold Dev.accErr
  dsimp only
  rw [hvalid]
  by_cases hv : d.b DEV_ACC_ERR 0 = true
  · simp only [hv, if_true, hcnt]
  · rw [if_neg hv, if_neg hv, setBell_r]
    simp only [BellReg.addr, Dev.r_w, hcnt]
    by_cases hc : b = DEV_ACC_CNT
    · subst hc
      simp
    · by_cases he : b = DEV_ACC_ERR
      · subst he
        simp [accHeld]
      · simp [hc, he]

theorem vecRise_cut_swc (d : Dev) (v : Option Nat) (before : Bool) :
    (d.vecRise v before).cut = d.cut ∧ (d.vecRise v before).swc = d.swc := by
  unfold Dev.vecRise
  cases v with
  | none => exact ⟨rfl, rfl⟩
  | some n => exact ⟨ite_keeps Dev.cut rfl rfl, ite_keeps Dev.swc rfl rfl⟩

theorem setBell_cut_swc (d : Dev) (b : BellReg) (bits : Word) :
    (d.setBell b bits).cut = d.cut ∧ (d.setBell b bits).swc = d.swc := vecRise_cut_swc ..

/-- A refused access leaves the Cutter and the switch as they are. -/
theorem accErr_cut_swc (d : Dev) (who : Initiator) (write : Bool) (reason addr : Nat) :
    (d.accErr who write reason addr).cut = d.cut ∧ (d.accErr who write reason addr).swc = d.swc := by
  unfold Dev.accErr
  exact ⟨ite_keeps Dev.cut rfl (setBell_cut_swc ..).1, ite_keeps Dev.swc rfl (setBell_cut_swc ..).2⟩

/-- The count of refused accesses advances and saturates. -/
theorem accErr_count (d : Dev) (who : Initiator) (write : Bool) (reason addr : Nat) :
    (d.accErr who write reason addr).f DEV_ACC_CNT 31 0 = Nat.min (d.f DEV_ACC_CNT 31 0 + 1) 0xFFFFFFFF := by
  rw [Dev.f, accErr_r, if_pos rfl, fld_setFld_self _ _ _ _ (by decide) (by decide)]
  simp only [satAdd, Nat.min_def]
  split <;> split <;> omega

/-- A refused access is recorded as R535 has it. -/
theorem accErr_recorded (d : Dev) (who : Initiator) (write : Bool) {reason : Nat} (addr : Nat) (h : reason < 16) :
    d.recorded (d.accErr who write reason addr) who write reason addr := by
  refine ⟨accErr_count .., fun hfree => ?_, fun hheld => ?_⟩
  · have herr : (d.accErr who write reason addr).r DEV_ACC_ERR = accHeld who write reason := by simp [accErr_r, hfree]
    have haddr : (d.accErr who write reason addr).r DEV_ACC_ADDR = w32 (accAddr who addr) := by simp [accErr_r, hfree]
    obtain ⟨hvalid, hinit, hwrite, hreason, heng⟩ := accHeld_fields who write h
    rw [Dev.b, Dev.f, Dev.b, Dev.f, Dev.f, herr]
    exact ⟨hvalid, hinit, hwrite, hreason, heng, haddr⟩
  · simp [accErr_r, hheld]

/-- A refused access changes nothing but the record. -/
theorem accErr_onlyRecorded (d : Dev) (who : Initiator) (write : Bool) (reason addr : Nat) :
    d.onlyRecorded (d.accErr who write reason addr) := by
  have hstill := accErr_still d who write reason addr
  simp only [Dev.still, Dev.failWrite_frame, Prod.mk.injEq] at hstill
  obtain ⟨hmem, hpwr, htb, -, -, -, -, -, -, -, -, -, -, hsec, -⟩ := hstill
  obtain ⟨hcut, hswc⟩ := accErr_cut_swc d who write reason addr
  refine ⟨fun b hcnt herr haddr => ?_, hmem, hcut, hpwr, htb, hsec, hswc⟩
  simp [accErr_r, hcnt, herr, haddr]

/-! ### Unassigned offsets -/

/-- A read of an unassigned offset gives 0 and leaves its record, save an engine's beyond the blocks (R5, R531). -/
theorem regRead_of_unassigned {d : Dev} {a : Nat} (who : Initiator) (hr : d.reaches a) (hu : regDesc a = none) :
    d.regRead who a = (0, if beyondBlocks who a then d else d.accErr who false 2 a) := by
  simp [Dev.regRead, hr.1, hr.2, hu]

/-- A write of an unassigned offset is discarded and leaves its record, save an engine's beyond the blocks (R5, R531). -/
theorem regWrite_of_unassigned {d : Dev} {a : Nat} (who : Initiator) (v hwSet : Word) (hr : d.reaches a)
    (hu : regDesc a = none) : d.regWrite who a v hwSet = if beyondBlocks who a then d else d.accErr who true 2 a := by
  rw [Dev.regWrite, access_of_reaches hr, hu]

/-- Settles O48: both accesses are the model's record of reason 2, and a record is what R535 says and nothing else; an engine
beyond the blocks leaves the device as it was. -/
theorem unassignedOffsets : Obligations.UnassignedOffsets := by
  intro d who a v hwSet hr hu
  rw [regRead_of_unassigned who hr hu, regWrite_of_unassigned who v hwSet hr hu]
  refine ⟨rfl, fun hin => ?_, fun hout => ?_⟩
  · simp only [hin, Bool.false_eq_true, if_false]
    exact ⟨accErr_recorded d who false a (by decide), accErr_onlyRecorded .., accErr_recorded d who true a (by decide),
      accErr_onlyRecorded ..⟩
  · simp only [hout, if_true, and_self]

end Sys2Proof.Machine
end

section
/-!
SUPPORT. Accesses that Boot and Provision keep out (R28): which blocks the two modes close, and what an access to a closed
block answers.
-/
namespace Sys2Proof.Machine

/-- Boot and Provision close every block outside DEV, PWR and SEC (R28). -/
theorem blockOpen_of_boot {d : Dev} {a : Nat} (hm : d.mode = .boot ∨ d.mode = .provision) (hlow : 0x200000 ≤ a)
    (hsec : a < 0x1300000 ∨ 0x1400000 ≤ a) : d.blockOpen a = false := by
  have hmode : (d.pwr.mode == .boot || d.pwr.mode == .provision) = true := by
    rcases hm with hboot | hprov
    · rw [← Dev.mode, hboot]; rfl
    · rw [← Dev.mode, hprov]; rfl
  have hout : ¬ (a < 0x200000 ∨ 0x1300000 ≤ a ∧ a < 0x1400000) := by omega
  simpa [Dev.blockOpen, hmode] using hout

/-- A read that the mode keeps out gives 0 and is recorded with reason 4. -/
theorem regRead_of_closed {d : Dev} {a : Nat} (who : Initiator) (hup : d.hostUp = true) (hb : d.blockOpen a = false) :
    d.regRead who a = (0, d.accErr who false 4 a) := by
  simp [Dev.regRead, hup, hb]

/-- Settles O49: the mode closes the block, so both accesses are the model's record of reason 4 and nothing else, whoever makes
them. -/
theorem bootAccessesRefused : Obligations.BootAccessesRefused := by
  intro d who a v hwSet hup hm hlow hsec
  have hclosed : d.blockOpen a = false := blockOpen_of_boot hm hlow hsec
  have hwrite : d.regWrite who a v hwSet = d.accErr who true 4 a := access_of_closed hup hclosed
  rw [regRead_of_closed who hup hclosed, hwrite]
  exact ⟨rfl, accErr_recorded d who false a (by decide), accErr_onlyRecorded .., accErr_recorded d who true a (by decide),
    accErr_onlyRecorded ..⟩

end Sys2Proof.Machine
end

section
/-!
SUPPORT. How a repeat begins (R157, R210, R211): a count of zero skips the instruction, and a non-interruptible repeat beyond
nonint_max raises REPLIM, where the codewords are clean and nothing else is wrong.
-/
namespace Sys2Proof.Machine

/-- With clean codewords and no hold to charge, the instruction that begins a repeat runs. -/
theorem zStep_repeats {d : Dev} {e k : Nat} {z : ZInstr} {r : ZRep} {n : Nat} {ops : Nat → Bool} (sem : ZSem)
    (h : d.repeats e k z r n) (ho : ops z.op = true) : d.zStep e noEcc ops sem = d.zRun e k noEcc z sem := by
  obtain ⟨hc, hz, -, -, -, -, -, -, hheld⟩ := h
  unfold Dev.zStep
  simp only [holdNow_none hc hheld, hc, hz, ho, if_true, noEcc, reduceCtorEq, if_false, readEcc_clean]

/-- Without AT, the prefixes of a repeat read its count register alone. -/
theorem preReads_of_repeat {z : ZInstr} {r : ZRep} (ha : z.at_ = none) (hr : z.rep = some r) :
    z.preReads = if r.reg then [r.arg] else [] := by
  simp [ZInstr.preReads, ha, hr]

/-- No register of a list is awaited where no far load is outstanding. -/
theorem any_contains_nil (l : List Nat) : l.any ([] : List Nat).contains = false := by
  simp

/-- No register of a list is poisoned where none is. -/
theorem any_poison_of_nil {c : Ctx} (h : c.poison = []) (l : List Nat) : l.any c.poison.contains = false := by
  rw [h, any_contains_nil]

/-- A count that no poisoned register gives: the prefixes of the repeat read nothing poisoned. -/
theorem preReads_clean {z : ZInstr} {r : ZRep} {c : Ctx} (ha : z.at_ = none) (hr : z.rep = some r)
    (hp : r.reg = false ∨ r.arg ∉ c.poison) : z.preReads.any c.poison.contains = false := by
  rw [preReads_of_repeat ha hr]
  rcases hp with himm | hclean
  · simp [himm]
  · split <;> simp [hclean]

/-- A repeat with a count of zero skips its instruction: 1 cycle, one issued instruction, rcnt 0 (R157, R211). -/
theorem zRun_repeat_zero {d : Dev} {e k : Nat} {z : ZInstr} {r : ZRep} (sem : ZSem) (h : d.repeats e k z r 0)
    (hp : r.reg = false ∨ r.arg ∉ (d.ctx k).poison) :
    d.zRun e k noEcc z sem = (d.busyAdd e 1).setAct k (fun a => { a with ctx := { a.ctx.age with
      rcnt := 0, pc := (a.ctx.pc + z.len) % 2 ^ 32, budget := if d.replaying k then a.ctx.budget else a.ctx.budget - 1 } }) := by
  obtain ⟨-, -, hat, hrep, hoff, hloads, hcount, -, -⟩ := h
  unfold Dev.zRun
  simp only [hat, hrep, hoff, hloads, ← hcount, preReads_clean hat hrep hp, List.flatMap_nil, any_contains_nil,
    Bool.false_eq_true, if_false, Option.isSome_none, Option.isSome_some, Bool.false_and, Bool.not_false, Bool.and_true,
    decide_true, if_true]
  rfl

/-- Context `k` with a repeat of `n` iterations begun: where the meaning of its first iteration starts (R210). -/
def Dev.begunRepeat (d : Dev) (k n : Nat) : Dev := (d.begun k).setCtx k (fun c => { c with rcnt := w32 n, repOn := true })

/-- A non-interruptible repeat whose count exceeds nonint_max raises REPLIM before its first iteration, where its meaning raises
nothing and no register is poisoned (R157, R163). -/
theorem zRun_repeat_beyond_limit {d : Dev} {e k : Nat} {z : ZInstr} {r : ZRep} {n : Nat} {sem : ZSem}
    (h : d.repeats e k z r n) (hi : r.inter = false) (hp : (d.ctx k).poison = []) (hs : ∀ x f, sem x e k z ≠ .fault f)
    (hn : n ≠ 0) (hlim : d.f (ENG_CFG e) 27 16 < n) : d.zRun e k noEcc z sem = d.raise e k 6 none := by
  obtain ⟨-, -, hat, hrep, hoff, hloads, hcount, -, -⟩ := h
  cases hx : sem (d.begunRepeat k n) e k z with
  | fault f => exact absurd hx (hs _ f)
  | _ =>
    simp only [Dev.begunRepeat, Dev.begun] at hx
    unfold Dev.zRun
    simp only [hat, hrep, hoff, hloads, ← hcount, hn, hi, hlim, hx, noEcc, any_poison_of_nil hp, List.flatMap_nil,
      any_contains_nil, lowestCause, List.nil_append, Bool.false_eq_true, if_false, Option.isSome_none, Option.isSome_some,
      Bool.false_and, Bool.and_false, Bool.not_false, Bool.not_true, Bool.and_true, decide_true, decide_false, if_true,
      ite_self, reduceCtorEq, readEcc_clean, queueEcc_clean]
    split <;> rfl

/-- Settles O55: the prefixes read nothing poisoned, so a count beyond nonint_max is the one cause there is, and a count of zero
is skipped before the limit is looked at. -/
theorem repeatLimit : Obligations.RepeatLimit := by
  refine ⟨fun d e k z r n ops sem h ho hi hp hs hn hlim => ?_, fun d e k z r ops sem h ho hp => ?_⟩
  · rw [zStep_repeats sem h ho]
    exact zRun_repeat_beyond_limit h hi hp hs hn hlim
  · have hclean : r.reg = false ∨ r.arg ∉ (d.ctx k).poison := .inr (by simp [hp])
    rw [zStep_repeats sem h ho]
    exact zRun_repeat_zero sem h hclean

end Sys2Proof.Machine
end

section
/-!
SUPPORT. A repeat whose count of zero stands in a poisoned register (R211): the prefixes read the register, so FAR_UNCORR is
raised before the instruction is skipped. With the clean count above, both outcomes of a count of zero are settled.
-/
namespace Sys2Proof.Machine

/-- A count that a poisoned register gives: the prefixes of the repeat read it. -/
theorem preReads_poisoned {z : ZInstr} {r : ZRep} {c : Ctx} (ha : z.at_ = none) (hr : z.rep = some r)
    (hreg : r.reg = true) (hp : r.arg ∈ c.poison) : z.preReads.any c.poison.contains = true := by
  rw [preReads_of_repeat ha hr, if_pos hreg]
  simpa using hp

/-- A repeat with a count of zero in a poisoned register raises FAR_UNCORR and skips nothing (R163, R211). -/
theorem zRun_repeat_zero_poisoned {d : Dev} {e k : Nat} {z : ZInstr} {r : ZRep} (sem : ZSem) (h : d.repeats e k z r 0)
    (hreg : r.reg = true) (hp : r.arg ∈ (d.ctx k).poison) : d.zRun e k noEcc z sem = d.raise e k 4 none := by
  obtain ⟨-, -, hat, hrep, hoff, hloads, hcount, -, -⟩ := h
  unfold Dev.zRun
  simp only [hat, hrep, hoff, hloads, ← hcount, preReads_poisoned hat hrep hreg hp, List.flatMap_nil, any_contains_nil,
    Bool.false_eq_true, if_false, Option.isSome_none, Option.isSome_some, Bool.false_and, Bool.not_false, Bool.and_true,
    decide_true, if_true]

/-- Settles O54: the instruction that begins the repeat runs, and whether its count register is poisoned decides between the
skip and FAR_UNCORR. -/
theorem zeroCountSkips : Obligations.ZeroCountSkips := by
  intro d e k z r ops sem h ho
  rw [zStep_repeats sem h ho]
  exact ⟨zRun_repeat_zero sem h, zRun_repeat_zero_poisoned sem h⟩

end Sys2Proof.Machine
end

section
/-!
SUPPORT. A run never stops: every command is its device function, put into effect or, where its operands have the wrong shape,
refused; and a tick leaves only commands without operands from outside.
-/
namespace Sys2Proof.Machine

/-- Operands of the right shape make a checked meaning its device function. -/
theorem liftIf_of_ok {ok : Bool} (f : Dev → Dev) (s : State) (h : ok = true) : liftIf ok f s = lift f s := if_pos h

/-- What a command of the right shape does: it changes the device and leaves the queue. -/
theorem exec_next (c : Instr) (s : State) (h : c.shape = true) : ∃ d, exec c s = .next { s with dev := d } := by
  cases c
  case bankAccess | cutThroughStart | heartbeatReceive | slotFrameReceive | canFrameReceive | txDescriptorServe =>
    exact ⟨_, liftIf_of_ok _ s h⟩
  all_goals exact ⟨_, rfl⟩

theorem all_wf_map {α : Type} (l : List α) (f : α → Instr) (h : ∀ x, (f x).wf = true) : (l.map f).all Instr.wf = true := by
  simp [h]

/-- The commands that a tick makes due name units of the block alone. -/
theorem due_wf (d : Dev) : d.due.all Instr.wf = true := by
  have opt : ∀ (b : Bool) c, Instr.wf c = true → (if b then [c] else []).all Instr.wf = true := fun b c h => by
    cases b <;> simp [h]
  unfold Dev.due
  simp only [List.all_append, Bool.and_eq_true]
  exact ⟨⟨⟨⟨opt _ _ rfl, opt _ _ rfl⟩, all_wf_map _ _ fun _ => rfl⟩, all_wf_map _ _ fun _ => rfl⟩, opt _ _ rfl⟩

theorem dueAfter_wf (d : Dev) : d.dueAfter.all Instr.wf = true := by
  unfold Dev.dueAfter
  simp only [List.all_append, Bool.and_eq_true]
  refine ⟨⟨all_wf_map _ _ fun _ => rfl, all_wf_map _ _ fun _ => rfl⟩, ?_⟩
  rw [List.all_eq_true]
  intro c hc
  obtain ⟨g, -, hg⟩ := List.mem_filterMap.mp hc
  split at hg
  · split at hg
    · cases hg; rfl
    · cases hg
  · cases hg

/-- Settles O46: an empty queue lets a tick pass, which leaves well-formed commands; a command of the right shape leaves the
rest of the queue. -/
theorem runNeverStops : Obligations.RunNeverStops := by
  intro s hq
  obtain ⟨pending, dev⟩ := s
  cases pending with
  | nil =>
    refine ⟨_, rfl, ?_⟩
    simp only [State.queueWf, State.tick, List.nil_append, List.all_append, due_wf, dueAfter_wf, Bool.and_self]
  | cons c rest =>
    simp only [State.queueWf, List.all_cons, Instr.wf, Bool.and_eq_true] at hq
    obtain ⟨⟨hshape, -⟩, hrest⟩ := hq
    obtain ⟨d, hd⟩ := exec_next c { pending := rest, dev := dev } hshape
    exact ⟨_, hd, hrest⟩

end Sys2Proof.Machine
end

section
/-!
SUPPORT. The Zelek encoder inverts the decoder (06_zelek_encoding.md): what the loop over the prefixes takes, which bytes the decoder
reads, and that each format's operands are the bytes behind the opcode.
-/
namespace Sys2Proof.Machine

/-! ### Spans of bytes -/

/-- The `n` bytes from offset `o`. -/
def zSpan (bs : List Byte) (o n : Nat) : List Byte := (bs.drop o).take n

theorem zSpan_succ {bs : List Byte} {o n : Nat} (h : o < bs.length) : zSpan bs o (n + 1) = byteAt bs o :: zSpan bs (o + 1) n := by
  rw [zSpan, List.drop_eq_getElem_cons h, List.take_succ_cons, byteAt, List.getElem?_eq_getElem h, zSpan]
  rfl

theorem zSpan_add (bs : List Byte) (o m n : Nat) : zSpan bs o (m + n) = zSpan bs o m ++ zSpan bs (o + m) n := by
  rw [zSpan, List.take_add, List.drop_drop, zSpan, zSpan]

theorem take_eq_append_zSpan {bs : List Byte} {i n : Nat} (h : i ≤ n) : bs.take n = bs.take i ++ zSpan bs i (n - i) := by
  rw [zSpan, ← List.take_add, Nat.add_sub_cancel' h]

/-- The low byte first is how a little-endian number was read. -/
theorem zLittle_leVal (l : List Byte) : zLittle l.length (leVal l) = l.map BitVec.toNat := by
  induction l with
  | nil => rfl
  | cons b l ih =>
    have hb : b.toNat < 256 := b.isLt
    have hmod : (b.toNat + 256 * leVal l) % 256 = b.toNat := by omega
    have hdiv : (b.toNat + 256 * leVal l) / 256 = leVal l := by omega
    simp [zLittle, leVal, hmod, hdiv, ih]

theorem zLittle_leAt {bs : List Byte} {o n : Nat} (h : o + n ≤ bs.length) :
    zLittle n (leAt bs o n) = (zSpan bs o n).map BitVec.toNat := by
  have hlen : (zSpan bs o n).length = n := by simp [zSpan]; omega
  rw [← zLittle_leVal, hlen, leAt, zSpan]

theorem leVal_lt (l : List Byte) : leVal l < 2 ^ (8 * l.length) := by
  induction l with
  | nil => simp [leVal]
  | cons b l ih =>
    have hb : b.toNat < 256 := b.isLt
    have hp : 2 ^ (8 * (l.length + 1)) = 256 * 2 ^ (8 * l.length) := by
      rw [Nat.mul_add, Nat.pow_add, Nat.mul_comm]
    simp only [leVal, List.length_cons, hp]
    omega

theorem leAt_lt (bs : List Byte) (o n : Nat) : leAt bs o n < 2 ^ (8 * n) :=
  Nat.lt_of_lt_of_le (leVal_lt _) (Nat.pow_le_pow_right (by decide) (by simp))

/-- Two's complement of the signed reading of a value of that width. -/
theorem tc_sx {w v : Nat} (h : v < 2 ^ w) : tc w (sx w v) = v := by
  have hv : ((v : Int) % 2 ^ w) = v := Int.emod_eq_of_lt (by omega) (by exact_mod_cast h)
  unfold tc sx
  rw [Nat.mod_eq_of_lt h]
  dsimp only
  split
  · rw [hv, Int.toNat_natCast]
  · rw [Int.sub_emod_right, hv, Int.toNat_natCast]

/-! ### The loop over the prefixes -/

/-- The bytes of the prefixes that have been taken. -/
def ZPre.bytes (p : ZPre) : List Nat :=
  (if p.far then [0xF0] else []) ++ (if p.ord then [0xF1] else []) ++ p.size.prefix_ ++
    (match p.at_ with | some (_, v) => [0xF5, v] | none => []) ++
    (match p.rep with | some (c, _, v) => [c, v] | none => [])

/-- Nothing above the last code has been taken, and a repeat has one of its four codes and no AT beside it (R171, R172). -/
def ZPre.ordered (p : ZPre) : Prop :=
  (p.last < 0xF0 → p.far = false) ∧ (p.last < 0xF1 → p.ord = false) ∧ (p.last < 0xF2 → p.size = .none) ∧
    (p.last < 0xF5 → p.at_ = none) ∧ (p.last < 0xF8 → p.rep = none) ∧
    (∀ c o v, p.rep = some (c, o, v) → 0xF8 ≤ c ∧ c < 0xFC)

/-- The loop takes code `c` after the prefixes `p` (R172). -/
def ZPre.takes (p : ZPre) (c : Nat) : Prop :=
  0xF0 ≤ c ∧ c ≠ 0xF6 ∧ c ≠ 0xF7 ∧ c < 0xFC ∧ p.last < c ∧ ¬(0xF2 ≤ p.last ∧ p.last ≤ 0xF4 ∧ c ≤ 0xF4) ∧
    ¬(0xF8 ≤ p.last ∧ 0xF8 ≤ c) ∧ ¬(0xF8 ≤ c ∧ p.at_.isSome = true) ∧ p.codes < 4

/-- The test of the loop refuses just the codes that it does not take. -/
theorem zPrefix_stops {p0 : ZPre} {p : Nat} (h : 0xF0 ≤ p) :
    (p = 0xF6 || p = 0xF7 || 0xFC ≤ p || p ≤ p0.last || (0xF2 ≤ p0.last && p0.last ≤ 0xF4 && p ≤ 0xF4) ||
      (0xF8 ≤ p0.last && 0xF8 ≤ p) || (0xF8 ≤ p && p0.at_.isSome) || 4 ≤ p0.codes) = true ↔ ¬ p0.takes p := by
  unfold ZPre.takes
  simp only [Bool.or_eq_true, Bool.and_eq_true, decide_eq_true_eq]
  cases p0.at_.isSome
  · simp only [Bool.false_eq_true, and_false, or_false, not_false_eq_true, true_and]
    omega
  · simp only [and_true]
    omega

/-- One round of the loop that ends well: the byte is the opcode, or a code that it takes. -/
theorem zPrefixes_succ_inr (bs : List Byte) (fuel : Nat) (p0 p : ZPre) : zPrefixes bs (fuel + 1) p0 = .inr p ↔
    ∃ b, bs[p0.i]? = some b ∧ (b.toNat < 0xF0 ∧ p0 = p ∨
      p0.takes b.toNat ∧ zPrefixes bs fuel (p0.add b.toNat (byteAt bs (p0.i + 1)).toNat) = .inr p) := by
  rw [zPrefixes]
  cases bs[p0.i]? with
  | none => simp
  | some b =>
    simp only [Option.some.injEq, exists_eq_left']
    by_cases hop : b.toNat < 0xF0
    · simp [hop, ZPre.takes, show ¬ 0xF0 ≤ b.toNat by omega]
    · by_cases ht : p0.takes b.toNat
      · rw [if_neg hop, if_neg (mt (zPrefix_stops (by omega)).mp (not_not.mpr ht))]
        simp [hop, ht]
      · rw [if_neg hop, if_pos ((zPrefix_stops (by omega)).mpr ht)]
        simp [hop, ht]

/-- A code takes one byte, or two from F5 on (R171). -/
theorem ZPre.add_i (p : ZPre) {c : Nat} (arg : Nat) (h : 0xF0 ≤ c) :
    (p.add c arg).i = p.i + (if c < 0xF5 then 1 else 2) := by
  unfold ZPre.add
  by_cases hc : c < 0xF5
  · interval_cases c <;> rfl
  · have hne : ∀ n < 0xF5, c ≠ n := fun n hn => by omega
    rw [if_neg hc]
    simp only [hne _ (by decide : 0xF0 < 0xF5), hne _ (by decide : 0xF1 < 0xF5), hne _ (by decide : 0xF2 < 0xF5),
      hne _ (by decide : 0xF3 < 0xF5), hne _ (by decide : 0xF4 < 0xF5), if_false]
    split <;> rfl

/-- A code of one byte has no operand. -/
theorem ZPre.add_short (p : ZPre) {c : Nat} (a b : Nat) (h : 0xF0 ≤ c) (hc : c < 0xF5) : p.add c a = p.add c b := by
  unfold ZPre.add
  interval_cases c <;> rfl

theorem zPrefixes_le {bs : List Byte} {fuel : Nat} {p0 p : ZPre} (h : zPrefixes bs fuel p0 = .inr p) : p0.i ≤ p.i := by
  induction fuel generalizing p0 with
  | zero =>
    obtain rfl : p0 = p := by simpa [zPrefixes] using h
    exact Nat.le_refl _
  | succ fuel ih =>
    obtain ⟨b, -, ⟨-, rfl⟩ | ⟨ht, hgo⟩⟩ := (zPrefixes_succ_inr ..).mp h
    · exact Nat.le_refl _
    · have hi := p0.add_i (byteAt bs (p0.i + 1)).toNat ht.1
      exact Nat.le_trans (by rw [hi]; omega) (ih hgo)

/-- A code that the loop takes stands behind the prefixes before it, with its operand byte from F5 on. -/
theorem ZPre.add_bytes {p : ZPre} {c : Nat} (arg : Nat) (ho : p.ordered) (ht : p.takes c) :
    (p.add c arg).bytes = p.bytes ++ (if c < 0xF5 then [c] else [c, arg]) ∧ (p.add c arg).ordered := by
  obtain ⟨hf, hord, hs, ha, hr, -⟩ := ho
  obtain ⟨hlo, h6, h7, hhi, hlast, hsize, hrep, hat, -⟩ := ht
  have hr := hr (by omega)
  by_cases hF5 : c < 0xF5
  · have ha := ha (by omega)
    have hs := hs (by omega)
    interval_cases c
    · simp [ZPre.add, ZPre.bytes, ZPre.ordered, hr, ha, hs, hf hlast, hord (by omega), ZSize.prefix_]
    · simp [ZPre.add, ZPre.bytes, ZPre.ordered, hr, ha, hs, hord hlast, ZSize.prefix_]
    all_goals simp [ZPre.add, ZPre.bytes, ZPre.ordered, hr, ha, hs, ZSize.prefix_]
  · interval_cases c
    · simp [ZPre.add, ZPre.bytes, ZPre.ordered, hr, ha hlast]
    · contradiction
    · contradiction
    all_goals
      have hat : p.at_ = none := by simpa using hat
      simp [ZPre.add, ZPre.bytes, ZPre.ordered, hr, hat]

/-- What the loop leaves when it ends well: the prefixes taken are the bytes before the opcode. -/
theorem zPrefixes_bytes {bs : List Byte} {fuel : Nat} {p0 p : ZPre} (h : zPrefixes bs fuel p0 = .inr p) (ho : p0.ordered)
    (hb : p0.i ≤ bs.length → p0.bytes = (bs.take p0.i).map BitVec.toNat) :
    p.ordered ∧ (p.i ≤ bs.length → p.bytes = (bs.take p.i).map BitVec.toNat) := by
  induction fuel generalizing p0 with
  | zero =>
    obtain rfl : p0 = p := by simpa [zPrefixes] using h
    exact ⟨ho, hb⟩
  | succ fuel ih =>
    obtain ⟨b, hbyte, ⟨-, rfl⟩ | ⟨ht, hgo⟩⟩ := (zPrefixes_succ_inr ..).mp h
    · exact ⟨ho, hb⟩
    · obtain ⟨hadd, ho'⟩ := ZPre.add_bytes (byteAt bs (p0.i + 1)).toNat ho ht
      have hi := p0.add_i (byteAt bs (p0.i + 1)).toNat ht.1
      obtain ⟨hlt, hget⟩ := List.getElem?_eq_some_iff.mp hbyte
      have hat : byteAt bs p0.i = b := by rw [byteAt, hbyte]; rfl
      have hb' : (p0.add b.toNat (byteAt bs (p0.i + 1)).toNat).i ≤ bs.length →
          (p0.add b.toNat (byteAt bs (p0.i + 1)).toNat).bytes =
            (bs.take (p0.add b.toNat (byteAt bs (p0.i + 1)).toNat).i).map BitVec.toNat := by
        intro hle
        rw [hadd, hb (by omega), hi, take_eq_append_zSpan (Nat.le_add_right ..), List.map_append, Nat.add_sub_cancel_left]
        rw [hi] at hle
        split at hle
        · rw [if_pos ‹_›, if_pos ‹_›, zSpan_succ hlt, hat]
          rfl
        · rw [if_neg ‹_›, if_neg ‹_›, zSpan_succ hlt, zSpan_succ (by omega), hat]
          rfl
      exact ih hgo ho' hb'

/-! ### What the decoder reads -/

/-- Two byte strings agree below offset `n`. -/
def zAgree (n : Nat) (as bs : List Byte) : Prop := ∀ j < n, as[j]? = bs[j]?

theorem byteAt_of_agree {n j : Nat} {as bs : List Byte} (h : zAgree n as bs) (hj : j < n) : byteAt as j = byteAt bs j := by
  rw [byteAt, byteAt, h j hj]

theorem leAt_of_agree {n o k : Nat} {as bs : List Byte} (h : zAgree n as bs) (hk : o + k ≤ n) : leAt as o k = leAt bs o k := by
  have hs : (as.drop o).take k = (bs.drop o).take k := by
    apply List.ext_getElem?
    intro j
    simp only [List.getElem?_take, List.getElem?_drop]
    split
    · exact h _ (by omega)
    · rfl
  rw [leAt, leAt, hs]

theorem take_append_agree {bs : List Byte} {n : Nat} (rest : List Byte) (h : n ≤ bs.length) :
    zAgree n (bs.take n ++ rest) bs := by
  intro j hj
  rw [List.getElem?_append_left (by simp; omega), List.getElem?_take, if_pos hj]

/-- The loop reads the prefixes and the opcode. -/
theorem zPrefixes_of_agree {as bs : List Byte} {n fuel : Nat} {p0 p : ZPre} (h : zPrefixes bs fuel p0 = .inr p)
    (hn : p.i < n) (ha : zAgree n as bs) : zPrefixes as fuel p0 = .inr p := by
  induction fuel generalizing p0 with
  | zero => simpa [zPrefixes] using h
  | succ fuel ih =>
    have hle := zPrefixes_le h
    obtain ⟨b, hbyte, hstep⟩ := (zPrefixes_succ_inr ..).mp h
    refine (zPrefixes_succ_inr ..).mpr ⟨b, by rw [ha _ (by omega), hbyte], ?_⟩
    rcases hstep with hop | ⟨ht, hgo⟩
    · exact .inl hop
    · have hadd : p0.add b.toNat (byteAt as (p0.i + 1)).toNat = p0.add b.toNat (byteAt bs (p0.i + 1)).toNat := by
        by_cases hshort : b.toNat < 0xF5
        · exact ZPre.add_short _ _ _ ht.1 hshort
        · have hi := p0.add_i (byteAt bs (p0.i + 1)).toNat ht.1
          rw [if_neg hshort] at hi
          have hnext := zPrefixes_le hgo
          rw [byteAt_of_agree ha (by omega)]
      exact .inr ⟨ht, by rw [hadd]; exact ih hgo⟩

/-- A byte is judged by itself and bytes before it. -/
theorem zBad_of_agree {as bs : List Byte} {n j : Nat} (p : ZPre) (op : Nat) (f : ZFmt) (hj : j < n) (ha : zAgree n as bs) :
    zBad as p op f j = zBad bs p op f j := by
  have hfield : f = .bf → j - p.i = 3 → byteAt as (p.i + 2) = byteAt bs (p.i + 2) := fun _ h => byteAt_of_agree ha (by omega)
  unfold zBad
  simp only [byteAt_of_agree ha hj]
  cases f
  case bf =>
    by_cases h3 : j - p.i = 3
    · simp only [hfield rfl h3]
    · have hne : (j - p.i == 3) = false := by simpa using h3
      simp only [hne, Bool.false_and]
  all_goals rfl

/-- The bytes are accepted just if each lies in the window and breaks no rule. -/
theorem zJudge_eq_none (bs : List Byte) (p : ZPre) (op : Nat) (f : ZFmt) (k j : Nat) :
    zJudge bs p op f k j = none ↔ ∀ i, j ≤ i → i < j + k → i < bs.length ∧ zBad bs p op f i = false := by
  induction k generalizing j with
  | zero => simp only [zJudge, true_iff]; omega
  | succ k ih =>
    rw [zJudge]
    constructor
    · intro h i hi hk
      split at h
      · cases h
      · split at h
        · cases h
        · rcases Nat.eq_or_lt_of_le hi with rfl | hlt
          · exact ⟨by omega, by simpa using ‹¬ zBad bs p op f j = true›⟩
          · exact (ih (j + 1)).mp h i hlt (by omega)
    · intro h
      obtain ⟨hlen, hbad⟩ := h j (Nat.le_refl _) (by omega)
      rw [if_neg (by omega), hbad, if_neg (by decide)]
      exact (ih (j + 1)).mpr fun i hi hk => h i (by omega) (by omega)

/-- A judgement is a violation or the end of the window. -/
theorem zJudge_ne_ok (bs : List Byte) (p : ZPre) (op : Nat) (f : ZFmt) (k j : Nat) (z : ZInstr) :
    zJudge bs p op f k j ≠ some (.ok z) := by
  induction k generalizing j with
  | zero => simp [zJudge]
  | succ k ih =>
    rw [zJudge]
    split
    · simp
    · split
      · simp
      · exact ih _

theorem zJudge_of_agree {as bs : List Byte} {p : ZPre} {op : Nat} {f : ZFmt} {n : Nat} (h : zJudge bs p op f n 0 = none)
    (ha : zAgree n as bs) : zJudge as p op f n 0 = none := by
  rw [zJudge_eq_none] at *
  intro i hi hn
  obtain ⟨hlen, hbad⟩ := h i hi hn
  have hget : as[i]? = bs[i]? := ha i (by omega)
  refine ⟨?_, by rw [zBad_of_agree p op f (by omega) ha, hbad]⟩
  rw [List.getElem?_eq_getElem hlen] at hget
  exact (List.getElem?_eq_some_iff.mp hget).1

/-! ### The length of an instruction, and its fields -/

/-- The format has an M byte (R175). -/
def ZFmt.hasM (f : ZFmt) : Bool := f == .m || f == .mi

/-- The bytes of the displacement that the M byte `m` asks for (R178). -/
def zDispLen (f : ZFmt) (m : Nat) : Nat := if !f.hasM || m / 64 < 2 then 0 else if m / 64 = 2 then 1 else 4

/-- The length of an instruction behind its prefixes, from its format and its M byte (R175, R178, R179). -/
def zTail (size : ZSize) (op : Nat) (f : ZFmt) (m : Nat) : Nat :=
  f.len + zDispLen f m + (if f == .mi then size.bytes else 0) + (if op = 0x12 && size == .wide then 4 else 0)

/-- Every format but N has a byte behind the opcode. -/
theorem zTail_two (size : ZSize) (op : Nat) {f : ZFmt} (m : Nat) (h : f ≠ .n) : 2 ≤ zTail size op f m := by
  have hf : 2 ≤ f.len := by
    revert h
    cases f <;> decide
  unfold zTail
  omega

/-- The prefixes before the first byte. -/
def ZPre.init : ZPre := { i := 0, last := 0, codes := 0, far := false, ord := false, size := .none, at_ := none, rep := none }

/-- What the decoder accepts. -/
theorem zDecode_eq_ok (bs : List Byte) (z : ZInstr) : zDecode bs = .ok z ↔ ∃ p b f len, zPrefixes bs 6 ZPre.init = .inr p ∧
    bs[p.i]? = some b ∧ zFmt b.toNat = some f ∧ (f.hasM = true → p.i + 1 < bs.length) ∧
    len = p.i + zTail p.size b.toNat f (byteAt bs (p.i + 1)).toNat ∧ len ≤ 15 ∧ zJudge bs p b.toNat f len 0 = none ∧
    zFields bs p b.toNat f len = z := by
  unfold zDecode
  rw [show (⟨0, 0, 0, false, false, .none, none, none⟩ : ZPre) = ZPre.init from rfl]
  cases zPrefixes bs 6 ZPre.init with
  | inl o => cases o <;> simp
  | inr p =>
    dsimp only
    cases hb : bs[p.i]? with
    | none => simp [hb]
    | some b =>
      dsimp only
      cases hf : zFmt b.toNat with
      | none => simp [hb, hf]
      | some f =>
        have hmode : (if !(f == .m || f == .mi) || (byteAt bs (p.i + 1)).toNat / 64 < 2 then 0
            else if (byteAt bs (p.i + 1)).toNat / 64 = 2 then 1 else 4) = zDispLen f (byteAt bs (p.i + 1)).toNat := rfl
        dsimp only
        rw [hmode, show (f == .m || f == .mi) = f.hasM from rfl]
        generalize hlen : p.i + f.len + zDispLen f (byteAt bs (p.i + 1)).toNat + (if (f == .mi) = true then p.size.bytes else 0) +
          (if (decide (b.toNat = 0x12) && p.size == .wide) = true then 4 else 0) = len
        have htail : len = p.i + zTail p.size b.toNat f (byteAt bs (p.i + 1)).toNat := by
          rw [← hlen, zTail]; omega
        constructor
        · intro h
          split at h
          · cases h
          · split at h
            · cases h
            · split at h
              · exact absurd (by rw [‹zJudge .. = _›, h]) (zJudge_ne_ok bs p b.toNat f len 0 z)
              · have hM : f.hasM = true → p.i + 1 < bs.length := fun hm => by simp_all
                exact ⟨p, b, f, len, rfl, hb, hf, hM, htail, by omega, ‹zJudge .. = _›, ZDecode.ok.inj h⟩
        · rintro ⟨p', b', f', len', hp, hb', hf', hM, hlen', h15, hj, hz⟩
          obtain rfl := Sum.inr.inj hp
          obtain rfl := Option.some.inj (hb.symm.trans hb')
          obtain rfl := Option.some.inj (hf.symm.trans hf')
          obtain rfl : len = len' := by rw [htail, hlen']
          have hin : (f.hasM && decide (bs.length ≤ p.i + 1)) = false := by
            cases hm : f.hasM
            · rfl
            · have hlt := hM hm
              simpa using hlt
          rw [hin, if_neg (by decide), if_neg (by omega), hj, hz]

theorem zDispLen_of_hasM {f : ZFmt} (m : Nat) (h : f.hasM = true) :
    zDispLen f m = if m < 128 then 0 else if m < 192 then 1 else 4 := by
  unfold zDispLen
  rw [h]
  by_cases h1 : m < 128
  · simp [h1, show m / 64 < 2 by omega]
  · by_cases h2 : m < 192
    · simp [h1, h2, show m / 64 = 2 by omega]
    · simp [h1, h2, show ¬ m / 64 < 2 by omega, show ¬ m / 64 = 2 by omega]

/-- The fields that the prefixes and the opcode give. -/
def zHead (p : ZPre) (op len : Nat) : ZInstr :=
  { op := op, len := len, far := p.far, ord := p.ord, size := p.size, at_ := p.at_.map (·.2),
    rep := p.rep.map (fun r => { inter := 0xFA ≤ r.1, reg := r.1 == 0xF9 || r.1 == 0xFB, arg := r.2.2 }),
    rb := 0, b3 := 0, m := 0, disp := 0, imm := 0 }

/-- The displacement that the M byte `m` asks for, at offset `o`. -/
def zDispAt (bs : List Byte) (o m : Nat) : Int :=
  if m < 128 then 0 else if m < 192 then sx 8 (leAt bs o 1) else sx 32 (leAt bs o 4)

section
variable (bs : List Byte) (p : ZPre) (op len : Nat)

theorem zFields_n : zFields bs p op .n len = zHead p op len := rfl

theorem zFields_byte {f : ZFmt} (h : f ∈ [ZFmt.r, .rr, .c, .a, .ac]) :
    zFields bs p op f len = { zHead p op len with rb := (byteAt bs (p.i + 1)).toNat } := by
  simp only [List.mem_cons, List.not_mem_nil, or_false] at h
  rcases h with rfl | rfl | rfl | rfl | rfl <;> rfl

theorem zFields_pair {f : ZFmt} (h : f ∈ [ZFmt.xy, .ar, .cr, .cx]) : zFields bs p op f len =
    { zHead p op len with rb := (byteAt bs (p.i + 1)).toNat, b3 := (byteAt bs (p.i + 2)).toNat } := by
  simp only [List.mem_cons, List.not_mem_nil, or_false] at h
  rcases h with rfl | rfl | rfl | rfl <;> rfl

theorem zFields_ri8 : zFields bs p op .ri8 len =
    { zHead p op len with rb := (byteAt bs (p.i + 1)).toNat, imm := (byteAt bs (p.i + 2)).toNat } := rfl

theorem zFields_ri32 : zFields bs p op .ri32 len = { zHead p op len with
    rb := (byteAt bs (p.i + 1)).toNat, imm := leAt bs (p.i + 2) (if op = 0x12 && p.size == .wide then 8 else 4) } := rfl

theorem zFields_bf : zFields bs p op .bf len =
    { zHead p op len with rb := (byteAt bs (p.i + 1)).toNat, imm := leAt bs (p.i + 2) 2 } := rfl

theorem zFields_d8 : zFields bs p op .d8 len = { zHead p op len with disp := sx 8 (byteAt bs (p.i + 1)).toNat } := rfl

theorem zFields_d32 : zFields bs p op .d32 len = { zHead p op len with disp := sx 32 (leAt bs (p.i + 1) 4) } := rfl

theorem zFields_rd8 : zFields bs p op .rd8 len =
    { zHead p op len with rb := (byteAt bs (p.i + 1)).toNat, disp := sx 8 (byteAt bs (p.i + 2)).toNat } := rfl

theorem zFields_m : zFields bs p op .m len = { zHead p op len with
    m := (byteAt bs (p.i + 1)).toNat, rb := (byteAt bs (p.i + 2)).toNat,
    disp := zDispAt bs (p.i + 3) (byteAt bs (p.i + 1)).toNat } := by
  unfold zFields zDispAt
  by_cases h1 : (byteAt bs (p.i + 1)).toNat < 128
  · simp [h1, zHead]
  · by_cases h2 : (byteAt bs (p.i + 1)).toNat < 192 <;> simp [h1, h2, zHead]

theorem zFields_mi : zFields bs p op .mi len = { zHead p op len with
    m := (byteAt bs (p.i + 1)).toNat, disp := zDispAt bs (p.i + 2) (byteAt bs (p.i + 1)).toNat,
    imm := leAt bs (p.i + 2 + zDispLen .mi (byteAt bs (p.i + 1)).toNat) p.size.bytes } := by
  rw [zDispLen_of_hasM _ rfl]
  unfold zFields zDispAt
  by_cases h1 : (byteAt bs (p.i + 1)).toNat < 128
  · simp [h1, zHead]
  · by_cases h2 : (byteAt bs (p.i + 1)).toNat < 192 <;> simp [h1, h2, zHead]
end

theorem zDispAt_of_agree {as bs : List Byte} {n o m : Nat} {f : ZFmt} (hf : f.hasM = true) (ha : zAgree n as bs)
    (ho : o + zDispLen f m ≤ n) : zDispAt as o m = zDispAt bs o m := by
  rw [zDispLen_of_hasM _ hf] at ho
  unfold zDispAt
  split
  · rfl
  · rw [if_neg ‹_›] at ho
    split
    · rw [if_pos ‹_›] at ho
      rw [leAt_of_agree ha ho]
    · rw [if_neg ‹_›] at ho
      rw [leAt_of_agree ha ho]

/-- The fields come from the instruction's own bytes. -/
theorem zFields_of_agree {as bs : List Byte} {p : ZPre} {op : Nat} {f : ZFmt} {len : Nat}
    (hlen : len = p.i + zTail p.size op f (byteAt bs (p.i + 1)).toNat) (ha : zAgree len as bs) :
    zFields as p op f len = zFields bs p op f len := by
  have hb : ∀ k, p.i + k < len → byteAt as (p.i + k) = byteAt bs (p.i + k) := fun k hk => byteAt_of_agree ha hk
  have hl : ∀ k n, p.i + k + n ≤ len → leAt as (p.i + k) n = leAt bs (p.i + k) n := fun k n hk => leAt_of_agree ha hk
  unfold zTail at hlen
  cases f
  case n => rfl
  case r | rr | c | a | ac =>
    simp only [ZFmt.len] at hlen
    rw [zFields_byte _ _ _ _ (by simp), zFields_byte _ _ _ _ (by simp), hb 1 (by omega)]
  case xy | ar | cr | cx =>
    simp only [ZFmt.len] at hlen
    rw [zFields_pair _ _ _ _ (by simp), zFields_pair _ _ _ _ (by simp), hb 1 (by omega), hb 2 (by omega)]
  case ri8 =>
    simp only [ZFmt.len] at hlen
    rw [zFields_ri8, zFields_ri8, hb 1 (by omega), hb 2 (by omega)]
  case ri32 =>
    simp only [ZFmt.len] at hlen
    rw [zFields_ri32, zFields_ri32, hb 1 (by omega), hl 2 _ (by split <;> simp_all <;> omega)]
  case bf =>
    simp only [ZFmt.len] at hlen
    rw [zFields_bf, zFields_bf, hb 1 (by omega), hl 2 2 (by omega)]
  case d8 =>
    simp only [ZFmt.len] at hlen
    rw [zFields_d8, zFields_d8, hb 1 (by omega)]
  case d32 =>
    simp only [ZFmt.len] at hlen
    rw [zFields_d32, zFields_d32, hl 1 4 (by omega)]
  case rd8 =>
    simp only [ZFmt.len] at hlen
    rw [zFields_rd8, zFields_rd8, hb 1 (by omega), hb 2 (by omega)]
  case m =>
    simp only [ZFmt.len] at hlen
    rw [zFields_m, zFields_m, hb 1 (by omega), hb 2 (by omega), zDispAt_of_agree (f := .m) rfl ha (by omega)]
  case mi =>
    simp only [ZFmt.len] at hlen
    have hpos : 1 ≤ p.size.bytes := by cases p.size <;> decide
    have himm : ∀ d, 2 + d + p.size.bytes ≤ len - p.i →
        leAt as (p.i + 2 + d) p.size.bytes = leAt bs (p.i + 2 + d) p.size.bytes := fun d h => leAt_of_agree ha (by omega)
    rw [zFields_mi, zFields_mi, hb 1 (by omega), zDispAt_of_agree (f := .mi) rfl ha (by simp at hlen; omega),
      himm _ (by simp at hlen; omega)]

/-! ### The encoder gives the bytes back -/

theorem zFields_prefixes (bs : List Byte) {p : ZPre} (op : Nat) (f : ZFmt) (len : Nat) (ho : p.ordered) :
    (zFields bs p op f len).prefixes = p.bytes := by
  obtain ⟨-, -, -, -, -, hrep⟩ := ho
  have hz : (zFields bs p op f len).prefixes = (zHead p op len).prefixes := rfl
  rw [hz]
  unfold ZInstr.prefixes ZPre.bytes zHead
  congr 1
  · congr 1
    cases p.at_ <;> rfl
  · cases hr : p.rep with
    | none => rfl
    | some r =>
      obtain ⟨c, o, v⟩ := r
      obtain ⟨hlo, hhi⟩ := hrep c o v hr
      interval_cases c <;> rfl

/-- The displacement's bytes come back. -/
theorem dispBytes_zDispAt {z : ZInstr} {bs : List Byte} {o : Nat} {f : ZFmt} (hf : f.hasM = true) (hd : z.disp = zDispAt bs o z.m)
    (ho : o + zDispLen f z.m ≤ bs.length) : z.dispBytes = (zSpan bs o (zDispLen f z.m)).map BitVec.toNat := by
  rw [zDispLen_of_hasM _ hf] at *
  unfold ZInstr.dispBytes
  rw [hd]
  unfold zDispAt
  split
  · rfl
  · split
    · rw [if_neg ‹_›, if_pos ‹_›] at ho
      rw [tc_sx (leAt_lt bs o 1), zLittle_leAt ho]
    · rw [if_neg ‹_›, if_neg ‹_›] at ho
      rw [tc_sx (leAt_lt bs o 4), zLittle_leAt ho]

theorem tc_sx_byte (b : Byte) : tc 8 (sx 8 b.toNat) = b.toNat := tc_sx b.isLt

section
variable {op : Nat} (size : ZSize) (m : Nat)

/-- Only the opcode 12 has an immediate of eight bytes (R179). -/
theorem zTail_of_fmt {f : ZFmt} (hf : zFmt op = some f) (hne : f ≠ .ri32) :
    zTail size op f m = f.len + zDispLen f m + (if f == .mi then size.bytes else 0) := by
  have hop : op ≠ 0x12 := by
    rintro rfl
    exact hne (Option.some.inj hf).symm
  simp [zTail, hop]

theorem zTail_fixed {f : ZFmt} (hf : zFmt op = some f) (hm : f.hasM = false) (hne : f ≠ .ri32) : zTail size op f m = f.len := by
  have hmi : (f == .mi) = false := by
    revert hm
    cases f <;> decide
  rw [zTail_of_fmt size m hf hne, zDispLen, hm, hmi]
  rfl

theorem zTail_ri32 : zTail size op .ri32 m = 2 + (if op = 0x12 && size == .wide then 8 else 4) := by
  have hlen : zTail size op .ri32 m = 6 + 0 + 0 + (if op = 0x12 && size == .wide then 4 else 0) := rfl
  rw [hlen]
  split <;> rfl
end

/-- The operands are the bytes behind the opcode. -/
theorem operands_zFields {bs : List Byte} {p : ZPre} {op : Nat} {f : ZFmt} {len : Nat} (hf : zFmt op = some f)
    (hlen : len = p.i + zTail p.size op f (byteAt bs (p.i + 1)).toNat) (hle : len ≤ bs.length) :
    (zFields bs p op f len).operands f = (zSpan bs (p.i + 1) (len - (p.i + 1))).map BitVec.toNat := by
  have hspan : ∀ k n, p.i + k + n = len → zLittle n (leAt bs (p.i + k) n) = (zSpan bs (p.i + k) n).map BitVec.toNat :=
    fun k n h => zLittle_leAt (by omega)
  have hone : ∀ k n, p.i + k < len → zSpan bs (p.i + k) (n + 1) = byteAt bs (p.i + k) :: zSpan bs (p.i + (k + 1)) n :=
    fun k n h => zSpan_succ (by omega)
  have hend : ∀ o, zSpan bs o 0 = [] := fun o => rfl
  cases f
  case n =>
    rw [zTail_fixed _ _ hf rfl (by decide), ZFmt.len] at hlen
    rw [show len - (p.i + 1) = 0 by omega]
    rfl
  case r | rr | c | a | ac | d8 =>
    rw [zTail_fixed _ _ hf rfl (by decide), ZFmt.len] at hlen
    rw [show len - (p.i + 1) = 0 + 1 by omega, hone 1 0 (by omega), hend]
    simp [zFields_byte, zFields_d8, ZInstr.operands, tc_sx_byte]
  case xy | ar | cr | cx | ri8 | rd8 =>
    rw [zTail_fixed _ _ hf rfl (by decide), ZFmt.len] at hlen
    rw [show len - (p.i + 1) = 1 + 1 by omega, hone 1 1 (by omega), hone 2 0 (by omega), hend]
    simp [zFields_pair, zFields_ri8, zFields_rd8, ZInstr.operands, tc_sx_byte]
  case ri32 =>
    rw [zTail_ri32] at hlen
    rw [show len - (p.i + 1) = (if op = 0x12 && p.size == .wide then 8 else 4) + 1 by omega, hone 1 _ (by omega), List.map_cons,
      ← hspan 2 _ (by omega)]
    rfl
  case bf =>
    rw [zTail_fixed _ _ hf rfl (by decide), ZFmt.len] at hlen
    rw [show len - (p.i + 1) = 2 + 1 by omega, hone 1 2 (by omega), List.map_cons, ← hspan 2 2 (by omega)]
    rfl
  case d32 =>
    rw [zTail_fixed _ _ hf rfl (by decide), ZFmt.len] at hlen
    rw [show len - (p.i + 1) = 4 by omega, ← hspan 1 4 (by omega)]
    simp [zFields_d32, ZInstr.operands, tc_sx (leAt_lt bs (p.i + 1) 4)]
  case m =>
    rw [zTail_of_fmt _ _ hf (by decide)] at hlen
    simp only [ZFmt.len, reduceCtorEq, beq_iff_eq, if_false] at hlen
    rw [show len - (p.i + 1) = zDispLen .m (byteAt bs (p.i + 1)).toNat + 1 + 1 by omega, hone 1 _ (by omega), hone 2 _ (by omega),
      zFields_m, List.map_cons, List.map_cons, ZInstr.operands, dispBytes_zDispAt (f := .m) rfl rfl (by dsimp only; omega)]
  case mi =>
    rw [zTail_of_fmt _ _ hf (by decide)] at hlen
    simp only [ZFmt.len, beq_self_eq_true, if_true] at hlen
    rw [show len - (p.i + 1) = zDispLen .mi (byteAt bs (p.i + 1)).toNat + p.size.bytes + 1 by omega, hone 1 _ (by omega), zSpan_add,
      zFields_mi, List.map_cons, List.map_append, ZInstr.operands, dispBytes_zDispAt (f := .mi) rfl rfl (by dsimp only; omega)]
    have himm := zLittle_leAt (bs := bs) (o := p.i + 2 + zDispLen .mi (byteAt bs (p.i + 1)).toNat) (n := p.size.bytes) (by omega)
    rw [← himm]
    rfl

/-- An accepted instruction is encoded as the bytes that it was decoded from. -/
theorem zEncode_zFields {bs : List Byte} {p : ZPre} {b : Byte} {f : ZFmt} {len : Nat} (ho : p.ordered)
    (hbytes : p.bytes = (bs.take p.i).map BitVec.toNat) (hb : bs[p.i]? = some b) (hf : zFmt b.toNat = some f)
    (hlen : len = p.i + zTail p.size b.toNat f (byteAt bs (p.i + 1)).toNat) (hle : len ≤ bs.length) :
    zEncode (zFields bs p b.toNat f len) = bs.take len := by
  have hpos : p.i < len := by
    have : 0 < f.len := by cases f <;> decide
    rw [hlen, zTail]
    omega
  have hop : byteAt bs p.i = b := by rw [byteAt, hb]; rfl
  have hcode : (zFields bs p b.toNat f len).op = b.toNat := rfl
  have hall : bs.take len = bs.take p.i ++ b :: zSpan bs (p.i + 1) (len - (p.i + 1)) := by
    rw [take_eq_append_zSpan (by omega : p.i ≤ len), show len - p.i = len - (p.i + 1) + 1 by omega, zSpan_succ (by omega), hop]
  have hnats : ∀ l : List Byte, (l.map BitVec.toNat).map (BitVec.ofNat 8) = l := fun l => by
    simp [Function.comp_def]
  rw [zEncode, hcode, hf, zFields_prefixes _ _ _ _ ho, hbytes]
  dsimp only
  rw [operands_zFields hf hlen hle, ← hnats (bs.take len), hall]
  simp only [List.map_append, List.map_cons]

/-- Settles O47: what the decoder accepts are prefixes, an opcode and operands, each of which the encoder writes as it was read,
and every byte that the decoder reads is one of them. -/
theorem zelekEncodingRoundTrip : Obligations.ZelekEncodingRoundTrip := by
  intro bs z h
  obtain ⟨p, b, f, len, hpre, hb, hf, hM, hlen, h15, hj, rfl⟩ := (zDecode_eq_ok bs z).mp h
  have hinit : ZPre.init.ordered := by simp [ZPre.init, ZPre.ordered]
  obtain ⟨ho, hbytes⟩ := zPrefixes_bytes hpre hinit (fun _ => rfl)
  have hi : p.i < bs.length := (List.getElem?_eq_some_iff.mp hb).1
  have hpos : 0 < f.len := by cases f <;> decide
  have hle : len ≤ bs.length := by
    have hlast := ((zJudge_eq_none ..).mp hj (len - 1) (Nat.zero_le _) (by rw [hlen, zTail]; omega)).1
    omega
  have henc := zEncode_zFields ho (hbytes (by omega)) hb hf hlen hle
  refine ⟨henc, fun rest => ?_⟩
  rw [henc]
  have ha := take_append_agree rest hle
  have hplt : p.i < len := by rw [hlen, zTail]; omega
  refine (zDecode_eq_ok ..).mpr ⟨p, b, f, len, zPrefixes_of_agree hpre hplt ha, by rw [ha _ hplt, hb], hf, ?_, ?_, h15,
    zJudge_of_agree hj ha, zFields_of_agree hlen ha⟩
  · intro hm
    have htwo := zTail_two p.size b.toNat (byteAt bs (p.i + 1)).toNat (show f ≠ .n by rintro rfl; cases hm)
    simp only [List.length_append, List.length_take]
    omega
  · by_cases hn : f = .n
    · subst hn
      rw [hlen]
      rfl
    · have htwo := zTail_two p.size b.toNat (byteAt bs (p.i + 1)).toNat hn
      rw [byteAt_of_agree ha (by omega), ← hlen]

end Sys2Proof.Machine
end

section
/-!
SUPPORT. Zelek instructions that change registers and flags alone: moves, arithmetic, logic, shifts and bit fields
(07_zelek_instructions.md). One lemma per shape of meaning says when such a row completes and what it leaves.
-/
namespace Sys2Proof.Machine

/-! ### Shapes of meanings -/

theorem rows345_of_mem {op col : Nat} (h : op ∈ [0x30 + col, 0x40 + col, 0x50 + col]) : rows345 op col = true := by
  simpa [rows345, or_assoc] using h

theorem rows345_row3 {op col : Nat} (h : op = 0x30 + col) : rows345 op col = true := by simp [rows345, h]

section
variable {c : Instr} {s : State} {e : Fin 96} {k : Nat} {z : ZInstr} {ops : Nat → Bool}

/-- An operation with Z, N, C and V: the result is written. -/
theorem completes_arith {f : ZInstr → Ctx → Nat → Nat → Nat × Bool × Bool}
    (hx : exec c s = lift (fun d => d.zStep e noEcc ops (zArith false f)) s) (h : s.dev.issues e k z) (ho : ops z.op = true)
    (hno : storeOps.any ops = false := by decide) :
    Completes c s (fun t => t = s.dev.ran e k z
      ((s.dev.ctx k).putAll z (f z (s.dev.ctx k) ((s.dev.ctx k).rd z) (z.src2 (s.dev.ctx k)))) none) :=
  completes_pure hx h ho (by simp) rfl hno

/-- The same where only the flags are written. -/
theorem completes_arithTest {f : ZInstr → Ctx → Nat → Nat → Nat × Bool × Bool} {x : Nat × Bool × Bool}
    (hx : exec c s = lift (fun d => d.zStep e noEcc ops (zArith true f)) s) (h : s.dev.issues e k z) (ho : ops z.op = true)
    (hr : f z (s.dev.ctx k) ((s.dev.ctx k).rd z) (z.src2 (s.dev.ctx k)) = x) (hno : storeOps.any ops = false := by decide) :
    Completes c s (fun t => t = s.dev.ran e k z (((s.dev.ctx k).zn z.n x.1).cv x.2.1 x.2.2) none) :=
  hr ▸ completes_pure hx h ho (by simp) rfl hno

/-- An operation with Z and N alone: the result is written. -/
theorem completes_logic {f : ZInstr → Nat → Nat → Nat}
    (hx : exec c s = lift (fun d => d.zStep e noEcc ops (zLogic false f)) s) (h : s.dev.issues e k z) (ho : ops z.op = true)
    (hno : storeOps.any ops = false := by decide) :
    Completes c s (fun t => t = s.dev.ran e k z
      ((s.dev.ctx k).putZn z (f z ((s.dev.ctx k).rd z) (z.src2 (s.dev.ctx k)))) none) :=
  completes_pure hx h ho (by simp) rfl hno

end

/-- In row 3 the second operand is rs. -/
theorem src2_row3 {z : ZInstr} (c : Ctx) (h : z.op < 0x40) : z.src2 c = c.rs z := if_pos h

/-! ### Moves and arithmetic -/

/-- Settles O32: each row is a change of registers, so it leaves what an executed instruction leaves. -/
theorem zelekArithmeticComplete : Obligations.ZelekArithmeticComplete := by
  refine ⟨fun s e k z h ho => ?nop, fun s e k z h ho => ?mov, fun s e k z h ho => ?wra, fun s e k z h ho => ?rda,
    fun s e k z h ho => ?lda, fun s e k z h ho => ?add, fun s e k z h ho => ?sub, fun s e k z h ho => ?adc,
    fun s e k z h ho => ?sbc, fun s e k z x h ho hx => ?cmp, fun s e k z h ho => ?neg⟩
  case nop => exact completes_pure exec_nop h (by simp [ho]) rfl rfl
  case mov =>
    have hop : (0x10 ≤ z.op && z.op ≤ 0x12) = true := by
      simp only [List.mem_cons, List.not_mem_nil, or_false] at ho
      simp only [Bool.and_eq_true, decide_eq_true_eq]
      omega
    exact completes_pure exec_mov h hop (by simp) rfl
  case wra => exact completes_pure exec_wra h (by simp [ho]) rfl rfl
  case rda => exact completes_pure exec_rda h (by simp [ho]) rfl rfl
  case lda => exact completes_pure exec_lda h (by simp [ho]) rfl rfl
  case add => exact (completes_arith exec_add h (rows345_of_mem ho) :)
  case sub => exact (completes_arith exec_sub h (rows345_of_mem ho) :)
  case adc => exact (completes_arith exec_adc h (rows345_of_mem ho) :)
  case sbc =>
    have hborrow : (if (s.dev.ctx k).flag 2 then 0 else 1) = 1 - b2n ((s.dev.ctx k).flag 2) := by
      cases (s.dev.ctx k).flag 2 <;> rfl
    rw [hborrow]
    exact (completes_arith exec_sbc h (rows345_of_mem ho) :)
  case cmp => exact completes_arithTest exec_cmp h (rows345_of_mem ho) hx
  case neg =>
    rw [← src2_row3 _ (by rw [ho]; decide)]
    exact (completes_arith exec_neg h (by simp [ho]) :)

/-! ### Logic, multiplication and choice -/

/-- Settles O33: each row is an operation with Z and N alone, or TST, which writes no register. -/
theorem zelekLogicComplete : Obligations.ZelekLogicComplete := by
  refine ⟨fun s e k z h ho => ?and, fun s e k z h ho => ?or, fun s e k z h ho => ?xor, fun s e k z h ho => ?tst,
    fun s e k z h ho => ?not, fun s e k z h ho => ?mul, fun s e k z h ho => ?mulh, fun s e k z h ho => ?mulhu,
    fun s e k z h ho => ?min, fun s e k z h ho => ?max⟩
  case and => exact (completes_logic exec_and h (rows345_of_mem ho) :)
  case or => exact (completes_logic exec_or h (rows345_of_mem ho) :)
  case xor => exact (completes_logic exec_xor h (rows345_of_mem ho) :)
  case tst => exact completes_pure exec_tst h (rows345_of_mem ho) (by simp) rfl
  all_goals rw [← src2_row3 _ (by rw [ho]; decide)]
  case not => exact (completes_logic exec_not h (by simp [ho]) :)
  case mul => exact (completes_logic exec_mul h (by simp [ho]) :)
  case mulh => exact (completes_logic exec_mulh h (by simp [ho]) :)
  case mulhu => exact (completes_logic exec_mulhu h (by simp [ho]) :)
  case min => exact (completes_logic exec_min h (by simp [ho]) :)
  case max => exact (completes_logic exec_max h (by simp [ho]) :)

end Sys2Proof.Machine
end

section
/-!
SUPPORT. Zelek shifts, counts and bit fields (R192, R193): one lemma for the rows of a shift and one for the rows of a field, and
the bits of a value into which a field has been written.
-/
namespace Sys2Proof.Machine

/-! ### Shifts -/

/-- The registers that a shift by `n` of the value `v` leaves. -/
def Ctx.shifted (c : Ctx) (z : ZInstr) (kind : ShiftKind) (v n : Nat) : Ctx :=
  match shiftRes kind z.n v n with
  | none => c
  | some (r, carry) => ((c.zn z.n r).setFlag 2 carry).setOpnd z.wide z.hi r

theorem Ctx.shifted_pc (c : Ctx) (z : ZInstr) (kind : ShiftKind) (v n : Nat) : (c.shifted z kind v n).pc = c.pc := by
  unfold Ctx.shifted
  split <;> simp

theorem Ctx.shifted_zero (c : Ctx) (z : ZInstr) (kind : ShiftKind) (v : Nat) : c.shifted z kind v 0 = c := by
  cases kind <;> simp [Ctx.shifted, shiftRes]

theorem Ctx.shifted_none {c : Ctx} {z : ZInstr} {kind : ShiftKind} {v n : Nat} (h : shiftRes kind z.n v n = none) :
    c.shifted z kind v n = c := by simp [Ctx.shifted, h]

theorem Ctx.shifted_some {c : Ctx} {z : ZInstr} {kind : ShiftKind} {v n r : Nat} {b : Bool}
    (h : shiftRes kind z.n v n = some (r, b)) :
    c.shifted z kind v n = ((c.zn z.n r).setFlag 2 b).setOpnd z.wide z.hi r := by simp [Ctx.shifted, h]

/-- A shift row: the count is the low byte of a register, or the immediate. -/
theorem completes_shift {c : Instr} {s : State} {e : Fin 96} {k : Nat} {z : ZInstr} {kind : ShiftKind} {a b n v : Nat} {P : Dev → Prop}
    (hx : exec c s = lift (fun d => d.zStep e noEcc (fun op => op == a || op == b) (zShift kind)) s) (h : s.dev.issues e k z)
    (ho : z.op ∈ [a, b]) (hno : storeOps.any (fun op => op == a || op == b) = false) (hab : a < 0x68 ∧ 0x68 ≤ b)
    (hv : (s.dev.ctx k).rd z = v) (hn : (if z.op = a then ((s.dev.ctx k).wr z.lo).toNat % 256 else z.imm) = n)
    (hP : P (s.dev.ran e k z ((s.dev.ctx k).shifted z kind v n) none)) : Completes c s P := by
  have hop : (z.op == a || z.op == b) = true := by simpa using ho
  have hcount : (if z.op = a then ((s.dev.ctx k).wr z.lo).toNat % 256 else z.imm) =
      if z.op < 0x68 then ((s.dev.ctx k).wr z.lo).toNat % 256 else z.imm := by
    simp only [List.mem_cons, List.not_mem_nil, or_false] at ho
    rcases ho with ho | ho
    · rw [if_pos ho, if_pos (by omega)]
    · rw [if_neg (by omega), if_neg (by omega)]
  rw [hcount] at hn
  subst hv hn
  exact completes_pure hx h hop (Ctx.shifted_pc ..) hP hno

/-- The low bit of a rotated value is the bit that was carried around. -/
theorem rol_testBit_zero (v : Nat) {n w : Nat} (h0 : n ≠ 0) (hn : n < w) :
    (v * 2 ^ n % 2 ^ w + v / 2 ^ (w - n)).testBit 0 = v.testBit (w - n) := by
  have heven : v * 2 ^ n % 2 ^ w % 2 = 0 := by
    rw [Nat.mod_mod_of_dvd _ (dvd_pow_self 2 (by omega)), Nat.mul_mod, Nat.mod_eq_zero_of_dvd (dvd_pow_self 2 h0), Nat.mul_zero,
      Nat.zero_mod]
  have hsum : (v * 2 ^ n % 2 ^ w + v / 2 ^ (w - n)) % 2 = v / 2 ^ (w - n) % 2 := by
    rw [Nat.add_mod, heven, Nat.zero_add, Nat.mod_mod]
  rw [Nat.testBit_zero, Nat.testBit_eq_decide_div_mod_eq, hsum]

/-- Settles O34: a shift row leaves what the shift table gives (R192), the count of zero included; the counts of bits and the
byte swap are changes of registers. -/
theorem zelekShiftsComplete : Obligations.ZelekShiftsComplete := by
  refine ⟨fun s e k z n v h ho hv hn => ?shl, fun s e k z n v h ho hv hn => ?shr, fun s e k z n v h ho hv hn => ?sar,
    fun s e k z n v h ho hv hn => ?rol, fun s e k z n v h ho hv hn => ?ror, fun s e k z r h ho hr => ?clz,
    fun s e k z r h ho hr => ?popc, fun s e k z r h ho hr => ?bswap⟩
  case shl =>
    refine completes_shift exec_shl h ho (by decide) (by decide) hv hn ⟨fun h0 => ?_, fun h1 hle => ?_, fun hgt => ?_⟩
    · rw [h0, Ctx.shifted_zero]
    · rw [Ctx.shifted_some (by simp only [shiftRes]; rw [if_neg (by omega), if_pos hle])]
    · rw [Ctx.shifted_some (by simp only [shiftRes]; rw [if_neg (by omega), if_neg (by omega)])]
  case shr =>
    refine completes_shift exec_shr h ho (by decide) (by decide) hv hn ⟨fun h0 => ?_, fun h1 hle => ?_, fun hgt => ?_⟩
    · rw [h0, Ctx.shifted_zero]
    · rw [Ctx.shifted_some (by simp only [shiftRes]; rw [if_neg (by omega), if_pos hle])]
    · rw [Ctx.shifted_some (by simp only [shiftRes]; rw [if_neg (by omega), if_neg (by omega)])]
  case sar =>
    refine completes_shift exec_sar h ho (by decide) (by decide) hv hn ⟨fun h0 => ?_, fun h1 hle => ?_, fun hgt r hr => ?_⟩
    · rw [h0, Ctx.shifted_zero]
    · rw [Ctx.shifted_some (by simp only [shiftRes]; rw [if_neg (by omega), if_pos hle])]
    · rw [Ctx.shifted_some (by simp only [shiftRes]; rw [if_neg (by omega), if_neg (by omega)]), ← hr]
  case rol =>
    have hw : 0 < z.n := by unfold ZInstr.n; split <;> decide
    refine completes_shift exec_rol h ho (by decide) (by decide) hv rfl ⟨fun h0 => ?_, fun h0 r hr => ?_⟩
    · rw [Ctx.shifted_none (by simp [shiftRes, hn, h0])]
    · have hlt : n < z.n := hn ▸ Nat.mod_lt _ hw
      rw [Ctx.shifted_some (by simp only [shiftRes, hn]; rw [if_neg h0]), hr, rol_testBit_zero v h0 hlt]
  case ror =>
    refine completes_shift exec_ror h ho (by decide) (by decide) hv rfl ⟨fun h0 => ?_, fun h0 r hr => ?_⟩
    · rw [Ctx.shifted_none (by simp [shiftRes, hn, h0])]
    · rw [Ctx.shifted_some (by simp only [shiftRes, hn]; rw [if_neg h0]), hr]
  case clz => exact completes_pure exec_clz h (by simp [ho]) rfl (by rw [hr])
  case popc => exact completes_pure exec_popc h (by simp [ho]) rfl (by rw [hr])
  case bswap => exact completes_pure exec_bswap h (by simp [ho]) rfl (by rw [hr])

end Sys2Proof.Machine
end

section
/-!
SUPPORT. Zelek bit fields and bits (R193): one lemma for the rows of a field, and the bits of a value into which a field has been
written.
-/
namespace Sys2Proof.Machine

/-- A field row: a width of zero leaves the registers, any other width gives the result with Z and N. -/
theorem completes_field {c : Instr} {s : State} {e : Fin 96} {k : Nat} {z : ZInstr} {ops : Nat → Bool} {f : ZInstr → Nat → Nat → Nat}
    {P : Dev → Prop} (hx : exec c s = lift (fun d => d.zStep e noEcc ops (zField f)) s) (h : s.dev.issues e k z)
    (ho : ops z.op = true) (hno : storeOps.any ops = false)
    (hzero : z.width = 0 → P (s.dev.ran e k z (s.dev.ctx k) none))
    (hpos : z.width ≠ 0 →
      P (s.dev.ran e k z ((s.dev.ctx k).putZn z (f z ((s.dev.ctx k).rd z) ((s.dev.ctx k).rs z))) none)) : Completes c s P := by
  by_cases hw : z.width = 0
  · exact completes_pure hx h ho (by simp [hw]) (by rw [if_pos hw]; exact hzero hw) hno
  · exact completes_pure hx h ho (by simp [hw]) (by rw [if_neg hw]; exact hpos hw) hno

/-- The bits of a value into which a field has been written: those of the field inside it, the old ones outside. -/
theorem ZInstr.testBit_insert (z : ZInstr) (v x i : Nat) : (z.insert v x).testBit i =
    if z.pos ≤ i ∧ i < z.pos + z.width then x.testBit (i - z.pos) else v.testBit i := by
  have hlow : v % 2 ^ z.pos < 2 ^ z.pos := Nat.mod_lt _ (Nat.two_pow_pos _)
  have hmid : x % 2 ^ z.width < 2 ^ z.width := Nat.mod_lt _ (Nat.two_pow_pos _)
  have hsum : z.insert v x =
      2 ^ z.pos * (2 ^ z.width * (v / 2 ^ (z.pos + z.width)) + x % 2 ^ z.width) + v % 2 ^ z.pos := by
    rw [ZInstr.insert, Nat.pow_add]; ring
  rw [hsum, Nat.testBit_two_pow_mul_add _ hlow, Nat.testBit_two_pow_mul_add _ hmid, Nat.testBit_mod_two_pow, Nat.testBit_mod_two_pow,
    Nat.testBit_div_two_pow]
  by_cases h1 : i < z.pos
  · simp [h1, show ¬ z.pos ≤ i by omega]
  · by_cases h2 : i < z.pos + z.width
    · simp [h1, h2, show z.pos ≤ i by omega, show i - z.pos < z.width by omega]
    · simp [h1, h2, show ¬ i - z.pos < z.width by omega, show i - z.pos - z.width + (z.pos + z.width) = i by omega]

/-- A value from which the set bit `m` has been taken. -/
theorem testBit_sub_two_pow {v m : Nat} (h : v.testBit m = true) (i : Nat) :
    (v - 2 ^ m).testBit i = (i != m && v.testBit i) := by
  have hlow : v % 2 ^ m < 2 ^ m := Nat.mod_lt _ (Nat.two_pow_pos _)
  obtain ⟨q, hq⟩ : ∃ q, v / 2 ^ m = 2 * q + 1 := by
    rw [Nat.testBit_eq_decide_div_mod_eq, decide_eq_true_eq] at h
    exact ⟨v / 2 ^ m / 2, by omega⟩
  have hv : v = 2 ^ m * (2 * q + 1) + v % 2 ^ m := by rw [← hq, Nat.div_add_mod]
  have hsub : v - 2 ^ m = 2 ^ m * (2 * q) + v % 2 ^ m := by
    rw [Nat.mul_add] at hv
    omega
  rw [hsub, hv, Nat.testBit_two_pow_mul_add _ hlow, Nat.mul_add_mod, Nat.mod_mod, Nat.testBit_two_pow_mul_add _ hlow]
  by_cases h1 : i < m
  · simp [h1, show i ≠ m by omega]
  · rw [if_neg h1, if_neg h1]
    obtain ⟨j, rfl⟩ : ∃ j, i = m + j := ⟨i - m, by omega⟩
    cases j with
    | zero => simp
    | succ j => simp [Nat.testBit_succ, Nat.mul_add_div]

/-- Settles O35: a width of zero leaves the registers, any other field row is its result with Z and N, and the bit rows set Z from
the old bit. -/
theorem zelekFieldsComplete : Obligations.ZelekFieldsComplete := by
  refine ⟨fun s e k z h ho hw => ?zero, fun s e k z p w h ho hp hw h0 => ?bfx, fun s e k z p w h ho hp hw h0 => ?bfxs,
    fun s e k z p w h ho hp hw h0 => ?bfi, fun s e k z p w h ho hp hw h0 => ?bfc, fun s e k z p w h ho hp hw h0 => ?bfs,
    fun s e k z h ho => ?btst, fun s e k z v h ho hv => ?bset, fun s e k z v h ho hv => ?bclr⟩
  case zero =>
    have hz : z.width = 0 := hw
    simp only [List.mem_cons, List.not_mem_nil, or_false] at ho
    rcases ho with ho | ho | ho | ho | ho <;> simp only [ho, reduceIte, Nat.reduceEqDiff]
    · exact completes_field exec_bfx h (by simp [ho]) (by decide) (fun _ => rfl) (absurd hz)
    · exact completes_field exec_bfxs h (by simp [ho]) (by decide) (fun _ => rfl) (absurd hz)
    · exact completes_field exec_bfi h (by simp [ho]) (by decide) (fun _ => rfl) (absurd hz)
    · exact completes_field exec_bfc h (by simp [ho]) (by decide) (fun _ => rfl) (absurd hz)
    · exact completes_field exec_bfs h (by simp [ho]) (by decide) (fun _ => rfl) (absurd hz)
  case bfx =>
    obtain rfl : z.pos = p := hp
    obtain rfl : z.width = w := hw
    exact completes_field exec_bfx h (by simp [ho]) (by decide) (absurd · h0) (fun _ => rfl)
  case bfxs =>
    obtain rfl : z.pos = p := hp
    obtain rfl : z.width = w := hw
    exact completes_field exec_bfxs h (by simp [ho]) (by decide) (absurd · h0) (fun _ => rfl)
  case bfi =>
    obtain rfl : z.pos = p := hp
    obtain rfl : z.width = w := hw
    exact completes_field exec_bfi h (by simp [ho]) (by decide) (absurd · h0) (fun _ => ⟨rfl, z.testBit_insert _ _⟩)
  case bfc =>
    obtain rfl : z.pos = p := hp
    obtain rfl : z.width = w := hw
    refine completes_field exec_bfc h (by simp [ho]) (by decide) (absurd · h0) (fun _ => ⟨rfl, fun i => ?_⟩)
    rw [z.testBit_insert, Nat.zero_testBit]
  case bfs =>
    obtain rfl : z.pos = p := hp
    obtain rfl : z.width = w := hw
    refine completes_field exec_bfs h (by simp [ho]) (by decide) (absurd · h0) (fun _ => ⟨rfl, fun i => ?_⟩)
    rw [z.testBit_insert]
    by_cases hi : z.pos ≤ i ∧ i < z.pos + z.width
    · rw [if_pos hi, if_pos hi, Nat.testBit_two_pow_sub_one, decide_eq_true_eq]
      omega
    · rw [if_neg hi, if_neg hi]
  case btst => exact completes_pure exec_btst h (by simp [ho]) rfl rfl
  case bset =>
    subst hv
    refine completes_pure exec_bset h (by simp [ho]) (by simp) ⟨_, rfl, fun i => ?_⟩
    rw [Nat.testBit_or, Nat.testBit_two_pow, Bool.or_comm]
    simp [Ctx.rd, Bool.beq_eq_decide_eq, eq_comm]
  case bclr =>
    subst hv
    refine completes_pure exec_bclr h (by simp [ho]) (by simp) ⟨_, rfl, fun i => ?_⟩
    unfold Ctx.rd
    by_cases hb : ((s.dev.ctx k).opnd z.wide z.hi).testBit z.imm = true
    · rw [if_pos hb, testBit_sub_two_pow hb]
    · rw [if_neg hb]
      by_cases hi : i = z.imm
      · simpa [hi] using hb
      · simp [hi]

end Sys2Proof.Machine
end

section
/-!
SUPPORT. Zelek instructions whose meaning reads the open activation: accumulators with fetches from X and Y, branches and control
registers. Opening the activation leaves what addresses and registers are made of.
-/
namespace Sys2Proof.Machine

/-! ### The open activation -/

theorem act_begun (d : Dev) (k : Nat) : (d.begun k).act k = { d.act k with atGo := false, open_ := true } := act_setAct ..

theorem desc_begun (d : Dev) (k c i : Nat) : (d.begun k).desc c i = d.desc c i := rfl

theorem granted_begun (d : Dev) (k c b : Nat) : (d.begun k).granted c b = d.granted c b := rfl

theorem begun_setCtx_id (d : Dev) (k : Nat) : (d.begun k).setCtx k (fun c => c) = d.begun k := by
  simp [Dev.begun, Dev.setCtx]

theorem zAddr_begun (d : Dev) (k : Nat) (far : Bool) (a s : Nat) (write : Bool) :
    (d.begun k).zAddr k far a s write = d.zAddr k far a s write := by
  have hwin : (d.begun k).farWin k a s = d.farWin k a s := by
    unfold Dev.farWin
    rw [act_begun]
    rfl
  unfold Dev.zAddr
  simp only [hwin, act_begun, desc_begun, granted_begun]

theorem arAccess_begun (d : Dev) (k mode p s : Nat) (write : Bool) :
    (d.begun k).arAccess k mode p s write = d.arAccess k mode p s write := by
  rw [Dev.arAccess, zAddr_begun, Dev.arAccess]

theorem ctlRead_begun (d : Dev) (e k n : Nat) : (d.begun k).ctlRead e k n = d.ctlRead e k n := by
  unfold Dev.ctlRead
  rw [ctx_begun]
  rfl

/-- A row whose meaning, on the open activation, changes registers and may branch. -/
theorem completes_regs {c : Instr} {s : State} {e : Fin 96} {k : Nat} {z : ZInstr} {ops : Nat → Bool} {sem : ZSem} {f : Ctx → Ctx}
    {tg : Option Nat} {P : Dev → Prop} (hx : exec c s = lift (fun d => d.zStep e noEcc ops sem) s) (h : s.dev.issues e k z)
    (ho : ops z.op = true) (hs : sem (s.dev.begun k) e k z = .ok ((s.dev.begun k).setCtx k f) tg)
    (hp : (f (s.dev.ctx k)).pc = (s.dev.ctx k).pc) (hP : P (s.dev.ran e k z (f (s.dev.ctx k)) tg))
    (hno : storeOps.any ops = false := by decide) : Completes c s P := by
  refine completes_lift hx ?_
  have hrep : z.rep = none := h.2.2.2.1
  rw [zStep_plain h ho hs hno, zFinish_regs tg hrep hp]
  exact hP

/-- A row that branches and changes no register. -/
theorem completes_jump {c : Instr} {s : State} {e : Fin 96} {k : Nat} {z : ZInstr} {ops : Nat → Bool} {sem : ZSem}
    {tg : Option Nat} {P : Dev → Prop} (hx : exec c s = lift (fun d => d.zStep e noEcc ops sem) s) (h : s.dev.issues e k z)
    (ho : ops z.op = true) (hs : sem (s.dev.begun k) e k z = .ok (s.dev.begun k) tg)
    (hP : P (s.dev.ran e k z (s.dev.ctx k) tg)) (hno : storeOps.any ops = false := by decide) : Completes c s P :=
  completes_regs (f := fun c => c) hx h ho (by rw [hs, begun_setCtx_id]) rfl hP hno

/-! ### Accumulators and CRC -/

/-- mac and msu with both fetches inside X and Y. -/
theorem zMac_begun {d : Dev} {e k : Nat} {z : ZInstr} {kx ky : Nat} {p : Int} (sub : Bool)
    (hx : d.arAccess k 0 ((d.ctx k).arg (z.rb % 4)) 4 false = .inr (.local_ kx))
    (hy : d.arAccess k 1 ((d.ctx k).arg (4 + z.rb / 4 % 4)) 2 false = .inr (.local_ ky))
    (hp : sx 32 (leVal (d.mrd kx 4)) * sx 16 (leVal (d.mrd ky 2)) = p) :
    zMac sub (d.begun k) e k z = .ok ((d.begun k).setCtx k (fun c =>
      ((c.setAcc (z.rb / 16 % 2) (if sub then c.acc (z.rb / 16 % 2) - BitVec.ofInt 72 p else c.acc (z.rb / 16 % 2) + BitVec.ofInt 72 p)).post
        (z.rb % 4) (sx 4 (z.b3 % 16) * 4)).post (4 + z.rb / 4 % 4) (sx 4 (z.b3 / 16) * 2))) none := by
  subst hp
  unfold zMac
  simp only [ctx_begun, arAccess_begun, hx, hy]
  rfl

/-- Settles O36: the rows on registers are changes of registers; with their fetches inside X and Y so are mac, msu and crc.m. -/
theorem zelekAccumulatorsComplete : Obligations.ZelekAccumulatorsComplete := by
  refine ⟨fun s e k z kx ky p h ho hx hy hp => ?mac, fun s e k z kx ky p h ho hx hy hp => ?msu, fun s e k z h ho => ?macR,
    fun s e k z h ho => ?msuR, fun s e k z h ho => ?clra, fun s e k z h ho => ?ashr, fun s e k z r v h ho hr => ?mvfa,
    fun s e k z h ho => ?mvta, fun s e k z r h ho hr => ?crcB, fun s e k z r h ho hr => ?crcH, fun s e k z r h ho hr => ?crcW,
    fun s e k z i key r h ho hi hkey hr => ?crcM⟩
  case mac => exact completes_regs exec_mac h (by simp [ho]) (zMac_begun false hx hy hp) (by simp) rfl
  case msu => exact completes_regs exec_msu h (by simp [ho]) (zMac_begun true hx hy hp) (by simp) rfl
  case macR => exact completes_pure exec_macR h (by simp [ho]) (by simp) rfl
  case msuR => exact completes_pure exec_msuR h (by simp [ho]) (by simp) rfl
  case clra => exact completes_pure exec_clra h (by simp [ho]) (by simp) rfl
  case ashr => exact completes_pure exec_ashr h (by simp [ho]) (by simp) rfl
  case mvfa =>
    refine completes_pure exec_mvfa h (by simp [ho]) ?_ ?_
    · rewrite [hr]
      cases v <;> rfl
    · rewrite [hr]
      rfl
  case mvta => exact completes_pure exec_mvta h (by simp [ho]) (by simp) rfl
  case crcB => exact completes_pure exec_crcB h (by simp [ho]) rfl (by rw [hr])
  case crcH => exact completes_pure exec_crcH h (by simp [ho]) rfl (by rw [hr])
  case crcW => exact completes_pure exec_crcW h (by simp [ho]) rfl (by rw [hr])
  case crcM =>
    have hsem : semCrcM (s.dev.begun k) e k z =
        .ok ((s.dev.begun k).setCtx k (fun c => (((c.setFlag 0 (crcStep (c.wr z.lo) 8 (leVal (s.dev.mrd key 1)) (c.wr z.hi) == 0)).setW
          z.hi (crcStep (c.wr z.lo) 8 (leVal (s.dev.mrd key 1)) (c.wr z.hi))).post i 1))) none := by
      unfold semCrcM
      simp only [ctx_begun, arAccess_begun, hi, hkey]
      rfl
    exact completes_regs exec_crcM h (by simp [ho]) hsem (by simp) (by rw [hr])

/-! ### Branches and control registers -/

/-- A target is taken modulo 2^32 (R180). -/
theorem tc_mod_add (n : Nat) (i : Int) : tc 32 (((n % 2 ^ 32 : Nat) : Int) + i) = tc 32 ((n : Int) + i) := by
  unfold tc
  rw [Int.natCast_emod, Nat.cast_pow, Nat.cast_ofNat, Int.emod_add_emod]

theorem w32_mod (n : Nat) : w32 (n % 2 ^ 32) = w32 n := by
  apply BitVec.eq_of_toNat_eq
  simp [w32]

theorem zBranch_eq (d : Dev) (k : Nat) (z : ZInstr) (b : Bool) :
    zBranch d k z b = .ok d (if b then some (tc 32 (((d.ctx k).pc : Int) + z.len + z.disp)) else none) := by
  rw [zBranch, Dev.zNext, tc_mod_add, Nat.cast_add]

/-- Where a call returns to. -/
theorem w32_zNext (d : Dev) (k : Nat) (z : ZInstr) : w32 (d.zNext k z) = w32 ((d.ctx k).pc + z.len) := w32_mod _

theorem zNext_begun (d : Dev) (k : Nat) (z : ZInstr) : (d.begun k).zNext k z = d.zNext k z := by
  rw [Dev.zNext, ctx_begun, Dev.zNext]

/-- Settles O37: each branch gives its target on the registers that it leaves, and the control registers read as they did before the
activation was opened. -/
theorem zelekBranchesComplete : Obligations.ZelekBranchesComplete := by
  refine ⟨fun s e k z h ho => ?ret, fun s e k z h hlo hhi => ?bCond, fun s e k z h ho => ?bLate, fun s e k z h ho => ?bOntime,
    fun s e k z h ho => ?bTc, fun s e k z h ho => ?call, fun s e k z h ho => ?callR, fun s e k z h ho => ?jmpR,
    fun s e k z h ho => ?dbnz, fun s e k z h ho hne => ?rdc, fun s e k z v h ho hlo hv => ?rdcWave, fun s e k z h ho hlo => ?wrcFlags,
    fun s e k z h ho hlo => ?wrcRcnt, fun s e k z h ho hlo => ?wrcOther⟩
  case ret => exact completes_jump exec_ret h (by simp [ho]) (by simp only [semRet, ctx_begun]) rfl
  case bCond =>
    have hop : (0x80 ≤ z.op && z.op ≤ 0x9F) = true := by simp [hlo, hhi]
    exact completes_jump exec_bCond h hop (by rw [semBCond, zBranch_eq, ctx_begun]) rfl
  case bLate => exact completes_jump exec_bLate h (by simp [ho]) (by rw [semBLate, zBranch_eq, ctx_begun]) rfl
  case bOntime =>
    refine completes_jump exec_bOntime h (by simp [ho]) (by rw [semBOntime, zBranch_eq, ctx_begun]) ?_
    cases (s.dev.ctx k).flag 5 <;> rfl
  case bTc =>
    refine completes_jump exec_bTc h (by simp [ho]) (by rw [semBTc, zBranch_eq, ctx_begun]) ?_
    cases (s.dev.ctx k).flag 4 <;> rfl
  case call =>
    refine completes_regs exec_call h (by simp [ho]) (by rw [semCall, zBranch_eq, if_pos rfl, zNext_begun, ctx_setCtx, ctx_begun]) rfl ?_
    rw [w32_zNext]
    rfl
  case callR =>
    refine completes_regs exec_callR h (by simp [ho]) (by rw [semCallR, zNext_begun, ctx_begun]) rfl ?_
    rw [w32_zNext]
  case jmpR => exact completes_jump exec_jmpR h (by simp [ho]) (by rw [semJmpR, ctx_begun]) rfl
  case dbnz =>
    refine completes_regs exec_dbnz h (by simp [ho]) (by rw [semDbnz, zBranch_eq, ctx_setCtx, ctx_begun]) rfl ?_
    by_cases hone : (s.dev.ctx k).wr z.hi = 1
    · simp [hone]
    · have hne : (s.dev.ctx k).wr z.hi - 1 ≠ 0 := fun h => hone (by rwa [sub_eq_zero] at h)
      simp only [if_neg hone, bne_iff_ne, hne, ne_eq, not_false_eq_true, if_true, setW_pc]
  case rdc =>
    refine completes_regs exec_rdc h (by simp [ho]) (by rw [semRdc, ctlRead_begun]) (by simp [hne]) ?_
    rw [if_neg hne]
  case rdcWave =>
    subst hv
    have hread : s.dev.ctlRead e k 3 = w32 (s.dev.boundWave e) := rfl
    refine completes_regs exec_rdc h (by simp [ho]) (by rw [semRdc, ctlRead_begun]) (by simp [hlo]) ?_
    rw [if_pos hlo, hlo, hread]
    rfl
  case wrcFlags => 
    refine completes_regs exec_wrc h (by simp [ho]) (by rw [semWrc, ctx_begun]) (by simp [hlo]) ?_
    rw [if_pos hlo]
  case wrcRcnt =>
    refine completes_regs exec_wrc h (by simp [ho]) (by rw [semWrc, ctx_begun]) (by simp [hlo]) ?_
    simp only [hlo]
    rfl
  case wrcOther =>
    refine completes_regs exec_wrc h (by simp [ho]) (by rw [semWrc, ctx_begun])
      (by rw [if_neg (by omega), if_neg (by omega)]) ?_
    rw [if_neg (by omega), if_neg (by omega)]

end Sys2Proof.Machine
end

section
/-!
SUPPORT. Rules about pure functions of the model: flags of additions and subtractions, the compare rule of short time, the check of
handles, the bits that a write by access code leaves, and the front of the queue.
-/
namespace Sys2Proof.Machine

/-! ### The queue and short time -/

/-- Settles O42: a step takes the front of the queue. -/
theorem stepRunsFront : Obligations.StepRunsFront := fun _ _ => rfl

theorem reached_iff (now t : Word) : reached now t = true ↔ (now - t).toNat < 2 ^ 31 := decide_eq_true_iff

/-- Settles O51: the difference modulo 2^32 lies in the lower half. -/
theorem compareRule : Obligations.CompareRule := by
  intro now t
  refine ⟨?_, ?_, ?_, by simp [stBefore]⟩
  · rw [reached_iff, BitVec.toNat_sub]
    have hn := now.isLt
    have ht := t.isLt
    omega
  · rw [reached_iff, BitVec.sub_self]
    decide
  · rw [← Bool.not_eq_true, reached_iff, show t - 1 - t = (-1 : Word) by ring]
    decide

/-! ### Handles -/

theorem checkHandle_eq (d : Dev) (kind : Nat) (h : Word) : d.checkHandle kind h =
    if fld h 31 24 ≠ kind ∨ kindRange kind ≤ fld h 11 0 ∨ fld h 23 12 = 0 ∨ d.genOf kind (fld h 11 0) = 0 then .badHandle
    else if fld h 23 12 ≠ d.genOf kind (fld h 11 0) then .stale
    else if d.holds kind (fld h 11 0) then .ok else .badHandle := by
  unfold Dev.checkHandle hKind hIdx hGen
  split_ifs <;> tauto

/-- Settles O52: the conditions of the check are read off in their order. -/
theorem handleChecks : Obligations.HandleChecks := by
  refine ⟨fun d kind h => ?ok, fun d kind h => ?stale, fun d kind => ?null, fun d h hk => ?other⟩
  case ok =>
    rw [checkHandle_eq]
    split_ifs <;> simp_all
    omega
  case stale =>
    rw [checkHandle_eq]
    split_ifs with hbad <;> simp_all
    intros
    omega
  case null =>
    have hgen : fld 0 23 12 = 0 := by decide
    rw [checkHandle_eq, if_pos (.inr (.inr (.inl hgen)))]
  case other => rw [checkHandle_eq, if_pos (.inl (by omega))]

/-! ### Access codes -/

theorem bitOf_and (a b : Word) (i : Nat) : bitOf (a &&& b) i = (bitOf a i && bitOf b i) := by
  simp [bitOf]

theorem bitOf_not (a : Word) {i : Nat} (h : i < 32) : bitOf (~~~a) i = !bitOf a i := by
  have hbit : (~~~a).getLsbD i = !a.getLsbD i := by simp [h]
  exact hbit

/-- A bit that a write by access code leaves. -/
theorem bitOf_writeByCode (r : RegDesc) (lockOpen : Bool) (old v hw : Word) {i : Nat} (h : i < 32) :
    bitOf (writeByCode r lockOpen old v hw) i =
      ((((bitOf old i && !(bitOf r.rw i || lockOpen && bitOf r.rwl i)) || (bitOf v i && (bitOf r.rw i || lockOpen && bitOf r.rwl i)))
        && !(bitOf v i && bitOf r.w1c i && !bitOf hw i)) || (bitOf v i && bitOf r.w1s i)) := by
  unfold writeByCode
  cases lockOpen <;> simp [bitOf_or, bitOf_and, bitOf_not, h]

/-- Settles O50: the bit's codes decide. -/
theorem accessCodesOfABit : Obligations.AccessCodesOfABit := by
  intro r lockOpen old v hw i hi
  refine ⟨fun hrw hc hs => ?_, fun hrw hl hc hs => ?_, fun hrw hl hc hs => ?_, fun hrw hl hc hs => ?_, fun hrw hl hc hs => ?_⟩ <;>
    rw [bitOf_writeByCode r lockOpen old v hw hi, hrw, hc, hs]
  · simp
  · simp [hl]
  · cases lockOpen <;> simp [hl]
  · simp [hl, Bool.not_and]
  · simp [hl]

/-! ### Flags -/

/-- The signed reading of n bits is the balanced residue modulo 2^n. -/
theorem sx_eq_bmod {n : Nat} (hn : 0 < n) (a : Nat) : sx n a = Int.bmod a (2 ^ n) := by
  obtain ⟨m, rfl⟩ : ∃ m, n = m + 1 := ⟨n - 1, by omega⟩
  have hpow : 2 ^ (m + 1) = 2 * 2 ^ m := by ring
  have hmod : ((a : Int) % ((2 ^ (m + 1) : Nat) : Int)) = ((a % 2 ^ (m + 1) : Nat) : Int) := by norm_cast
  unfold sx Int.bmod
  simp only [hmod, Nat.add_sub_cancel]
  have hhalf : (((2 ^ (m + 1) : Nat) : Int) + 1) / 2 = ((2 ^ m : Nat) : Int) := by
    rw [hpow]
    push_cast
    omega
  rw [hhalf]
  refine if_congr ?_ rfl (by push_cast; rfl)
  norm_cast

/-- A sum of integers differs from its balanced residue where it leaves the signed range. -/
theorem ne_bmod_iff {n : Nat} (hn : 0 < n) (i : Int) :
    i ≠ Int.bmod i (2 ^ n) ↔ i < -(2 ^ (n - 1) : Int) ∨ (2 ^ (n - 1) : Int) ≤ i := by
  obtain ⟨m, rfl⟩ : ∃ m, n = m + 1 := ⟨n - 1, by omega⟩
  have hpow : ((2 ^ (m + 1) : Nat) : Int) = 2 * 2 ^ m := by push_cast; ring
  have hpos : (0 : Int) < 2 ^ m := by positivity
  have hlow := Int.le_bmod (x := i) (m := 2 ^ (m + 1)) (by positivity)
  have hhigh := Int.bmod_lt (x := i) (m := 2 ^ (m + 1)) (by positivity)
  rw [hpow] at hlow hhigh
  rw [Nat.add_sub_cancel]
  constructor
  · intro hne
    by_contra hin
    exact hne (Int.bmod_eq_of_le (by rw [hpow]; omega) (by rw [hpow]; omega)).symm
  · intro hout heq
    omega

theorem bmod_add_bmod_add (a b c : Int) (m : Nat) : Int.bmod (Int.bmod a m + Int.bmod b m + c) m = Int.bmod (a + b + c) m := by
  rw [add_right_comm, Int.add_bmod_bmod, add_right_comm, add_assoc, Int.bmod_add_bmod, add_assoc]

theorem bmod_sub_bmod_sub (a b c : Int) (m : Nat) : Int.bmod (Int.bmod a m - Int.bmod b m - c) m = Int.bmod (a - b - c) m := by
  rw [sub_right_comm, Int.sub_bmod_bmod, sub_right_comm, sub_sub, Int.bmod_sub_bmod, sub_sub]

theorem addRes_overflow {n : Nat} (hn : 0 < n) (a b cin : Nat) :
    (addRes n a b cin).2.2 = true ↔ (sx n a + sx n b + cin < -(2 ^ (n - 1) : Int) ∨ (2 ^ (n - 1) : Int) ≤ sx n a + sx n b + cin) := by
  have hres : sx n ((a + b + cin) % 2 ^ n) = Int.bmod (sx n a + sx n b + cin) (2 ^ n) := by
    rw [sx_eq_bmod hn, sx_eq_bmod hn, sx_eq_bmod hn, Int.natCast_emod]
    generalize 2 ^ n = m
    rw [Int.emod_bmod, bmod_add_bmod_add, Nat.cast_add, Nat.cast_add]
  rw [← ne_bmod_iff hn, ← hres]
  exact bne_iff_ne

theorem subRes_overflow {n a b bin : Nat} (hn : 0 < n) (hb : b < 2 ^ n) (hbin : bin ≤ 1) :
    (subRes n a b bin).2.2 = true ↔
      (sx n a - sx n b - bin < -(2 ^ (n - 1) : Int) ∨ (2 ^ (n - 1) : Int) ≤ sx n a - sx n b - bin) := by
  have hpos : 1 ≤ 2 ^ n := Nat.one_le_two_pow
  have hcast : ((a + 2 ^ n - b - bin : Nat) : Int) = a - b - bin + (2 ^ n : Nat) := by omega
  have hres : sx n ((a + 2 ^ n - b - bin) % 2 ^ n) = Int.bmod (sx n a - sx n b - bin) (2 ^ n) := by
    rw [sx_eq_bmod hn, sx_eq_bmod hn, sx_eq_bmod hn, Int.natCast_emod, hcast]
    generalize 2 ^ n = m
    rw [Int.emod_bmod, Int.add_bmod_right, bmod_sub_bmod_sub]
  rw [← ne_bmod_iff hn, ← hres]
  exact bne_iff_ne

/-- A number below twice the modulus: its residue and its carry. -/
theorem mod_add_carry {m s : Nat} (hs : s < 2 * m) : s % m + (if m ≤ s then m else 0) = s := by
  by_cases hc : m ≤ s
  · rw [if_pos hc, Nat.mod_eq_sub_mod hc, Nat.mod_eq_of_lt (by omega), Nat.sub_add_cancel hc]
  · rw [if_neg hc, Nat.mod_eq_of_lt (by omega), Nat.add_zero]

/-- Settles O53: carry and borrow compare with 2^n, and V says that the signed result leaves the range. -/
theorem arithmeticFlags : Obligations.ArithmeticFlags := by
  intro n a b cin hn ha hb hcin
  refine ⟨⟨Nat.mod_lt _ (Nat.two_pow_pos n), ?_, addRes_overflow hn a b cin⟩,
    Nat.mod_lt _ (Nat.two_pow_pos n), decide_eq_true_iff, ?_, subRes_overflow hn hb hcin⟩
  · simp only [addRes, decide_eq_true_eq]
    exact mod_add_carry (by omega)
  · have hcarry := mod_add_carry (m := 2 ^ n) (s := a + 2 ^ n - b - cin) (by omega)
    simp only [subRes, decide_eq_true_eq]
    split_ifs at hcarry ⊢ <;> omega

end Sys2Proof.Machine
end

section
/-!
SUPPORT. Where an engine access can lead: the windows that lead to far memory, and the ranges of the address map.
-/
namespace Sys2Proof.Machine

/-- A far window that answers an access covers all of it. -/
theorem farWin_some {d : Dev} {k a s w key : Nat} {ro : Bool} (h : d.farWin k a s = some (w, ro, key)) :
    w < 8 ∧ ro = bitOf (d.desc (keyChan k) (17 + 4 * w)) 23 ∧ bitOf (d.desc (keyChan k) (17 + 4 * w)) 22 = true ∧
      (d.desc (keyChan k) (16 + 4 * w)).toNat ≤ a ∧
      a + s ≤ (d.desc (keyChan k) (16 + 4 * w)).toNat + fld (d.desc (keyChan k) (17 + 4 * w)) 19 0 * 4096 ∧
      key = tget 0 (d.act k).winPhys w + (a - (d.desc (keyChan k) (16 + 4 * w)).toNat) := by
  unfold Dev.farWin at h
  obtain ⟨v, hv, hres⟩ := List.exists_of_findSome?_eq_some h
  dsimp only at hres
  split_ifs at hres with hcover
  obtain ⟨rfl, rfl, rfl⟩ : v = w ∧ _ = ro ∧ _ = key := by simpa using hres
  obtain ⟨⟨hbit, hbase⟩, hlen⟩ : (_ ∧ _) ∧ _ := by simpa using hcover
  exact ⟨List.mem_range.mp hv, rfl, hbit, hbase, hlen, rfl⟩

/-- The last check of an access is its alignment. -/
theorem aligned_inr {a s : Nat} {x m : ZMem} {f : ZFault} (h : (if a % s = 0 then Sum.inr x else Sum.inl f) = Sum.inr m) :
    a % s = 0 ∧ m = x := by
  split_ifs at h with hal
  exact ⟨hal, (Sum.inr.inj h).symm⟩

/-- An access through the FAR form leads through a far window, or to a register of a block that the channel is granted. -/
theorem zAddr_far {d : Dev} {k a s : Nat} {write : Bool} {m : ZMem} (h : d.zAddr k true a s write = .inr m) :
    a % s = 0 ∧
      ((∃ w ro key r, d.farWin k a s = some (w, ro, key) ∧ (write = true → ro = false) ∧ m = .far r key) ∨
       (∃ b, 0x80000000 ≤ a ∧ s = 4 ∧ regBlock (a - 0x80000000) = some b ∧ d.granted (keyChan k) b = true ∧
          m = .reg (a - 0x80000000))) := by
  unfold Dev.zAddr at h
  simp only [if_true] at h
  split at h
  next =>
    split at h
    next => cases h
    next w ro key hwin =>
      split at h
      next => cases h
      next hro =>
        obtain ⟨hal, rfl⟩ := aligned_inr h
        exact ⟨hal, .inl ⟨w, ro, key, _, hwin, by cases ro <;> simp_all, rfl⟩⟩
  next =>
    split at h
    next hreg =>
      split at h
      next => cases h
      next b hb =>
        split at h
        next => cases h
        next hgr =>
          split at h
          next hs =>
            obtain ⟨hal, rfl⟩ := aligned_inr h
            have hlo : 0x80000000 ≤ a := by simp at hreg; omega
            exact ⟨hal, .inr ⟨b, hlo, hs, hb, by simpa using hgr, rfl⟩⟩
          next => cases h
    next => cases h

/-- An access without FAR leads inside the channel's X or Y window, or to the control of its engine. -/
theorem zAddr_near {d : Dev} {k a s : Nat} {write : Bool} {m : ZMem} (h : d.zAddr k false a s write = .inr m) :
    a % s = 0 ∧
      ((0x10000000 ≤ a ∧ a - 0x10000000 + s ≤ fld (d.desc (keyChan k) 4) 15 0 ∧
          m = .local_ (keyX (d.act k).eng + (d.act k).xBase + (a - 0x10000000))) ∨
       (0x10010000 ≤ a ∧ a - 0x10010000 + s ≤ fld (d.desc (keyChan k) 4) 31 16 ∧
          m = .local_ (keyY (d.act k).eng + (d.act k).yBase + (a - 0x10010000))) ∨
       (0xF0000000 ≤ a ∧ epListed (a - 0xF0000000 + s - 1) = true ∧ m = .priv (a - 0xF0000000))) := by
  unfold Dev.zAddr at h
  simp only [Bool.false_eq_true, if_false, Bool.and_eq_true, decide_eq_true_eq] at h
  split at h
  next hx =>
    split at h
    next hlen =>
      obtain ⟨hal, rfl⟩ := aligned_inr h
      exact ⟨hal, .inl ⟨hx.1, hlen, rfl⟩⟩
    next => cases h
  next =>
    split at h
    next hy =>
      split at h
      next hlen =>
        obtain ⟨hal, rfl⟩ := aligned_inr h
        exact ⟨hal, .inr (.inl ⟨hy.1, hlen, rfl⟩)⟩
      next => cases h
    next =>
      split at h
      next hp =>
        split at h
        next hlist =>
          obtain ⟨hal, rfl⟩ := aligned_inr h
          exact ⟨hal, .inr (.inr ⟨hp.1, hlist.2, rfl⟩)⟩
        next => cases h
      next => cases h

theorem lt_of_epListed {o : Nat} (h : epListed o = true) : o < 0x80 := by
  simp only [epListed, Bool.or_eq_true, Bool.and_eq_true, decide_eq_true_eq] at h
  omega

/-- Settles O57: the FAR form and the plain form of the access are taken apart. -/
theorem engineAccessConfined : Obligations.EngineAccessConfined := by
  intro d k far a s write m h hs
  cases far with
  | true =>
    obtain ⟨hal, ⟨w, ro, key, r, hwin, hro, rfl⟩ | ⟨b, hlo, hfour, hblock, hgranted, rfl⟩⟩ := zAddr_far h
    · obtain ⟨hw, rfl, hbit, hbase, hlen, hkey⟩ := farWin_some hwin
      exact ⟨hal, rfl, w, _, _, hw, rfl, rfl, hbit, hro, hbase, hlen, hkey⟩
    · exact ⟨hal, rfl, hfour, hlo, rfl, b, hblock, hgranted⟩
  | false =>
    obtain ⟨hal, ⟨hlo, hlen, rfl⟩ | ⟨hlo, hlen, rfl⟩ | ⟨hlo, hlist, rfl⟩⟩ := zAddr_near h
    · exact ⟨hal, rfl, .inl ⟨hlo, by omega, rfl⟩⟩
    · exact ⟨hal, rfl, .inr ⟨hlo, by omega, rfl⟩⟩
    · have hend := lt_of_epListed hlist
      exact ⟨hal, rfl, hlo, by omega, rfl⟩

end Sys2Proof.Machine
end

section
/-!
SUPPORT. A tick on an empty queue: a phase step that waits can cancel the wave outputs that it has passed, and what follows a
cancellation can end a migration, whose shadow then performs its posted stores. So memory does not stay in every tick.
-/
namespace Sys2Proof.Machine

theorem step_of_empty {s : State} (h : s.pending = []) : step s = .next s.tick := by
  unfold step
  rw [h]

/-- The shadow of channel 0 on engine 0, with a posted store of one byte. -/
def shadowStore : FarOp :=
  { key := 512, region := .bank, addr := 0, size := 1, store := true, value := 1, dest := 0, signed := false, atomic := none,
    ord := false, entered := false, copy := none, st := 0, quarter := 0, arrived := none }

/-- A migration whose shadow has been created. -/
def shadowMove : Migration :=
  { port := none, p1 := none, shadowUp := false, tries := 0, switched := none, aborted := false, sealOld := none, sealNew := none }

/-- An output of channel 0 at wave time 0, which has not been committed. -/
def waveAtZero : WaveOut := { chan := 0, inId := 0, eng := 0, desc := 0, target := 0, committed := false, commitTick := 0 }

/-- Channel 0 migrates and stops when it is late (late action 2); treadle 0 holds its output and a phase step that waits. -/
def phaseStepState : State :=
  { pending := []
    dev := { Dev.reset with
      trd := { TreadleBlock.init with t := [(0, { Treadle.init with adjPend := 1, wave := [waveAtZero] })] }
      cut := { Cutter.init with
        chans := [(0, { Chan.init with st := .migrating, desc := [(0, 0x40000)], mig := some shadowMove })]
        engines := [(0, { Engine.init with far := [shadowStore] })] } } }

/-- The tick performs the store of the shadow. -/
theorem phaseStepState_tick_mem : mget phaseStepState.dev.tick.mem 0 = 1 := by
  decide +kernel

/-- Refutes O43: the phase step of treadle 0 passes an output of channel 0, which stops the channel and ends its migration; memory
changes in that tick. -/
theorem not_emptyQueueTicks : ¬ Obligations.EmptyQueueTicks := by
  intro h
  obtain ⟨t, hstep, -, hmem, -, -⟩ := h phaseStepState rfl
  have htick : phaseStepState.tick = t := Host.Outcome.next.inj ((step_of_empty rfl).symm.trans hstep)
  have hbyte : mget phaseStepState.dev.tick.mem 0 = mget phaseStepState.dev.mem 0 := by
    rw [← hmem, ← htick]
    rfl
  rw [phaseStepState_tick_mem] at hbyte
  exact absurd hbyte (by decide)

end Sys2Proof.Machine
end

section
/-!
SUPPORT. What reset leaves.
-/
namespace Sys2Proof.Machine

/-- At reset a register reads its reset value. -/
theorem reset_r (a : Nat) : State.reset.dev.r a = regReset a := rfl

/-- Settles O44: the tables are empty at reset, so that each register reads the reset value of its row. -/
theorem resetLeaves : Obligations.ResetLeaves := by
  have hports : ∀ k < 4, State.reset.dev.b (CUT_CMD_STAT k) 8 = false := by decide +kernel
  have hengines : ∀ e < 96, State.reset.dev.f (ENG_CFG e) 27 16 = 256 ∧ State.reset.dev.b (ENG_CTRL e) 0 = false := by
    decide +kernel
  refine ⟨rfl, rfl, rfl, rfl, fun _ => rfl, fun k i => ?_, fun k => ?_, by decide +kernel, hengines⟩
  · unfold Dev.genOf Dev.gens
    split_ifs <;> rfl
  · by_cases hk : k < 4
    · exact .inl (hports k hk)
    · exact .inr (by omega)

end Sys2Proof.Machine
end

section
/-!
SUPPORT. Register writes by access code, and the completion of a command port.
-/
namespace Sys2Proof.Machine

/-! ### REGISTER_WRITE -/

/-- A write that meets no partial byte enables is the write of the word. -/
theorem registerWrite_eq {d : Dev} {who : Initiator} {be : BitVec 4} {a : Nat} {v hw : Word} (hup : d.hostUp = true)
    (hbe : isHost who = false ∨ be = 15#4) :
    (if !d.hostUp then d else if isHost who && be ≠ 15#4 then d.accErr who true 1 a else d.regWrite who a v hw) =
      d.regWrite who a v hw := by
  rcases hbe with hbe | hbe <;> simp [hup, hbe]

theorem regWrite_assigned {d : Dev} {who : Initiator} {a : Nat} {v hw : Word} {r : RegDesc} (hr : d.reaches a)
    (hd : regDesc a = some r) : d.regWrite who a v hw = d.blockWrite who r a v hw := by
  rw [Dev.regWrite, access_of_reaches hr, hd]

/-- DEV and MEM keep no meaning of their own beside the access codes. -/
theorem blockWrite_plain {d : Dev} {who : Initiator} {r : RegDesc} {a : Nat} {v hw : Word}
    (ha : a < 0x100000 ∨ 0x800000 ≤ a ∧ a < 0x900000) : d.blockWrite who r a v hw = d.plainWrite who r a v hw := by
  unfold Dev.blockWrite
  rcases ha with ha | ⟨hlo, hhi⟩
  · exact if_pos ha
  · rw [if_neg (by omega), if_neg (by omega), if_neg (by omega), if_neg (by omega), if_neg (by omega), if_neg (by omega),
      if_neg (by omega), if_neg (by omega), if_pos hhi]

theorem bellWritten_still (d : Dev) (b : BellReg) (w1c before : Bool) : (d.bellWritten b w1c before).still = d.still := by
  unfold Dev.bellWritten
  dsimp only
  split
  · have hemit : ∀ v : Nat, (if d.vecOr v then d.emit (.msix v) else d).still = d.still := fun v => ite_keeps Dev.still rfl rfl
    split
    · exact ite_keeps Dev.still ((control_still ..).trans (hemit _)) (hemit _)
    · exact hemit _
  · exact vecRise_still ..
  · rfl

theorem sec_of_still {d e : Dev} (h : d.still = e.still) : d.sec = e.sec := by
  simp only [Dev.still, Prod.mk.injEq] at h
  tauto

/-- The locks follow the life cycle, which no write to a register outside the security unit changes. -/
theorem lockOpen_of_still {d e : Dev} (h : d.still = e.still) : d.lockOpen = e.lockOpen := by
  unfold Dev.lockOpen Dev.lifecycle Dev.otp
  rw [sec_of_still h]

theorem plainWrite_noBell {d : Dev} {who : Initiator} {r : RegDesc} {a : Nat} {v hw : Word} (hb : bellAt a = none) :
    d.plainWrite who r a v hw =
      if r.rwl != 0 && !d.lockOpen then (d.w a (writeByCode r d.lockOpen (d.r a) v hw)).accErr who true 3 a
      else d.w a (writeByCode r d.lockOpen (d.r a) v hw) := by
  rw [Dev.plainWrite, hb]
  rfl

theorem plainWrite_bell {d : Dev} {who : Initiator} {r : RegDesc} {a : Nat} {v hw : Word} {b : BellReg} (hb : bellAt a = some b)
    (hl : r.rwl = 0 ∨ d.lockOpen = true) : d.plainWrite who r a v hw =
      (d.w a (writeByCode r d.lockOpen (d.r a) v hw)).bellWritten b (b.addr == a)
        (match b.vec with | some n => d.vecOr n | none => false) := by
  have hlock : ∀ before, ((d.w a (writeByCode r d.lockOpen (d.r a) v hw)).bellWritten b (b.addr == a) before).lockOpen = d.lockOpen :=
    fun before => lockOpen_of_still (bellWritten_still ..)
  have hopen : (r.rwl != 0 && !d.lockOpen) = false := by
    rcases hl with hl | hl <;> simp [hl]
  rw [Dev.plainWrite, hb]
  dsimp only
  rw [hlock, hopen]
  rfl

/-- Settles O41: what the mode lets through goes to the block, and in DEV and MEM the access codes decide. -/
theorem registerWritesComplete : Obligations.RegisterWritesComplete := by
  refine ⟨fun s who a be v hw hhost hbe hup => ?partialEnables, fun s who a be v hw r hbe hr hd => ?block,
    fun s who a be v hw hbe hr hd hin => ?unassigned, fun s who a be v hw hbe hup hclosed => ?closed,
    fun s who a be v hw r hbe hr hd ha hb hl => ?codes, fun s who a be v hw r b hbe hr hd ha hb hl => ?bell,
    fun s who a be v hw r hbe hr hd ha hb hl hopen => ?locked⟩ <;> refine completes_lift exec_registerWrite ?_
  case partialEnables => simp [hup, hhost, hbe]
  case block => rw [registerWrite_eq hr.1 hbe, regWrite_assigned hr hd]
  case unassigned => rw [registerWrite_eq hr.1 (.inr hbe), regWrite_of_unassigned who v hw hr hd, hin]; rfl
  case closed => rw [registerWrite_eq hup (.inr hbe), Dev.regWrite, access_of_closed hup hclosed]
  case codes =>
    rw [registerWrite_eq hr.1 (.inr hbe), regWrite_assigned hr hd, blockWrite_plain ha, plainWrite_noBell hb, if_neg]
    rcases hl with hl | hl <;> simp [hl]
  case bell =>
    rw [registerWrite_eq hr.1 (.inr hbe), regWrite_assigned hr hd, blockWrite_plain ha]
    exact plainWrite_bell hb hl
  case locked =>
    rw [registerWrite_eq hr.1 (.inr hbe), regWrite_assigned hr hd, blockWrite_plain ha, plainWrite_noBell hb, hopen, if_pos]
    simpa using hl

/-! ### The end of a command -/

/-- The status word of a port after a completion. -/
theorem cmdDone_stat (d : Dev) {k : Nat} (status : Nat) (hk : k < 4) :
    (d.cmdDone k status).r (CUT_CMD_STAT k) = w32 (status + 65536 * wrapAdd 16 (d.f (CUT_CMD_STAT k) 31 16) 1) := by
  have hlow : CUT_CMD_STAT k < 0x500000 := by simp only [CUT_CMD_STAT]; omega
  have hne : CUT_CMD_STAT k ≠ BellReg.cut.addr := by simp only [CUT_CMD_STAT, BellReg.addr, CUT_BELL]; omega
  rw [Dev.cmdDone, ringBit_r _ _ _ _ hlow, if_neg hne, Dev.r_w_self]

/-- Settles O60: the port's status word is written whole, and its bell rings. -/
theorem commandPortCompletes : Obligations.CommandPortCompletes := by
  intro d k status hk hs
  have hseq : wrapAdd 16 (d.f (CUT_CMD_STAT k) 31 16) 1 < 65536 := Nat.mod_lt _ (by decide)
  generalize hn : wrapAdd 16 (d.f (CUT_CMD_STAT k) 31 16) 1 = n at hseq
  have hstat : (d.cmdDone k status).r (CUT_CMD_STAT k) = w32 (status + 65536 * n) := by rw [cmdDone_stat d status hk, hn]
  have hval : (w32 (status + 65536 * n)).toNat = status + 65536 * n := by
    rw [w32, BitVec.toNat_ofNat, Nat.mod_eq_of_lt (by omega)]
  refine ⟨?_, ?_, ?_, ?_, ?_, ?_⟩
  · rw [Dev.f, hstat, fld, hval, Nat.shiftRight_zero]
    omega
  · rw [Dev.b, hstat, bitOf, hval, Nat.testBit_eq_decide_div_mod_eq]
    simp only [decide_eq_false_iff_not]
    omega
  · rw [Dev.f, hstat, fld, hval, Nat.shiftRight_eq_div_pow]
    omega
  · have hlow : BellReg.cut.addr < 0x500000 := by decide
    rw [Dev.cmdDone, Dev.b, ringBit_r _ _ _ _ hlow, if_pos rfl, bitOf_or_self _ _ (by omega)]
  · simp [Dev.cmdDone]
  · simp [Dev.cmdDone]

end Sys2Proof.Machine
end

section
/-!
SUPPORT. Zelek instructions that reach memory: local accesses act on the open activation at once, far ones join the engine's
queue, and a store waits for the streamer's copy of its block only after a checkpoint.
-/
namespace Sys2Proof.Machine

/-! ### Addresses on the open activation -/

theorem zOperand_begun (d : Dev) (k : Nat) (z : ZInstr) (write : Bool) : (d.begun k).zOperand k z write = d.zOperand k z write := by
  rw [Dev.zOperand, arAccess_begun, zAddr_begun, ctx_begun, Dev.zOperand]

theorem stackAddr_begun (d : Dev) (k o s : Nat) (write : Bool) : (d.begun k).stackAddr k o s write = d.stackAddr k o s write := by
  rw [Dev.stackAddr, zAddr_begun, desc_begun, Dev.stackAddr]

theorem setCtx_setCtx (d : Dev) (k : Nat) (f g : Ctx → Ctx) : (d.setCtx k f).setCtx k g = d.setCtx k (fun c => g (f c)) :=
  setAct_setAct ..

/-! ### The bytes of a value -/

/-- The bytes of a value do not depend on what lies above them. -/
theorem leBytes_mod (n v : Nat) : leBytes n (v % 2 ^ (8 * n)) = leBytes n v := by
  induction n generalizing v with
  | zero => rfl
  | succ n ih =>
    have hpow : 2 ^ (8 * (n + 1)) = 256 * 2 ^ (8 * n) := by rw [Nat.mul_succ, Nat.pow_add]; omega
    have hbyte : BitVec.ofNat 8 (v % 2 ^ (8 * (n + 1))) = BitVec.ofNat 8 v := by
      apply BitVec.eq_of_toNat_eq
      rw [BitVec.toNat_ofNat, BitVec.toNat_ofNat, hpow, Nat.mod_mul_right_mod]
    rw [leBytes, leBytes, hbyte, hpow, Nat.mod_mul_right_div_self, ih]

theorem opnd_lt (c : Ctx) (wide : Bool) (i : Nat) : c.opnd wide i < 2 ^ 64 := by
  have hlo := (c.wr i).isLt
  have hhi := (c.wr (i + 1)).isLt
  unfold Ctx.opnd
  split <;> omega

theorem w32_toNat (v : Word) : w32 v.toNat = v := by
  apply BitVec.eq_of_toNat_eq
  rw [w32, BitVec.toNat_ofNat, Nat.mod_eq_of_lt v.isLt]

theorem w32_toNat_add (v : Word) (n : Nat) : w32 (v.toNat + n) = v + w32 n := by
  apply BitVec.eq_of_toNat_eq
  simp [w32]

/-! ### The streamer's copy -/

/-- Before the first checkpoint no store waits. -/
theorem copyHold_none {d : Dev} {k : Nat} (key : Option Nat) (h : (d.act k).stored = none) : d.copyHold k key = (0, d) := by
  unfold Dev.copyHold
  rw [h]
  cases key.bind (d.ckptBlock k) <;> rfl

/-- The first store to a block after a checkpoint waits up to 4 cycles, and the block is copied. -/
theorem copyHold_first {d : Dev} {k key b : Nat} {l : List Nat} (hl : (d.act k).stored = some l) (hb : d.ckptBlock k key = some b)
    (hnew : b ∉ l) : d.copyHold k (some key) =
      (d.free.1.toNat % 5, d.free.2.setAct k (fun a => { a with stored := some (b :: l) })) := by
  unfold Dev.copyHold
  rw [hl, Option.bind_some, hb]
  simp [hnew]

/-! ### Stores that do not wait, and instructions that store nothing -/

/-- A row that stores, before the first checkpoint. -/
theorem zStep_unstreamed {d : Dev} {e k : Nat} {z : ZInstr} {ops : Nat → Bool} {sem : ZSem} {d2 : Dev} {tg : Option Nat}
    (h : d.issues e k z) (ho : ops z.op = true) (hs : sem (d.begun k) e k z = .ok d2 tg) (hst : (d2.act k).stored = none) :
    d.zStep e noEcc ops sem = d2.zFinish e k z (d.zCost k z tg.isSome) tg := by
  rw [zStep_issues h ho hs, copyHold_none _ hst, Nat.add_zero]

theorem stored_setCtx_begun (d : Dev) (k : Nat) (f : Ctx → Ctx) : (((d.begun k).setCtx k f).act k).stored = (d.act k).stored := by
  rw [Dev.setCtx, act_setAct, act_begun]

/-- A row whose meaning writes memory and changes registers. -/
theorem completes_store {c : Instr} {s : State} {e : Fin 96} {k : Nat} {z : ZInstr} {ops : Nat → Bool} {sem : ZSem} {f : Ctx → Ctx}
    {key : Nat} {bytes : List Byte} {P : Dev → Prop} (hx : exec c s = lift (fun d => d.zStep e noEcc ops sem) s)
    (h : s.dev.issues e k z) (ho : ops z.op = true) (hst : (s.dev.act k).stored = none)
    (hs : sem (s.dev.begun k) e k z = .ok (((s.dev.mwr key bytes).begun k).setCtx k f) none)
    (hp : (f (s.dev.ctx k)).pc = (s.dev.ctx k).pc) (hP : P ((s.dev.mwr key bytes).ran e k z (f (s.dev.ctx k)) none)) :
    Completes c s P := by
  refine completes_lift hx ?_
  have hrep : z.rep = none := h.2.2.2.1
  rw [zStep_unstreamed h ho hs (by rw [stored_setCtx_begun]; exact hst)]
  have hfin := zFinish_regs (d := s.dev.mwr key bytes) (e := e) (k := k) (f := f) none hrep hp
  have hcost : (s.dev.mwr key bytes).zCost k z (none : Option Nat).isSome = s.dev.zCost k z (none : Option Nat).isSome := rfl
  rw [hcost] at hfin
  rw [hfin]
  exact hP

/-- A row whose meaning ends in another device, before the first checkpoint. -/
theorem completes_far {c : Instr} {s : State} {e : Fin 96} {k : Nat} {z : ZInstr} {ops : Nat → Bool} {sem : ZSem} {d2 : Dev}
    {P : Dev → Prop} (hx : exec c s = lift (fun d => d.zStep e noEcc ops sem) s) (h : s.dev.issues e k z) (ho : ops z.op = true)
    (hs : sem (s.dev.begun k) e k z = .ok d2 none) (hst : (d2.act k).stored = none)
    (hP : P (d2.zFinish e k z (s.dev.zCost k z false) none)) : Completes c s P := by
  refine completes_lift hx ?_
  rw [zStep_unstreamed h ho hs hst]
  exact hP

/-! ### The far queue -/

theorem ordEnterEng_acts (d : Dev) (e n : Nat) : (d.ordEnterEng e n).cut.acts = d.cut.acts := by
  induction n generalizing d with
  | zero => rfl
  | succ n ih =>
    unfold Dev.ordEnterEng
    repeat' split
    · rw [ih]
      rfl
    all_goals rfl

theorem ordEnter_acts (d : Dev) : d.ordEnter.cut.acts = d.cut.acts :=
  each_keeps (fun d => d.cut.acts) _ _ (fun d e => ordEnterEng_acts d e 4) d

/-- A far access that joins the queue leaves the contexts alone. -/
theorem act_farPush (d : Dev) (e k : Nat) (f : FarOp) : (d.farPush e f).act k = d.act k := by
  rw [Dev.act, Dev.farPush, ordEnter_acts]
  rfl

/-- A far load or atomic that finds room joins the queue. -/
theorem farLoad_room {d : Dev} {e : Nat} (k : Nat) (f : FarOp) (h : d.farFull e = false) : d.farLoad e k f =
    .ok ((d.setCtx k (fun c => { c with
      delay := c.delay.filter (fun (x : DelaySlot) => !((pairOf (f.size == 8) f.dest).contains x.dest)) })).farPush e f) none := by
  rw [Dev.farLoad, h]
  rfl

/-! ### Meanings on the open activation -/

theorem zLoad_local {d : Dev} {e k : Nat} {z : ZInstr} {key : Nat} (signed : Bool) (h : d.zOperand k z false = .inr (.local_ key)) :
    zLoad signed (d.begun k) e k z = .ok ((d.begun k).setCtx k (fun c => (c.postOperand z).load z.wide z.hi
      (if signed then tc 32 (sx (8 * z.s) (leVal (d.mrd key z.s))) else leVal (d.mrd key z.s)))) none := by
  unfold zLoad
  rw [zOperand_begun, h]
  dsimp only [farOp]
  rw [setCtx_setCtx]
  rfl

theorem zStore_local {d : Dev} {e k : Nat} {z : ZInstr} {key : Nat} (val : ZInstr → Ctx → Nat)
    (h : d.zOperand k z true = .inr (.local_ key)) :
    zStore val (d.begun k) e k z =
      .ok (((d.mwr key (leBytes z.s (val z (d.ctx k)))).begun k).setCtx k (fun c => c.postOperand z)) none := by
  unfold zStore
  rw [zOperand_begun, h]
  dsimp only [farOp]
  rw [leBytes_mod, ctx_begun]
  rfl

/-- The access that an atomic makes on a bank. -/
def atomicFar (d : Dev) (k : Nat) (z : ZInstr) (op : AtomicOp) (key : Nat) : FarOp :=
  let at_ : Word × Nat := match (d.act k).input with
    | some ev => (ev.stamp.st, ev.stamp.quarter)
    | none => (d.tb.st, 0)
  { key := k, region := .bank, addr := key, size := z.s, store := false, value := BitVec.ofNat 64 ((d.ctx k).rs z), dest := z.hi,
    signed := false, atomic := some op, ord := z.ord, entered := false, copy := none, st := at_.1, quarter := at_.2, arrived := none }

theorem zAtomic_bank {d : Dev} {e k : Nat} {z : ZInstr} {key : Nat} (op : AtomicOp)
    (ha : ((d.ctx k).wr (z.m % 16) + BitVec.ofInt 32 z.disp).toNat < 0x21000000)
    (h : d.zAddr k z.far ((d.ctx k).wr (z.m % 16) + BitVec.ofInt 32 z.disp).toNat z.s true = .inr (.far .bank key))
    (hroom : d.farFull e = false) :
    zAtomic op (d.begun k) e k z = .ok (((d.begun k).setCtx k (fun c =>
      { c with delay := c.delay.filter (fun (x : DelaySlot) => !((pairOf (z.s == 8) z.hi).contains x.dest)) })).farPush e
        (atomicFar d k z op key)) none := by
  unfold zAtomic
  dsimp only
  rw [ctx_begun, zAddr_begun, h]
  simp only [if_neg (Nat.not_le.mpr ha), act_begun]
  unfold atomicFar
  cases (d.act k).input <;> exact farLoad_room k _ hroom

theorem zLoad_far {d : Dev} {e k : Nat} {z : ZInstr} {r : Region} {key : Nat} {f : FarOp}
    (h : d.zOperand k z false = .inr (.far r key)) (hf : farOp k z.s z.hi (.far r key) = some f) (hroom : d.farFull e = false) :
    zLoad false (d.begun k) e k z = .ok (((d.begun k).setCtx k (fun c => { c.postOperand z with
      delay := (c.postOperand z).delay.filter (fun (x : DelaySlot) => !((pairOf (z.s == 8) z.hi).contains x.dest)) })).farPush
        e f) none := by
  cases hf
  unfold zLoad
  rw [zOperand_begun, h]
  have hroom' : ((d.begun k).setCtx k (fun c => c.postOperand z)).farFull e = false := hroom
  dsimp only [farOp]
  rw [farLoad_room _ _ hroom', setCtx_setCtx]

/-- The posted store of a far access. -/
def storeFar (k : Nat) (z : ZInstr) (r : Region) (key v : Nat) : FarOp :=
  { key := k, region := r, addr := key, size := z.s, store := true, value := BitVec.ofNat 64 (v % 2 ^ (8 * z.s)), dest := 0,
    signed := false, atomic := none, ord := false, entered := false, copy := none, st := 0, quarter := 0, arrived := none }

theorem zStore_far {d : Dev} {e k : Nat} {z : ZInstr} {r : Region} {key : Nat} (val : ZInstr → Ctx → Nat)
    (h : d.zOperand k z true = .inr (.far r key)) : zStore val (d.begun k) e k z =
      .ok (((d.begun k).setCtx k (fun c => c.postOperand z)).farPush e (storeFar k z r key (val z (d.ctx k)))) none := by
  unfold zStore
  rw [zOperand_begun, h, ctx_begun]
  rfl

theorem semFence_idle {d : Dev} {e k : Nat} {z : ZInstr} (h : (d.eng e).far.any (fun f => f.key == k && f.copy.isNone) = false) :
    semFence (d.begun k) e k z = .ok (d.begun k) none := by
  have hfar : ((d.begun k).eng e).far.any (fun f => f.key == k && f.copy.isNone) = false := h
  rw [semFence, hfar]
  rfl

theorem semPush_local {d : Dev} {e k : Nat} {z : ZInstr} {key : Nat}
    (h : d.stackAddr k ((d.ctx k).wr 14 - w32 z.s).toNat z.s true = .inr (.local_ key)) : semPush (d.begun k) e k z =
      .ok (((d.mwr key (leBytes z.s ((d.ctx k).rs z))).begun k).setCtx k (fun c => c.setW 14 ((d.ctx k).wr 14 - w32 z.s))) none := by
  unfold semPush
  dsimp only
  rw [ctx_begun, stackAddr_begun, h, w32_toNat]
  rfl

theorem semPop_local {d : Dev} {e k : Nat} {z : ZInstr} {key : Nat}
    (h : d.stackAddr k ((d.ctx k).wr 14).toNat z.s false = .inr (.local_ key)) : semPop (d.begun k) e k z =
      .ok ((d.begun k).setCtx k (fun c =>
        (c.setW 14 ((d.ctx k).wr 14 + w32 z.s)).load z.wide z.lo (leVal (d.mrd key z.s)))) none := by
  unfold semPop
  dsimp only
  rw [ctx_begun, stackAddr_begun, h, w32_toNat_add]
  rfl

/-! ### The end of an instruction -/

/-- What the end of an instruction leaves of a context that is still placed. -/
theorem zFinish_placed {d : Dev} {e k : Nat} {z : ZInstr} (cost : Nat) (hz : z.rep = none) (h : (tfind d.cut.acts k).isSome = true) :
    (d.zFinish e k z cost none).mem = d.mem ∧ ((d.zFinish e k z cost none).act k).stored = (d.act k).stored ∧
    (d.replaying k = false → ((d.zFinish e k z cost none).ctx k).budget = (d.ctx k).budget - cost) := by
  have hplaced : (tfind (d.busyAdd e cost).cut.acts k).isNone = false := by
    rw [show (d.busyAdd e cost).cut.acts = d.cut.acts from rfl]
    cases hf : tfind d.cut.acts k <;> simp_all
  have hreplay : (d.busyAdd e cost).replaying k = d.replaying k := rfl
  have hctx : (d.busyAdd e cost).ctx k = d.ctx k := rfl
  unfold Dev.zFinish
  dsimp only
  rw [hplaced, hz, hreplay]
  refine ⟨rfl, ?_, fun hr => ?_⟩
  · simp only [Bool.false_eq_true, if_false, Dev.setCtx, act_setAct]
    rfl
  · simp only [Bool.false_eq_true, if_false, ctx_setCtx, hctx, hr, age_budget, Option.isSome_none]

/-- The first store to a block after a checkpoint: the bytes are written, the block counts as copied, and the wait of up to 4
cycles is charged. -/
theorem zStep_streamed {d : Dev} {e k : Nat} {z : ZInstr} {ops : Nat → Bool} {sem : ZSem} {f : Ctx → Ctx} {key b : Nat} {l : List Nat}
    {bytes : List Byte} (h : d.issues e k z) (ho : ops z.op = true)
    (hs : sem (d.begun k) e k z = .ok (((d.mwr key bytes).begun k).setCtx k f) none)
    (hkey : (d.begun k).zStoreKey k z = some key) (hl : (d.act k).stored = some l) (hb : d.ckptBlock k key = some b) (hnew : b ∉ l)
    (hbudget : (f (d.ctx k)).budget = (d.ctx k).budget) :
    ∃ n, n ≤ 4 ∧ ((d.zStep e noEcc ops sem).act k).stored = some (b :: l) ∧
      (d.zStep e noEcc ops sem).mem = (d.mwr key bytes).mem ∧
      (d.replaying k = false → ((d.zStep e noEcc ops sem).ctx k).budget = (d.ctx k).budget - (d.zCost k z false + n)) := by
  generalize hd : ((d.mwr key bytes).begun k).setCtx k f = x at hs
  have hact : x.act k = { d.act k with atGo := false, open_ := true, ctx := f (d.ctx k) } := by
    rw [← hd, Dev.setCtx, act_setAct, act_begun]
    rfl
  have hblock : x.ckptBlock k key = some b := by
    have hregions : x.regions k = d.regions k := by
      rw [← hd] at hact ⊢
      simp only [Dev.regions, hact]
      rfl
    rw [Dev.ckptBlock, hregions, ← hb, Dev.ckptBlock]
  have hcopy := copyHold_first (d := x) (by rw [hact]; exact hl) hblock hnew
  rw [zStep_issues h ho hs, hkey, hcopy]
  generalize hy : x.free.2.setAct k (fun a => { a with stored := some (b :: l) }) = y
  have hyact : y.act k = { x.act k with stored := some (b :: l) } := by
    rw [← hy, act_setAct]
    rfl
  have hplaced : (tfind y.cut.acts k).isSome = true := by
    rw [← hy]
    simp [Dev.setAct, tmod, tfind_tset]
  have hreplay : y.replaying k = d.replaying k := by
    have hchan : y.chan k = d.chan k := by rw [← hy, ← hd]; rfl
    rw [Dev.replaying, hchan, hyact, hact, Dev.replaying]
  have hmem : y.mem = (d.mwr key bytes).mem := by rw [← hy, ← hd]; rfl
  obtain ⟨hfmem, hfstored, hfbudget⟩ := zFinish_placed (e := e) (z := z) (d.zCost k z false + x.free.1.toNat % 5) h.2.2.2.1 hplaced
  refine ⟨x.free.1.toNat % 5, by omega, ?_, ?_, fun hr => ?_⟩
  · exact hfstored.trans (by rw [hyact])
  · exact hfmem.trans hmem
  · refine (hfbudget (by rw [hreplay, hr])).trans ?_
    have hctx : y.ctx k = f (d.ctx k) := by rw [Dev.ctx, hyact, hact]
    rw [hctx, hbudget]

theorem postOperand_budget (c : Ctx) (z : ZInstr) : (c.postOperand z).budget = c.budget := by
  unfold Ctx.postOperand Ctx.post
  dsimp only
  repeat' split
  all_goals rfl

/-- The address of a local store is the one that the streamer looks up. -/
theorem zStoreKey_operand {d : Dev} {k : Nat} {z : ZInstr} {key : Nat} (ho : z.op = 0x22)
    (h : d.zOperand k z true = .inr (.local_ key)) : (d.begun k).zStoreKey k z = some key := by
  unfold Dev.zStoreKey
  simp [ho, zOperand_begun, h]

/-- Settles O38: local accesses and far ones by the meanings above; before the first checkpoint no store waits. -/
theorem zelekMemoryComplete : Obligations.ZelekMemoryComplete := by
  refine ⟨fun s e k z h ho hfar => ?fence, fun s e k z key h ho hst ha => ?push, fun s e k z key h ho ha => ?pop,
    fun s e k z key h ho ha => ?ld, fun s e k z r key h ho ha hroom => ?ldFar, fun s e k z key h ho ha => ?lds,
    fun s e k z key h ho hst ha => ?st, fun s e k z key b l h ho ha hl hb hnew => ?stStreamed,
    fun s e k z r key h ho hst ha => ?stFar, fun s e k z key h ho hst ha => ?sti,
    fun s e k z key a h ho hst ha hlow hbank hroom => ?aadd, fun s e k z key a h ho hst ha hlow hbank hroom => ?aswap⟩
  case fence => exact completes_jump exec_fence h (by simp [ho]) (semFence_idle hfar) rfl
  case push => exact completes_store exec_push h (by simp [ho]) hst (semPush_local ha) rfl rfl
  case pop => exact completes_regs exec_pop h (by simp [ho]) (semPop_local ha) rfl rfl
  case ld => exact completes_regs exec_ld h (by simp [ho]) (zLoad_local false ha) (by simp) rfl
  case ldFar =>
    have hend := zStep_plain (ops := fun op => op == 0x20) (sem := semLd) h (by simp [ho]) (zLoad_far ha rfl hroom)
    exact completes_lift exec_ld ⟨_, rfl, rfl, rfl, rfl, rfl, rfl, rfl, hend⟩
  case lds => exact completes_regs exec_lds h (by simp [ho]) (zLoad_local true ha) (by simp) rfl
  case st => exact completes_store exec_st h (by simp [ho]) hst (zStore_local _ ha) (by simp) rfl
  case stStreamed =>
    exact completes_lift exec_st (zStep_streamed h (by simp [ho]) (zStore_local _ ha) (zStoreKey_operand ho ha) hl hb hnew
      (postOperand_budget ..))
  case stFar =>
    refine completes_far exec_st h (by simp [ho]) (zStore_far _ ha) (by rw [act_farPush, stored_setCtx_begun]; exact hst) ?_
    refine ⟨_, rfl, rfl, rfl, rfl, rfl, ?_, rfl⟩
    rw [storeFar, BitVec.toNat_ofNat]
    exact Nat.mod_eq_of_lt (Nat.lt_of_le_of_lt (Nat.mod_le _ _) (opnd_lt ..))
  case sti => exact completes_store exec_sti h (by simp [ho]) hst (zStore_local _ ha) (by simp) rfl
  case aadd =>
    subst ha
    refine completes_far exec_aadd h (by simp [ho]) (zAtomic_bank .add hlow hbank hroom)
      (by rw [act_farPush, stored_setCtx_begun]; exact hst) ?_
    exact ⟨_, rfl, rfl, rfl, rfl, rfl, rfl, rfl, rfl, rfl⟩
  case aswap =>
    subst ha
    refine completes_far exec_aswap h (by simp [ho]) (zAtomic_bank .swap hlow hbank hroom)
      (by rw [act_farPush, stored_setCtx_begun]; exact hst) ?_
    exact ⟨_, rfl, rfl, rfl, rfl, rfl, rfl, rfl, rfl, rfl⟩

end Sys2Proof.Machine
end

section
/-!
SUPPORT. take, wait, stamp, give and bell: what the activation's input and quota let through.
-/
namespace Sys2Proof.Machine

/-- A row that stores nothing and whose meaning ends in another device. -/
theorem completes_plain {c : Instr} {s : State} {e : Fin 96} {k : Nat} {z : ZInstr} {ops : Nat → Bool} {sem : ZSem} {d2 : Dev}
    {P : Dev → Prop} (hx : exec c s = lift (fun d => d.zStep e noEcc ops sem) s) (h : s.dev.issues e k z) (ho : ops z.op = true)
    (hs : sem (s.dev.begun k) e k z = .ok d2 none) (hP : P (d2.zFinish e k z (s.dev.zCost k z false) none))
    (hno : storeOps.any ops = false := by decide) : Completes c s P := by
  refine completes_lift hx ?_
  rw [zStep_plain h ho hs hno]
  exact hP

/-! ### Taking and waiting -/

theorem copyDue_begun (d : Dev) (k : Nat) : (d.begun k).copyDue k = d.copyDue k := by
  unfold Dev.copyDue
  rw [act_begun]
  rfl

section
variable {d x : Dev} {e k : Nat} {z : ZInstr}

theorem semTake_none (hc : d.copyDue k = false) (hx : ((d.begun k).judgeLate k).sealInput k = x) (hp : x.isPlaced k = true)
    (hv : firstEv (x.visibleOf k) = none) : semTake (d.begun k) e k z = .ok (x.setCtx k (fun c => c.setFlag 0 true)) none := by
  unfold semTake
  rw [copyDue_begun, hc, hx]
  simp [hp, hv]

theorem semTake_some {v : Ev} (hc : d.copyDue k = false) (hx : ((d.begun k).judgeLate k).sealInput k = x) (hp : x.isPlaced k = true)
    (hv : firstEv (x.visibleOf k) = some v) : semTake (d.begun k) e k z = .ok (x.takeEvent k v) none := by
  unfold semTake
  rw [copyDue_begun, hc, hx]
  simp [hp, hv]

theorem semWait_placed (hc : d.copyDue k = false) (hx : ((d.begun k).judgeLate k).sealInput k = x) (hp : x.isPlaced k = true) :
    semWait (d.begun k) e k z = .ok ((x.leave e k .waiting).setAct k (fun a => { a with open_ := false })) none := by
  unfold semWait
  rw [copyDue_begun, hc, hx]
  simp [hp]

/-! ### Giving -/

/-- A give or bell that the activation's input, its quota and the queue let through. -/
theorem giveAct_placed {desc : Word} {pair : DWord} (copy : Option (Region × Nat × Nat)) (hx : (d.begun k).judgeLate k = x)
    (hin : (x.act k).input.isSome = true) (hl : (x.act k).inputLate = false) (hq : (x.act k).given < fld (x.desc (keyChan k) 5) 15 8)
    (hroom : (x.eng e).outq.length < 64) : (d.begun k).giveAct e k true desc pair copy =
      .ok ((x.setAct k (fun a => { a with given := a.given + 1 })).outPush e k desc pair copy) none := by
  have hinput : (x.act k).input.isNone = false := by cases h : (x.act k).input <;> simp_all
  unfold Dev.giveAct
  dsimp only
  rw [hx, hinput, hl, if_neg Bool.false_ne_true, if_neg (by omega), Bool.not_true, if_neg Bool.false_ne_true,
    if_neg Bool.false_ne_true, if_neg (by omega)]

end

theorem farWin_begun (d : Dev) (k a n : Nat) : (d.begun k).farWin k a n = d.farWin k a n := by
  unfold Dev.farWin
  rw [act_begun]
  rfl

/-! ### The slack of an input -/

/-- The slack is not positive when it is zero or its sign bit is set. -/
theorem sx_le_zero (n : Word) : decide (sx 32 n.toNat ≤ 0) = (n == 0 || n.msb) := by
  have hn := n.isLt
  have hz : n = 0 ↔ n.toNat = 0 := by
    constructor
    · rintro rfl; rfl
    · intro h; exact BitVec.eq_of_toNat_eq h
  rw [Bool.eq_iff_iff]
  simp only [decide_eq_true_eq, Bool.or_eq_true, beq_iff_eq, hz, BitVec.msb_eq_decide, sx, Nat.mod_eq_of_lt hn]
  split <;> omega

/-- Settles O39: the input that is sealed and the event that is taken, and what an output needs to enter the queue. -/
theorem zelekActivationsComplete : Obligations.ZelekActivationsComplete := by
  refine ⟨fun s e k z d h ho hc hd hp hv => ?takeNone, fun s e k z d v h ho hc hd hp hv => ?take,
    fun s e k z d h ho hc hd hp => ?wait, fun s e k z n h ho hin hn => ?stamp, fun s e k z h ho hin => ?stampIdle,
    fun s e k z desc pair d h ho hdesc hpair hbuf hok hd hin hl hq hroom => ?give,
    fun s e k z desc pair a n o ro key d h ho hdesc hpair hbuf hn ha hwin hok hd hin hl hq hroom => ?giveCopy,
    fun s e k z h' d h ho hh hcheck hdir hd hin hl hq hroom => ?bell⟩
  case takeNone => exact completes_plain exec_take h (by simp [ho]) (semTake_none hc hd hp hv) rfl
  case take => exact completes_plain exec_take h (by simp [ho]) (semTake_some hc hd hp hv) rfl
  case wait => exact completes_plain exec_wait h (by simp [ho]) (semWait_placed hc hd hp) rfl
  case stamp =>
    have hin' : ((s.dev.begun k).act k).input.isSome = true := by rw [act_begun]; exact hin
    have hslack : (s.dev.begun k).sealDl k - (s.dev.begun k).tb.st = n := by rw [Dev.sealDl, ctx_begun]; exact hn
    refine completes_regs (f := fun c => ((c.zn 32 n.toNat).setFlag 4 (n == 0 || n.msb)).setW z.lo n) exec_stamp h (by simp [ho])
      ?_ rfl rfl
    unfold semStamp
    dsimp only
    rw [hin', hslack, sx_le_zero]
    rfl
  case stampIdle =>
    have hin' : ((s.dev.begun k).act k).input.isSome = false := by rw [act_begun]; simp [hin]
    refine completes_regs (f := fun c => (((c.setFlag 0 false).setFlag 1 false).setFlag 4 false).setW z.lo 0x7FFFFFFF) exec_stamp h
      (by simp [ho]) ?_ rfl rfl
    unfold semStamp
    dsimp only
    rw [hin']
    rfl
  case give =>
    have hok' : (s.dev.begun k).giveOk (keyChan k) desc pair = true := hok
    refine completes_plain exec_give h (by simp [ho]) ?_ rfl
    unfold semGive
    dsimp only
    rw [ctx_begun, hdesc, hpair, hbuf]
    dsimp only
    rw [hok', giveAct_placed none hd hin hl hq hroom]
  case giveCopy =>
    have hok' : (s.dev.begun k).giveOk (keyChan k) desc pair = true := hok
    refine completes_plain exec_give h (by simp [ho]) ?_ rfl
    unfold semGive
    dsimp only
    rw [ctx_begun, hdesc, hpair, hbuf]
    dsimp only
    rw [show Nat.max 1 n = n from Nat.max_eq_right (by omega), farWin_begun, hwin]
    dsimp only
    rw [if_neg (by omega), if_neg hn, hok', giveAct_placed _ hd hin hl hq hroom]
  case bell =>
    have hok' : (decide ((s.dev.begun k).checkHandle 2 h' = .ok) && ((s.dev.begun k).sendDir (keyChan k) (hIdx h')).isSome) = true := by
      have hc' : (s.dev.begun k).checkHandle 2 h' = .ok := hcheck
      have hd' : ((s.dev.begun k).sendDir (keyChan k) (hIdx h')).isSome = true := hdir
      rw [hc', hd']
      rfl
    refine completes_plain exec_bell h (by simp [ho]) ?_ rfl
    unfold semBell
    dsimp only
    rw [ctx_begun, hh, hok', giveAct_placed none hd hin hl hq hroom]

end Sys2Proof.Machine
end

section
/-!
SUPPORT. The scheduler: dispatch, preemption, budgets, stops, bytes that are no instruction, and the posting of an event.
-/
namespace Sys2Proof.Machine

/-! ### Engines and contexts after a change -/

@[simp] theorem eng_setEng (d : Dev) (e : Nat) (f : Engine → Engine) : (d.setEng e f).eng e = f (d.eng e) := tget_tmod_self ..

@[simp] theorem eng_setAct (d : Dev) (e k : Nat) (f : Act → Act) : (d.setAct k f).eng e = d.eng e := rfl

theorem act_setBell (d : Dev) (b : BellReg) (bits : Word) (k : Nat) : (d.setBell b bits).act k = d.act k := by
  rw [Dev.act, (setBell_cut_swc d b bits).1, Dev.act]

theorem eng_setBell (d : Dev) (b : BellReg) (bits : Word) (e : Nat) : (d.setBell b bits).eng e = d.eng e := by
  rw [Dev.eng, (setBell_cut_swc d b bits).1, Dev.eng]

theorem chan_setBell (d : Dev) (b : BellReg) (bits : Word) (c : Nat) : (d.setBell b bits).chan c = d.chan c := by
  rw [Dev.chan, (setBell_cut_swc d b bits).1, Dev.chan]

theorem act_leave (d : Dev) (e k : Nat) (st : SlotState) : (d.leave e k st).act k = { d.act k with st := st, heldAt := none } := by
  rw [Dev.leave, act_setEng, act_setAct]

theorem eng_leave (d : Dev) (e k : Nat) (st : SlotState) :
    (d.leave e k st).eng e = { d.eng e with cur := if (d.eng e).cur = some k then none else (d.eng e).cur } := eng_setEng ..

/-! ### Dispatch and preemption -/

/-- Nothing runs, so nothing is preempted. -/
theorem preempt_idle {d : Dev} {e : Nat} (h : (d.eng e).cur = none) : d.preempt e = d := by
  rw [Dev.preempt, h]

/-- The running context yields to a ready one with a strictly earlier deadline. -/
theorem preempt_earlier {d : Dev} {e k j : Nat} (hcur : (d.eng e).cur = some k) (hbest : d.bestReady e = some j)
    (hst : (d.act k).st = .running) (hp : d.preemptible k = true) (hearlier : d.earlier j k = true) :
    d.preempt e = (d.leave e k .preempted).cnt (ENG_PREEMPT e) := by
  unfold Dev.preempt
  rw [hcur, hbest]
  simp [hst, hp, hearlier]

/-- Clean frames change nothing. -/
theorem frameEcc_clean (d : Dev) (e k : Nat) : d.frameEcc e k .clean = d := rfl

/-- The engine takes the context: cycles of the change, the engine's current context, the open activation. -/
def Dev.dispatched (d : Dev) (e k : Nat) : Dev :=
  (((d.busyAdd e (if (d.eng e).loaded = some k then 4 else if (d.eng e).loaded.isSome then 52 else 28)).setEng e
    (fun x => { x with cur := some k, loaded := some k })).setAct k (fun a => { a with st := .running, open_ := true }))

theorem dispatch_ready {d : Dev} {e k : Nat} (hgo : d.engGo e = true) (hstop : (d.eng e).stopped = false)
    (hcur : (d.eng e).cur = none) (hbest : d.bestReady e = some k) : d.dispatch e .clean .clean = d.dispatched e k := by
  have hrun : (!d.engGo e || (d.eng e).stopped) = false := by simp [hgo, hstop]
  unfold Dev.dispatch
  rw [hrun, preempt_idle hcur]
  dsimp only
  rw [if_neg Bool.false_ne_true, hcur, hbest]
  unfold Dev.dispatched
  by_cases hl : (d.eng e).loaded = some k
  · simp only [hl, if_true]
  · simp only [hl, if_false, frameEcc_clean]
    split <;> rfl

/-! ### Targets of AT -/

theorem atReached_ne (d : Dev) {j k : Nat} (h : k ≠ j) : (d.atReached j).act k = d.act k :=
  ite_keeps (fun d => d.act k) (act_setAct_ne _ _ _ _ h) rfl

/-- A parked context whose target is reached becomes ready; any other stays. -/
theorem atReached_act (d : Dev) (k : Nat) : (d.atReached k).act k =
    if (d.act k).st = .parked ∧ reached d.tb.st (d.act k).atTarget = true then { d.act k with st := .preempted, atGo := true }
    else d.act k := by
  unfold Dev.atReached
  by_cases h : (d.act k).st = .parked ∧ reached d.tb.st (d.act k).atTarget = true
  · rw [if_pos (by simpa using h), if_pos h, act_setAct]
  · rw [if_neg (by simpa using h), if_neg h]

theorem atReached_frame (d : Dev) (k : Nat) : (d.atReached k).mem = d.mem ∧ (d.atReached k).regs = d.regs ∧ (d.atReached k).tb = d.tb :=
  ⟨ite_keeps Dev.mem rfl rfl, ite_keeps Dev.regs rfl rfl, ite_keeps Dev.tb rfl rfl⟩

/-- Both contexts of a channel after the target of AT has been looked at. -/
theorem atReached_both_act (d : Dev) (c k : Nat) : ((d.atReached c).atReached (512 + c)).act k =
    if k ∈ [c, 512 + c] ∧ (d.act k).st = .parked ∧ reached d.tb.st (d.act k).atTarget = true then
      { d.act k with st := .preempted, atGo := true }
    else d.act k := by
  by_cases hs : k = 512 + c
  · subst hs
    have hne : 512 + c ≠ c := by omega
    rw [atReached_act, atReached_ne d hne, (atReached_frame d c).2.2]
    simp
  · rw [atReached_ne _ hs]
    by_cases hc : k = c
    · subst hc
      rw [atReached_act]
      simp
    · rw [atReached_ne _ hc, if_neg]
      simp [hc, hs]

/-! ### Deadlines -/

/-- An input whose seal deadline has passed is late. -/
theorem judgeLate_late {d : Dev} {k : Nat} (hin : (d.act k).input.isSome = true) (hr : d.replaying k = false)
    (hp : d.deadPast k = true) : d.judgeLate k = d.lateInput k := by
  rw [Dev.judgeLate, hin, hr, hp]
  rfl

theorem judgeLate_idle {d : Dev} {k : Nat} (h : (d.act k).input = none ∨ d.replaying k = true ∨ d.deadPast k = false) :
    d.judgeLate k = d := by
  unfold Dev.judgeLate
  rcases h with h | h | h <;> simp [h]

/-! ### The posting of an event -/

theorem freeSlots_cut (d : Dev) (ev : Ev) : (d.freeSlots ev).cut = d.cut := by
  unfold Dev.freeSlots
  show Dev.cut (List.foldl _ d _) = _
  apply foldl_keeps
  intro d u
  exact ite_keeps Dev.cut rfl rfl

/-- The event is in the channel's journal; no pattern book keeps it. -/
def Dev.journaled (d : Dev) (c : Nat) (ev : Ev) : Dev := d.setChan c (fun ch => { ch with journal := ch.journal ++ [ev] })

theorem journaled_chan (d : Dev) (c k : Nat) (ev : Ev) : (d.journaled c ev).chan k =
    if k = c then { d.chan c with journal := (d.chan c).journal ++ [ev] } else d.chan k := by
  rw [Dev.journaled, Dev.setChan, Dev.chan, tget_tmod]
  rfl

/-- Room for events is a matter of the engines and the descriptors. -/
theorem evRoom_journaled (d : Dev) (c k : Nat) (ev : Ev) : (d.journaled c ev).evRoom k = d.evRoom k := by
  have hdesc : (d.journaled c ev).desc (keyChan k) 5 = d.desc (keyChan k) 5 := by
    rw [Dev.desc, journaled_chan, Dev.desc]
    split
    next heq => rw [heq]
    next => rfl
  rw [Dev.evRoom, hdesc, Dev.evRoom]
  rfl

theorem journal_unbooked {d : Dev} {c : Nat} {ev : Ev} (hb : d.b CUT_CKPT_CFG 0 = false) : d.journal c ev = d.journaled c ev := by
  have hb' : (d.setChan c (fun ch => { ch with journal := ch.journal ++ [ev] })).b CUT_CKPT_CFG 0 = false := hb
  rw [Dev.journal, Dev.bookChan, hb']
  rfl

theorem enqueue_full {d : Dev} {k : Nat} {ev : Ev} (h : d.evRoom k = false) :
    (d.enqueue k ev).cut = (d.setAct k (fun a => { a with dropped := true })).cut := by
  have hbell : (((d.cnt (ENG_EVQ_DROP (d.act k).eng)).setBell (.eng (d.act k).eng) (w32 8)).setAct k
      (fun a => { a with dropped := true })).cut = (d.setAct k (fun a => { a with dropped := true })).cut := by
    rw [Dev.setAct, (setBell_cut_swc ..).1]
    rfl
  unfold Dev.enqueue
  dsimp only
  rw [h, Bool.not_false, if_pos rfl]
  exact ite_keeps Dev.cut hbell ((freeSlots_cut ..).trans hbell)

/-- With room the event enters the queue of its context's engine; the other tables of the Cutter stay. -/
theorem enqueue_room {d : Dev} {k : Nat} (ev : Ev) (h : d.evRoom k = true) : ∃ breach visible,
    ((d.enqueue k ev).eng (d.act k).eng).evq = (d.eng (d.act k).eng).evq ++
      [{ ev with chan := k, breach := breach, visible := visible }] ∧
    (d.enqueue k ev).cut.chans = d.cut.chans ∧ (d.enqueue k ev).cut.acts = d.cut.acts := by
  have hcut : ∀ b : Bool, (if b then (d.cnt (ENG_SETTLE_BRCH (d.act k).eng)).setBell (.eng (d.act k).eng) (w32 16) else d).cut = d.cut :=
    fun b => ite_keeps Dev.cut (setBell_cut_swc ..).1 rfl
  unfold Dev.enqueue
  rw [h]
  dsimp only
  rw [Bool.not_true, if_neg Bool.false_ne_true]
  refine ⟨?breach, ?visible, ?evq, ?chans, ?acts⟩
  case evq => rw [eng_setEng, Dev.eng, hcut, Dev.eng]
  · rw [Dev.setEng, hcut]
  · rw [Dev.setEng, hcut]

theorem enqueue_chans (d : Dev) (k : Nat) (ev : Ev) : (d.enqueue k ev).cut.chans = d.cut.chans := by
  cases h : d.evRoom k with
  | true =>
    obtain ⟨_, _, -, hchans, -⟩ := enqueue_room ev h
    exact hchans
  | false => rw [enqueue_full h]; rfl

section
variable {d : Dev} {c : Nat} {ev : Ev} (hst : (d.chan c).st = .running) (hstop : (d.chan c).stopAt = none)
  (hp : (tfind d.cut.acts c).isSome = true) (hmig : (d.chan c).mig = none) (hb : d.b CUT_CKPT_CFG 0 = false)
include hst hstop hp hmig hb

/-- An event of a running channel that neither stops nor migrates is delivered. -/
theorem post_running : d.post c ev =
    (if d.evRoom c then d.journaled c { ev with chan := c } else d).enqueue c { ev with chan := c } := by
  have hplaced : (tfind d.cut.acts c).isNone = false := by cases h : tfind d.cut.acts c <;> simp_all
  unfold Dev.post Dev.deliverUpTo Dev.deliverEv
  dsimp only
  rw [hst, hstop, hplaced, journal_unbooked hb]
  generalize hx : (if d.evRoom c = true then d.journaled c { ev with chan := c } else d) = x
  have hxmig : (x.chan c).mig = none := by
    rw [← hx]
    split
    · rw [journaled_chan, if_pos rfl]
      exact hmig
    · exact hmig
  have henq : ((x.enqueue c { ev with chan := c }).chan c).mig = none := by
    rw [Dev.chan, enqueue_chans]
    exact hxmig
  dsimp only
  rw [henq]
  rfl

end

theorem keyChan_fin (c : Fin 512) : keyChan c = c := by
  rw [keyChan]
  omega

theorem mem_of_still {d e : Dev} (h : d.still = e.still) : d.mem = e.mem := by
  simp only [Dev.still, Prod.mk.injEq] at h
  exact h.1

/-- Nothing is held, so nothing is charged before the budget is looked at. -/
theorem budgetOut_spent {d : Dev} {e k : Nat} (hcur : (d.eng e).cur = some k) (hst : (d.act k).st = .running)
    (hbudget : (d.ctx k).budget = 0) (hr : d.replaying k = false) (hheld : (d.act k).heldAt = none) (hl : d.loadsOf k = []) :
    d.budgetOut e = ((d.leave e k .suspended).cnt (ENG_BUDGET_OVR e)).setBell (.eng e) 4 := by
  have hnow : d.holdNow e = d := by
    unfold Dev.holdNow
    rw [hcur]
    dsimp only
    rw [hheld]
  unfold Dev.budgetOut
  rw [hnow]
  dsimp only
  rw [hcur]
  dsimp only
  rw [hst, hbudget, hr, hl]
  rfl

theorem stopPoint_clear {d : Dev} {e : Nat} (hstop : (d.eng e).stopped = false) (hret : (d.eng e).retired = false)
    (hup : d.pwr.mainUp = true) (hgo : d.engGo e = false) (hclear : ∀ k, (d.eng e).cur = some k → d.preemptible k = true) :
    d.stopPoint e = (if d.b (ENG_CTRL e) 0 then (d.setEng e (fun x => { x with stopped := true })).setBell (.eng e) 128
        else d.setEng e (fun x => { x with stopped := true })) := by
  unfold Dev.stopPoint
  dsimp only
  rw [hstop, hret, hup, hgo]
  cases h : (d.eng e).cur with
  | none => rfl
  | some k =>
    simp only [hclear k h]
    rfl

/-- Settles O40: each row's condition holds, and its effect is read off. -/
theorem schedulerComplete : Obligations.SchedulerComplete := by
  refine ⟨fun s e k hgo hstop hcur hbest => ?dispatch, fun s e c hc hcur => ?visible,
    fun s e k j c d hc hd hgo hstop hcur hbest hst hp hearlier => ?preempt,
    fun s e k hcur hst hbudget hr hheld hl => ?budget, fun s c => ?at_, fun s c hin hr hp => ?late, fun s c hidle => ?onTime,
    fun s e hstop hret hup hgo hclear => ?stop, fun s e k o hi hz => ?illegal, fun s e k hi hz => ?outside,
    fun s ev hst hstop hp hmig hb hdepth hroom => ?post, fun s ev hst hstop hp hmig hb hdepth => ?dropped⟩
  case dispatch =>
    refine completes_lift exec_dispatch ?_
    rw [dispatch_ready hgo hstop hcur hbest, Dev.dispatched]
    refine ⟨by rw [eng_setAct, eng_setEng], by rw [eng_setAct, eng_setEng], by rw [act_setAct], by rw [act_setAct], ?_, rfl,
      fun j hj => by rw [act_setAct_ne _ _ _ _ hj]; rfl⟩
    rw [eng_setAct, eng_setEng, Dev.busyAdd, eng_setEng]
  case visible =>
    refine completes_lift exec_eventVisible ?_
    unfold Dev.eventVisible
    rw [hc]
    refine ite_keeps (fun t => t) (preempt_idle ?_) rfl
    rw [eng_setEng]
    exact hcur
  case preempt =>
    refine completes_lift exec_eventVisible ?_
    have hgo' : (d.engGo e && !(d.eng e).stopped) = true := by simp [hgo, hstop]
    have hend : s.dev.eventVisible e = (d.leave e k .preempted).cnt (ENG_PREEMPT e) := by
      unfold Dev.eventVisible
      rw [hc]
      dsimp only
      rw [hd, hgo', if_pos rfl, preempt_earlier hcur hbest hst hp hearlier]
    rw [hend]
    refine ⟨?_, ?_, ?_, rfl⟩
    · rw [show ((d.leave e k .preempted).cnt (ENG_PREEMPT e)).act k = (d.leave e k .preempted).act k from rfl, act_leave]
    · rw [show ((d.leave e k .preempted).cnt (ENG_PREEMPT e)).eng e = (d.leave e k .preempted).eng e from rfl, eng_leave, hcur]
      exact if_pos rfl
    · rw [show ((d.leave e k .preempted).cnt (ENG_PREEMPT e)).eng e = (d.leave e k .preempted).eng e from rfl, eng_leave]
  case budget =>
    refine completes_lift exec_budgetExhausted ?_
    rw [budgetOut_spent hcur hst hbudget hr hheld hl]
    refine ⟨?_, ?_, ?_, ?_, rfl⟩
    · rw [act_setBell, show ((s.dev.leave e k .suspended).cnt (ENG_BUDGET_OVR e)).act k = (s.dev.leave e k .suspended).act k from rfl,
        act_leave]
    · rw [eng_setBell, show ((s.dev.leave e k .suspended).cnt (ENG_BUDGET_OVR e)).eng e = (s.dev.leave e k .suspended).eng e from rfl,
        eng_leave, hcur]
      exact if_pos rfl
    · rw [Dev.ctx, act_setBell,
        show ((s.dev.leave e k .suspended).cnt (ENG_BUDGET_OVR e)).act k = (s.dev.leave e k .suspended).act k from rfl, act_leave]
      rfl
    · rw [(setBell_parts ..).1]
      rfl
  case at_ =>
    refine completes_lift exec_atTargetReached ⟨fun k hk hst hreach => ?_, fun k hk => ?_, ?_, ?_⟩
    · rw [atReached_both_act, if_pos ⟨hk, hst, hreach⟩]
      exact ⟨rfl, rfl⟩
    · rw [atReached_both_act, if_neg]
      rintro ⟨hmem, hst, hreach⟩
      rcases hk with hk | hk | hk
      · exact hk hmem
      · exact hk hst
      · simp [hreach] at hk
    · rw [(atReached_frame _ _).1, (atReached_frame _ _).1]
    · rw [(atReached_frame _ _).2.1, (atReached_frame _ _).2.1]
  case late => exact completes_lift exec_sealDeadline (by rw [judgeLate_late hin hr hp])
  case onTime =>
    refine completes_lift exec_sealDeadline ?_
    rw [judgeLate_idle (hidle c (by simp)), judgeLate_idle (hidle (512 + c) (by simp))]
  case stop =>
    refine completes_lift exec_engineStopPoint ?_
    rw [stopPoint_clear hstop hret hup hgo hclear]
    refine ⟨ite_keeps (fun t => (t.eng e).stopped) ?_ ?_, ite_keeps Dev.mem ?_ rfl, ite_keeps (fun t => t.cut.acts) ?_ rfl, rfl⟩
    · rw [eng_setBell, eng_setEng]
    · rw [eng_setEng]
    · rw [(setBell_parts ..).1]
      rfl
    · rw [(setBell_cut_swc ..).1]
      rfl
  case illegal =>
    refine completes_lift exec_illegalInstruction ?_
    unfold Dev.zIllegal
    rw [hi]
    dsimp only
    rw [hz]
    exact readEcc_clean ..
  case outside =>
    refine completes_lift exec_illegalInstruction ?_
    unfold Dev.zIllegal
    rw [hi]
    dsimp only
    rw [hz]
    rfl
  case post =>
    have hroomy : s.dev.evRoom ev.chan = true := by simp [Dev.evRoom, keyChan_fin, hdepth, hroom]
    refine completes_lift exec_eventPost ?_
    rw [post_running hst hstop hp hmig hb, if_pos hroomy]
    generalize hx : s.dev.journaled ev.chan _ = x
    have hxroom : x.evRoom ev.chan = true := by rw [← hx, evRoom_journaled, hroomy]
    obtain ⟨breach, visible, hevq, hchans, hacts⟩ := enqueue_room _ hxroom
    have hxact : x.act ev.chan = s.dev.act ev.chan := by rw [← hx]; rfl
    have hxeng : ∀ e, x.eng e = s.dev.eng e := by rw [← hx]; exact fun _ => rfl
    rw [hxact, hxeng] at hevq
    refine ⟨_, ?_, ?_, ?_, ?_, ?_, ?_, ?_, hevq, ?_, ?_, ?_⟩ <;> try rfl
    · exact Nat.mod_eq_of_lt ev.seq.isLt
    · rw [Dev.chan, hchans, ← Dev.chan, ← hx, journaled_chan, if_pos rfl, List.length_append]
      rfl
    · rw [Dev.act, hacts, ← Dev.act, hxact]
    · rw [mem_of_still (enqueue_still ..), ← hx]
      rfl
  case dropped =>
    have hfull : s.dev.evRoom ev.chan = false := by simp [Dev.evRoom, keyChan_fin, hdepth]
    have hfull' : ¬ s.dev.evRoom ev.chan = true := by simp [hfull]
    refine completes_lift exec_eventPost ?_
    rw [post_running hst hstop hp hmig hb, if_neg hfull']
    have hcut := fun w : Ev => enqueue_full (ev := w) hfull
    refine ⟨?_, ?_, ?_, mem_of_still (enqueue_still ..)⟩
    · rw [Dev.act, hcut, ← Dev.act, act_setAct]
    · rw [Dev.chan, hcut]
      rfl
    · rw [Dev.eng, hcut]
      rfl

end Sys2Proof.Machine
end

section
/-!
SUPPORT. Prefixes: the first iteration of a repeat, AT before its target, and the hold that is charged at issue.
-/
namespace Sys2Proof.Machine

/-! ### The first iteration of a repeat -/

/-- The first iteration of a repeat within its limit executes, and the end of an instruction follows. -/
theorem zRun_repeat_first {d d2 : Dev} {e k : Nat} {z : ZInstr} {r : ZRep} {n : Nat} {ops : Nat → Bool} {sem : ZSem}
    (h : d.repeats e k z r n) (ho : ops z.op = true) (hno : storeOps.any ops = false) (hread : d.zReadKey k z = none)
    (htake : z.op ≠ 0xE0) (hn : n ≠ 0) (hlim : r.inter = true ∨ n ≤ d.f (ENG_CFG e) 27 16) (hp : (d.ctx k).poison = [])
    (hs : sem (d.begunRepeat k n) e k z = .ok d2 none) : d.zRun e k noEcc z sem = d2.zFinish e k z (d.zCost k z false) none := by
  obtain ⟨-, -, hat, hrep, hoff, hloads, hcount, -, -⟩ := h
  have hlim' : (!r.inter && decide (d.f (ENG_CFG e) 27 16 < n)) = false := by
    rcases hlim with hi | hi
    · simp [hi]
    · simp [hi]
  have htake' : (z.op == 0xE0) = false := by simp [htake]
  simp only [Dev.begunRepeat, Dev.begun] at hs
  unfold Dev.zRun
  simp only [hat, hrep, hoff, hloads, ← hcount, hn, hlim', hs, htake', hread, noEcc, any_poison_of_nil hp, List.flatMap_nil,
    any_contains_nil, lowestCause, List.nil_append, Bool.false_eq_true, if_false, Option.isSome_none, Option.isSome_some,
    Bool.false_and, Bool.not_false, Bool.and_true, Bool.true_and, decide_false, if_true, copyHold_plain hno ho, Bool.or_self]
  simp [Dev.zCost]

/-- What the end of an iteration leaves of its context. -/
theorem zFinish_iteration {d : Dev} {e k : Nat} {z : ZInstr} (cost : Nat) (hz : z.rep.isSome = true)
    (h : (tfind d.cut.acts k).isSome = true) :
    ((d.zFinish e k z cost none).ctx k).rcnt = (d.ctx k).age.rcnt - 1 ∧
    ((d.zFinish e k z cost none).ctx k).repOn = ((d.ctx k).age.rcnt - 1 != 0) ∧
    ((d.zFinish e k z cost none).ctx k).pc =
      (if (d.ctx k).age.rcnt - 1 = 0 then ((d.ctx k).pc + z.len) % 2 ^ 32 else (d.ctx k).age.pc) ∧
    (d.zFinish e k z cost none).mem = d.mem ∧ (d.zFinish e k z cost none).regs = d.regs := by
  have hplaced : (tfind (d.busyAdd e cost).cut.acts k).isNone = false := by
    rw [show (d.busyAdd e cost).cut.acts = d.cut.acts from rfl]
    cases hf : tfind d.cut.acts k <;> simp_all
  have hctx : (d.busyAdd e cost).ctx k = d.ctx k := rfl
  unfold Dev.zFinish
  dsimp only
  rw [hplaced, hz]
  simp only [Bool.false_eq_true, if_false, if_true, ctx_setCtx, hctx]
  exact ⟨trivial, trivial, trivial, rfl, rfl⟩

/-- Load delays that end write registers alone. -/
theorem age_rcnt_pc (c : Ctx) : c.age.rcnt = c.rcnt ∧ c.age.pc = c.pc := by
  have h : ∀ (l : List DelaySlot) (c : Ctx), (l.foldl (fun (c : Ctx) (s : DelaySlot) => c.setW s.dest s.value) c).rcnt = c.rcnt ∧
      (l.foldl (fun (c : Ctx) (s : DelaySlot) => c.setW s.dest s.value) c).pc = c.pc := by
    intro l
    induction l with
    | nil => exact fun c => ⟨rfl, rfl⟩
    | cons s l ih => exact fun c => ih _
  exact h _ _

theorem setOpnd_rcnt (c : Ctx) (w : Bool) (i v : Nat) : (c.setOpnd w i v).rcnt = c.rcnt := by cases w <;> rfl

/-- The registers that an addition leaves: the repeat count and the program counter are none of them. -/
theorem putAll_rcnt_pc (c : Ctx) (z : ZInstr) (x : Nat × Bool × Bool) : (c.putAll z x).rcnt = c.rcnt ∧ (c.putAll z x).pc = c.pc :=
  ⟨setOpnd_rcnt .., setOpnd_pc ..⟩

theorem ctx_begunRepeat (d : Dev) (k n : Nat) : (d.begunRepeat k n).ctx k = { d.ctx k with rcnt := w32 n, repOn := true } := by
  rw [Dev.begunRepeat, ctx_setCtx, ctx_begun]

theorem w32_sub_one {n : Nat} (h : 0 < n) : w32 n - 1 = w32 (n - 1) := by
  obtain ⟨m, rfl⟩ : ∃ m, n = m + 1 := ⟨n - 1, by omega⟩
  rw [w32, BitVec.ofNat_add, Nat.add_sub_cancel]
  exact add_sub_cancel_right _ _

theorem w32_eq_zero {n : Nat} (h : n < 2 ^ 32) : w32 n = 0 ↔ n = 0 := by
  rw [← BitVec.toNat_inj, w32, BitVec.toNat_ofNat, Nat.mod_eq_of_lt h]
  rfl

/-! ### AT and holds -/

/-- Before its target an instruction with AT parks its context. -/
theorem zStep_parks {d : Dev} {e k : Nat} {z : ZInstr} {r : Nat} {ops : Nat → Bool} (sem : ZSem) (hi : d.canIssue e = some k)
    (hz : d.zAt k = .ok z) (ho : ops z.op = true) (hat : z.at_ = some r) (hrep : z.rep = none) (hl : d.loadsOf k = [])
    (hp : r ∉ (d.ctx k).poison) (hgo : (d.act k).atGo = false) (hearly : reached d.tb.st ((d.ctx k).wr r) = false)
    (hheld : (d.act k).heldAt = none) : d.zStep e noEcc ops sem =
      (d.leave e k .parked).setAct k (fun a => { a with atTarget := (d.ctx k).wr r, open_ := true }) := by
  have hpre : z.preReads.any (d.ctx k).poison.contains = false := by
    simp [ZInstr.preReads, hat, hrep, hp]
  unfold Dev.zStep
  simp only [holdNow_none hi hheld, hi, hz, ho, if_true, noEcc, reduceCtorEq, if_false, readEcc_clean]
  unfold Dev.zRun
  simp only [hl, List.flatMap_nil, any_contains_nil, Bool.false_eq_true, if_false, hat, hgo, hearly, hpre, Option.isSome_some,
    Bool.not_false, Bool.and_true, if_true]

/-- What the charge of a hold leaves. -/
theorem holdNow_charged {d : Dev} {e k n : Nat} (hcur : (d.eng e).cur = some k) (hh : (d.act k).heldAt = some n) :
    ((d.holdNow e).act k).heldAt = none ∧
    (d.replaying k = false →
      ((d.holdNow e).ctx k).budget = (d.ctx k).budget - (4 * d.tb.now - n + (d.act k).heldPart) / 5) ∧
    ((d.holdNow e).eng e).busy = ((d.eng e).busy + (4 * d.tb.now - n + (d.act k).heldPart) / 5) % 2 ^ 64 := by
  have hcycles : d.holdCycles k = (4 * d.tb.now - n + (d.act k).heldPart) / 5 := by rw [Dev.holdCycles, hh]
  unfold Dev.holdNow
  rw [hcur]
  dsimp only
  rw [hh]
  dsimp only
  rw [hcycles]
  refine ⟨by rw [act_setAct], fun hr => ?_, by rw [eng_setAct, Dev.busyAdd, eng_setEng]⟩
  rw [Dev.ctx, act_setAct, hr]
  rfl

/-- The engine's running context stays while its hold is charged. -/
theorem cur_holdNow (d : Dev) (e : Nat) : ((d.holdNow e).eng e).cur = (d.eng e).cur := by
  unfold Dev.holdNow
  split
  · rfl
  · split
    · rfl
    · rw [eng_setAct, Dev.busyAdd, eng_setEng]

/-- An instruction that issues after a hold issues as it would with the hold charged. -/
theorem zStep_charged {d h : Dev} {e k : Nat} {z : ZInstr} {ops : Nat → Bool} (sem : ZSem) (hh : d.holdNow e = h)
    (hi : h.canIssue e = some k) (hz : h.zAt k = .ok z) (ho : ops z.op = true) (hheld : (h.act k).heldAt = none) :
    d.zStep e noEcc ops sem = h.zStep e noEcc ops sem := by
  unfold Dev.zStep
  simp only [hh, holdNow_none hi hheld, hi, hz, ho, if_true]

/-- Settles O56: an addition is a change of registers, so its iteration ends as any; AT parks before anything else is looked at;
and a hold is charged before the instruction issues. -/
theorem zelekPrefixes : Obligations.ZelekPrefixes := by
  refine ⟨fun s e k z r n h ho hn hlt hlim hp => ?repeats, fun d e k z r ops sem hi hz ho hat hrep hl hp hgo hearly hheld => ?parks,
    fun d e k z ops sem h n hi hh hi' hz ho hheld => ?holds⟩
  case repeats =>
    have hrows : rows345 z.op 0 = true := rows345_of_mem (by simpa using ho)
    have hread : s.dev.zReadKey k z = none := by
      simp only [List.mem_cons, List.not_mem_nil, or_false] at ho
      rcases ho with ho | ho | ho <;> simp [Dev.zReadKey, ho]
    have htake : z.op ≠ 0xE0 := by
      simp only [List.mem_cons, List.not_mem_nil, or_false] at ho
      omega
    refine completes_lift exec_add ?_
    rw [zStep_repeats semAdd h hrows]
    rw [zRun_repeat_first (ops := fun op => rows345 op 0) (sem := semAdd) h hrows (by decide) hread htake (by omega) hlim hp rfl]
    generalize hd : s.dev.begunRepeat k n = d
    obtain ⟨hrcnt, hpc⟩ := putAll_rcnt_pc (d.ctx k) z (addRes z.n ((d.ctx k).rd z) (z.src2 (d.ctx k)) 0)
    obtain ⟨harcnt, hapc⟩ := age_rcnt_pc ((d.ctx k).putAll z (addRes z.n ((d.ctx k).rd z) (z.src2 (d.ctx k)) 0))
    have hplaced : ∀ f, (tfind (d.setCtx k f).cut.acts k).isSome = true := fun f => by
      simp [Dev.setCtx, Dev.setAct, tmod, tfind_tset]
    have hctx : d.ctx k = { s.dev.ctx k with rcnt := w32 n, repOn := true } := by rw [← hd, ctx_begunRepeat]
    have hone : w32 n - 1 = 0 ↔ n = 1 := by
      rw [w32_sub_one hn, w32_eq_zero (by omega)]
      omega
    obtain ⟨h1, h2, h3, h4, h5⟩ := zFinish_iteration (e := e) (z := z) (s.dev.zCost k z false) (by rw [h.2.2.2.1]; rfl)
      (hplaced (fun c => c.putAll z (addRes z.n (c.rd z) (z.src2 c) 0)))
    rw [ctx_setCtx, harcnt, hrcnt, hctx] at h1 h2 h3
    refine ⟨h1.trans (w32_sub_one hn), h2.trans ?_, h3.trans ?_, ?_, ?_⟩
    · rw [Bool.eq_iff_iff, bne_iff_ne, bne_iff_ne, ne_eq, ne_eq, not_congr hone]
    · rw [← hctx, hapc, hpc]
      simp only [hone, hctx]
    · exact h4.trans (by rw [← hd]; rfl)
    · exact h5.trans (by rw [← hd]; rfl)
  case parks =>
    have hcur := canIssue_cur hi
    rw [zStep_parks sem hi hz ho hat hrep hl hp hgo hearly hheld]
    refine ⟨by rw [act_setAct, act_leave], by rw [act_setAct], ?_, ?_, rfl⟩
    · rw [Dev.ctx, act_setAct, act_leave]
      rfl
    · rw [eng_setAct, eng_leave, hcur]
      exact if_pos rfl
  case holds =>
    obtain ⟨hnone, hbudget, hbusy⟩ := holdNow_charged (canIssue_cur hi) hheld
    rw [hh] at hnone hbudget hbusy
    exact ⟨zStep_charged sem hh hi' hz ho hnone, hnone, hbudget, hbusy⟩

end Sys2Proof.Machine
end

section
/-!
SUPPORT. What ringing a bell and posting an event can change at most of the Cutter, the switch, the pair and the ring: journals,
the queues of events, the mark that an event was dropped, sequence numbers, receive slots and the book's queue.
-/
namespace Sys2Proof.Machine

/-- A channel but for its journal. -/
def Chan.unposted (c : Chan) : Chan := { c with journal := [] }

/-- A context but for the mark that an event for it has been dropped. -/
def Act.unposted (a : Act) : Act := { a with dropped := false }

/-- An engine but for its queue of events. -/
def Engine.unposted (e : Engine) : Engine := { e with evq := [], evqHigh := 0 }

/-- The channels, contexts and engines, the switch, the pair and the ring but for what an event that is posted can change. -/
def Dev.roster (d : Dev) :=
  ((fun c => (d.chan c).unposted), (fun k => (d.act k).unposted), (fun e => (d.eng e).unposted),
    ({ d.cut with chans := [], acts := [], engines := [], evtSeq := [] } : Cutter),
    ({ d.swc with slots := [], fullAt := [], lostAt := [] } : Switch), ({ d.red with bookCnt := 0 } : Redundancy),
    ({ d.slv with bookq := [] } : Ring))

theorem roster_setChan (d : Dev) (c : Nat) (f : Chan → Chan) (h : (f (d.chan c)).unposted = (d.chan c).unposted) :
    (d.setChan c f).roster = d.roster := by
  have hchan : (fun c' => ((d.setChan c f).chan c').unposted) = fun c' => (d.chan c').unposted := by
    funext c'
    rw [Dev.chan, Dev.setChan, tget_tmod]
    split
    next heq => rw [heq]; exact h
    next => rfl
  exact congrArg (fun x => (x, d.roster.2)) hchan

theorem roster_setAct (d : Dev) (k : Nat) (f : Act → Act) (h : (f (d.act k)).unposted = (d.act k).unposted) :
    (d.setAct k f).roster = d.roster := by
  have hact : (fun k' => ((d.setAct k f).act k').unposted) = fun k' => (d.act k').unposted := by
    funext k'
    rw [Dev.act, Dev.setAct, tget_tmod]
    split
    next heq => rw [heq]; exact h
    next => rfl
  exact congrArg (fun x => (d.roster.1, x, d.roster.2.2)) hact

theorem roster_setEng (d : Dev) (e : Nat) (f : Engine → Engine) (h : (f (d.eng e)).unposted = (d.eng e).unposted) :
    (d.setEng e f).roster = d.roster := by
  have heng : (fun e' => ((d.setEng e f).eng e').unposted) = fun e' => (d.eng e').unposted := by
    funext e'
    rw [Dev.eng, Dev.setEng, tget_tmod]
    split
    next heq => rw [heq]; exact h
    next => rfl
  exact congrArg (fun x => (d.roster.1, d.roster.2.1, x, d.roster.2.2.2)) heng

theorem vecRise_roster (d : Dev) (v : Option Nat) (b : Bool) : (d.vecRise v b).roster = d.roster := by
  unfold Dev.vecRise
  cases v with
  | none => rfl
  | some n => exact ite_keeps Dev.roster rfl rfl

theorem setBell_roster (d : Dev) (b : BellReg) (bits : Word) : (d.setBell b bits).roster = d.roster := vecRise_roster ..

theorem freeSlots_roster (d : Dev) (ev : Ev) : (d.freeSlots ev).roster = d.roster := by
  have h : ∀ (l : List SlotUse), (l.foldl (fun (d : Dev) (u : SlotUse) =>
      if u.kind = 4 then d.wf (MBX_RXSTAT u.idx u.slot) 4 0 0 else d) d).roster = d.roster := by
    intro l
    apply foldl_keeps
    intro d u
    exact ite_keeps Dev.roster rfl rfl
  exact h _

theorem enqueue_roster (d : Dev) (k : Nat) (ev : Ev) : (d.enqueue k ev).roster = d.roster := by
  have hdrop : (((d.cnt (ENG_EVQ_DROP (d.act k).eng)).setBell (.eng (d.act k).eng) (w32 8)).setAct k
      (fun a => { a with dropped := true })).roster = d.roster := by
    rw [roster_setAct _ _ _ rfl, setBell_roster]
    rfl
  unfold Dev.enqueue
  dsimp only
  refine ite_keeps Dev.roster (ite_keeps Dev.roster hdrop ((freeSlots_roster ..).trans hdrop)) ?_
  rw [roster_setEng _ _ _ rfl]
  refine ite_keeps Dev.roster ?_ rfl
  rw [setBell_roster]
  rfl

theorem bookPut_roster (d : Dev) (h : Word) (n : Nat) (st : Word) (b : List Byte) : (d.bookPut h n st b).roster = d.roster :=
  ite_keeps Dev.roster rfl rfl

theorem journal_roster (d : Dev) (c : Nat) (ev : Ev) : (d.journal c ev).roster = d.roster := by
  unfold Dev.journal
  rw [Dev.bookChan]
  exact ite_keeps Dev.roster ((bookPut_roster ..).trans (roster_setChan _ _ _ rfl)) (roster_setChan _ _ _ rfl)

theorem deliverEv_roster (d : Dev) (c : Nat) (ev : Ev) : (d.deliverEv c ev).roster = d.roster := by
  have h : ((if d.evRoom c then d.journal c ev else d).enqueue c ev).roster = d.roster := by
    rw [enqueue_roster]
    exact ite_keeps Dev.roster (journal_roster ..) rfl
  unfold Dev.deliverEv
  refine ite_keeps Dev.roster (freeSlots_roster ..) ?_
  generalize (if d.evRoom c then d.journal c ev else d).enqueue c ev = t at h
  dsimp only
  split
  · exact h
  · split
    · exact ite_keeps Dev.roster h (by rw [enqueue_roster, h])
    · split
      · exact ite_keeps Dev.roster (by rw [enqueue_roster, h]) h
      · exact h

theorem deliverUpTo_roster (d : Dev) (c : Nat) (ev : Ev) : (d.deliverUpTo c ev).roster = d.roster := by
  unfold Dev.deliverUpTo
  split
  · exact ite_keeps Dev.roster (freeSlots_roster ..) (deliverEv_roster ..)
  · exact deliverEv_roster ..

theorem post_roster (d : Dev) (c : Nat) (ev : Ev) : (d.post c ev).roster = d.roster := by
  unfold Dev.post
  dsimp only
  split
  · exact ite_keeps Dev.roster (journal_roster ..) (freeSlots_roster ..)
  · exact deliverUpTo_roster ..
  · exact deliverUpTo_roster ..
  · exact deliverUpTo_roster ..
  · split
    · exact deliverUpTo_roster ..
    · exact ite_keeps Dev.roster (journal_roster ..) (freeSlots_roster ..)
    · exact freeSlots_roster ..
  · exact freeSlots_roster ..

theorem control_roster (d : Dev) (b unit : Nat) (bell : Word) : (d.control b unit bell).roster = d.roster := by
  unfold Dev.control
  dsimp only
  split
  · rfl
  · exact ite_keeps Dev.roster ((post_roster ..).trans rfl) rfl

theorem rxFill_roster (d : Dev) (m dir : Nat) (ws : List Word) : (d.rxFill m dir ws).roster = d.roster := by
  have h : (d.each (List.range ws.length) (fun d i => d.w (MBX_RX m dir i) (ws.getD i 0))).roster = d.roster := by
    apply each_keeps
    intro d i
    rfl
  unfold Dev.rxFill
  exact ite_keeps Dev.roster h h

theorem partyRing_roster (d : Dev) (p : Word) (bit : Nat) : (d.partyRing p bit).roster = d.roster := by
  unfold Dev.partyRing
  split
  · exact setBell_roster ..
  · rfl

theorem rxEvent_roster (d : Dev) (m dir c n bit : Nat) : (d.rxEvent m dir c n bit).roster = d.roster := by
  unfold Dev.rxEvent
  dsimp only
  rw [post_roster]
  exact ite_keeps Dev.roster rfl rfl

theorem deliver_roster (d : Dev) (m dir : Nat) (ws : List Word) (bit : Nat) : (d.deliver m dir ws bit).1.roster = d.roster := by
  have hfill : (if ws = [] then d.cnt (MBX_CNT 2) else (d.cnt (MBX_CNT 1)).rxFill m dir ws).roster = d.roster :=
    ite_keeps Dev.roster rfl ((rxFill_roster ..).trans rfl)
  unfold Dev.deliver
  generalize (if ws = [] then d.cnt (MBX_CNT 2) else (d.cnt (MBX_CNT 1)).rxFill m dir ws) = t at hfill
  dsimp only
  split
  · rfl
  · split
    · exact (partyRing_roster ..).trans hfill
    · exact (rxEvent_roster ..).trans ((partyRing_roster ..).trans hfill)

theorem doorbell_roster (d : Dev) (p : Word) : (d.doorbell p).roster = d.roster := by
  unfold Dev.doorbell
  apply each_keeps
  intro d m
  exact ite_keeps Dev.roster (ite_keeps Dev.roster (deliver_roster ..) (ite_keeps Dev.roster (deliver_roster ..) rfl)) rfl

theorem ring_roster (d : Dev) (b : BellReg) (bits : Word) : (d.ring b bits).roster = d.roster := by
  have hevent : (match b.event with
      | some (blk, unit) =>
        if (decide (d.unmasked b = 0) && bits &&& (d.setBell b bits).r b.mask &&& ~~~d.unmasked b != 0) = true then
          (d.setBell b bits).control blk unit ((d.setBell b bits).r b.addr)
        else d.setBell b bits
      | none => d.setBell b bits).roster = d.roster := by
    split
    · exact ite_keeps Dev.roster ((control_roster ..).trans (setBell_roster ..)) (setBell_roster ..)
    · exact setBell_roster ..
  unfold Dev.ring
  dsimp only
  split
  · exact ite_keeps Dev.roster ((doorbell_roster ..).trans hevent) hevent
  · exact hevent

theorem ringBit_roster (d : Dev) (b : BellReg) (i : Nat) : (d.ringBit b i).roster = d.roster := ring_roster ..

/-! ### The same, part by part -/

section
variable {d x : Dev} (h : d.roster = x.roster)
include h

theorem chan_of_roster (c : Nat) : (d.chan c).unposted = (x.chan c).unposted := congrFun (congrArg Prod.fst h) c

theorem act_of_roster (k : Nat) : (d.act k).unposted = (x.act k).unposted := congrFun (congrArg (fun y => y.2.1) h) k

theorem eng_of_roster (e : Nat) : (d.eng e).unposted = (x.eng e).unposted := congrFun (congrArg (fun y => y.2.2.1) h) e

theorem chan_st_of_roster (c : Nat) : (d.chan c).st = (x.chan c).st := by
  have hst := congrArg Chan.st (chan_of_roster h c)
  exact hst

theorem act_st_of_roster (k : Nat) : (d.act k).st = (x.act k).st := by
  have hst := congrArg Act.st (act_of_roster h k)
  exact hst

theorem act_input_of_roster (k : Nat) : (d.act k).input = (x.act k).input := by
  have hin := congrArg Act.input (act_of_roster h k)
  exact hin

theorem eng_cur_of_roster (e : Nat) : (d.eng e).cur = (x.eng e).cur := by
  have hcur := congrArg Engine.cur (eng_of_roster h e)
  exact hcur

end

end Sys2Proof.Machine
end

section
/-!
SUPPORT. An exception that is no memory error, on a channel that does not migrate: the late action that comes before it ends no
migration, so memory stays; what comes after the slot is faulted leaves the slot alone.
-/
namespace Sys2Proof.Machine

/-- Memory, the security unit, and of channel `c` its migration and the CHECKPOINT commands that wait. -/
def Dev.footing (d : Dev) (c : Nat) : Memory × Security × Option Migration × List Nat :=
  (d.mem, d.sec, (d.chan c).mig, (d.chan c).ckptPorts)

section
variable {c : Nat}

theorem footing_of_parts {d x : Dev} (hs : d.still = x.still) (hr : d.roster = x.roster) : d.footing c = x.footing c := by
  have hchan := chan_of_roster hr c
  have hmig := congrArg Chan.mig hchan
  have hports := congrArg Chan.ckptPorts hchan
  exact Prod.ext (mem_of_still hs) (Prod.ext (sec_of_still hs) (Prod.ext hmig hports))

theorem setBell_footing (d : Dev) (b : BellReg) (bits : Word) : (d.setBell b bits).footing c = d.footing c :=
  footing_of_parts (setBell_still ..) (setBell_roster ..)

theorem ringBit_footing (d : Dev) (b : BellReg) (i : Nat) : (d.ringBit b i).footing c = d.footing c :=
  footing_of_parts (ringBit_still ..) (ringBit_roster ..)

theorem cnt_footing (d : Dev) (a : Nat) : (d.cnt a).footing c = d.footing c := rfl

theorem freeSlots_footing (d : Dev) (ev : Ev) : (d.freeSlots ev).footing c = d.footing c :=
  footing_of_parts (freeSlots_still ..) (freeSlots_roster ..)

theorem setChan_footing (d : Dev) (j : Nat) (f : Chan → Chan) (hm : ∀ x, (f x).mig = x.mig := by intro _; rfl)
    (hp : ∀ x, (f x).ckptPorts = x.ckptPorts := by intro _; rfl) : (d.setChan j f).footing c = d.footing c := by
  have hchan : ((d.setChan j f).chan c).mig = (d.chan c).mig ∧ ((d.setChan j f).chan c).ckptPorts = (d.chan c).ckptPorts := by
    rw [Dev.chan, Dev.setChan, tget_tmod]
    split
    next heq => rw [heq, hm, hp]; exact ⟨rfl, rfl⟩
    next => exact ⟨rfl, rfl⟩
  rw [Dev.footing, hchan.1, hchan.2]
  rfl

theorem safePins_footing (d : Dev) (g : Nat) : (d.safePins g).footing c = d.footing c := by
  unfold Dev.safePins
  apply each_keeps (fun d => d.footing c)
  intro d i
  refine ite_keeps (fun d => d.footing c) ?_ rfl
  unfold Dev.safePin Dev.pinSeen
  refine ite_keeps (fun d => d.footing c) rfl ?_
  split <;> rfl

/-- Without a migration there is none to end. -/
theorem endMigration_none {d : Dev} {j : Nat} (status : Nat) (h : (d.chan j).mig = none) : d.endMigration j status = d := by
  rw [Dev.endMigration, h]

theorem stopChannel_footing {d : Dev} (h : (d.chan c).mig = none) : (d.stopChannel c).footing c = d.footing c := by
  rw [Dev.stopChannel, endMigration_none 13 h]
  exact setChan_footing _ _ _

/-- The late action of a channel that does not migrate. -/
theorem lateAction_footing {d : Dev} (e : Nat) (rel : Word) (h : (d.chan c).mig = none) :
    (d.lateAction c e rel).footing c = d.footing c := by
  have hx : (((((d.cnt (ENG_LATE e)).setBell (.eng e) 2).setChan c
      (fun ch => { ch with late := true, lateCount := satAdd 32 ch.lateCount 1 })).cnt CUT_LATE_TOTAL).ringBit .cut 4).footing c =
      d.footing c := by
    rw [ringBit_footing, cnt_footing]
    refine (setChan_footing _ _ _).trans ?_
    rw [setBell_footing]
    rfl
  unfold Dev.lateAction
  dsimp only
  generalize (((((d.cnt (ENG_LATE e)).setBell (.eng e) 2).setChan c
      (fun ch => { ch with late := true, lateCount := satAdd 32 ch.lateCount 1 })).cnt CUT_LATE_TOTAL).ringBit .cut 4) = x at hx
  have hmig : (x.chan c).mig = none := (congrArg (fun y => y.2.2.1) hx).trans h
  refine ite_keeps (fun d => d.footing c) ?_ (ite_keeps (fun d => d.footing c) ?_ hx)
  · exact ite_keeps (fun d => d.footing c) ((safePins_footing ..).trans hx) hx
  · split
    · exact (stopChannel_footing hmig).trans hx
    · exact (stopChannel_footing hmig).trans hx
    · exact (setChan_footing _ _ _).trans hx
    · exact hx

theorem markLate_footing (d : Dev) (j : Nat) (ev : Option Ev) : (d.markLate j ev).footing c = d.footing c := by
  cases ev with
  | none => rfl
  | some v => exact setChan_footing _ _ _

theorem lateInput_footing {d : Dev} {k : Nat} (hk : keyChan k = c) (h : (d.chan c).mig = none) :
    (d.lateInput k).footing c = d.footing c := by
  unfold Dev.lateInput
  refine ite_keeps (fun d => d.footing c) rfl (ite_keeps (fun d => d.footing c) rfl ?_)
  rw [hk]
  generalize hx : Dev.setL _ k = x
  have hfoot : x.footing c = d.footing c := by rw [← hx]; rfl
  have hmark := (markLate_footing x c (d.act k).input).trans hfoot
  have hmig : ((x.markLate c (d.act k).input).chan c).mig = none := (congrArg (fun y => y.2.2.1) hmark).trans h
  exact (lateAction_footing _ _ hmig).trans hmark

end

/-- The exception up to the point where its slot is faulted: the input is late, the registers record the exception. -/
def Dev.raised (d : Dev) (e k cause : Nat) (addr : Option Nat) : Dev :=
  let c := keyChan k
  let d := d.setCtx k (fun x => { x with delay := [] })
  let d := d.setEng e (fun x => { x with far := x.far.filter (fun f => f.key != k || f.store) })
  let d := d.lateInput k
  let cycle := k < 512 && (d.act k).input.any (fun v => v.src == 8 && v.stamp.st == d.scn.tE)
  let d := if cycle then { d with scn := { d.scn with withheld := true } } else d
  let d := match (d.act k).input with
    | some ev => if d.muted k ev.stamp.st then d else d.freeSlots { ev with chan := c }
    | none => d
  let n := wrapAdd 16 (d.eng e).excSeq 1
  let d := d.setEng e (fun x => { x with excSeq := n })
  let d := (d.w (ENG_EXC e) (w32 (cause + 16 * c + 65536 * n))).w (ENG_EPC e) (w32 (d.ctx k).pc)
  let (v, d) := match addr with
    | some a => (w32 a, d)
    | none => d.free
  (d.w (ENG_EADDR e) v).setBell (.eng e) 1

/-- The slot of an exception. -/
def Dev.slotFaulted (d : Dev) (e k : Nat) : Dev :=
  (d.leave e k .faulted).setAct k (fun a => { a with open_ := false, input := none, inputLate := false })

theorem raise_of_fault {d : Dev} {e k cause : Nat} {addr : Option Nat} (hk : k < 512) (h4 : cause ≠ 4) (h5 : cause ≠ 5) :
    d.raise e k cause addr = (((d.raised e k cause addr).slotFaulted e k).endMigration k 13).chanFaulted k := by
  have hchan : keyChan k = k := Nat.mod_eq_of_lt hk
  have hlow : ¬ 512 ≤ k := by omega
  unfold Dev.raise
  simp only [hchan, hlow, if_false, h4, h5, decide_false, Bool.or_self, Bool.false_eq_true]
  unfold Dev.raised
  simp only [hchan]
  rfl

theorem raised_footing {d : Dev} {e k cause : Nat} {addr : Option Nat} (hk : k < 512) (h : (d.chan k).mig = none) :
    (d.raised e k cause addr).footing k = d.footing k := by
  have hchan : keyChan k = k := Nat.mod_eq_of_lt hk
  unfold Dev.raised
  dsimp only
  generalize hx : Dev.lateInput _ k = x
  have hfoot : x.footing k = d.footing k := by
    rw [← hx]
    refine (lateInput_footing hchan ?_).trans rfl
    exact h
  have hcycle : ∀ b : Bool, (if b then ({ x with scn := { x.scn with withheld := true } } : Dev) else x).footing k = d.footing k :=
    fun b => ite_keeps (fun d => d.footing k) hfoot hfoot
  have hslots : ∀ y : Dev, y.footing k = d.footing k → (match (y.act k).input with
      | some ev => if y.muted k ev.stamp.st then y else y.freeSlots { ev with chan := keyChan k }
      | none => y).footing k = d.footing k := by
    intro y hy
    split
    · exact ite_keeps (fun d => d.footing k) hy ((freeSlots_footing ..).trans hy)
    · exact hy
  rw [setBell_footing]
  cases addr with
  | some a => exact hslots _ (hcycle _)
  | none => exact hslots _ (hcycle _)

/-- What the end of the exception does to its channel. -/
theorem chanFaulted_parts {d : Dev} {c : Nat} (h : (d.chan c).ckptPorts = []) :
    ((d.chanFaulted c).chan c).st = .faulted ∧ (∀ k, ((d.chanFaulted c).act k).st = (d.act k).st) ∧
    (∀ k, ((d.chanFaulted c).act k).input = (d.act k).input) ∧ (∀ e, ((d.chanFaulted c).eng e).cur = (d.eng e).cur) ∧
    (d.chanFaulted c).mem = d.mem ∧ (d.chanFaulted c).sec = d.sec := by
  have hend : d.chanFaulted c =
      (d.setChan c (fun ch => { ch with st := .faulted, ckptPorts := [], epochOpen := [] })).ringBit .cut 5 := by
    rw [Dev.chanFaulted, h]
    rfl
  rw [hend]
  have hr := ringBit_roster (d.setChan c (fun ch => { ch with st := .faulted, ckptPorts := [], epochOpen := [] })) .cut 5
  refine ⟨?_, fun k => act_st_of_roster hr k, fun k => act_input_of_roster hr k, fun e => eng_cur_of_roster hr e,
    (ringBit_parts ..).1, sec_of_still (ringBit_still ..)⟩
  rw [chan_st_of_roster hr c, Dev.chan, Dev.setChan, tget_tmod_self]

theorem slotFaulted_parts (d : Dev) (e k : Nat) : ((d.slotFaulted e k).act k).st = .faulted ∧
    ((d.slotFaulted e k).act k).input = none ∧ ((d.slotFaulted e k).eng e).cur ≠ some k := by
  rw [Dev.slotFaulted, act_setAct, eng_setAct, act_leave, eng_leave]
  refine ⟨rfl, rfl, ?_⟩
  dsimp only
  split
  · exact fun h => nomatch h
  · assumption

theorem slotFaulted_footing (d : Dev) (e k c : Nat) : (d.slotFaulted e k).footing c = d.footing c := rfl

/-- Settles O58: the late action ends no migration, the slot is faulted, and the channel's end of the exception leaves the slot. -/
theorem exceptionFaultsChannel : Obligations.ExceptionFaultsChannel := by
  intro d e k cause addr hk h4 h5 hmig hports
  have hfoot : ((d.raised e k cause addr).slotFaulted e k).footing k = d.footing k :=
    (slotFaulted_footing ..).trans (raised_footing hk hmig)
  generalize hx : (d.raised e k cause addr).slotFaulted e k = x at hfoot
  have hxmig : (x.chan k).mig = none := (congrArg (fun y => y.2.2.1) hfoot).trans hmig
  have hxports : (x.chan k).ckptPorts = [] := (congrArg (fun y => y.2.2.2) hfoot).trans hports
  obtain ⟨hst, hin, hcur⟩ := slotFaulted_parts (d.raised e k cause addr) e k
  obtain ⟨hcst, hast, hain, hecur, hmem, hsec⟩ := chanFaulted_parts hxports
  rw [raise_of_fault hk h4 h5, hx, endMigration_none 13 hxmig, hast, hain, hecur, hmem, hsec]
  rw [hx] at hst hin hcur
  exact ⟨hcst, hst, hin, hcur, congrArg (fun y => y.1) hfoot, congrArg (fun y => y.2.1) hfoot⟩

end Sys2Proof.Machine
end

section
/-!
SUPPORT. What writes memory with clean codewords keeps its canonical form: every change is a write of a range of bytes.
-/
namespace Sys2Proof.Machine

/-- Memory is in its canonical form. -/
def Dev.canonical (d : Dev) : Bool := d.mem.wf

theorem canonical_mwr {d : Dev} (k : Nat) (l : List Byte) (h : d.canonical = true) : (d.mwr k l).canonical = true := mwrite_wf k l h

theorem ite_canonical {c : Prop} [Decidable c] {a b : Dev} (ha : a.canonical = true) (hb : b.canonical = true) :
    (if c then a else b).canonical = true := ite_keeps Dev.canonical ha hb

/-- A step of a fold that keeps the canonical form. -/
theorem foldl_canonical {α : Type} (l : List α) (f : Dev → α → Dev) (hf : ∀ d x, d.canonical = true → (f d x).canonical = true)
    {d : Dev} (h : d.canonical = true) : (l.foldl f d).canonical = true := by
  induction l generalizing d with
  | nil => exact h
  | cons x t ih => exact ih (hf d x h)

theorem ordEnter_mem (d : Dev) : d.ordEnter.mem = d.mem := by
  have hone : ∀ (n : Nat) (d : Dev) (e : Nat), (d.ordEnterEng e n).mem = d.mem := by
    intro n
    induction n with
    | zero => exact fun _ _ => rfl
    | succ n ih =>
      intro d e
      unfold Dev.ordEnterEng
      repeat' split
      all_goals simp [ih]
  exact each_keeps Dev.mem _ _ (fun d e => hone 4 d e) d

theorem ordEnter_canonical {d : Dev} (h : d.canonical = true) : d.ordEnter.canonical = true := by
  rw [Dev.canonical, ordEnter_mem]
  exact h

theorem ringBit_canonical {d : Dev} (b : BellReg) (i : Nat) (h : d.canonical = true) : (d.ringBit b i).canonical = true := by
  rw [Dev.canonical, (ringBit_parts d b i).1]
  exact h

theorem farDeliver_mem (d : Dev) (f : FarOp) (v : DWord) (p : Bool) : (d.farDeliver f v p).mem = d.mem := ite_keeps Dev.mem rfl rfl

/-! ### Bank ports -/

theorem portDo_canonical {d before : Dev} {b port : Nat} {a : PortAccess} (he : a.ecc = .clean) (h : d.canonical = true) :
    (d.portDo before b port a).canonical = true := by
  have hserved : ∀ x : Dev, x.canonical = true → ∀ (f : Option FarOp) (v : DWord) (p : Bool),
      (match f, a.eng with
        | some f, some e =>
          if f.store then x.farPop e.val .bank
          else x.setEng e.val (fun y => { y with
            far := modFirst (fun (g : FarOp) => g == f) (fun (g : FarOp) => { g with arrived := some (v, p) }) y.far })
        | _, _ => x).canonical = true := by
    intro x hx f v p
    split
    · exact ite_canonical hx hx
    · exact hx
  unfold Dev.portDo
  refine ite_canonical h ?_
  dsimp only
  rw [he]
  have hend : ∀ (c : Bool) (x : Dev), x.canonical = true →
      (if c then x else x.readEcc (keyBank b + a.addr.val) port .clean).canonical = true := fun c x hx => by
    rw [readEcc_clean]
    exact ite_canonical hx hx
  refine hend _ _ (hserved _ ?_ _ _ _)
  refine ite_canonical h ?_
  split
  · exact h
  · split
    · exact canonical_mwr _ _ h
    · exact canonical_mwr _ _ h

theorem bankSlot_canonical {d : Dev} {b : Nat} {pa pb : Option PortAccess} (ha : ∀ a, pa = some a → a.ecc = .clean)
    (hb : ∀ a, pb = some a → a.ecc = .clean) (h : d.canonical = true) : (d.bankSlot b pa pb).canonical = true := by
  have hcount : ∀ (c : Bool) (x : Dev), x.canonical = true →
      (if c then (x.satf (MEM_BANK_CNT b) 31 16 1).ringBit .mem 3 else x).canonical = true :=
    fun c x hx => ite_canonical (ringBit_canonical _ _ hx) hx
  unfold Dev.bankSlot
  apply ordEnter_canonical
  cases pa with
  | none =>
    cases pb with
    | none => exact hcount _ _ h
    | some y => exact hcount _ _ (portDo_canonical (hb y rfl) h)
  | some x =>
    cases pb with
    | none => exact hcount _ _ (portDo_canonical (ha x rfl) h)
    | some y =>
      exact hcount _ _ (ite_canonical (portDo_canonical (hb y rfl) (portDo_canonical (ha x rfl) h))
        (portDo_canonical (ha x rfl) (portDo_canonical (hb y rfl) h)))

/-! ### The ordering buffer -/

theorem ordApply_canonical {d : Dev} (b : Nat) (x : OrdEntry) (h : d.canonical = true) : (d.ordApply b x .clean).canonical = true := by
  have hring : ∀ c : Bool, (if c then (d.satf MEM_ORD_STAT 15 0 1).ringBit .mem 4 else d).canonical = true :=
    fun c => ite_canonical (ringBit_canonical _ _ h) h
  unfold Dev.ordApply
  dsimp only
  rw [readEcc_clean]
  split
  · rw [Dev.canonical, farDeliver_mem]
    exact ite_canonical (ite_canonical (hring _) (hring _)) (canonical_mwr _ _ (ite_canonical (hring _) (hring _)))
  · exact ite_canonical (ite_canonical (hring _) (hring _)) (canonical_mwr _ _ (ite_canonical (hring _) (hring _)))

theorem ordHoldEnd_canonical {d : Dev} (b : Nat) (h : d.canonical = true) : (d.ordHoldEnd b .clean).canonical = true := by
  unfold Dev.ordHoldEnd
  split
  · exact h
  · refine ite_canonical h (ordEnter_canonical ?_)
    split
    · exact foldl_canonical _ _ (fun d z hd => ordApply_canonical b z hd) (ordApply_canonical b _ h)
    · exact h

/-! ### Far stores -/

theorem extEcc_clean (d : Dev) (key reader : Nat) : (d.extEcc key reader .clean .clean).1 = d := by
  unfold Dev.extEcc
  split
  · rfl
  · exact readEcc_clean ..

theorem farEcc_clean (d : Dev) (e : Nat) (f : FarOp) : (d.farEcc e f .clean .clean).1 = d := by
  unfold Dev.farEcc
  split
  · rfl
  · exact extEcc_clean ..
  · simp

theorem farStore_canonical {d : Dev} (f : FarOp) (h : d.canonical = true) : (d.farStore f).canonical = true :=
  ite_canonical h (canonical_mwr _ _ h)

theorem farPerform_canonical {d : Dev} (e : Nat) {r : Region} (hr : r ≠ .dev) (h : d.canonical = true) :
    (d.farPerform e r .clean .clean).canonical = true := by
  unfold Dev.farPerform
  split
  · exact h
  next f _ =>
    refine ite_canonical h (ordEnter_canonical ?_)
    rw [if_neg hr]
    have hecc := farEcc_clean (d.farPop e r) e f
    generalize (d.farPop e r).farEcc e f .clean .clean = y at hecc
    obtain ⟨x, poison⟩ := y
    cases hecc
    exact ite_canonical h (farStore_canonical f h)

/-! ### The host's window -/

theorem accErr_canonical {d : Dev} (who : Initiator) (w : Bool) (r a : Nat) (h : d.canonical = true) :
    (d.accErr who w r a).canonical = true := by
  rw [Dev.canonical, mem_of_still (accErr_still d who w r a)]
  exact h

theorem mwrBe_canonical {d : Dev} (key : Nat) (be : BitVec 4) (v : Word) (h : d.canonical = true) :
    (d.mwrBe key be v).canonical = true :=
  foldl_canonical _ _ (fun _ _ hd => ite_canonical (canonical_mwr _ _ hd) hd) h

theorem hostPut_canonical {d : Dev} (key : Nat) (be : BitVec 4) (v : Word) (h : d.canonical = true) :
    (d.hostPut key be v .clean .clean).canonical = true := by
  have hecc : (d.hostEcc key .clean .clean).1 = d := by
    unfold Dev.hostEcc
    split
    · rfl
    · split
      · exact extEcc_clean ..
      · exact readEcc_clean ..
  unfold Dev.hostPut
  generalize d.hostEcc key .clean .clean = y at hecc
  obtain ⟨x, poison⟩ := y
  cases hecc
  exact ite_canonical h (mwrBe_canonical _ _ _ h)

theorem bar2Write_canonical {d : Dev} (who : Initiator) (a : Nat) (be : BitVec 4) (v : Word) (h : d.canonical = true) :
    (d.bar2Write who a be v .clean .clean).canonical = true := by
  unfold Dev.bar2Write
  refine ite_canonical h (ite_canonical (accErr_canonical _ _ _ _ h) ?_)
  refine ite_canonical (ite_canonical (accErr_canonical _ _ _ _ h) (hostPut_canonical _ _ _ h)) ?_
  exact ite_canonical (hostPut_canonical _ _ _ h) (accErr_canonical _ _ _ _ h)

/-- A command that changes the device alone leaves a memory in its canonical form where its meaning does. -/
theorem memWf_of_lift {c : Instr} {s t : State} {f : Dev → Dev} (hx : exec c s = lift f s) (hf : (f s.dev).canonical = true)
    (ht : exec c s = .next t) : t.memWf = true := by
  have heq : ({ s with dev := f s.dev } : State) = t := Host.Outcome.next.inj (hx.symm.trans ht)
  rw [← heq]
  exact hf

/-- Settles O59: bank accesses, the host's window, ordered atomics and far stores write ranges of bytes and nothing else. -/
theorem memoryKeepsForm : Obligations.MemoryKeepsForm := by
  intro s t hs
  refine ⟨fun b pa pb ha hb ht => ?bank, fun i a be v ht => ?host, fun b ht => ?ordered, fun e r hr ht => ?far⟩
  case bank =>
    by_cases hok : (pa.all PortAccess.wf && pb.all PortAccess.wf) = true
    · exact memWf_of_lift (exec_bankAccess.trans (liftIf_of_ok _ _ hok)) (bankSlot_canonical ha hb hs) ht
    · have hfault : exec (.bankAccess b pa pb) s = .fault .illFormed := by
        rw [exec_bankAccess]
        exact if_neg hok
      rw [hfault] at ht
      cases ht
  case host => exact memWf_of_lift exec_hostLocalMemWrite (bar2Write_canonical _ _ _ _ hs) ht
  case ordered => exact memWf_of_lift exec_ordHoldEnd (ordHoldEnd_canonical _ hs) ht
  case far => exact memWf_of_lift exec_farStorePerform (farPerform_canonical _ hr hs) ht

end Sys2Proof.Machine
end

section
/-!
SUPPORT. The sources of a reset, each as one fact about the operation that carries it out (R9, R35, R37, R514, R516, R518,
R519, R537).
-/
namespace Sys2Proof.Machine

/-- A recorded reset source reads 1 in PWR_RESET_CAUSE. -/
theorem resetCause_b (d : Dev) {i : Nat} (h : i < 32) : (d.resetCause i).b PWR_RESET_CAUSE i = true := by
  unfold Dev.resetCause Dev.b
  dsimp only
  rw [logEvent_resetCause, Dev.r_wb_self, bitOf_setBit_self _ _ _ h]

/-- What recording a reset source leaves of the always-on domain: all but the log's position. -/
theorem resetCause_pwr (d : Dev) (i : Nat) : (d.resetCause i).pwr =
    { d.pwr with logCount := d.pwr.logCount + 1, logSeq := wrapAdd 16 d.pwr.logSeq 1 } := logEvent_pwr ..

theorem resetCause_parts (d : Dev) (i : Nat) : (d.resetCause i).mem = d.mem ∧ (d.resetCause i).sec = d.sec ∧
    (d.resetCause i).tb = d.tb := by
  unfold Dev.resetCause
  simp

/-- A POR with its rail or its pin marked. -/
theorem porReset_leaves (d : Dev) : d.porReset.pwr.mode = .boot ∧ d.porReset.pwr.mainUp = false ∧ d.porReset.mem = [] ∧
    (∀ a, d.porReset.r a = if d.pwr.warmLow = true ∧ a = PWR_RESET_CAUSE then 3#32 else regReset a) ∧
    d.porReset.sec.otp = d.sec.otp := by
  obtain ⟨hmode, hup, -, -, -, hmem, hotp⟩ := porReset_parts d
  exact ⟨hmode, hup, hmem, porReset_r d, hotp⟩

/-- The release of a POR powers the main domain; whether that comes up is PG_MAIN's. -/
theorem porReleased_parts (d : Dev) (hp : d.pwr.porLow = false) (hs : d.pwr.supplyLow = false) :
    d.porReleased.pwr.porLow = false ∧ d.porReleased.pwr.supplyLow = false ∧ d.porReleased.pwr.straps = d.pwr.straps ∧
    d.porReleased.pwr.pwrEn = true ∧ d.porReleased.pwr.release = .por ∧ d.porReleased.mem = d.mem ∧
    d.porReleased.sec = d.sec := by
  unfold Dev.porReleased
  rw [if_neg (by simp [hp, hs])]
  obtain ⟨h1, h2, h3, h4, -, -, h7, h8, h9, -⟩ := mainRelease_parts
    (((d.logEvent 0x02 0 (d.r PWR_RESET_CAUSE).toNat).setPwr
      (fun p => { p with pwrEn := true, porAt := (d.logEvent 0x02 0 (d.r PWR_RESET_CAUSE).toNat).tb.now })).emit (.pwrEn true))
    (some .por)
  refine ⟨h1.trans ?_, h2.trans ?_, h3.trans ?_, h4.trans rfl, h7, h8.trans ?_, h9.trans ?_⟩
  · simp [logEvent_pwr, hp]
  · simp [logEvent_pwr, hs]
  · simp [logEvent_pwr]
  · simp
  · simp

/-- A WARM pulse ends in Boot with the main domain up where nothing else holds that in reset, and names its source. -/
theorem warmPulse_parts (d : Dev) {i : Nat} (hi : i < 32) (h : d.resetFree) (hg : d.pwr.pgMain = true)
    (hw : d.pwr.warmLow = false) : (d.warmPulse i).pwr.mode = .boot ∧ (d.warmPulse i).pwr.mainUp = true ∧
    (d.warmPulse i).b PWR_RESET_CAUSE i = true ∧ (d.warmPulse i).sec.otp = d.sec.otp ∧ (d.warmPulse i).tb.st = 0 ∧
    (d.warmPulse i).mem = d.mainReset.mem := by
  have hp := resetCause_pwr d.mainReset i
  rw [mainReset_pwr] at hp
  obtain ⟨hmem, hsec, -⟩ := resetCause_parts d.mainReset i
  obtain ⟨h1, h2, h3, h4, h5⟩ := mainRelease_up (d.mainReset.resetCause i) none
    (by simpa only [Dev.resetFree, hp] using h) (by simpa only [hp] using hg) (by simpa only [hp] using hw) (by rw [hp])
  obtain ⟨-, -, -, -, -, -, -, -, -, hcause⟩ := mainRelease_parts (d.mainReset.resetCause i) none
  unfold Dev.warmPulse
  refine ⟨h1, h2, ?_, ?_, h3, h4.trans hmem⟩
  · rw [Dev.b, hcause]
    exact resetCause_b _ hi
  · rw [h5, hsec, mainReset_otp]

/-- A WARM pulse, whether or not something holds the main domain in reset after it. -/
theorem warmPulse_leaves (d : Dev) {i : Nat} (hi : i < 32) : (d.warmPulse i).pwr.mode = .boot ∧
    (d.warmPulse i).pwr.pfw = d.pwr.pfw ∧ (d.warmPulse i).b PWR_RESET_CAUSE i = true ∧
    (d.warmPulse i).sec.otp = d.sec.otp := by
  obtain ⟨-, -, -, -, -, -, -, -, hsec, hcause⟩ := mainRelease_parts (d.mainReset.resetCause i) none
  have hpwr : ((d.mainReset.resetCause i).mainRelease none).pwr.mode = .boot ∧
      ((d.mainReset.resetCause i).mainRelease none).pwr.pfw = d.pwr.pfw := by
    unfold Dev.mainRelease
    dsimp only
    split
    · exact ⟨by simp [resetCause_pwr, mainReset_pwr], by simp [resetCause_pwr, mainReset_pwr]⟩
    · exact ⟨by simp [logEvent_pwr], by simp [logEvent_pwr, resetCause_pwr, mainReset_pwr]⟩
  obtain ⟨-, hsec', -⟩ := resetCause_parts d.mainReset i
  unfold Dev.warmPulse
  refine ⟨hpwr.1, hpwr.2, ?_, ?_⟩
  · rw [Dev.b, hcause]
    exact resetCause_b _ hi
  · rw [hsec, hsec', mainReset_otp]

theorem aonUp_of_warmMay {d : Dev} (h : d.warmMay = true) : d.aonUp = true := by
  simp only [Dev.warmMay, Bool.and_eq_true] at h
  simp [Dev.aonUp, h.1.2, h.2]

/-- WARM_N taken low where the reset may act. -/
theorem warmPin_acts (d : Dev) (hm : d.warmMay = true) (hl : d.pwr.warmLow = false) :
    d.warmPin = (d.mainReset.setPwr (fun p => { p with warmLow := true })).resetCause 1 := by
  have hup : (d.mainReset.setPwr (fun p => { p with warmLow := true })).aonUp = true := by
    rw [← aonUp_of_warmMay hm]
    simp only [Dev.aonUp, Dev.setPwr_frame, mainReset_pwr]
  unfold Dev.warmPin
  simp only [hl, hm, if_true, hup, Bool.false_eq_true, if_false]

/-- WARM_N taken low where it is recorded and nothing more. -/
theorem warmPin_records (d : Dev) (hm : d.warmMay = false) (hl : d.pwr.warmLow = false) :
    d.warmPin = if d.aonUp then (d.setPwr (fun p => { p with warmLow := true })).resetCause 1
      else (d.setPwr (fun p => { p with warmLow := true })).wb PWR_RESET_CAUSE 1 true := by
  unfold Dev.warmPin
  simp only [hl, hm, Bool.false_eq_true, if_false]
  rfl

/-- Settles O1: each source of a reset, from what a reset of the main domain, a POR and a release leave. -/
theorem resetSourcesComplete : Obligations.ResetSourcesComplete := by
  unfold Obligations.ResetSourcesComplete
  refine ⟨?por, ?supply, ?supplyShort, ?release, ?recover, ?recoverLow, ?pin, ?pinRecorded, ?pinShort, ?cmd, ?warmN, ?pll,
    ?fall, ?rise⟩
  case por =>
    intro s
    obtain ⟨hmode, hup, hmem, hr, hotp⟩ := porReset_leaves (s.dev.setPwr (fun p => { p with porLow := true }))
    exact completes_lift exec_porAssert ⟨hmode, hup, (porReset_parts _).2.2.1, hmem, hr, hotp⟩
  case supply =>
    intro s core io ns hv hn
    refine completes_lift exec_aonSupplyLow ?_
    have hlow : aonLow core io ns = true := by simp [aonLow, hv, hn]
    obtain ⟨hmode, hup, hmem, hr, hotp⟩ := porReset_leaves (s.dev.setPwr (fun p => { p with supplyLow := true }))
    simp only [hlow, Bool.not_true, Bool.false_eq_true, if_false]
    exact ⟨hmode, hup, (porReset_parts _).2.2.2.1, hmem, hr, hotp⟩
  case supplyShort =>
    intro s core io ns h
    refine completes_lift exec_aonSupplyLow (if_pos ?_)
    simp only [aonLow, Bool.not_eq_true', Bool.and_eq_false_iff, Bool.or_eq_false_iff, decide_eq_false_iff_not]
    omega
  case release =>
    intro s straps pg hp hs
    refine completes_lift exec_porRelease ?_
    simp only [hp, if_true]
    obtain ⟨h1, -, h3, h4, h5, h6, h7⟩ := porReleased_parts
      (s.dev.setPwr (fun p => { p with porLow := false, straps := straps, pgMain := pg })) rfl hs
    exact ⟨h1, h3, h4, h5, h6, h7⟩
  case recover =>
    intro s core io hs hp hc hi
    refine completes_lift exec_aonSupplyRecover ?_
    have hgood : aonGood core io = true := by simp [aonGood, hc, hi]
    simp only [hs, hgood, Bool.and_self, if_true]
    obtain ⟨-, h2, -, h4, h5, h6, h7⟩ := porReleased_parts (s.dev.setPwr (fun p => { p with supplyLow := false })) hp rfl
    exact ⟨h2, h4, h5, h6, h7⟩
  case recoverLow =>
    intro s core io h
    refine completes_lift exec_aonSupplyRecover (if_neg ?_)
    simp only [aonGood, Bool.and_eq_true, decide_eq_true_eq]
    omega
  case pin =>
    intro s seen hm hl hn
    refine completes_lift exec_warmPin ?_
    obtain ⟨hmem, hsec, -⟩ := resetCause_parts (s.dev.mainReset.setPwr (fun p => { p with warmLow := true })) 1
    simp only [show ¬ seen < 10 by omega, if_false, warmPin_acts _ hm hl]
    refine ⟨?_, ?_, ?_, resetCause_b _ (by decide), ?_, fun k hk => ?_⟩
    · simp [resetCause_pwr, mainReset_pwr]
    · simp [resetCause_pwr, mainReset_pwr]
    · simp [resetCause_pwr]
    · simp only [hsec, Dev.setPwr_frame, mainReset_otp]
    · simp only [hmem, Dev.setPwr_frame, mainReset_keeps _ _ hk]
  case pinRecorded =>
    intro s seen hm hl hn
    refine completes_lift exec_warmPin ?_
    simp only [show ¬ seen < 10 by omega, if_false, warmPin_records _ hm hl]
    split
    · refine ⟨?_, resetCause_b _ (by decide), (resetCause_parts _ _).1⟩
      simp [resetCause_pwr]
    · exact ⟨rfl, by unfold Dev.b; rw [Dev.r_wb_self, bitOf_setBit_self _ _ _ (by decide)], rfl⟩
  case pinShort =>
    intro s seen hn
    exact completes_lift exec_warmPin (if_pos hn)
  case cmd =>
    intro s who v hr hm hk hb hfree hg hw
    refine completes_lift exec_warmResetCmd ?_
    have hcmd : s.dev.resetCmd who v = s.dev.warmPulse 2 := by simp [Dev.resetCmd, hk, hb, hm]
    simp only [access_of_reaches hr, hcmd]
    obtain ⟨h1, h2, h3, h4, h5, h6⟩ := warmPulse_parts s.dev (i := 2) (by decide) hfree hg hw
    exact ⟨h1, h2, h3, h4, h5, fun k hk => by rw [h6, mainReset_keeps _ _ hk]⟩
  case warmN =>
    intro s hup hfree hg hw
    refine completes_lift exec_warmNRelease ?_
    simp only [hw, if_true]
    obtain ⟨h1, h2, h3, h4, h5⟩ := mainRelease_up (s.dev.setPwr (fun p => { p with warmLow := false })) none hfree hg rfl hup
    exact ⟨h1, h2, (mainRelease_parts _ _).2.2.2.2.1, h3, h4, h5⟩
  case pll =>
    intro s hup hmode haon hg
    refine completes_lift exec_pllLockLoss ?_
    have hpll : s.dev.pllLoss = s.dev.mainReset.setPwr (fun p => { p with pllLost := true }) := by
      simp [Dev.pllLoss, Dev.mode, hmode, haon, hg, hup]
    rw [hpll]
    refine ⟨?_, ?_, ?_, ?_⟩
    · simp only [Dev.setPwr_frame, mainReset_pwr]
    · simp only [Dev.setPwr_frame, mainReset_pwr]
    · simp only [Dev.setPwr_frame]
    · simp only [Dev.setPwr_frame, mainReset_otp]
  case fall =>
    intro s hup hmode htrans
    refine completes_lift exec_pgMainFall ?_
    unfold Dev.pgFall
    simp only [Dev.setPwr_frame, Dev.mode, hup, hmode, htrans, decide_false, Bool.not_true, Bool.or_self, Bool.false_eq_true,
      if_false]
    refine ⟨?_, ?_, ?_, ?_, ?_⟩
    · simp [logEvent_pwr, mainReset_pwr]
    · simp [logEvent_pwr, mainReset_pwr]
    · simp [logEvent_pwr, mainReset_pwr]
    · unfold Dev.b
      rw [logEvent_resetCause, Dev.r_wb_self, bitOf_setBit_self _ _ _ (by decide)]
    · simp [mainReset_otp]
  case rise =>
    intro s hup hfree hw hmode hheld
    refine completes_lift exec_pgMainRise ?_
    have hrise : s.dev.pgRise = (s.dev.setPwr (fun p => { p with pgMain := true })).mainRelease none := by
      simp [Dev.pgRise, Dev.mode, hmode, hheld]
    rw [hrise]
    obtain ⟨h1, h2, h3, h4, h5⟩ := mainRelease_up (s.dev.setPwr (fun p => { p with pgMain := true })) none hfree rfl hw hup
    exact ⟨h1, h2, (mainRelease_parts _ _).2.2.2.2.2.1, h3, h4, h5⟩

end Sys2Proof.Machine
end

section
/-!
SUPPORT. Mode changes: what a completed request and the boot ROM leave of the always-on domain and of the security unit
(R30, R38, R497-R500, R538).
-/
namespace Sys2Proof.Machine

/-- A completed request: its status, and the log's position. -/
theorem reqDone_pwr (d : Dev) (n : Nat) : (d.reqDone n).pwr =
    { d.pwr with reqStatus := n, logCount := d.pwr.logCount + 1, logSeq := wrapAdd 16 d.pwr.logSeq 1 } := logEvent_pwr ..

theorem reqDone_mode (d : Dev) (n : Nat) : (d.reqDone n).pwr.mode = d.pwr.mode := by rw [reqDone_pwr]

theorem reqDone_mem (d : Dev) (n : Nat) : (d.reqDone n).mem = d.mem := by
  unfold Dev.reqDone
  rw [(logEvent_parts ..).1]
  rfl

/-! ### The security unit at an entry from Boot -/

theorem sec_of_calm {d e : Dev} (h : d.calm = e.calm) : d.sec = e.sec := by
  simp only [Dev.calm, Prod.mk.injEq] at h
  exact h.2.2.2.2.2.2.2.2.2.2.2.2.1

theorem trdModeStop_sec (d : Dev) (n : Nat) : (d.trdModeStop n).sec = d.sec := ite_keeps Dev.sec (ite_keeps Dev.sec rfl rfl) rfl

theorem engMode_sec (d : Dev) (e : Nat) : (d.engMode e).sec = d.sec := ite_keeps Dev.sec rfl rfl

theorem roleView_sec (d : Dev) : d.roleView.sec = d.sec :=
  ite_keeps Dev.sec (ite_keeps Dev.sec rfl rfl) (ite_keeps Dev.sec rfl rfl)

theorem modeBuses_sec (d : Dev) (m : Mode) : (d.modeBuses m).sec = d.sec := by
  unfold Dev.modeBuses
  rw [each_keeps Dev.sec _ _ (fun d n => sec_of_calm ((canOffer_calm _ n).trans (canCut_calm d n)))]
  exact ite_keeps Dev.sec (sec_of_calm (mdbSafe_calm d)) rfl

theorem modeLeave_sec (d : Dev) (m : Mode) (h : d.mode = .boot) : (d.modeLeave m).sec = d.sec := by
  have hpins : ∀ x : Dev, (if m = .hold then x.pinsFreeze else x.pinsKeepSafe).sec = x.sec :=
    fun x => ite_keeps Dev.sec rfl rfl
  unfold Dev.modeLeave Dev.scanMode
  simp [h, hpins]

/-- An entry to a mode from Boot leaves the security unit alone. -/
theorem enterMode_sec (d : Dev) (m : Mode) (h : d.mode = .boot) : (d.enterMode m).sec = d.sec := by
  have hcmds : ∀ x : Dev, (x.modeCmds d.mode m) = x := fun x => by simp [Dev.modeCmds, h]
  have htap : ∀ x : Dev, (x.modeTap m).sec = x.sec := fun x => ite_keeps Dev.sec rfl rfl
  have heng : ∀ x : Dev, (x.modeEngines d.mode).sec = x.sec := fun x =>
    ite_keeps Dev.sec (each_keeps Dev.sec _ _ engMode_sec x) rfl
  have hframes : ∀ x : Dev, (x.modeFrames m).sec = x.sec := fun x => ite_keeps Dev.sec rfl rfl
  have hpair : ∀ x : Dev, (x.modePair m).sec = x.sec := fun x => ite_keeps Dev.sec rfl rfl
  have htrd : ∀ x : Dev, (x.modeTreadles m).sec = x.sec := fun x =>
    ite_keeps Dev.sec (each_keeps Dev.sec _ _ trdModeStop_sec x) rfl
  unfold Dev.enterMode
  simp only [roleView_sec, pinsSeen_parts, hcmds, hpair, modeBuses_sec, htap, heng, hframes]
  show (Dev.modeTreadles _ m).sec = d.sec
  rw [htrd, Dev.modeSet]
  simp only [logEvent_parts, Dev.setPwr_frame, modeLeave_sec d m h]

/-! ### The boot ROM -/

/-- What no step of the boot ROM before its mode entry touches. -/
def Dev.bootBase (d : Dev) := (d.pwr, d.sec.otp)

theorem xmcBoot_bootBase (d : Dev) (ok : Bool) : (d.xmcBoot ok).bootBase = d.bootBase := rfl

theorem bootRetained_bootBase (d : Dev) : d.bootRetained.bootBase = d.bootBase := by
  unfold Dev.bootRetained
  dsimp only
  repeat' split
  all_goals rfl

theorem w_bootBase (d : Dev) (a : Nat) (v : Word) : (d.w a v).bootBase = d.bootBase := rfl

theorem mwr_bootBase (d : Dev) (k : Nat) (l : List Byte) : (d.mwr k l).bootBase = d.bootBase := rfl

theorem extend_bootBase (d : Dev) (j : Nat) (l : List Byte) : (d.extend j l).bootBase = d.bootBase := rfl

theorem setSec_bootBase (d : Dev) (f : Security → Security) (h : ∀ s, (f s).otp = s.otp) : (d.setSec f).bootBase = d.bootBase :=
  Prod.ext rfl (h _)

theorem packOfs_bootBase (d : Dev) (t : Tab Nat) :
    ({ d with cut := { d.cut with packOfs := t } } : Dev).bootBase = d.bootBase := rfl

theorem setSecIf_bootBase (d : Dev) (p : Prop) [Decidable p] (f : Security → Security) (h : ∀ s, (f s).otp = s.otp) :
    (if p then d.setSec f else d).bootBase = d.bootBase := ite_keeps Dev.bootBase (setSec_bootBase d f h) rfl

theorem imgPlace_bootBase (d : Dev) (img : List Byte) : (d.imgPlace img).bootBase = d.bootBase := by
  unfold Dev.imgPlace
  refine (extend_bootBase _ _ _).trans ((setSecIf_bootBase _ _ _ (by intro _; rfl)).trans ?_)
  refine ite_keeps Dev.bootBase ?_ (ite_keeps Dev.bootBase (mwr_bootBase ..) (mwr_bootBase ..))
  split
  · exact (mwr_bootBase ..).trans ((w_bootBase ..).trans ((packOfs_bootBase ..).trans (w_bootBase ..)))
  · rfl

/-- The mode that the boot ROM enters, from the life cycle and from whether an image was refused. -/
def bootTarget (lc : Nat) (bad : Bool) : Mode :=
  if lc = 0 then .provision else if lc = 3 then .safe
  else if bad then (if lc = 2 then .safe else .provision) else .stop

/-- The boot ROM's work ends with an entry from Boot, debug unlocked in the raw life cycle alone. -/
theorem bootRom_enters {d : Dev} (b : BootFlash) (ok : Bool) (hm : d.mode = .boot) (hu : d.pwr.mainUp = true) :
    ∃ (x : Dev) (bad : Bool), d.bootRom b ok = (x.enterMode (bootTarget d.lifecycle bad)).modeBell ∧ x.bootBase = d.bootBase ∧
      x.sec.dbgUnlocked = decide (d.lifecycle = 0) := by
  have failed : ∀ (x : Dev) (bad : Option (Nat × Nat)), (match bad with
      | some (i, c) => x.setSec (fun s => { s with bootFail := c, failImg := i })
      | none => x).bootBase = x.bootBase := by
    intro x bad
    cases bad <;> rfl
  unfold Dev.bootRom
  rw [if_neg (by simp [hm, hu])]
  refine ⟨_, _, rfl, ?_, rfl⟩
  refine (setSec_bootBase _ _ (by intro _; rfl)).trans ((failed _ _).trans ((extend_bootBase _ _ _).trans ?_))
  refine (foldl_keeps Dev.bootBase _ _ imgPlace_bootBase _).trans ((extend_bootBase _ _ _).trans ?_)
  exact (setSec_bootBase _ _ (by intro _; rfl)).trans ((bootRetained_bootBase _).trans (xmcBoot_bootBase _ _))

/-- Settles O7: a request that its table grants, the drained stop, and the boot ROM in each life cycle. -/
theorem modeChangesComplete : Obligations.ModeChangesComplete := by
  unfold Obligations.ModeChangesComplete
  refine ⟨?request, ?drained, ?boot⟩
  case request =>
    intro s who v withHost hr hidle hhost hkey hcond h0 hstop
    refine completes_lift exec_modeRequest ?_
    have hreq : s.dev.modeReq who v withHost = (s.dev.reqDone 0).enterMode (modeOf (fld v 2 0)) := by
      unfold Dev.modeReq
      rw [if_neg (by simpa [hidle] using hhost)]
      simp [hcond, h0, hstop, hkey]
    simp only [access_of_reaches hr, hreq]
    exact ⟨trivial, fun h => enterMode_mode _ _ (Or.inl (by rw [reqDone_mode]; exact h))⟩
  case drained =>
    intro s htrans hbusy hmode
    refine completes_lift exec_runStopDrained ?_
    have hdone : s.dev.stopDrained = ((s.dev.setPwr (fun p => { p with trans := .idle })).reqDone 0).enterMode .stop := by
      simp [Dev.stopDrained, htrans, hmode, hbusy]
    rw [hdone]
    refine ⟨enterMode_mode _ _ (Or.inl ?_), rfl⟩
    rw [reqDone_mode]
    exact fun h => Mode.noConfusion (hmode.symm.trans h)
  case boot =>
    intro s b ddrOk hmode hup
    refine completes_lift exec_bootRomComplete ?_
    obtain ⟨x, bad, hx, hbase, hdbg⟩ := bootRom_enters b ddrOk hmode hup
    have hpwr : x.pwr = s.dev.pwr := congrArg Prod.fst hbase
    have hxm : x.mode = .boot := by rw [Dev.mode, hpwr]; exact hmode
    have hsec : (s.dev.bootRom b ddrOk).sec = x.sec := by rw [hx]; exact enterMode_sec x _ hxm
    have hm : (s.dev.bootRom b ddrOk).mode = bootTarget s.dev.lifecycle bad := by
      rw [hx]
      exact enterMode_mode x _ (Or.inl (fun h => Mode.noConfusion (hxm.symm.trans h)))
    simp only [hsec, hm, hdbg]
    refine ⟨congrArg Prod.snd hbase, fun h => ?_, fun h => ?_, fun h => ?_, fun h => ?_⟩
    · simp [bootTarget, h]
    · simp [bootTarget, h]
    · cases bad <;> simp [bootTarget, h]
    · cases bad <;> simp [bootTarget, h]

end Sys2Proof.Machine
end

section
/-!
SUPPORT. The four command ports: the meaning of a write of CUT_CMD that a ready port takes, and what the completion of a
command shows and leaves (R217-R219).
-/
namespace Sys2Proof.Machine

/-! ### A port takes a command -/

/-- A register other than a port's status word reads as before the port took its command. -/
theorem r_taken (d : Dev) {k a : Nat} (h : a ≠ CUT_CMD_STAT k) : (d.taken k).r a = d.r a := Dev.r_wb_ne d _ _ h

theorem arg_taken (d : Dev) (k : Fin 4) (j : Nat) (hj : j < 4) : (d.taken k).arg k j = d.arg k j :=
  r_taken d (by simp only [CUT_ARG, CUT_CMD_STAT]; omega)

theorem checkHandle_taken (d : Dev) (k : Nat) (h : Word) : (d.taken k).checkHandle 1 h = d.checkHandle 1 h := rfl

/-- A ready port runs the command that is written to it. -/
theorem cmdWrite_ready {d : Dev} {k code any : Nat} (who : Initiator) (h : d.portReady k any) (hc : code < 256) :
    d.cmdWrite k who code = (d.taken k).runCmd k code := by
  obtain ⟨hr, hbusy, hhold, -⟩ := h
  have hcode : fld (w32 code) 7 0 = code := by
    simp only [fld, w32, BitVec.toNat_ofNat, Nat.shiftRight_zero]
    omega
  have hmode : ¬ (d.taken k).mode = .hold := hhold
  rw [Dev.cmdWrite, access_of_reaches hr, Dev.cutCmd, if_neg (by simp [hbusy])]
  dsimp only
  rw [hcode]
  exact if_neg hmode

/-- A command that names a channel by a good handle runs on that channel. -/
theorem onChannel_ok {d : Dev} {k : Fin 4} (f : Dev → Nat → Dev) (h : d.checkHandle 1 (d.arg k 0) = .ok) :
    (d.taken k).onChannel k f = f (d.taken k) (hIdx (d.arg k 0)) := by
  unfold Dev.onChannel
  rw [arg_taken d k 0 (by decide), checkHandle_taken, h]

/-- In Safe a ready port takes STOP, DESTROY and QUERY alone. -/
theorem safe_taken {d : Dev} {k code : Nat} (h : d.portReady k code) :
    ((decide ((d.taken k).mode = .safe)) && !(decide (code = 3) || decide (code = 4) || decide (code = 5))) = false := by
  obtain ⟨-, -, -, hs⟩ := h
  by_cases hm : d.mode = .safe
  · rcases hs hm with rfl | rfl | rfl <;> simp
  · simp [show ¬ (d.taken k).mode = .safe from hm]

/-! ### The end of a command -/

theorem cmdDone_roster (d : Dev) (k st : Nat) (r0 r1 : Option Nat) : (d.cmdDone k st r0 r1).roster = d.roster := by
  unfold Dev.cmdDone
  dsimp only
  rw [ringBit_roster]
  cases r0 <;> cases r1 <;> rfl

theorem cmdDone_still (d : Dev) (k st : Nat) (r0 r1 : Option Nat) : (d.cmdDone k st r0 r1).still = d.still := by
  unfold Dev.cmdDone
  dsimp only
  rw [ringBit_still]
  cases r0 <;> cases r1 <;> rfl

theorem cmdDone_mem (d : Dev) (k st : Nat) (r0 r1 : Option Nat) : (d.cmdDone k st r0 r1).mem = d.mem :=
  mem_of_still (cmdDone_still ..)

theorem chan_unposted_cmdDone (d : Dev) (k st : Nat) (r0 r1 : Option Nat) (c : Nat) :
    ((d.cmdDone k st r0 r1).chan c).unposted = (d.chan c).unposted := chan_of_roster (cmdDone_roster ..) c

theorem chan_st_cmdDone (d : Dev) (k st : Nat) (r0 r1 : Option Nat) (c : Nat) :
    ((d.cmdDone k st r0 r1).chan c).st = (d.chan c).st := chan_st_of_roster (cmdDone_roster ..) c

/-- The first result of a completion. -/
theorem cmdDone_res0 (d : Dev) (k : Fin 4) (st : Nat) (v : Word) (r1 : Option Nat) :
    (d.cmdDone k st (some v.toNat) r1).r (CUT_RES k 0) = v := by
  have hlow : CUT_RES k 0 < 0x500000 := by simp only [CUT_RES]; omega
  have hbell : CUT_RES k 0 ≠ BellReg.cut.addr := by simp only [CUT_RES, BellReg.addr, CUT_BELL]; omega
  have hstat : CUT_RES k 0 ≠ CUT_CMD_STAT k := by simp only [CUT_RES, CUT_CMD_STAT]; omega
  have hres : CUT_RES k 0 ≠ CUT_RES k 1 := by simp only [CUT_RES]; omega
  unfold Dev.cmdDone
  rw [ringBit_r _ _ _ _ hlow, if_neg hbell, Dev.r_w_ne _ _ hstat]
  cases r1 with
  | none => exact (Dev.r_w_self ..).trans (w32_toNat v)
  | some x => exact (Dev.r_w_ne _ _ hres).trans ((Dev.r_w_self ..).trans (w32_toNat v))

/-- The second result of a completion. -/
theorem cmdDone_res1 (d : Dev) (k : Fin 4) (st : Nat) (r0 : Option Nat) (v : Word) :
    (d.cmdDone k st r0 (some v.toNat)).r (CUT_RES k 1) = v := by
  have hlow : CUT_RES k 1 < 0x500000 := by simp only [CUT_RES]; omega
  have hbell : CUT_RES k 1 ≠ BellReg.cut.addr := by simp only [CUT_RES, BellReg.addr, CUT_BELL]; omega
  have hstat : CUT_RES k 1 ≠ CUT_CMD_STAT k := by simp only [CUT_RES, CUT_CMD_STAT]; omega
  unfold Dev.cmdDone
  rw [ringBit_r _ _ _ _ hlow, if_neg hbell, Dev.r_w_ne _ _ hstat]
  exact (Dev.r_w_self ..).trans (w32_toNat v)

theorem genOf_cmdDone (d : Dev) (k st : Nat) (r0 r1 : Option Nat) (kind i : Nat) :
    (d.cmdDone k st r0 r1).genOf kind i = d.genOf kind i := by
  have hcut := congrArg (fun x => x.2.2.2.1) (cmdDone_roster d k st r0 r1)
  simp only [Dev.roster, Cutter.mk.injEq] at hcut
  obtain ⟨h1, h2, h3, h4, h5, -⟩ := hcut
  simp only [Dev.genOf, Dev.gens, h1, h2, h3, h4, h5]

end Sys2Proof.Machine
end

section
/-!
SUPPORT. The commands on channels, each as the effect it has on the device in which its port is busy (R214-R221, R234, R237).
-/
namespace Sys2Proof.Machine

/-- A CREATE that finds a free channel, passes its checks and is placed (R214). -/
theorem createCmd_placed {d x : Dev} {k : Fin 4} {c : Nat} (hfree : d.freeChan = some c) (hdesc : (d.draft k c).descCheck c = none)
    (hx : (d.drafted k c).placeCreate c = .inr x) :
    (d.taken k).createCmd k =
      (if (((x.restoreCells c []).setGen 1 c (d.issueGen 1 c)).chan c).remote
        then (x.restoreCells c []).setGen 1 c (d.issueGen 1 c)
        else ((x.restoreCells c []).setGen 1 c (d.issueGen 1 c)).mgmtTake c).cmdDone k 0
          (some (mkHandle 1 (d.issueGen 1 c) c).toNat) := by
  have hwords : (List.range 48).map (fun i => (i, (d.taken k).r (CUT_DESC k i))) =
      (List.range 48).map (fun i => (i, d.r (CUT_DESC k i))) := by
    refine List.map_congr_left fun i hi => ?_
    rw [List.mem_range] at hi
    rw [r_taken d (by simp only [CUT_DESC, CUT_CMD_STAT]; omega)]
  have hnode : (d.taken k).f SLV_NODE_CFG 2 0 = d.f SLV_NODE_CFG 2 0 :=
    congrArg (fld · 2 0) (r_taken d (by simp only [SLV_NODE_CFG, CUT_CMD_STAT]; omega))
  have hfree' : (d.taken k).freeChan = some c := hfree
  have hgen : ∀ i, (d.taken k).issueGen 1 i = d.issueGen 1 i := fun _ => rfl
  have hdraft : (d.taken k).setChan c (fun _ => { Chan.init with
      desc := (List.range 48).map (fun i => (i, (d.taken k).r (CUT_DESC k i))), node := (d.taken k).f SLV_NODE_CFG 2 0 }) =
      d.draft k c := by rw [hwords, hnode]; rfl
  unfold Dev.createCmd
  simp only [hfree', Option.getD_some, hdraft, hdesc, Option.isNone_some, Bool.false_eq_true, if_false]
  rw [show (d.draft k c).setChan c (fun ch => { ch with settle := (d.draft k c).settleTime c, st := .created }) = d.drafted k c
    from rfl, hx]
  simp only [hgen]

theorem chan_setChan_self (d : Dev) (c : Nat) (f : Chan → Chan) : (d.setChan c f).chan c = f (d.chan c) := tget_tmod_self ..

theorem isPlaced_setAct {d : Dev} {c : Nat} (k : Nat) (f : Act → Act) (h : d.isPlaced c = true) : (d.setAct k f).isPlaced c = true := by
  unfold Dev.isPlaced Dev.setAct tmod
  rw [tfind_tset]
  split
  · rfl
  · exact h

theorem restoreCells_cut (d : Dev) (k : Nat) (l : Memory) : (d.restoreCells k l).cut = d.cut :=
  foldl_keeps Dev.cut _ _ (by intro _ _; rfl) d

theorem restoreCells_tb (d : Dev) (k : Nat) (l : Memory) : (d.restoreCells k l).tb = d.tb :=
  foldl_keeps Dev.tb _ _ (by intro _ _; rfl) d

/-- What a replay starts from: the journal, the clock, and the channel's place. -/
def Dev.replayBase (d : Dev) (c : Nat) := (d.isPlaced c, (d.chan c).journal, d.tb)

theorem restoreCells_replayBase (d : Dev) (k c : Nat) (l : Memory) : (d.restoreCells k l).replayBase c = d.replayBase c := by
  simp only [Dev.replayBase, Dev.isPlaced, Dev.chan, restoreCells_cut, restoreCells_tb]

theorem setChan_replayBase (d : Dev) (c : Nat) (f : Chan → Chan) (h : (f (d.chan c)).journal = (d.chan c).journal) :
    (d.setChan c f).replayBase c = d.replayBase c := by
  simp only [Dev.replayBase, chan_setChan_self, h, Dev.setChan_frame]
  rfl

theorem setAct_replayBase {d : Dev} {c : Nat} (f : Act → Act) (h : d.isPlaced c = true) :
    (d.setAct c f).replayBase c = d.replayBase c := by
  rw [Dev.replayBase, isPlaced_setAct c f h, Dev.replayBase, h]
  rfl

theorem isPlaced_of_replayBase {d x : Dev} {c : Nat} (h : x.replayBase c = d.replayBase c) : x.isPlaced c = d.isPlaced c :=
  congrArg Prod.fst h

theorem idleAct_replayBase {d : Dev} {c : Nat} (h : d.isPlaced c = true) : (d.idleAct c).replayBase c = d.replayBase c := by
  unfold Dev.idleAct
  split
  · rfl
  · exact setAct_replayBase _ h

theorem restoreCkpt_replayBase {d : Dev} {c : Nat} (h : d.isPlaced c = true) :
    (d.restoreCkpt c).replayBase c = d.replayBase c := by
  have hset : ∀ (l : Memory) (f : Act → Act), (((d.setChan c (fun ch => { ch with epochOpen := [] })).restoreCells c l).setAct c f
      ).replayBase c = d.replayBase c := by
    intro l f
    have hcells := (restoreCells_replayBase (d.setChan c (fun ch => { ch with epochOpen := [] })) c c l).trans
      (setChan_replayBase d c (fun ch => { ch with epochOpen := [] }) rfl)
    exact (setAct_replayBase f ((isPlaced_of_replayBase hcells).trans h)).trans hcells
  unfold Dev.restoreCkpt
  split
  · rfl
  · dsimp only
    split
    · exact hset _ _
    · exact hset _ _

theorem armBoundaries_replayBase (d : Dev) (c : Nat) (target : Option Word) :
    (d.armBoundaries c target).replayBase c = d.replayBase c := by
  unfold Dev.armBoundaries
  exact setChan_replayBase _ _ _ rfl

/-- A replay of the whole journal begins (R239). -/
theorem replayFrom_placed {d : Dev} {c : Nat} (f : Word) (takeover : Bool) (h : d.isPlaced c = true) :
    ((d.replayFrom c f takeover).chan c).st = .recovering ∧ ((d.replayFrom c f takeover).chan c).recF = some f ∧
      ((d.replayFrom c f takeover).chan c).replay = (d.chan c).journal.length := by
  have hnone : ¬ (tfind d.cut.acts c).isNone = true := by
    rw [Dev.isPlaced] at h
    simp [← Option.not_isSome, h]
  unfold Dev.replayFrom
  rw [if_neg hnone]
  dsimp only
  rw [chan_setChan_self]
  exact ⟨rfl, rfl, rfl⟩

/-- START of a FAULTED channel that still has its place: it recovers from this clock, its whole journal replayed (R220). -/
theorem startFaulted_placed {d : Dev} (k : Nat) {c : Nat} (target : Option Word) (h : d.isPlaced c = true) :
    ∃ x : Dev, d.startFaulted k c target = x.cmdDone k 0 ∧ (x.chan c).st = .recovering ∧ (x.chan c).recF = some d.tb.st ∧
      (x.chan c).replay = (d.chan c).journal.length := by
  have hsome : (tfind d.cut.acts c).isSome = true := h
  unfold Dev.startFaulted
  rw [if_neg (by simp [← Option.not_isSome, hsome])]
  simp only [hsome, if_true]
  have hbase : ∀ x : Dev, x.replayBase c = d.replayBase c →
      (((x.idleAct c).restoreCkpt c).armBoundaries c target).replayBase c = d.replayBase c := by
    intro x hx
    have h1 : x.isPlaced c = true := (congrArg Prod.fst hx).trans h
    have h2 := idleAct_replayBase h1
    exact (armBoundaries_replayBase ..).trans
      ((restoreCkpt_replayBase ((congrArg Prod.fst h2).trans h1)).trans (h2.trans hx))
  refine ⟨_, rfl, ?_⟩
  generalize hy : d.setEng (d.act c).eng _ = y
  have hyb : y.replayBase c = d.replayBase c := by rw [← hy]; rfl
  have hx := hbase y hyb
  obtain ⟨h1, h2, h3⟩ := replayFrom_placed ((((y.idleAct c).restoreCkpt c).armBoundaries c target).tb.st) false
    ((congrArg Prod.fst hx).trans h)
  have htb : (((y.idleAct c).restoreCkpt c).armBoundaries c target).tb = d.tb := congrArg (fun p => p.2.2) hx
  have hj : (((((y.idleAct c).restoreCkpt c).armBoundaries c target).chan c).journal) = (d.chan c).journal :=
    congrArg (fun p => p.2.1) hx
  exact ⟨h1, h2.trans (by rw [htb]), h3.trans (by rw [hj])⟩

/-- A migration that finds a place for a running channel starts (R237). -/
theorem migrateTo_running {d x : Dev} {c : Nat} {l : List Nat} (port : Option Nat) (hx : d.placeOn (512 + c) l = .inr x)
    (hrun : (x.chan c).st = .running) :
    d.migrateTo c l port = .inr ((x.restoreCells (512 + c) (x.cells c)).setChan c (fun ch =>
      { ch with st := .migrating, mig := some ⟨port, none, false, 0, none, false, none, none⟩ })) := by
  have hst : ((x.restoreCells (512 + c) (x.cells c)).chan c).st = .running := by
    rw [Dev.chan, restoreCells_cut]
    exact hrun
  unfold Dev.migrateTo
  rw [hx]
  dsimp only
  rw [if_pos hst]

/-- CHECKPOINT on a channel of this node goes by its state. -/
theorem checkpointCmd_local (d : Dev) (k c : Nat) (h : (d.chan c).remote = false) : d.checkpointCmd k c =
    match (d.chan c).st with
    | .created => (d.ckptNow c).cmdDone k 0 (some ((d.ckptNow c).chan c).epochs)
    | .running => d.setChan c (fun ch => { ch with ckptWanted := true, ckptFull := true, ckptPorts := ch.ckptPorts ++ [k] })
    | st => d.cmdDone k st.refusal := by
  unfold Dev.checkpointCmd
  exact if_neg (by simp [h])

/-- The commands that name a channel in ARG0, by code (R218). -/
def channelCmd (code : Nat) (d : Dev) (k c : Nat) : Dev :=
  match code with
  | 2 => d.startCmd k c
  | 3 => d.stopCmd k c
  | 4 => d.destroyCmd k c
  | 5 => d.queryCmd k c
  | 6 => d.migrateCmd k c
  | _ => d.checkpointCmd k c

/-- A ready port runs a command on the channel that a good handle names. -/
theorem cmdWrite_channel {d : Dev} {k : Fin 4} {code : Nat} (who : Initiator) (hp : d.portReady k code) (h2 : 2 ≤ code)
    (h7 : code ≤ 7) (hh : d.checkHandle 1 (d.arg k 0) = .ok) :
    d.cmdWrite k who code = channelCmd code (d.taken k) k (hIdx (d.arg k 0)) := by
  have hs := safe_taken hp
  rw [cmdWrite_ready who hp (by omega), ← onChannel_ok (fun d c => channelCmd code d k c) hh, Dev.runCmd]
  rw [if_neg (by simp; omega), if_neg (by rw [hs]; simp), if_neg (by omega)]
  obtain rfl | rfl | rfl | rfl | rfl | rfl : code = 2 ∨ code = 3 ∨ code = 4 ∨ code = 5 ∨ code = 6 ∨ code = 7 := by omega
  all_goals rfl

/-- Settles O9: each command by its own lemma, and its completion by what the end of a command leaves. -/
theorem channelCommandsComplete : Obligations.ChannelCommandsComplete := by
  unfold Obligations.ChannelCommandsComplete
  refine ⟨?create, ?start, ?restart, ?stop, ?disarm, ?destroy, ?query, ?migrate, ?ckptRunning, ?ckptCreated⟩
  case create =>
    intro s k who c x hp hfree hdesc hx
    refine completes_lift exec_create ?_
    simp only [cmdWrite_ready (code := 1) who hp (by decide)]
    have hrun : (s.dev.taken k).runCmd k 1 = (s.dev.taken k).createCmd k := by
      simpa [Dev.runCmd] using fun h => absurd (safe_taken hp) (by simp [h])
    rw [hrun, createCmd_placed hfree hdesc hx]
    exact ⟨_, _, rfl, rfl, rfl, cmdDone_res0 _ k _ _ _⟩
  case start =>
    rintro s k who c hp ⟨hh, hst⟩ rfl
    refine completes_lift exec_start ?_
    have hst' : ((s.dev.taken k).chan (hIdx (s.dev.arg k 0))).st = .created := hst
    simp only [cmdWrite_channel who hp (by decide) (by decide) hh, channelCmd]
    unfold Dev.startCmd
    rw [hst', arg_taken _ _ 1 (by decide), arg_taken _ _ 2 (by decide)]
    refine ⟨?_, rfl⟩
    rw [chan_st_cmdDone, chan_setChan_self]
  case restart =>
    rintro s k who c hp ⟨hh, hst⟩ rfl hplace
    refine completes_lift exec_start ?_
    obtain ⟨x, hx, h1, h2, h3⟩ := startFaulted_placed (d := s.dev.taken k) k (c := hIdx (s.dev.arg k 0))
      (if bitOf ((s.dev.taken k).arg k 1) 0 then some ((s.dev.taken k).arg k 2) else none) hplace
    have hcmd : (s.dev.taken k).startCmd k (hIdx (s.dev.arg k 0)) = x.cmdDone k 0 := by
      unfold Dev.startCmd
      rw [show ((s.dev.taken k).chan (hIdx (s.dev.arg k 0))).st = .faulted from hst]
      exact hx
    simp only [cmdWrite_channel who hp (by decide) (by decide) hh, channelCmd, hcmd]
    have hc := chan_unposted_cmdDone x k 0 none none (hIdx (s.dev.arg k 0))
    exact ⟨(congrArg Chan.st hc).trans h1, (congrArg Chan.recF hc).trans h2, (congrArg Chan.replay hc).trans h3⟩
  case stop =>
    rintro s k who c hp ⟨hh, hst⟩ hmig rfl
    refine completes_lift exec_stop ?_
    have hcmd : (s.dev.taken k).stopCmd k (hIdx (s.dev.arg k 0)) = ((s.dev.taken k).setChan (hIdx (s.dev.arg k 0))
        (fun ch => { ch with st := .stopping, stopReq := true })).cmdDone k 0 := by
      unfold Dev.stopCmd
      rw [show ((s.dev.taken k).chan (hIdx (s.dev.arg k 0))).st = .running from hst]
      dsimp only
      rw [Dev.stopChannel, endMigration_none 13 (show ((s.dev.taken k).chan (hIdx (s.dev.arg k 0))).mig = none from hmig)]
    simp only [cmdWrite_channel who hp (by decide) (by decide) hh, channelCmd, hcmd]
    refine ⟨?_, trivial⟩
    rw [chan_st_cmdDone, chan_setChan_self]
  case disarm =>
    rintro s k who c hp ⟨hh, hst⟩ rfl
    refine completes_lift exec_stop ?_
    have hcmd : (s.dev.taken k).stopCmd k (hIdx (s.dev.arg k 0)) = ((s.dev.taken k).setChan (hIdx (s.dev.arg k 0))
        (fun ch => { ch with st := .created, startAt := none })).cmdDone k 0 := by
      unfold Dev.stopCmd
      rw [show ((s.dev.taken k).chan (hIdx (s.dev.arg k 0))).st = .armed from hst]
    simp only [cmdWrite_channel who hp (by decide) (by decide) hh, channelCmd, hcmd]
    refine ⟨?_, trivial⟩
    rw [chan_st_cmdDone, chan_setChan_self]
  case destroy =>
    rintro s k who c st hp ⟨hh, hst⟩ hor rfl
    refine completes_lift exec_destroy ?_
    simp only [cmdWrite_channel who hp (by decide) (by decide) hh, channelCmd]
    have hst' : ((s.dev.taken k).chan (hIdx (s.dev.arg k 0))).st = st := hst
    unfold Dev.destroyCmd
    rcases hor with rfl | rfl | rfl <;> rw [hst']
  case query =>
    rintro s k who c hp hh rfl
    refine completes_lift exec_query ?_
    simp only [cmdWrite_channel who hp (by decide) (by decide) hh, channelCmd]
    unfold Dev.queryCmd
    dsimp only
    rw [arg_taken _ _ 1 (by decide)]
    refine ⟨cmdDone_res0 .., cmdDone_res1 .., ?_, ?_, ?_⟩
    · rw [chan_st_cmdDone]
      split
      · rw [chan_setChan_self]
        rfl
      · rfl
    · refine (congrArg Chan.late (chan_unposted_cmdDone ..)).trans ?_
      split
      next hb => rw [chan_setChan_self, hb]; simp [Chan.unposted]
      next hb => simp [Chan.unposted, hb]; rfl
    · rw [cmdDone_mem]
      exact ite_keeps Dev.mem rfl rfl
  case migrate =>
    rintro s k who c x hp ⟨hh, hst⟩ rfl hheld hremote hx hrun
    refine completes_lift exec_migrate ?_
    simp only [cmdWrite_channel who hp (by decide) (by decide) hh, channelCmd]
    have hst' : ((s.dev.taken k).chan (hIdx (s.dev.arg k 0))).st = .running := hst
    have hstay : ¬ ((s.dev.taken k).isHeld (hIdx (s.dev.arg k 0)) || ((s.dev.taken k).chan (hIdx (s.dev.arg k 0))).remote) = true := by
      rw [show (s.dev.taken k).isHeld (hIdx (s.dev.arg k 0)) = false from hheld,
        show ((s.dev.taken k).chan (hIdx (s.dev.arg k 0))).remote = false from hremote]
      simp
    unfold Dev.migrateCmd
    simp only [hst', decide_true, Bool.or_true, if_true, if_neg hstay, arg_taken _ _ 1 (by decide : 1 < 4)]
    rw [migrateTo_running _ hx hrun]
  case ckptRunning =>
    rintro s k who c hp ⟨hh, hst⟩ rfl hremote
    refine completes_lift exec_checkpoint ?_
    simp only [cmdWrite_channel who hp (by decide) (by decide) hh, channelCmd]
    rw [checkpointCmd_local (s.dev.taken k) _ _ hremote, show ((s.dev.taken k).chan (hIdx (s.dev.arg k 0))).st = .running from hst]
  case ckptCreated =>
    rintro s k who c hp ⟨hh, hst⟩ rfl hremote
    refine completes_lift exec_checkpoint ?_
    simp only [cmdWrite_channel who hp (by decide) (by decide) hh, channelCmd]
    rw [checkpointCmd_local (s.dev.taken k) _ _ hremote, show ((s.dev.taken k).chan (hIdx (s.dev.arg k 0))).st = .created from hst]

end Sys2Proof.Machine
end

section
/-!
SUPPORT. OPEN and CLOSE: the object that a command issues or ends (R121, R218, R464-R466, R485).
-/
namespace Sys2Proof.Machine

theorem trd_of_still {d e : Dev} (h : d.still = e.still) : d.trd = e.trd := by
  simp only [Dev.still, Prod.mk.injEq] at h
  exact h.2.2.2.1

/-- A ready port takes OPEN of the kind in ARG0. -/
theorem openWrite_ready {d : Dev} {k : Fin 4} {kind : Nat} (who : Initiator) (hp : d.portReady k 8)
    (hk : (d.arg k 0).toNat = kind) : d.openWrite k who kind = (d.taken k).openCmd k := by
  have hs := safe_taken hp
  rw [Dev.openWrite, if_pos hk, cmdWrite_ready who hp (by decide), Dev.runCmd, if_neg (by decide), if_neg (by rw [hs]; simp)]
  rfl

/-- A ready port takes CLOSE. -/
theorem closeWrite_ready {d : Dev} {k : Fin 4} (who : Initiator) (hp : d.portReady k 9) :
    d.cmdWrite k who 9 = (d.taken k).closeCmd k := by
  have hs := safe_taken hp
  rw [cmdWrite_ready who hp (by decide), Dev.runCmd, if_neg (by decide), if_neg (by rw [hs]; simp)]
  rfl

theorem b_taken (d : Dev) {k a : Nat} (i : Nat) (h : a ≠ CUT_CMD_STAT k) : (d.taken k).b a i = d.b a i :=
  congrArg (bitOf · i) (r_taken d h)

theorem mbxStat_ne (k : Fin 4) (m : Nat) : MBX_MSTAT m ≠ CUT_CMD_STAT k := by simp only [MBX_MSTAT, CUT_CMD_STAT]; omega

theorem fbrRoute_ne (k : Fin 4) (i j : Nat) : FBR_ROUTE i j ≠ CUT_CMD_STAT k := by simp only [FBR_ROUTE, CUT_CMD_STAT]; omega

theorem fbrStage_ne (k : Fin 4) (j : Nat) : FBR_STAGE j ≠ CUT_CMD_STAT k := by simp only [FBR_STAGE, CUT_CMD_STAT]; omega

/-- A busy port does not change what a handle names. -/
theorem holds_taken (d : Dev) (k : Fin 4) (kind i : Nat) : (d.taken k).holds kind i = d.holds kind i := by
  unfold Dev.holds
  rw [b_taken d _ (mbxStat_ne k i), b_taken d _ (fbrRoute_ne k i 0)]
  rfl

theorem checkHandle_busy (d : Dev) (k : Fin 4) (kind : Nat) (h : Word) :
    (d.taken k).checkHandle kind h = d.checkHandle kind h := by
  unfold Dev.checkHandle
  rw [holds_taken]
  rfl

theorem genOf_setGen (d : Dev) (kind i g : Nat) (hk : kind = 2 ∨ kind = 3 ∨ kind = 4 ∨ kind = 5) :
    (d.setGen kind i g).genOf kind i = g := by
  rcases hk with rfl | rfl | rfl | rfl <;> exact tget_tset_self ..

/-- OPEN of a mailbox whose parties are good. -/
theorem openMbx_opens {d : Dev} {k : Fin 4} {m : Nat} (hp : d.partyBad (d.arg k 1) = none) (hq : d.partyBad (d.arg k 2) = none)
    (hne : d.arg k 1 ≠ d.arg k 2) (hhost : (isHostParty (d.arg k 1) && isHostParty (d.arg k 2)) = false)
    (hbits : d.arg k 3 &&& 0xFFFFE0E0 = 0) (hfree : (List.range 256).find? (fun m => !(d.b (MBX_MSTAT m) 31)) = some m) :
    (d.taken k).openMbx k = (((((d.taken k).setGen 2 m (d.issueGen 2 m)).w (MBX_MSTAT m)
        (w32 (d.issueGen 2 m + 65536 * fld (d.arg k 3) 4 0 + 2 ^ 24 * fld (d.arg k 3) 12 8 + 2 ^ 31))).w (MBX_PARTY m 0)
        (d.arg k 1)).w (MBX_PARTY m 1) (d.arg k 2)).cmdDone k 0 (some (mkHandle 2 (d.issueGen 2 m) m).toNat) := by
  have hfree' : (List.range 256).find? (fun m => !((d.taken k).b (MBX_MSTAT m) 31)) = some m := by
    rw [← hfree]
    congr 1
    funext i
    rw [b_taken d _ (mbxStat_ne k i)]
  have hparty : ∀ p, (d.taken k).partyBad p = d.partyBad p := fun _ => rfl
  have hgen : (d.taken k).issueGen 2 m = d.issueGen 2 m := rfl
  have hbits' : d.arg k 3 &&& 0xFFFFE0E0#32 = 0#32 := hbits
  unfold Dev.openMbx
  simp only [arg_taken d k 1 (by decide), arg_taken d k 2 (by decide), arg_taken d k 3 (by decide), hparty, hp, hq, hfree', hgen]
  simp [hne, hhost, hbits']

/-! ### Routes -/

/-- The first `n` words of route `i` written. -/
def Dev.routeWords (d : Dev) (i n : Nat) (f : Nat → Word) : Dev := (List.range n).foldl (fun x j => x.w (FBR_ROUTE i j) (f j)) d

theorem routeWords_succ (d : Dev) (i n : Nat) (f : Nat → Word) :
    d.routeWords i (n + 1) f = (d.routeWords i n f).w (FBR_ROUTE i n) (f n) := by
  simp [Dev.routeWords, List.range_succ]

theorem routeWords_r_other (d : Dev) (i n a : Nat) (f : Nat → Word) (h : ∀ j, j < n → a ≠ FBR_ROUTE i j) :
    (d.routeWords i n f).r a = d.r a := by
  induction n with
  | zero => rfl
  | succ n ih => rw [routeWords_succ, Dev.r_w_ne _ _ (h n (by omega)), ih (fun j hj => h j (by omega))]

theorem routeWords_r (d : Dev) (i n j : Nat) (f : Nat → Word) (h : j < n) : (d.routeWords i n f).r (FBR_ROUTE i j) = f j := by
  induction n with
  | zero => omega
  | succ n ih =>
    rw [routeWords_succ, Dev.r_w]
    by_cases hj : j = n
    · rw [hj, if_pos rfl]
    · rw [if_neg (by simp only [FBR_ROUTE]; omega), ih (by omega)]

theorem routeWords_parts (d : Dev) (i n : Nat) (f : Nat → Word) :
    (d.routeWords i n f).cut = d.cut ∧ (d.routeWords i n f).mem = d.mem :=
  ⟨foldl_keeps Dev.cut _ _ (by intro _ _; rfl) d, foldl_keeps Dev.mem _ _ (by intro _ _; rfl) d⟩

/-- The device whose route `i`, of generation `g`, holds the words `f` (R485). -/
def Dev.routed (d : Dev) (i g : Nat) (f : Nat → Word) : Dev :=
  (((d.setGen 3 i g).routeWords i 8 f).wb (FBR_ROUTE i 0) 31 true).wf FBR_STAT 28 16
    (((d.setGen 3 i g).routeWords i 8 f).f FBR_STAT 28 16 + 1)

theorem routed_genOf (d : Dev) (i g : Nat) (f : Nat → Word) : (d.routed i g f).genOf 3 i = g := by
  have hcut : (d.routed i g f).cut = (d.setGen 3 i g).cut := (routeWords_parts (d.setGen 3 i g) i 8 f).1
  have h := genOf_setGen d 3 i g (by simp)
  unfold Dev.genOf Dev.gens at h ⊢
  rw [hcut]
  exact h

theorem routed_word (d : Dev) (i g j : Nat) (f : Nat → Word) (h1 : 1 ≤ j) (h8 : j < 8) :
    (d.routed i g f).r (FBR_ROUTE i j) = f j := by
  unfold Dev.routed
  rw [Dev.r_wf_ne _ _ _ _ (by simp only [FBR_ROUTE, FBR_STAT]; omega), Dev.r_wb_ne _ _ _ (by simp only [FBR_ROUTE]; omega),
    routeWords_r _ _ _ _ _ h8]

theorem routed_holds (d : Dev) (i g : Nat) (f : Nat → Word) : (d.routed i g f).holds 3 i = true := by
  have hb : (d.routed i g f).b (FBR_ROUTE i 0) 31 = true := by
    unfold Dev.routed Dev.b
    rw [Dev.r_wf_ne _ _ _ _ (by simp only [FBR_ROUTE, FBR_STAT]; omega), Dev.r_wb_self, bitOf_setBit_self _ _ _ (by decide)]
  exact hb

theorem routed_count (d : Dev) (i g : Nat) (f : Nat → Word) :
    (d.routed i g f).f FBR_STAT 28 16 = (d.f FBR_STAT 28 16 + 1) % 8192 := by
  have hsame : ((d.setGen 3 i g).routeWords i 8 f).f FBR_STAT 28 16 = d.f FBR_STAT 28 16 :=
    congrArg (fld · 28 16) (routeWords_r_other (d.setGen 3 i g) i 8 FBR_STAT f (by intro j _; simp only [FBR_ROUTE, FBR_STAT]; omega))
  unfold Dev.routed
  rw [hsame, Dev.f, Dev.r_wf_self, fld_setFld_self _ _ _ _ (by decide) (by decide)]
  rfl

/-- OPEN of a route whose words are good. -/
theorem openRoute_opens {d : Dev} {k : Fin 4} {i : Nat} (hres : ∀ j, j < 8 → d.r (FBR_STAGE j) &&& routeReserved j = 0)
    (hkey : ∀ key, routeKey (d.r (FBR_STAGE 0)) (d.r (FBR_STAGE 1)) = some key → d.routeOf key = none)
    (hlen : fld (d.r (FBR_STAGE 4)) 13 0 + fld (d.r (FBR_STAGE 4)) 23 16 ≤ 16384)
    (hfree : (List.range 4096).find? (fun i => !(d.b (FBR_ROUTE i 0) 31)) = some i) :
    (d.taken k).openRoute k = ((d.taken k).routed i (d.issueGen 3 i) (fun j => d.r (FBR_STAGE j))).cmdDone k 0
      (some (mkHandle 3 (d.issueGen 3 i) i).toNat) := by
  have hr : ∀ j, (d.taken k).r (FBR_STAGE j) = d.r (FBR_STAGE j) := fun j => r_taken d (fbrStage_ne k j)
  have hfree' : (List.range 4096).find? (fun i => !((d.taken k).b (FBR_ROUTE i 0) 31)) = some i := by
    have hfun : (fun i => !((d.taken k).b (FBR_ROUTE i 0) 31)) = fun i => !(d.b (FBR_ROUTE i 0) 31) := by
      funext j
      rw [b_taken d _ (fbrRoute_ne k j 0)]
    rw [hfun]
    exact hfree
  have hroute : ∀ key, (d.taken k).routeOf key = d.routeOf key := by
    intro key
    have hfun : (fun i => (d.taken k).b (FBR_ROUTE i 0) 31 && routeKey ((d.taken k).r (FBR_ROUTE i 0))
        ((d.taken k).r (FBR_ROUTE i 1)) == some key) =
        fun i => d.b (FBR_ROUTE i 0) 31 && routeKey (d.r (FBR_ROUTE i 0)) (d.r (FBR_ROUTE i 1)) == some key := by
      funext j
      rw [b_taken d _ (fbrRoute_ne k j 0), r_taken d (fbrRoute_ne k j 0), r_taken d (fbrRoute_ne k j 1)]
    unfold Dev.routeOf
    rw [hfun]
  have hany : (List.range 8).any (fun j => d.r (FBR_STAGE j) &&& routeReserved j != 0) = false := by
    rw [List.any_eq_false]
    intro j hj
    rw [hres j (List.mem_range.mp hj)]
    simp
  have hlong : ¬ 16384 < fld (d.r (FBR_STAGE 4)) 13 0 + fld (d.r (FBR_STAGE 4)) 23 16 := by omega
  unfold Dev.openRoute
  simp only [hr, hroute, hfree', hany, hlong, Bool.false_or, decide_false, Bool.or_false]
  cases hk : routeKey (d.r (FBR_STAGE 0)) (d.r (FBR_STAGE 1)) with
  | none =>
    simp only [Bool.false_eq_true, if_false]
    rfl
  | some key =>
    simp only [hkey key hk, Option.isSome_none, Bool.false_eq_true, if_false]
    rfl

/-- OPEN of a stream reservation that its port admits. -/
theorem openRes_opens {d x : Dev} {k : Fin 4} {i : Nat} (hfree : (List.range 256).find? (fun i => !(d.holds 5 i)) = some i)
    (hport : fld (d.arg k 1) 4 0 < 22)
    (hx : x = { (d.taken k).setGen 5 i (d.issueGen 5 i) with cut := { ((d.taken k).setGen 5 i (d.issueGen 5 i)).cut with
      reserv := tset d.cut.reserv i (some (fld (d.arg k 1) 4 0, fld (d.arg k 1) 10 8, (d.arg k 2).toNat, fld (d.arg k 3) 15 0)) } })
    (hok : fld (d.arg k 1) 4 0 < 20 → x.portOk (fld (d.arg k 1) 4 0) (fld (d.arg k 1) 10 8) = true) :
    (d.taken k).openRes k = x.cmdDone k 0 (some (mkHandle 5 (d.issueGen 5 i) i).toNat) := by
  have hfree' : (List.range 256).find? (fun i => !((d.taken k).holds 5 i)) = some i := hfree
  have hok' : ¬ (decide (fld (d.arg k 1) 4 0 < 20) && !(x.portOk (fld (d.arg k 1) 4 0) (fld (d.arg k 1) 10 8))) = true := by
    intro h
    rw [Bool.and_eq_true, decide_eq_true_eq] at h
    rw [hok h.1] at h
    exact absurd h.2 (by decide)
  subst hx
  unfold Dev.openRes
  rw [arg_taken d k 1 (by decide), arg_taken d k 2 (by decide), arg_taken d k 3 (by decide), hfree']
  exact (if_neg (by omega)).trans (if_neg hok')

/-! ### CLOSE -/

/-- A CLOSE of a kind that OPEN issues goes by the check of its handle. -/
theorem closeCmd_kind (d : Dev) {k : Fin 4} {kind : Nat} (hk : kind = hKind (d.arg k 0)) (h2 : 2 ≤ kind) (h5 : kind ≤ 5) :
    (d.taken k).closeCmd k = match (d.taken k).checkHandle kind (d.arg k 0) with
      | .ok => ((d.taken k).closeObj kind (hIdx (d.arg k 0))).cmdDone k 0
      | x => (d.taken k).cmdDone k x.status := by
  have hkind : ¬ (decide (hKind (d.arg k 0) < 2) || decide (5 < hKind (d.arg k 0))) = true := by
    rw [← hk]
    simp only [Bool.or_eq_true, decide_eq_true_eq]
    omega
  unfold Dev.closeCmd
  rw [arg_taken d k 0 (by decide), hk]
  exact if_neg hkind

/-- An object that is closed has the next generation. -/
theorem genOf_closeObj (d : Dev) {kind : Nat} (i : Nat) (h2 : 2 ≤ kind) (h5 : kind ≤ 5) :
    (d.closeObj kind i).genOf kind i = nextGen (d.genOf kind i) := by
  obtain rfl | rfl | rfl | rfl : kind = 2 ∨ kind = 3 ∨ kind = 4 ∨ kind = 5 := by omega
  · exact genOf_setGen d 2 i _ (by simp)
  · exact genOf_setGen d 3 i _ (by simp)
  · exact genOf_setGen d 4 i _ (by simp)
  · exact genOf_setGen d 5 i _ (by simp)

/-- Settles O10: OPEN by kind, CLOSE of an object and of a bad handle, and the codes that name no command. -/
theorem handleCommandsComplete : Obligations.HandleCommandsComplete := by
  unfold Obligations.HandleCommandsComplete
  refine ⟨?mailbox, ?route, ?pattern, ?reservation, ?close, ?closeBad, ?unknown⟩
  case mailbox =>
    rintro s k who m g hp h0 hb1 hb2 hne hhost hbits hfree rfl
    refine completes_lift exec_openMailbox ?_
    have hkind : (s.dev.arg k 0).toNat = 2 := by rw [h0]; rfl
    have hcmd : (s.dev.taken k).openCmd k = (s.dev.taken k).openMbx k := by
      unfold Dev.openCmd
      rw [arg_taken _ _ 0 (by decide), hkind]
      rfl
    simp only [openWrite_ready who hp hkind, hcmd, openMbx_opens hb1 hb2 hne hhost hbits hfree]
    exact ⟨trivial, cmdDone_res0 ..⟩
  case route =>
    rintro s k who i g hp h0 hres hkey hlen hfree rfl
    refine completes_lift exec_openRoute ?_
    have hkind : (s.dev.arg k 0).toNat = 3 := by rw [h0]; rfl
    have hcmd : (s.dev.taken k).openCmd k = (s.dev.taken k).openRoute k := by
      unfold Dev.openCmd
      rw [arg_taken _ _ 0 (by decide), hkind]
      rfl
    simp only [openWrite_ready who hp hkind, hcmd, openRoute_opens hres hkey hlen hfree]
    refine ⟨_, rfl, routed_genOf .., routed_holds .., fun j h1 h8 => routed_word _ _ _ _ _ h1 h8, ?_, cmdDone_res0 .., ?_⟩
    · rw [routed_count, Dev.f, r_taken _ (by simp only [FBR_STAT, CUT_CMD_STAT]; omega)]
      rfl
    · rw [cmdDone_mem]
      exact (routeWords_parts ..).2
  case pattern =>
    rintro s k who t g hp h0 hh rfl ht hfree rfl
    refine completes_lift exec_openPattern ?_
    have hkind : (s.dev.arg k 0).toNat = 4 := by rw [h0]; rfl
    have hcmd : (s.dev.taken k).openCmd k = (s.dev.taken k).openPat k := by
      unfold Dev.openCmd
      rw [arg_taken _ _ 0 (by decide), hkind]
      rfl
    simp only [openWrite_ready who hp hkind, hcmd]
    unfold Dev.openPat
    simp only [arg_taken _ k 1 (by decide), arg_taken _ k 2 (by decide), checkHandle_taken, hh, holds_taken, hfree,
      show ¬ 8 ≤ (s.dev.arg k 1).toNat by omega, if_false, Bool.false_eq_true]
    refine ⟨cmdDone_res0 .., ?_, ?_, ?_⟩
    · rw [genOf_cmdDone]
      exact genOf_setGen (s.dev.taken k) 4 _ _ (by simp)
    · refine (trd_of_still (cmdDone_still ..)).trans ?_
      have harg : ((s.dev.taken k).setGen 4 (s.dev.arg k 1).toNat ((s.dev.taken k).issueGen 4 (s.dev.arg k 1).toNat)).arg k 2 =
        s.dev.arg k 2 := arg_taken _ _ 2 (by decide)
      simp only [harg]
      rfl
    · exact cmdDone_mem ..
  case reservation =>
    rintro s k who i g x hp h0 hfree hport rfl hx hok
    refine completes_lift exec_openStreamReservation ?_
    have hkind : (s.dev.arg k 0).toNat = 5 := by rw [h0]; rfl
    have hcmd : (s.dev.taken k).openCmd k = (s.dev.taken k).openRes k := by
      unfold Dev.openCmd
      rw [arg_taken _ _ 0 (by decide), hkind]
      rfl
    simp only [openWrite_ready who hp hkind, hcmd]
    rw [openRes_opens hfree hport hx hok]
    exact ⟨rfl, cmdDone_res0 ..⟩
  case close =>
    rintro s k who kind i hp hk h2 h5 rfl hh
    refine completes_lift exec_close ?_
    have hcmd : (s.dev.taken k).closeCmd k = ((s.dev.taken k).closeObj kind (hIdx (s.dev.arg k 0))).cmdDone k 0 := by
      rw [closeCmd_kind _ hk h2 h5, checkHandle_busy, hh]
    simp only [closeWrite_ready who hp, hcmd]
    refine ⟨trivial, ?_⟩
    rw [genOf_cmdDone, genOf_closeObj _ _ h2 h5]
    rfl
  case closeBad =>
    rintro s k who kind hp hk h2 h5 hh
    refine completes_lift exec_close ?_
    simp only [closeWrite_ready who hp]
    rw [closeCmd_kind _ hk h2 h5, checkHandle_busy]
    split
    next h => exact absurd h hh
    next => rfl
  case unknown =>
    intro s k who code hp hc
    refine completes_lift exec_unknownCutterCmd ?_
    have hcode : ¬ (decide (1 ≤ code.toNat) && decide (code.toNat ≤ 9)) = true := by
      simp only [Bool.and_eq_true, decide_eq_true_eq]
      omega
    rw [if_neg hcode, cmdWrite_ready who hp code.isLt, Dev.runCmd, if_pos (by simpa using hc)]

end Sys2Proof.Machine
end

section
/-!
SUPPORT. Boundaries, the ends of stops and replays, and the comparison of the Cutter's table with the slot tables (R221, R225,
R234, R237, R239, R249, R361).
-/
namespace Sys2Proof.Machine

/-- A bell bit that has been rung reads 1. -/
theorem ringBit_b (d : Dev) {b : BellReg} {i : Nat} (ha : b.addr < 0x500000) (hi : i < 32) : (d.ringBit b i).b b.addr i = true := by
  rw [Dev.b, ringBit_r _ _ _ _ ha, if_pos rfl, bitOf_or_self _ _ hi]

/-- A running channel whose boundary is due passes it. -/
theorem periodBoundary_running {d : Dev} {c : Nat} (hst : (d.chan c).st = .running) (hscan : d.scanTask c = false)
    (hdue : d.boundaryDue c = true) (hback : (d.chan c).backTo = none) :
    d.periodBoundary c = (d.boundaryNext c).boundary c (d.boundarySt c) true := by
  have hnext : ((d.boundaryNext c).chan c).st = .running ∧ ((d.boundaryNext c).chan c).backTo = none := by
    unfold Dev.boundaryNext
    split
    · rw [chan_setChan_self]
      exact ⟨hst, hback⟩
    · rw [chan_setChan_self]
      exact ⟨hst, hback⟩
  unfold Dev.periodBoundary
  rw [if_neg (by simp [hst, hscan, hdue, ChanState.ticking])]
  dsimp only
  rw [if_neg (by simp [hnext.1, hnext.2])]

/-- A stop with nothing left to wait for leaves the channel CREATED. -/
theorem stopComplete_created {d : Dev} {c : Nat} {p : Word} (hst : (d.chan c).st = .stopping) (hp : (d.chan c).stopAt = some p)
    (hd : d.drained c = true) (hr : reached d.tb.st (p + w32 (d.chan c).settle) = true) (hk : (d.chan c).ckptPorts = [])
    (hx : (d.chan c).destroyPort = none) : d.stopComplete c = d.setChan c (fun ch =>
      { ch with st := .created, stopReq := false, stopAt := none, startAt := none, ckptPorts := [] }) := by
  unfold Dev.stopComplete
  simp only [hst, hp, hd, hr, hk, hx, Bool.and_self, if_true, Option.isSome_none, Bool.false_eq_true, if_false]

/-- The end of a replay leaves the channel's recovery behind. -/
theorem afterReplay_chan (d : Dev) (c : Nat) : ((d.afterReplay c).chan c).takeover = false ∧ ((d.afterReplay c).chan c).recF = none ∧
    ((d.chan c).backTo = none → (d.chan c).stopReq = true → ((d.afterReplay c).chan c).st = .stopping) := by
  unfold Dev.afterReplay
  dsimp only
  rw [chan_setChan_self]
  refine ⟨rfl, rfl, fun hb hs => ?_⟩
  rw [if_neg (by simp [hb])]
  simp [hb, hs]

theorem afterReplay_frame (d : Dev) (c : Nat) : (d.afterReplay c).mem = d.mem ∧ (d.afterReplay c).regs = d.regs := by
  have hset : ∀ (x : Dev) (f : Chan → Chan), x.mem = d.mem ∧ x.regs = d.regs →
      (x.setChan c f).mem = d.mem ∧ (x.setChan c f).regs = d.regs := fun _ _ h => h
  unfold Dev.afterReplay
  refine hset _ _ ?_
  split
  · exact ⟨rfl, rfl⟩
  · exact ⟨rfl, rfl⟩

theorem takingDone_frame (d : Dev) : d.takingDone.mem = d.mem ∧ d.takingDone.regs = d.regs ∧ d.takingDone.cut = d.cut :=
  ⟨ite_keeps Dev.mem rfl rfl, ite_keeps Dev.regs rfl rfl, ite_keeps Dev.cut rfl rfl⟩

/-! ### The two views -/

/-- The views of channel `c` differ. -/
def Dev.differs (d : Dev) (c : Nat) : Bool := !(d.chan c).remote && (tget none d.cut.mgmt c != d.slotOf c || !(d.stateAgrees c))

theorem differs_iff (d : Dev) (c : Nat) : d.differs c = true ↔
    (d.chan c).remote = false ∧ (tget none d.cut.mgmt c ≠ d.slotOf c ∨ d.stateAgrees c = false) := by
  simp [Dev.differs]

/-- The live channels whose views differ and that are not held yet. -/
def Dev.newHeld (d : Dev) : List Nat := (d.liveChans.filter d.differs).filter (fun c => !(d.cut.held.contains c))

theorem tableCompare_eq (d : Dev) : d.tableCompare = if d.newHeld = [] then d
    else ({ d.wb CUT_STAT 0 true with cut := { d.cut with held := d.cut.held ++ d.newHeld } }).ringBit .cut 9 := rfl

theorem tableCompare_agrees {d : Dev} (h : ∀ c ∈ d.liveChans, (d.chan c).remote = true ∨
    (tget none d.cut.mgmt c = d.slotOf c ∧ d.stateAgrees c = true)) : d.tableCompare = d := by
  have hnone : d.newHeld = [] := by
    unfold Dev.newHeld
    rw [List.filter_eq_nil_iff]
    intro c hc
    obtain ⟨hlive, hdiff⟩ := List.mem_filter.mp hc
    obtain ⟨hr, hne⟩ := (differs_iff d c).mp hdiff
    rcases h c hlive with hrem | ⟨hm, ha⟩
    · rw [hr] at hrem
      cases hrem
    · rcases hne with hne | hne
      · exact absurd hm hne
      · rw [ha] at hne
        cases hne
  rw [tableCompare_eq, if_pos hnone]

theorem mem_newHeld {d : Dev} {c : Nat} (hl : c ∈ d.liveChans) (hd : d.differs c = true) (hh : d.isHeld c = false) :
    c ∈ d.newHeld := by
  have hheld : (!(d.cut.held.contains c)) = true := by
    rw [show d.cut.held.contains c = false from hh]
    rfl
  exact List.mem_filter.mpr ⟨List.mem_filter.mpr ⟨hl, hd⟩, hheld⟩

theorem held_ringBit (d : Dev) (b : BellReg) (i : Nat) : (d.ringBit b i).cut.held = d.cut.held := by
  have hcut := congrArg (fun x => x.2.2.2.1) (ringBit_roster d b i)
  simp only [Dev.roster, Cutter.mk.injEq] at hcut
  obtain ⟨-, -, -, -, -, -, -, -, -, -, -, h, -⟩ := hcut
  exact h

/-- A table made from a list of indices gives each its own value. -/
theorem tget_map {α : Type} (v : α) (f : Nat → α) {l : List Nat} {c : Nat} (h : c ∈ l) : tget v (l.map (fun c => (c, f c))) c = f c := by
  induction l with
  | nil => cases h
  | cons a l ih =>
    unfold tget
    rw [List.map_cons, tfind]
    by_cases ha : a = c
    · rw [if_pos ha, ha]
      rfl
    · rw [if_neg ha]
      exact ih ((List.mem_cons.mp h).resolve_left (Ne.symm ha))

/-- The management view as the slots have it. -/
def Dev.rebuilt (d : Dev) : Dev :=
  { d.wb CUT_STAT 0 false with cut := { d.cut with
      mgmt := (d.liveChans).map (fun c => (c, if (d.chan c).remote then tget none d.cut.mgmt c else d.slotOf c)), held := [] } }

/-- A resync that holds no recovery back rebuilds the management view and nothing else. -/
theorem resync_rebuilt {d : Dev} (h : ∀ c ∈ d.cut.held, (d.chan c).st ≠ .recovering) : d.resync = d.rebuilt := by
  have hsteps : ∀ l : List Nat, (∀ c ∈ l, (d.rebuilt.chan c).st ≠ .recovering) → d.rebuilt.each l (fun d c =>
      match (d.chan c).st, (d.chan c).recF with
      | .recovering, some f =>
        if d.b CUT_CTRL 1 && (d.act c).st == .faulted then
          d.rePlace c f ((d.chan c).backTo.isNone || (d.chan c).backTo == some .created)
        else d
      | _, _ => d) = d.rebuilt := by
    intro l hl
    induction l with
    | nil => rfl
    | cons c l ih =>
      have hc := hl c (by simp)
      unfold Dev.each at ih ⊢
      rw [List.foldl_cons]
      split
      next hst _ => exact absurd hst hc
      next => exact ih (fun x hx => hl x (by simp [hx]))
  exact hsteps d.cut.held h

/-- Settles O11: each event by its own lemma. -/
theorem channelEventsComplete : Obligations.ChannelEventsComplete := by
  unfold Obligations.ChannelEventsComplete
  refine ⟨?boundary, ?stop, ?epoch, ?recovery, ?takeover, ?differ, ?agree, ?resync, ?move⟩
  case boundary =>
    intro s c hst hscan hdue hback
    exact completes_lift exec_periodBoundary (periodBoundary_running hst hscan hdue hback)
  case stop =>
    intro s c p hst hp hd hr hk hx
    refine completes_lift exec_channelStopComplete ?_
    rw [stopComplete_created hst hp hd hr hk hx, chan_setChan_self]
    exact ⟨rfl, rfl⟩
  case epoch =>
    rintro s c e rfl hst hi hat
    refine completes_lift exec_checkpointEpoch (if_pos ?_)
    have hi' : fld ((s.dev.ckptSettled c).desc c 6) 27 16 * 10000 ≠ 0 := by omega
    simp only [hst, hat, decide_true, Bool.true_or, Bool.and_true, Bool.true_and]
    simpa using hi
  case recovery =>
    intro s c hover htake
    refine completes_lift exec_recoveryComplete ?_
    have hdone : s.dev.recoveryComplete c = ((s.dev.afterReplay c).ringBit .cut 7).satf CUT_MIGRATE_CNT 31 16 1 :=
      if_pos (by rw [hover, htake]; rfl)
    rw [hdone]
    refine ⟨rfl, ?_, fun hb hs => ?_⟩
    · rw [Dev.b, Dev.r_satf, if_neg (by decide)]
      exact ringBit_b _ (b := .cut) (by decide) (by decide)
    · obtain ⟨-, -, hstop⟩ := afterReplay_chan s.dev c
      exact (chan_st_of_roster (ringBit_roster ..) c).trans (hstop hb hs)
  case takeover =>
    intro s c hover htake
    refine completes_lift exec_takeoverReplayDone ?_
    have hdone : s.dev.takeoverReplayDone c = (s.dev.afterReplay c).takingDone := if_pos (by rw [hover, htake]; rfl)
    rw [hdone]
    obtain ⟨hmem, hregs, hcut⟩ := takingDone_frame (s.dev.afterReplay c)
    obtain ⟨hmem', hregs'⟩ := afterReplay_frame s.dev c
    obtain ⟨h1, h2, -⟩ := afterReplay_chan s.dev c
    have hchan : (s.dev.afterReplay c).takingDone.chan c = (s.dev.afterReplay c).chan c := by rw [Dev.chan, hcut]; rfl
    rw [hchan]
    refine ⟨h1, h2, hmem.trans hmem', fun a => ?_⟩
    rw [Dev.r, hregs, hregs']
    rfl
  case differ =>
    intro s c hl hr hne hheld
    refine completes_lift exec_tableCompare ?_
    have hmem := mem_newHeld hl ((differs_iff s.dev c).mpr ⟨hr, hne⟩) hheld
    have hne' : ¬ s.dev.newHeld = [] := List.ne_nil_of_mem hmem
    have hclean : s.dev.tableCompare.tableEcc .clean = s.dev.tableCompare := rfl
    rw [hclean, tableCompare_eq, if_neg hne']
    refine ⟨?_, ?_, ?_, ?_⟩
    · rw [Dev.b, ringBit_r _ _ _ _ (by decide), if_neg (by decide)]
      exact (congrArg (bitOf · 0) (Dev.r_wb_self ..)).trans (bitOf_setBit_self _ _ _ (by decide))
    · rw [held_ringBit]
      exact List.mem_append_right _ hmem
    · exact ringBit_b _ (b := .cut) (by decide) (by decide)
    · rw [(ringBit_parts ..).1]
      rfl
  case agree =>
    intro s e h
    exact completes_lift exec_tableCompare (congrArg (Dev.tableEcc · e) (tableCompare_agrees h))
  case resync =>
    intro s who hr hheld
    refine completes_lift exec_resync ?_
    simp only [access_of_reaches hr, resync_rebuilt hheld]
    refine ⟨?_, rfl, fun c hc hrem => ?_, rfl⟩
    · exact (congrArg (bitOf · 0) (Dev.r_wb_self ..)).trans (bitOf_setBit_self _ _ _ (by decide))
    · refine (tget_map none (fun c => if (s.dev.chan c).remote then tget none s.dev.cut.mgmt c else s.dev.slotOf c) hc).trans ?_
      simp [hrem]
  case move =>
    intro s c x hen hmode hst hheld hrem hx hrun
    refine completes_lift exec_automaticMove ?_
    unfold Dev.autoMove
    rw [if_pos (by simp [hen, hmode, hst, hheld, hrem]), migrateTo_running none hx hrun]

end Sys2Proof.Machine
end

section
/-!
SUPPORT. Wakes, the sleep agreement and the power-fail warning, one fact per operation of the always-on domain (R43-R52, R58).
-/
namespace Sys2Proof.Machine

theorem powerEn_pwr (d : Dev) (v : Bool) : (d.powerEn v).pwr = { d.pwr with pwrEn := v } := by
  unfold Dev.powerEn
  split
  next h => rw [← h]
  next => rfl

theorem powerEn_parts (d : Dev) (v : Bool) : (d.powerEn v).mem = d.mem ∧ (d.powerEn v).tb = d.tb ∧ (d.powerEn v).regs = d.regs :=
  ⟨ite_keeps Dev.mem rfl rfl, ite_keeps Dev.tb rfl rfl, ite_keeps Dev.regs rfl rfl⟩

/-- A wake that Holdover accepts. -/
theorem wakeAct_pwr {d : Dev} (hm : d.pwr.mode = .holdover) (hw : d.pwr.wakeSince = none) (hr : d.pwr.retrySince = none) :
    d.wakeAct.pwr = { d.pwr with pwrEn := true, wakeSince := some d.tb.now, wakePending := false, wokeAt := d.tb.now } := by
  unfold Dev.wakeAct
  rw [if_pos (by simp [Dev.mode, hm, hw, hr])]
  simp only [Dev.setPwr_frame, powerEn_pwr]

theorem wakeAct_frame (d : Dev) : d.wakeAct.mem = d.mem ∧ d.wakeAct.regs = d.regs := by
  obtain ⟨hmem, -, hregs⟩ := powerEn_parts d true
  exact ⟨ite_keeps Dev.mem hmem rfl, ite_keeps Dev.regs hregs rfl⟩

/-- The log entry of a wake, as it stands before the wake acts. -/
def Dev.wakeLogged (d : Dev) (bit src : Nat) (mdb : Bool) : Dev :=
  let e := (d.wb PWR_WAKE_CAUSE bit true).logEvent 0x03 src ((d.wb PWR_WAKE_CAUSE bit true).r PWR_WAKE_CAUSE).toNat
  let first := e.mode = .holdover && e.pwr.wakeSince.isNone && e.pwr.retrySince.isNone && !e.pwr.wakePending
  let fresh := first || (e.pwr.trans = .powerDown && !e.pwr.wakePending)
  e.setPwr (fun p =>
    { p with wakeByMdbOnly := if fresh then mdb else p.wakeByMdbOnly && mdb, wakeKept := if fresh then false else p.wakeKept })

theorem wakeLogged_parts (d : Dev) {bit : Nat} (src : Nat) (mdb : Bool) (h : bit < 32) :
    (d.wakeLogged bit src mdb).pwr.mode = d.pwr.mode ∧ (d.wakeLogged bit src mdb).pwr.trans = d.pwr.trans ∧
    (d.wakeLogged bit src mdb).pwr.wakeSince = d.pwr.wakeSince ∧
    (d.wakeLogged bit src mdb).pwr.retrySince = d.pwr.retrySince ∧ (d.wakeLogged bit src mdb).tb = d.tb ∧
    (d.wakeLogged bit src mdb).mem = d.mem ∧ (d.wakeLogged bit src mdb).b PWR_WAKE_CAUSE bit = true := by
  unfold Dev.wakeLogged
  refine ⟨?_, ?_, ?_, ?_, ?_, ?_, ?_⟩
  · simp [logEvent_pwr]
  · simp [logEvent_pwr]
  · simp [logEvent_pwr]
  · simp [logEvent_pwr]
  · simp
  · simp
  · simp only [Dev.b, Dev.setPwr_frame, logEvent_wakeCause, Dev.r_wb_self, bitOf_setBit_self _ _ _ h]

/-- A wake source that fires in Holdover, with nothing of the mode sequencer under way. -/
theorem wake_idle {d : Dev} {bit : Nat} (src : Nat) (mdb : Bool) (h : bit < 32) (hm : d.pwr.mode = .holdover)
    (ht : d.pwr.trans = .idle) : d.wake bit src mdb = (d.wakeLogged bit src mdb).wakeAct := by
  obtain ⟨hm', ht', -⟩ := wakeLogged_parts d src mdb h
  have hw : d.wake bit src mdb = match (d.wakeLogged bit src mdb).pwr.trans with
      | .agreeing _ _ _ _ _ _ =>
        let e := (d.wakeLogged bit src mdb).setPwr (fun p => { p with trans := .idle, sleepFlushed := false })
        let e := (e.logEvent 0x08 0 0).reqDone 5
        if e.mode = .stop then e else e.enterMode .stop
      | .powerDown => (d.wakeLogged bit src mdb).setPwr (fun p => { p with wakePending := true })
      | _ => if (d.wakeLogged bit src mdb).mode = .holdover then (d.wakeLogged bit src mdb).wakeAct
        else d.wakeLogged bit src mdb := by exact rfl
  rw [hw, ht', ht]
  exact if_pos (hm'.trans hm)

/-! ### Samples -/

/-- One bit of a vector stored. -/
theorem getLsbD_put {n : Nat} (w : BitVec n) {i : Nat} (hi : i < n) (v : Bool) (j : Nat) :
    (if v then w ||| BitVec.ofNat n (2 ^ i) else w &&& ~~~ BitVec.ofNat n (2 ^ i)).getLsbD j = if j = i then v else w.getLsbD j := by
  have hbit : ∀ j, (BitVec.ofNat n (2 ^ i)).getLsbD j = (decide (j < n) && decide (i = j)) := fun j => by
    rw [BitVec.getLsbD_ofNat, Nat.testBit_two_pow]
  cases v
  · simp only [Bool.false_eq_true, if_false, BitVec.getLsbD_and, BitVec.getLsbD_not, hbit]
    by_cases hj : j = i
    · subst hj
      simp
    · by_cases hn : j < n
      · simp [hj, Ne.symm hj, hn]
      · simp [hj, Ne.symm hj, BitVec.getLsbD_of_ge w j (by omega)]
  · simp only [if_true, BitVec.getLsbD_or, hbit]
    by_cases hj : j = i
    · subst hj
      simp [hi]
    · simp [hj, Ne.symm hj]

/-- A debounced change of a local switch that wakes nothing. -/
theorem lswLevel_changes {d : Dev} {i : Nat} {v : Bool} {seen : Nat} (hup : d.aonUp = true) (hg : (d.tb.now - d.pwr.porAt) % 10000 = 0)
    (hs : d.f (PWR_LSW_CFG i) 15 0 < seen) (hv : d.pwr.lsw.getLsbD i ≠ v) (hw : d.b PWR_WAKE_CTRL i = false) :
    d.lswLevel i v seen = (d.setPwr (fun p =>
      { p with lsw := if v then p.lsw ||| BitVec.ofNat 4 (2 ^ i) else p.lsw &&& ~~~ BitVec.ofNat 4 (2 ^ i) })).logEvent 0x07 i
        (b2n v) := by
  have hctrl : ∀ f : Pwr → Pwr, ((d.setPwr f).logEvent 0x07 i (b2n v)).b PWR_WAKE_CTRL i = false := by
    intro f
    rw [Dev.b, logEvent_r _ _ _ _ _ (by intro i _ j _; simp only [PWR_WAKE_CTRL, PWR_LOG]; omega) (by decide)]
    exact hw
  unfold Dev.lswLevel
  rw [if_neg (by simp [hup, Dev.onGrid, hg, debounced, hs])]
  have hne : (d.pwr.lsw.getLsbD i != v) = true := by simpa using hv
  simp only [hne, if_true]
  rw [hctrl, Bool.and_false]
  exact if_neg (by decide)

theorem lswLevel_bouncing {d : Dev} {i : Nat} {v : Bool} {seen : Nat} (hs : seen ≤ d.f (PWR_LSW_CFG i) 15 0) :
    d.lswLevel i v seen = d := if_pos (by simp [debounced, hs])

/-- A debounced change of a comparator that wakes nothing. -/
theorem cmpLevel_changes {d : Dev} {c mv seen : Nat} {v : Bool} (hup : d.aonUp = true) (hg : (d.tb.now - d.pwr.porAt) % 100 = 0)
    (hs : d.f (PWR_CMP_CFG c) 31 16 < seen) (hv : d.pwr.cmp.getLsbD c ≠ v) (hw : d.b PWR_WAKE_CTRL (4 + c) = false)
    (hmv : cmpValue (d.f (PWR_CMP_CFG c) 7 0) (d.f (PWR_CMP_CFG c) 11 8) mv (d.pwr.cmp.getLsbD c) = v) :
    d.cmpLevel c mv seen = (d.setPwr (fun p =>
      { p with cmp := if v then p.cmp ||| BitVec.ofNat 8 (2 ^ c) else p.cmp &&& ~~~ BitVec.ofNat 8 (2 ^ c) })).logEvent 0x06 c
        (b2n (!v)) := by
  have hctrl : ∀ f : Pwr → Pwr, ((d.setPwr f).logEvent 0x06 c (b2n (!v))).b PWR_WAKE_CTRL (4 + c) = false := by
    intro f
    rw [Dev.b, logEvent_r _ _ _ _ _ (by intro i _ j _; simp only [PWR_WAKE_CTRL, PWR_LOG]; omega) (by decide)]
    exact hw
  unfold Dev.cmpLevel
  dsimp only
  rw [if_neg (by simp [hup, Dev.onGrid, hg, debounced, hs]), hmv]
  have hne : (d.pwr.cmp.getLsbD c != v) = true := by simpa using hv
  simp only [hne, if_true]
  rw [hctrl, Bool.and_false]
  exact if_neg (by decide)

theorem cmpLevel_bouncing {d : Dev} {c mv seen : Nat} (hs : seen ≤ d.f (PWR_CMP_CFG c) 31 16) : d.cmpLevel c mv seen = d :=
  if_pos (by simp [debounced, hs])

theorem cmpValue_eq {thr hyst mv : Nat} (was : Bool) {v : Bool} (h : if v then 5 * (thr + hyst) < mv else mv < 5 * thr) :
    cmpValue thr hyst mv was = v := by
  unfold cmpValue
  cases v
  · exact if_pos (by simpa using h)
  · have h' : 5 * (thr + hyst) < mv := by simpa using h
    rw [if_neg (by omega), if_pos h']

/-! ### The sleep agreement and the flush -/

/-- The commit point of a sleep starts the power-down. -/
theorem sleepCommit_parts (d : Dev) : d.sleepCommit.pwr.trans = .powerDown ∧ d.sleepCommit.pwr.pwrEn = false ∧
    d.sleepCommit.pwr.mode = d.pwr.mode ∧ d.sleepCommit.mem = d.mem := by
  have hload : ∀ x : Dev, x = (if d.b TB_STAT 0 then d.holdLoad else d.wb PWR_HOLD_STAT 0 true) →
      x.pwr.mode = d.pwr.mode ∧ x.mem = d.mem := by
    rintro x rfl
    split
    · exact ⟨rfl, rfl⟩
    · exact ⟨rfl, rfl⟩
  obtain ⟨hm, hmem⟩ := hload _ rfl
  unfold Dev.sleepCommit
  dsimp only
  refine ⟨?_, ?_, ?_, ?_⟩
  · rw [powerEn_pwr]; rfl
  · rw [powerEn_pwr]
  · rw [powerEn_pwr]; exact hm
  · rw [(powerEn_parts ..).1]; exact hmem

/-- A flush that has ended stands in its slot. -/
theorem flushComplete_parts {d : Dev} {b : Bool} (h : d.pwr.flushing = some b) :
    d.flushComplete.pwr.flushing = none ∧ d.flushComplete.mem = d.mem ∧
    d.flushComplete.pwr.flash = tset d.pwr.flash d.pwr.flushPage ⟨flushHead d.pwr.flushSeq d.pwr.flushImg, d.pwr.flushImg⟩ := by
  unfold Dev.flushComplete
  rw [h]
  dsimp only
  refine ⟨?_, ?_, ?_⟩
  · simp only [logEvent_pwr, Dev.wf_frame, Dev.setPwr_frame]
  · simp only [logEvent_parts, Dev.wf_frame, Dev.setPwr_frame]
  · simp only [logEvent_pwr, Dev.wf_frame, Dev.setPwr_frame]

theorem flushHead_valid (seq : Word) (img : List Host.Cell) : FlushSlot.valid ⟨flushHead seq img, img⟩ = true := decide_eq_true rfl

/-- A flush starts where one is allowed and none is under way. -/
theorem flushStart_parts {d : Dev} (sleep : Bool) (hc : d.b PWR_FLUSH_CFG 0 = true) (hf : d.pwr.flushing = none) :
    (d.flushStart sleep).pwr.flushing.isSome = true ∧ (d.flushStart sleep).pwr.pfw = d.pwr.pfw ∧
    (d.flushStart sleep).pwr.mode = d.pwr.mode ∧ (d.flushStart sleep).mem = d.mem := by
  unfold Dev.flushStart
  rw [if_neg (by simp [hc, hf])]
  exact ⟨rfl, rfl, rfl, rfl⟩

/-- The warning itself: its state, its two flags, and its log entry. -/
def Dev.pfwNoted (d : Dev) : Dev :=
  (((d.setPwr (fun p => { p with pfw := true })).wb PWR_PFW_STAT 0 true).wb PWR_PFW_STAT 1 true).logEvent 0x04 0 0

theorem pfwNoted_parts (d : Dev) : d.pfwNoted.pwr =
      { d.pwr with pfw := true, logCount := d.pwr.logCount + 1, logSeq := wrapAdd 16 d.pwr.logSeq 1 } ∧
    d.pfwNoted.mem = d.mem ∧ d.pfwNoted.scn = d.scn ∧ d.pfwNoted.r PWR_FLUSH_CFG = d.r PWR_FLUSH_CFG := by
  unfold Dev.pfwNoted
  refine ⟨?_, ?_, ?_, ?_⟩
  · simp only [logEvent_pwr, Dev.wb_frame, Dev.setPwr_frame]
  · simp only [logEvent_parts, Dev.wb_frame, Dev.setPwr_frame]
  · simp only [logEvent_parts, Dev.wb_frame, Dev.setPwr_frame]
  · rw [logEvent_r _ _ _ _ _ (by intro i _ j _; simp only [PWR_FLUSH_CFG, PWR_LOG]; omega) (by decide),
      Dev.r_wb_ne _ _ _ (by decide), Dev.r_wb_ne _ _ _ (by decide)]
    rfl

/-- A power-fail warning at a scan unit that stands. -/
theorem scanPfw_idle {d : Dev} (hs : d.scn.state = .stop) (hn : d.scn.started = false) (hp : d.scn.phase = .idle) : d.scanPfw = d := by
  have hsettle : d.scanSettle = d := if_pos (by simp [hp])
  unfold Dev.scanPfw
  dsimp only
  rw [hsettle, if_pos hs, if_neg (by simp [hn])]

/-- Settles O2: each event of the always-on domain by its own lemma. -/
theorem wakeAndSleepComplete : Obligations.WakeAndSleepComplete := by
  unfold Obligations.WakeAndSleepComplete
  refine ⟨?timeout, ?retry, ?wake, ?pending, ?lsw, ?lswNot, ?cmp, ?cmpNot, ?agreeOver, ?scan, ?holdover, ?flush, ?pfw, ?pfwNot,
    ?recover, ?recoverNot⟩
  case timeout =>
    intro s t0 hm hw ht hg
    refine completes_lift exec_pgMainTimeout ?_
    have hpg : s.dev.pgTimeout = ((s.dev.logEvent 0x0B 0 0).powerEn false).setPwr (fun p =>
        { p with wakeSince := none, retrySince := some s.dev.tb.now, wakePending := true }) := by
      unfold Dev.pgTimeout
      rw [hw]
      dsimp only
      rw [if_pos (by simp [Dev.mode, hm, ht, hg])]
    obtain ⟨hmem, -⟩ := powerEn_parts (s.dev.logEvent 0x0B 0 0) false
    rw [hpg]
    simp only [Dev.setPwr_frame, powerEn_pwr, logEvent_pwr, hm, hmem, logEvent_parts, and_self]
  case retry =>
    intro s t0 hm hr ht
    refine completes_lift exec_pwrEnRetry ?_
    have hen : s.dev.enRetry = (s.dev.powerEn true).setPwr (fun p =>
        { p with wakeSince := some s.dev.tb.now, retrySince := none, wakePending := false }) := by
      unfold Dev.enRetry
      rw [hr]
      dsimp only
      rw [if_pos (by simp [Dev.mode, hm, ht])]
    obtain ⟨hmem, -⟩ := powerEn_parts s.dev true
    rw [hen]
    simp only [Dev.setPwr_frame, powerEn_pwr, hm, hmem, and_self]
  case wake =>
    intro s hup hm ht hw hr
    refine completes_lift exec_wakePinHigh ?_
    obtain ⟨hm', -, hw', hr', htb, hmem, hb⟩ := wakeLogged_parts s.dev (bit := 14) 0 false (by decide)
    obtain ⟨hmem', hregs⟩ := wakeAct_frame (s.dev.wakeLogged 14 0 false)
    simp only [hup, if_true, wake_idle 0 false (by decide : 14 < 32) hm ht, wakeAct_pwr (hm'.trans hm) (hw'.trans hw)
      (hr'.trans hr), htb]
    refine ⟨trivial, trivial, ?_, hm'.trans hm, hmem'.trans hmem⟩
    rw [Dev.b, Dev.r, hregs]
    exact hb
  case pending =>
    intro s hp hm hw hr
    refine completes_lift exec_pendingWakeAct ?_
    simp only [hp, if_true, wakeAct_pwr hm hw hr, true_and]
    exact (wakeAct_frame s.dev).1
  case lsw =>
    intro s i v seen hup hg hs hv hw
    refine completes_lift exec_lswDebounced ?_
    simp only [lswLevel_changes hup hg hs hv hw, logEvent_pwr, logEvent_wakeCause, logEvent_parts, Dev.setPwr_frame,
      getLsbD_put _ i.isLt, if_true, true_and, and_self, and_true]
    exact fun j hj => if_neg hj
  case lswNot =>
    intro s i v seen hs
    exact completes_lift exec_lswDebounced (lswLevel_bouncing hs)
  case cmp =>
    intro s c mv seen v hup hg hs hv hw hmv
    refine completes_lift exec_cmpDebounced ?_
    simp only [cmpLevel_changes hup hg hs hv hw (cmpValue_eq _ hmv), logEvent_pwr, logEvent_wakeCause, logEvent_parts,
      Dev.setPwr_frame, getLsbD_put _ c.isLt, if_true, true_and, and_self, and_true]
    exact fun j hj => if_neg hj
  case cmpNot =>
    intro s c mv seen hs
    exact completes_lift exec_cmpDebounced (cmpLevel_bouncing hs)
  case agreeOver =>
    intro s src t0 cu sc se hb ht hover
    refine completes_lift exec_sleepAgreeTimeout ?_
    have hend : s.dev.agreeTimeout =
        ((s.dev.setPwr (fun p => { p with trans := .idle, sleepFlushed := false })).logEvent 0x0A 0 0).reqDone 4 := by
      unfold Dev.agreeTimeout
      rw [ht]
      exact (if_pos hover).trans (if_pos (by rw [Dev.agreeing, ht]))
    rw [hend]
    simp only [reqDone_pwr, reqDone_mem, logEvent_pwr, logEvent_parts, Dev.setPwr_frame, and_self]
  case scan =>
    intro s src t0 cu se hb ht hf
    refine completes_lift exec_sleepPartyAgree ?_
    have hagree : s.dev.partyAgree .scan = (s.dev.setPwr (fun x => { x with trans := .agreeing src t0 cu true se hb })).sleepTry := by
      unfold Dev.partyAgree
      rw [ht]
      exact if_pos hf
    have htry : ∀ x : Dev, x = s.dev.setPwr (fun x => { x with trans := .agreeing src t0 cu true se hb }) →
        x.sleepTry = if cu && true && se && hb then x.sleepCommit else x := by
      rintro x rfl
      rfl
    rw [hagree, htry _ rfl, Bool.and_true]
    obtain ⟨h1, h2, h3, h4⟩ := sleepCommit_parts (s.dev.setPwr (fun x => { x with trans := .agreeing src t0 cu true se hb }))
    split
    · exact ⟨⟨h1, h2⟩, h3, h4⟩
    · exact ⟨rfl, rfl, rfl⟩
  case holdover =>
    intro s ht hg hm
    refine completes_lift exec_holdoverEntry ?_
    have henter : ∀ x : Dev, x.pwr.mode = s.dev.pwr.mode →
        ((x.enterMode .holdover).setPwr (fun p => { p with mainUp := false })).pwr.mode = .holdover ∧
        ((x.enterMode .holdover).setPwr (fun p => { p with mainUp := false })).pwr.mainUp = false :=
      fun x hx => ⟨enterMode_mode x _ (Or.inl (by rw [hx]; exact hm)), rfl⟩
    unfold Dev.holdoverEnter
    rw [if_pos (by simp [ht, hg])]
    refine henter _ ?_
    split
    · rfl
    · exact reqDone_mode ..
  case flush =>
    intro s b e hf
    refine completes_lift exec_retainedFlushComplete ?_
    obtain ⟨hmem, hpwr, -⟩ := ownEcc_parts s.dev e
    obtain ⟨h1, h2, h3⟩ := flushComplete_parts (d := s.dev.ownEcc e) (b := b) (by rw [hpwr]; exact hf)
    simp only [hf, Option.isSome_some, if_true, h1, h2, h3, hmem, hpwr, true_and, and_true]
    refine ⟨⟨_, ?_, flushHead_valid .., rfl, rfl⟩, fun q hq => ?_⟩
    · rw [tfind_tset, if_pos rfl]
    · rw [tfind_tset, if_neg hq]
  case pfw =>
    intro s mv seen hup hp hm ht hs hn hph hc hf hmv hd
    refine completes_lift exec_pfwAssert ?_
    obtain ⟨hpwr, hmem, hscn, hcfg⟩ := pfwNoted_parts s.dev
    have hon : s.dev.pfwOn mv seen = s.dev.pfwNoted.flushStart false := by
      have hidle : s.dev.pfwNoted.pwr.trans = .idle := by rw [hpwr]; exact ht
      have hscan : s.dev.pfwNoted.scanPfw = s.dev.pfwNoted :=
        scanPfw_idle (by rw [hscn, hs]) (by rw [hscn, hn]) (by rw [hscn, hph])
      have hmode : s.dev.pfwNoted.modeIn [.stop, .run, .hold, .spare, .safe] = true := by
        rw [Dev.modeIn, hpwr, hm]
        rfl
      unfold Dev.pfwOn
      rw [if_neg (by simp [hup, hp, hmv, debounced, hd])]
      refine (if_neg (by rw [← Dev.pfwNoted, hmode, hidle]; decide)).trans ?_
      rw [← Dev.pfwNoted]
      dsimp only
      rw [hscan]
      exact if_neg (by rw [Dev.agreeing, hidle]; decide)
    rw [hon]
    obtain ⟨h1, h2, h3, h4⟩ := flushStart_parts (d := s.dev.pfwNoted) false (by rw [Dev.b, hcfg]; exact hc) (by rw [hpwr]; exact hf)
    exact ⟨h2.trans (by rw [hpwr]), h1, h3.trans (by rw [hpwr]; exact hm), h4.trans hmem⟩
  case pfwNot =>
    intro s mv seen h
    refine completes_lift exec_pfwAssert (if_pos ?_)
    rcases h with h | h <;> simp [debounced, h]
  case recover =>
    intro s mv ms hup hp hmay hmv hms
    refine completes_lift exec_pfwRecover ?_
    have hmay' : (((s.dev.setPwr (fun p => { p with pfw := false })).wb PWR_PFW_STAT 1 false).logEvent 0x05 0 0).warmMay = true := by
      rw [← hmay]
      simp only [Dev.warmMay, Dev.mode, logEvent_pwr, Dev.wb_frame, Dev.setPwr_frame]
    unfold Dev.pfwOff
    rw [if_neg (by simp [hup, hp, hmv, hms])]
    dsimp only
    rw [if_pos hmay']
    obtain ⟨h1, h2, h3, h4⟩ := warmPulse_leaves
      (((s.dev.setPwr (fun p => { p with pfw := false })).wb PWR_PFW_STAT 1 false).logEvent 0x05 0 0) (i := 3) (by decide)
    refine ⟨?_, h1, h3, ?_⟩
    · rw [h2]
      simp only [logEvent_pwr, Dev.wb_frame, Dev.setPwr_frame]
    · rw [h4]
      simp only [logEvent_parts, Dev.wb_frame, Dev.setPwr_frame]
  case recoverNot =>
    intro s mv ms h
    refine completes_lift exec_pfwRecover (if_pos ?_)
    rcases h with h | h <;> simp [h]

end Sys2Proof.Machine
end

section
/-!
SUPPORT. Registers below the MBX block through a bell, and the operations of the time base, part by part (R60, R64, R69, R71,
R89, R94, R95).
-/
namespace Sys2Proof.Machine

/-! ### Registers and bits through a bell -/

theorem ringBit_r_ne (d : Dev) {b : BellReg} (i : Nat) {a : Nat} (h : a < 0x500000) (hne : a ≠ b.addr) :
    (d.ringBit b i).r a = d.r a := by rw [ringBit_r _ _ _ _ h, if_neg hne]

theorem Dev.b_wb_self (d : Dev) (a : Nat) {i : Nat} (v : Bool) (h : i < 32) : (d.wb a i v).b a i = v := by
  rw [Dev.b, Dev.r_wb_self, bitOf_setBit_self _ _ _ h]

theorem Dev.f_wf_self (d : Dev) (a : Nat) {hi lo : Nat} (v : Nat) (h : hi < 32) (hl : lo ≤ hi) :
    (d.wf a hi lo v).f a hi lo = v % 2 ^ (hi + 1 - lo) := by
  rw [Dev.f, Dev.r_wf_self, fld_setFld_self _ _ _ _ h hl]

/-! ### The time base -/

theorem gatePend_frame (d : Dev) (p : Nat) : (d.gatePend p).tb = d.tb ∧ (d.gatePend p).pwr = d.pwr ∧ (d.gatePend p).regs = d.regs ∧
    (d.gatePend p).mem = d.mem := by
  unfold Dev.gatePend
  dsimp only
  split
  · exact ⟨rfl, rfl, rfl, rfl⟩
  · split
    · exact ⟨rfl, rfl, rfl, rfl⟩
    · exact ⟨rfl, rfl, rfl, rfl⟩

/-- A second boundary touches the gate lists alone. -/
theorem gateSecond_frame (d : Dev) : d.gateSecond.tb = d.tb ∧ d.gateSecond.pwr = d.pwr ∧ d.gateSecond.regs = d.regs ∧
    d.gateSecond.mem = d.mem :=
  ⟨each_keeps Dev.tb _ _ (fun d p => (gatePend_frame d p).1) d, each_keeps Dev.pwr _ _ (fun d p => (gatePend_frame d p).2.1) d,
    each_keeps Dev.regs _ _ (fun d p => (gatePend_frame d p).2.2.1) d,
    each_keeps Dev.mem _ _ (fun d p => (gatePend_frame d p).2.2.2) d⟩

/-- With PPS_OUT off, nothing leaves at a second. -/
theorem ppsOut_off {d : Dev} (h : d.b TB_PPS_OUT_CFG 0 = false) : d.ppsOut = d := if_neg (by simp [h])

/-- The second boundary before its bell. -/
def Dev.secondMarked (d : Dev) : Dev := ({ d with tb := { d.tb with secondDue := false } }).anchorNow.gateSecond

theorem secondMarked_parts (d : Dev) :
    d.secondMarked.tb = { d.tb with secondDue := false, anchor := ⟨d.tb.st, d.tb.sec, d.tb.ns, d.gen⟩ } ∧
    d.secondMarked.pwr = d.pwr ∧ d.secondMarked.regs = d.regs := by
  obtain ⟨htb, hpwr, hregs, -⟩ := gateSecond_frame ({ d with tb := { d.tb with secondDue := false } } : Dev).anchorNow
  exact ⟨htb, hpwr, hregs⟩

theorem tsqStat_frame (d : Dev) (p : Nat) : (d.tsqStat p).tb = d.tb ∧ (d.tsqStat p).mem = d.mem := ⟨rfl, rfl⟩

/-- PPS_IN's edge with its stamp stored, before its bell. -/
def Dev.ppsStamped (d : Dev) (back : Nat) : Dev :=
  { (d.w TB_PPS_IN_ST (d.stampBack back).st).w TB_PPS_IN_FRAC (w32 ((d.stampBack back).quarter + 4 * (d.stampBack back).gen)) with
    tb := { d.tb with ppsUnread := true } }

/-- An edge of PPS_IN that both directions capture and the servo does not follow. -/
theorem ppsIn_stamped {d : Dev} (rising : Bool) (back : Nat) (ws wf : Bool) (hup : d.pwr.mainUp = true)
    (hcfg : d.f TB_PPS_IN_CFG 1 0 = 3) (hsrv : d.b TB_SRV_CFG 0 = false) (hun : d.tb.ppsUnread = false) :
    d.ppsIn rising back ws wf = (d.ppsStamped back).ringBit .tb 6 := by
  have hsrv' : ((d.ppsStamped back).ringBit .tb 6).b TB_SRV_CFG 0 = false := by
    rw [Dev.b, ringBit_r_ne _ _ (by decide) (by decide), Dev.ppsStamped, Dev.r_with_tb, Dev.r_w_ne _ _ (by decide),
      Dev.r_w_ne _ _ (by decide)]
    exact hsrv
  unfold Dev.ppsIn
  rw [if_neg (by simp [hup, hcfg])]
  simp only [hun, Bool.false_eq_true, if_false]
  exact if_neg (fun h => Bool.noConfusion (h.symm.trans hsrv'))

/-- A change of the reference while the loop already relocks. -/
theorem clkCfg_again {d : Dev} (who : Initiator) {v : Word} (hm : d.modeIn [.boot, .provision, .stop] = true)
    (hne : bitOf v 0 ≠ d.b TB_CLK_CFG 0) (hl : d.tb.relocking = true) :
    d.clkCfg who v = (d.wb TB_CLK_CFG 0 (bitOf v 0)).wb TB_STAT 9 false := by
  unfold Dev.clkCfg
  rw [if_neg (by simp [hm]), if_neg hne]
  exact if_pos hl

/-- A change of the reference starts a relock. -/
theorem clkCfg_first {d : Dev} (who : Initiator) {v : Word} (hm : d.modeIn [.boot, .provision, .stop] = true)
    (hne : bitOf v 0 ≠ d.b TB_CLK_CFG 0) (hl : ¬ d.tb.relocking = true) :
    d.clkCfg who v = { (d.wb TB_CLK_CFG 0 (bitOf v 0)).wb TB_STAT 9 false with
      tb := { d.tb with relocking := true, relockAt := d.tb.now } } := by
  unfold Dev.clkCfg
  rw [if_neg (by simp [hm]), if_neg hne]
  exact if_neg hl

theorem r_of_regs {d e : Dev} (h : d.regs = e.regs) (a : Nat) : d.r a = e.r a := by rw [Dev.r, h, Dev.r]

/-- Settles O3: each read and event of the time base by what its operation leaves. -/
theorem timeBaseReadsComplete : Obligations.TimeBaseReadsComplete := by
  unfold Obligations.TimeBaseReadsComplete
  refine ⟨?wrap, ?st, ?tai, ?anchor, ?tsq, ?pps, ?ref, ?relock, ?lost, ?second⟩
  case wrap =>
    intro s hw
    refine completes_lift exec_shortTimeWrap ?_
    simp only [hw, if_true]
    refine ⟨by simp only [ringBit_parts, Dev.w_frame], by simp only [ringBit_parts, Dev.w_frame], ?_,
      ringBit_b _ (b := .tb) (by decide) (by decide), by simp only [ringBit_parts, Dev.w_frame]⟩
    rw [ringBit_r_ne _ _ (by decide) (by decide), Dev.r_w_self]
  case st =>
    intro s who hr
    exact completes_lift exec_tbStRead (accessR_of_reaches hr)
  case tai =>
    intro s who hr
    exact completes_lift exec_taiRead (accessR_of_reaches hr)
  case anchor =>
    intro s who hr
    refine completes_lift exec_anchorRead ?_
    simp only [accessR_of_reaches hr]
    unfold Dev.anchorReadOp
    dsimp only
    refine ⟨?_, ?_, ⟨_, rfl⟩, rfl, rfl⟩
    · simp only [answer_parts]
      rw [Dev.r_w_ne _ _ (by decide), Dev.r_w_ne _ _ (by decide), Dev.r_w_self]
    · simp only [answer_parts]
      rw [Dev.r_w_ne _ _ (by decide), Dev.r_w_self]
  case tsq =>
    intro s who p hr ho
    refine completes_lift exec_tsqPop ?_
    have hpop : s.dev.tsqRead who p 3 = (s.dev.tsqHead p 3,
        ({ s.dev with tb := { s.dev.tb with tsq := tmod [] s.dev.tb.tsq p (fun l => l.drop 1) } } : Dev).tsqStat p) := by
      unfold Dev.tsqRead
      rw [if_neg (by simp [ho])]
      rfl
    have hhead : s.dev.tsqHead p 3 = if (tget [] s.dev.tb.tsq p).isEmpty then 0 else 1 := by
      unfold Dev.tsqHead
      cases tget [] s.dev.tb.tsq p <;> rfl
    simp only [accessR_of_reaches hr, hpop, hhead]
    refine ⟨?_, fun j hj => ?_, ⟨_, rfl⟩, rfl⟩
    · exact tget_tmod_self ..
    · exact tget_tmod_ne _ _ _ _ _ hj
  case pps =>
    intro s rising back ws wf hup hcfg hsrv hun
    refine completes_lift exec_ppsInEdge ?_
    rw [ppsIn_stamped rising back ws wf hup hcfg hsrv hun]
    refine ⟨?_, ?_, ?_, ringBit_b _ (b := .tb) (by decide) (by decide), ?_⟩
    · rw [ringBit_r_ne _ _ (by decide) (by decide), Dev.ppsStamped, Dev.r_with_tb, Dev.r_w_ne _ _ (by decide), Dev.r_w_self]
    · rw [ringBit_r_ne _ _ (by decide) (by decide), Dev.ppsStamped, Dev.r_with_tb, Dev.r_w_self]
    · simp only [ringBit_parts]
      rfl
    · simp only [ringBit_parts]
      rfl
  case ref =>
    intro s who v hr hm hne
    refine completes_lift exec_refSelect ?_
    simp only [access_of_reaches hr]
    have hreg : ((s.dev.wb TB_CLK_CFG 0 (bitOf v 0)).wb TB_STAT 9 false).b TB_CLK_CFG 0 = bitOf v 0 := by
      rw [Dev.b, Dev.r_wb_ne _ _ _ (by decide)]
      exact Dev.b_wb_self _ _ _ (by decide)
    have hstat : ((s.dev.wb TB_CLK_CFG 0 (bitOf v 0)).wb TB_STAT 9 false).b TB_STAT 9 = false := Dev.b_wb_self _ _ _ (by decide)
    by_cases hl : s.dev.tb.relocking = true
    · rw [clkCfg_again who hm hne hl, if_pos hl]
      refine ⟨hreg, hstat, ?_, rfl⟩
      conv_rhs => rw [← hl]
      rfl
    · rw [clkCfg_first who hm hne hl, if_neg hl]
      exact ⟨hreg, hstat, rfl, rfl⟩
  case relock =>
    intro s
    refine completes_lift exec_tbPllRelock ?_
    dsimp only
    by_cases hl : s.dev.tb.relocking = true
    · rw [if_pos hl]
      refine ⟨?_, rfl, fun _ => ?_, rfl⟩
      · rw [Dev.b, Dev.r_wf_ne _ _ _ _ (by decide)]
        exact Dev.b_wb_self _ _ _ (by decide)
      · rw [Dev.f_wf_self _ _ _ (by decide) (by decide), Nat.mod_eq_of_lt]
        exact Nat.lt_of_le_of_lt (Nat.min_le_left ..) (by decide)
    · rw [if_neg hl]
      refine ⟨Dev.b_wb_self _ _ _ (by decide), ?_, fun h => absurd h hl, rfl⟩
      rw [Bool.not_eq_true] at hl
      rw [← hl]
      rfl
  case lost => exact fun s => completes_lift exec_tbRefLost rfl
  case second =>
    intro s hd hv hp
    refine completes_lift exec_taiSecond ?_
    obtain ⟨htb, hpwr, hregs⟩ := secondMarked_parts s.dev
    have hv' : (s.dev.secondMarked.ringBit .tb 1).b TB_STAT 0 = true := by
      rw [Dev.b, ringBit_r_ne _ _ (by decide) (by decide), r_of_regs hregs]
      exact hv
    have hp' : ((s.dev.secondMarked.ringBit .tb 1).holdLoad).b TB_PPS_OUT_CFG 0 = false := by
      unfold Dev.holdLoad
      rw [Dev.b, Dev.r_wb_ne _ _ _ (by decide)]
      refine (congrArg (bitOf · 0) (ringBit_r_ne _ _ (by decide) (by decide))).trans ?_
      rw [r_of_regs hregs]
      exact hp
    have hsec : s.dev.second = (s.dev.secondMarked.ringBit .tb 1).holdLoad := by
      unfold Dev.second
      rw [if_neg (by simp [hd])]
      exact (if_pos hv').trans (ppsOut_off hp')
    rw [hsec]
    have htb' : (s.dev.secondMarked.ringBit .tb 1).tb = s.dev.secondMarked.tb := (ringBit_parts ..).2.2.1
    refine ⟨htb'.trans htb, ?_, Dev.b_wb_self _ _ _ (by decide), ?_⟩
    · show (s.dev.secondMarked.ringBit .tb 1).taiNs = _
      rw [Dev.taiNs, htb', htb]
      rfl
    · unfold Dev.holdLoad
      rw [Dev.b, Dev.r_wb_ne _ _ _ (by decide)]
      exact ringBit_b _ (b := .tb) (by decide) (by decide)

end Sys2Proof.Machine
end

section
/-!
SUPPORT. The servo and its jump machine: what a handoff, a jump and a judged commit leave (R71-R79, R536).
-/
namespace Sys2Proof.Machine

/-- The modulus of TAI in 2^-48 ns. -/
def taiSpan : Nat := 2 ^ 48 * 1000000000 * 2 ^ 48

theorem tai48_tai48Set (d : Dev) (t : Int) : (d.tai48Set t).tai48 = t % (taiSpan : Int) := by
  have hpos : (0 : Int) ≤ t % (taiSpan : Int) := Int.emod_nonneg _ (by decide)
  have hrec : ∀ n : Nat, (n / 2 ^ 48 / 1000000000 * 1000000000 + n / 2 ^ 48 % 1000000000) * 2 ^ 48 + n % 2 ^ 48 = n := fun n => by
    omega
  unfold Dev.tai48Set Dev.tai48
  dsimp only
  rw [hrec]
  exact Int.toNat_of_nonneg hpos

theorem jump_jumpSet (d : Dev) {s : Nat} (c : Nat) (h : s < 4) : (d.jumpSet s c).jump = s := by
  unfold Dev.jumpSet Dev.jump Dev.f
  rw [Dev.r_wf_self, fld_setFld_ne _ _ _ _ _ _ (by decide) (by decide) (by decide), Dev.r_wf_self,
    fld_setFld_self _ _ _ _ (by decide) (by decide)]
  exact Nat.mod_eq_of_lt h

theorem jumpSet_r_ne (d : Dev) (s c : Nat) {a : Nat} (h : a ≠ TB_JUMP_STAT) : (d.jumpSet s c).r a = d.r a := by
  unfold Dev.jumpSet
  rw [Dev.r_wf_ne _ _ _ _ h, Dev.r_wf_ne _ _ _ _ h]

theorem jumpSet_parts (d : Dev) (s c : Nat) : (d.jumpSet s c).tb = d.tb ∧ (d.jumpSet s c).mem = d.mem := ⟨rfl, rfl⟩

theorem anchorNow_r (d : Dev) (a : Nat) : d.anchorNow.r a = d.r a := rfl

/-- TAI, in its three counters. -/
def Dev.tai (d : Dev) : Nat × Nat × Nat := (d.tb.sec, d.tb.ns, d.tb.frac)

theorem jumpSet_tai (d : Dev) (s c : Nat) : (d.jumpSet s c).tai = d.tai := rfl

theorem tai48_of_tai {d e : Dev} (h : d.tai = e.tai) : d.tai48 = e.tai48 := by
  simp only [Dev.tai, Prod.mk.injEq] at h
  obtain ⟨hs, hn, hf⟩ := h
  rw [Dev.tai48, Dev.tai48, hs, hn, hf]

/-- TAI becomes valid: TRACKING, the source, the bell; TAI itself stays (R71, R72). -/
theorem taiHandoff_parts (d : Dev) {src : Nat} (h : src < 4) : (d.taiHandoff src).jump = 1 ∧ (d.taiHandoff src).b TB_STAT 0 = true ∧
    (d.taiHandoff src).f TB_STAT 2 1 = src ∧ (d.taiHandoff src).b TB_BELL 5 = true ∧ (d.taiHandoff src).tai = d.tai ∧
    (d.taiHandoff src).mem = d.mem := by
  have hstat : (d.taiHandoff src).r TB_STAT = setFld (setBit (d.r TB_STAT) 0 true) 2 1 src := by
    unfold Dev.taiHandoff
    dsimp only
    rw [ringBit_r_ne _ _ (by decide) (by decide), jumpSet_r_ne _ _ _ (by decide), anchorNow_r, Dev.r_wf_self, Dev.r_wb_self]
  refine ⟨?_, ?_, ?_, ringBit_b _ (b := .tb) (by decide) (by decide), ?_, ?_⟩
  · unfold Dev.taiHandoff
    exact (congrArg (fld · 1 0) (ringBit_r_ne _ _ (by decide) (by decide))).trans (jump_jumpSet _ 0 (by decide))
  · rw [Dev.b, hstat, bitOf_setFld _ _ _ _ _ (by decide) (by decide), if_neg (by decide), bitOf_setBit_self _ _ _ (by decide)]
  · rw [Dev.f, hstat, fld_setFld_self _ _ _ _ (by decide) (by decide)]
    exact Nat.mod_eq_of_lt h
  · unfold Dev.taiHandoff Dev.tai
    simp only [ringBit_parts, jumpSet_parts]
    rfl
  · unfold Dev.taiHandoff
    simp only [ringBit_parts, jumpSet_parts]
    rfl

/-- A change of valid TAI: the generation, the anchor and the bell; TAI and the servo's state stay (R64, R66). -/
theorem genStep_parts (d : Dev) (c : Int) : (d.genStep c).gen = (d.gen + 1) % 16 ∧ (d.genStep c).b TB_BELL 3 = true ∧
    (d.genStep c).tai = d.tai ∧ (d.genStep c).tb.now = d.tb.now ∧ (d.genStep c).mem = d.mem := by
  refine ⟨?_, ringBit_b _ (b := .tb) (by decide) (by decide), ?_, ?_, ?_⟩
  · unfold Dev.genStep
    dsimp only
    rw [Dev.gen, Dev.f, ringBit_r_ne _ _ (by decide) (by decide), anchorNow_r, Dev.r_with_tb, Dev.r_incf, if_pos rfl,
      fld_setFld_self _ _ _ _ (by decide) (by decide), Dev.f, Dev.r_w_ne _ _ (by decide), Dev.r_w_ne _ _ (by decide), wrapAdd,
      Dev.gen, Dev.f]
    exact Nat.mod_mod _ _
  · unfold Dev.genStep Dev.tai
    simp only [ringBit_parts]
    rfl
  · unfold Dev.genStep
    simp only [ringBit_parts]
    rfl
  · unfold Dev.genStep
    simp only [ringBit_parts]
    rfl

theorem genStep_r_ne (d : Dev) (c : Int) {a : Nat} (h : a < 0x500000) (h1 : a ≠ TB_JUMP_LAST_LO) (h2 : a ≠ TB_JUMP_LAST_HI)
    (h3 : a ≠ TB_STAT) (h4 : a ≠ TB_BELL) : (d.genStep c).r a = d.r a := by
  unfold Dev.genStep
  dsimp only
  rw [ringBit_r_ne (b := .tb) _ _ h h4, anchorNow_r, Dev.r_with_tb, Dev.r_incf, if_neg h3, Dev.r_w_ne _ _ h2, Dev.r_w_ne _ _ h1]

/-- A jump by −θ (R77). -/
theorem jumpApply_parts (d : Dev) (theta : Int) : (d.jumpApply theta).jump = 1 ∧ (d.jumpApply theta).gen = (d.gen + 1) % 16 ∧
    (d.jumpApply theta).b TB_BELL 3 = true ∧ (d.jumpApply theta).tai48 = (d.tai48 - theta * 2 ^ 32) % (taiSpan : Int) ∧
    (d.jumpApply theta).tb.now = d.tb.now ∧ (d.jumpApply theta).mem = d.mem := by
  obtain ⟨hgen, hbell, htai, hnow, hmem⟩ := genStep_parts (d.tai48Set (d.tai48 - theta * 2 ^ 32)) (-theta)
  unfold Dev.jumpApply
  refine ⟨jump_jumpSet _ 0 (by decide), ?_, ?_, ?_, hnow, hmem⟩
  · exact (congrArg (fld · 8 5) (jumpSet_r_ne _ _ _ (by decide))).trans hgen
  · exact (congrArg (bitOf · 3) (jumpSet_r_ne _ _ _ (by decide))).trans hbell
  · exact (tai48_of_tai htai).trans (tai48_tai48Set ..)

theorem jumpApply_r_ne (d : Dev) (theta : Int) {a : Nat} (h : a < 0x500000) (h1 : a ≠ TB_JUMP_LAST_LO) (h2 : a ≠ TB_JUMP_LAST_HI)
    (h3 : a ≠ TB_STAT) (h4 : a ≠ TB_BELL) (h5 : a ≠ TB_JUMP_STAT) : (d.jumpApply theta).r a = d.r a :=
  (jumpSet_r_ne _ _ _ h5).trans (genStep_r_ne _ _ h h1 h2 h3 h4)

/-- A force in PENDING applies the candidate (R78). -/
theorem jumpForceCmd_pending {d : Dev} {v : Word} (hv : bitOf v 0 = true) (hj : d.jump = 2) :
    d.jumpForceCmd v = d.jumpApply d.tb.candidate := if_pos (by simp [hv, hj])

/-- TAI as the set registers give it. -/
def Dev.taiLoaded (d : Dev) : Dev :=
  { d.wb TB_TAI_SET_CMD 1 false with tb := { d.tb with
      sec := (d.r TB_TAI_SET_SEC_LO).toNat + 2 ^ 32 * d.f TB_TAI_SET_SEC_HI 15 0, ns := (d.r TB_TAI_SET_NS).toNat, frac := 0 } }

/-- A set of TAI that was not valid (R78). -/
theorem taiSetCmd_first {d : Dev} {v : Word} (hv : bitOf v 0 = true) (hn : (d.r TB_TAI_SET_NS).toNat ≤ 999999999)
    (hs : d.b TB_STAT 0 = false) : d.taiSetCmd v = d.taiLoaded.taiHandoff 2 := by
  have hns : (d.wb TB_TAI_SET_CMD 1 false).r TB_TAI_SET_NS = d.r TB_TAI_SET_NS := Dev.r_wb_ne _ _ _ (by decide)
  unfold Dev.taiSetCmd
  rw [if_neg (by simp [hv]), if_neg (by omega), hs]
  dsimp only
  rw [hns]
  rfl

/-! ### Commits -/

/-- A commit that is not judged is counted (R536). -/
theorem commit_discarded {d : Dev} (theta : Int) {set : Bool}
    (h : d.b TB_CTRL 2 = false ∨ d.b TB_SRV_CFG 0 = true ∨ d.logBad = true ∨ set = true) :
    d.commit theta true set = d.satf TB_JUMP_STAT 31 16 1 := by
  refine if_pos ?_
  rcases h with h | h | h | h <;> simp [h]

theorem logBad_of_r {d e : Dev} (h : d.r TB_SRV_CFG = e.r TB_SRV_CFG) : d.logBad = e.logBad := by
  unfold Dev.logBad Dev.f
  rw [h]

theorem commit_judged {d : Dev} (theta : Int) (h1 : d.b TB_CTRL 2 = true) (h2 : d.b TB_SRV_CFG 0 = false) (h3 : d.logBad = false) :
    d.commit theta true false = d.judge theta := if_neg (by simp [h1, h2, h3])

/-- The offset stored, and the loss time begun anew. -/
def Dev.judged (d : Dev) (theta : Int) : Dev :=
  ({ (d.w TB_SRV_LAST_LO (w32 (tc 64 theta))).w TB_SRV_LAST_HI (w32 (tc 64 theta / 2 ^ 32)) with
    tb := { d.tb with lossBase := d.tb.now } } : Dev).wb TB_STAT 3 false

theorem judged_r_ne (d : Dev) (theta : Int) {a : Nat} (h1 : a ≠ TB_SRV_LAST_LO) (h2 : a ≠ TB_SRV_LAST_HI) (h3 : a ≠ TB_STAT) :
    (d.judged theta).r a = d.r a := by
  unfold Dev.judged
  rw [Dev.r_wb_ne _ _ _ h3, Dev.r_with_tb, Dev.r_w_ne _ _ h2, Dev.r_w_ne _ _ h1]

theorem judged_parts (d : Dev) (theta : Int) : (d.judged theta).tai = d.tai ∧ (d.judged theta).tb.lossBase = d.tb.now ∧
    (d.judged theta).mem = d.mem := ⟨rfl, rfl, rfl⟩

theorem jump_judged (d : Dev) (theta : Int) : (d.judged theta).jump = d.jump :=
  congrArg (fld · 1 0) (judged_r_ne d theta (by decide) (by decide) (by decide))

/-- The judgement of R78 by its first two lines: UNSET, and an offset within the limit. -/
theorem judge_cases (d : Dev) (theta : Int) : ∃ z : Dev, d.judge theta =
    if (d.judged theta).jump = 0 then ((d.judged theta).tai48Set ((d.judged theta).tai48 - theta * 2 ^ 32)).taiHandoff 1
    else if theta.natAbs ≤ ((d.judged theta).r TB_JUMP_LIMIT).toNat * 65536 then ((d.judged theta).servo theta).jumpSet 1 0
    else z := by
  unfold Dev.judge
  exact ⟨_, rfl⟩

/-- A commit in UNSET makes TAI valid (R78). -/
theorem judge_unset {d : Dev} (theta : Int) (h : d.jump = 0) :
    d.judge theta = ((d.judged theta).tai48Set ((d.judged theta).tai48 - theta * 2 ^ 32)).taiHandoff 1 := by
  obtain ⟨z, hz⟩ := judge_cases d theta
  rw [hz, jump_judged, if_pos h]

/-- A commit within the limit steers the servo (R78). -/
theorem judge_steers {d : Dev} {theta : Int} (h : d.jump ≠ 0) (hl : theta.natAbs ≤ (d.r TB_JUMP_LIMIT).toNat * 65536) :
    d.judge theta = ((d.judged theta).servo theta).jumpSet 1 0 := by
  obtain ⟨z, hz⟩ := judge_cases d theta
  rw [hz, jump_judged, if_neg h, judged_r_ne d theta (by decide) (by decide) (by decide), if_pos hl]

/-- A step of the servo sets its own two words of state and the clamp's flag. -/
theorem servo_form (d : Dev) (theta : Int) : ∃ (i y : Int) (c : Bool),
    d.servo theta = ({ d with tb := { d.tb with i := i, y := y } } : Dev).wb TB_STAT 4 c := by
  unfold Dev.servo
  exact ⟨_, _, _, rfl⟩

theorem servo_parts (d : Dev) (theta : Int) : (d.servo theta).gen = d.gen ∧ (d.servo theta).tai = d.tai ∧
    (d.servo theta).tb.lossBase = d.tb.lossBase ∧ (d.servo theta).mem = d.mem := by
  obtain ⟨i, y, c, h⟩ := servo_form d theta
  rw [h]
  refine ⟨?_, rfl, rfl, rfl⟩
  rw [Dev.gen, Dev.f, Dev.r_wb_self, fld_setBit_ne _ _ _ _ _ (by decide) (by decide), Dev.r_with_tb, Dev.gen, Dev.f]

theorem gen_judged (d : Dev) (theta : Int) : (d.judged theta).gen = d.gen := by
  unfold Dev.judged
  rw [Dev.gen, Dev.f, Dev.r_wb_self, fld_setBit_ne _ _ _ _ _ (by decide) (by decide), Dev.r_with_tb, Dev.r_w_ne _ _ (by decide),
    Dev.r_w_ne _ _ (by decide)]
  rfl

/-- Settles O4: commits, forces, sets and the loss of commits, by the table of R78. -/
theorem servoComplete : Obligations.ServoComplete := by
  unfold Obligations.ServoComplete
  refine ⟨?first, ?discarded, ?withSet, ?withForce, ?force, ?set, ?loss⟩
  case first =>
    intro s who v hr hv h1 h2 h3 hj
    refine completes_lift exec_servoCommit ?_
    simp only [access_of_reaches hr, hv, if_true, Dev.forceFirst, Bool.false_eq_true, if_false, commit_judged _ h1 h2 h3,
      judge_unset _ hj]
    obtain ⟨g1, g2, g3, g4, g5, g6⟩ := taiHandoff_parts ((s.dev.judged s.dev.stagedTheta).tai48Set
      ((s.dev.judged s.dev.stagedTheta).tai48 - s.dev.stagedTheta * 2 ^ 32)) (src := 1) (by decide)
    exact ⟨g1, g2, g3, g4, (tai48_of_tai g5).trans (tai48_tai48Set ..), g6⟩
  case discarded =>
    intro s who v hr hv h
    refine completes_lift exec_servoCommit ?_
    simp only [access_of_reaches hr, hv, if_true, Dev.forceFirst, Bool.false_eq_true, if_false]
    exact commit_discarded _ (by tauto)
  case withSet =>
    intro s who v hr hv
    refine completes_lift exec_servoCommit ?_
    simp only [access_of_reaches hr, hv, if_true, Dev.forceFirst, Bool.false_eq_true, if_false]
    exact commit_discarded _ (by tauto)
  case withForce =>
    intro s who v hr hv h1 h2 h3 hj hl
    refine completes_lift exec_servoCommit ?_
    obtain ⟨g1, g2, -, g4, g5, g6⟩ := jumpApply_parts s.dev s.dev.tb.candidate
    have hreg : ∀ a, a < 0x500000 → a ≠ TB_JUMP_LAST_LO → a ≠ TB_JUMP_LAST_HI → a ≠ TB_STAT → a ≠ TB_BELL → a ≠ TB_JUMP_STAT →
        (s.dev.jumpApply s.dev.tb.candidate).r a = s.dev.r a := fun a => jumpApply_r_ne s.dev s.dev.tb.candidate
    have hctrl := hreg TB_CTRL (by decide) (by decide) (by decide) (by decide) (by decide) (by decide)
    have hcfg := hreg TB_SRV_CFG (by decide) (by decide) (by decide) (by decide) (by decide) (by decide)
    have hlim := hreg TB_JUMP_LIMIT (by decide) (by decide) (by decide) (by decide) (by decide) (by decide)
    have hcommit := commit_judged (d := s.dev.jumpApply s.dev.tb.candidate) s.dev.stagedTheta
      ((congrArg (bitOf · 2) hctrl).trans h1) ((congrArg (bitOf · 0) hcfg).trans h2)
      ((logBad_of_r hcfg).trans h3)
    have hjudge := judge_steers (d := s.dev.jumpApply s.dev.tb.candidate) (theta := s.dev.stagedTheta)
      (by rw [g1]; decide) (by rw [hlim]; exact hl)
    simp only [access_of_reaches hr, hv, if_true, Dev.forceFirst, jumpForceCmd_pending (v := 1) (by decide) hj, hcommit, hjudge]
    obtain ⟨s1, s2, s3, s4⟩ := servo_parts ((s.dev.jumpApply s.dev.tb.candidate).judged s.dev.stagedTheta) s.dev.stagedTheta
    obtain ⟨j2, j3, j4⟩ := judged_parts (s.dev.jumpApply s.dev.tb.candidate) s.dev.stagedTheta
    refine ⟨jump_jumpSet _ 0 (by decide), ?_, ?_, ?_, ?_⟩
    · rw [Dev.gen, Dev.f, jumpSet_r_ne _ _ _ (by decide)]
      exact s1.trans ((gen_judged ..).trans g2)
    · exact (tai48_of_tai ((jumpSet_tai ..).trans (s2.trans j2))).trans g4
    · rw [(jumpSet_parts ..).1, s3, j3, g5]
    · rw [(jumpSet_parts ..).2, s4, j4, g6]
  case force =>
    intro s who v hr hv hj
    refine completes_lift exec_jumpForce ?_
    obtain ⟨g1, g2, g3, g4, -, g6⟩ := jumpApply_parts s.dev s.dev.tb.candidate
    simp only [access_of_reaches hr, jumpForceCmd_pending hv hj]
    exact ⟨g1, g2, g3, g4, g6⟩
  case set =>
    intro s who v hr hv hns hinv
    refine completes_lift exec_taiSet ?_
    simp only [access_of_reaches hr, taiSetCmd_first hv hns hinv]
    obtain ⟨g1, g2, g3, -, g5, g6⟩ := taiHandoff_parts s.dev.taiLoaded (src := 2) (by decide)
    simp only [Dev.tai, Prod.mk.injEq] at g5
    obtain ⟨hs, hn, hf⟩ := g5
    exact ⟨hn, hs, hf, g2, g3, g1, g6⟩
  case loss =>
    intro s hj ht hup
    refine completes_lift exec_servoLoss ?_
    have hloss : s.dev.lossDue =
        ((({ s.dev with tb := { s.dev.tb with y := s.dev.tb.i } } : Dev).wb TB_STAT 3 true).jumpSet 3 0).ringBit .tb 4 :=
      if_pos (by simp [hj, ht, hup])
    rw [hloss]
    refine ⟨?_, ?_, ?_, ringBit_b _ (b := .tb) (by decide) (by decide), ?_⟩
    · exact (congrArg (fld · 1 0) (ringBit_r_ne _ _ (by decide) (by decide))).trans (jump_jumpSet _ 0 (by decide))
    · simp only [ringBit_parts]
      rfl
    · rw [Dev.b, ringBit_r_ne _ _ (by decide) (by decide), jumpSet_r_ne _ _ _ (by decide)]
      exact Dev.b_wb_self _ _ _ (by decide)
    · simp only [ringBit_parts]
      rfl

end Sys2Proof.Machine
end

section
/-!
SUPPORT. The treadles' operations, part by part: the increment, the phase step and the outputs that it passes (R97-R106).
-/
namespace Sys2Proof.Machine

theorem trdl_setTrdl_self (d : Dev) (n : Nat) (f : Treadle → Treadle) : (d.setTrdl n f).trdl n = f (d.trdl n) := by
  rw [Dev.trdl, Dev.setTrdl, tget_tmod_self, Dev.trdl]

theorem trdl_setTrdl (d : Dev) (n m : Nat) (f : Treadle → Treadle) :
    (d.setTrdl n f).trdl m = if m = n then f (d.trdl n) else d.trdl m := by
  rw [Dev.trdl, Dev.setTrdl, tget_tmod]
  rfl

theorem trdl_of_trd {d x : Dev} (h : d.trd = x.trd) (n : Nat) : d.trdl n = x.trdl n := by
  rw [Dev.trdl, Dev.trdl, h]

/-! ### Pins, bells and the increment -/

/-- What a look at a pin leaves alone: everything but what has left the device. -/
theorem pinSeen_parts (d : Dev) (i : Nat) (before : Option Bool) : (d.pinSeen i before).trd = d.trd ∧
    (d.pinSeen i before).mem = d.mem ∧ (d.pinSeen i before).pwr = d.pwr ∧ (d.pinSeen i before).regs = d.regs :=
  have h : ({ d.pinSeen i before with obs := [] } : Dev) = { d with obs := [] } := pinSeen_butObs d i before
  ⟨(Dev.mk.inj h).2.2.2.2.1, (Dev.mk.inj h).2.1, (Dev.mk.inj h).2.2.1, (Dev.mk.inj h).1⟩

/-- What a pin that a unit drives leaves alone: everything but the pins and what has left the device. -/
theorem actPin_parts (d : Dev) (i : Nat) (level oe : Option Bool) : (d.actPin i level oe).trd = d.trd ∧
    (d.actPin i level oe).mem = d.mem ∧ (d.actPin i level oe).pwr = d.pwr ∧ (d.actPin i level oe).regs = d.regs := by
  unfold Dev.actPin
  exact pinSeen_parts _ _ _

theorem trdPin_parts (d : Dev) (n i src : Nat) (level : Bool) : (d.trdPin n i src level).trd = d.trd ∧
    (d.trdPin n i src level).mem = d.mem ∧ (d.trdPin n i src level).pwr = d.pwr := by
  unfold Dev.trdPin
  split
  · obtain ⟨htrd, hmem, hpwr, -⟩ := actPin_parts d i (some level) (some true)
    exact ⟨htrd, hmem, hpwr⟩
  · exact ⟨rfl, rfl, rfl⟩

theorem trdBell_parts (d : Dev) (n i : Nat) : (d.trdBell n i).trd = d.trd ∧ (d.trdBell n i).mem = d.mem ∧
    (d.trdBell n i).pwr = d.pwr ∧ (d.trdBell n i).tb = d.tb := by
  unfold Dev.trdBell Dev.trdSum
  split
  · exact ⟨rfl, rfl, rfl, rfl⟩
  · split
    · exact ⟨rfl, rfl, rfl, rfl⟩
    · simp

/-- What the lock loop and a ramp keep of a treadle beside its increment. -/
def Treadle.course (t : Treadle) : Option Nat × RampPhase × Nat := (t.lastCross, t.ramp, t.rampAt)

/-- Of treadle `n` the increment and the course; memory and the power modes. -/
def Dev.drive (d : Dev) (n : Nat) : Int × (Option Nat × RampPhase × Nat) × Memory × Pwr :=
  ((d.trdl n).inc, (d.trdl n).course, d.mem, d.pwr)

theorem setTrdl_drive (d : Dev) (n : Nat) (f : Treadle → Treadle) (hi : ∀ t, (f t).inc = t.inc := by intro _; rfl)
    (hc : ∀ t, (f t).course = t.course := by intro _; rfl) : (d.setTrdl n f).drive n = d.drive n := by
  rw [Dev.drive, trdl_setTrdl_self, hi, hc]
  rfl

theorem drive_of_parts {d x : Dev} (n : Nat) (ht : d.trd = x.trd) (hm : d.mem = x.mem) (hp : d.pwr = x.pwr) :
    d.drive n = x.drive n := by rw [Dev.drive, Dev.drive, trdl_of_trd ht, hm, hp]

theorem trdBell_drive (d : Dev) (n i : Nat) : (d.trdBell n i).drive n = d.drive n := by
  obtain ⟨htrd, hmem, hpwr, -⟩ := trdBell_parts d n i
  exact drive_of_parts n htrd hmem hpwr

theorem trdPin_drive (d : Dev) (n i src : Nat) (level : Bool) : (d.trdPin n i src level).drive n = d.drive n := by
  obtain ⟨htrd, hmem, hpwr⟩ := trdPin_parts d n i src level
  exact drive_of_parts n htrd hmem hpwr

theorem strobeSeed_drive (d : Dev) (n : Nat) (up : Bool) : (d.strobeSeed n up).drive n = d.drive n := by
  unfold Dev.strobeSeed
  dsimp only
  split
  · exact setTrdl_drive _ _ _
  · exact setTrdl_drive _ _ _

theorem dirSet_drive (d : Dev) (n : Nat) (up : Bool) : (d.dirSet n up).drive n = d.drive n := by
  unfold Dev.dirSet
  dsimp only
  split
  · rfl
  · split
    · exact (trdPin_drive ..).trans ((setTrdl_drive _ _ _).trans (setTrdl_drive _ _ _))
    · exact setTrdl_drive _ _ _

/-- The increment is set; the course of the treadle stays. -/
theorem setInc_drive (d : Dev) (n : Nat) (x : Int) : (d.setInc n x).drive n = (x, (d.drive n).2) := by
  have hset : (d.setTrdl n (fun t => { t with inc := x })).drive n = (x, (d.drive n).2) := by
    rw [Dev.drive, trdl_setTrdl_self]
    rfl
  have hinc : (d.incSet n x).drive n = (x, (d.drive n).2) :=
    ite_keeps (fun d => d.drive n) hset ((strobeSeed_drive ..).trans hset)
  exact ite_keeps (fun d => d.drive n) hinc ((dirSet_drive ..).trans hinc)

theorem setInc_self (d : Dev) (n : Nat) (x : Int) : ((d.setInc n x).trdl n).inc = x := congrArg Prod.fst (setInc_drive d n x)

/-- TRD_INC_HI in OFF and FREE: the whole increment takes effect. -/
theorem incHi_free {d : Dev} {who : Initiator} {n : Nat} {hi : Word} (hm : d.trdMode n = 0 ∨ d.trdMode n = 1) :
    d.incHi who n hi = d.setInc n (sx 48 ((d.trdl n).incLo.toNat + fld hi 15 0 * 2 ^ 32)) := by
  unfold Dev.incHi
  dsimp only
  generalize sx 48 ((d.trdl n).incLo.toNat + fld hi 15 0 * 2 ^ 32) = x
  rw [if_pos (by simpa using hm)]

/-! ### The lock loop -/

theorem lockClamp_drive (d : Dev) (n : Nat) (x : Int) : (d.lockClamp n x).2.drive n = d.drive n :=
  ite_keeps (fun d => d.drive n) rfl (trdBell_drive d n 3)

/-- The loop moves the increment alone. -/
theorem lockLoop_drive (d : Dev) (n : Nat) (e : Int) : ((d.lockLoop n e).drive n).2 = (d.drive n).2 := by
  have hstep : ∀ (y : Dev) (i x : Int), (((y.setTrdl n (fun t => { t with integ := i })).setInc n x).drive n).2 = (y.drive n).2 := by
    intro y i x
    rw [setInc_drive, setTrdl_drive y n (fun t => { t with integ := i })]
  unfold Dev.lockLoop
  exact (hstep _ _ _).trans (congrArg Prod.snd ((lockClamp_drive ..).trans (lockClamp_drive ..)))

/-- A crossing inside the window of a treadle that is locked: the loop runs, and the cycle has its hit. -/
theorem crossing_locked {d : Dev} {n back : Nat} (hm : d.trdMode n = 2) (hsrc : d.f (TRD_LOCK_CFG n) 2 0 = 4) (hl : d.lockState n = 2)
    (hwin : (sx 32 (tc 32 (d.totalBack n (d.edgeBack false back) 16) + 2 ^ 32 - (d.phaseOfs n).toNat)).natAbs ≤
      (d.r (TRD_LOCK_ACCEPT n)).toNat) : ∃ e : Int, ∃ x : Dev,
    d.crossing n back = (x.lockLoop n e).setTrdl n (fun t => { t with hit := true }) ∧ x.mem = d.mem ∧ x.pwr = d.pwr ∧
    (x.trdl n).lastCross = some ((4 * d.tb.st.toNat + 2 ^ 34 - d.edgeBack false back % 2 ^ 34) % 2 ^ 34) := by
  refine ⟨sx 32 (tc 32 (d.totalBack n (d.edgeBack false back) 16) + 2 ^ 32 - (d.phaseOfs n).toNat),
    (d.w (TRD_LOCK_ERR n) (w32 (tc 32 (sx 32 (tc 32 (d.totalBack n (d.edgeBack false back) 16) + 2 ^ 32 - (d.phaseOfs n).toNat))))).setTrdl
      n (fun t => { t with lastCross := some ((4 * d.tb.st.toNat + 2 ^ 34 - d.edgeBack false back % 2 ^ 34) % 2 ^ 34) }),
    ?_, rfl, rfl, by rw [trdl_setTrdl_self]⟩
  have hstate : ∀ v f, ((d.w (TRD_LOCK_ERR n) v).setTrdl n f).lockState n = 2 := by
    intro v f
    refine Eq.trans ?_ hl
    unfold Dev.lockState Dev.f
    simp only [Dev.setTrdl_frame]
    rw [Dev.r_w_ne _ _ (by simp)]
  unfold Dev.crossing
  dsimp only
  rw [if_neg (by simp [hm, hsrc])]
  simp only [hsrc, Nat.lt_irrefl, decide_false]
  rw [hstate]
  simp only [hwin, if_true]

/-! ### Outputs that a phase step passes -/

theorem ringBit_trd (d : Dev) (b : BellReg) (i : Nat) : (d.ringBit b i).trd = d.trd := trd_of_still (ringBit_still d b i)

theorem tableCompare_trd (d : Dev) : d.tableCompare.trd = d.trd := by
  unfold Dev.tableCompare
  dsimp only
  split
  · rfl
  · rw [ringBit_trd]
    rfl

theorem cmdDone?_trd (d : Dev) (p : Option Nat) (status : Nat) : (d.cmdDone? p status).trd = d.trd := by
  cases p with
  | none => rfl
  | some k => exact trd_of_still (cmdDone_still d k status none none)

theorem endMigration_trd (d : Dev) (c status : Nat) : (d.endMigration c status).trd = d.trd := by
  unfold Dev.endMigration
  split
  · rfl
  · refine ite_keeps Dev.trd rfl (ite_keeps Dev.trd ?_ ?_)
    · rw [cmdDone?_trd]
      rfl
    · have hdrop : (d.dropKey (512 + c)).tableCompare.trd = d.trd := tableCompare_trd (d.dropKey (512 + c))
      rw [cmdDone?_trd]
      split
      · rw [ringBit_trd, ← hdrop]
        rfl
      · rw [← hdrop]
        rfl

theorem safePins_trd (d : Dev) (g : Nat) : (d.safePins g).trd = d.trd := by
  unfold Dev.safePins
  apply each_keeps Dev.trd
  intro d i
  refine ite_keeps Dev.trd ?_ rfl
  unfold Dev.safePin
  exact (pinSeen_parts _ _ _).1

/-- The late action touches no treadle. -/
theorem lateAction_trd (d : Dev) (c e : Nat) (rel : Word) : (d.lateAction c e rel).trd = d.trd := by
  have hx : (((((d.cnt (ENG_LATE e)).setBell (.eng e) 2).setChan c
      (fun ch => { ch with late := true, lateCount := satAdd 32 ch.lateCount 1 })).cnt CUT_LATE_TOTAL).ringBit .cut 4).trd = d.trd :=
    (ringBit_trd ..).trans (trd_of_still (setBell_still (d.cnt (ENG_LATE e)) (.eng e) 2))
  unfold Dev.lateAction
  dsimp only
  generalize (((((d.cnt (ENG_LATE e)).setBell (.eng e) 2).setChan c
      (fun ch => { ch with late := true, lateCount := satAdd 32 ch.lateCount 1 })).cnt CUT_LATE_TOTAL).ringBit .cut 4) = x at hx
  refine ite_keeps Dev.trd (ite_keeps Dev.trd ((safePins_trd ..).trans hx) hx) (ite_keeps Dev.trd ?_ hx)
  split
  · exact (endMigration_trd x c 13).trans hx
  · exact (endMigration_trd x c 13).trans hx
  · exact hx
  · exact hx

/-- The phase of a treadle, and the step of it that waits. -/
def Dev.phase (d : Dev) (n : Nat) : Int × Nat × Nat := ((d.trdl n).adjPend, (d.trdl n).cycle, (d.trdl n).acc)

theorem phase_of_trd {d x : Dev} (h : d.trd = x.trd) (n : Nat) : d.phase n = x.phase n := by
  rw [Dev.phase, Dev.phase, trdl_of_trd h]

theorem setTrdl_phase (d : Dev) (n m : Nat) (f : Treadle → Treadle)
    (h : ∀ t, ((f t).adjPend, (f t).cycle, (f t).acc) = (t.adjPend, t.cycle, t.acc)) : (d.setTrdl m f).phase n = d.phase n := by
  rw [Dev.phase, trdl_setTrdl]
  split
  next heq => rw [h, heq, Dev.phase]
  next => rfl

theorem lateWave_phase (d : Dev) (o : WaveOut) (n : Nat) : (d.lateWave o).phase n = d.phase n := by
  unfold Dev.lateWave
  refine (phase_of_trd (lateAction_trd ..) n).trans ?_
  unfold Dev.dropOuts
  exact each_keeps (fun d => d.phase n) _ _ (fun d t => setTrdl_phase d n t _ (by intro _; rfl)) _

theorem cancelWaves_phase (d : Dev) (m : Nat) (sel : WaveOut → Bool) (n : Nat) : (d.cancelWaves m sel).phase n = d.phase n := by
  unfold Dev.cancelWaves
  exact foldl_keeps (fun d => d.phase n) _ _ (fun d o => ite_keeps (fun d => d.phase n) (lateWave_phase ..) rfl) _

theorem credits_trd (d : Dev) (p : Nat) : (d.credits p).trd = d.trd := by
  unfold Dev.credits
  exact each_keeps Dev.trd _ (fun d q => d.credit p q) (fun d q => by unfold Dev.credit; rfl) d

theorem gateShow_trd (d : Dev) (p : Nat) : (d.gateShow p).trd = d.trd := by
  unfold Dev.gateShow
  rw [← credits_trd d p]
  generalize d.credits p = x
  dsimp only
  split
  · rfl
  · rfl

theorem gateStep_trd (d : Dev) (n : Nat) : (d.gateStep n).trd = d.trd := by
  unfold Dev.gateStep
  apply each_keeps Dev.trd
  intro d p
  split
  · exact ite_keeps Dev.trd (gateShow_trd ..) rfl
  · rfl

/-- A phase step is applied whole. -/
theorem adjApply_phase {d : Dev} {n : Nat} (h : (d.trdl n).adjPend ≠ 0) : (d.adjApply n).phase n =
    (0, tc 80 ((d.total n : Int) + (d.trdl n).adjPend * 65536) / 2 ^ 48, tc 80 ((d.total n : Int) + (d.trdl n).adjPend * 65536) % 2 ^ 48) := by
  unfold Dev.adjApply
  dsimp only
  rw [if_neg h]
  generalize tc 80 ((d.total n : Int) + (d.trdl n).adjPend * 65536) = tot
  have hset : ((d.setTrdl n (fun t => { t with adjPend := 0, cycle := tot / 2 ^ 48, acc := tot % 2 ^ 48 })).gateStep n).phase n =
      (0, tot / 2 ^ 48, tot % 2 ^ 48) := by
    rw [phase_of_trd (gateStep_trd ..), Dev.phase, trdl_setTrdl_self]
  exact ite_keeps (fun d => d.phase n) ((cancelWaves_phase ..).trans hset) hset

/-! ### Modes, carries and strobes -/

/-- A carry of a treadle in FREE with its step output off: the count, the position and nothing else. -/
theorem carryOp_free {d : Dev} {n : Nat} (hc : (d.trdl n).carry ≠ 0) (hstep : d.b (TRD_STEP_CFG n) 12 = false)
    (hdir : (d.trdl n).dirUp = decide (0 < (d.trdl n).carry)) (hramp : (d.trdl n).ramp = .none) (hlead : (d.trdl n).leader = none)
    (hm : d.trdMode n = 1) : d.carryOp n = (d.setTrdl n (fun x =>
      { x with carry := 0, cycle := tc 32 ((x.cycle : Int) + (d.trdl n).carry) })).posSet n (d.pos n + (d.trdl n).carry) := by
  have hturn : (d.setTrdl n (fun x => { x with carry := 0, cycle := tc 32 ((x.cycle : Int) + (d.trdl n).carry) })).dirSet n
      (decide (0 < (d.trdl n).carry)) = d.setTrdl n (fun x => { x with carry := 0, cycle := tc 32 ((x.cycle : Int) + (d.trdl n).carry) }) :=
    if_pos (by rw [trdl_setTrdl_self]; exact hdir)
  unfold Dev.carryOp
  dsimp only
  rw [if_neg hc]
  generalize hx : (d.setTrdl n (fun x => { x with carry := 0, cycle := tc 32 ((x.cycle : Int) + (d.trdl n).carry) })) = x at hturn ⊢
  have hregs : ∀ a, x.r a = d.r a := fun a => by rw [← hx]; rfl
  have hpos : x.pos n = d.pos n := by rw [Dev.pos, hregs]; rfl
  have hmode : x.trdMode n = 1 := by rw [Dev.trdMode, Dev.f, hregs]; exact hm
  have hxramp : (x.trdl n).ramp = .none := by rw [← hx, trdl_setTrdl_self]; exact hramp
  have hxlead : (x.trdl n).leader = none := by rw [← hx, trdl_setTrdl_self]; exact hlead
  rw [hmode, if_neg (by simp), hturn, hpos]
  generalize hy : x.posSet n (d.pos n + (d.trdl n).carry) = y
  have hstepDue : y.stepDue n = y := by
    refine if_pos ?_
    have hbit : y.b (TRD_STEP_CFG n) 12 = false := by
      rw [← hy, Dev.posSet, Dev.b, Dev.r_w_ne _ _ (by simp), hregs]
      exact hstep
    simp [hbit]
  have hyramp : (y.trdl n).ramp = .none := by rw [← hy]; exact hxramp
  have hylead : (y.trdl n).leader = none := by rw [← hy]; exact hxlead
  have hymode : y.trdMode n = 1 := by
    rw [← hy, Dev.trdMode, Dev.f, Dev.posSet, Dev.r_w_ne _ _ (by simp)]
    exact hmode
  have harrive : y.rampArrive n = y := by
    unfold Dev.rampArrive
    simp [hyramp, hylead]
  have hcycle : y.lockCycle n = y := if_pos (by simp [hymode])
  rw [hstepDue, harrive, hcycle, ite_self]

/-- A loop whose every turn leaves the device leaves it. -/
theorem each_fixed {d : Dev} {l : List Nat} {f : Dev → Nat → Dev} (h : ∀ x ∈ l, f d x = d) : d.each l f = d := by
  unfold Dev.each
  induction l with
  | nil => rfl
  | cons x l ih =>
    rw [List.foldl_cons, h x List.mem_cons_self]
    exact ih fun y hy => h y (List.mem_cons_of_mem x hy)

/-- A bit inside a field that is zero is clear. -/
theorem bitOf_of_fld_zero {w : Word} {hi lo i : Nat} (h : fld w hi lo = 0) (hlo : lo ≤ i) (hhi : i ≤ hi) : bitOf w i = false := by
  have hbit := congrArg (fun x => x.testBit (i - lo)) h
  simp only [fld, Nat.testBit_mod_two_pow, Nat.testBit_shiftRight, Nat.zero_testBit, Bool.and_eq_false_iff, decide_eq_false_iff_not] at hbit
  obtain hout | hclear := hbit
  · omega
  · rwa [show lo + (i - lo) = i by omega] at hclear

/-- A strobe of one boundary that triggers no group and posts no event. -/
theorem strobe_alone {d : Dev} {n : Nat} (ha : d.strobeAhead n = 1) (hcfg : d.f (TRD_STRB_CFG n) 20 16 = 0) :
    d.strobe n = d.setTrdl n (fun x =>
      { x with lastStrobe := some (d.strobePos n (decide (0 < d.rate n)) / d.f (TRD_STRB_CFG n) 15 0,
                                   d.strobePos n (decide (0 < d.rate n)) % d.f (TRD_STRB_CFG n) 15 0),
               lastUp := decide (0 < d.rate n) }) := by
  have hbit : ∀ i, 16 ≤ i → i ≤ 20 → bitOf (d.r (TRD_STRB_CFG n)) i = false := fun i hlo hhi => bitOf_of_fld_zero hcfg hlo hhi
  unfold Dev.strobe
  dsimp only
  rw [ha, if_neg Nat.one_ne_zero, hbit 20 (by simp) (by simp), if_neg Bool.false_ne_true, if_neg (Nat.lt_irrefl 1)]
  refine each_fixed fun g hg => ?_
  rw [List.mem_range] at hg
  rw [hbit (16 + g) (by omega) (by omega), if_neg (by simp)]

/-- TRD_CFG in a mode that the treadle is not in. -/
theorem trdCfg_enters {d : Dev} {who : Initiator} {n : Nat} {v : Word} (h7 : fld v 2 0 ≠ 7) (hm : d.trdMode n ≠ fld v 2 0)
    (hlock : (fld v 2 0 = 2 ∨ fld v 2 0 = 3) → d.lockOk n = true) :
    d.trdCfg who n v = (d.wf (TRD_CFG n) 6 4 (fld v 6 4)).trdEnter n (fld v 2 0) := by
  have hkeep : (d.wf (TRD_CFG n) 6 4 (fld v 6 4)).trdMode n = d.trdMode n := by
    rw [Dev.trdMode, Dev.f, Dev.r_wf_self, fld_setFld_ne _ _ _ _ _ _ (by simp) (by simp) (by simp)]
    rfl
  unfold Dev.trdCfg
  dsimp only
  rw [if_neg, hkeep, if_neg hm]
  by_cases hpll : fld v 2 0 = 2 ∨ fld v 2 0 = 3
  · simp [h7, hlock hpll]
  · rw [not_or] at hpll
    simp [h7, hpll.1, hpll.2]

/-- A treadle that has entered a mode, before the modes that begin at rest stop it. -/
def Dev.trdEntered (d : Dev) (n m : Nat) : Dev :=
  ((d.wf (TRD_CFG n) 2 0 m).lockSet n (if m = 2 || m = 3 then 1 else 0)).setTrdl n (fun t =>
    { t with lastCross := none, aligned := false, count := 0, out := 0, missed := 0, hit := false, ramp := .none,
             leader := none, integ := t.inc })

theorem trdEntered_parts (d : Dev) (n m : Nat) : (d.trdEntered n m).mem = d.mem ∧ (d.trdEntered n m).pwr = d.pwr ∧
    ((d.trdEntered n m).trdl n).inc = (d.trdl n).inc ∧ (d.trdEntered n m).f (TRD_CFG n) 2 0 = m % 8 ∧
    (d.trdEntered n m).f (TRD_CFG n) 6 4 = d.f (TRD_CFG n) 6 4 ∧
    (d.trdEntered n m).f (TRD_LOCK_STAT n) 1 0 = (if m = 2 || m = 3 then 1 else 0) := by
  have hregs : ∀ a, (d.trdEntered n m).r a = ((d.wf (TRD_CFG n) 2 0 m).wf (TRD_LOCK_STAT n) 1 0 (if m = 2 || m = 3 then 1 else 0)).r a :=
    fun _ => rfl
  refine ⟨rfl, rfl, ?_, ?_, ?_, ?_⟩
  · rw [Dev.trdEntered, trdl_setTrdl_self]
    rfl
  · rw [Dev.f, hregs, Dev.r_wf_ne _ _ _ _ (by simp), Dev.r_wf_self, fld_setFld_self _ _ _ _ (by simp) (by simp)]
    rfl
  · rw [Dev.f, hregs, Dev.r_wf_ne _ _ _ _ (by simp), Dev.r_wf_self, fld_setFld_ne _ _ _ _ _ _ (by simp) (by simp) (by simp)]
    rfl
  · rw [Dev.f, hregs, Dev.r_wf_self, fld_setFld_self _ _ _ _ (by simp) (by simp)]
    split <;> rfl

theorem trdEnter_eq (d : Dev) (n m : Nat) : d.trdEnter n m =
    if m = 5 || m = 6 || (m = 4 && d.modeIn [.stop, .safe]) then (d.trdEntered n m).setInc n 0 else d.trdEntered n m := rfl

end Sys2Proof.Machine
end

section
namespace Sys2Proof.Machine

/-- Settles O5: each command with its state lemma; a phase step is seen through the outputs that it makes late. -/
theorem treadleMotionComplete : Obligations.TreadleMotionComplete := by
  unfold Obligations.TreadleMotionComplete
  refine ⟨?carry, ?pulse, ?strobe, ?incApply, ?incRead, ?accRead, ?mode, ?crossing, ?adjust, ?tooFar, ?apply⟩
  case carry =>
    intro s n hc hstep hdir hramp hlead hm
    have hne : (s.dev.trdl n).carry ≠ 0 := by
      rintro h0
      rw [h0] at hc
      simp at hc
    exact completes_lift exec_treadleCarry (carryOp_free hne hstep hdir hramp hlead hm)
  case pulse =>
    intro s n hwait hfree
    exact completes_lift exec_stepPulseDelayed (if_pos (by simp [hwait, hfree]))
  case strobe =>
    intro s n ha hcfg
    exact completes_lift exec_strobe (strobe_alone ha hcfg)
  case incApply =>
    intro s who n hi hr hm
    refine completes_lift exec_incApply ?_
    rw [access_of_reaches hr, incHi_free hm]
    generalize sx 48 ((s.dev.trdl n).incLo.toNat + fld hi 15 0 * 2 ^ 32) = x
    exact ⟨rfl, setInc_self s.dev n x⟩
  case incRead =>
    intro s who n hr
    refine completes_lift exec_incRead ?_
    rw [accessR_of_reaches hr]
    rfl
  case accRead =>
    intro s who n hr
    refine completes_lift exec_accRead ?_
    rw [accessR_of_reaches hr]
    rfl
  case mode =>
    intro s who n v hr h7 hm hlock
    refine completes_lift exec_treadleModeWrite ?_
    obtain ⟨hmem, -, hinc, hmode, hstart, hstat⟩ := trdEntered_parts (s.dev.wf (TRD_CFG n) 6 4 (fld v 6 4)) n (fld v 2 0)
    rw [access_of_reaches hr, trdCfg_enters h7 hm hlock, trdEnter_eq]
    have hlt : fld v 2 0 < 8 := Nat.mod_lt _ (by simp)
    have hmodeIn : (s.dev.wf (TRD_CFG n) 6 4 (fld v 6 4)).modeIn [.stop, .safe] = s.dev.modeIn [.stop, .safe] := rfl
    rw [hmodeIn]
    split
    next hrest =>
      have hdrive := setInc_drive ((s.dev.wf (TRD_CFG n) 6 4 (fld v 6 4)).trdEntered n (fld v 2 0)) n 0
      refine ⟨(congrArg (fun x => x.2.2.1) hdrive).trans hmem, fun hgo => ?_, fun _ => congrArg Prod.fst hdrive⟩
      exfalso
      simp only [Bool.or_eq_true, decide_eq_true_eq, Bool.and_eq_true] at hrest
      obtain hlow | ⟨h4, hup⟩ := hgo
      · omega
      · simp [hup, h4] at hrest
    next hgo =>
      simp only [Bool.or_eq_true, decide_eq_true_eq, Bool.and_eq_true, not_or, not_and] at hgo
      obtain ⟨⟨h5, h6⟩, h4⟩ := hgo
      refine ⟨hmem, fun _ => ⟨hmode.trans (Nat.mod_eq_of_lt hlt), hstart.trans ?_, by simpa using hstat, hinc⟩, fun hrest => ?_⟩
      · rw [Dev.f_wf_self _ _ _ (by simp) (by simp)]
        exact Nat.mod_mod _ _
      · exfalso
        obtain h | h | ⟨h, hin⟩ := hrest
        · exact h5 h
        · exact h6 h
        · exact h4 h hin
  case crossing =>
    intro s n back hm hsrc hl hwin
    refine completes_lift exec_zcCrossing ?_
    obtain ⟨e, x, heq, hmem, hpwr, hcross⟩ := crossing_locked hm hsrc hl hwin
    have hloop := lockLoop_drive x n e
    rw [heq, trdl_setTrdl_self]
    refine ⟨rfl, ?_, ?_, ?_⟩
    · exact (congrArg (fun y => y.1.1) hloop).trans hcross
    · exact (congrArg (fun y => y.2.1) hloop).trans hmem
    · exact (congrArg (fun y => y.2.2) hloop).trans hpwr
  case adjust =>
    intro s who n a hr hm hle
    refine completes_lift exec_phaseAdjust ?_
    rw [access_of_reaches hr, Dev.phaseAdj]
    rw [if_neg (by simpa [or_iff_not_imp_left] using hm), if_neg (by omega)]
  case tooFar =>
    intro s who n a hr hm hlt
    refine completes_lift exec_phaseAdjust ?_
    rw [access_of_reaches hr, Dev.phaseAdj]
    rw [if_neg (by simpa [or_iff_not_imp_left] using hm), if_pos hlt]
  case apply =>
    intro d n h
    have hphase := adjApply_phase h
    refine ⟨congrArg Prod.fst hphase, ?_⟩
    have hcycle := congrArg (fun x => x.2.1) hphase
    have hacc := congrArg (fun x => x.2.2) hphase
    simp only [Dev.phase] at hcycle hacc
    rw [Dev.total, hcycle, hacc]
    exact Nat.div_add_mod' _ _

end Sys2Proof.Machine
end

section
/-!
SUPPORT. The treadles' programs: ramps, pattern tables, cams and edge latches (R117, R118, R122, R124, R126).
-/
namespace Sys2Proof.Machine

/-- A period of a ramp that stops and does not yet stand: the increment moves toward zero. -/
theorem rampStep_stopping {d : Dev} {n : Nat} (hr : (d.trdl n).ramp = .stopping) (ha : d.r (TRD_RAMP_ACCEL n) ≠ 0)
    (hv : toward (d.trdl n).inc 0 (d.r (TRD_RAMP_ACCEL n)).toNat ≠ 0) :
    d.rampStep n = (d.setTrdl n (fun t => { t with rampAt := d.tb.now })).setInc n
      (toward (d.trdl n).inc 0 (d.r (TRD_RAMP_ACCEL n)).toNat) := by
  have hacc : ((d.r (TRD_RAMP_ACCEL n)).toNat : Int) ≠ 0 := by
    intro h0
    exact ha (BitVec.eq_of_toNat_eq (by simpa using h0))
  unfold Dev.rampStep
  dsimp only
  rw [if_neg hacc, hr]
  dsimp only
  rw [if_neg hv]

/-- A table that runs and stands one entry behind its master fires that entry. -/
theorem patStep_one {d : Dev} {t : Nat} (hruns : d.patRuns t 0 = true) (ha : d.patAhead t = 1) :
    d.patStep t = d.patFire t (d.patNow % 2 ^ 42) := by
  have hpos : d.patPassed t = [d.patNow % 2 ^ 42] := by
    unfold Dev.patPassed
    rw [if_pos hruns, ha]
    simp
  rw [Dev.patStep, hpos]
  rfl

/-- One forward step of a cam follower whose step output is off. -/
theorem camStep_forward {d : Dev} {t n : Nat} (hn : n = d.f (TRD_PAT_CFG t) 5 2) (hact : d.camActive t = true)
    (hnear : (d.camPos t - d.pos n).natAbs ≤ d.f (TRD_PAT_CFG t) 31 16) (hlt : d.pos n < d.camPos t)
    (hstep : d.b (TRD_STEP_CFG n) 12 = false) (hdir : (d.trdl n).dirUp = true) : d.camStep t = d.posSet n (d.pos n + 1) := by
  have hup : decide (0 < d.camPos t - d.pos n) = true := decide_eq_true (by omega)
  have hturn : d.dirSet n true = d := if_pos hdir
  have hdue : (d.posSet n (d.pos n + 1)).stepDue n = d.posSet n (d.pos n + 1) := by
    refine if_pos ?_
    have hbit : (d.posSet n (d.pos n + 1)).b (TRD_STEP_CFG n) 12 = false := by
      rw [Dev.posSet, Dev.b, Dev.r_w_ne _ _ (by simp)]
      exact hstep
    simp [hbit]
  unfold Dev.camStep
  dsimp only
  have hclose : ¬ d.f (TRD_PAT_CFG t) 31 16 < (d.camPos t - d.pos n).natAbs := by omega
  have hapart : ¬ d.camPos t - d.pos n = 0 := by omega
  rw [← hn, if_neg (by simp [hact]), if_neg hapart, if_neg hclose, hup, hturn, hstep, if_neg (by simp), if_pos rfl, hdue]

/-! ### Edge latches -/

/-- A posting to the subscribers of an event changes no register below the MBX block. -/
theorem postSubs_low (d : Dev) (bit : Nat) (ev : Ev) : (d.postSubs bit ev).low = d.low ∧ (d.postSubs bit ev).still = d.still :=
  ⟨each_keeps Dev.low _ _ (fun _ _ => ite_keeps Dev.low (post_low ..) rfl) d,
    each_keeps Dev.still _ _ (fun _ _ => ite_keeps Dev.still (post_still ..) rfl) d⟩

/-- The words of latch `l` with the stamp and the count of an edge; the latch is no longer armed. -/
def Dev.latchTaken (d : Dev) (l : Nat) (st : Stamp) (v : Nat) : Dev :=
  let d := (d.w (TRD_LATCH l 0) st.st).wf (TRD_LATCH l 1) 5 0 (st.quarter + 4 * st.gen)
  let d := (d.w (TRD_LATCH l 2) (w32 v)).w (TRD_LATCH l 3) (w32 (v / 2 ^ 32))
  ({ d with trd := { d.trd with latchAt := tset d.trd.latchAt l d.tb.now } }).wb (TRD_LATCH_CFG l) 14 false

/-- The low two bits of a field of six. -/
theorem fld_setFld_quarter (w : Word) (q g : Nat) (hq : q < 4) : fld (setFld w 5 0 (q + 4 * g)) 1 0 = q := by
  have hnest : ∀ x : Word, fld x 1 0 = fld x 5 0 % 4 := by
    intro x
    simp only [fld, Nat.shiftRight_zero]
    omega
  rw [hnest, fld_setFld_self _ _ _ _ (by simp) (by simp)]
  omega

theorem latchTaken_parts (d : Dev) (l : Nat) (st : Stamp) (v : Nat) (hq : st.quarter < 4) :
    (d.latchTaken l st v).r (TRD_LATCH l 0) = st.st ∧ (d.latchTaken l st v).f (TRD_LATCH l 1) 1 0 = st.quarter ∧
    (d.latchTaken l st v).b (TRD_LATCH_CFG l) 14 = false ∧ (d.latchTaken l st v).mem = d.mem ∧
    (d.latchTaken l st v).trd = { d.trd with latchAt := tset d.trd.latchAt l d.tb.now } := by
  have hregs : ∀ a, a ≠ TRD_LATCH_CFG l → a ≠ TRD_LATCH l 2 → a ≠ TRD_LATCH l 3 → (d.latchTaken l st v).r a =
      ((d.w (TRD_LATCH l 0) st.st).wf (TRD_LATCH l 1) 5 0 (st.quarter + 4 * st.gen)).r a := by
    intro a hcfg h2 h3
    unfold Dev.latchTaken
    dsimp only
    rw [Dev.r_wb_ne _ _ _ hcfg]
    exact (Dev.r_w_ne _ _ h3).trans (Dev.r_w_ne _ _ h2)
  refine ⟨?_, ?_, Dev.b_wb_self _ _ _ (by simp), rfl, rfl⟩
  · rw [hregs _ (by unfold TRD_LATCH TRD_LATCH_CFG; omega) (by simp) (by simp), Dev.r_wf_ne _ _ _ _ (by simp), Dev.r_w_self]
  · rw [Dev.f, hregs _ (by unfold TRD_LATCH TRD_LATCH_CFG; omega) (by simp) (by simp), Dev.r_wf_self, fld_setFld_quarter _ _ _ hq]

/-- An edge at an armed latch of a pin, of either direction: its words are taken, its bell rings, its subscribers are posted. -/
theorem latchEdge_armed {d : Dev} {l : Nat} {rising : Bool} {back : Nat} (hpin : d.f (TRD_LATCH_CFG l) 6 0 < 64)
    (hboth : d.f (TRD_LATCH_CFG l) 8 7 = 3) (harm : d.b (TRD_LATCH_CFG l) 14 = true) : ∃ (v : Nat) (x : Dev) (ev : Ev),
    d.latchEdge l rising back = x.postSubs (24 + l) ev ∧
    x.regs = ((d.latchTaken l (d.stampBack (d.edgeBack false back)) v).ringBit .trd (16 + l)).regs ∧
    x.still = (d.latchTaken l (d.stampBack (d.edgeBack false back)) v).still := by
  unfold Dev.latchEdge
  dsimp only
  rw [if_neg (by simp [show fld (d.r (TRD_LATCH_CFG l)) 8 7 = 3 from hboth, show ¬ 68 ≤ fld (d.r (TRD_LATCH_CFG l)) 6 0 from
      fun h => absurd (Nat.lt_of_le_of_lt h hpin) (by simp)]), if_neg (by simp [show bitOf (d.r (TRD_LATCH_CFG l)) 14 = true from harm]),
    show decide (64 ≤ fld (d.r (TRD_LATCH_CFG l)) 6 0) = false from decide_eq_false (Nat.not_le.mpr hpin)]
  generalize (if bitOf (d.r (TRD_LATCH_CFG l)) 13 = true then _ else _ : Nat) = v
  refine ⟨v, _, _, rfl, rfl, ?_⟩
  exact ringBit_still (d.latchTaken l (d.stampBack (d.edgeBack false back)) v) .trd (16 + l)

theorem latchEdge_parts {d : Dev} {l : Nat} {rising : Bool} {back : Nat} (hl : l < 8) (hpin : d.f (TRD_LATCH_CFG l) 6 0 < 64)
    (hboth : d.f (TRD_LATCH_CFG l) 8 7 = 3) (harm : d.b (TRD_LATCH_CFG l) 14 = true) :
    (d.latchEdge l rising back).r (TRD_LATCH l 0) = (d.stampBack (d.edgeBack false back)).st ∧
    (d.latchEdge l rising back).f (TRD_LATCH l 1) 1 0 = (d.stampBack (d.edgeBack false back)).quarter ∧
    (d.latchEdge l rising back).b (TRD_LATCH_CFG l) 14 = false ∧ (d.latchEdge l rising back).b TRD_BELL (16 + l) = true ∧
    (d.latchEdge l rising back).mem = d.mem ∧
    (d.latchEdge l rising back).trd = { d.trd with latchAt := tset d.trd.latchAt l d.tb.now } := by
  obtain ⟨v, x, ev, heq, hregs, hstill⟩ := latchEdge_armed (rising := rising) (back := back) hpin hboth harm
  obtain ⟨hw0, hw1, hcfg, hmem, htrd⟩ := latchTaken_parts d l (d.stampBack (d.edgeBack false back)) v (Nat.mod_lt _ (by simp))
  obtain ⟨hlow, hkeep⟩ := postSubs_low x (24 + l) ev
  generalize d.latchTaken l (d.stampBack (d.edgeBack false back)) v = y at *
  have hreg : ∀ a, a < 0x500000 → (d.latchEdge l rising back).r a = (y.ringBit .trd (16 + l)).r a := by
    intro a ha
    have hpost := congrFun hlow a
    simp only [Dev.low, if_pos ha] at hpost
    rw [heq, hpost, Dev.r, Dev.r, hregs]
  have hbell : ∀ a, a < 0x500000 → a ≠ TRD_BELL → (d.latchEdge l rising back).r a = y.r a :=
    fun a ha hne => (hreg a ha).trans (ringBit_r_ne _ _ ha hne)
  refine ⟨?_, ?_, ?_, ?_, ?_, ?_⟩
  · rw [hbell _ (by unfold TRD_LATCH; omega) (by unfold TRD_LATCH TRD_BELL; omega), hw0]
  · rw [Dev.f, hbell _ (by unfold TRD_LATCH; omega) (by unfold TRD_LATCH TRD_BELL; omega)]
    exact hw1
  · rw [Dev.b, hbell _ (by unfold TRD_LATCH_CFG; omega) (by unfold TRD_LATCH_CFG TRD_BELL; omega)]
    exact hcfg
  · rw [Dev.b, hreg _ (by unfold TRD_BELL; omega)]
    exact ringBit_b y (b := .trd) (by unfold BellReg.addr TRD_BELL; simp) (by omega)
  · rw [heq, mem_of_still hkeep, mem_of_still hstill, hmem]
  · rw [heq, trd_of_still hkeep, trd_of_still hstill, htrd]

/-! ### Starts -/

theorem trdStartAt_armed {d : Dev} {who : Initiator} {v : Word} (hdue : d.trd.startDue = []) (hat : d.trd.startAt = some (who, v))
    (hr : reached d.tb.st (d.r TRD_START_AT) = true) :
    d.trdStartAt = ({ d with trd := { d.trd with startAt := none } } : Dev).trdStartAct who v := by
  unfold Dev.trdStartAt
  rw [hdue, hat]
  exact if_pos hr

theorem trdStartAt_committed {d : Dev} {who : Initiator} {v a : Word} {l : List (Initiator × Word × Word)}
    (hdue : d.trd.startDue = (who, v, a) :: l) (hr : reached d.tb.st a = true) :
    d.trdStartAt = ({ d with trd := { d.trd with startDue := l } } : Dev).trdStartAct who v := by
  unfold Dev.trdStartAt
  rw [hdue, List.find?_cons_of_pos (by exact hr)]
  dsimp only
  rw [List.erase_cons_head]

/-- A start or stop word that names a treadle and is not armed acts at once. -/
theorem trdStartWrite_now {d : Dev} {who : Initiator} {v : Word} (hn : fld v 15 0 ≠ 0) (ha : bitOf v 17 = false) :
    d.trdStartWrite who v = d.trdStartAct who v := by
  rw [Dev.trdStartWrite, if_neg hn, if_neg (by simp [ha])]

theorem trdStartWrite_armed {d : Dev} {who : Initiator} {v : Word} (hn : fld v 15 0 ≠ 0) (ha : bitOf v 17 = true) :
    d.trdStartWrite who v = { d with trd := { d.trd with startAt := some (who, v) } } := by
  rw [Dev.trdStartWrite, if_neg hn, if_pos ha]

/-- The stop bit is none of the treadle bits, and not the arming bit. -/
theorem stopWord_bits (v : Word) : fld (v ||| 0x10000) 15 0 = fld v 15 0 ∧ bitOf (v ||| 0x10000) 17 = bitOf v 17 := by
  constructor
  · simp only [fld, Nat.shiftRight_zero, BitVec.toNat_or]
    rw [Nat.or_mod_two_pow]
    simp
  · simp only [bitOf, BitVec.toNat_or, Nat.testBit_or]
    simp [Nat.testBit, Nat.shiftRight_eq_div_pow]

end Sys2Proof.Machine
end

section
namespace Sys2Proof.Machine

/-- Settles O6: each command with its state lemma. -/
theorem treadleProgramsComplete : Obligations.TreadleProgramsComplete := by
  unfold Obligations.TreadleProgramsComplete
  refine ⟨?period, ?go, ?stop, ?group, ?pattern, ?cam, ?arm, ?capture, ?rearm, ?start, ?stopAll, ?armed, ?committed⟩
  case period =>
    intro s n hdue hr ha hv
    have heq : (if s.dev.rampDue n.val then s.dev.rampStep n.val else s.dev) = _ :=
      (if_pos hdue).trans (rampStep_stopping hr ha hv)
    refine completes_lift exec_rampPeriod ?_
    rw [heq]
    generalize toward (s.dev.trdl n).inc 0 (s.dev.r (TRD_RAMP_ACCEL n)).toNat = x
    have hdrive := setInc_drive (s.dev.setTrdl n (fun t => { t with rampAt := s.dev.tb.now })) n x
    have hset : ((s.dev.setTrdl n (fun t => { t with rampAt := s.dev.tb.now })).trdl n) = { s.dev.trdl n with rampAt := s.dev.tb.now } :=
      trdl_setTrdl_self ..
    simp only [Dev.drive, hset] at hdrive
    refine ⟨congrArg (fun y => y.1) hdrive, congrArg (fun y => y.2.1.2.2) hdrive, ?_, congrArg (fun y => y.2.2.1) hdrive⟩
    exact (congrArg (fun y => y.2.1.2.1) hdrive).trans hr
  case go =>
    intro s who n hr hm ha
    refine completes_lift exec_rampGo ?_
    rw [access_of_reaches hr]
    show s.dev.rampGoCmd n = _
    unfold Dev.rampGoCmd
    dsimp only
    rw [if_neg (by simp [hm])]
    exact if_neg ha
  case stop =>
    intro s who n hr hm ha hinc
    refine completes_lift exec_rampStop ?_
    rw [access_of_reaches hr]
    show s.dev.rampStopCmd n = _
    unfold Dev.rampStopCmd
    dsimp only
    rw [if_neg (by simp [hm]), if_neg]
    rw [trdl_setTrdl_self]
    simpa [hinc] using ha
  case group =>
    intro s who g v hr hb hbad
    refine completes_lift exec_groupGo ?_
    rw [access_of_reaches hr]
    unfold Dev.groupCmd
    dsimp only
    rw [if_pos hb, if_neg (by simp [hbad])]
  case pattern =>
    intro s t hruns ha
    exact completes_lift exec_patternEntryFire (patStep_one hruns ha)
  case cam =>
    intro s t n hn hruns hm hg hmode hnear hlt hstep hdir
    refine completes_lift exec_camFollowStep (camStep_forward hn ?_ hnear hlt hstep hdir)
    simp [Dev.camActive, ← hn, hruns, hm, hg, hmode]
  case arm =>
    intro s who l v hr
    refine completes_lift exec_latchArm ?_
    rw [access_of_reaches hr]
    rfl
  case capture =>
    intro s l rising back hpin hboth harm
    exact completes_lift exec_latchCapture (latchEdge_parts l.isLt hpin hboth harm)
  case rearm =>
    intro s who l hr
    refine completes_lift exec_latchRearm ?_
    rw [accessR_of_reaches hr]
    rfl
  case start =>
    intro s who v hr hn ha
    refine completes_lift exec_treadleStart ?_
    rw [access_of_reaches hr, trdStartWrite_now hn ha]
  case stopAll =>
    intro s who v hr hn ha
    refine completes_lift exec_treadleStop ?_
    obtain ⟨hnames, hbit⟩ := stopWord_bits v
    rw [access_of_reaches hr, trdStartWrite_armed (hnames ▸ hn) (hbit.trans ha)]
  case armed =>
    intro s who v hdue hat hr
    exact completes_lift exec_treadleStartAt (trdStartAt_armed hdue hat hr)
  case committed =>
    intro s who v a l hdue hr
    exact completes_lift exec_treadleStartAt (trdStartAt_committed hdue hr)

end Sys2Proof.Machine
end

section
/-!
SUPPORT. Outputs and their commit stage (R108-R110, R154): the release in Run, and each kind of scheduled event.
-/
namespace Sys2Proof.Machine

/-- In Run every output of a queue may be released. -/
theorem releaseOut_run {d : Dev} {e : Nat} {o : Out} {c : Ecc} (hm : d.mode = .run) (ho : d.firstOut (d.eng e).outq = some o)
    (hc : c ≠ .uncorr) : d.releaseOut e c = (((d.outTake e o).outAct e o).migrateDone (keyChan o.key)).queueEcc e c := by
  have hall : (d.eng e).outq.filter (fun o => d.mode == .run || (o.desc == 14 && d.mode != .hold) || o.committed) = (d.eng e).outq :=
    List.filter_eq_self.mpr fun x _ => by simp [hm]
  unfold Dev.releaseOut
  dsimp only
  rw [hall, ho]
  exact if_neg hc

theorem releaseOut_uncorr {d : Dev} {e : Nat} {o : Out} (hm : d.mode = .run) (ho : d.firstOut (d.eng e).outq = some o) :
    d.releaseOut e .uncorr = d.queueEcc e .uncorr := by
  have hall : (d.eng e).outq.filter (fun o => d.mode == .run || (o.desc == 14 && d.mode != .hold) || o.committed) = (d.eng e).outq :=
    List.filter_eq_self.mpr fun x _ => by simp [hm]
  unfold Dev.releaseOut
  dsimp only
  rw [hall, ho]
  rfl

/-- The gate lets an output of a device that is not demoted pass: always one without claim, one with it while the gate is open. -/
theorem outGate_open {d : Dev} {cmd : Bool} (hd : d.red.demoted = false) (hg : cmd = true → d.gateOpen = true) :
    d.outGate cmd = (true, d) := by
  unfold Dev.outGate
  rw [if_neg (by simp [hd]), if_neg]
  cases cmd with
  | false => simp
  | true => simp [hg rfl]

/-! ### The commit horizon -/

theorem commitEvent_shortOut {d : Dev} {e : Fin 96} {i : Nat} {o : Out} (ho : (d.eng e).outq[i]? = some o) (hk : fld o.desc 3 0 = 1)
    (hc : o.committed = false) (hmut : o.muted = false) (hs : o.isSealed = true) (hst : o.stepped = false) (hm : d.mode = .run)
    (hr : reached d.tb.st (o.rel - 64) = true) (hd : d.red.demoted = false) (hg : bitOf o.desc 12 = true → d.gateOpen = true) :
    d.commitEvent (.shortOut e i) = d.setEng e (fun en =>
      { en with outq := en.outq.map (fun (x : Out) => if x == o then { x with committed := true } else x) }) := by
  unfold Dev.commitEvent
  dsimp only
  rw [ho]
  dsimp only
  rw [if_neg (by simpa [hk, hc, hmut, hs, hst, hm] using hr), outGate_open hd hg]
  rfl

theorem commitEvent_waveOut {d : Dev} {n : Fin 16} {i : Nat} {o : WaveOut} (ho : (d.trdl n).wave[i]? = some o) (hc : o.committed = false)
    (hnear : d.waveNear n o.target = true) (hm : d.mode = .run) (hd : d.red.demoted = false)
    (hg : bitOf o.desc 12 = true → d.gateOpen = true) :
    d.commitEvent (.waveOut n i) = d.setTrdl n (fun t => { t with wave := t.wave.map (fun (x : WaveOut) =>
      if x == o then { x with committed := true, commitTick := d.tb.now / 4 } else x) }) := by
  unfold Dev.commitEvent
  dsimp only
  rw [ho]
  dsimp only
  rw [if_neg (by simp [hc, hnear]), Dev.waveCommit, if_neg (by simp [hm]), outGate_open hd hg]
  rfl

/-- The entry after the present one lies one ahead of it. -/
theorem patGap_next (p : Nat) : patGap (p / 1024 * 1024 + p % 1024) (p + 1) = 1 := by
  rw [Nat.div_add_mod', patGap]
  rw [if_pos (by omega)]
  omega

/-- With nothing committed, the next entry commits within the horizon. -/
theorem patCommitNext_first {d : Dev} {t : Nat} (hruns : d.patRuns t 0 = true) (hm : d.mode = .run) (hnone : d.patCommits t = [])
    (hpos : tget none d.trd.patPos t = none ∨ tget none d.trd.patPos t = some (d.patNow / 1024, d.patNow % 1024))
    (hnear : ((d.patNow + 1) * 2 ^ 38 : Nat) - (d.total d.patMaster : Int) ≤ 16 * d.rate d.patMaster) :
    d.patCommitNext t = { d with trd := { d.trd with patCommit := tmod [] d.trd.patCommit t (fun l => l ++
      [⟨(d.patNow + 1) % 2 ^ 42, d.patWord t ((d.patNow + 1) % 1024), d.gateOpen, d.red.demoted, d.tb.now / 4⟩]) } } := by
  have hnext : ∀ f : PatCommit → Nat, (([] : List PatCommit).map f).foldl Nat.max 0 + 1 + d.patNow = d.patNow + 1 := by
    intro f
    rw [List.map_nil, List.foldl_nil, Nat.zero_add, Nat.add_comm]
  have hgo : ∀ fresh : Bool, fresh = true → ¬ (!(d.patRuns t 0) || decide (d.mode ≠ .run) || !fresh ||
      decide (16 * d.rate d.patMaster < ((d.patNow + 1) * 2 ^ 38 : Nat) - (d.total d.patMaster : Int))) = true := by
    intro fresh hf
    rw [hruns, hm, hf, decide_eq_false (not_lt.mpr hnear)]
    simp
  unfold Dev.patCommitNext
  rw [hnone]
  simp only [hnext]
  rw [if_neg (hgo _ ?_)]
  obtain h | h := hpos
  · rw [h]
  · rw [h]
    dsimp only
    rw [patGap_next]
    rfl

/-! ### Wave time -/

/-- A committed output that has reached its target fires, or one that is like it in every respect. -/
theorem waveCompare_committed {d : Dev} {n i : Nat} {o : WaveOut} (ho : (d.trdl n).wave[i]? = some o) (hc : o.committed = true)
    (hr : d.waveReached n o.target = true) : ∃ x ∈ (d.trdl n).wave, x.desc = o.desc ∧ x.target = o.target ∧ x.chan = o.chan ∧
    d.waveCompare n i = d.waveFire n x := by
  obtain ⟨x, hx⟩ := Option.isSome_iff_exists.mp (List.find?_isSome (p := fun x => x.committed && x.target == o.target &&
    x.chan == o.chan && x.inId == o.inId && x.desc == o.desc) |>.mpr ⟨o, List.mem_of_getElem? ho, by simp [hc]⟩)
  have hlike := List.find?_some hx
  simp only [Bool.and_eq_true, beq_iff_eq] at hlike
  obtain ⟨⟨⟨⟨-, htarget⟩, hchan⟩, -⟩, hdesc⟩ := hlike
  refine ⟨x, List.mem_of_find?_eq_some hx, hdesc, htarget, hchan, ?_⟩
  unfold Dev.waveCompare
  rw [ho]
  dsimp only
  rw [if_neg (by simp [hr]), if_pos hc, hx]

theorem waveSlip_late {d : Dev} {n i : Nat} {o : WaveOut} (ho : (d.trdl n).wave[i]? = some o) (hc : o.committed = true)
    (ht : o.commitTick + 32 ≤ d.tb.now / 4) (hr : d.waveReached n o.target = false) :
    d.waveSlip n i = (d.waveFire n o).trdBell n 6 := by
  unfold Dev.waveSlip
  rw [ho]
  exact if_pos (by simp [hc, ht, hr])

theorem patSlip_late {d : Dev} {t : Nat} {c : PatCommit} {l : List PatCommit} (hl : d.patCommits t = c :: l)
    (ht : c.commitTick + 32 ≤ d.tb.now / 4) : d.patSlip t = (d.patFire t c.pos).trdBell d.patMaster 6 := by
  unfold Dev.patSlip
  rw [hl, List.find?_cons_of_pos (by exact decide_eq_true ht)]

end Sys2Proof.Machine
end

section
namespace Sys2Proof.Machine

/-- Settles O8: each kind of output with its state lemma. -/
theorem outputsComplete : Obligations.OutputsComplete := by
  unfold Obligations.OutputsComplete
  refine ⟨?clean, ?ecc, ?uncorr, ?shortOut, ?waveOut, ?pattern, ?start, ?compare, ?slip, ?patSlip⟩
  case clean =>
    intro s e o hm ho
    exact completes_lift exec_outputRelease (releaseOut_run hm ho (by simp))
  case ecc =>
    intro s e o c hm ho hc
    exact completes_lift exec_outputRelease (releaseOut_run hm ho hc)
  case uncorr =>
    intro s e o hm ho
    exact completes_lift exec_outputRelease (releaseOut_uncorr hm ho)
  case shortOut =>
    intro s e i o ho hk hc hmut hs hst hm hr hd hg
    exact completes_lift exec_eventCommit (commitEvent_shortOut ho hk hc hmut hs hst hm hr hd hg)
  case waveOut =>
    intro s n i o ho hc hnear hm hd hg
    exact completes_lift exec_eventCommit (commitEvent_waveOut ho hc hnear hm hd hg)
  case pattern =>
    intro s t hruns hm hnone hpos hnear
    exact completes_lift exec_eventCommit (patCommitNext_first hruns hm hnone hpos hnear)
  case start =>
    intro s who v hat hr
    refine completes_lift exec_eventCommit ?_
    show s.dev.trdStartCommit = _
    unfold Dev.trdStartCommit
    rw [hat]
    exact if_pos hr
  case compare =>
    intro s n i o ho hc hr
    obtain ⟨x, hx, hdesc, htarget, hchan, heq⟩ := waveCompare_committed ho hc hr
    exact completes_lift exec_waveCompareReached ⟨x, hx, hdesc, htarget, hchan, heq⟩
  case slip =>
    intro s n i o ho hc ht hr
    exact completes_lift exec_waveSlipFire (waveSlip_late ho hc ht hr)
  case patSlip =>
    intro s t c l hl ht
    exact completes_lift exec_waveSlipFire (patSlip_late hl ht)

end Sys2Proof.Machine
end

section
/-!
SUPPORT. The scan unit: the requests of SCN_CTRL, publishes and the retained area, and the instants of the cycle (R445-R462).
-/
namespace Sys2Proof.Machine

/-! ### Requests -/

/-- Writing a request bit beside the settings. -/
theorem orWord_bit (v : Word) {m : Nat} (hm : m < 32) (i : Nat) : bitOf (v ||| w32 (2 ^ m)) i = (bitOf v i || decide (m = i)) := by
  rw [bitOf_or, bitOf_two_pow _ _ hm]

theorem orWord_fld (v : Word) {m hi lo : Nat} (hm : m < 32) (hout : m < lo ∨ hi < m) : fld (v ||| w32 (2 ^ m)) hi lo = fld v hi lo := by
  apply Nat.eq_of_testBit_eq
  intro i
  simp only [fld, Nat.testBit_mod_two_pow, Nat.testBit_shiftRight]
  have hbit := orWord_bit v hm (lo + i)
  unfold bitOf at hbit
  rw [hbit]
  by_cases hi' : i < hi + 1 - lo
  · rw [decide_eq_false (show ¬ m = lo + i by omega), Bool.or_false]
  · rw [decide_eq_false hi']
    simp

theorem orWord_clear {v : Word} {m i : Nat} (hm : m < 32) (hne : m ≠ i) (h : bitOf v i = false) : bitOf (v ||| w32 (2 ^ m)) i = false := by
  rw [orWord_bit v hm, h, decide_eq_false hne]
  rfl

/-- A write of SCN_CTRL that requests the start and nothing else. -/
theorem scnCtrl_run {d : Dev} {v : Word} (h31 : fld v 3 1 = 0) (h6 : bitOf v 6 = false) :
    d.scnCtrl (v ||| 1) = (d.wf SCN_CTRL 5 4 (fld v 5 4)).scnRun := by
  have hset : fld (v ||| 1) 5 4 = fld v 5 4 := orWord_fld v (m := 0) (by simp) (by simp)
  have h0 : bitOf (v ||| 1) 0 = true := bitOf_or_self v 0 (by simp)
  have hclear : ∀ i, 1 ≤ i → i ≤ 3 → bitOf (v ||| 1) i = false := fun i hlo hhi =>
    orWord_clear (m := 0) (by simp) (by omega) (bitOf_of_fld_zero h31 hlo hhi)
  have h6' : bitOf (v ||| 1) 6 = false := orWord_clear (m := 0) (by simp) (by simp) h6
  unfold Dev.scnCtrl
  simp only [hset, h0, hclear 1, hclear 2, hclear 3, h6', Nat.le_refl, if_true, if_false, Nat.reduceLeDiff, Bool.false_eq_true]

theorem scnCtrl_stop {d : Dev} {v : Word} (h0 : bitOf v 0 = false) (h32 : fld v 3 2 = 0) (h6 : bitOf v 6 = false) :
    d.scnCtrl (v ||| 2) = (d.wf SCN_CTRL 5 4 (fld v 5 4)).scnStop := by
  have hset : fld (v ||| 2) 5 4 = fld v 5 4 := orWord_fld v (m := 1) (by simp) (by simp)
  have h1 : bitOf (v ||| 2) 1 = true := bitOf_or_self v 1 (by simp)
  have h0' : bitOf (v ||| 2) 0 = false := orWord_clear (m := 1) (by simp) (by simp) h0
  have hclear : ∀ i, 2 ≤ i → i ≤ 3 → bitOf (v ||| 2) i = false := fun i hlo hhi =>
    orWord_clear (m := 1) (by simp) (by omega) (bitOf_of_fld_zero h32 hlo hhi)
  have h6' : bitOf (v ||| 2) 6 = false := orWord_clear (m := 1) (by simp) (by simp) h6
  unfold Dev.scnCtrl
  simp only [hset, h1, h0', hclear 2, hclear 3, h6', Nat.le_refl, if_true, if_false, Nat.reduceLeDiff, Bool.false_eq_true]

theorem scnCtrl_hold {d : Dev} {v : Word} (h10 : fld v 1 0 = 0) (h3 : bitOf v 3 = false) (h6 : bitOf v 6 = false) :
    d.scnCtrl (v ||| 4) = (d.wf SCN_CTRL 5 4 (fld v 5 4)).scnHold := by
  have hset : fld (v ||| 4) 5 4 = fld v 5 4 := orWord_fld v (m := 2) (by simp) (by simp)
  have h2 : bitOf (v ||| 4) 2 = true := bitOf_or_self v 2 (by simp)
  have h3' : bitOf (v ||| 4) 3 = false := orWord_clear (m := 2) (by simp) (by simp) h3
  have hclear : ∀ i, 0 ≤ i → i ≤ 1 → bitOf (v ||| 4) i = false := fun i hlo hhi =>
    orWord_clear (m := 2) (by simp) (by omega) (bitOf_of_fld_zero h10 hlo hhi)
  have h6' : bitOf (v ||| 4) 6 = false := orWord_clear (m := 2) (by simp) (by simp) h6
  unfold Dev.scnCtrl
  simp only [hset, h2, h3', hclear 0, hclear 1, h6', Nat.le_refl, Nat.zero_le, if_true, if_false, Bool.false_eq_true]

theorem scnCtrl_release {d : Dev} {v : Word} (h20 : fld v 2 0 = 0) (h6 : bitOf v 6 = false) :
    d.scnCtrl (v ||| 8) = (d.wf SCN_CTRL 5 4 (fld v 5 4)).scnRelease := by
  have hset : fld (v ||| 8) 5 4 = fld v 5 4 := orWord_fld v (m := 3) (by simp) (by simp)
  have h3 : bitOf (v ||| 8) 3 = true := bitOf_or_self v 3 (by simp)
  have hclear : ∀ i, 0 ≤ i → i ≤ 2 → bitOf (v ||| 8) i = false := fun i hlo hhi =>
    orWord_clear (m := 3) (by simp) (by omega) (bitOf_of_fld_zero h20 hlo hhi)
  have h6' : bitOf (v ||| 8) 6 = false := orWord_clear (m := 3) (by simp) (by simp) h6
  unfold Dev.scnCtrl
  simp only [hset, h3, hclear 0, hclear 1, hclear 2, h6', Nat.le_refl, Nat.zero_le, if_true, if_false, Nat.reduceLeDiff, Bool.false_eq_true]

theorem scnCtrl_change {d : Dev} {v : Word} (h30 : fld v 3 0 = 0) :
    d.scnCtrl (v ||| 64) = (d.wf SCN_CTRL 5 4 (fld v 5 4)).scnChange := by
  have hset : fld (v ||| 64) 5 4 = fld v 5 4 := orWord_fld v (m := 6) (by simp) (by simp)
  have h6 : bitOf (v ||| 64) 6 = true := bitOf_or_self v 6 (by simp)
  have hclear : ∀ i, 0 ≤ i → i ≤ 3 → bitOf (v ||| 64) i = false := fun i hlo hhi =>
    orWord_clear (m := 6) (by simp) (by omega) (bitOf_of_fld_zero h30 hlo hhi)
  unfold Dev.scnCtrl
  simp only [hset, h6, hclear 0, hclear 1, hclear 2, hclear 3, Nat.le_refl, Nat.zero_le, if_true, if_false, Nat.reduceLeDiff, Bool.false_eq_true]

theorem periodNs_ctrl (d : Dev) (hi lo v : Nat) : periodNs (d.wf SCN_CTRL hi lo v) = periodNs d := by
  rw [periodNs, Dev.f, Dev.r_wf_ne _ _ _ _ (by simp)]
  rfl

theorem scnRun_starts {d : Dev} (hst : d.scn.state = .stop) (hs : d.scn.started = false) (hm : d.mode = .run) (hp : periodNs d ≠ 0)
    (hc : d.checkTasks (d.taskSet (SCN_TASK 0)) = 0) : d.scnRun = (d.scnStatus 0).setScn (fun c =>
      { c with started := true, nextLatch := some d.firstLatch, tasks := d.taskSet (SCN_TASK 0) }) := by
  unfold Dev.scnRun
  dsimp only
  rw [if_neg (by simp [hst, hs, hm]), if_neg hp, hc]
  rfl

theorem scnChange_pends {d : Dev} (hst : d.scn.state ≠ .stop) (hc : d.checkTasks (d.taskSet (SCN_CHG_TASK 0)) = 0)
    (hk : dupKey (d.instKeys d.instOther) = false)
    (ht : latNs d + d.taskLat (d.taskSet (SCN_CHG_TASK 0)) + outNs d + 2000 + 5 * d.f SCN_INST_CFG 12 0 ≤ periodNs d) :
    d.scnChange = (d.scnStatus 0).wb SCN_STAT 10 true := by
  unfold Dev.scnChange
  dsimp only
  rw [if_neg hst, hc, if_neg (not_not.mpr rfl), hk, if_neg Bool.false_ne_true, if_neg (Nat.not_lt.mpr ht)]

/-- The two bits of a field of two that is full. -/
theorem bits_of_fld_three {w : Word} (h : fld w 1 0 = 3) : bitOf w 0 = true ∧ bitOf w 1 = true := by
  have hbit : ∀ i, i < 2 → bitOf w i = true := by
    intro i hi
    have htest := congrArg (fun x => x.testBit i) h
    simp only [fld, Nat.testBit_mod_two_pow, Nat.shiftRight_zero, decide_eq_true (show i < 1 + 1 - 0 by omega), Bool.true_and] at htest
    rw [bitOf, htest]
    obtain rfl | rfl : i = 0 ∨ i = 1 := by omega
    · rfl
    · rfl
  exact ⟨hbit 0 (by simp), hbit 1 (by simp)⟩

/-! ### Publishes and the retained area -/

theorem stnPub_now {d : Dev} {n : Nat} {v : Word} (hv : fld v 1 0 = 3) (hp : d.scn.phase ≠ .latched) :
    d.stnPub n v = d.stnPublish n := by
  obtain ⟨h0, h1⟩ := bits_of_fld_three hv
  rw [Dev.stnPub, if_neg (by simp [h1]), if_neg (by simp [h0]), if_neg hp]

theorem stnPub_queued {d : Dev} {n : Nat} {v : Word} (hv : fld v 1 0 = 3) (hp : d.scn.phase = .latched) (hq : (d.stn n).queued = false) :
    d.stnPub n v = d.setStn n (fun x => { x with queued := true }) := by
  obtain ⟨h0, h1⟩ := bits_of_fld_three hv
  rw [Dev.stnPub, if_neg (by simp [h1]), if_neg (by simp [h0]), if_pos hp, hq]
  rfl

theorem retWrite_host {d : Dev} {who : Initiator} {i : Nat} {v : Word} (hw : isHost who = true) (hst : d.scn.state = .stop) :
    d.retWrite who i v = d.mwordSet (keyRet + 4 * i) v := by
  rw [Dev.retWrite, if_pos hw, if_pos hst]

/-- Between the cycles an engine's write of the retained area is logged for the next commit. -/
theorem retWrite_engine {d : Dev} {who : Initiator} {i : Nat} {v : Word} (hw : isHost who = false) (hst : d.scn.state = .run)
    (hp : d.scn.phase = .idle) (hl : d.scn.log.length < 2048) :
    d.retWrite who i v = d.setScn (fun c => { c with log := c.log ++ [(i, v)] }) := by
  unfold Dev.retWrite
  rw [hw, if_neg Bool.false_ne_true, if_neg (not_not.mpr hst), hp]
  dsimp only
  rw [if_neg (by simpa using hl)]
  rfl

/-! ### The instants of the cycle -/

theorem scanEcc_clean (d : Dev) (w : Nat) : d.scanEcc w .clean = d := by
  unfold Dev.scanEcc
  split
  · exact readEcc_clean ..
  · rfl

theorem scanLatchRow_clean (d : Dev) : d.scanLatchRow .clean = d.scanLatch := by
  unfold Dev.scanLatchRow
  dsimp only
  rw [scanEcc_clean, ite_self]

theorem scanCommitRow_clean (d : Dev) : d.scanCommitRow .clean = d.scanCommit := by
  unfold Dev.scanCommitRow
  dsimp only
  rw [scanEcc_clean, ite_self]

/-- A latch instant that has come, with the next one named. -/
def Dev.latchNamed (d : Dev) (t0 : Word) : Dev := d.setScn (fun c => { c with nextLatch := some (t0 + w32 (periodNs d)) })

/-- A latch instant at which no task is lost: it begins RUN, passes in HOLD, or begins a cycle. -/
theorem scanLatch_due {d x : Dev} {t0 : Word} (hn : d.scn.nextLatch = some t0) (hr : reached d.tb.st t0 = true)
    (hx : x = (d.latchNamed t0).bindNext) (ha : d.agreeing = false) (hpfw : d.pwr.pfw = false)
    (hm : d.scn.started = false ∨ d.mode = .run) (hl : x.scn.tasks.any x.taskLost = false) : d.scanLatch =
      if x.scn.started || (x.scn.state = .hold && x.scn.releaseReq && x.mode = .run) then x.scanRestart.latchAt t0
      else if x.scn.state = .hold then x.cnt (SCN_CNT 2) else if x.scn.state = .run then x.latchAt t0 else x := by
  have hgo : ¬ ((d.latchNamed t0).agreeing || (d.latchNamed t0).pwr.pfw ||
      ((d.latchNamed t0).scn.started && decide ((d.latchNamed t0).mode ≠ .run))) = true := by
    have hstart : (d.scn.started && decide (d.mode ≠ .run)) = false := by
      obtain h | h := hm
      · rw [h, Bool.false_and]
      · simp [h]
    have hstart' : ((d.latchNamed t0).scn.started && decide ((d.latchNamed t0).mode ≠ .run)) = false := hstart
    rw [hstart', show (d.latchNamed t0).agreeing = false from ha, show (d.latchNamed t0).pwr.pfw = false from hpfw]
    simp
  unfold Dev.scanLatch
  rw [hn]
  dsimp only
  rw [if_neg (by simp [hr])]
  rw [← Dev.latchNamed, if_neg hgo, ← hx, hl, if_neg Bool.false_ne_true]

theorem scanLatch_withheld {d : Dev} {t0 : Word} (hn : d.scn.nextLatch = some t0) (hr : reached d.tb.st t0 = true)
    (ha : d.agreeing = true ∨ d.pwr.pfw = true) : d.scanLatch = d.latchNamed t0 := by
  unfold Dev.scanLatch
  rw [hn]
  dsimp only
  rw [if_neg (by simp [hr]), ← Dev.latchNamed, if_pos]
  obtain h | h := ha
  · rw [show (d.latchNamed t0).agreeing = true from h]
    rfl
  · rw [show (d.latchNamed t0).pwr.pfw = true from h]
    simp

theorem scanCopyDone_scn {d : Dev} (hp : d.scn.phase = .latched) (hr : reached d.tb.st d.scn.tE = true) :
    d.scanCopyDone.scn.phase = .copied ∧ d.scanCopyDone.scn.firstCycle = false ∧ d.scanCopyDone.scn.afterChange = false := by
  unfold Dev.scanCopyDone
  rw [if_neg (by simp [hp, hr])]
  exact ⟨rfl, rfl, rfl⟩

/-- The judgement at the seal instant. -/
theorem scanSealJudge_ok {d : Dev} (hp : d.scn.phase = .copied) (hr : reached d.tb.st (d.scn.tK - 64) = true)
    (hs : (d.scn.tasks.filterMap d.chanOf).all d.taskSealed = true) (hw : d.scn.withheld = false) :
    d.scanSealJudge = d.setScn (fun c => { c with phase := .judged, commits := true, overruns := 0 }) := by
  unfold Dev.scanSealJudge
  rw [if_neg (by simpa [hp] using hr), hs, hw]
  rfl

theorem scanOverrun_parts (d : Dev) : d.scanOverrun.scn = { d.scn with commits := false, overruns := d.scn.overruns + 1, log := [] } ∧
    d.scanOverrun.mem = d.mem := by
  unfold Dev.scanOverrun
  dsimp only
  obtain ⟨hmem, -, -, -, -, -, -, -, -, -, hscn, -⟩ := ringBit_parts ((d.setScn (fun s =>
    { s with commits := false, overruns := s.overruns + 1, log := [] })).cnt (SCN_CNT 1)) .scn 0
  exact ⟨hscn, hmem⟩

theorem scanSealJudge_overrun {d : Dev} (hp : d.scn.phase = .copied) (hr : reached d.tb.st (d.scn.tK - 64) = true)
    (hs : (d.scn.tasks.filterMap d.chanOf).all d.taskSealed = false ∨ d.scn.withheld = true) :
    d.scanSealJudge = (d.setScn (fun c => { c with phase := .judged, commits := false })).scanOverrun := by
  have hok : ((d.scn.tasks.filterMap d.chanOf).all d.taskSealed && !d.scn.withheld) = false := by
    obtain h | h := hs
    · rw [h, Bool.false_and]
    · rw [h, Bool.not_true, Bool.and_false]
  unfold Dev.scanSealJudge
  rw [if_neg (by simpa [hp] using hr), hok]
  rfl

/-- A commit of a cycle that neither a change, a stop nor an overrun limit follows. -/
theorem scanCommit_commits {d x : Dev} (hp : d.scn.phase = .judged) (hr : reached d.tb.st d.scn.tK = true) (hc : d.scn.commits = true)
    (hst : d.scn.state = .run)
    (hx : x = (((d.each d.stnUsed (fun d n => d.stnCommit n)).applyLog).cnt (SCN_CNT 0)).setScn (fun c => { c with retValid := true }))
    (hchg : x.b SCN_STAT 10 = false) (hstop : x.scn.stopReq = false) (hlim : x.b SCN_CFG 24 = false) :
    d.scanCommit = x.setScn (fun c => { c with
      phase := .committed, commits := true, log := c.nextLog, nextLog := [],
      commitTo := x.stnUsed.filter (fun n => !(x.stn n).dropped) }) := by
  unfold Dev.scanCommit
  rw [if_neg (by simp [hp, hr]), hc, hst]
  dsimp only
  rw [← hx]
  simp only [decide_true, Bool.and_true, if_true, hchg, Bool.false_eq_true, if_false]
  rw [if_neg (by simpa using hstop), if_neg (by rw [show (x.setScn _).b SCN_CFG 24 = false from hlim]; simp)]

theorem scanCommit_withholds {d : Dev} (hp : d.scn.phase = .judged) (hr : reached d.tb.st d.scn.tK = true) (hc : d.scn.commits = false)
    (hstop : d.scn.stopReq = false) (hlim : d.b SCN_CFG 24 = false) :
    d.scanCommit = d.setScn (fun c => { c with
      phase := .committed, commits := false, log := c.nextLog, nextLog := [],
      commitTo := d.stnUsed.filter (fun n => !(d.stn n).dropped) }) := by
  unfold Dev.scanCommit
  rw [if_neg (by simp [hp, hr]), hc, Bool.false_and]
  simp only [Bool.false_eq_true, if_false]
  rw [if_neg (by simpa using hstop), if_neg (by rw [show (d.setScn _).b SCN_CFG 24 = false from hlim]; simp)]

end Sys2Proof.Machine
end

section
namespace Sys2Proof.Machine

/-- Settles O12: each request with its state lemma. -/
theorem scanRequestsComplete : Obligations.ScanRequestsComplete := by
  unfold Obligations.ScanRequestsComplete
  refine ⟨?run, ?stop, ?hold, ?release, ?change, ?publish, ?queue, ?host, ?engine⟩
  case run =>
    intro s who v x hr hx h31 h6 hst hs hm hp hc
    refine completes_lift exec_scanRun ?_
    have hper : periodNs x ≠ 0 := by rw [hx, periodNs_ctrl]; exact hp
    have hxst : x.scn.state = .stop := by rw [hx]; exact hst
    have hxs : x.scn.started = false := by rw [hx]; exact hs
    have hxm : x.mode = .run := by rw [hx]; exact hm
    rw [access_of_reaches hr, scnCtrl_run h31 h6, ← hx, scnRun_starts hxst hxs hxm hper hc]
    refine ⟨?_, rfl⟩
    exact Dev.f_wf_self x SCN_STAT 0 (by simp) (by simp)
  case stop =>
    intro s who v x hr hx h0 h32 h6 hst
    refine completes_lift exec_scanStop ?_
    rw [access_of_reaches hr, scnCtrl_stop h0 h32 h6, ← hx, Dev.scnStop, if_neg (by rw [hx]; exact not_not.mpr hst)]
  case hold =>
    intro s who v x hr hx h10 h3 h6 hst hd
    refine completes_lift exec_scanHold ?_
    have hdx : x.debug = true := by rw [hx]; exact hd
    rw [access_of_reaches hr, scnCtrl_hold h10 h3 h6, ← hx, Dev.scnHold, if_neg (by rw [hx]; exact not_not.mpr hst), hdx]
    rfl
  case release =>
    intro s who v x hr hx h20 h6 hst
    refine completes_lift exec_scanRelease ?_
    rw [access_of_reaches hr, scnCtrl_release h20 h6, ← hx, Dev.scnRelease, if_neg (by rw [hx]; exact not_not.mpr hst)]
  case change =>
    intro s who v x hr hx h30 hst hc hk ht
    refine completes_lift exec_scanChange ?_
    rw [access_of_reaches hr, scnCtrl_change h30, ← hx]
    exact scnChange_pends (by rw [hx]; exact hst) hc hk ht
  case publish =>
    intro s who n v hr hv hp
    refine completes_lift exec_stationPublish ?_
    rw [access_of_reaches hr, stnPub_now hv hp]
    rfl
  case queue =>
    intro s who n v hr hv hp hq
    refine completes_lift exec_stationPublish ?_
    rw [access_of_reaches hr, stnPub_queued hv hp hq]
  case host =>
    intro s who i v hr hw hst
    refine completes_lift exec_retainedWrite ?_
    rw [access_of_reaches hr, retWrite_host hw hst]
  case engine =>
    intro s who i v hr hw hst hp hl
    refine completes_lift exec_retainedWrite ?_
    rw [access_of_reaches hr, retWrite_engine hw hst hp hl]

end Sys2Proof.Machine
end

section
namespace Sys2Proof.Machine

/-- Settles O13: each instant of the cycle with its state lemma. -/
theorem scanCycleComplete : Obligations.ScanCycleComplete := by
  unfold Obligations.ScanCycleComplete
  refine ⟨?latch, ?begins, ?passes, ?withheld, ?copied, ?sealed, ?overrun, ?commits, ?withholds, ?output⟩
  case latch =>
    intro s t0 x hn hr hx ha hpfw hs hxs hst hl
    refine completes_lift exec_scanLatch ?_
    rw [scanLatchRow_clean, scanLatch_due hn hr hx ha hpfw (.inl hs) hl, hxs, hst]
    rfl
  case begins =>
    intro s t0 x hn hr hx ha hpfw hm hxs hl
    refine completes_lift exec_scanLatch ?_
    rw [scanLatchRow_clean, scanLatch_due hn hr hx ha hpfw (.inr hm) hl, hxs]
    rfl
  case passes =>
    intro s t0 x hn hr hx ha hpfw hs hxs hst hrel hl
    refine completes_lift exec_scanLatch ?_
    rw [scanLatchRow_clean, scanLatch_due hn hr hx ha hpfw (.inl hs) hl, hxs, hst, hrel]
    rfl
  case withheld =>
    intro s t0 hn hr ha
    refine completes_lift exec_scanLatch ?_
    rw [scanLatchRow_clean, scanLatch_withheld hn hr ha]
    rfl
  case copied =>
    intro s hp hr
    exact completes_lift exec_scanCopyDone (scanCopyDone_scn hp hr)
  case sealed =>
    intro s hp hr hs hw
    exact completes_lift exec_scanSealJudge (scanSealJudge_ok hp hr hs hw)
  case overrun =>
    intro s hp hr hs
    refine completes_lift exec_scanSealJudge ?_
    obtain ⟨hscn, hmem⟩ := scanOverrun_parts (s.dev.setScn (fun c => { c with phase := .judged, commits := false }))
    rw [scanSealJudge_overrun hp hr hs]
    exact ⟨hscn, hmem⟩
  case commits =>
    intro s x hp hr hc hst hx hchg hstop hlim
    refine completes_lift exec_scanCommit ?_
    rw [scanCommitRow_clean]
    exact scanCommit_commits hp hr hc hst hx hchg hstop hlim
  case withholds =>
    intro s e hp hr hc hstop hlim
    refine completes_lift exec_scanCommit ?_
    rw [Dev.scanCommitRow, hc, Bool.and_false]
    exact scanCommit_withholds hp hr hc hstop hlim
  case output =>
    intro s x hp hr hx
    refine completes_lift exec_scanOutputDone ?_
    show s.dev.scanOutputDone = _
    unfold Dev.scanOutputDone
    rw [if_neg (by simp [hp, hr])]
    dsimp only
    rw [← hx]

end Sys2Proof.Machine
end

section
/-!
SUPPORT. The commands of the security unit (R493-R507): OTP words that a command ORs, and what its completion leaves alone.
-/
namespace Sys2Proof.Machine

/-! ### OTP words -/

theorem otp_otpOr (d : Dev) (i j : Nat) (v : Word) :
    (d.otpOr i v 0).otp j = if j = i then d.otp i ||| v else d.otp j := by
  rw [Dev.otp, Dev.otpOr, Dev.setSec, tget_tset]
  split
  · rw [Dev.otp]
    congr 1
    exact BitVec.and_allOnes
  · rfl

theorem otp_setSec (d : Dev) (f : Security → Security) (h : ∀ s, (f s).otp = s.otp) (j : Nat) : (d.setSec f).otp j = d.otp j := by
  rw [Dev.otp, Dev.setSec, h, Dev.otp]

/-- A command's OR into consecutive words from `a` on. -/
def Dev.otpOrs (d : Dev) (a : Nat) (v : Nat → Word) (n : Nat) : Dev := (List.range n).foldl (fun d i => d.otpOr (a + i) (v i) 0) d

theorem otpOrs_succ (d : Dev) (a : Nat) (v : Nat → Word) (n : Nat) : d.otpOrs a v (n + 1) = (d.otpOrs a v n).otpOr (a + n) (v n) 0 := by
  rw [Dev.otpOrs, List.range_succ, List.foldl_append]
  rfl

theorem otp_otpOrs (d : Dev) (a : Nat) (v : Nat → Word) (n j : Nat) :
    (d.otpOrs a v n).otp j = if a ≤ j ∧ j < a + n then d.otp j ||| v (j - a) else d.otp j := by
  induction n with
  | zero => rw [if_neg (by omega)]; rfl
  | succ n ih =>
    rw [otpOrs_succ, otp_otpOr]
    split
    next h =>
      rw [h, if_pos (by omega)]
      have hprev : (d.otpOrs a v n).otp (a + n) = d.otp (a + n) := by
        rw [h] at ih
        rw [ih, if_neg (by omega)]
      rw [hprev]
      congr 2
      omega
    next h =>
      rw [ih]
      by_cases hin : a ≤ j ∧ j < a + n
      · rw [if_pos hin, if_pos (by omega)]
      · rw [if_neg hin, if_neg (by omega)]

/-- Beside its OTP words the unit, and the whole rest of the device, stay. -/
theorem otpOrs_rest (d : Dev) (a : Nat) (v : Nat → Word) (n : Nat) :
    ∃ o, d.otpOrs a v n = { d with sec := { d.sec with otp := o } } := by
  induction n with
  | zero => exact ⟨d.sec.otp, rfl⟩
  | succ n ih =>
    obtain ⟨o, ho⟩ := ih
    rw [otpOrs_succ, ho]
    exact ⟨_, rfl⟩

/-! ### Completion -/

theorem secDone_sec (d : Dev) (status : Nat) : (d.secDone status).sec = d.sec ∧ (d.secDone status).mem = d.mem := by
  unfold Dev.secDone
  dsimp only
  simp only [ringBit_parts, Dev.w_frame, and_self]

/-- A command in its lifecycle and mode, from a party that may give it, is carried out. -/
theorem secCmd_takes {d : Dev} {who : Initiator} {v : Word} {h : Bool} {lc : List Nat} {modes : List Mode} {f : Dev → Dev}
    (ht : d.secTakes who v h lc modes) : d.secCmd who v h lc modes f = (f d).tapView d := by
  obtain ⟨hr, hhost, hkey, hlc, hmode⟩ := ht
  have hmay : ¬ (h && !(isHost who)) = true := by
    cases h with
    | false => simp
    | true => simp [hhost rfl]
  rw [Dev.secCmd, access_of_reaches hr, if_neg hmay, if_neg (by simp [hkey]), if_neg (by simpa using hlc), if_neg (by simp [hmode])]

theorem secCmd_sec {d x : Dev} {status : Nat} : ((x.secDone status).tapView d).sec = x.sec ∧ ((x.secDone status).tapView d).mem = x.mem := by
  simp only [tapView_parts, secDone_sec, and_self]

theorem secCmd_otp {d x : Dev} {status : Nat} (j : Nat) : ((x.secDone status).tapView d).otp j = x.otp j := by
  rw [Dev.otp, secCmd_sec.1, Dev.otp]

/-! ### The commands -/

/-- A lifecycle word all of whose bits program. -/
theorem otpOr_full (d : Dev) (i : Nat) : (d.otpOr i 0xFFFFFFFF 0).otp i = 0xFFFFFFFF := by
  rw [otp_otpOr, if_pos rfl]
  exact BitVec.or_allOnes

theorem bufSet_rest (d : Dev) (i : Nat) (l : List Word) : (d.bufSet i l).sec = d.sec ∧ (d.bufSet i l).mem = d.mem :=
  ⟨foldl_keeps Dev.sec _ (fun d j => d.w (SEC_BUF (i + j)) (l.getD j 0)) (fun _ _ => rfl) d,
    foldl_keeps Dev.mem _ (fun d j => d.w (SEC_BUF (i + j)) (l.getD j 0)) (fun _ _ => rfl) d⟩

/-- PROVISION with a root key hash present and a generator that runs. -/
theorem secProvision_ok {d : Dev} {i : Nat} (h4 : 4 ≤ i) (h52 : i < 52) (hi : d.otp i ≠ 0) (hf : d.sec.rngFail = false)
    (hc : d.b SEC_CTRL 0 = true) : ∃ (p : List Word),
    d.secProvision = (((({ d with freeCtr := d.freeCtr + 12 } : Dev).otpOrs 65 (fun j => Config.randomWord (d.freeCtr + j)) 12).setSec
      (fun s => { s with idPub := p })).otpOr 0 0xFFFFFFFF 0).secDone 0 := by
  have hroot : ¬ (List.range 48).all (fun i => decide (d.otp (4 + i) = 0)) = true := by
    intro hall
    have hz := List.all_eq_true.mp hall (i - 4) (List.mem_range.mpr (by omega))
    rw [show 4 + (i - 4) = i by omega] at hz
    exact hi (of_decide_eq_true hz)
  have hup : d.rngUp = true := by rw [Dev.rngUp, hf, hc]; rfl
  unfold Dev.secProvision
  rw [if_neg hroot, hup, if_neg (by simp)]
  exact ⟨_, rfl⟩

theorem secRetire_eq (d : Dev) : d.secRetire 0 =
    ((((d.otpOrs 65 (fun _ => 0xFFFFFFFF) 12).setSec (fun s => { s with dbgUnlocked := false })).otpOr 2 0xFFFFFFFF 0).secDone 0) := by
  have hfull := otpOr_full ((d.otpOrs 65 (fun _ => 0xFFFFFFFF) 12).setSec (fun s => { s with dbgUnlocked := false })) 2
  unfold Dev.secRetire
  dsimp only
  rw [show (List.range 12).foldl (fun d i => d.otpOr (65 + i) 0xFFFFFFFF 0) d = d.otpOrs 65 (fun _ => 0xFFFFFFFF) 12 from rfl, hfull,
    if_pos rfl]

/-- RETIRE destroys the identity key and closes debug access. -/
theorem secRetire_parts (d : Dev) : ∃ (x : Dev), d.secRetire 0 = x.secDone 0 ∧ x.otp 2 = 0xFFFFFFFF ∧
    (∀ j, j < 12 → x.otp (65 + j) = 0xFFFFFFFF) ∧ x.sec.dbgUnlocked = false ∧ x.mem = d.mem := by
  obtain ⟨o, ho⟩ := otpOrs_rest d 65 (fun _ => 0xFFFFFFFF) 12
  have hors := otp_otpOrs d 65 (fun _ => 0xFFFFFFFF) 12
  rw [secRetire_eq]
  generalize d.otpOrs 65 (fun _ => 0xFFFFFFFF) 12 = x at ho hors
  refine ⟨_, rfl, otpOr_full _ _, fun j hj => ?_, rfl, ?_⟩
  · rw [otp_otpOr, if_neg (by omega), otp_setSec _ _ (by intro _; rfl), hors, if_pos (by omega)]
    exact BitVec.or_allOnes
  · rw [ho]
    rfl

/-- PROVISION draws the identity key and takes the first lifecycle step. -/
theorem secProvision_parts {d : Dev} {i : Nat} (h4 : 4 ≤ i) (h52 : i < 52) (hi : d.otp i ≠ 0) (hf : d.sec.rngFail = false)
    (hc : d.b SEC_CTRL 0 = true) : ∃ (x : Dev), d.secProvision = x.secDone 0 ∧ x.otp 0 = 0xFFFFFFFF ∧
    (∀ j, j < 12 → x.otp (65 + j) = d.otp (65 + j) ||| Config.randomWord (d.freeCtr + j)) ∧
    (∀ j, j ≠ 0 → (j < 65 ∨ 77 ≤ j) → x.otp j = d.otp j) ∧ x.mem = d.mem := by
  obtain ⟨p, hp⟩ := secProvision_ok h4 h52 hi hf hc
  have hdrawn : ∀ j, ({ d with freeCtr := d.freeCtr + 12 } : Dev).otp j = d.otp j := fun _ => rfl
  have hmem : ({ d with freeCtr := d.freeCtr + 12 } : Dev).mem = d.mem := rfl
  rw [hp]
  generalize ({ d with freeCtr := d.freeCtr + 12 } : Dev) = y at hdrawn hmem
  obtain ⟨o, ho⟩ := otpOrs_rest y 65 (fun j => Config.randomWord (d.freeCtr + j)) 12
  have hors := otp_otpOrs y 65 (fun j => Config.randomWord (d.freeCtr + j)) 12
  generalize y.otpOrs 65 (fun j => Config.randomWord (d.freeCtr + j)) 12 = x at ho hors
  have hotp : ∀ j, j ≠ 0 → ((x.setSec (fun s => { s with idPub := p })).otpOr 0 0xFFFFFFFF 0).otp j = x.otp j := fun j hj => by
    rw [otp_otpOr, if_neg hj, otp_setSec _ _ (by intro _; rfl)]
  refine ⟨_, rfl, otpOr_full _ _, fun j hj => ?_, fun j hj hout => ?_, ?_⟩
  · rw [hotp _ (by omega), hors, if_pos (by omega), Nat.add_sub_cancel_left, hdrawn]
  · rw [hotp _ hj, hors, if_neg (by omega), hdrawn]
  · rw [ho, ← hmem]
    rfl

/-- ROLLFWD to a value above the counter's own that the booted images allow. -/
theorem secRollfwd_ok {d : Dev} (h128 : d.f SEC_CMD_ARG 15 8 ≤ 128) (hroll : d.roll (d.f SEC_CMD_ARG 5 0) < d.f SEC_CMD_ARG 15 8)
    (hboot : d.f SEC_CMD_ARG 15 8 ≤ tget 0 d.sec.booted (d.f SEC_CMD_ARG 5 0)) : d.secRollfwd =
    (d.otpOrs (256 + 4 * d.f SEC_CMD_ARG 5 0) (fun i => w32 (2 ^ (Nat.min 32 (d.f SEC_CMD_ARG 15 8 - 32 * i)) - 1)) 4).secDone 0 := by
  unfold Dev.secRollfwd
  dsimp only
  rw [if_neg (by omega), if_neg (by omega), if_neg (by omega)]
  rfl

theorem secOtpProg_ok {d : Dev} {i : Nat} (hi : i = d.f SEC_CMD_ARG 8 0) (hmay : d.otpMay i = true)
    (hm : d.modeIn [.provision, .stop] = true) (h52 : i = 52 → fld (d.otp 52 ||| d.r (SEC_BUF 0)) 3 0 ≠ 15) :
    d.secOtpProg 0 = (d.otpOr i (d.r (SEC_BUF 0)) 0).secDone 0 := by
  unfold Dev.secOtpProg
  dsimp only
  rw [← hi, hmay, hm, if_neg (by simp), if_neg (by simp), if_neg (by simpa using h52), otp_otpOr, if_pos rfl, if_pos rfl]

theorem secDbgChal_ok {d : Dev} (hf : d.sec.rngFail = false) (hc : d.b SEC_CTRL 0 = true) : d.secDbgChal =
    ((({ d with freeCtr := d.freeCtr + 8 } : Dev).setSec (fun s =>
      { s with challenge := some ((List.range 8).map (fun i => Config.randomWord (d.freeCtr + i))) })).bufSet 0
        ((List.range 8).map (fun i => Config.randomWord (d.freeCtr + i)))).secDone 0 := by
  have hup : d.rngUp = true := by rw [Dev.rngUp, hf, hc]; rfl
  unfold Dev.secDbgChal
  rw [hup]
  rfl

/-- DBG_UNLOCK with a challenge, its key the device's own, before the third failure. -/
theorem secDbgUnlock_judged {d : Dev} {c : List Word} (hc : d.sec.challenge = some c) (hf : d.sec.dbgFails < 3)
    (hk : sha384b (d.buf 0 24) = d.otpBytes 53 12) : ∃ (n status : Nat), d.secDbgUnlock = (d.setSec (fun s =>
      { s with challenge := none, dbgUnlocked := (s.dbgUnlocked || Config.p384Verify (d.buf 0 24) (sha384b (wordBytes c ++ d.uidBytes))
          (d.buf 24 24)), dbgFails := n })).secDone status := by
  have hjudge : (decide (d.sec.dbgFails < 3) && sha384b (d.buf 0 24) == d.otpBytes 53 12 &&
      Config.p384Verify (d.buf 0 24) (sha384b (wordBytes c ++ d.uidBytes)) (d.buf 24 24)) =
      Config.p384Verify (d.buf 0 24) (sha384b (wordBytes c ++ d.uidBytes)) (d.buf 24 24) := by
    rw [decide_eq_true hf, hk, beq_self_eq_true]
    rfl
  unfold Dev.secDbgUnlock
  rw [hc]
  dsimp only
  rw [hjudge]
  exact ⟨_, _, rfl⟩

end Sys2Proof.Machine
end

section
namespace Sys2Proof.Machine

/-- Settles O14: each command taken in its lifecycle and mode, with its state lemma. -/
theorem securityCommandsComplete : Obligations.SecurityCommandsComplete := by
  unfold Obligations.SecurityCommandsComplete
  refine ⟨?provision, ?field, ?retire, ?attest, ?extend, ?rollfwd, ?otpProg, ?dbgChal, ?dbgUnlock, ?dbgLock, ?rngRestart, ?unknown⟩
  case provision =>
    intro s who v h i ht h4 h52 hi hf hc
    obtain ⟨x, hx, h0, hkey, hrest, hmem⟩ := secProvision_parts h4 h52 hi hf hc
    refine completes_lift exec_provision ?_
    rw [secCmd_takes ht, hx]
    exact ⟨(secCmd_otp 0).trans h0, fun j hj => (secCmd_otp _).trans (hkey j hj),
      fun j hj hout => (secCmd_otp j).trans (hrest j hj hout), secCmd_sec.2.trans hmem⟩
  case field =>
    intro s who v h ht
    refine completes_lift exec_field ?_
    rw [secCmd_takes ht, Dev.secField, otpOr_full, if_pos rfl]
    exact ⟨rfl, by rw [secCmd_otp, otpOr_full]⟩
  case retire =>
    intro s who v h ht
    obtain ⟨x, hx, h2, hkey, hdbg, hmem⟩ := secRetire_parts s.dev
    refine completes_lift exec_retire ?_
    rw [secCmd_takes ht, hx]
    refine ⟨(secCmd_otp 2).trans h2, List.all_eq_true.mpr fun j hj => decide_eq_true ?_, ?_, secCmd_sec.2.trans hmem⟩
    · exact (secCmd_otp _).trans (hkey j (List.mem_range.mp hj))
    · rw [secCmd_sec.1, hdbg]
  case attest =>
    intro s who v h ht hk
    refine completes_lift exec_attest ?_
    rw [secCmd_takes ht, Dev.secAttest, hk]
    rfl
  case extend =>
    intro s who v h ht
    refine completes_lift exec_extend ?_
    rw [secCmd_takes ht]
    refine ⟨?_, fun j hj => ?_, ?_, ?_⟩
    · rw [Dev.measure, secCmd_sec.1, Dev.extend, Dev.setSec, tget_tset_self]
      rfl
    · rw [Dev.measure, secCmd_sec.1, Dev.extend, Dev.setSec, tget_tset_ne _ _ _ _ _ hj]
      rfl
    · rw [secCmd_sec.1]
      rfl
    · rw [secCmd_sec.2]
      rfl
  case rollfwd =>
    intro s who v h ht h128 hroll hboot
    have hors := otp_otpOrs s.dev (256 + 4 * s.dev.f SEC_CMD_ARG 5 0)
      (fun i => w32 (2 ^ (Nat.min 32 (s.dev.f SEC_CMD_ARG 15 8 - 32 * i)) - 1)) 4
    obtain ⟨o, ho⟩ := otpOrs_rest s.dev (256 + 4 * s.dev.f SEC_CMD_ARG 5 0)
      (fun i => w32 (2 ^ (Nat.min 32 (s.dev.f SEC_CMD_ARG 15 8 - 32 * i)) - 1)) 4
    refine completes_lift exec_rollfwd ?_
    rw [secCmd_takes ht, secRollfwd_ok h128 hroll hboot]
    refine ⟨fun i hi => ?_, ?_⟩
    · rw [secCmd_otp, hors, if_pos (by omega), Nat.add_sub_cancel_left]
    · rw [secCmd_sec.2, ho]
  case otpProg =>
    intro s who v h i ht hi hmay hm h52
    refine completes_lift exec_otpProg ?_
    rw [secCmd_takes ht, secOtpProg_ok hi hmay hm h52]
    exact ⟨rfl, by rw [secCmd_otp, otp_otpOr, if_pos rfl]⟩
  case dbgChal =>
    intro s who v h ht hf hc
    refine completes_lift exec_dbgChal ?_
    rw [secCmd_takes ht, secDbgChal_ok hf hc, secCmd_sec.1, secCmd_sec.2, (bufSet_rest ..).1, (bufSet_rest ..).2]
    exact ⟨rfl, rfl⟩
  case dbgUnlock =>
    intro s who v h c ht hc hf hk
    obtain ⟨n, status, hu⟩ := secDbgUnlock_judged hc hf hk
    refine completes_lift exec_dbgUnlock ?_
    rw [secCmd_takes ht, hu, secCmd_sec.1, secCmd_sec.2]
    exact ⟨rfl, rfl, rfl⟩
  case dbgLock =>
    intro s who v h ht
    refine completes_lift exec_dbgLock ?_
    rw [secCmd_takes ht]
  case rngRestart =>
    intro s who v h healthy ht
    refine completes_lift exec_rngRestart ?_
    rw [secCmd_takes ht]
    refine ⟨?_, rfl⟩
    cases healthy with
    | true => exact secCmd_sec.1
    | false =>
      refine secCmd_sec.1.trans ?_
      simp only [Dev.rngBad, ringBit_parts]
      rfl
  case unknown =>
    intro s who v h ht hv
    refine completes_lift exec_unknownSecCmd ?_
    rw [if_neg (by simp; omega), secCmd_takes ht]

end Sys2Proof.Machine
end

section
/-!
SUPPORT. An instruction of the test access port (R529, R530): it stands in the register, and acts where the port is open.
-/
namespace Sys2Proof.Machine

theorem tapSet_parts (d : Dev) (i : TapInstr) : (d.tapSet i).tap = { d.tap with ir := i, bypass := false } ∧
    (d.tapSet i).mem = d.mem ∧ (d.tapSet i).regs = d.regs ∧ (d.tapSet i).pwr = d.pwr ∧ (d.tapSet i).sec = d.sec := by
  unfold Dev.tapSet
  simp only [pinsSeen_parts]
  exact ⟨rfl, rfl, rfl, rfl, rfl⟩

/-- Whether the port is open rests on the power modes and the security unit. -/
theorem tapOpen_of_parts {d x : Dev} (hp : d.pwr = x.pwr) (hs : d.sec = x.sec) : d.tapOpen = x.tapOpen := by
  cases d
  cases x
  cases hp
  cases hs
  rfl

theorem tapSet_open (d : Dev) (i : TapInstr) : (d.tapSet i).tapOpen = d.tapOpen := by
  obtain ⟨-, -, -, hpwr, hsec⟩ := tapSet_parts d i
  exact tapOpen_of_parts hpwr hsec

/-- An instruction that acts on the pads does so where the port is open; elsewhere it acts as BYPASS. -/
theorem tapSet_acts (d : Dev) {i : TapInstr} (h : i.pads = true) :
    (d.tapSet i).tapActs = if d.tapOpen then i else .bypass := by
  rw [Dev.tapActs, tapSet_open, (tapSet_parts d i).1, h]
  cases d.tapOpen with
  | true => rfl
  | false => rfl

end Sys2Proof.Machine
end

section
namespace Sys2Proof.Machine

/-- Settles O26: the six instructions by what loading one does. -/
theorem tapComplete : Obligations.TapComplete := by
  unfold Obligations.TapComplete
  have hpads : ∀ (d : Dev) (i : TapInstr), i.pads = true → (d.tapSet i).tap.ir = i ∧
      (d.tapSet i).tapActs = (if d.tapOpen then i else .bypass) ∧ (d.tapSet i).tap.bypass = false ∧ (d.tapSet i).mem = d.mem ∧
      (d.tapSet i).regs = d.regs := by
    intro d i h
    obtain ⟨htap, hmem, hregs, -, -⟩ := tapSet_parts d i
    exact ⟨congrArg Tap.ir htap, tapSet_acts d h, congrArg Tap.bypass htap, hmem, hregs⟩
  refine ⟨?extest, ?clamp, ?highz, ?bypass, ?idcode, ?sample⟩
  case extest => exact fun s => completes_lift exec_extest (hpads s.dev .extest rfl)
  case clamp => exact fun s => completes_lift exec_clamp (hpads s.dev .clamp rfl)
  case highz => exact fun s => completes_lift exec_highz (hpads s.dev .highz rfl)
  case bypass =>
    intro s
    obtain ⟨htap, hmem, hregs, -, -⟩ := tapSet_parts s.dev .bypass
    exact completes_lift exec_bypass ⟨congrArg Tap.ir htap, congrArg Tap.bypass htap, hmem, hregs⟩
  case idcode =>
    intro s
    obtain ⟨htap, hmem, hregs, -, -⟩ := tapSet_parts s.dev .idcode
    refine completes_lift exec_idcode ?_
    generalize s.dev.tapSet .idcode = x at htap hmem hregs ⊢
    exact ⟨congrArg Tap.ir htap, ⟨x, rfl⟩, hmem, hregs⟩
  case sample =>
    intro s pads shiftIn
    obtain ⟨htap, hmem, hregs, -, -⟩ := tapSet_parts s.dev .sample
    refine completes_lift exec_samplePreload ?_
    generalize s.dev.tapSet .sample = x at htap hmem hregs ⊢
    exact ⟨congrArg Tap.ir htap, rfl, rfl, hmem, hregs⟩

end Sys2Proof.Machine
end

section
/-!
SUPPORT. Banks, the ordering buffer, strikes, scrubbers and refresh with clean codewords (R250-R273).
-/
namespace Sys2Proof.Machine

/-! ### Bank ports -/

section
variable {b : Nat} {d before : Dev} {port : Nat} {a : PortAccess}

theorem servedOp_none (h : a.eng = none) : d.servedOp b port a = none := by rw [Dev.servedOp, h]

theorem served_other (h : a.eng = none) : d.served b port a = true := by rw [Dev.served, h]; rfl

/-- A read by another requester leaves the device. -/
theorem portDo_read (he : a.eng = none) (hw : a.write = false) (ha : a.atomic = none) (hc : a.ecc = .clean) :
    d.portDo before b port a = d := by
  have hkind : slotKind a = .read := by simp [slotKind, ha, hw]
  unfold Dev.portDo
  simp only [served_other he, servedOp_none he, hkind, hc, readEcc_clean, ite_self, Bool.not_true, Bool.false_eq_true]

theorem slotKind_write (hw : a.write = true) (ha : a.atomic = none) : slotKind a = .full ∨ slotKind a = .narrow := by
  simp only [slotKind, ha, hw, Option.isSome_none, Bool.false_eq_true, if_false, Bool.not_true]
  split
  · exact .inl rfl
  · exact .inr rfl

/-- A write by another requester to a bank in service stores its bytes. -/
theorem portDo_write (he : a.eng = none) (hw : a.write = true) (ha : a.atomic = none) (hc : a.ecc = .clean)
    (hb : d.bankRetired b = false) : d.portDo before b port a = d.mwr (keyBank b + a.addr) a.data := by
  unfold Dev.portDo
  simp only [served_other he, servedOp_none he, hc, hb, ha, readEcc_clean, ite_self, Bool.not_true, Bool.false_eq_true, if_false]
  obtain hk | hk := slotKind_write hw ha
  · rw [hk]
    rfl
  · rw [hk]
    rfl

/-- An atomic by another requester stores its result on the old value. -/
theorem portDo_atomic {op : AtomicOp} (he : a.eng = none) (ha : a.atomic = some op) (hc : a.ecc = .clean) (hb : d.bankRetired b = false) :
    d.portDo before b port a = d.mwr (keyBank b + a.addr)
      (leBytes a.size (atomicRes op a.size (leVal (d.mrd (keyBank b + a.addr) a.size)) (leVal a.data))) := by
  have hkind : slotKind a = .atomic := by simp [slotKind, ha]
  unfold Dev.portDo
  simp only [served_other he, servedOp_none he, hc, hb, ha, hkind, readEcc_clean, ite_self, Bool.not_true, Bool.false_eq_true, if_false]
  rfl

/-- A read that serves a far load: the load has its value. -/
theorem portDo_load {e : Fin 96} {f : FarOp} (he : a.eng = some e) (hw : a.write = false) (ha : a.atomic = none) (hc : a.ecc = .clean)
    (hb : d.bankRetired b = false) (hs : d.servedOp b port a = some f) : d.portDo before b port a =
      d.setEng e (fun x => { x with
        far := modFirst (fun o => o == f)
          (fun o => { o with arrived := some (BitVec.ofNat 64 (leVal (before.mrd (keyBank b + a.addr) a.size)), false) }) x.far }) := by
  have hkind : slotKind a = .read := by simp [slotKind, ha, hw]
  have hload : f.store = false := by
    rw [Dev.servedOp, he] at hs
    dsimp only at hs
    split at hs
    next g hg =>
      split at hs
      next hcond =>
        obtain rfl := Option.some.inj hs
        simp only [hw, Bool.false_and, Bool.and_eq_true, decide_eq_true_eq] at hcond
        exact hcond.1.1.1.1.1.2
      next => cases hs
    next => cases hs
  have hserved : d.served b port a = true := by rw [Dev.served, hs, Option.isSome_some, Bool.or_true]
  unfold Dev.portDo
  simp only [hserved, hs, he, hc, hb, hkind, hload, readEcc_clean, ite_self, Bool.not_true, Bool.false_eq_true, if_false]
  rfl

theorem plainWrites_other (he : a.eng = none) (hw : a.write = true) (ha : a.atomic = none) (hc : a.ecc = .clean)
    (hb : d.bankRetired b = false) : d.plainWrites b port a = true := by
  rw [Dev.plainWrites, served_other he, hb, hc]
  obtain hk | hk := slotKind_write hw ha
  · rw [hk]
    rfl
  · rw [hk]
    rfl

end

theorem aFirst_writes {a c : PortAccess} (ha : slotKind a = .full ∨ slotKind a = .narrow) (hc : slotKind c = .full ∨ slotKind c = .narrow) :
    aFirst a c = true := by
  unfold aFirst
  obtain h | h := ha
  · obtain h' | h' := hc
    · rw [h, h']
    · rw [h, h']
  · obtain h' | h' := hc
    · rw [h, h']
    · rw [h, h']

/-- An access at one port alone. -/
theorem bankSlot_a (d : Dev) (b : Nat) (a : PortAccess) : d.bankSlot b (some a) none = (d.portDo d b 0 a).ordEnter := by
  have hclash : d.slotClash b (some a) none = false := rfl
  unfold Dev.bankSlot
  dsimp only
  rw [hclash, if_neg Bool.false_ne_true]

theorem bankSlot_b (d : Dev) (b : Nat) (a : PortAccess) : d.bankSlot b none (some a) = (d.portDo d b 1 a).ordEnter := by
  have hclash : d.slotClash b none (some a) = false := rfl
  unfold Dev.bankSlot
  dsimp only
  rw [hclash, if_neg Bool.false_ne_true]

/-- Two writes whose bytes meet: port B's stand, and the conflict is counted. -/
theorem bankSlot_conflict {d : Dev} {b : Nat} {a c : PortAccess} (hea : a.eng = none) (hec : c.eng = none) (hwa : a.write = true)
    (hwc : c.write = true) (haa : a.atomic = none) (hac : c.atomic = none) (hca : a.ecc = .clean) (hcc : c.ecc = .clean)
    (hb : d.bankRetired b = false) (hm : bytesMeet a c = true) : d.bankSlot b (some a) (some c) =
      ((((d.mwr (keyBank b + a.addr) a.data).mwr (keyBank b + c.addr) c.data).satf (MEM_BANK_CNT b) 31 16 1).ringBit .mem 3).ordEnter := by
  have hclash : d.slotClash b (some a) (some c) = true := by
    rw [Dev.slotClash, plainWrites_other hea hwa haa hca hb, plainWrites_other hec hwc hac hcc hb, hm]
    rfl
  have hb' : (d.mwr (keyBank b + a.addr) a.data).bankRetired b = false := hb
  unfold Dev.bankSlot
  dsimp only
  rw [hclash, aFirst_writes (slotKind_write hwa haa) (slotKind_write hwc hac), portDo_write hea hwa haa hca hb, if_pos rfl,
    portDo_write hec hwc hac hcc hb', if_pos rfl]

/-! ### Write-back and the ordering buffer -/

/-- Bytes written back where they were read: memory reads as before. -/
theorem mget_mwrite_mread (m : Memory) (a n k : Nat) : mget (mwrite m a (mread m a n)) k = mget m k := by
  rw [mget_mwrite, mread_length]
  split
  next h =>
    obtain ⟨hle, hlt⟩ := h
    have hread : ∀ n a, a ≤ k → k < a + n → (mread m a n).getD (k - a) 0 = mget m k := by
      intro n
      induction n with
      | zero => intro a hle hlt; omega
      | succ n ih =>
        intro a hle hlt
        rw [mread]
        obtain rfl | hgt := Nat.eq_or_lt_of_le hle
        · rw [Nat.sub_self, List.getD_cons_zero]
        · rw [show k - a = k - (a + 1) + 1 by omega, List.getD_cons_succ]
          exact ih (a + 1) hgt (by omega)
    exact hread n a hle hlt
  next => rfl

theorem rowBack_parts (d : Dev) (b row : Nat) (i : Bool) : (∀ k, mget (d.rowBack b row i).mem k = mget d.mem k) ∧
    (d.rowBack b row i).regs = d.regs ∧ (d.rowBack b row i).cut = d.cut ∧ (d.rowBack b row i).memb.ord = d.memb.ord := by
  unfold Dev.rowBack
  dsimp only
  have hx : ∀ x : Dev, x.mem = d.mem → x.regs = d.regs → x.cut = d.cut → x.memb.ord = d.memb.ord → ∀ c : Bool,
      (∀ k, mget (if c then x else x.mwr (keyBank b + 16 * row) (x.mrd (keyBank b + 16 * row) 16)).mem k = mget d.mem k) ∧
      (if c then x else x.mwr (keyBank b + 16 * row) (x.mrd (keyBank b + 16 * row) 16)).regs = d.regs ∧
      (if c then x else x.mwr (keyBank b + 16 * row) (x.mrd (keyBank b + 16 * row) 16)).cut = d.cut ∧
      (if c then x else x.mwr (keyBank b + 16 * row) (x.mrd (keyBank b + 16 * row) 16)).memb.ord = d.memb.ord := by
    intro x hm hr hc ho c
    cases c with
    | true => exact ⟨fun k => by rw [if_pos rfl, hm], hr, hc, ho⟩
    | false => exact ⟨fun k => (mget_mwrite_mread x.mem _ 16 k).trans (by rw [hm]), hr, hc, ho⟩
  split
  · apply hx
    all_goals rfl
  · apply hx
    all_goals rfl

theorem ordHoldEnd_clean {d : Dev} {b : Nat} {x : OrdEntry} {l : List OrdEntry} (hl : d.ordBuf b = x :: l)
    (ht : x.arrival + 256 ≤ d.tb.now) : d.ordHoldEnd b .clean =
      ((ordSort (l.filter (fun y => y.addr / 8 == x.addr / 8 && ordBefore y x)) ++ [x]).foldl
        (fun (d : Dev) z => d.ordApply b z .clean) d).ordEnter := by
  unfold Dev.ordHoldEnd
  rw [hl]
  dsimp only
  rw [if_neg (Nat.not_lt.mpr ht)]
  cases ordSort (l.filter (fun y => y.addr / 8 == x.addr / 8 && ordBefore y x)) with
  | nil => rfl
  | cons y t => rfl

/-! ### Strikes -/

/-- A strike counter after `n` periods of decay: one that is frozen stays. -/
def decayWord (n : Nat) (w : Word) : Word := if bitOf w 5 || fld w 4 0 = 0 then w else setFld w 4 0 (fld w 4 0 - n)

theorem decayWord_fields (n : Nat) (w : Word) :
    fld (decayWord n w) 4 0 = (if bitOf w 5 then fld w 4 0 else fld w 4 0 - n) ∧ fld (decayWord n w) 31 5 = fld w 31 5 := by
  unfold decayWord
  by_cases hb : bitOf w 5 = true
  · simp only [hb, Bool.true_or, if_true, and_self]
  · rw [Bool.not_eq_true] at hb
    by_cases hz : fld w 4 0 = 0
    · simp [hb, hz]
    · have hlt : fld w 4 0 < 2 ^ 5 := Nat.mod_lt _ (by simp)
      rw [hb, if_neg (by simp [hz]), if_neg (by simp), fld_setFld_self _ _ _ _ (by simp) (by simp),
        fld_setFld_ne _ _ _ _ _ _ (by simp) (by simp) (by simp)]
      exact ⟨Nat.mod_eq_of_lt (by omega), rfl⟩

/-- Resource `r` decays. -/
def Dev.decayed (d : Dev) (n r : Nat) : Dev :=
  if d.b (MEM_FC_RES r) 5 || d.f (MEM_FC_RES r) 4 0 = 0 then d else d.wf (MEM_FC_RES r) 4 0 (d.f (MEM_FC_RES r) 4 0 - n)

theorem decayed_r (d : Dev) (n r q : Nat) : (d.decayed n r).r (MEM_FC_RES q) =
    if q = r then decayWord n (d.r (MEM_FC_RES q)) else d.r (MEM_FC_RES q) := by
  by_cases hq : q = r
  · rw [if_pos hq, hq]
    unfold Dev.decayed decayWord
    split
    next h => exact (if_pos h).symm
    next h => rw [Dev.r_wf_self]; exact (if_neg h).symm
  · rw [if_neg hq]
    unfold Dev.decayed
    split
    · rfl
    · exact Dev.r_wf_ne _ _ _ _ (by unfold MEM_FC_RES; omega)

/-- Of the resources below `m`, each has decayed once. -/
theorem decayed_each (d : Dev) (n m q : Nat) :
    (d.each (List.range m) (fun d r => d.decayed n r)).r (MEM_FC_RES q) =
      if q < m then decayWord n (d.r (MEM_FC_RES q)) else d.r (MEM_FC_RES q) := by
  induction m with
  | zero => rfl
  | succ m ih =>
    have hstep : d.each (List.range (m + 1)) (fun d r => d.decayed n r) =
        (d.each (List.range m) (fun d r => d.decayed n r)).decayed n m := by
      rw [Dev.each, List.range_succ, List.foldl_append]
      rfl
    rw [hstep, decayed_r, ih]
    by_cases hq : q = m
    · rw [if_pos hq, if_neg (by omega), if_pos (by omega)]
    · rw [if_neg hq]
      by_cases hlt : q < m
      · rw [if_pos hlt, if_pos (by omega)]
      · rw [if_neg hlt, if_neg (by omega)]

theorem decayed_rest (d : Dev) (n r : Nat) : (d.decayed n r).memb = d.memb ∧ (d.decayed n r).mem = d.mem :=
  ⟨ite_keeps Dev.memb rfl rfl, ite_keeps Dev.mem rfl rfl⟩

/-- All resources below `m` decay. -/
theorem decayed_each_parts (d : Dev) (n m : Nat) :
    (∀ r, r < m → (d.each (List.range m) (fun d r => d.decayed n r)).f (MEM_FC_RES r) 4 0 =
      (if d.b (MEM_FC_RES r) 5 then d.f (MEM_FC_RES r) 4 0 else d.f (MEM_FC_RES r) 4 0 - n) ∧
      (d.each (List.range m) (fun d r => d.decayed n r)).f (MEM_FC_RES r) 31 5 = d.f (MEM_FC_RES r) 31 5) ∧
    (d.each (List.range m) (fun d r => d.decayed n r)).memb = d.memb ∧
    (d.each (List.range m) (fun d r => d.decayed n r)).mem = d.mem := by
  refine ⟨fun r hr => ?_, each_keeps Dev.memb _ _ (fun d r => (decayed_rest d n r).1) d,
    each_keeps Dev.mem _ _ (fun d r => (decayed_rest d n r).2) d⟩
  have hword := decayed_each d n m r
  rw [if_pos hr] at hword
  simp only [Dev.f, Dev.b, hword]
  exact decayWord_fields n (d.r (MEM_FC_RES r))

/-- The instant up to which the counters have decayed moves by `n` periods. -/
def Dev.decayBegun (d : Dev) (n : Nat) : Dev := { d with memb := { d.memb with decayAt := d.memb.decayAt + n * d.decayTime } }

theorem mem_with_memb (d : Dev) (m : MemBlock) : ({ d with memb := m } : Dev).mem = d.mem := rfl

theorem decayBegun_mem (d : Dev) (n : Nat) : (d.decayBegun n).mem = d.mem := mem_with_memb d _

/-- The decay of `n` periods that have ended. -/
theorem strikeDecay_due {d : Dev} {n : Nat} (hn : n = (d.tb.now - d.memb.decayAt) / d.decayTime) (h0 : 0 < n) :
    d.strikeDecay = (d.decayBegun n).each (List.range 254) (fun d r => d.decayed n r) := by
  unfold Dev.strikeDecay
  dsimp only
  rw [← hn, if_neg (by omega)]
  rfl

theorem strikeDecay_parts {d : Dev} {n : Nat} (hn : n = (d.tb.now - d.memb.decayAt) / d.decayTime) (h0 : 0 < n) :
    (∀ r, r < 254 → d.strikeDecay.f (MEM_FC_RES r) 4 0 =
      (if d.b (MEM_FC_RES r) 5 then d.f (MEM_FC_RES r) 4 0 else d.f (MEM_FC_RES r) 4 0 - n) ∧
      d.strikeDecay.f (MEM_FC_RES r) 31 5 = d.f (MEM_FC_RES r) 31 5) ∧
    d.strikeDecay.memb = (d.decayBegun n).memb ∧ d.strikeDecay.mem = d.mem := by
  obtain ⟨hfields, hmemb, hkeep⟩ := decayed_each_parts (d.decayBegun n) n 254
  rw [← strikeDecay_due hn h0] at hfields hmemb hkeep
  have hword : ∀ a, (d.decayBegun n).r a = d.r a := fun a => Dev.r_with_memb d _ a
  refine ⟨fun r hr => ?_, hmemb, hkeep.trans (decayBegun_mem d n)⟩
  have hbit : (d.decayBegun n).b (MEM_FC_RES r) 5 = d.b (MEM_FC_RES r) 5 := by rw [Dev.b, Dev.b, hword]
  have hlow : (d.decayBegun n).f (MEM_FC_RES r) 4 0 = d.f (MEM_FC_RES r) 4 0 := by rw [Dev.f, Dev.f, hword]
  have hhigh : (d.decayBegun n).f (MEM_FC_RES r) 31 5 = d.f (MEM_FC_RES r) 31 5 := by rw [Dev.f, Dev.f, hword]
  rw [← hbit, ← hlow, ← hhigh]
  exact hfields r hr

/-! ### The scrubbers -/

theorem bankRetired_of_r {d x : Dev} {b : Nat} (h : x.r (MEM_BANK_STAT b) = d.r (MEM_BANK_STAT b)) : x.bankRetired b = d.bankRetired b := by
  rw [Dev.bankRetired, Dev.b, h]
  rfl

/-- The read of a row in the middle of a pass. -/
theorem scrubRow_middle {d : Dev} {b : Nat} (hb : b < 64) (hup : d.hostUp = true) (hen : d.b MEM_CTRL 0 = true)
    (hret : d.bankRetired b = false) (hdone : d.memb.scrubDone.contains b = false)
    (hdue : d.passDue d.memb.scrubAt d.scrubTime 16384 (tget 0 d.memb.scrubRow b) = true) (hlt : tget 0 d.memb.scrubRow b + 1 < 16384) :
    d.scrubRow b .clean = { (d.wf MEM_SCRUB_STAT 21 16 b).wb MEM_STAT 1 true with memb := { d.memb with
      scrubAt := some (d.memb.scrubAt.getD d.tb.now)
      scrubRow := tset d.memb.scrubRow b (tget 0 d.memb.scrubRow b + 1) } } := by
  have hret' : ∀ m : MemBlock, ({ (d.wf MEM_SCRUB_STAT 21 16 b).wb MEM_STAT 1 true with memb := m } : Dev).bankRetired b = false := by
    intro m
    refine (bankRetired_of_r ?_).trans hret
    exact (Dev.r_wb_ne _ _ _ (by unfold MEM_BANK_STAT MEM_STAT; omega)).trans
      (Dev.r_wf_ne _ _ _ _ (by unfold MEM_BANK_STAT MEM_SCRUB_STAT; omega))
  unfold Dev.scrubRow
  dsimp only
  rw [if_neg (by simp only [hup, hen, hret, hdone, hdue]; simp)]
  simp only [readEcc_clean, if_neg (Nat.ne_of_lt hlt), Nat.mod_eq_of_lt hlt]
  rw [if_neg]
  · rfl
  · intro hall
    have hb' := List.all_eq_true.mp hall b (List.mem_range.mpr hb)
    rw [hret', Bool.false_or] at hb'
    exact absurd (hdone.symm.trans hb') (by simp)

theorem scrubRow_parts {d : Dev} {b : Nat} (hb : b < 64) (hup : d.hostUp = true) (hen : d.b MEM_CTRL 0 = true)
    (hret : d.bankRetired b = false) (hdone : d.memb.scrubDone.contains b = false)
    (hdue : d.passDue d.memb.scrubAt d.scrubTime 16384 (tget 0 d.memb.scrubRow b) = true) (hlt : tget 0 d.memb.scrubRow b + 1 < 16384) :
    tget 0 (d.scrubRow b .clean).memb.scrubRow b = tget 0 d.memb.scrubRow b + 1 ∧ (d.scrubRow b .clean).f MEM_SCRUB_STAT 21 16 = b ∧
    (d.scrubRow b .clean).b MEM_STAT 1 = true ∧ (d.scrubRow b .clean).mem = d.mem := by
  have hregs : ∀ m : MemBlock, ∀ a, ({ (d.wf MEM_SCRUB_STAT 21 16 b).wb MEM_STAT 1 true with memb := m } : Dev).r a =
      ((d.wf MEM_SCRUB_STAT 21 16 b).wb MEM_STAT 1 true).r a := fun _ _ => rfl
  rw [scrubRow_middle hb hup hen hret hdone hdue hlt]
  refine ⟨tget_tset_self _ _ _ _, ?_, ?_, rfl⟩
  · rw [Dev.f, hregs, Dev.r_wb_ne _ _ _ (by unfold MEM_SCRUB_STAT MEM_STAT; omega)]
    exact (Dev.f_wf_self d MEM_SCRUB_STAT b (by simp) (by simp)).trans (Nat.mod_eq_of_lt hb)
  · rw [Dev.b, hregs]
    exact Dev.b_wb_self _ _ _ (by simp)

theorem extEcc_clean_fst (d : Dev) (k r : Nat) (retry : Ecc) : (d.extEcc k r .clean retry).1 = d := by
  unfold Dev.extEcc
  split
  · rfl
  · exact readEcc_clean ..

/-- The external scrubber in the middle of a pass, with nothing else waiting. -/
theorem xmcScrub_middle {d : Dev} {retry : Ecc} {a : Nat} (hup : d.hostUp = true) (hen : d.b XMC_STAT 0 = true) (hext : d.extBytes ≠ 0)
    (heng : d.engineWaits = false) (hhost : d.hostWaits = false) (hfill : d.anyFill = false)
    (hdue : d.passDue d.memb.xmcAt d.xmcTime d.extBytes d.memb.xmcPos = true) (ha : a = (d.memb.xmcPos + 16) % d.extBytes) (h0 : a ≠ 0) :
    d.xmcScrub .clean retry = { d with memb := { d.memb with xmcPos := a, xmcAt := some (d.memb.xmcAt.getD d.tb.now) } } := by
  unfold Dev.xmcScrub
  dsimp only
  rw [if_neg (by simp only [hup, hen, heng, hhost, hfill, hdue]; simp [hext]), extEcc_clean_fst, ← ha, if_neg h0]

theorem refresh_due {d : Dev} (hup : d.hostUp = true) (hen : d.b XMC_STAT 0 = true) (ht : d.memb.refAt + d.refreshTime ≤ d.tb.now) :
    d.refresh = { d with memb := { d.memb with
      refAt := d.memb.refAt + d.refreshTime
      postponed := if d.engineWaits then Nat.min 8 (d.memb.postponed + 1) else 0 } } := by
  unfold Dev.refresh
  rw [if_neg]
  simp only [hup, hen, Bool.not_true, Bool.false_or, decide_eq_true_eq]
  exact Nat.not_lt.mpr ht

/-! ### The two views -/

theorem memDisagree_long {d : Dev} {r : Nat} (hne : d.b (MEM_FC_RES r) 5 ≠ d.b (MEM_FC_RES r) 6)
    (ht : tget 0 d.memb.permAt r + 10000 < d.tb.now) : d.memDisagree r = (d.wb MEM_STAT 0 true).ringBit .mem 6 := by
  unfold Dev.memDisagree
  dsimp only
  rw [if_pos (bne_iff_ne.mpr hne), if_pos ht]

theorem memDisagree_none {d : Dev} {r : Nat} (hr : r < 254) (heq : ∀ i, i < 254 → d.b (MEM_FC_RES i) 5 = d.b (MEM_FC_RES i) 6) :
    d.memDisagree r = d.wb MEM_STAT 0 false := by
  have hsame : ∀ i, i < 254 → (d.b (MEM_FC_RES i) 5 != d.b (MEM_FC_RES i) 6) = false := fun i hi => by rw [heq i hi]; exact bne_self_eq_false _
  have hnone : (List.range 254).any (fun i => d.b (MEM_FC_RES i) 5 != d.b (MEM_FC_RES i) 6) = false :=
    List.any_eq_false.mpr fun i hi => by rw [hsame i (List.mem_range.mp hi)]; simp
  unfold Dev.memDisagree
  dsimp only
  rw [if_neg (by rw [hsame r hr]; simp), if_neg (by rw [hnone]; simp)]

end Sys2Proof.Machine
end

section
namespace Sys2Proof.Machine

/-- Settles O24: each command of the banks, the ordering buffer, the scrubbers and the classifier with its state lemma. -/
theorem memoryComplete : Obligations.MemoryComplete := by
  unfold Obligations.MemoryComplete
  have hone : ∀ a : PortAccess, PortAccess.wf a = true → ((some a).all PortAccess.wf && (none : Option PortAccess).all PortAccess.wf) = true :=
    fun a h => by simp [h]
  have hother : ∀ a : PortAccess, PortAccess.wf a = true → ((none : Option PortAccess).all PortAccess.wf && (some a).all PortAccess.wf) = true :=
    fun a h => by simp [h]
  refine ⟨?read, ?write, ?atomic, ?load, ?conflict, ?back, ?order, ?decay, ?noDecay, ?scrub, ?xmc, ?refresh, ?disagree, ?agree⟩
  case read =>
    intro s b a hwf he hw ha hc
    refine ⟨completes_liftIf exec_bankAccess (hone a hwf) ?_, completes_liftIf exec_bankAccess (hother a hwf) ?_⟩
    · rw [bankSlot_a, portDo_read he hw ha hc]
    · rw [bankSlot_b, portDo_read he hw ha hc]
  case write =>
    intro s b a hwf he hw ha hc hb
    refine ⟨completes_liftIf exec_bankAccess (hone a hwf) ?_, completes_liftIf exec_bankAccess (hother a hwf) ?_⟩
    · rw [bankSlot_a, portDo_write he hw ha hc hb]
    · rw [bankSlot_b, portDo_write he hw ha hc hb]
  case atomic =>
    intro s b a op hwf he ha hc hb
    refine completes_liftIf exec_bankAccess (hone a hwf) ?_
    rw [bankSlot_a, portDo_atomic he ha hc hb]
  case load =>
    intro s b a e f g hwf he hw ha hc hb hs hg
    refine completes_liftIf exec_bankAccess (hone a hwf) ?_
    rw [bankSlot_a, portDo_load he hw ha hc hb hs, hg]
  case conflict =>
    intro s b a c hwfa hwfc hea hec hwa hwc haa hac hca hcc hb hm
    exact completes_liftIf exec_bankAccess (by simp [hwfa, hwfc]) (bankSlot_conflict hea hec hwa hwc haa hac hca hcc hb hm)
  case back =>
    intro s b row i
    exact completes_lift exec_writeBack (rowBack_parts s.dev b row i)
  case order =>
    intro s b x l hl ht
    exact completes_lift exec_ordHoldEnd (ordHoldEnd_clean hl ht)
  case decay =>
    intro s n hn h0
    exact completes_lift exec_strikeDecay (strikeDecay_parts hn h0)
  case noDecay =>
    intro s h0
    exact completes_lift exec_strikeDecay (if_pos h0)
  case scrub =>
    intro s b hup hen hret hdone hdue hlt
    exact completes_lift exec_scrubRow (scrubRow_parts b.isLt hup hen hret hdone hdue hlt)
  case xmc =>
    intro s retry a hup hen hext heng hhost hfill hdue ha h0
    exact completes_lift exec_xmcScrub (xmcScrub_middle hup hen hext heng hhost hfill hdue ha h0)
  case refresh =>
    intro s hup hen ht
    exact completes_lift exec_ddrRefresh (refresh_due hup hen ht)
  case disagree =>
    intro s r hne ht
    exact completes_lift exec_memDisagree (memDisagree_long hne ht)
  case agree =>
    intro s r heq
    exact completes_lift exec_memDisagree (memDisagree_none r.isLt heq)

end Sys2Proof.Machine
end

section
/-!
SUPPORT. The switch: the forwarding database, the gate lists and the bolt store (R309, R310, R316-R324).
-/
namespace Sys2Proof.Machine

/-! ### The forwarding database -/

section
variable {d : Dev} {mac vid : Nat}

theorem fdbCmd_lookup {x : Nat × FdbEntry} (hm : mac = (d.r (SWC_FDB_ARG 0)).toNat + 2 ^ 32 * d.f (SWC_FDB_ARG 1) 15 0)
    (hv : vid = d.f (SWC_FDB_ARG 1) 27 16) (hx : d.fdbFind mac vid = some x) : d.fdbCmd 0 = d.fdbDone 0 (some x) := by
  unfold Dev.fdbCmd
  dsimp only
  rw [if_pos rfl, ← hm, ← hv, hx]

theorem fdbCmd_insert {i : Nat} {e : FdbEntry} (hm : mac = (d.r (SWC_FDB_ARG 0)).toNat + 2 ^ 32 * d.f (SWC_FDB_ARG 1) 15 0)
    (hv : vid = d.f (SWC_FDB_ARG 1) 27 16) (hx : d.fdbFind mac vid = none) (hi : d.fdbRoom mac vid = some i)
    (he : e = { mac := mac, vid := vid, ports := d.f (SWC_FDB_ARG 2) 21 0, static := true, age := d.tb.now }) :
    d.fdbCmd 1 = (d.fdbSet i e).fdbDone 0 (some (i, e)) := by
  unfold Dev.fdbCmd
  dsimp only
  rw [if_neg (by simp), if_pos rfl, ← hm, ← hv, hx]
  dsimp only
  rw [hi, he]

theorem fdbCmd_delete {x : Nat × FdbEntry} (hm : mac = (d.r (SWC_FDB_ARG 0)).toNat + 2 ^ 32 * d.f (SWC_FDB_ARG 1) 15 0)
    (hv : vid = d.f (SWC_FDB_ARG 1) 27 16) (hx : d.fdbFind mac vid = some x) : d.fdbCmd 2 = (d.fdbErase x.1).fdbDone 0 (some x) := by
  unfold Dev.fdbCmd
  dsimp only
  rw [if_neg (by simp), if_neg (by simp), if_pos rfl, ← hm, ← hv, hx]

theorem fdbCmd_flush : d.fdbCmd 3 = ({ d with swc := { d.swc with
    fdb := d.swc.fdb.filter (fun x => x.2.static || x.2.ports &&& d.f (SWC_FDB_ARG 2) 21 0 == 0) } } : Dev).fdbDone 0 none := by
  unfold Dev.fdbCmd
  dsimp only
  rw [if_neg (by simp), if_neg (by simp), if_neg (by simp), if_pos rfl]

theorem fdbCmd_read {i : Nat} {e : FdbEntry} (hi : i = (d.r (SWC_FDB_ARG 0)).toNat) (hlt : i < 16384)
    (he : tfind d.swc.fdb i = some e) : d.fdbCmd 4 = d.fdbDone 0 (some (i, e)) := by
  unfold Dev.fdbCmd
  dsimp only
  rw [if_neg (by simp), if_neg (by simp), if_neg (by simp), if_neg (by simp), if_pos rfl, ← hi, if_neg (Nat.not_le.mpr hlt), he]

end

/-! ### Gate lists -/

theorem gatep_setGate_self (d : Dev) (p : Nat) (f : GatePort → GatePort) : (d.setGate p f).gatep p = f (d.gatep p) := by
  rw [Dev.gatep, Dev.setGate, tget_tmod_self, Dev.gatep]

/-- Credits are the switch's bookkeeping alone. -/
theorem credit_parts (d : Dev) (p q : Nat) : (d.credit p q).regs = d.regs ∧ (d.credit p q).mem = d.mem ∧
    (d.credit p q).swc.gate = d.swc.gate ∧ (d.credit p q).tb = d.tb := ⟨rfl, rfl, rfl, rfl⟩

theorem credits_parts (d : Dev) (p : Nat) : (d.credits p).regs = d.regs ∧ (d.credits p).mem = d.mem ∧
    (d.credits p).swc.gate = d.swc.gate ∧ (d.credits p).tb = d.tb :=
  ⟨each_keeps Dev.regs _ _ (fun d q => (credit_parts d p q).1) d, each_keeps Dev.mem _ _ (fun d q => (credit_parts d p q).2.1) d,
    each_keeps (fun d => d.swc.gate) _ _ (fun d q => (credit_parts d p q).2.2.1) d,
    each_keeps Dev.tb _ _ (fun d q => (credit_parts d p q).2.2.2) d⟩

theorem credits_gatep (d : Dev) (p q : Nat) : (d.credits p).gatep q = d.gatep q := by
  rw [Dev.gatep, (credits_parts d p).2.2.1, Dev.gatep]

theorem f_setGate (d : Dev) (p : Nat) (g : GatePort → GatePort) (a h l : Nat) : (d.setGate p g).f a h l = d.f a h l := rfl

theorem gatep_wf (d : Dev) (a h l v p : Nat) : (d.wf a h l v).gatep p = d.gatep p := rfl

theorem credits_r (d : Dev) (p a : Nat) : (d.credits p).r a = d.r a := r_of_regs (credits_parts d p).1 a

/-- The spans of a gate list stand in registers. -/
theorem gateSpan_of_regs {d x : Dev} (h : x.regs = d.regs) (p : Nat) (l : GateList) (i : Nat) : x.gateSpan p l i = d.gateSpan p l i := by
  have hr : ∀ a, x.r a = d.r a := r_of_regs h
  simp only [Dev.gateSpan, Dev.gateSum, Dev.gateLen, hr]

/-- A port without a list shows its gates. -/
theorem gateShow_idle {d : Dev} {p : Nat} (h : (d.gatep p).oper = none) : ∃ (x : Dev) (v past : Nat),
    x.regs = d.regs ∧ x.mem = d.mem ∧ x.gatep p = d.gatep p ∧
    d.gateShow p = (x.wf (SWC_GATE_STAT p) 17 10 v).setGate p (fun g => { g with past := past }) := by
  have hnow : (d.credits p).gateNow p = none := by rw [Dev.gateNow, credits_gatep, h]
  unfold Dev.gateShow
  dsimp only
  rw [hnow]
  exact ⟨_, _, _, (credits_parts d p).1, (credits_parts d p).2.1, credits_gatep d p p, rfl⟩

/-- A shown port without a list: its state, its status and memory stand. -/
theorem gateShow_idle_parts {d : Dev} {p : Nat} (h : (d.gatep p).oper = none) :
    ((d.gateShow p).gatep p).oper = none ∧ ((d.gateShow p).gatep p).admin = (d.gatep p).admin ∧
    ((d.gateShow p).gatep p).startAt = (d.gatep p).startAt ∧
    (d.gateShow p).f (SWC_GATE_STAT p) 1 0 = d.f (SWC_GATE_STAT p) 1 0 ∧ (d.gateShow p).mem = d.mem := by
  obtain ⟨x, v, past, hregs, hmem, hgate, hshow⟩ := gateShow_idle h
  rw [hshow, gatep_setGate_self, gatep_wf, hgate]
  refine ⟨h, rfl, rfl, ?_, by simpa using hmem⟩
  rw [f_setGate, Dev.f, Dev.r_wf_self, fld_setFld_ne _ _ _ _ _ _ (by simp) (by simp) (by simp), r_of_regs hregs, Dev.f]

/-- Stopping a port's gates drops its lists. -/
theorem gateStop_parts (d : Dev) (p : Nat) : ((d.gateStop p).gatep p).oper = none ∧ ((d.gateStop p).gatep p).admin = none ∧
    ((d.gateStop p).gatep p).startAt = none ∧ (d.gateStop p).f (SWC_GATE_STAT p) 1 0 = 0 ∧ (d.gateStop p).mem = d.mem := by
  have hmem := (credits_parts d p).2.1
  unfold Dev.gateStop
  dsimp only
  generalize d.credits p = x at hmem ⊢
  have hgate : ((x.setGate p (fun g => { g with oper := none, admin := none, startAt := none, gap := false })).wf
      (SWC_GATE_STAT p) 1 0 0).gatep p = { x.gatep p with oper := none, admin := none, startAt := none, gap := false } :=
    (gatep_wf _ _ _ _ _ p).trans (gatep_setGate_self x p _)
  obtain ⟨ho, ha, hs, hf, hm⟩ := gateShow_idle_parts (congrArg GatePort.oper hgate)
  rw [ho, ha, hs, hf, hm, hgate, Dev.f_wf_self _ _ _ (by simp) (by simp)]
  exact ⟨rfl, rfl, rfl, rfl, by simpa using hmem⟩

theorem gateListStart_time {d : Dev} {p : Nat} {l : GateList} {t0 : Word} (ha : (d.gatep p).admin = some l) (hw : l.wave = false)
    (ht : (d.gatep p).startAt = some t0) (hr : reached d.tb.st t0 = true) : d.gateListStart p = d.gateBegin p l t0 := by
  unfold Dev.gateListStart
  dsimp only
  rw [ha]
  dsimp only
  rw [hw, if_neg Bool.false_ne_true, ht]
  exact if_pos hr

theorem gateListStart_wave {d : Dev} {p : Nat} {l : GateList} (ha : (d.gatep p).admin = some l) (hw : l.wave = true)
    (hr : d.waveReached l.treadle l.base = true) : d.gateListStart p = d.gateBegin p l d.tb.st := by
  unfold Dev.gateListStart
  dsimp only
  rw [ha]
  dsimp only
  rw [hw, if_pos rfl, if_pos hr]

/-- The end of an entry that is not the cycle's last. -/
theorem gateNext_entry {d : Dev} {p i : Nat} {l : GateList} (ho : (d.gatep p).oper = some l) (hw : l.wave = false)
    (hg : (d.gatep p).gap = false) (hi : i = d.f (SWC_GATE_STAT p) 9 2 - l.start)
    (ht : d.gateDur p l i ≤ (d.tb.st - (d.gatep p).entrySt).toNat) (hs : (d.gateSpan p l i).2 < l.cycle) :
    d.gateNext p = (d.credits p).gateEnter p l (i + 1) ((d.gatep p).entrySt + w32 (d.gateDur p l i)) := by
  have hs' : ¬ l.cycle ≤ ((d.credits p).gateSpan p l i).2 := by
    rw [gateSpan_of_regs (credits_parts d p).1]
    omega
  unfold Dev.gateNext
  dsimp only
  rw [ho]
  dsimp only
  rw [hw, if_neg Bool.false_ne_true, hg, if_neg Bool.false_ne_true, ← hi, if_neg (Nat.not_lt.mpr ht), if_neg hs']

/-! ### The bolt store and the two views -/

/-- A clean read of an external region in service finds the data and changes nothing. -/
theorem extEcc_inService (d : Dev) {k r : Nat} {retry : Ecc} (h : d.keyRetired k = false) :
    d.extEcc k r .clean retry = (d, false) := by
  unfold Dev.extEcc
  rw [h, if_neg Bool.false_ne_true]
  exact congrArg (·, false) (readEcc_clean d k r)

theorem boltFill_clean {d : Dev} {p q : Nat} {retry : Ecc} {near rest : List QEntry} {e : QEntry} {c : Charge}
    (hh : d.boltHead p q = some (near, e, rest)) (hd : d.fillDue p q = some c) (he : d.engineWaits = false) (hw : d.hostWaits = false)
    (hr : d.keyRetired (keyExt + d.boltOffset e.cell) = false) : d.boltFill p q .clean retry =
      ((d.allocCell e.cells).2.setQueue p q (near ++ [{ e with charge := c, cell := (d.allocCell e.cells).1 }] ++ rest)).cnt
        (SWC_CNT 7) := by
  unfold Dev.boltFill
  split
  · next near' e' rest' c' hh' hd' =>
    rw [hh] at hh'
    rw [hd] at hd'
    cases hh'
    cases hd'
    rw [if_neg (by simp [he, hw])]
    split
    next d' poison hx =>
    rw [extEcc_inService d hr] at hx
    cases hx
    rw [if_neg (by simp [hh])]
  · next h => exact absurd hd (h _ _ _ _ hh)

end Sys2Proof.Machine
end

section
namespace Sys2Proof.Machine

/-- Settles O20: each command of the switch with its state lemma. -/
theorem switchComplete : Obligations.SwitchComplete := by
  unfold Obligations.SwitchComplete
  refine ⟨?lookup, ?insert, ?delete, ?flush, ?readEntry, ?age, ?install, ?stop, ?startTime, ?startWave, ?entry, ?fill, ?disagree⟩
  case lookup =>
    intro s who mac vid x hr hm hv hx
    refine completes_lift exec_fdbLookup ?_
    rw [Dev.fdbOp, access_of_reaches hr, fdbCmd_lookup hm hv hx]
  case insert =>
    intro s who mac vid i e hr hm hv hx hi he
    refine completes_lift exec_fdbInsertStatic ?_
    rw [Dev.fdbOp, access_of_reaches hr, fdbCmd_insert hm hv hx hi he]
  case delete =>
    intro s who mac vid x hr hm hv hx
    refine completes_lift exec_fdbDelete ?_
    rw [Dev.fdbOp, access_of_reaches hr, fdbCmd_delete hm hv hx]
  case flush =>
    intro s who hr
    refine completes_lift exec_fdbFlushDynamic ?_
    rw [Dev.fdbOp, access_of_reaches hr, fdbCmd_flush]
  case readEntry =>
    intro s who i e hr hi hlt he
    refine completes_lift exec_fdbReadEntry ?_
    rw [Dev.fdbOp, access_of_reaches hr, fdbCmd_read hi hlt he]
  case age =>
    intro s i e he ha
    refine completes_lift exec_fdbAgeOut ?_
    rw [Dev.fdbAge, he]
    exact if_pos ha
  case install =>
    intro s who p v hr h0 h1
    refine completes_lift exec_gateInstall ?_
    rw [access_of_reaches hr, if_pos h0, Dev.gateCmd, h1, if_neg Bool.false_ne_true, if_pos h0]
    refine ⟨rfl, fun hlen => ?_⟩
    unfold Dev.gateInstall
    dsimp only
    rw [if_pos (by simp [hlen])]
  case stop =>
    intro s who p v hr h1 h0
    refine completes_lift exec_gateStop ?_
    rw [access_of_reaches hr, if_pos h1, Dev.gateCmd, h1, if_pos rfl, h0]
    exact gateStop_parts s.dev p
  case startTime =>
    intro s p l t0 ha hw ht hr
    exact completes_lift exec_gateListStart (gateListStart_time ha hw ht hr)
  case startWave =>
    intro s p l t0 ha hw hr ht
    rw [ht]
    exact completes_lift exec_gateListStart (gateListStart_wave ha hw hr)
  case entry =>
    intro s p l i ho hw hg hi ht hs
    exact completes_lift exec_gateEntryChange (gateNext_entry ho hw hg hi ht hs)
  case fill =>
    intro s p q retry near e rest c hh hd he hw hr
    exact completes_lift exec_boltFill (boltFill_clean hh hd he hw hr)
  case disagree =>
    intro s p t0 ht hlt hb
    refine completes_lift exec_swcPortDisagree ?_
    rw [Dev.portDisagree, ht]
    exact if_pos (by simp [hlt, hb])

end Sys2Proof.Machine
end

section
/-!
SUPPORT. The registers of the blocks from HBR to TAP: a bell sets its own bits there and an event none, but for the count of the
pattern book in SLV. They lie between the blocks MBX and ENG, which bells and events write too (R155, R210, R480-R488).
-/
namespace Sys2Proof.Machine

/-- The register words between the MBX and the ENG blocks, but the pattern book's count. -/
def Dev.mid (d : Dev) : Nat → Word := fun a => if 0x600000 ≤ a ∧ a < 0x1400000 ∧ a ≠ SLV_CNT 15 then d.r a else 0

theorem mid_w (d : Dev) (a : Nat) (v : Word) (h : a < 0x600000 ∨ 0x1400000 ≤ a ∨ a = SLV_CNT 15) : (d.w a v).mid = d.mid := by
  funext b
  unfold Dev.mid
  split
  · exact Dev.r_w_ne d v (by omega)
  · rfl

theorem mid_wf (d : Dev) (a hi lo v : Nat) (h : a < 0x600000 ∨ 0x1400000 ≤ a ∨ a = SLV_CNT 15) : (d.wf a hi lo v).mid = d.mid :=
  mid_w d a _ h

theorem r_of_mid {d e : Dev} (h : d.mid = e.mid) {a : Nat} (ha : 0x600000 ≤ a ∧ a < 0x1400000 ∧ a ≠ SLV_CNT 15) : d.r a = e.r a := by
  have e := congrFun h a
  simpa only [Dev.mid, if_pos ha] using e

theorem mid_of_r {d e : Dev} (h : ∀ a, d.r a = e.r a) : d.mid = e.mid := by
  funext a
  simp only [Dev.mid, h]

theorem vecRise_mid (d : Dev) (v : Option Nat) (b : Bool) : (d.vecRise v b).mid = d.mid := mid_of_r (vecRise_r d v b)

theorem setBell_mid (d : Dev) (b : BellReg) (bits : Word) (h : b.addr < 0x600000 ∨ 0x1400000 ≤ b.addr) :
    (d.setBell b bits).mid = d.mid := by
  unfold Dev.setBell
  rw [vecRise_mid, mid_w _ _ _ (by omega)]

/-- An event that holds no slot frees none. -/
theorem freeSlots_mid (d : Dev) (ev : Ev) (h : ev.ring = none) : (d.freeSlots ev).mid = d.mid := by
  have hnone : ∀ l : List SlotUse, l.filter (fun u => u.chan == keyChan ev.chan && ev.ring == some (u.kind, u.idx, u.slot) &&
      u.src == ev.src && u.unit == ev.unit && u.seq == ev.seq && u.st == ev.stamp.st) = [] := fun l =>
    List.filter_eq_nil_iff.mpr fun u _ => by simp [h]
  unfold Dev.freeSlots
  dsimp only
  rw [hnone]
  rfl

theorem enqueue_mid (d : Dev) (k : Nat) (ev : Ev) (h : ev.ring = none) : (d.enqueue k ev).mid = d.mid := by
  have hb : ∀ (x : Dev) (e : Nat) (bits : Word) (a : Nat), 0x1400000 ≤ a → x.mid = d.mid →
      ((x.cnt a).setBell (.eng e) bits).mid = d.mid := by
    intro x e bits a ha hx
    rw [setBell_mid _ _ _ (by simp only [BellReg.addr, ENG_BELL]; omega)]
    unfold Dev.cnt Dev.satf
    rw [mid_wf _ _ _ _ _ (by omega), hx]
  unfold Dev.enqueue
  refine ite_keeps Dev.mid ?_ ?_
  · refine ite_keeps Dev.mid ?_ ?_
    · exact hb d _ _ _ (by simp only [ENG_EVQ_DROP]; omega) rfl
    · rw [freeSlots_mid _ _ (by exact h)]
      exact hb d _ _ _ (by simp only [ENG_EVQ_DROP]; omega) rfl
  · refine ite_keeps Dev.mid ?_ rfl
    exact hb d _ _ _ (by simp only [ENG_SETTLE_BRCH]; omega) rfl

theorem bookPut_mid (d : Dev) (h : Word) (n : Nat) (st : Word) (b : List Byte) : (d.bookPut h n st b).mid = d.mid := by
  unfold Dev.bookPut Dev.free
  refine ite_keeps Dev.mid ?_ rfl
  unfold Dev.cnt Dev.satf
  rw [mid_wf _ _ _ _ _ (by simp)]
  rfl

theorem bookChan_mid (d : Dev) (c : Nat) (b : List Byte) : (d.bookChan c b).mid = d.mid := ite_keeps Dev.mid (bookPut_mid ..) rfl

theorem journal_mid (d : Dev) (c : Nat) (ev : Ev) : (d.journal c ev).mid = d.mid := by
  unfold Dev.journal
  rw [bookChan_mid]
  rfl

theorem deliverEv_mid (d : Dev) (c : Nat) (ev : Ev) (hev : ev.ring = none) : (d.deliverEv c ev).mid = d.mid := by
  have h : ((if d.evRoom c then d.journal c ev else d).enqueue c ev).mid = d.mid := by
    rw [enqueue_mid _ _ _ hev]
    exact ite_keeps Dev.mid (journal_mid ..) rfl
  unfold Dev.deliverEv
  refine ite_keeps Dev.mid (freeSlots_mid _ _ hev) ?_
  generalize (if d.evRoom c then d.journal c ev else d).enqueue c ev = t at h
  have hshadow : (t.enqueue (512 + c) ev).mid = d.mid := (enqueue_mid _ _ _ hev).trans h
  dsimp only
  split
  · exact h
  · split
    · exact ite_keeps Dev.mid h hshadow
    · split
      · exact ite_keeps Dev.mid hshadow h
      · exact h

theorem deliverUpTo_mid (d : Dev) (c : Nat) (ev : Ev) (h : ev.ring = none) : (d.deliverUpTo c ev).mid = d.mid := by
  unfold Dev.deliverUpTo
  split
  · exact ite_keeps Dev.mid (freeSlots_mid _ _ h) (deliverEv_mid _ _ _ h)
  · exact deliverEv_mid _ _ _ h

/-- An event without a slot, posted to a channel. -/
theorem post_mid (d : Dev) (c : Nat) (ev : Ev) (h : ev.ring = none) : (d.post c ev).mid = d.mid := by
  have harmed := ite_keeps (c := d.mode = .spare) Dev.mid (journal_mid d c { ev with chan := c })
    (freeSlots_mid d { ev with chan := c } h)
  unfold Dev.post
  dsimp only
  split
  · exact harmed
  · exact deliverUpTo_mid _ _ _ h
  · exact deliverUpTo_mid _ _ _ h
  · exact deliverUpTo_mid _ _ _ h
  · split
    · exact deliverUpTo_mid _ _ _ h
    · exact harmed
    · exact freeSlots_mid _ _ h
  · exact freeSlots_mid _ _ h

theorem control_mid (d : Dev) (b unit : Nat) (bell : Word) : (d.control b unit bell).mid = d.mid := by
  unfold Dev.control
  dsimp only
  split
  · rfl
  · exact ite_keeps Dev.mid (by rw [post_mid _ _ _ rfl]; rfl) rfl

/-- A register of these blocks after a bell without a doorbell has rung: the bell's own bits are set, every other word stays. -/
theorem ring_r_mid (d : Dev) {b : BellReg} (bits : Word) {a : Nat} (hd : b.door = none) (h : 0x600000 ≤ a ∧ a < 0x1400000 ∧ a ≠ SLV_CNT 15) :
    (d.ring b bits).r a = if a = b.addr then d.r b.addr ||| bits else d.r a := by
  have key : (d.ring b bits).mid = (d.setBell b bits).mid := by
    unfold Dev.ring
    rw [hd]
    dsimp only
    generalize d.setBell b bits = x
    split
    · exact ite_keeps Dev.mid (control_mid ..) rfl
    · rfl
  rw [r_of_mid key h, setBell_r]

theorem ringBit_r_mid (d : Dev) {b : BellReg} (i : Nat) {a : Nat} (hd : b.door = none)
    (h : 0x600000 ≤ a ∧ a < 0x1400000 ∧ a ≠ SLV_CNT 15) (hb : a ≠ b.addr) : (d.ringBit b i).r a = d.r a :=
  (ring_r_mid d _ hd h).trans (if_neg hb)

/-- A bell of these blocks after it has rung. -/
theorem ringBit_b_mid (d : Dev) {b : BellReg} {i : Nat} (hd : b.door = none)
    (h : 0x600000 ≤ b.addr ∧ b.addr < 0x1400000 ∧ b.addr ≠ SLV_CNT 15) (hi : i < 32) : (d.ringBit b i).b b.addr i = true := by
  rw [Dev.b, Dev.ringBit, ring_r_mid d _ hd h, if_pos rfl, bitOf_or_self _ _ hi]

end Sys2Proof.Machine
end

section
/-!
SUPPORT. The multi-drop bus controllers: their states and counters, the ends of transmit requests, reception and the
time-triggered schedule (R397-R419).
-/
namespace Sys2Proof.Machine

/-! ### Controllers and their registers -/

theorem ctl_setCtl_self (d : Dev) (n : Nat) (g : Mdb → Mdb) : (d.setCtl n g).ctl n = g (d.ctl n) := by
  rw [Dev.ctl, Dev.setCtl, tget_tmod_self, Dev.ctl]

theorem r_setCtl (d : Dev) (n : Nat) (g : Mdb → Mdb) (a : Nat) : (d.setCtl n g).r a = d.r a := rfl

theorem f_setCtl (d : Dev) (n : Nat) (g : Mdb → Mdb) (a hi lo : Nat) : (d.setCtl n g).f a hi lo = d.f a hi lo := rfl

theorem b_setCtl (d : Dev) (n : Nat) (g : Mdb → Mdb) (a i : Nat) : (d.setCtl n g).b a i = d.b a i := rfl

theorem now_setCtl (d : Dev) (n : Nat) (g : Mdb → Mdb) : (d.setCtl n g).tb.now = d.tb.now := rfl

theorem ctl_w (d : Dev) (a : Nat) (v : Word) (n : Nat) : (d.w a v).ctl n = d.ctl n := rfl

theorem ctl_wf (d : Dev) (a hi lo v n : Nat) : (d.wf a hi lo v).ctl n = d.ctl n := rfl

theorem setCtl_congr {d : Dev} {n : Nat} {f g : Mdb → Mdb} (h : f (d.ctl n) = g (d.ctl n)) : d.setCtl n f = d.setCtl n g := by
  rw [Dev.ctl] at h
  rw [Dev.setCtl, Dev.setCtl, tmod, tmod, h]

/-- A word whose low fifteen bits two fields give as zero. -/
theorem and_low_zero {w : Word} (hlo : fld w 7 0 = 0) (hhi : fld w 14 8 = 0) : w &&& 0x7FFF = 0 := by
  have hw : w.toNat % 2 ^ 15 = 0 := by
    simp only [fld, Nat.shiftRight_eq_div_pow] at hlo hhi
    omega
  apply BitVec.eq_of_toNat_eq
  rw [BitVec.toNat_and]
  exact (Nat.and_two_pow_sub_one_eq_mod w.toNat 15).trans hw

theorem errShow_r (d : Dev) (n : Nat) {a : Nat} (h : a ≠ MDB_ERR n) : (d.errShow n).r a = d.r a := by
  rw [Dev.errShow, Dev.r_wf_ne _ _ _ _ h, Dev.r_wf_ne _ _ _ _ h]

theorem errShow_parts (d : Dev) (n : Nat) : (d.errShow n).mdb = d.mdb ∧ (d.errShow n).mem = d.mem ∧ (d.errShow n).tb = d.tb := by
  simp [Dev.errShow]

theorem errShow_ctl (d : Dev) (n m : Nat) : (d.errShow n).ctl m = d.ctl m := by rw [Dev.ctl, (errShow_parts d n).1, Dev.ctl]

/-- The register of the error counters, both zero. -/
theorem errShow_zero {d : Dev} {n : Nat} (htx : (d.ctl n).txErr = 0) (hrx : (d.ctl n).rxErr = 0) :
    (d.errShow n).r (MDB_ERR n) &&& 0x7FFF = 0 := by
  rw [Dev.errShow, Dev.r_wf_self, Dev.r_wf_self, htx, hrx]
  refine and_low_zero ?_ ?_
  · rw [fld_setFld_ne _ _ _ _ _ _ (by simp) (by simp) (by simp), fld_setFld_self _ _ _ _ (by simp) (by simp)]
    simp
  · rw [fld_setFld_self _ _ _ _ (by simp) (by simp)]
    simp

/-! ### Offers -/

theorem unoffer_waits {d : Dev} {n : Nat} (h : (d.ctl n).sending = none ∨ (d.ctl n).startAt ≠ d.tb.now) : d.unoffer n = d := by
  unfold Dev.unoffer
  refine if_neg ?_
  rcases h with h | h <;> simp [h]

theorem canOffer_integrating {d : Dev} {n : Nat} (hs : (d.ctl n).sending = none) (hst : d.canState n = 1) : d.canOffer n = d := by
  unfold Dev.canOffer
  dsimp only
  rw [unoffer_waits (Or.inl hs)]
  exact if_pos (by simp [Dev.canMay, hst])

theorem canCut_idle {d : Dev} {n : Nat} (hs : (d.ctl n).sending = none) : d.canCut n = d := by
  unfold Dev.canCut
  rw [hs]

/-! ### Life of a controller -/

/-- A controller that starts to integrate with its counters at zero, after a write of its control register. -/
def Dev.canBegun (d : Dev) (n : Nat) (v : Word) : Dev :=
  (((d.w (MDB_CTRL n) v).canStateSet n 1).setCtl n (fun x => { x with txErr := 0, rxErr := 0 })).errShow n

theorem canBegun_parts (d : Dev) (n : Nat) (v : Word) : (d.canBegun n v).b (MDB_CTRL n) 0 = bitOf v 0 ∧ (d.canBegun n v).canState n = 1 ∧
    (d.canBegun n v).ctl n = { d.ctl n with txErr := 0, rxErr := 0 } ∧
    (d.canBegun n v).r (MDB_ERR n) &&& 0x7FFF = 0 ∧ (d.canBegun n v).mem = d.mem := by
  have hctl : (((d.w (MDB_CTRL n) v).canStateSet n 1).setCtl n (fun x => { x with txErr := 0, rxErr := 0 })).ctl n =
      { d.ctl n with txErr := 0, rxErr := 0 } := by rw [ctl_setCtl_self, Dev.canStateSet, ctl_wf, ctl_w]
  unfold Dev.canBegun
  refine ⟨?_, ?_, (errShow_ctl _ n n).trans hctl, errShow_zero (by rw [hctl]) (by rw [hctl]), ?_⟩
  · rw [Dev.b, errShow_r _ _ (by simp), r_setCtl, Dev.canStateSet, Dev.r_wf_ne _ _ _ _ (by simp), Dev.r_w_self]
  · rw [Dev.canState, Dev.f, errShow_r _ _ (by simp), r_setCtl, Dev.canStateSet, Dev.r_wf_self,
      fld_setFld_self _ _ _ _ (by simp) (by simp)]
    simp
  · rw [(errShow_parts _ n).2.1]
    simp [Dev.canStateSet]

theorem mdbCtrl_enable {d : Dev} {n : Nat} {v : Word} (hoff : d.b (MDB_CTRL n) 0 = false)
    (htt : bitOf v 8 = false ∨ d.b (MDB_CTRL n) 8 = true) :
    d.mdbCtrl n (v ||| 1) = ((d.canBegun n ((v ||| 1) &&& 0x7FF)).canCut n).canOffer n := by
  have h0 : bitOf (v ||| 1) 0 = true := by rw [bitOf_or]; simp [bitOf]
  have h8 : bitOf (v ||| 1) 8 = bitOf v 8 := by rw [bitOf_or, show bitOf 1 8 = false by decide, Bool.or_false]
  have hold0 : bitOf (d.r (MDB_CTRL n)) 0 = false := hoff
  have hold8 : bitOf v 8 = false ∨ bitOf (d.r (MDB_CTRL n)) 8 = true := htt
  unfold Dev.mdbCtrl
  dsimp only
  rw [h0, hold0, h8, if_pos (show (true && !false) = true from rfl), if_neg (by rcases hold8 with h | h <;> simp [h])]
  rfl

/-! ### Requests -/

theorem bufStatWrite_pend {d : Dev} {who : Initiator} {n b : Nat} (howner : fld (d.r (bufCfg n b)) 19 18 = 0)
    (hdir : bitOf (d.r (bufCfg n b)) 0 = false) : d.bufStatWrite who n b 1 = (d.canAsk n b).canOffer n := by
  unfold Dev.bufStatWrite
  dsimp only
  rw [show bitOf (1 : Word) 0 = true by decide, show bitOf (1 : Word) 1 = false by decide, Bool.not_true,
    if_neg Bool.false_ne_true, howner, if_neg (show ¬ 0 ≠ 0 by simp), hdir, if_neg Bool.false_ne_true, if_neg Bool.false_ne_true]

theorem canAsk_idle {d : Dev} {n b : Nat} (hp : d.b (bufStat n b) 0 = false) : d.canAsk n b =
    if d.recOk n (d.r (MDB_BUF n b 2)) (d.r (MDB_BUF n b 3)) then d.wb (bufStat n b) 0 true
    else (d.wb (bufStat n b) 0 true).reqEnd n b 7 := by
  unfold Dev.canAsk
  rw [hp, if_neg Bool.false_ne_true]

theorem canAsk_pending {d : Dev} {n b : Nat} (hp : d.b (bufStat n b) 0 = true) : d.canAsk n b = d := by
  unfold Dev.canAsk
  exact if_pos hp

theorem bufStatWrite_abort (d : Dev) (who : Initiator) (n b : Nat) : d.bufStatWrite who n b 2 = (d.canAbort n b).canOffer n := by
  unfold Dev.bufStatWrite
  dsimp only
  rw [show bitOf (2 : Word) 0 = false by decide, show bitOf (2 : Word) 1 = true by decide, Bool.not_false, if_pos rfl, if_pos rfl]

section
variable {d x : Dev} {n b : Nat} (hx : x = d.setCtl n (fun x => { x with abortAt := tset x.abortAt b (d.tb.now + 1) }))
include hx

theorem abortAsked_parts : (x.ctl n).sending = (d.ctl n).sending ∧ (x.ctl n).startAt = (d.ctl n).startAt ∧ x.tb = d.tb ∧
    ∀ a i, x.b a i = d.b a i := by
  subst hx
  rw [ctl_setCtl_self]
  exact ⟨rfl, rfl, rfl, fun a i => b_setCtl ..⟩

theorem canAbort_waiting (hs : (d.ctl n).sending ≠ some b) (hp : d.b (bufStat n b) 0 = true) :
    d.canAbort n b = ((x.unarm n b).reqEnd n b 4).canOffer n := by
  obtain ⟨hsend, -, -, hb⟩ := abortAsked_parts hx
  unfold Dev.canAbort
  dsimp only
  rw [← hx, hsend, if_neg hs, hsend, if_neg hs, hb, if_pos hp]

theorem canAbort_sending (hs : (d.ctl n).sending = some b) (ht : (d.ctl n).startAt ≠ d.tb.now) :
    d.canAbort n b = (x.wb (bufStat n b) 1 true).setCtl n (fun x => { x with abortSending := true }) := by
  obtain ⟨hsend, hstart, htb, -⟩ := abortAsked_parts hx
  have hkeep : x.unoffer n = x := unoffer_waits (Or.inr (by rw [hstart, htb]; exact ht))
  unfold Dev.canAbort
  dsimp only
  rw [← hx, hkeep, ite_self, hsend, if_pos hs]

theorem canAbort_offered (hs : (d.ctl n).sending = some b) (ht : (d.ctl n).startAt = d.tb.now) (hp : d.b (bufStat n b) 0 = true) :
    d.canAbort n b = (((x.unoffer n).unarm n b).reqEnd n b 4).canOffer n := by
  obtain ⟨hsend, hstart, htb, hb⟩ := abortAsked_parts hx
  have hback : x.unoffer n = { x.setCtl n (fun x => { x with sending := none, abortSending := false }) with
      obs := x.obs.dropWhile (fun o => match o with | .canFrame m _ _ => m == n | _ => false) } := by
    unfold Dev.unoffer
    exact if_pos (by simp [hsend, hs, hstart, ht, htb])
  have hnone : ((x.unoffer n).ctl n).sending = none := by
    rw [hback]
    exact congrArg Mdb.sending (ctl_setCtl_self x n (fun x => { x with sending := none, abortSending := false }))
  have hpend : (x.unoffer n).b (bufStat n b) 0 = true := by
    rw [hback]
    exact (hb _ _).trans hp
  unfold Dev.canAbort
  dsimp only
  rw [← hx, hsend, if_pos hs, hnone, if_neg (by simp), hpend, if_pos rfl]

end

theorem canTxEnd_sent {d x : Dev} {n b tdcv : Nat} (hs : (d.ctl n).sending = some b) (hb : b < 32) (htdc : d.b (MDB_TDC n) 0 = false)
    (hw : (d.ctl n).window = none) (hx : x = (d.setCtl n (fun x => { x with sending := none, abortSending := false })).txGood n) :
    d.canTxEnd n b .sent tdcv = (((x.unarm n b).reqEnd n b 1).shadowUp n b).canOffer n := by
  have hne : b ≠ 32 := by omega
  unfold Dev.canTxEnd
  rw [if_neg (by simp [hs])]
  dsimp only
  rw [htdc, Bool.false_and, Bool.false_and, if_neg Bool.false_ne_true, if_neg hne,
    setCtl_congr (g := fun x => { x with sending := none, abortSending := false }) (by simp only [hw]), ← hx]

theorem rxqPop_parts {d : Dev} {n q : Nat} {v : Word} (hv : bitOf v 0 = true) :
    tget [] ((d.rxqPop n q v).ctl n).rxq q = (tget [] (d.ctl n).rxq q).drop 1 ∧
    (d.rxqPop n q v).f (MDB_RXQ_STAT n q) 5 0 = ((tget [] (d.ctl n).rxq q).length - 1) % 64 ∧ (d.rxqPop n q v).mem = d.mem := by
  unfold Dev.rxqPop
  dsimp only
  rw [hv, if_neg (by simp), ctl_wf, ctl_setCtl_self, Dev.f_wf_self _ _ _ (by simp) (by simp), List.length_drop]
  exact ⟨tget_tset_self .., rfl, by simp⟩

/-! ### Reception -/

theorem setCtl_mid (d : Dev) (n : Nat) (g : Mdb → Mdb) : (d.setCtl n g).mid = d.mid := rfl

theorem mdbEvent_mid (d : Dev) (n c : Nat) (st : Stamp) (word : Word) : (d.mdbEvent n c st word).mid = d.mid := by
  unfold Dev.mdbEvent
  dsimp only
  rw [post_mid _ _ _ rfl, setCtl_mid]
  exact ite_keeps Dev.mid (each_keeps Dev.mid _ _ (fun _ _ => setCtl_mid ..) d) rfl

theorem fillSlot_r (d : Dev) (kind idx slot c w addr : Nat) (bytes : List Byte) (ev : Ev) (a : Nat) :
    (d.fillSlot kind idx slot c w addr bytes ev).r a = d.r a := by
  unfold Dev.fillSlot
  cases d.winKey c w addr bytes.length <;> rfl

/-- A filter word keeps its value while a frame is queued. -/
theorem rxqPut_filt {d : Dev} {n q i : Nat} {rec_ : List Word} {st : Stamp} {sof : Word} {fl len : Nat} {no : Bool}
    (hn : n < 8) (hq : q < 2) (hi : i < 64) : (d.rxqPut n q rec_ st sof fl no len).r (MDB_FILT n i 0) = d.r (MDB_FILT n i 0) := by
  have hmid : 0x600000 ≤ MDB_FILT n i 0 ∧ MDB_FILT n i 0 < 0x1400000 ∧ MDB_FILT n i 0 ≠ SLV_CNT 15 := by
    unfold MDB_FILT SLV_CNT
    omega
  have hbell : ∀ (x : Dev) k, (x.ringBit (.mdb n) k).r (MDB_FILT n i 0) = x.r (MDB_FILT n i 0) := fun x k =>
    ringBit_r_mid x k rfl hmid (by simp only [BellReg.addr, MDB_BELL, MDB_FILT]; omega)
  have hcfg : MDB_FILT n i 0 ≠ MDB_RXQ_CFG n q 3 := by unfold MDB_FILT MDB_RXQ_CFG; omega
  have hstat : MDB_FILT n i 0 ≠ MDB_RXQ_STAT n q := by unfold MDB_FILT MDB_RXQ_STAT; omega
  have hcnt : ∀ (x : Dev) k, k < 8 → (x.cnt (MDB_CNT n k)).r (MDB_FILT n i 0) = x.r (MDB_FILT n i 0) := fun x k hk =>
    Dev.r_wf_ne x _ _ _ (by unfold MDB_FILT MDB_CNT; omega)
  unfold Dev.rxqPut
  dsimp only
  split
  · split
    · rw [r_setCtl, hbell, hcnt _ _ (by omega)]
    · rw [hbell, Dev.r_wf_ne _ _ _ _ hstat, Dev.r_wf_ne _ _ _ _ hstat, r_setCtl]
  · split
    · rw [hbell, r_of_mid (mdbEvent_mid ..) hmid, fillSlot_r, Dev.r_wf_ne _ _ _ _ hcfg, r_setCtl]
    · rw [r_setCtl, hcnt _ _ (by omega)]

section
variable {d : Dev} {n : Nat} {f : CanRx} (hen : d.b (MDB_CTRL n) 0 = true) (hst : d.canState n = 2 ∨ d.canState n = 3)
include hen hst

theorem canReceive_fdRefused (h4 : bitOf f.w1 4 = true) (hfd : d.b (MDB_CTRL n) 3 = false) : d.canReceive n f =
    if d.b (MDB_CTRL n) 7 then d.canStateSet n 1 else (d.rxError n 2 false).canOffer n := by
  unfold Dev.canReceive
  rw [if_neg (by rcases hst with h | h <;> simp [hen, h]), if_pos (by simp [h4, hfd])]

variable {x : Dev} (hfd : bitOf f.w1 4 = true → d.b (MDB_CTRL n) 3 = true)
  (hx : x = ((if d.opEff n < 2 then d.emit (.canAck n) else d).rxGood n).cnt (MDB_CNT n 0)) (href : x.isRef n f.w0 f.w1 = false)
include hfd hx href

theorem canReceive_noFilter (hf : ∀ i, i < 64 → bitOf (x.r (MDB_FILT n i 0)) 31 = false) (hnm : x.f (MDB_CTRL n) 10 9 = 0) :
    d.canReceive n f = (x.cnt (MDB_CNT n 4)).canOffer n := by
  have hnone : (List.range 64).find? (fun i => bitOf (x.r (MDB_FILT n i 0)) 31 && bitOf (x.r (MDB_FILT n i 0)) 29 == bitOf f.w0 29 &&
      ((f.w0 ^^^ x.r (MDB_FILT n i 0)) &&& x.r (MDB_FILT n i 1) &&& 0x1FFFFFFF) == 0) = none := by
    rw [List.find?_eq_none]
    intro i hi
    simp [hf i (List.mem_range.mp hi)]
  have hmode : (x.cnt (MDB_CNT n 4)).f (MDB_CTRL n) 10 9 = 0 := by
    rw [Dev.f, Dev.cnt, Dev.satf, Dev.r_wf_ne _ _ _ _ (by unfold MDB_CTRL MDB_CNT; omega)]
    exact hnm
  unfold Dev.canReceive
  rw [if_neg (by rcases hst with h | h <;> simp [hen, h]), if_neg (by
    cases h4 : bitOf f.w1 4
    · simp
    · simp [hfd h4])]
  dsimp only
  rw [← hx, href, if_neg Bool.false_ne_true, hnone]
  dsimp only
  rw [hmode, if_neg (by simp)]

theorem canReceive_queue0 {i : Nat} (hn : n < 8)
    (hfind : (List.range 64).find? (fun i => bitOf (x.r (MDB_FILT n i 0)) 31 && bitOf (x.r (MDB_FILT n i 0)) 29 == bitOf f.w0 29 &&
      ((f.w0 ^^^ x.r (MDB_FILT n i 0)) &&& x.r (MDB_FILT n i 1) &&& 0x1FFFFFFF) == 0) = some i)
    (hdest : fld (x.r (MDB_FILT n i 1)) 31 29 = 0) (hbr : bitOf (x.r (MDB_FILT n i 0)) 30 = false) :
    d.canReceive n f = (x.rxqPut n 0 ([f.w0, f.w1] ++ (List.range 16).map (fun i => w32 (leAt f.data (4 * i) 4))) (d.canStamp f.back)
      (d.canStamp (f.back + 4 * f.sofAgo)).st i false f.data.length).canOffer n := by
  have hi : i < 64 := List.mem_range.mp (List.mem_of_find?_eq_some hfind)
  have h29 : bitOf (x.r (MDB_FILT n i 1)) 29 = false := bitOf_of_fld_zero hdest (by simp) (by simp)
  have hqueue : fld (x.r (MDB_FILT n i 1)) 31 30 = 0 := by
    simp only [fld, Nat.shiftRight_eq_div_pow] at hdest ⊢
    omega
  unfold Dev.canReceive
  rw [if_neg (by rcases hst with h | h <;> simp [hen, h]), if_neg (by
    cases h4 : bitOf f.w1 4
    · simp
    · simp [hfd h4])]
  dsimp only
  rw [← hx, href, if_neg Bool.false_ne_true, hfind]
  dsimp only
  rw [h29, if_neg Bool.false_ne_true, hqueue, if_pos (show 0 < 2 by simp), rxqPut_filt hn (by simp) hi, hbr, if_neg Bool.false_ne_true]

end

/-! ### Time-triggered operation -/

section
variable {d : Dev} {n : Nat}

theorem ttBoundary_due {m : Nat} (h8 : d.b (MDB_CTRL n) 8 = true) (hen : d.b (MDB_TT_CTRL n) 0 = true) (htai : d.b (MDB_TT_CTRL n) 5 = true)
    (hc : d.ttCycle n ≠ 0) (hl : d.f (MDB_TT_STAT n) 1 0 ≠ 3) (hk : d.ttK n ≠ (d.ctl n).refK)
    (hm : m = 4 * (d.stLong - (d.taiNs - (d.ttK n * d.ttCycle n + (d.r (MDB_TT_PHASE n)).toNat)))) (hseen : (d.ctl n).refSeen ≤ m) :
    d.ttBoundary n = ((d.setCtl n (fun x => { x with refK := d.ttK n, refSeen := 4 * d.stLong })).setCtl n
      (fun x => { x with refPend := some m })).canOffer n := by
  unfold Dev.ttBoundary
  rw [if_neg (by simp [h8, htai, hc])]
  dsimp only
  rw [← hm, if_pos (by simp [hk, hseen, hen, hl])]

theorem ttTrigger_arb {k m e : Nat} {a b : Word} {x : Dev} (ha : a = d.r (MDB_TRIG n k 0)) (hb : b = d.r (MDB_TRIG n k 1))
    (h0 : d.b (MDB_CTRL n) 0 = true) (h8 : d.b (MDB_CTRL n) 8 = true) (hen : bitOf b 31 = true) (hty : fld a 18 16 = 1)
    (hofs : fld b 13 8 < 2 ^ fld b 2 0) (hm : (d.ctl n).refMark = some m) (hc : d.ttCycle n ≠ 0)
    (ht : m + 4 * (fld a 15 0 * d.ntu n) ≤ 4 * d.stLong) (hf : (d.ctl n).fired.contains k = false)
    (hcyc : d.f (MDB_TT_STAT n) 8 3 % 2 ^ fld b 2 0 = fld b 13 8) (hl : d.f (MDB_TT_STAT n) 1 0 < 2) (he : e = fld a 23 19)
    (hdir : bitOf (d.r (bufCfg n e)) 0 = false) (hp : d.b (bufStat n e) 0 = true)
    (hx : x = d.setCtl n (fun x => { x with fired := x.fired ++ [k], arb := x.arb.filter (fun b => x.once.contains b) })) :
    d.ttTrigger n k = ((x.unarm n e).setCtl n (fun x => { x with arb := x.arb ++ [e] })).canOffer n := by
  have hxl : x.f (MDB_TT_STAT n) 1 0 < 2 := by rw [hx]; exact hl
  have hxdir : bitOf (x.r (bufCfg n e)) 0 = false := by rw [hx]; exact hdir
  have hxp : x.b (bufStat n e) 0 = true := by rw [hx]; exact hp
  have hup : (x.unarm n e).b (bufStat n e) 0 = true := hxp
  unfold Dev.ttTrigger
  dsimp only
  rw [← ha, ← hb, if_neg (by simp [h0, h8, hen]), if_neg (by simp [hty, hofs]), hm]
  dsimp only
  rw [if_neg (by rw [hf]; simp [hc, ht, hcyc]), ← hx, hty, ← he]
  unfold Dev.ttAct
  dsimp only
  rw [if_neg (by simp), if_pos rfl, if_neg (by omega)]
  unfold Dev.ttSend
  dsimp only
  rw [hxdir, if_neg Bool.false_ne_true, canAsk_pending hup, hxp]
  rfl

theorem txWindowMissed_due {k dl buf : Nat} (hw : (d.ctl n).window = some (buf, dl)) (hdl : dl ≤ 4 * d.stLong)
    (hbuf : buf = d.f (MDB_TRIG n k 0) 23 19) (hs : (d.ctl n).sending ≠ some buf) (hp : d.b (bufStat n buf) 0 = true) :
    d.txWindowMissed n k = (((d.unarm n buf).reqEnd n buf 3).ttRise n 1).canOffer n := by
  have hup : (d.unarm n buf).b (bufStat n buf) 0 = true := hp
  unfold Dev.txWindowMissed
  rw [hw]
  dsimp only
  rw [if_neg (by simp [← hbuf, hdl]), if_neg hs, if_pos hup]

/-! ### Wakes -/

theorem wakeErr_few (h : d.f (MDB_WAKE_STAT n) 7 2 < 31) : d.wakeErr n = d.satf (MDB_WAKE_STAT n) 7 2 1 := by
  unfold Dev.wakeErr
  exact if_neg (by omega)

theorem falseWake_false (hw : d.pwr.wakeByMdbOnly = true) (hc : d.b PWR_WAKE_CAUSE (12 + n) = true)
    (hm : d.modeIn [.stop, .run, .spare] = true) (hi : d.pwr.trans = .idle)
    (ht : d.pwr.wokeAt + 1000000 * d.f (MDB_WAKE_TIMEOUT n) 15 0 ≤ d.tb.now) (hcause : d.r PWR_WAKE_CAUSE &&& 0x4FFF = 0)
    (hk : d.pwr.wakeKept = false) :
    d.falseWake n = ((d.setPwr (fun p => { p with wakeByMdbOnly := false })).ringBit (.mdb n) 9).sleepBegin true := by
  unfold Dev.falseWake
  rw [if_neg (by simp [hw, hc, hm, hi]), if_neg (by omega)]
  dsimp only
  rw [if_pos (by rw [hcause, hk]; rfl)]

end

end Sys2Proof.Machine
end

section
namespace Sys2Proof.Machine

/-- Settles O16: each command of a controller with its state lemma. -/
theorem canControllersComplete : Obligations.CanControllersComplete := by
  unfold Obligations.CanControllersComplete
  refine ⟨?enable, ?integrated, ?recovered, ?error, ?pend, ?abortWaiting, ?abortSending, ?abortOffered, ?sent, ?pop, ?read, ?readNew⟩
  case enable =>
    intro s who n v x hr hoff htt hx
    refine completes_lift exec_canEnable ?_
    rw [access_of_reaches hr, mdbCtrl_enable hoff htt, hx]
    refine ⟨rfl, fun hs => ?_⟩
    obtain ⟨hb, hst, hctl, herr, hmem⟩ := canBegun_parts s.dev n ((v ||| 1) &&& 0x7FF)
    have hsend : ((s.dev.canBegun n ((v ||| 1) &&& 0x7FF)).ctl n).sending = none := by rw [hctl]; exact hs
    rw [canCut_idle hsend, canOffer_integrating hsend hst, hctl]
    refine ⟨hb.trans ?_, hst, rfl, rfl, hs, herr, hmem⟩
    rw [bitOf_and, bitOf_or]
    simp [bitOf]
  case integrated =>
    intro s n hst
    refine completes_lift exec_canIntegrationDone ?_
    rw [if_pos hst]
  case recovered =>
    intro s n hst
    refine completes_lift exec_canRecoveryDone ?_
    rw [if_pos hst, Dev.canState, Dev.f, errShow_r _ _ (by simp), r_setCtl, errShow_ctl, ctl_setCtl_self, (errShow_parts _ _).2.1,
      Dev.canStateSet, Dev.r_wf_self, fld_setFld_self _ _ _ _ (by simp) (by simp)]
    exact ⟨by simp, rfl, rfl, by simp⟩
  case error =>
    intro s n code dp hst
    refine completes_lift exec_canBusError ?_
    rw [if_pos (by rcases hst with h | h <;> simp [h])]
  case pend =>
    intro s who n b hr howner hdir hp
    refine completes_lift exec_canPend ?_
    rw [access_of_reaches hr, bufStatWrite_pend howner hdir, canAsk_idle hp]
  case abortWaiting =>
    intro s who n b x hr hs hp hx
    refine completes_lift exec_canAbort ?_
    rw [access_of_reaches hr, bufStatWrite_abort, canAbort_waiting hx hs hp]
  case abortSending =>
    intro s who n b x hr hs ht hx
    refine completes_lift exec_canAbort ?_
    rw [access_of_reaches hr, bufStatWrite_abort, canAbort_sending hx hs ht]
  case abortOffered =>
    intro s who n b x hr hs ht hp hx
    refine completes_lift exec_canAbort ?_
    rw [access_of_reaches hr, bufStatWrite_abort, canAbort_offered rfl hs ht hp, hx]
  case sent =>
    intro s n b tdcv x hs hb htdc hw hx
    exact completes_lift exec_canTxEnd (canTxEnd_sent hs hb htdc hw hx)
  case pop =>
    intro s who n q v hr hv
    refine completes_lift exec_canRxqPop ?_
    rw [access_of_reaches hr]
    exact rxqPop_parts hv
  case read =>
    intro s who n b hr hdir hat
    refine completes_lift exec_receiveBufferRead ?_
    rw [accessR_of_reaches hr, Dev.ndRead, if_pos (by rw [show bitOf (s.dev.r (bufCfg n b)) 0 = true from hdir]; simp [hat])]
  case readNew =>
    intro s who n b hr hat
    refine completes_lift exec_receiveBufferRead ?_
    rw [accessR_of_reaches hr, Dev.ndRead, if_neg (by simp [hat])]

/-- Settles O17: each command with its state lemma. -/
theorem canReceptionComplete : Obligations.CanReceptionComplete := by
  unfold Obligations.CanReceptionComplete
  refine ⟨?noFilter, ?queue, ?fdRefused, ?boundary, ?trigger, ?clear, ?missed, ?wakeFrame, ?wakeError, ?falseWake, ?confirm⟩
  case noFilter =>
    intro s n f x hok hen hst hfd hx href hf hnm
    exact completes_liftIf exec_canFrameReceive hok (canReceive_noFilter hen hst hfd hx href hf hnm)
  case queue =>
    intro s n f x i hok hen hst hfd hx href hfind hdest hbr
    exact completes_liftIf exec_canFrameReceive hok (canReceive_queue0 hen hst hfd hx href n.isLt hfind hdest hbr)
  case fdRefused =>
    intro s n f hok hen hst h4 hfd
    exact completes_liftIf exec_canFrameReceive hok (canReceive_fdRefused hen hst h4 hfd)
  case boundary =>
    intro s n m h8 hen htai hc hl hk hm hseen
    exact completes_lift exec_ttCycleBoundary (ttBoundary_due h8 hen htai hc hl hk hm hseen)
  case trigger =>
    intro s n k a b m e x ha hb h0 h8 hen hty hofs hm hc ht hf hcyc hl he hdir hp hx
    exact completes_lift exec_ttTrigger (ttTrigger_arb ha hb h0 h8 hen hty hofs hm hc ht hf hcyc hl he hdir hp hx)
  case clear =>
    intro s who n v hr hv hl
    refine completes_lift exec_ttLevelClear ?_
    rw [access_of_reaches hr, Dev.ttLevelWrite, if_pos (by simp [hv, hl])]
  case missed =>
    intro s n k dl buf hw hdl hbuf hs hp
    exact completes_lift exec_txWindowMissed (txWindowMissed_due hw hdl hbuf hs hp)
  case wakeFrame =>
    intro s n w0 dlc data x hpor hlow hx hm
    refine completes_lift exec_mdbWakeFrame ?_
    unfold Dev.wakeFrame
    rw [hpor, hlow, if_neg (by simp)]
    dsimp only
    rw [← hx, if_pos hm]
  case wakeError =>
    intro s n hpor hlow hc
    refine completes_lift exec_mdbWakeFrame ?_
    unfold Dev.wakeFrame
    rw [hpor, hlow, if_neg (by simp)]
    exact wakeErr_few hc
  case falseWake =>
    intro s n hw hc hm hi ht hcause hk
    exact completes_lift exec_falseWakeCheck (falseWake_false hw hc hm hi ht hcause hk)
  case confirm =>
    intro s who n v hr hv
    refine completes_lift exec_wakeConfirm ?_
    rw [access_of_reaches hr, Dev.wakeConfirm, if_pos hv]

end Sys2Proof.Machine
end

section
/-!
SUPPORT. An answer to a peer-delay request is sampled, and a sample moves on what waits in PE: a frame for a channel's ring is then
written into memory.
-/
namespace Sys2Proof.Machine

/-- A sampled frame of one byte, received on port 0. -/
def sampledFrame : QFrame :=
  { bytes := [1], st := 1, quarter := 0, gen := 0, inPort := 0, cls := 0, cut := false, sampled := true, truncated := false,
    stomped := false, red := 0, vid := 0, pcp := 0, tagged := false, length := 1, etype := 0, inSeq := 0, redSeq := 0, lan := 0,
    tag := 0, tsReq := false, onestep := false, cmd := false, chanOut := false, enqSt := 0, stored := 1 }

/-- The entry of that frame in PE, by subscription 0. -/
def sampledEntry : QEntry := { f := sampledFrame, cells := 1, charge := .none, yields := 0, cell := 0, pe := some (0, 12) }

/-- In Stop port 0 is up and idle, with a peer-delay request to answer; the frame for channel 0 waits in PE. -/
def pdelayState : State :=
  { pending := []
    dev := { Dev.reset with
      regs := [(MAC_CTRL 0, 5), (MAC_LINK_STAT 0, 1), (SWC_SUB 0 4, 0x01001000), (SWC_SUB 0 5, 0x100)]
      pwr := { Pwr.init with mode := .stop }
      mac := [(0, { MacPort.init with pdelay := [{ req := [], st := 0, quarter := 0 }] })]
      swc := { Switch.init with q := [(160, [sampledEntry])] }
      cut := { Cutter.init with
        genChan := [(0, 1)]
        chans := [(0, { Chan.init with st := .armed, desc := [(7, 1), (17, 0x400001)] })] } } }

/-- What a command gives is what its operation leaves. -/
theorem lift_of_completes {c : Instr} {s : State} {f : Dev → Dev} {P : Dev → Prop} (he : exec c s = lift f s) (h : Completes c s P) :
    P (f s.dev) := by
  obtain ⟨t, hexec, -, hP⟩ := h
  rw [← Host.Outcome.next.inj (he.symm.trans hexec)] at hP
  exact hP

/-- The answer delivers the frame into the channel's window. -/
theorem pdelayState_respond_mem : mget (pdelayState.dev.pdelayRespond 0).mem 0 = 1 := by
  decide +kernel

/-- Refutes O18: port 0 answers the request, and the frame that waits in PE goes into the memory of channel 0 with it. -/
theorem not_portFramesComplete : ¬ Obligations.PortFramesComplete := by
  unfold Obligations.PortFramesComplete
  intro h
  obtain ⟨-, -, -, -, -, -, -, -, -, -, -, -, hpdelay⟩ := h
  obtain ⟨-, -, hmem⟩ := lift_of_completes exec_pdelayResponse <| hpdelay pdelayState 0 0 { req := [], st := 0, quarter := 0 } [] (by decide +kernel)
    (by decide +kernel) (by decide +kernel) (by decide +kernel) (by decide +kernel) (by decide +kernel) (by decide +kernel)
    (by decide +kernel)
  have hbyte : mget (pdelayState.dev.pdelayRespond 0).mem 0 = mget pdelayState.dev.mem 0 :=
    congrArg (fun m => mget m 0) hmem
  rw [pdelayState_respond_mem] at hbyte
  exact absurd hbyte (by decide)

end Sys2Proof.Machine
end

section
/-!
SUPPORT. The MDIO masters and the tallies of a port (R289, R290, R304, R305).
-/
namespace Sys2Proof.Machine

section
variable {d : Dev} {m : Nat}

/-- A command for an idle master begins at once. -/
theorem mdioCmd_idle {who : Initiator} {op : Nat} {v : Word} {h : Bool} (hop : fld v 1 0 = op)
    (hidle : tget MdioOp.idle d.mdio m = .idle) (hh : h = true → isHost who = true) :
    d.mdioCmd who m op v h = (({ d with mdio := tset d.mdio m (.cmd v) } : Dev).wb (MAC_MDIO_STAT m) 0 true).emit
      (.mdio m op v (d.f (MAC_MDIO_DATA m) 15 0) (!(d.b (MAC_MDIO_CFG m) 8))) := by
  unfold Dev.mdioCmd
  rw [if_neg (by simp [hop]), if_neg (by cases h <;> simp [hh]), hidle, ← hop]
  rfl

theorem mdioPoll_first {p : Nat} {v : Word} (hup : d.hostUp = true) (hsrc : d.f (MAC_LINK_CFG p) 1 0 = 0)
    (hm : d.f (MAC_LINK_CFG p) 6 6 = m) (hpoll : (d.port p).polled = none) (hidle : tget MdioOp.idle d.mdio m = .idle)
    (hc45 : d.b (MAC_LINK_CFG p) 12 = false) (hv : v = w32 (1 + 4 * d.f (MAC_LINK_CFG p) 11 7 + 128)) :
    d.mdioPoll m p = ((({ d with mdio := tset d.mdio m (.poll p none) } : Dev).wb (MAC_MDIO_STAT m) 0 true).setPort p
      (fun x => { x with polled := some d.tb.now })).emit (.mdio m 1 v (d.f (MAC_MDIO_DATA m) 15 0) (!(d.b (MAC_MDIO_CFG m) 8))) := by
  have hreg : ∀ a, a ≠ MAC_MDIO_STAT m →
      (({ d with mdio := tset d.mdio m (.poll p none) } : Dev).wb (MAC_MDIO_STAT m) 0 true).r a = d.r a :=
    fun a ha => Dev.r_wb_ne _ _ _ ha
  rw [Dev.f] at hsrc hm
  rw [Dev.b] at hc45
  unfold Dev.mdioPoll
  dsimp only
  rw [hpoll, if_neg (by simp [hup, hsrc, hm, hidle]), hc45, if_neg Bool.false_ne_true, if_neg Bool.false_ne_true, Nat.add_zero, hv,
    Dev.f, Dev.b, hreg _ (by unfold MAC_MDIO_DATA MAC_MDIO_STAT; omega), hreg _ (by unfold MAC_MDIO_CFG MAC_MDIO_STAT; omega)]
  rfl

theorem mdioDone_poll {p speed : Nat} {x : BitVec 16} (hop : tget MdioOp.idle d.mdio m = .poll p none)
    (hsrc : d.f (MAC_LINK_CFG p) 1 0 = 0) : d.mdioDone m (some x) speed =
      (({ d with mdio := tset d.mdio m .idle } : Dev).wb (MAC_MDIO_STAT m) 0 false).mgmtView p (x.toNat.testBit 2) speed := by
  have hcfg : (({ d with mdio := tset d.mdio m .idle } : Dev).wb (MAC_MDIO_STAT m) 0 false).f (MAC_LINK_CFG p) 1 0 = 0 := by
    rw [Dev.f, Dev.r_wb_ne _ _ _ (by unfold MAC_LINK_CFG MAC_MDIO_STAT; omega)]
    exact hsrc
  unfold Dev.mdioDone
  rw [hop]
  dsimp only
  rw [if_pos hcfg]

/-- The end of a command: the master is idle, its status counts, and its bell rings. -/
def Dev.mdioEnd (d : Dev) (m : Nat) : Dev :=
  (({ d with mdio := tset d.mdio m .idle } : Dev).wb (MAC_MDIO_STAT m) 0 false).incf (MAC_MDIO_STAT m) 31 16 1

theorem mdioEnd_parts : (d.mdioEnd m).r (MAC_MDIO_DATA m) = d.r (MAC_MDIO_DATA m) ∧ (d.mdioEnd m).b (MAC_MDIO_STAT m) 0 = false ∧
    tget MdioOp.idle (d.mdioEnd m).mdio m = .idle := by
  have hne : MAC_MDIO_DATA m ≠ MAC_MDIO_STAT m := by unfold MAC_MDIO_DATA MAC_MDIO_STAT; omega
  unfold Dev.mdioEnd
  refine ⟨?_, ?_, tget_tset_self ..⟩
  · rw [Dev.incf, Dev.r_wf_ne _ _ _ _ hne, Dev.r_wb_ne _ _ _ hne]
    rfl
  · rw [Dev.incf, Dev.b, Dev.r_wf_self, bitOf_setFld _ _ _ _ _ (by simp) (by simp), if_neg (by simp)]
    exact Dev.b_wb_self _ _ _ (by simp)

theorem mdioDone_read {v : Word} {x : BitVec 16} {speed : Nat} (hop : tget MdioOp.idle d.mdio m = .cmd v) (hv : fld v 1 0 % 2 = 1) :
    d.mdioDone m (some x) speed = ((d.wf (MAC_MDIO_DATA m) 15 0 x.toNat).mdioEnd m).ringBit .macGlb m := by
  have hrd : fld v 0 0 ≠ 0 := by
    simp only [fld, Nat.shiftRight_zero] at hv ⊢
    omega
  unfold Dev.mdioDone
  rw [hop]
  dsimp only
  rw [if_neg hrd]
  rfl

theorem mdioDone_write {v : Word} {a : Option (BitVec 16)} {speed : Nat} (hop : tget MdioOp.idle d.mdio m = .cmd v)
    (hv : fld v 1 0 % 2 = 0) : d.mdioDone m a speed = (d.mdioEnd m).ringBit .macGlb m := by
  have hwr : fld v 0 0 = 0 := by
    simp only [fld, Nat.shiftRight_zero] at hv ⊢
    omega
  unfold Dev.mdioDone
  rw [hop]
  dsimp only
  rw [if_pos hwr]
  rfl

end

end Sys2Proof.Machine
end

section
namespace Sys2Proof.Machine

/-- Settles O19: each command of MDIO and the tallies with its state lemma. -/
theorem portManagementComplete : Obligations.PortManagementComplete := by
  unfold Obligations.PortManagementComplete
  refine ⟨?poll, ?pollDone, ?c22Write, ?c22Read, ?c45Write, ?c45Read, ?readDone, ?writeDone, ?clear, ?read⟩
  case poll =>
    intro s m p v hup hsrc hm hpoll hidle hc45 hv
    exact completes_lift exec_mdioPoll (mdioPoll_first hup hsrc hm hpoll hidle hc45 hv)
  case pollDone =>
    intro s m p x speed hop hsrc
    exact completes_lift exec_mdioComplete (mdioDone_poll hop hsrc)
  case c22Write =>
    intro s who m v h hr hop hidle hh
    refine completes_lift exec_mdioC22Write ?_
    rw [access_of_reaches hr, mdioCmd_idle hop hidle hh]
  case c22Read =>
    intro s who m v h hr hop hidle hh
    refine completes_lift exec_mdioC22Read ?_
    rw [access_of_reaches hr, mdioCmd_idle hop hidle hh]
  case c45Write =>
    intro s who m v h hr hop hidle hh
    refine completes_lift exec_mdioC45Write ?_
    rw [access_of_reaches hr, mdioCmd_idle hop hidle hh]
  case c45Read =>
    intro s who m v h hr hop hidle hh
    refine completes_lift exec_mdioC45Read ?_
    rw [access_of_reaches hr, mdioCmd_idle hop hidle hh]
  case readDone =>
    intro s m v answer speed hop hv
    refine completes_lift exec_mdioComplete ⟨_, mdioDone_read hop hv, ?_, mdioEnd_parts.2.1, mdioEnd_parts.2.2⟩
    rw [Dev.f, mdioEnd_parts.1]
    exact (Dev.f_wf_self _ _ _ (by simp) (by simp)).trans (Nat.mod_eq_of_lt answer.isLt)
  case writeDone =>
    intro s m v answer speed hop hv
    exact completes_lift exec_mdioComplete ⟨_, mdioDone_write hop hv, mdioEnd_parts⟩
  case clear =>
    intro s who p v hr hv
    refine completes_lift exec_tallyClear ?_
    rw [access_of_reaches hr, Dev.tallyClr, if_pos hv]
  case read =>
    intro s who p i hr
    refine completes_lift exec_tallyRead ?_
    rw [accessR_of_reaches hr]
    rfl

end Sys2Proof.Machine
end

section
/-!
SUPPORT. A heartbeat whose window is zero nanoseconds is never in time, at the boundary itself either (R349).
-/
namespace Sys2Proof.Machine

/-- A heartbeat of node 0 with sequence 0 and its CRC. -/
def zeroHeartbeat : List Byte := List.replicate 20 0 ++ leBytes 4 (crc32 (List.replicate 20 0)).toNat

/-- A pair with a heartbeat slot of the peer at the present tick, with HBI on, a window of zero and no heartbeat seen before. -/
def zeroWindowState : State :=
  { pending := []
    dev := { Dev.reset with regs := [(RED_CTRL, 1), (RED_HB_CFG, 0x400050), (RED_DET_CFG, 0)] } }

theorem exec_heartbeatReceive_hbo {s : State} {msg : List Byte} (h : msg.length = 24) :
    exec (.heartbeatReceive .hbo msg) s = lift (fun d => d.hbReceive 1 msg) s :=
  exec_heartbeatReceive.trans (if_pos (beq_iff_eq.mpr h))

theorem zeroWindowState_peerSeq : tfind (zeroWindowState.dev.hbReceive 1 zeroHeartbeat).red.peerSeq 1 = none := by
  decide +kernel

/-- Refutes O21: with a window of zero a heartbeat at the boundary is not taken, and its sequence is not recorded. -/
theorem not_devicePairComplete : ¬ Obligations.DevicePairComplete := by
  unfold Obligations.DevicePairComplete
  intro h
  obtain ⟨-, hreceive, -⟩ := h
  obtain ⟨hseq, -⟩ := lift_of_completes (exec_heartbeatReceive_hbo (by decide +kernel)) <|
    hreceive zeroWindowState zeroHeartbeat 0 (by decide +kernel) (by decide +kernel) (by decide +kernel) (by decide +kernel)
      (by decide +kernel) (by decide +kernel) (by decide +kernel) (by decide +kernel)
  rw [zeroWindowState_peerSeq] at hseq
  cases hseq

end Sys2Proof.Machine
end

section
/-!
SUPPORT. The Selvedge ring node: what its bell and an event leave of it, its rounds, slots, timers and loops (R371-R392).
-/
namespace Sys2Proof.Machine

/-! ### What bells and events leave of the ring node -/

/-- The ring node but for the records that wait for the pattern book. -/
def Dev.node (d : Dev) : Ring := { d.slv with bookq := [] }

theorem setBell_node (d : Dev) (b : BellReg) (bits : Word) : (d.setBell b bits).node = d.node := by
  unfold Dev.setBell Dev.vecRise
  cases b.vec with
  | none => rfl
  | some v => exact ite_keeps Dev.node rfl rfl

theorem freeSlots_node (d : Dev) (ev : Ev) : (d.freeSlots ev).node = d.node := by
  unfold Dev.freeSlots
  show Dev.node (List.foldl _ d _) = _
  apply foldl_keeps
  intro d u
  exact ite_keeps Dev.node rfl rfl

theorem enqueue_node (d : Dev) (k : Nat) (ev : Ev) : (d.enqueue k ev).node = d.node := by
  have hb : ∀ (a e : Nat) (bits : Word), ((d.cnt a).setBell (.eng e) bits).node = d.node := fun _ _ _ => setBell_node ..
  unfold Dev.enqueue
  refine ite_keeps Dev.node (ite_keeps Dev.node (hb ..) ?_) (ite_keeps Dev.node (hb ..) rfl)
  rw [freeSlots_node]
  exact hb ..

theorem bookPut_node (d : Dev) (h : Word) (n : Nat) (st : Word) (b : List Byte) : (d.bookPut h n st b).node = d.node := by
  unfold Dev.bookPut Dev.free
  exact ite_keeps Dev.node rfl rfl

theorem journal_node (d : Dev) (c : Nat) (ev : Ev) : (d.journal c ev).node = d.node := by
  unfold Dev.journal Dev.bookChan
  exact ite_keeps Dev.node (bookPut_node ..) rfl

theorem deliverEv_node (d : Dev) (c : Nat) (ev : Ev) : (d.deliverEv c ev).node = d.node := by
  have h : ((if d.evRoom c then d.journal c ev else d).enqueue c ev).node = d.node := by
    rw [enqueue_node]
    exact ite_keeps Dev.node (journal_node ..) rfl
  unfold Dev.deliverEv
  refine ite_keeps Dev.node (freeSlots_node ..) ?_
  generalize (if d.evRoom c then d.journal c ev else d).enqueue c ev = t at h
  have hshadow : (t.enqueue (512 + c) ev).node = d.node := (enqueue_node ..).trans h
  dsimp only
  split
  · exact h
  · split
    · exact ite_keeps Dev.node h hshadow
    · split
      · exact ite_keeps Dev.node hshadow h
      · exact h

theorem deliverUpTo_node (d : Dev) (c : Nat) (ev : Ev) : (d.deliverUpTo c ev).node = d.node := by
  unfold Dev.deliverUpTo
  split
  · exact ite_keeps Dev.node (freeSlots_node ..) (deliverEv_node ..)
  · exact deliverEv_node ..

theorem post_node (d : Dev) (c : Nat) (ev : Ev) : (d.post c ev).node = d.node := by
  have harmed := ite_keeps (c := d.mode = .spare) Dev.node (journal_node d c { ev with chan := c }) (freeSlots_node d { ev with chan := c })
  unfold Dev.post
  dsimp only
  split
  · exact harmed
  · exact deliverUpTo_node ..
  · exact deliverUpTo_node ..
  · exact deliverUpTo_node ..
  · split
    · exact deliverUpTo_node ..
    · exact harmed
    · exact freeSlots_node ..
  · exact freeSlots_node ..

theorem control_node (d : Dev) (b unit : Nat) (bell : Word) : (d.control b unit bell).node = d.node := by
  unfold Dev.control
  dsimp only
  split
  · rfl
  · exact ite_keeps Dev.node (post_node ..) rfl

/-- The bell of the ring leaves the ring node. -/
theorem ringBit_slv_node (d : Dev) (i : Nat) : (d.ringBit .slv i).node = d.node := by
  unfold Dev.ringBit Dev.ring
  dsimp only [BellReg.event, BellReg.door]
  exact ite_keeps Dev.node ((control_node ..).trans (setBell_node ..)) (setBell_node ..)

theorem ringBit_slv_parts (d : Dev) (i : Nat) : (d.ringBit .slv i).slv.state = d.slv.state ∧ (d.ringBit .slv i).slv.timer = d.slv.timer ∧
    (d.ringBit .slv i).slv.grid = d.slv.grid ∧ (d.ringBit .slv i).slv.inserted = d.slv.inserted ∧
    (d.ringBit .slv i).slv.heard = d.slv.heard ∧ (d.ringBit .slv i).slv.noTime = d.slv.noTime ∧
    (d.ringBit .slv i).slv.heldA = d.slv.heldA ∧ (d.ringBit .slv i).slv.heldB = d.slv.heldB ∧
    (d.ringBit .slv i).slv.relearn = d.slv.relearn := by
  have h := ringBit_slv_node d i
  simp only [Dev.node, Ring.mk.injEq] at h
  tauto

/-- A register of the ring node other than its bell keeps its value when the bell rings. -/
theorem ringBit_slv_r (d : Dev) (i : Nat) {a : Nat} (ha : 0xF00000 ≤ a ∧ a < 0xF00040) (hb : a ≠ SLV_BELL) :
    (d.ringBit .slv i).r a = d.r a :=
  ringBit_r_mid d i rfl (by unfold SLV_CNT; omega) hb

/-! ### States and timers -/

theorem r_setSlv (d : Dev) (g : Ring → Ring) (a : Nat) : (d.setSlv g).r a = d.r a := rfl

theorem b_setSlv (d : Dev) (g : Ring → Ring) (a i : Nat) : (d.setSlv g).b a i = d.b a i := rfl

theorem ringListen_parts (d : Dev) : d.ringListen.slv.state = .listen ∧ d.ringListen.slv.timer = d.tb.now ∧ d.ringListen.slv.fresh = true ∧
    d.ringListen.r SLV_CTRL = d.r SLV_CTRL ∧ d.ringListen.b SLV_STAT 3 = false ∧ d.ringListen.mem = d.mem := by
  refine ⟨rfl, rfl, rfl, ?_, Dev.b_wb_self _ _ _ (by simp), rfl⟩
  rw [Dev.ringListen, Dev.r_wb_ne _ _ _ (by simp), r_setSlv, Dev.ringState, Dev.r_wf_ne _ _ _ _ (by simp), r_setSlv]

theorem ringCtrl_on {d : Dev} {v : Word} (hv : bitOf v 0 = true) (hoff : d.b SLV_CTRL 0 = false) :
    d.ringCtrl v = (d.w SLV_CTRL (v &&& 0xF)).ringListen := by
  unfold Dev.ringCtrl
  dsimp only
  rw [hv, hoff]
  rfl

theorem ringCtrl_off {d : Dev} {v : Word} (hv : bitOf v 0 = false) (hon : d.b SLV_CTRL 0 = true) :
    d.ringCtrl v = (((d.w SLV_CTRL (v &&& 0xF)).ringState .off).wb SLV_STAT 3 false).setSlv
      (fun r => { r with heard := 0, inserted := [], closeRound := none }) := by
  unfold Dev.ringCtrl
  dsimp only
  rw [hv, hon]
  rfl

theorem originate_parts (d : Dev) : d.originate.slv.state = .coldstart ∧ d.originate.slv.grid = d.tb.st ∧
    d.originate.f SLV_ROUND 15 0 = 0 ∧ d.originate.mem = d.mem := by
  have hst : d.originate.slv.state = .coldstart ∧ d.originate.slv.grid = d.tb.st ∧ d.originate.mem = d.mem := ⟨rfl, rfl, rfl⟩
  refine ⟨hst.1, hst.2.1, ?_, hst.2.2⟩
  unfold Dev.originate
  dsimp only
  rw [Dev.f, Dev.cnt, Dev.satf, Dev.r_wf_ne _ _ _ _ (by decide)]
  exact Dev.f_wf_self _ _ _ (by simp) (by simp)

theorem syncLost_sync {d : Dev} (h : d.slv.state = .sync) :
    d.syncLost = ((d.ringState .integrating).setSlv (fun r => { r with goodTimes := 0 })).ringBit .slv 1 := by
  unfold Dev.syncLost
  dsimp only
  rw [h]
  rfl

theorem syncLost_parts {d : Dev} (h : d.slv.state = .sync) : d.syncLost.slv.state = .integrating ∧ d.syncLost.slv.timer = d.slv.timer ∧
    d.syncLost.listenTime = d.listenTime ∧ d.syncLost.tb = d.tb := by
  obtain ⟨hstate, htimer, -⟩ := ringBit_slv_parts ((d.ringState .integrating).setSlv (fun r => { r with goodTimes := 0 })) 1
  rw [syncLost_sync h, hstate, htimer, (ringBit_parts ..).2.2.1]
  refine ⟨rfl, rfl, ?_, rfl⟩
  rw [Dev.listenTime, Dev.listenTime, Dev.nodeId, Dev.nodeId, Dev.f, ringBit_slv_r _ _ (by decide) (by decide), r_setSlv, Dev.ringState,
    Dev.r_wf_ne _ _ _ _ (by simp), r_setSlv, Dev.f]

/-- A follower in SYNC that has lost its leader's TIME for two rounds, but not for the length of the LISTEN timer. -/
theorem timeLost_sync {d : Dev} (hon : d.ringOn = true) (hl : d.leads = false) (hs : d.slv.state = .sync)
    (ht : d.slv.timer + 20000 ≤ d.tb.now) (hw : d.tb.now < d.slv.timer + d.listenTime) : d.timeLost = d.syncLost := by
  obtain ⟨-, htimer, hlisten, htb⟩ := syncLost_parts hs
  have hdue : ((RingState.sync == .sync || RingState.sync == .passive) && decide (d.slv.timer + 20000 ≤ d.tb.now)) = true := by simp [ht]
  unfold Dev.timeLost
  dsimp only
  rw [hs, hon, hl, if_neg (by simp), if_pos hdue, htimer, hlisten, htb, if_neg (by omega)]

/-! ### Rounds and slots -/

/-- What a round start says of the round. -/
def Dev.roundPart (d : Dev) : Word × List Nat × Nat × Nat × Memory := (d.slv.grid, d.slv.inserted, d.slv.heard, d.slv.noTime, d.mem)

theorem ringBit_slv_roundPart (d : Dev) (i : Nat) : (d.ringBit .slv i).roundPart = d.roundPart := by
  obtain ⟨-, -, hgrid, hins, hheard, hno, -⟩ := ringBit_slv_parts d i
  rw [Dev.roundPart, hgrid, hins, hheard, hno, (ringBit_parts ..).1, Dev.roundPart]

theorem txLate_roundPart (d : Dev) : d.txLate.roundPart = d.roundPart := ite_keeps Dev.roundPart rfl rfl

theorem loomCheck_roundPart (d : Dev) : d.loomCheck.roundPart = d.roundPart := by
  unfold Dev.loomCheck
  dsimp only
  refine ite_keeps Dev.roundPart rfl ?_
  split
  · exact ite_keeps Dev.roundPart rfl (ringBit_slv_roundPart ..)
  · exact ite_keeps Dev.roundPart (ringBit_slv_roundPart ..) rfl
  · rfl

theorem roundStart_parts {d : Dev} {dly : Nat} (hon : d.ringOn = true)
    (hs : d.slv.state = .sync ∨ d.slv.state = .coldstart ∨ d.slv.state = .passive) (hr : reached d.tb.st (d.slv.grid + 10000) = true) :
    (d.roundStart dly).roundPart = (d.slv.grid + 10000, [], 0, d.slv.noTime + 1, d.mem) := by
  unfold Dev.roundStart
  dsimp only
  rw [hr, if_neg (by rcases hs with h | h | h <;> simp [h, hon]), loomCheck_roundPart]
  generalize hy : ((((d.setGrid (d.slv.grid + 10000)).wf SLV_ROUND 15 0 (wrapAdd 16 d.roundNo 1)).w SLV_LINK_DLY (w32 dly)).wf
    SLV_TOPO 15 8 _) = y
  have hpart : y.roundPart = (d.slv.grid + 10000, d.slv.inserted, d.slv.heard, d.slv.noTime, d.mem) := by
    simp [← hy, Dev.roundPart, Dev.setGrid, Dev.setSlv]
  have hlate := (txLate_roundPart y).trans hpart
  simp only [Dev.roundPart, Prod.mk.injEq] at hlate
  obtain ⟨hgrid, -, -, hno, hmem⟩ := hlate
  refine ite_keeps Dev.roundPart ?_ ?_ <;> rw [← hgrid, ← hno, ← hmem] <;> rfl

theorem slotInsert_open {d : Dev} {k : Nat} (hon : d.ringOn = true) (ho : d.ownsSlot k = true) (hi : d.slv.inserted.contains k = false)
    (ht : (d.tb.st - d.slotOpen k).toNat ≤ 3) (hg : d.guardian k = true) :
    d.slotInsert k = ((d.txLate.slotFill k).2.setSlv (fun r => { r with inserted := k :: r.inserted })).emit
      (.ringFrame k (d.txLate.slotFill k).1) := by
  unfold Dev.slotInsert
  rw [hon, ho, hi, if_neg (by simp)]
  dsimp only
  rw [if_neg (by omega), hg, if_neg (by simp), if_neg (by omega)]

theorem slotInsert_closed {d : Dev} {k : Nat} (hon : d.ringOn = true) (ho : d.ownsSlot k = true) (hi : d.slv.inserted.contains k = false)
    (ht : (d.tb.st - d.slotOpen k).toNat < 125) (hg : d.guardian k = false) :
    d.slotInsert k = (d.setSlv (fun r => { r with inserted := k :: r.inserted })).cnt (SLV_CNT 7) := by
  unfold Dev.slotInsert
  rw [hon, ho, hi, if_neg (by simp)]
  dsimp only
  rw [if_neg (by omega), hg, if_pos (show (!false) = true from rfl)]

theorem pathEcc_clean (d : Dev) (r : Nat) : d.pathEcc r .clean = d := by
  unfold Dev.pathEcc
  exact if_pos rfl

theorem slotReceive_clean {d : Dev} {k : Nat} {b : List Byte} (hon : d.ringOn = true)
    (hlane : d.b SLV_STAT (12 + if d.b SLV_STAT 9 then 0 else 1) = false) : d.slotReceive k b .clean = (d.relay k b).slotTake k b := by
  unfold Dev.slotReceive
  dsimp only
  rw [hon, hlane, if_neg (by simp), if_neg Bool.false_ne_true, if_neg (by decide), pathEcc_clean]

/-- Passing a frame on leaves the node as it is. -/
theorem relay_parts (d : Dev) (k : Nat) (b : List Byte) : (d.relay k b).slv = d.slv ∧ (d.relay k b).regs = d.regs :=
  ⟨ite_keeps Dev.slv rfl rfl, ite_keeps Dev.regs rfl rfl⟩

theorem slotTake_badCrc {d : Dev} {k : Nat} {b : List Byte} (hs : d.slv.state ≠ .dupId)
    (hcrc : leAt b 148 4 ≠ (crc32 (b.take 148)).toNat) : d.slotTake k b = d.cnt (SLV_CNT 0) := by
  unfold Dev.slotTake
  dsimp only
  rw [if_neg hs, if_pos hcrc]

theorem slotTake_accepted {d : Dev} {k : Nat} {b : List Byte}
    (hs : d.slv.state = .sync ∨ d.slv.state = .integrating ∨ d.slv.state = .passive) (hcrc : leAt b 148 4 = (crc32 (b.take 148)).toNat)
    (hn : fld (w32 (leAt b 0 4)) 10 8 ≠ d.nodeId) (ho : d.ownsSlot k = false) (hc : d.slotCheck k b = none) :
    d.slotTake k b = d.slotAccept k b := by
  unfold Dev.slotTake
  dsimp only
  rw [if_neg (by rcases hs with h | h | h <;> simp [h]), if_neg (by simp [hcrc]), if_neg (by simp [hn]), ho, hc]
  rcases hs with h | h | h <;> rw [h] <;> rfl

/-! ### Loops -/

theorem ringLoop_new {d : Dev} {a : Bool} (hon : d.ringOn = true) (hbit : d.b SLV_STAT (if a then 8 else 9) = false)
    (hl : d.leads = false) : d.ringLoop a =
      ((d.wb SLV_STAT (if a then 8 else 9) true).setHeld a false).setSlv (fun r => { r with relearn := true }) := by
  have hleads : (((d.wb SLV_STAT (if a then 8 else 9) true).setHeld a false).setSlv (fun r => { r with relearn := true })).leads = false := by
    show bitOf ((d.wb SLV_STAT (if a then 8 else 9) true).r SLV_STAT) 3 = false
    rw [Dev.r_wb_self, bitOf_setBit_ne _ _ _ _ (by cases a <;> decide) (by cases a <;> decide)]
    exact hl
  unfold Dev.ringLoop
  dsimp only
  rw [hon, hbit, if_neg (by simp), if_neg Bool.false_ne_true, hleads, if_neg Bool.false_ne_true]

theorem hopHeld_loop {d : Dev} {a : Bool} (hon : d.ringOn = true) (hbit : d.b SLV_STAT (if a then 8 else 9) = true)
    (hh : (if a then d.slv.heldA else d.slv.heldB) = false) : d.hopHeld a = (d.setHeld a true).ringBit .slv 4 := by
  unfold Dev.hopHeld
  dsimp only
  rw [hon, hbit, hh, if_neg (by simp)]

theorem ringClose_leader {d : Dev} {who : Initiator} {v : Word} (hk : fld v 15 8 = 0xA5) (hv : bitOf v 0 = true) (hl : d.leads = true)
    (h7 : d.b SLV_STAT 7 = true) (h8 : d.b SLV_STAT 8 = false) (h9 : d.b SLV_STAT 9 = false) :
    d.ringClose who v = d.setSlv (fun r => { r with closeRound := some (wrapAdd 16 d.roundNo 2) }) := by
  unfold Dev.ringClose
  rw [if_neg (by simp [hk, hv])]
  dsimp only
  rw [h7, h8, h9, if_neg (by simp), if_pos hl]

theorem closingRound_parts {d : Dev} (hon : d.ringOn = true) (hc : d.slv.closeRound = some d.roundNo) :
    d.closingRound.slv.closeRound = none ∧ d.closingRound.slv.folded = false ∧ d.closingRound.b SLV_STAT 7 = false ∧
    d.closingRound.b SLV_STAT 8 = false ∧ d.closingRound.b SLV_STAT 9 = false ∧ d.closingRound.mem = d.mem := by
  unfold Dev.closingRound
  rw [if_pos (by simp [hon, hc])]
  dsimp only
  refine ⟨rfl, rfl, ?_, ?_, ?_, rfl⟩ <;>
    rw [Dev.b, Dev.cnt, Dev.satf, Dev.r_wf_ne _ _ _ _ (by decide), Dev.r_wb_self]
  · rw [bitOf_setBit_ne _ _ _ _ (by decide) (by decide), Dev.r_wb_self, bitOf_setBit_ne _ _ _ _ (by decide) (by decide)]
    exact Dev.b_wb_self _ _ _ (by decide)
  · rw [bitOf_setBit_ne _ _ _ _ (by decide) (by decide)]
    exact Dev.b_wb_self _ _ _ (by decide)
  · exact bitOf_setBit_self _ _ _ (by decide)

end Sys2Proof.Machine
end

section
namespace Sys2Proof.Machine

/-- Settles O22: each command of the rounds with its state lemma. -/
theorem ringRoundsComplete : Obligations.RingRoundsComplete := by
  unfold Obligations.RingRoundsComplete
  refine ⟨?enable, ?disable, ?round, ?insertOpen, ?insertClosed, ?badCrc, ?accept, ?listen, ?coldstart, ?loss⟩
  case enable =>
    intro s who v hr hv hoff
    refine completes_lift exec_ringEnable ?_
    rw [access_of_reaches hr, if_pos hv, ringCtrl_on hv hoff]
    obtain ⟨hstate, htimer, hfresh, hctrl, hstat, hmem⟩ := ringListen_parts (s.dev.w SLV_CTRL (v &&& 0xF))
    refine ⟨hstate, htimer, hfresh, ?_, hstat, hmem⟩
    rw [Dev.b, hctrl, Dev.r_w_self, bitOf_and, hv]
    rfl
  case disable =>
    intro s who v hr hv hon
    refine completes_lift exec_ringDisable ?_
    rw [access_of_reaches hr, hv, if_neg Bool.false_ne_true, ringCtrl_off hv hon]
    refine ⟨rfl, rfl, rfl, rfl, ?_, ?_, rfl⟩
    · rw [b_setSlv, Dev.b, Dev.r_wb_ne _ _ _ (by simp), Dev.ringState, Dev.r_wf_ne _ _ _ _ (by simp), r_setSlv, Dev.r_w_self,
        bitOf_and, hv]
      rfl
    · rw [b_setSlv]
      exact Dev.b_wb_self _ _ _ (by simp)
  case round =>
    intro s dly hon hs hr
    have h := roundStart_parts (dly := dly.toNat) hon hs hr
    simp only [Dev.roundPart, Prod.mk.injEq] at h
    exact completes_lift exec_roundStart h
  case insertOpen =>
    intro s k hon ho hi ht hg
    exact completes_lift exec_slotInsert (slotInsert_open hon ho hi ht hg)
  case insertClosed =>
    intro s k hon ho hi ht hg
    exact completes_lift exec_slotInsert (slotInsert_closed hon ho hi ht hg)
  case badCrc =>
    intro s k b hlen hon hs hlane hcrc
    refine completes_liftIf exec_slotFrameReceive (by simp [hlen]) ?_
    rw [slotReceive_clean hon hlane, slotTake_badCrc (by rw [(relay_parts ..).1]; exact hs) hcrc]
  case accept =>
    intro s k b x hlen hon hlane hx hs hcrc hn ho hc
    refine completes_liftIf exec_slotFrameReceive (by simp [hlen]) ?_
    obtain ⟨hslv, hregs⟩ := relay_parts s.dev k b
    rw [slotReceive_clean hon hlane, ← hx]
    rw [← hx] at hslv hregs
    have hnode : x.nodeId = s.dev.nodeId := by rw [Dev.nodeId, Dev.f, r_of_regs hregs, Dev.nodeId, Dev.f]
    have howns : x.ownsSlot k = s.dev.ownsSlot k := by
      simp only [Dev.ownsSlot, Dev.leads, Dev.b, Dev.f, r_of_regs hregs, hslv, hnode]
    exact slotTake_accepted (by rw [hslv]; exact hs) hcrc (by rw [hnode]; exact hn) (howns.trans ho) hc
  case listen =>
    intro s hon hs h1 ht
    refine completes_lift exec_listenTimeout ?_
    rw [Dev.listenOver, if_pos (by simp [hon, hs, h1, ht])]
    exact originate_parts s.dev
  case coldstart =>
    intro s hon hs hc
    refine completes_lift exec_coldstartTimeout ?_
    rw [Dev.coldOver, if_pos (by simp [hon, hs, hc])]
    obtain ⟨hstate, htimer, -, -, -, hmem⟩ := ringListen_parts s.dev
    exact ⟨hstate, htimer, hmem⟩
  case loss =>
    intro s hon hl hs ht hw
    refine completes_lift exec_timeFrameLoss ?_
    rw [timeLost_sync hon hl hs ht hw]
    exact ⟨rfl, (syncLost_parts hs).1⟩

/-- Settles O23: each command of the loops with its state lemma. -/
theorem ringLoopsComplete : Obligations.RingLoopsComplete := by
  unfold Obligations.RingLoopsComplete
  refine ⟨?input, ?lane, ?held, ?close, ?closing, ?disagree⟩
  case input =>
    intro s hon h9 hl
    refine completes_lift exec_ringInputLost ?_
    rw [ringLoop_new (a := false) hon h9 hl]
    exact ⟨Dev.b_wb_self s.dev SLV_STAT true (by simp), rfl, rfl, rfl⟩
  case lane =>
    intro s hon h8 hl
    refine completes_lift exec_returnLaneFault ?_
    rw [ringLoop_new (a := true) hon h8 hl]
    exact ⟨Dev.b_wb_self s.dev SLV_STAT true (by simp), rfl, rfl, rfl⟩
  case held =>
    intro s a hon hbit hh
    exact completes_lift exec_failedHopLockHeld (hopHeld_loop hon hbit hh)
  case close =>
    intro s who v hr hk hv hl h7 h8 h9
    refine completes_lift exec_ringClose ?_
    rw [access_of_reaches hr, ringClose_leader hk hv hl h7 h8 h9]
  case closing =>
    intro s hon hc
    exact completes_lift exec_closingRound (closingRound_parts hon hc)
  case disagree =>
    intro s hd hb
    refine completes_lift exec_slvDisagree ?_
    rw [Dev.slvDiffer, if_pos (by simp [hd, hb])]

end Sys2Proof.Machine
end

section
/-!
SUPPORT. The engines from outside: far accesses, the control and debug rows, the engine reset and the host's window into local
memory (R131, R132, R137, R144, R166-R168).
-/
namespace Sys2Proof.Machine

/-! ### Far accesses -/

theorem farHead_region {d : Dev} {e : Nat} {r : Region} {f : FarOp} (h : d.farHead e r = some f) : f.region = r := by
  unfold Dev.farHead at h
  dsimp only at h
  split at h
  · next g hg =>
    have hmem : g ∈ (d.eng e).far.filter (fun f => f.region == r) := List.mem_of_find?_eq_some hg
    split_ifs at h with hc
    cases h
    exact eq_of_beq (List.mem_filter.mp hmem).2
  · cases h

theorem keyRetired_of_r {d x : Dev} (h : ∀ a, x.r a = d.r a) (hm : x.memb = d.memb) (k : Nat) :
    x.keyRetired k = d.keyRetired k := by
  unfold Dev.keyRetired
  cases bankOfKey k with
  | none =>
    have hext : x.extRegion (k - keyExt) = d.extRegion (k - keyExt) := by rw [Dev.extRegion, Dev.extBytes, hm, Dev.extRegion, Dev.extBytes]
    simp only [Dev.regionRetired, hext, Dev.b, h]
  | some b => simp only [Dev.bankRetired, Dev.b, h]

theorem keyRetired_farPop (d : Dev) (e : Nat) (r : Region) (k : Nat) : (d.farPop e r).keyRetired k = d.keyRetired k :=
  keyRetired_of_r (fun _ => rfl) rfl k

section
variable {d : Dev} {e : Nat} {f : FarOp}

/-- A clean bank access in service. -/
theorem farEcc_bank {retry : Ecc} (hr : f.region = .bank) (h : d.keyRetired f.addr = false) :
    d.farEcc e f .clean retry = (d, false) := by
  unfold Dev.farEcc
  rw [hr]
  dsimp only
  rw [h, if_neg Bool.false_ne_true, readEcc_clean]
  rfl

theorem farReturn_load (hf : d.farHead e .bank = some f) (hs : f.store = false) (ho : f.ord = false) (ha : f.arrived = none)
    (hat : f.atomic = none) (hc : f.copy = none) (hr : d.keyRetired f.addr = false) (he : (d.act f.key).eng = e) :
    d.farReturn e .bank .clean .clean =
      ((d.farPop e .bank).farDeliver f (BitVec.ofNat 64 (leVal (d.mrd f.addr f.size))) false).ordEnter := by
  have hecc : (d.farPop e .bank).farEcc e f .clean .clean = (d.farPop e .bank, false) :=
    farEcc_bank (farHead_region hf) ((keyRetired_farPop ..).trans hr)
  have heng : ((d.farPop e .bank).act f.key).eng = e := he
  unfold Dev.farReturn
  rw [hf]
  dsimp only
  rw [hs, ho, if_neg (by simp), ha]
  dsimp only
  simp only [if_neg (show ¬ Region.bank = Region.dev by decide), hecc, hat, hc]
  rw [if_neg (by simp [heng])]

theorem farPerform_bank (hf : d.farHead e .bank = some f) (hs : f.store = true) (hr : d.keyRetired f.addr = false) :
    d.farPerform e .bank .clean .clean = ((d.farPop e .bank).mwr f.addr (leBytes f.size f.value.toNat)).ordEnter := by
  have hr' : (d.farPop e .bank).keyRetired f.addr = false := (keyRetired_farPop ..).trans hr
  unfold Dev.farPerform
  rw [hf]
  dsimp only
  rw [hs, if_neg (by simp), if_neg (by simp), farEcc_bank (farHead_region hf) hr']
  dsimp only
  rw [if_neg Bool.false_ne_true, Dev.farStore, hr', if_neg Bool.false_ne_true]

end

theorem farPerform_dev {d : Dev} {e : Fin 96} {f : FarOp} {ecc retry : Ecc} (hf : d.farHead e .dev = some f) (hs : f.store = true) :
    d.farPerform e .dev ecc retry = ((d.farPop e .dev).regWrite (.engine e) f.addr (w32 f.value.toNat) 0).ordEnter := by
  unfold Dev.farPerform
  rw [hf]
  dsimp only
  rw [hs, if_neg (by simp), if_pos rfl, dif_pos e.isLt]

/-! ### Control and debug rows -/

section
variable {d : Dev} {who : Initiator} {e : Nat} {v : Word}

theorem engCtrl_run (h8 : bitOf v 8 = false) : d.engCtrl who e v =
    if (d.w (ENG_CTRL e) (v &&& 3)).engGo e then (d.w (ENG_CTRL e) (v &&& 3)).setEng e (fun x => { x with stopped := false })
    else d.w (ENG_CTRL e) (v &&& 3) := by
  unfold Dev.engCtrl
  dsimp only
  rw [h8, if_neg Bool.false_ne_true]

theorem engGo_halted (h1 : bitOf v 1 = true) : (d.w (ENG_CTRL e) (v &&& 3)).engGo e = false := by
  have hbit : (d.w (ENG_CTRL e) (v &&& 3)).b (ENG_CTRL e) 1 = true := by
    rw [Dev.b, Dev.r_w_self, bitOf_and, h1]
    decide
  unfold Dev.engGo
  rw [hbit, Bool.not_true, Bool.and_false, Bool.false_and, Bool.false_and, Bool.false_and]

theorem engCtrl_reset (h : (d.slotKeys e).isEmpty = true ∨ (d.eng e).retired = true) :
    d.engCtrl who e (v ||| 0x100) = d.engineReset e := by
  have h8 : bitOf (v ||| 0x100) 8 = true := by rw [bitOf_or, show bitOf 0x100 8 = true by decide, Bool.or_true]
  unfold Dev.engCtrl
  dsimp only
  rw [h8, if_pos rfl, if_pos (by rcases h with h | h <;> simp [h])]

theorem dbgCtrl_step {m : LocalEcc} (ho : (d.w (ENG_DBG_CTRL e) ((v ||| 1) &&& 6)).dbgOpen e = true) (hm : d.mode = .hold) :
    d.dbgCtrl who e (v ||| 1) m = (d.w (ENG_DBG_CTRL e) ((v ||| 1) &&& 6)).dbgStep e m := by
  have h0 : bitOf (v ||| 1) 0 = true := by rw [bitOf_or, show bitOf 1 0 = true by decide, Bool.or_true]
  have hhold : ((d.w (ENG_DBG_CTRL e) ((v ||| 1) &&& 6)).mode == .hold) = true := beq_iff_eq.mpr hm
  unfold Dev.dbgCtrl
  dsimp only
  rw [h0, Bool.not_true, if_neg Bool.false_ne_true, ho, hhold, if_pos (show (true && true) = true from rfl)]

theorem breakpoint_stops {k : Nat} (hk : (d.eng e).cur = some k) (hs : (d.eng e).stopped = false) (hst : (d.act k).st = .running)
    (hb : d.bpMatch e k = true) (h2 : d.b (ENG_DBG_CTRL e) 2 = false) :
    d.breakpoint e = (d.setEng e (fun x => { x with stopped := true })).setBell (.eng e) 32 := by
  have hcfg : ((d.setEng e (fun x => { x with stopped := true })).setBell (.eng e) 32).b (ENG_DBG_CTRL e) 2 = false := by
    rw [Dev.b, setBell_r, if_neg (by simp only [BellReg.addr, ENG_BELL, ENG_DBG_CTRL]; omega)]
    exact h2
  unfold Dev.breakpoint
  rw [hk]
  dsimp only
  rw [hs, hst, hb, if_neg (by decide), hcfg, if_neg Bool.false_ne_true]

theorem dbgWrite_register {k : Nat} (ho : d.dbgOpen e = true) (hk : d.dbgKey e = some k) (hr : d.f (ENG_DBG_SEL e) 15 8 < 16) :
    d.dbgWrite who e v = d.setCtx k (fun c => c.setW (d.f (ENG_DBG_SEL e) 15 8) v) := by
  unfold Dev.dbgWrite
  rw [ho, if_neg (by simp), hk]
  dsimp only
  simp only [if_pos hr]

end

theorem setBell_eng (d : Dev) (b : BellReg) (bits : Word) (e : Nat) : (d.setBell b bits).eng e = d.eng e := by
  unfold Dev.setBell Dev.vecRise
  cases b.vec with
  | none => rfl
  | some v => exact ite_keeps (fun d => d.eng e) rfl rfl

/-! ### Reset -/

theorem mget_mclear {m : Memory} {a n k : Nat} (h : a ≤ k ∧ k < a + n) : mget (mclear m a n) k = 0 := by
  have hnone : tfind (mclear m a n) k = none := by
    induction m with
    | nil => rfl
    | cons c t ih =>
      unfold mclear at ih ⊢
      rw [List.filter_cons]
      split
      · next hkeep =>
        have hne : c.1 ≠ k := by
          intro heq
          simp [heq, h] at hkeep
        rw [tfind, if_neg hne]
        exact ih
      · exact ih
  rw [mget, tget, hnone]
  rfl

/-- A table whose values change by their keys. -/
theorem tfind_map_value {α : Type} (g : Nat → α → α) (l : Tab α) (k : Nat) :
    tfind (l.map (fun p => (p.1, g p.1 p.2))) k = (tfind l k).map (g k) := by
  induction l with
  | nil => rfl
  | cons p t ih =>
    rw [List.map_cons, tfind, tfind]
    split
    · next h => rw [h]; rfl
    · exact ih

/-- What an engine reset makes of the reset value is the reset value. -/
theorem engineValue_regReset (a : Nat) : engineValue a (regReset a) = regReset a := by
  have hsplit : ∀ x m : Word, (x &&& ~~~m) ||| (x &&& m) = x := by
    intro x m
    rw [← BitVec.and_or_distrib_left, BitVec.or_comm, BitVec.or_not_self, BitVec.and_allOnes]
  unfold engineValue
  split
  · exact hsplit ..
  · rfl

/-- The word at address `a` after the reset of the engine whose registers begin at `lo`. -/
def engineWord (lo a : Nat) (v : Word) : Word := if lo ≤ a && a < lo + 0x1000 then engineValue a v else v

/-- The table of registers after that reset. -/
def engineRegs (lo : Nat) (regs : Tab Word) : Tab Word :=
  regs.map (fun (p : Nat × Word) => if lo ≤ p.1 && p.1 < lo + 0x1000 then (p.1, engineValue p.1 p.2) else p)

theorem engineRegs_eq (lo : Nat) (regs : Tab Word) : engineRegs lo regs = regs.map (fun p => (p.1, engineWord lo p.1 p.2)) := by
  refine List.map_congr_left fun p _ => ?_
  unfold engineWord
  split <;> rfl

theorem tget_engineRegs (lo : Nat) (regs : Tab Word) :
    tget (regReset lo) (engineRegs lo regs) lo = engineValue lo (tget (regReset lo) regs lo) := by
  rw [tget, engineRegs_eq, tfind_map_value (engineWord lo), tget]
  cases tfind regs lo with
  | none => exact (engineValue_regReset lo).symm
  | some v => exact if_pos (by simp)

/-- The reset of an engine without channels, by parts. -/
theorem engineReset_parts {d : Dev} {e : Nat} (h : (d.slotKeys e).isEmpty = true) : ((d.engineReset e).eng e).evq = [] ∧
    ((d.engineReset e).eng e).outq = [] ∧ ((d.engineReset e).eng e).far = [] ∧ ((d.engineReset e).eng e).retired = (d.eng e).retired ∧
    (d.engineReset e).mem = mclear d.mem (keyInstr e) 0x10000 ∧ (d.engineReset e).regs = engineRegs (ENG_CTRL e) d.regs := by
  have hchans : d.engineChans e = d := by
    unfold Dev.engineChans
    rw [List.isEmpty_iff.mp h]
    rfl
  unfold Dev.engineReset
  dsimp only
  rw [hchans, eng_setEng]
  exact ⟨rfl, rfl, rfl, rfl, rfl, rfl⟩

/-! ### The host's window into local memory -/

theorem keyRetired_local (d : Dev) {k : Nat} (h : k < 0x600000) : d.keyRetired k = false := by
  have hbank : bankOfKey k = none := by
    unfold bankOfKey
    exact if_neg (by simp; omega)
  unfold Dev.keyRetired
  rw [hbank]
  simp only [Bool.and_eq_false_iff, decide_eq_false_iff_not]
  exact Or.inl (by unfold keyExt; omega)

/-- A host write of local data memory, which no rule of a running engine holds back. -/
theorem bar2Write_local {d : Dev} {who : Initiator} {addr : Nat} {be : BitVec 4} {v : Word} (ho : d.memOpen = true)
    (hlt : addr < 0x600000) (hdata : 0x8000 ≤ addr % 0x10000) : d.bar2Write who addr be v .clean .clean = d.mwrBe (addr / 4 * 4) be v := by
  have hup : d.hostUp = true := (Bool.and_eq_true_iff.mp ho).1
  have ha : addr / 4 * 4 < 0x600000 := by omega
  have hput : d.hostPut (addr / 4 * 4) be v .clean .clean = d.mwrBe (addr / 4 * 4) be v := by
    unfold Dev.hostPut Dev.hostEcc
    rw [keyRetired_local d ha, if_neg Bool.false_ne_true, if_neg (by unfold keyExt; omega), readEcc_clean]
    rfl
  unfold Dev.bar2Write
  rw [hup, ho, if_neg (by simp), if_neg (by simp)]
  dsimp only
  rw [if_pos ha, if_neg (by simp; omega), hput]

end Sys2Proof.Machine
end

section
namespace Sys2Proof.Machine

/-- Settles O25: each command of an engine with its state lemma. -/
theorem engineControlComplete : Obligations.EngineControlComplete := by
  unfold Obligations.EngineControlComplete
  refine ⟨?load, ?store, ?devStore, ?enable, ?halt, ?reset, ?retired, ?step, ?breakpoint, ?dbgRead, ?dbgWrite, ?localMem⟩
  case load =>
    intro s e f hf hs ho ha hat hc hr he
    exact completes_lift exec_farLoadReturn (farReturn_load hf hs ho ha hat hc hr he)
  case store =>
    intro s e f hf hs hr
    exact completes_lift exec_farStorePerform (farPerform_bank hf hs hr)
  case devStore =>
    intro s e f ecc retry hf hs
    exact completes_lift exec_farStorePerform (farPerform_dev hf hs)
  case enable =>
    intro s who e v hr h8
    refine completes_lift exec_engineEnable ?_
    rw [access_of_reaches hr, engCtrl_run h8]
  case halt =>
    intro s who e v hr h8 h1
    refine completes_lift exec_engineHaltRequest ?_
    rw [access_of_reaches hr, engCtrl_run h8, engGo_halted h1, if_neg Bool.false_ne_true]
    exact ⟨rfl, engGo_halted h1⟩
  case reset =>
    intro s who e v hr hk
    refine completes_lift exec_engineReset ?_
    rw [access_of_reaches hr, engCtrl_reset (Or.inl hk)]
    obtain ⟨hevq, houtq, hfar, hret, hmem, hregs⟩ := engineReset_parts hk
    refine ⟨rfl, hevq, houtq, hfar, hret, fun a ha => ?_, ?_⟩
    · rw [hmem]
      exact mget_mclear ⟨Nat.le_add_right .., Nat.add_lt_add_left ha _⟩
    · rw [Dev.r, hregs, tget_engineRegs, Dev.r]
  case retired =>
    intro s who e v hr hret
    refine completes_lift exec_engineReset ?_
    rw [access_of_reaches hr, engCtrl_reset (Or.inr hret)]
  case step =>
    intro s who e v m hr ho hm
    refine completes_lift exec_debugStep ?_
    rw [access_of_reaches hr, dbgCtrl_step ho hm]
  case breakpoint =>
    intro s e k hk hs hst hb h2
    refine completes_lift exec_breakpointHit ?_
    rw [breakpoint_stops hk hs hst hb h2, setBell_eng, eng_setEng]
    exact ⟨rfl, rfl⟩
  case dbgRead =>
    intro s who e v hr
    refine completes_lift exec_debugDataAccess ?_
    rw [if_neg Bool.false_ne_true, accessR_of_reaches hr]
  case dbgWrite =>
    intro s who e v k hr ho hk hsel
    refine completes_lift exec_debugDataAccess ?_
    rw [if_pos rfl, access_of_reaches hr, dbgWrite_register ho hk hsel]
  case localMem =>
    intro s i addr be v ho hlt hdata
    exact completes_lift exec_hostLocalMemWrite (bar2Write_local ho hlt hdata)

end Sys2Proof.Machine
end

section
/-!
SUPPORT. The host bridge and the mailboxes: messages, posted writes and reads, the semaphore, the outbound window, polled
interrupts, transmit rings and the frame bridge (R470, R474-R489, R520).
-/
namespace Sys2Proof.Machine

/-! ### Mailboxes -/

/-- A message into an empty slot is taken. -/
theorem deliver_taken {d : Dev} {m dir bit : Nat} {words : List Word} (h : d.b (MBX_RXSTAT m dir) 0 = false) :
    (d.deliver m dir words bit).2 = false := by
  unfold Dev.deliver
  rw [if_neg (by rw [h]; simp)]
  dsimp only
  split <;> rfl

theorem mbxSend_taken {d : Dev} {who : Initiator} {m side : Nat} {v : Word} (hw : isHost who = true) (hs : d.hostSide m = some side)
    (hst : d.b (MBX_MSTAT m) 31 = true) (hg : fld v 31 20 = d.f (MBX_MSTAT m) 11 0) (hn : fld v 3 0 ≤ 8)
    (hr : d.b (MBX_RXSTAT m (1 - side)) 0 = false) : d.mbxSend who m v =
      (d.deliver m (1 - side) ((List.range (fld v 3 0)).map (fun i => d.r (MBX_TX m i))) (d.mbxBit m (1 - side))).1 := by
  unfold Dev.mbxSend
  dsimp only
  rw [hw, if_neg (by simp), hs]
  dsimp only
  rw [hst, hg, if_neg (by simp [hn]), deliver_taken hr, if_neg Bool.false_ne_true]

theorem mbxPop_full {d : Dev} {v : Word} {m p : Nat} (hm : m = fld v 7 0) (hp : p = fld v 8 8)
    (hh : isHostParty (d.r (MBX_PARTY m p)) = true) (hb : d.b (MBX_RXSTAT m p) 0 = true)
    (ht : tfind d.swc.fullAt (2 * m + p) ≠ some d.tb.now) :
    d.mbxPop v = (d.wf (MBX_RXSTAT m p) 4 0 0).wb (MBX_HFULL (m / 32)) (m % 32) false := by
  unfold Dev.mbxPop
  dsimp only
  rw [← hm, ← hp, if_neg ht, hh, hb, if_pos (show (true && true) = true from rfl)]

/-! ### Posted writes and reads -/

theorem r_setHbr (d : Dev) (g : Bridge → Bridge) (a : Nat) : (d.setHbr g).r a = d.r a := rfl

theorem r_setPosts (d : Dev) (i : HostPort) (l : List Posted) (a : Nat) : (d.setPosts i l).r a = d.r a := by cases i <;> rfl

theorem posts_setPosts (d : Dev) (i : HostPort) (l : List Posted) : (d.setPosts i l).posts i = l := by cases i <;> rfl

theorem posts_wf (d : Dev) (i : HostPort) (a hi lo v : Nat) : (d.wf a hi lo v).posts i = d.posts i := by cases i <;> rfl

theorem postWrite_parts (d : Dev) (w : HostWrite) :
    (d.postWrite w).posts w.port = d.posts w.port ++ [⟨w, d.f (HBR_WSEQ (portIdx w.port)) 15 0⟩] ∧
    (d.postWrite w).f (HBR_WSEQ (portIdx w.port)) 15 0 = (d.f (HBR_WSEQ (portIdx w.port)) 15 0 + 1) % 65536 ∧
    (d.postWrite w).mem = d.mem := by
  unfold Dev.postWrite
  refine ⟨(posts_wf ..).trans (posts_setPosts ..), ?_, ?_⟩
  · rw [Dev.f_wf_self _ _ _ (by simp) (by simp)]
    exact Nat.mod_mod _ _
  · cases w.port <;> rfl

/-- A posted write to a register, through PCIe. -/
theorem performWrite_register {d x : Dev} {res : ObResult} {ecc retry : Ecc} {p : Posted} {rest : List Posted} {a : Nat}
    (hp : d.posts .pcie = p :: rest) (hup : d.hostUp = true) (hs : p.w.space = .bar0) (hi : p.w.port = .pcie)
    (ht : hostTarget .pcie .bar0 p.w.addr = some (.bar0, a)) (hbe : p.w.be = 15) (ho : d.hbr.ob = none)
    (hx : x = ((d.setPosts .pcie rest).setHbr (fun b => { b with fail := 0 })).regWrite .pcie (a / 4 * 4) p.w.data 0)
    (hf : x.hbr.fail = 0) : d.performWrite .pcie res ecc retry = x := by
  have hdo : ((d.setPosts .pcie rest).setHbr (fun b => { b with fail := 0 })).hostDo p.w ecc retry = x := by
    unfold Dev.hostDo
    dsimp only
    rw [hi, hs, ht]
    dsimp only
    rw [if_neg (by simp [hbe]), hx, portWho]
  have hext : p.isExt = false := by
    unfold Posted.isExt
    rw [hs]
    rfl
  unfold Dev.performWrite
  rw [hp]
  dsimp only
  rw [hs, ht, hup, hext, ho, if_neg (by simp [Dev.lockedOut]), if_neg (by simp), hdo, if_pos hf, if_neg (by simp)]

/-- The space by which a port reaches the registers. -/
def regSpace (i : HostPort) : HostSpace := match i with | .pcie => .bar0 | .lb => .lbTarget

/-- An address that the port's space decodes to the registers is none of external memory. -/
theorem hostExt_register {i : HostPort} {addr a : Nat} (h : hostTarget i (regSpace i) addr = some (.bar0, a)) :
    hostExt (regSpace i) addr = false := by
  cases i with
  | pcie => rfl
  | lb =>
    have hlt : addr < 0x2000000 := by
      by_contra hge
      have hdec : lbDecode addr = some (.bar0, a) := h
      unfold lbDecode at hdec
      rw [if_neg hge] at hdec
      split_ifs at hdec <;> cases hdec
    show (false || (true && decide (0x40000000 ≤ addr) && decide (addr < 0x80000000))) = false
    rw [decide_eq_false (show ¬ 0x40000000 ≤ addr by omega)]
    rfl

section
variable {d : Dev} {i : HostPort} (hup : d.portUp i = true) (hw : d.postsWait i = false)
include hup hw

/-- A read of a register that no failed write holds back. -/
theorem hostRead_register {addr a : Nat} {be : BitVec 4} {ecc retry : Ecc} (ht : hostTarget i (regSpace i) addr = some (.bar0, a))
    (hp : (d.b HBR_STAT (portIdx i) && !(hbrRead i (regSpace i) addr)) = false) : d.hostRead i (regSpace i) addr be ecc retry =
      (d.regRead (portWho i) (a / 4 * 4)).2.answer (portWho i) (beMask be (d.regRead (portWho i) (a / 4 * 4)).1) := by
  have hlock : d.lockedOut i (regSpace i) = false := by cases i <;> rfl
  unfold Dev.hostRead
  rw [hup, hw, hlock, hostExt_register ht, if_neg (by simp), ht]
  dsimp only
  unfold Dev.fencedRead
  rw [hp, if_neg Bool.false_ne_true]
  unfold Dev.hostFetch
  dsimp only
  rw [ht]

end

theorem hostTarget_fence (i : HostPort) : hostTarget i (regSpace i) HBR_FENCE = some (.bar0, HBR_FENCE) := by
  cases i <;> decide

theorem hbrRead_fence (i : HostPort) : hbrRead i (regSpace i) HBR_FENCE = true := by
  cases i <;> decide

/-! ### The semaphore -/

theorem lockedRead_free {d : Dev} {addr : Nat} {ecc retry : Ecc} (hup : d.portUp .lb = true) (hw : d.postsWait .lb = false)
    (hl : d.b HBR_CTRL 2 = true) (hs : d.hbr.sem = .free) (hm : d.f HBR_LOCK_CFG 15 0 ≠ 0)
    (he : (hostExt .lbTarget addr && d.engineWaits) = false) : d.lockedRead addr ecc retry =
      (d.semTake .lb).fencedRead .lb .lbTarget addr (fun d => d.hostFetch .lb .lbTarget addr 15 ecc retry) := by
  have hcfg : ¬ (d.semTake .lb).f HBR_LOCK_CFG 15 0 = 0 := hm
  unfold Dev.lockedRead
  rw [hup, hw, he, if_neg (by simp)]
  dsimp only
  rw [hl, if_neg (by simp), hs]
  dsimp only
  rw [if_neg hcfg]
  rfl

theorem lockExpire_sem (d : Dev) : d.lockExpire.hbr.sem = .free := rfl

theorem lockTimeout_over {d : Dev} (hs : d.hbr.sem ≠ .free) (ht : d.hbr.semSince + 1000 * d.f HBR_LOCK_CFG 15 0 < d.tb.now) :
    d.lockTimeout = d.lockExpire := by
  unfold Dev.lockTimeout
  dsimp only
  split
  · next h => exact absurd h hs
  · exact if_pos (Nat.le_of_lt ht)
  · exact if_pos ht

/-! ### The outbound window -/

section
variable {d : Dev} {ofs : Nat} {be : BitVec 4} {v : Word} {tag : BitVec 16} (hup : d.hostUp = true)
include hup

theorem outbound_read {x : Word} (hw : d.postsWait .pcie = false) (hc : d.b HBR_CTRL 1 = true) (ho : d.hbr.ob = none) :
    d.outbound false ofs be v tag (.ack x) = ((d.setHbr (fun b => { b with ob := none })).emit
      (.lbCycle false ((d.r HBR_OBW_BASE).toNat / 2 ^ 19 * 2 ^ 19 + ofs) be x)).answer .pcie x := by
  unfold Dev.outbound
  rw [hup, if_neg (by simp), if_neg Bool.false_ne_true, hw, if_neg Bool.false_ne_true]
  unfold Dev.obRead
  rw [hc, ho, if_neg (by simp), if_neg (by simp)]
  unfold Dev.obTry
  dsimp only
  rw [Bool.false_and, if_neg Bool.false_ne_true, if_neg Bool.false_ne_true, if_neg Bool.false_ne_true, r_setHbr]

theorem outbound_posted {res : ObResult} (hw : d.postsWait .pcie = true) : d.outbound true ofs be v tag res =
    d.postWrite { port := .pcie, space := .obw, addr := ofs, be := be, data := v, tag := tag } := by
  unfold Dev.outbound
  rw [hup, if_neg (by simp), if_pos rfl]
  dsimp only
  rw [hw, if_pos rfl]

end

theorem lbTimeout_write {d : Dev} {o : Outbound} (ho : d.hbr.ob = some o) (hw : o.write = true)
    (ht : o.began + 1000 * d.f HBR_LB_CFG 31 16 ≤ d.tb.now) :
    d.lbTimeout = (d.setHbr (fun b => { b with ob := none })).ledger .pcie o.ofs o.tag 4 o.wseq 6 := by
  unfold Dev.lbTimeout
  rw [ho]
  dsimp only
  rw [if_pos (by simp [hw, ht]), Dev.obFail, if_pos hw]

/-! ### Polled interrupts and transmit rings -/

theorem irqSample_due {d : Dev} {level : BitVec 16} (hup : d.hostUp = true) (ht : d.hbr.irqAt + d.irqPeriod ≤ d.tb.now) :
    (d.irqSample level).hbr.irqPrev = level ∧ (d.irqSample level).mem = d.mem := by
  unfold Dev.irqSample
  rw [hup, if_neg (by simp [ht])]
  refine ⟨rfl, ?_⟩
  show (Dev.each d _ _).mem = d.mem
  apply each_keeps
  intro d n
  exact ite_keeps Dev.mem (by simp) rfl

/-- A descriptor that is served moves the head of its ring on. -/
theorem txServe_head {d : Dev} {r : Nat} {desc : List Word} {frame : List Byte} {ring buf : ExtRead} (hup : d.hostUp = true)
    (hw : d.txWork (4 + r) = true) (hfirst : ∀ i, i < r → d.txWork (4 + i) = false) :
    ∃ x : Dev, d.txServe (4 + r) desc frame ring buf = x.ringBit .hbr (6 + r) ∧ x.f (HBR_RING_HEAD (4 + r)) 11 0 =
      (d.f (HBR_RING_HEAD (4 + r)) 11 0 + 1) % 2 ^ d.f (HBR_RING_CFG (4 + r)) 3 0 % 4096 := by
  have hnone : (List.range (4 + r - 4)).any (fun i => d.txWork (4 + i)) = false := by
    rw [Nat.add_sub_cancel_left]
    exact List.any_eq_false.mpr fun i hi => by simp [hfirst i (List.mem_range.mp hi)]
  unfold Dev.txServe
  rw [hup, hw, hnone, if_neg (by simp)]
  dsimp only
  rw [show 2 + (4 + r) = 6 + r by omega]
  exact ⟨_, rfl, Dev.f_wf_self _ _ _ (by simp) (by simp)⟩

/-! ### The frame bridge -/

section
variable {d : Dev} {f : FbrSource} {rest : List FbrSource} (hon : d.fbrOn = true) (ht : d.hbr.fbrAt + 250 ≤ d.tb.now)
  (hf : d.fbr = f :: rest)
include hon ht hf

theorem fbrBuild_closed (hb : d.b (FBR_ROUTE f.route 0) 31 = false) :
    d.fbrBuild = ({ d with fbr := rest, hbr := { d.hbr with fbrAt := d.fbrNext } } : Dev).fbrCnt 3 := by
  have hb' : ({ d with fbr := rest, hbr := { d.hbr with fbrAt := d.fbrNext } } : Dev).b (FBR_ROUTE f.route 0) 31 = false := hb
  unfold Dev.fbrBuild
  rw [hon, if_neg (by simp [ht]), hf]
  dsimp only
  rw [hb', if_pos (by simp)]

theorem fbrBuild_can {x y : Dev} {l : List Layer} (hg : d.genOf 3 f.route = f.rgen) (hb : d.b (FBR_ROUTE f.route 0) 31 = true)
    (hc : d.f (FBR_ROUTE f.route 2) 1 0 = 1) (hy : y.b (FBR_ROUTE f.route 5) 25 = false)
    (hx : x = { d with fbr := rest, hbr := { d.hbr with fbrAt := d.fbrNext } }) (hl : x.routeLayers f.route f = (l, y)) :
    d.fbrBuild = y.fbrCan f.route l (layerEnd l) := by
  have hg' : x.genOf 3 f.route = f.rgen := by rw [hx]; exact hg
  have hb' : x.b (FBR_ROUTE f.route 0) 31 = true := by rw [hx]; exact hb
  have hc' : x.f (FBR_ROUTE f.route 2) 1 0 = 1 := by rw [hx]; exact hc
  unfold Dev.fbrBuild
  rw [hon, if_neg (by simp [ht]), hf]
  dsimp only
  rw [← hx, hb', hg', if_neg (by simp), hl]
  dsimp only
  rw [hy, if_neg Bool.false_ne_true, if_pos hc']

end

/-! ### PERST -/

theorem perst_parts (d : Dev) : d.perst.b HBR_STAT 0 = false ∧ d.perst.hbr.postPcie = d.hbr.postPcie ∧
    d.perst.hbr.postLb = d.hbr.postLb ∧ (∀ o, d.perst.hbr.ob = some o → o.write = true) ∧ d.perst.mem = d.mem := by
  refine ⟨Dev.b_wb_self d HBR_STAT false (by simp), rfl, rfl, fun o ho => ?_, rfl⟩
  have hob : (match d.hbr.ob with | some o => (if o.write then some o else none) | none => none) = some o := ho
  cases h : d.hbr.ob with
  | none =>
    rw [h] at hob
    cases hob
  | some p =>
    rw [h] at hob
    dsimp only at hob
    split_ifs at hob with hw
    cases hob
    exact hw

end Sys2Proof.Machine
end

section
namespace Sys2Proof.Machine

/-- Settles O27: each access with its state lemma. -/
theorem hostAccessesComplete : Obligations.HostAccessesComplete := by
  unfold Obligations.HostAccessesComplete
  refine ⟨?send, ?pop, ?accept, ?perform, ?read, ?fence, ?locked, ?deassert, ?timeout, ?semFree, ?semHeld, ?release⟩
  case send =>
    intro s who m v side hr hw hs hst hg hn hfree
    refine completes_lift exec_mbxSend ?_
    rw [access_of_reaches hr, mbxSend_taken hw hs hst hg hn hfree]
  case pop =>
    intro s who v m p hr hm hp hh hb ht
    refine completes_lift exec_mbxPop ?_
    rw [access_of_reaches hr, mbxPop_full hm hp hh hb ht]
  case accept =>
    intro s w hup
    refine completes_lift exec_hostWriteAccept ?_
    rw [if_pos hup]
    exact postWrite_parts s.dev w
  case perform =>
    intro s ob ecc retry p rest a x hp hup hs hi ht hbe ho hx hf
    exact completes_lift exec_hostWritePerform (performWrite_register hp hup hs hi ht hbe ho hx hf)
  case read =>
    intro s i addr be ecc retry a hup hw hstat ht
    exact completes_lift exec_hostRead (hostRead_register hup hw ht (by rw [hstat, Bool.false_and]))
  case fence =>
    intro s i hup hw
    exact completes_lift exec_fenceRead
      (hostRead_register hup hw (hostTarget_fence i) (by rw [hbrRead_fence, Bool.not_true, Bool.and_false]))
  case locked =>
    intro s addr ecc retry hup hw hl hs hm he
    exact completes_lift exec_lockedRead (lockedRead_free hup hw hl hs hm he)
  case deassert =>
    intro s hs hp
    refine completes_lift exec_lockDeassert ?_
    rw [Dev.lockEnd, if_pos (by simp [hs, hp]), Dev.semFree]
  case timeout =>
    intro s hs ht
    refine completes_lift exec_lockHoldTimeout ?_
    rw [lockTimeout_over hs ht]
    exact ⟨rfl, lockExpire_sem _⟩
  case semFree =>
    intro s e hr hs
    refine completes_lift exec_semRead ?_
    rw [accessR_of_reaches hr, Bool.false_and, if_neg Bool.false_ne_true, Dev.semRead, if_pos hs]
    rfl
  case semHeld =>
    intro s e hr hs
    refine completes_lift exec_semRead ?_
    rw [accessR_of_reaches hr, Bool.false_and, if_neg Bool.false_ne_true, Dev.semRead, if_neg hs]
  case release =>
    intro s e v hr hv hs
    refine completes_lift exec_semRelease ?_
    rw [access_of_reaches hr, Dev.semWrite, if_pos (by simp [hv, hs]), Dev.semFree]

/-- Settles O28: each command of the bridges with its state lemma. -/
theorem bridgeWorkComplete : Obligations.BridgeWorkComplete := by
  unfold Obligations.BridgeWorkComplete
  refine ⟨?obRead, ?obWrite, ?retry, ?lbTimeout, ?irq, ?tail, ?serve, ?closed, ?can, ?perst⟩
  case obRead =>
    intro s ofs be v tag x hup hw hc ho
    exact completes_lift exec_outboundAccess (outbound_read hup hw hc ho)
  case obWrite =>
    intro s ofs be v tag res hup hw
    exact completes_lift exec_outboundAccess (outbound_posted hup hw)
  case retry =>
    intro s o res ho hb ht
    refine completes_lift exec_crossingRetry ?_
    rw [Dev.crossRetry, ho]
    exact if_pos (by simp [hb, ht])
  case lbTimeout =>
    intro s o ho hw ht
    exact completes_lift exec_lbWriteTimeout (lbTimeout_write ho hw ht)
  case irq =>
    intro s level hup ht
    exact completes_lift exec_irqPollSample (irqSample_due hup ht)
  case tail =>
    intro s who r v hr
    refine completes_lift exec_txRingTailWrite ?_
    rw [access_of_reaches hr]
  case serve =>
    intro s r desc frame ring buf hok hup hw hfirst
    exact completes_liftIf exec_txDescriptorServe hok (txServe_head hup hw hfirst)
  case closed =>
    intro s f rest hon ht hf hb
    exact completes_lift exec_fbrBuild (fbrBuild_closed hon ht hf hb)
  case can =>
    intro s f rest x l y hon ht hf hg hb hc hy hx hl
    exact completes_lift exec_fbrBuild (fbrBuild_can hon ht hf hg hb hc hy hx hl)
  case perst =>
    intro s
    exact completes_lift exec_perstAssert (perst_parts s.dev)

end Sys2Proof.Machine
end

section
/-!
SUPPORT. Shuttles: what a change of one of them leaves, the divider's tick, what each instruction does at it, waits, stalls
and injections, the control registers and the pads (R425-R440).
-/
namespace Sys2Proof.Machine

/-! ### One shuttle of the table -/

theorem shuttle_setSht_self (d : Dev) (n : Nat) (g : Shuttle → Shuttle) : (d.setSht n g).shuttle n = g (d.shuttle n) :=
  tget_tmod_self ..

theorem shuttle_of_sht {d e : Dev} (h : d.sht = e.sht) (n : Nat) : d.shuttle n = e.shuttle n := by
  rw [Dev.shuttle, h, Dev.shuttle]

theorem r_setSht (d : Dev) (n : Nat) (g : Shuttle → Shuttle) (a : Nat) : (d.setSht n g).r a = d.r a := rfl

theorem f_setSht (d : Dev) (n : Nat) (g : Shuttle → Shuttle) (a hi lo : Nat) : (d.setSht n g).f a hi lo = d.f a hi lo := rfl

theorem b_setSht (d : Dev) (n : Nat) (g : Shuttle → Shuttle) (a i : Nat) : (d.setSht n g).b a i = d.b a i := rfl

@[simp] theorem shtW_setSht (d : Dev) (n : Nat) (g : Shuttle → Shuttle) : (d.setSht n g).shtW n = d.shtW n := rfl

/-- Of the shuttle a tick takes its divider only. -/
theorem shuttle_shtTake (d : Dev) (n : Nat) : (d.shtTake n).shuttle n = { d.shuttle n with
    divAt := (d.shuttle n).divAt + 10 * (d.shuttle n).clocksTo (d.shtTickNo n)
    divAcc := (d.shuttle n).divAcc + 65536 * (d.shuttle n).clocksTo (d.shtTickNo n) - d.shtTickNo n * (d.shuttle n).divD
    divD := (d.r (SHT_CLKDIV n)).toNat } := shuttle_setSht_self ..

@[simp] theorem shtTake_mem (d : Dev) (n : Nat) : (d.shtTake n).mem = d.mem := rfl

theorem r_shtTake (d : Dev) (n a : Nat) : (d.shtTake n).r a = d.r a := rfl

theorem b_shtTake (d : Dev) (n a i : Nat) : (d.shtTake n).b a i = d.b a i := rfl

@[simp] theorem shtW_shtTake (d : Dev) (n : Nat) : (d.shtTake n).shtW n = d.shtW n := rfl

theorem shuttle_shtGo (d : Dev) (n pc : Nat) : (d.shtGo n pc).shuttle n =
    { d.shuttle n with state := .run, pc := pc % 32, stall := none, bellWait := none, trig := none } := shuttle_setSht_self ..

@[simp] theorem shtGo_mem (d : Dev) (n pc : Nat) : (d.shtGo n pc).mem = d.mem := rfl

theorem shuttle_ringBit (d : Dev) (b : BellReg) (i n : Nat) : (d.ringBit b i).shuttle n = d.shuttle n :=
  shuttle_of_sht (by simp) n

theorem shtCount_parts (d : Dev) (n i : Nat) (bell : Option Nat) :
    (d.shtCount n i bell).sht = d.sht ∧ (d.shtCount n i bell).mem = d.mem := by
  cases bell <;> simp [Dev.shtCount]

theorem shuttle_shtCount (d : Dev) (n i k : Nat) (bell : Option Nat) : (d.shtCount n i bell).shuttle k = d.shuttle k :=
  shuttle_of_sht (shtCount_parts ..).1 k

/-! ### A tick that executes the program -/

/-- `Dev.shtExec` by the opcode. -/
def Dev.shtOp (d : Dev) (n op v : Nat) (pads : BitVec 64) : ShtEnd × Dev :=
  match op with
  | 0 => d.shtBr n v pads
  | 1 => d.shtLoop n v
  | 2 => d.shtWait n v pads none none
  | 3 => d.shtGet n v pads
  | 4 => d.shtPut n v
  | 5 => d.shtPins n v
  | 6 => d.shtLoadImm n v
  | 7 => d.shtCopy n v pads
  | 8 => d.shtStowOp n v
  | 9 => d.shtFetchOp n v
  | _ => d.shtBellOp n v

theorem shtExec_eq (d : Dev) (n : Nat) (w : BitVec 16) (pads : BitVec 64) :
    d.shtExec n w pads = d.shtOp n (w.toNat % 16) w.toNat pads := rfl

/-- An instruction's row at a tick that fetches it: its effect, and how it ends. -/
theorem shtRow_at {d x : Dev} {n op : Nat} {w : BitVec 16} {pads : BitVec 64} {e : ShtEnd} (h : d.shtAt n op w)
    (hx : (d.shtTake n).shtOp n op w.toNat pads = (e, x)) : d.shtRow n op pads = x.shtEnd n w e := by
  obtain ⟨hst, htick, hprog, hw, hill, hop⟩ := h
  unfold Dev.shtRow
  dsimp only
  rw [hw, if_pos (by simp [hst, htick, hprog, hill, hop]), shtExec_eq, hop, hx]

/-! ### What each instruction does at its tick -/

section
variable {d : Dev} {n : Nat} {w : BitVec 16} {pads : BitVec 64}

theorem s_setS (x : Shuttle) (k : Nat) (v : Word) : (x.setS k v).s k = v := by
  unfold Shuttle.setS Shuttle.s
  split <;> rfl

/-- What a write of a scratch register leaves of the shuttle. -/
theorem setS_parts (x : Shuttle) (k : Nat) (v : Word) :
    (x.setS k v).pc = x.pc ∧ (x.setS k v).obs = x.obs ∧ (x.setS k v).ibs = x.ibs := by
  unfold Shuttle.setS
  split <;> exact ⟨rfl, rfl, rfl⟩

theorem shuttle_shtSetS (d : Dev) (n k : Nat) (v : Word) :
    ((d.shtSetS n k v).shuttle n).s k = v ∧ ((d.shtSetS n k v).shuttle n).pc = (d.shuttle n).pc ∧
    ((d.shtSetS n k v).shuttle n).obs = (d.shuttle n).obs ∧ ((d.shtSetS n k v).shuttle n).ibs = (d.shuttle n).ibs := by
  rw [Dev.shtSetS, shuttle_setSht_self]
  exact ⟨s_setS .., setS_parts ..⟩

/-- The shuttle after an instruction that goes on: what its effect left, with the next program counter. -/
theorem shuttle_next (x : Dev) (n : Nat) (w : BitVec 16) : ((x.shtEnd n w .next).shuttle n) =
    { x.shuttle n with
      state := .run, pc := ((x.shuttle n).pc + 1) % 32, stall := none, bellWait := none, trig := none } := shuttle_shtGo ..

theorem shtCond_shtTake (c : Nat) : (d.shtTake n).shtCond n c pads = d.shtCond n c pads := by
  unfold Dev.shtCond
  rw [shuttle_shtTake]
  rfl

theorem shtBr_row (h : d.shtAt n 0 w) : d.shtRow n 0 pads = (d.shtTake n).shtGo n
    (if d.shtCond n (w.toNat / 8192) pads then w.toNat / 256 % 32 else (d.shuttle n).pc + 1) := by
  rw [shtRow_at h rfl, shtCond_shtTake]
  split
  · rw [Dev.shtEnd]
  · rw [Dev.shtEnd, shuttle_shtTake]

theorem shtLoop_row (h : d.shtAt n 1 w) (k : Nat) (hk : k = w.toNat / 32768) :
    ((d.shtRow n 1 pads).shuttle n).s k = (d.shuttle n).s k - 1 ∧
    ((d.shtRow n 1 pads).shuttle n).pc =
      (if (d.shuttle n).s k = 1 then (d.shuttle n).pc + 1 else w.toNat / 256 % 32) % 32 ∧
    ((d.shtRow n 1 pads).shuttle n).obs = (d.shuttle n).obs ∧ ((d.shtRow n 1 pads).shuttle n).ibs = (d.shuttle n).ibs ∧
    (d.shtRow n 1 pads).mem = d.mem := by
  have hs : ((d.shtTake n).shuttle n).s k = (d.shuttle n).s k := by rw [shuttle_shtTake]; rfl
  obtain ⟨hsk, hpc, hobs, hibs⟩ := shuttle_shtSetS (d.shtTake n) n k ((d.shuttle n).s k - 1)
  have hone : (d.shuttle n).s k - 1 = 0 ↔ (d.shuttle n).s k = 1 := sub_eq_zero
  rw [shtRow_at (x := (d.shtTake n).shtSetS n k ((d.shuttle n).s k - 1))
    (e := if (d.shuttle n).s k = 1 then .next else .jump (w.toNat / 256 % 32)) h
    (by show Dev.shtLoop _ _ _ = _; unfold Dev.shtLoop; dsimp only; rw [← hk, hs]; simp only [hone])]
  rw [shuttle_shtTake] at hpc hobs hibs
  split
  · rw [shuttle_next]
    exact ⟨hsk, by rw [← hpc], hobs, hibs, rfl⟩
  · rw [Dev.shtEnd, shuttle_shtGo]
    exact ⟨hsk, rfl, hobs, hibs, rfl⟩

/-- A WAIT whose condition holds takes the stamp. -/
theorem shtWait_over {v : Nat} {edge trig : Option Stamp} {st : Stamp} (h : d.shtWaitOver n v pads edge trig = some st) :
    d.shtWait n v pads edge trig = (.next, d.setSht n (fun x => { x with stamp := st })) := by
  rw [Dev.shtWait, h]

/-- A WAIT whose condition does not hold: at most a bell rings. -/
theorem shtWait_on {v : Nat} {edge trig : Option Stamp} (h : d.shtWaitOver n v pads edge trig = none) :
    ∃ x, d.shtWait n v pads edge trig = (.wait, x) ∧ x.sht = d.sht ∧ x.mem = d.mem := by
  refine ⟨_, by rw [Dev.shtWait, h], ite_keeps Dev.sht ?_ rfl, ite_keeps Dev.mem ?_ rfl⟩ <;> simp

theorem shtWait_row_over {st : Stamp} (h : d.shtAt n 2 w) (hw : (d.shtTake n).shtWaitOver n w.toNat pads none none = some st) :
    ((d.shtRow n 2 pads).shuttle n).stamp = st ∧ ((d.shtRow n 2 pads).shuttle n).state = .run ∧
    ((d.shtRow n 2 pads).shuttle n).pc = ((d.shuttle n).pc + 1) % 32 ∧ (d.shtRow n 2 pads).mem = d.mem := by
  rw [shtRow_at h (shtWait_over hw), shuttle_next, shuttle_setSht_self, shuttle_shtTake]
  exact ⟨rfl, rfl, rfl, rfl⟩

theorem shtWait_row_on (h : d.shtAt n 2 w) (hw : (d.shtTake n).shtWaitOver n w.toNat pads none none = none) :
    ((d.shtRow n 2 pads).shuttle n).state = .wait ∧ ((d.shtRow n 2 pads).shuttle n).inst = w ∧
    ((d.shtRow n 2 pads).shuttle n).pc = (d.shuttle n).pc ∧
    ((d.shtRow n 2 pads).shuttle n).waitAt = ((d.shtTake n).shuttle n).divAt ∧ (d.shtRow n 2 pads).mem = d.mem := by
  obtain ⟨x, hx, hsht, hmem⟩ := shtWait_on hw
  rw [shtRow_at h hx, Dev.shtEnd, shuttle_setSht_self, shuttle_of_sht hsht, shuttle_shtTake]
  exact ⟨rfl, rfl, rfl, rfl, hmem⟩

theorem shtGet_row (h : d.shtAt n 3 w) (hs : w.toNat.testBit 7 = false) :
    d.shtRow n 3 pads = ((d.shtTake n).shtGetShift n w.toNat pads).shtGo n ((d.shuttle n).pc + 1) := by
  have hget : (d.shtTake n).shtGet n w.toNat pads = (.next, (d.shtTake n).shtGetShift n w.toNat pads) := by
    unfold Dev.shtGet
    dsimp only
    rw [hs, Bool.false_and, if_neg Bool.false_ne_true]
  have hpc : (((d.shtTake n).shtGetShift n w.toNat pads).shuttle n).pc = (d.shuttle n).pc := by
    unfold Dev.shtGetShift
    dsimp only
    rw [shuttle_setSht_self, shuttle_shtTake]
  rw [shtRow_at h hget, Dev.shtEnd, hpc]

theorem shtPut_row (h : d.shtAt n 4 w) (hs : w.toNat.testBit 7 = false) :
    d.shtRow n 4 pads = ((d.shtTake n).shtPutShift n w.toNat).shtEnd n w .next :=
  shtRow_at h (by
    show Dev.shtPut _ _ _ = _
    unfold Dev.shtPut
    rw [hs, Bool.false_and, if_neg Bool.false_ne_true])

theorem shtPins_row (h : d.shtAt n 5 w) (hw : d.f (SHT_WIN n) 10 8 ≠ 7) :
    d.shtRow n 5 pads = ((d.shtTake n).shtPins n w.toNat).2.shtEnd n w .next := by
  refine shtRow_at h ?_
  show Dev.shtPins _ _ _ = _
  unfold Dev.shtPins
  dsimp only
  rw [if_neg (show ¬ (d.shtTake n).f (SHT_WIN n) 10 8 = 7 from hw)]

theorem shtLoadImm_row (h : d.shtAt n 6 w) :
    ((d.shtRow n 6 pads).shuttle n).s (w.toNat / 32768) = w32 (w.toNat / 128 % 256) ∧
    ((d.shtRow n 6 pads).shuttle n).pc = ((d.shuttle n).pc + 1) % 32 ∧
    (∀ a, (d.shtRow n 6 pads).r a = d.r a) ∧ (d.shtRow n 6 pads).mem = d.mem := by
  obtain ⟨hsk, hpc, -, -⟩ := shuttle_shtSetS (d.shtTake n) n (w.toNat / 32768) (w32 (w.toNat / 128 % 256))
  rw [shuttle_shtTake] at hpc
  rw [shtRow_at h rfl, shuttle_next]
  exact ⟨hsk, by rw [← hpc], fun a => rfl, rfl⟩

theorem shtCopy_row (h : d.shtAt n 7 w) (ho : w.toNat / 8192 = 1) (hc : w.toNat / 256 % 4 = 0) :
    ((d.shtRow n 7 pads).shuttle n).s0 = (d.shtTake n).shtSrc n (w.toNat / 1024 % 8) pads ∧
    ((d.shtRow n 7 pads).shuttle n).s1 = (d.shuttle n).s1 ∧
    ((d.shtRow n 7 pads).shuttle n).pc = ((d.shuttle n).pc + 1) % 32 ∧ (d.shtRow n 7 pads).mem = d.mem := by
  have hcopy : (d.shtTake n).shtCopy n w.toNat pads =
      (.next, (d.shtTake n).shtSetS n 0 ((d.shtTake n).shtSrc n (w.toNat / 1024 % 8) pads)) := by
    unfold Dev.shtCopy
    dsimp only
    rw [ho, hc]
    rfl
  rw [shtRow_at h hcopy, shuttle_next, Dev.shtSetS, shuttle_setSht_self, shuttle_shtTake]
  exact ⟨rfl, rfl, rfl, rfl⟩

end

/-! ### The FIFOs -/

section
variable {d : Dev} {n : Nat}

/-- A stow into an up FIFO with room. -/
theorem shtStow_room (block : Bool) (h : (d.shuttle n).up.length < 4) :
    d.shtStow n block = some (d.setSht n (fun x => { x with
      up := x.up ++ [((d.shuttle n).ibs, d.shtStamp n, (d.shuttle n).stowSeq)], ibs := 0, ibCnt := 0
      stowSeq := wrapAdd 16 x.stowSeq 1 })) := by
  have hf : decide (4 ≤ (d.shuttle n).up.length) = false := decide_eq_false (by omega)
  unfold Dev.shtStow
  dsimp only
  rw [hf]
  rfl

/-- The shuttle whose stow has been taken at its tick goes on with the word in its up FIFO. -/
theorem shtStow_take (block : Bool) (h : (d.shuttle n).up.length < 4) :
    ∃ x, (d.shtTake n).shtStow n block = some x ∧
      (x.shuttle n).up = (d.shuttle n).up ++ [((d.shuttle n).ibs, (d.shtTake n).shtStamp n, (d.shuttle n).stowSeq)] ∧
      (x.shuttle n).ibs = 0 ∧ (x.shuttle n).ibCnt = 0 ∧ (x.shuttle n).pc = (d.shuttle n).pc ∧ x.mem = d.mem := by
  have htake := shuttle_shtTake d n
  refine ⟨_, shtStow_room block (by rw [htake]; exact h), ?_⟩
  rw [shuttle_setSht_self, htake]
  exact ⟨rfl, rfl, rfl, rfl, rfl⟩

theorem shtStow_row {w : BitVec 16} {pads : BitVec 64} (h : d.shtAt n 8 w) (hup : (d.shuttle n).up.length < 4) :
    ((d.shtRow n 8 pads).shuttle n).up =
      (d.shuttle n).up ++ [((d.shuttle n).ibs, (d.shtTake n).shtStamp n, (d.shuttle n).stowSeq)] ∧
    ((d.shtRow n 8 pads).shuttle n).ibs = 0 ∧ ((d.shtRow n 8 pads).shuttle n).ibCnt = 0 ∧
    ((d.shtRow n 8 pads).shuttle n).pc = ((d.shuttle n).pc + 1) % 32 ∧ (d.shtRow n 8 pads).mem = d.mem := by
  obtain ⟨x, hx, hxup, hibs, hcnt, hpc, hmem⟩ := shtStow_take (w.toNat.testBit 15) hup
  have hop : (d.shtTake n).shtStowOp n w.toNat = (.next, x) := by rw [Dev.shtStowOp, hx]
  rw [shtRow_at h hop, shuttle_next, hpc]
  exact ⟨hxup, hibs, hcnt, rfl, hmem⟩

theorem shtFetch_row {w : BitVec 16} {pads : BitVec 64} {v : Word} {rest : List Word} (h : d.shtAt n 9 w)
    (hdn : (d.shuttle n).dn = v :: rest) :
    ((d.shtRow n 9 pads).shuttle n).obs = v ∧ ((d.shtRow n 9 pads).shuttle n).dn = rest ∧
    ((d.shtRow n 9 pads).shuttle n).obLeft = d.shtW n ∧
    ((d.shtRow n 9 pads).shuttle n).pc = ((d.shuttle n).pc + 1) % 32 ∧ (d.shtRow n 9 pads).mem = d.mem := by
  have hop : (d.shtTake n).shtFetchOp n w.toNat = (.next, (d.shtTake n).setSht n (fun x =>
      { x with dn := rest, obs := v, lastFetch := v, obLeft := d.shtW n })) := by
    unfold Dev.shtFetchOp Dev.shtFetch
    dsimp only
    rw [shuttle_shtTake]
    dsimp only
    rw [hdn]
    rfl
  rw [shtRow_at h hop, shuttle_next, shuttle_setSht_self, shuttle_shtTake]
  exact ⟨rfl, rfl, rfl, rfl, rfl⟩

theorem shtBell_row {w : BitVec 16} {pads : BitVec 64} (h : d.shtAt n 10 w) (hb : w.toNat.testBit 15 = false) :
    d.shtRow n 10 pads = ((d.shtTake n).ringBit (.sht n) (w.toNat / 4096 % 8)).shtGo n ((d.shuttle n).pc + 1) := by
  have hop : (d.shtTake n).shtBellOp n w.toNat = (.next, (d.shtTake n).ringBit (.sht n) (w.toNat / 4096 % 8)) := by
    unfold Dev.shtBellOp
    dsimp only
    rw [hb, if_neg Bool.false_ne_true]
  rw [shtRow_at h hop, Dev.shtEnd, shuttle_ringBit, shuttle_shtTake]

end

/-! ### Waits and stalls, the fault, injections and loads -/

section
variable {d : Dev} {n : Nat} {pads : BitVec 64} (ht : d.shtTicks n = true)
include ht

theorem shtWaitTick_over {back : Nat} {st : Stamp} (hs : (d.shuttle n).state = .wait) (hp : d.shtProgram n = true)
    (hb : (d.shuttle n).bellWait = none) (hw : (d.shtTake n).shtWaitOver n (d.shuttle n).inst.toNat pads
      ((d.shtTake n).shtEdge n back) ((d.shtTake n).shtTrig n) = some st) :
    d.shtWaitTick n pads back =
      ((d.shtTake n).setSht n (fun x => { x with stamp := st })).shtGo n ((d.shuttle n).pc + 1) := by
  unfold Dev.shtWaitTick
  dsimp only
  rw [if_pos (by simp [hs, ht, hp]), hb]
  dsimp only
  rw [shtWait_over hw]

theorem shtWaitTick_bell {back b : Nat} (hs : (d.shuttle n).state = .wait) (hp : d.shtProgram n = true)
    (hb : (d.shuttle n).bellWait = some b) (hbell : d.b (SHT_BELL n) b = false) :
    d.shtWaitTick n pads back = (d.shtTake n).shtGo n ((d.shuttle n).pc + 1) := by
  unfold Dev.shtWaitTick
  dsimp only
  rw [if_pos (by simp [hs, ht, hp]), hb]
  dsimp only
  rw [b_shtTake, hbell, if_neg Bool.false_ne_true]

theorem shtStallTick_stow (hs : (d.shuttle n).state = .stall) (hp : d.shtProgram n = true)
    (hk : (d.shuttle n).stall = some .stow) {x : Dev} (hx : (d.shtTake n).shtStow n true = some x) :
    d.shtStallTick n = x.shtGo n ((d.shuttle n).pc + 1) := by
  unfold Dev.shtStallTick
  dsimp only
  rw [if_pos (by simp [hs, ht, hp]), hk]
  dsimp only
  rw [hx]

theorem shtFault_illegal (hs : (d.shuttle n).state = .run) (hp : d.shtProgram n = true) (hi : shtIllegal (d.shtFetched n) = true) :
    d.shtFault n = ((d.shtTake n).setSht n (fun x => { x with state := .fault })).shtCount n 7 (some 8) := by
  unfold Dev.shtFault
  rw [if_pos (by simp [hs, ht, hp, hi])]

/-- A tick with an injection that goes on. -/
theorem shtInjectTick_next {w : BitVec 16} {x : Dev} {ok : Bool} (hw : (d.shuttle n).inject = some w)
    (hl : (d.shuttle n).load = none)
    (hx : ((d.shtTake n).setSht n (fun x => { x with inject := none })).shtInjected n w pads = (.next, x, ok)) :
    d.shtInjectTick n pads = if ok then x else x.shtCount n 6 (some 15) := by
  unfold Dev.shtInjectTick
  dsimp only
  rw [hw]
  dsimp only
  rw [hl, ht, if_pos (show (Option.isNone (none : Option Nat) && true) = true from rfl), hx]

theorem shtLoadTick_eq {pc : Nat} (hl : (d.shuttle n).load = some pc) : d.shtLoadTick n = (d.shtTake n).shtLoadAct n := by
  unfold Dev.shtLoadTick
  rw [hl, ht, if_pos (show (Option.isSome (some pc) && true) = true from rfl)]

end

/-- The mode decides the state of a shuttle, and nothing else of it. -/
theorem shtMode_parts (m : Mode) (x : Shuttle) : (shtMode m x).pc = x.pc ∧ (shtMode m x).load = x.load ∧
    (shtMode m x).stall = x.stall ∧ (shtMode m x).bellWait = x.bellWait := by
  obtain ⟨state⟩ := x
  cases state <;> cases m <;> exact ⟨rfl, rfl, rfl, rfl⟩

theorem shuttle_shtRunning (d : Dev) (n : Nat) : ((d.shtRunning n).shuttle n).pc = (d.shuttle n).pc ∧
    ((d.shtRunning n).shuttle n).load = (d.shuttle n).load ∧ ((d.shtRunning n).shuttle n).stall = none ∧
    ((d.shtRunning n).shuttle n).bellWait = none := by
  rw [Dev.shtRunning, shuttle_setSht_self]
  exact shtMode_parts ..

/-- A load that acts on an enabled shuttle. -/
theorem shtLoadAct_enabled {d : Dev} {n pc : Nat} (hl : (d.shuttle n).load = some pc) (hc : d.b (SHT_CTRL n) 0 = true) :
    ((d.shtLoadAct n).shuttle n).pc = pc ∧ ((d.shtLoadAct n).shuttle n).load = none ∧
    ((d.shtLoadAct n).shuttle n).stall = none ∧ ((d.shtLoadAct n).shuttle n).bellWait = none ∧ (d.shtLoadAct n).mem = d.mem := by
  unfold Dev.shtLoadAct
  rw [hl]
  dsimp only
  rw [b_setSht, hc, if_pos rfl]
  obtain ⟨hpc, hload, hstall, hbell⟩ := shuttle_shtRunning (d.setSht n (fun x =>
    if d.b (SHT_LOAD_CLEAR n) 0 then
      { x with pc := pc, load := none, ibs := 0, obs := 0, s0 := 0, s1 := 0, ibCnt := 0, obLeft := 0 }
    else { x with pc := pc, load := none })) n
  rw [shuttle_setSht_self] at hpc hload
  refine ⟨hpc.trans ?_, hload.trans ?_, hstall, hbell, rfl⟩ <;> split <;> rfl

/-! ### The control registers -/

/-- An enable written as it stands. -/
theorem shtEn_same (d : Dev) (n : Nat) :
    d.shtEn n (d.b (SHT_CTRL n) 0) = d.wb (SHT_CTRL n) 0 (d.b (SHT_CTRL n) 0) := by
  unfold Dev.shtEn
  dsimp only
  rw [if_neg (by simp), if_neg (by simp)]

theorem shtEn_rise {d : Dev} {n : Nat} (h : d.b (SHT_CTRL n) 0 = false) :
    d.shtEn n true = ((d.wb (SHT_CTRL n) 0 true).shtRunning n).shtRestart n := by
  unfold Dev.shtEn
  dsimp only
  rw [h]
  rfl

/-- Where a shuttle starts that its enable bit's rise starts. -/
theorem shtStart_parts (d : Dev) (n : Nat) :
    ((((d.wb (SHT_CTRL n) 0 true).shtRunning n).shtRestart n).shuttle n).pc = (d.shuttle n).pc ∧
    ((((d.wb (SHT_CTRL n) 0 true).shtRunning n).shtRestart n).shuttle n).divAt = d.baseNext ∧
    (((d.wb (SHT_CTRL n) 0 true).shtRunning n).shtRestart n).b (SHT_CTRL n) 0 = true := by
  have hw : (d.wb (SHT_CTRL n) 0 true).shuttle n = d.shuttle n := shuttle_of_sht (by simp) n
  have hb : ((d.wb (SHT_CTRL n) 0 true).shtRunning n).baseNext = d.baseNext := by simp [Dev.baseNext, Dev.shtRunning]
  rw [Dev.shtRestart, shuttle_setSht_self, b_setSht, Dev.shtRunning, b_setSht, Dev.b_wb_self _ _ _ (by decide)]
  refine ⟨?_, hb, rfl⟩
  rw [← hw]
  exact (shuttle_shtRunning _ n).1

section
variable {d : Dev} {n : Nat}

theorem shtCtrl_flushUp (h : d.b (SHT_CTRL n) 2 = false) : d.shtCtrl n (setBit (d.r (SHT_CTRL n)) 1 true) =
    (d.setSht n (fun x => { x with up := [] })).wb (SHT_CTRL n) 0 (d.b (SHT_CTRL n) 0) := by
  unfold Dev.shtCtrl
  rw [bitOf_setBit_self _ _ _ (by decide), bitOf_setBit_ne _ _ _ _ (by decide) (by decide),
    bitOf_setBit_ne _ _ _ _ (by decide) (by decide), show bitOf (d.r (SHT_CTRL n)) 2 = false from h, if_pos rfl]
  exact shtEn_same (d.setSht n _) n

theorem shtCtrl_flushDn (h : d.b (SHT_CTRL n) 1 = false) : d.shtCtrl n (setBit (d.r (SHT_CTRL n)) 2 true) =
    (d.setSht n (fun x => { x with dn := [] })).wb (SHT_CTRL n) 0 (d.b (SHT_CTRL n) 0) := by
  unfold Dev.shtCtrl
  rw [bitOf_setBit_self _ _ _ (by decide), bitOf_setBit_ne _ _ _ _ (by decide) (by decide),
    bitOf_setBit_ne _ _ _ _ (by decide) (by decide), show bitOf (d.r (SHT_CTRL n)) 1 = false from h, if_neg Bool.false_ne_true]
  exact shtEn_same (d.setSht n _) n

theorem shtCtrl_enable {v : Word} (he : bitOf v 0 = true) (hf : fld v 2 1 = 0) (h : d.b (SHT_CTRL n) 0 = false) :
    d.shtCtrl n v = ((d.wb (SHT_CTRL n) 0 true).shtRunning n).shtRestart n := by
  unfold Dev.shtCtrl
  rw [bitOf_of_fld_zero hf (i := 1) (by decide) (by decide), bitOf_of_fld_zero hf (i := 2) (by decide) (by decide), he]
  exact shtEn_rise h

/-- A flush of a FIFO leaves the rest of the shuttle. -/
theorem shuttle_flushed (d : Dev) (n : Nat) (g : Shuttle → Shuttle) (v : Bool) :
    ((d.setSht n g).wb (SHT_CTRL n) 0 v).shuttle n = g (d.shuttle n) ∧ ((d.setSht n g).wb (SHT_CTRL n) 0 v).mem = d.mem :=
  ⟨(shuttle_of_sht (by simp) n).trans (shuttle_setSht_self ..), by simp⟩

theorem shtGroup_now {g : Nat} {v : Word} (h : bitOf v 9 = false) : d.shtGroup g v = d.shtGroupAct g v := by
  unfold Dev.shtGroup
  rw [h, Bool.false_and, if_neg Bool.false_ne_true]

theorem shtGroup_at {g : Nat} {v : Word} (h : bitOf v 9 = true) (hr : reached d.tb.st (d.r (SHT_GRP_AT g)) = false) :
    d.shtGroup g v = { d with pins := { d.pins with
      grpDue := tset d.pins.grpDue g (tget [] d.pins.grpDue g ++ [w32 (fld v 9 0)]) } } := by
  unfold Dev.shtGroup
  rw [h, hr, if_pos (show (true && !false) = true from rfl)]

theorem shtGroupAct_start {g : Nat} {v : Word} (h : bitOf v 8 = false) : d.shtGroupAct g v = d.each (List.range 8) (fun d i =>
    if bitOf v i then ((d.shtEn (8 * g + i) true).shtRestart (8 * g + i)).setSht (8 * g + i) (fun x =>
      { x with startAt := d.tb.now + 1 })
    else d) := by
  unfold Dev.shtGroupAct
  simp only [h, Bool.false_eq_true, if_false]

theorem shtGroupAct_stop {g : Nat} {v : Word} (h : bitOf v 8 = true) : d.shtGroupAct g v = d.each (List.range 8) (fun d i =>
    if bitOf v i then d.shtEn (8 * g + i) false else d) := by
  unfold Dev.shtGroupAct
  simp only [h, if_true]

/-! ### The trigger of a group -/

theorem shtCtrl_ne_grpTrig (g i k : Nat) : SHT_CTRL (8 * g + i) ≠ SHT_GRP_TRIG k := by
  unfold SHT_CTRL SHT_GRP_TRIG
  omega

/-- A trigger that meets no enabled shuttle: it is counted. -/
theorem shtTrigger_idle {g t : Nat} {st : Stamp} (hd : tfind d.trd.trigDue g = some (t, st))
    (he : ∀ i, i < 8 → d.b (SHT_CTRL (8 * g + i)) 0 = false) (hr : d.b (SHT_GRP_CFG g) 0 = false) :
    d.shtTrigger g t =
      ({ d with trd := { d.trd with trigDue := terase d.trd.trigDue g } } : Dev).incf (SHT_GRP_TRIG g) 15 0 1 := by
  unfold Dev.shtTrigger
  rw [hd]
  dsimp only
  rw [if_neg (by simp)]
  generalize hx : ({ d with trd := { d.trd with trigDue := terase d.trd.trigDue g } } : Dev).incf (SHT_GRP_TRIG g) 15 0 1 = x
  have hxr : ∀ a, a ≠ SHT_GRP_TRIG g → x.r a = d.r a := fun a ha => by rw [← hx, Dev.r_incf, if_neg ha, Dev.r_with_trd]
  have hcfg : x.b (SHT_GRP_CFG g) 0 = false := by
    rw [Dev.b, hxr _ (by unfold SHT_GRP_CFG SHT_GRP_TRIG; omega)]
    exact hr
  refine each_fixed fun n hn => ?_
  obtain ⟨i, hi, rfl⟩ := List.mem_map.1 hn
  have hi := List.mem_range.1 hi
  have hctrl : x.b (SHT_CTRL (8 * g + i)) 0 = false := by
    rw [Dev.b, hxr _ (shtCtrl_ne_grpTrig g i g)]
    exact he i hi
  rw [hcfg, if_neg Bool.false_ne_true, hctrl, if_pos (by simp)]

/-! ### The FIFOs' ends and the pads -/

theorem shtDrain_channel {w : Word} {st : Stamp} {seq c : Nat} {rest : List (Word × Stamp × Nat)}
    (hu : (d.shuttle n).up = (w, st, seq) :: rest) (hz : d.r (SHT_DEST n) ≠ 0) (ht : (d.shuttle n).drainAt ≤ d.tb.now)
    (hc : d.chanOf (d.r (SHT_DEST n)) = some c) : d.shtDrain n =
      (d.setSht n (fun x => { x with up := rest, drainAt := d.tb.now + 50 })).post c (mkEv 5 n st seq w) := by
  unfold Dev.shtDrain
  dsimp only
  rw [hu]
  dsimp only
  rw [decide_eq_false hz, decide_eq_false (Nat.not_lt.2 ht), Bool.or_self, if_neg Bool.false_ne_true,
    show (d.setSht n _).chanOf (d.r (SHT_DEST n)) = some c from hc]

theorem shtUpf_host {w : Word} {st : Stamp} {seq : Nat} {rest : List (Word × Stamp × Nat)}
    (hu : (d.shuttle n).up = (w, st, seq) :: rest) (hz : d.r (SHT_DEST n) = 0) :
    d.shtUpf n = (w, d.setSht n (fun x => { x with up := rest })) := by
  unfold Dev.shtUpf
  rw [hu]
  dsimp only
  rw [if_pos hz]

theorem shtDnf_room {who : Initiator} {v : Word} (hl : (d.shuttle n).dn.length < 4) (he : (d.shuttle n).dnEng.1 ≠ d.tb.now) :
    d.shtDnf who n v = d.setSht n (fun x =>
      { x with dn := (d.shuttle n).dn ++ [v], dnEng := (d.tb.now, if isHost who then 0 else 1) }) := by
  have hfit : ((d.shuttle n).dn ++ [v]).length ≤ 4 := by simp; omega
  unfold Dev.shtDnf
  dsimp only
  rw [if_neg he, show (d.shuttle n).dn.length.min 0 = 0 from Nat.min_zero _, Nat.sub_zero, ite_self, List.take_length,
    List.drop_length, List.append_nil, if_pos hfit, if_pos hfit, if_pos hfit, List.take_of_length_le hfit]

theorem padSense_free {i : Nat} {level : Bool} (hd : d.pinDrive i = none) (ho : tget 0 d.pins.obsDue i = 0) :
    d.padSense i level = { d with pins := { d.pins with pad := put64 d.pins.pad i level } } := by
  unfold Dev.padSense
  dsimp only
  rw [ho, if_neg (Nat.lt_irrefl 0)]
  rw [show ({ d with pins := { d.pins with pad := put64 d.pins.pad i level } } : Dev).pinDrive i = none from hd]

end

/-- What a trigger that is only counted leaves. -/
theorem grpTrig_counted (d : Dev) (g : Nat) (l : Tab (Nat × Stamp)) :
    (({ d with trd := { d.trd with trigDue := l } } : Dev).incf (SHT_GRP_TRIG g) 15 0 1).trd.trigDue = l ∧
    (({ d with trd := { d.trd with trigDue := l } } : Dev).incf (SHT_GRP_TRIG g) 15 0 1).f (SHT_GRP_TRIG g) 15 0 =
      wrapAdd 16 (d.f (SHT_GRP_TRIG g) 15 0) 1 ∧
    (({ d with trd := { d.trd with trigDue := l } } : Dev).incf (SHT_GRP_TRIG g) 15 0 1).sht = d.sht ∧
    (({ d with trd := { d.trd with trigDue := l } } : Dev).incf (SHT_GRP_TRIG g) 15 0 1).mem = d.mem := by
  refine ⟨by simp, ?_, by simp, by simp⟩
  rw [Dev.incf, Dev.f_wf_self _ _ _ (by decide) (by decide)]
  exact Nat.mod_mod _ _

end Sys2Proof.Machine
end

section
namespace Sys2Proof.Machine

/-- Settles O29: each instruction with the lemma of its row. -/
theorem shuttleInstructionsComplete : Obligations.ShuttleInstructionsComplete := by
  unfold Obligations.ShuttleInstructionsComplete
  refine ⟨?br, ?loop, ?waitOver, ?waitOn, ?get, ?put, ?pins, ?load, ?copy, ?stow, ?fetch, ?bell⟩
  case br =>
    rintro s n pads w d h rfl
    exact completes_lift exec_shtBr (shtBr_row h)
  case loop =>
    intro s n pads w k h hk
    exact completes_lift exec_shtLoop (shtLoop_row h k hk)
  case waitOver =>
    rintro s n pads w d st h rfl hw
    exact completes_lift exec_shtWait (shtWait_row_over h hw)
  case waitOn =>
    rintro s n pads w d h rfl hw
    exact completes_lift exec_shtWait (shtWait_row_on h hw)
  case get =>
    rintro s n pads w d h rfl hs
    exact completes_lift exec_shtGet (shtGet_row h hs)
  case put =>
    rintro s n pads w d x h rfl hs rfl
    exact completes_lift exec_shtPut (shtPut_row h hs)
  case pins =>
    rintro s n pads w d x h rfl hw rfl
    exact completes_lift exec_shtPins (shtPins_row h hw)
  case load =>
    intro s n pads w h
    exact completes_lift exec_shtLoad (shtLoadImm_row h)
  case copy =>
    rintro s n pads w d h rfl ho hc
    exact completes_lift exec_shtCopy (shtCopy_row h ho hc)
  case stow =>
    rintro s n pads w d h rfl hup
    exact completes_lift exec_shtStow (shtStow_row h hup)
  case fetch =>
    intro s n pads w v rest h hdn
    exact completes_lift exec_shtFetch (shtFetch_row h hdn)
  case bell =>
    rintro s n pads w d h rfl hb
    exact completes_lift exec_shtBell (shtBell_row h hb)

/-- Settles O30: each tick with the lemma of what it does. -/
theorem shuttleTicksComplete : Obligations.ShuttleTicksComplete := by
  unfold Obligations.ShuttleTicksComplete
  refine ⟨?wait, ?bell, ?stall, ?illegal, ?inject, ?injectIllegal, ?load⟩
  case wait =>
    rintro s n pads back st d hs ht hp hb rfl hw
    refine completes_lift exec_shtWaitComplete ?_
    rw [shtWaitTick_over ht hs hp hb hw, shuttle_shtGo, shuttle_setSht_self]
    exact ⟨rfl, rfl, rfl, rfl⟩
  case bell =>
    intro s n pads back b hs ht hp hb hbell
    exact completes_lift exec_shtWaitComplete (shtWaitTick_bell ht hs hp hb hbell)
  case stall =>
    intro s n pads hs ht hp hk hup
    obtain ⟨x, hx, hxup, -, -, -, hmem⟩ := shtStow_take true hup
    refine completes_lift exec_shtStallRetry ?_
    rw [shtStallTick_stow ht hs hp hk hx, shuttle_shtGo]
    exact ⟨hxup, rfl, rfl, hmem⟩
  case illegal =>
    intro s n pads hs ht hp hi
    refine completes_lift exec_shtIllegalInstruction ?_
    rw [shtFault_illegal ht hs hp hi, shuttle_shtCount, shuttle_setSht_self, shuttle_shtTake]
    exact ⟨rfl, rfl, rfl⟩
  case inject =>
    intro s n pads w x hw hl ht hx
    exact completes_lift exec_shtInject (shtInjectTick_next ht hw hl hx)
  case injectIllegal =>
    intro s n pads w hw hl ht hi
    refine completes_lift exec_shtInject ?_
    rw [shtInjectTick_next (ok := false) ht hw hl (by rw [Dev.shtInjected, if_pos hi]), if_neg Bool.false_ne_true]
  case load =>
    intro s n pc hl ht hc
    refine completes_lift exec_shtLoadGo ?_
    rw [shtLoadTick_eq ht hl]
    exact shtLoadAct_enabled (by rw [shuttle_shtTake]; exact hl) hc

/-- Settles O31: each access and event with its lemma. -/
theorem shuttleControlComplete : Obligations.ShuttleControlComplete := by
  unfold Obligations.ShuttleControlComplete
  refine ⟨?drain, ?upf, ?dnf, ?flushUp, ?flushDn, ?enable, ?start, ?startAt, ?stop, ?trigger, ?pad⟩
  case drain =>
    intro s n w st seq rest c hu hz ht hc
    exact completes_lift exec_shtUpDrain (shtDrain_channel hu hz ht hc)
  case upf =>
    intro s who n w st seq rest hr hz hu
    refine completes_lift exec_shtUpfRead ?_
    rw [accessR_of_reaches hr, shtUpf_host hu hz]
  case dnf =>
    intro s who n v hr hl he
    refine completes_lift exec_shtDnfWrite ?_
    rw [access_of_reaches hr, shtDnf_room hl he]
  case flushUp =>
    intro s who n hr hb
    refine completes_lift exec_shtFlushUp ?_
    rw [access_of_reaches hr, shtCtrl_flushUp hb, (shuttle_flushed ..).1]
    exact ⟨rfl, rfl, rfl, (shuttle_flushed ..).2⟩
  case flushDn =>
    intro s who n hr hb
    refine completes_lift exec_shtFlushDn ?_
    rw [access_of_reaches hr, shtCtrl_flushDn hb, (shuttle_flushed ..).1]
    exact ⟨rfl, rfl, rfl, (shuttle_flushed ..).2⟩
  case enable =>
    intro s who n v hr he hf hb
    refine completes_lift exec_shtEnable ?_
    rw [access_of_reaches hr, shtCtrl_enable he hf hb]
    exact ⟨rfl, shtStart_parts s.dev n⟩
  case start =>
    intro s who g v hr h8 h9
    refine completes_lift exec_shtGroupStart ?_
    rw [access_of_reaches hr, shtGroup_now h9, shtGroupAct_start h8]
  case startAt =>
    intro s who g v hr h9 ht
    refine completes_lift exec_shtGroupStart ?_
    rw [access_of_reaches hr, shtGroup_at h9 ht]
  case stop =>
    intro s who g v hr h8 h9
    refine completes_lift exec_shtGroupStop ?_
    rw [access_of_reaches hr, shtGroup_now h9, shtGroupAct_stop h8]
  case trigger =>
    intro s g n st hd he hr
    refine completes_lift exec_shtGroupTrigger ?_
    rw [shtTrigger_idle hd he hr]
    obtain ⟨hdue, hcount, hsht, hmem⟩ := grpTrig_counted s.dev g (terase s.dev.trd.trigDue g)
    exact ⟨by rw [hdue, tfind_terase, if_pos rfl], hcount, hsht, hmem⟩
  case pad =>
    intro s i level hd ho
    exact completes_lift exec_padSense (padSense_free hd ho)

end Sys2Proof.Machine
end

section
/-!
SUPPORT. What a codeword error does leaves the security unit alone: of the chain behind `Dev.readEcc` (counters, the retirement
of a resource, the recovery of the channels placed there, and at worst the entry to Safe with the Cutter commands that waited)
no function changes `Dev.sec`. The lemmas stand in the order of the definitions, one per function.
-/
namespace Sys2Proof.Machine

/-- A pass whose steps keep the security unit keeps it. -/
@[simp] theorem each_sec (l : List Nat) (f : Dev → Nat → Dev) (h : ∀ d x, (f d x).sec = d.sec) (d : Dev) :
    (d.each l f).sec = d.sec := each_keeps Dev.sec l f h d

@[simp] theorem foldl_sec {α : Type} (l : List α) (f : Dev → α → Dev) (h : ∀ d x, (f d x).sec = d.sec) (d : Dev) :
    (l.foldl f d).sec = d.sec := foldl_keeps Dev.sec l f h d

/-! ### Channels and their tables -/

section
variable (d : Dev)

@[simp] theorem cmdDone_sec (k st : Nat) (r0 r1 : Option Nat) : (d.cmdDone k st r0 r1).sec = d.sec :=
  sec_of_still (cmdDone_still ..)

@[simp] theorem cmdDone?_sec (p : Option Nat) (st : Nat) (r0 : Option Nat) : (d.cmdDone? p st r0).sec = d.sec := by
  cases p <;> simp [Dev.cmdDone?]

@[simp] theorem strikeDecay_sec : d.strikeDecay.sec = d.sec := by
  simp [Dev.strikeDecay, apply_ite Dev.sec]

@[simp] theorem tableCompare_sec : d.tableCompare.sec = d.sec := by
  simp [Dev.tableCompare, apply_ite Dev.sec]

@[simp] theorem dropKey_sec (k : Nat) : (d.dropKey k).sec = d.sec := by simp [Dev.dropKey]

@[simp] theorem endMigration_sec (c st : Nat) : (d.endMigration c st).sec = d.sec := by
  unfold Dev.endMigration
  split
  · rfl
  · simp [apply_ite Dev.sec]

@[simp] theorem relinkFrom_sec (c k : Nat) : (d.relinkFrom c k).sec = d.sec := by simp [Dev.relinkFrom]

@[simp] theorem mgmtTake_sec (c : Nat) : (d.mgmtTake c).sec = d.sec := by simp [Dev.mgmtTake]

@[simp] theorem recoverMig_sec (c : Nat) (f : Word) : (d.recoverMig c f).1.sec = d.sec := by
  unfold Dev.recoverMig
  split
  · rfl
  · split
    · rfl
    · split <;> simp

/-! ### Placement -/

@[simp] theorem linkShared_sec (k : Nat) : (d.linkShared k).sec = d.sec := by simp [Dev.linkShared]

@[simp] theorem placeWin_sec (k e : Nat) (w : Nat × Word) : (d.placeWin k e w).1.sec = d.sec := by
  unfold Dev.placeWin
  extract_lets c n kind x put
  have hput : ∀ a, (put a).sec = d.sec := fun a => by simp [put]
  clear_value put kind x
  repeat' split
  all_goals simp [hput]

/-- One window of `Dev.placeWins`: after the first that finds no place, none is placed. -/
def placeWinsStep (k e : Nat) (s : Dev × Option Nat) (w : Nat × Word) : Dev × Option Nat :=
  match s.2 with
  | some _ => s
  | none => s.1.placeWin k e w

theorem placeWinsStep_sec (k e : Nat) (l : List (Nat × Word)) (s : Dev × Option Nat) :
    (l.foldl (placeWinsStep k e) s).1.sec = s.1.sec := by
  induction l generalizing s with
  | nil => rfl
  | cons w l ih =>
    rw [List.foldl_cons, ih, placeWinsStep]
    split
    · rfl
    · exact placeWin_sec ..

@[simp] theorem placeWins_sec (k e : Nat) : (d.placeWins k e).1.sec = d.sec := by
  unfold Dev.placeWins
  extract_lets c
  split
  rename_i x bad hx
  have hd : x.sec = d.sec := by
    rw [← placeWinsStep_sec k e (d.mapped c) (d, none)]
    exact congrArg (fun s => s.1.sec) hx.symm
  split
  · exact hd
  · split
    · exact hd
    · split
      · simpa using hd
      · exact hd

@[simp] theorem mwr_sec (k : Nat) (l : List Byte) : (d.mwr k l).sec = d.sec := rfl

@[simp] theorem loadPack_sec (id e base : Nat) : (d.loadPack id e base).sec = d.sec := by
  unfold Dev.loadPack
  split <;> simp

variable {d} in
theorem tryPlace_sec {k e : Nat} {x : Dev} (h : d.tryPlace k e = .inr x) : x.sec = d.sec := by
  unfold Dev.tryPlace at h
  dsimp only at h
  split at h
  · cases h
  generalize hy : Dev.linkShared _ k = y at h
  have hd : y.sec = d.sec := by rw [← hy]; simp
  split at h
  · cases h
  split at h
  · cases h
  split at h
  · cases h
  rename_i z hz
  have hzd : z.sec = d.sec := by rw [← hd, ← placeWins_sec y k e, hz]
  split at h
  · cases h
  split at h
  · cases h
  split at h
  · cases h
  split at h
  · cases h
  cases h
  split <;> simpa using hzd

variable {d} in
theorem placeOn_sec {k : Nat} {l : List Nat} {x : Dev} (h : d.placeOn k l = .inr x) : x.sec = d.sec := by
  unfold Dev.placeOn at h
  split at h
  · rename_i y hy
    obtain ⟨e, -, he⟩ := List.exists_of_findSome?_eq_some hy
    cases h
    split at he
    · rename_i z hz
      cases he
      exact tryPlace_sec hz
    · cases he
  · cases h

@[simp] theorem restoreCells_sec (k : Nat) (m : Memory) : (d.restoreCells k m).sec = d.sec := by simp [Dev.restoreCells]

@[simp] theorem restoreCkpt_sec (c : Nat) : (d.restoreCkpt c).sec = d.sec := by
  unfold Dev.restoreCkpt
  split
  · rfl
  · dsimp only
    split <;> simp

@[simp] theorem replayFrom_sec (c : Nat) (f : Word) (t : Bool) : (d.replayFrom c f t).sec = d.sec := by
  simp [Dev.replayFrom, apply_ite Dev.sec]

/-! ### The stations of a scan -/

@[simp] theorem stnDrop_sec (s : Nat) : (d.stnDrop s).sec = d.sec := by simp [Dev.stnDrop, apply_ite Dev.sec]

@[simp] theorem scnWrite_sec (w ofs : Nat) (l : List Byte) : (d.scnWrite w ofs l).sec = d.sec := by
  unfold Dev.scnWrite
  split <;> simp

@[simp] theorem stnCommit_sec (s : Nat) : (d.stnCommit s).sec = d.sec := by simp [Dev.stnCommit, apply_ite Dev.sec]

@[simp] theorem applyLog_sec : d.applyLog.sec = d.sec := by simp [Dev.applyLog]

@[simp] theorem instTransfer_sec : d.instTransfer.sec = d.sec := by
  unfold Dev.instTransfer
  dsimp only
  simp only [ringBit_parts, Dev.wb_frame, each_sec, Dev.w_frame, implies_true, Dev.setScn_frame, Dev.cnt_frame]
  refine foldl_sec _ _ (fun d e => ?_) _
  split
  · rfl
  · split <;> simp

@[simp] theorem stnQueued_sec : d.stnQueued.sec = d.sec := by simp [Dev.stnQueued, Dev.stnPublish, apply_ite Dev.sec]

@[simp] theorem catchUp_sec (c : Nat) : (d.catchUp c).sec = d.sec := by simp [Dev.catchUp, apply_ite Dev.sec]

@[simp] theorem scanEvent_sec (h : Word) (kind flags stn : Nat) (st : Word) : (d.scanEvent h kind flags stn st).sec = d.sec := by
  unfold Dev.scanEvent
  split <;> simp

@[simp] theorem scanToStop_sec (cause : Nat) : (d.scanToStop cause).sec = d.sec := by
  unfold Dev.scanToStop Dev.scnStatus
  simp only [each_sec, scanEvent_sec, implies_true, ringBit_parts]
  refine (foldl_sec _ _ (fun d h => ?_) _).trans ?_
  · split <;> simp
  · simp [apply_ite Dev.sec]

@[simp] theorem scanCommit_sec : d.scanCommit.sec = d.sec := by simp [Dev.scanCommit, apply_ite Dev.sec]

@[simp] theorem scanMode_sec (old new : Mode) : (d.scanMode old new).sec = d.sec := by
  unfold Dev.scanMode Dev.scanSettle Dev.scanUnstart
  refine ite_keeps Dev.sec rfl ?_
  dsimp only
  repeat' split
  all_goals simp

/-! ### Pins -/

@[simp] theorem pinSeen_sec (i : Nat) (b : Option Bool) : (d.pinSeen i b).sec = d.sec := by
  unfold Dev.pinSeen
  repeat' split
  all_goals simp

@[simp] theorem safePins_sec (g : Nat) : (d.safePins g).sec = d.sec := by simp [Dev.safePins, Dev.safePin, apply_ite Dev.sec]

@[simp] theorem pinsKeepSafe_sec : d.pinsKeepSafe.sec = d.sec := rfl

@[simp] theorem pinsFreeze_sec : d.pinsFreeze.sec = d.sec := rfl

@[simp] theorem pinFold_sec (i : Nat) : (d.pinFold i).sec = d.sec := by simp [Dev.pinFold, Dev.foldInt, apply_ite Dev.sec]

@[simp] theorem actPin_sec (i : Nat) (level oe : Option Bool) : (d.actPin i level oe).sec = d.sec := by simp [Dev.actPin]

@[simp] theorem pinAction_sec (i a : Nat) : (d.pinAction i a).sec = d.sec := by simp [Dev.pinAction, apply_ite Dev.sec]

@[simp] theorem commitPin_sec (i action who : Nat) : (d.commitPin i action who).sec = d.sec := by
  simp [Dev.commitPin, apply_ite Dev.sec]

/-! ### Late and withheld outputs -/

@[simp] theorem stopChannel_sec (c : Nat) : (d.stopChannel c).sec = d.sec := by simp [Dev.stopChannel]

@[simp] theorem lateAction_sec (c e : Nat) (rel : Word) : (d.lateAction c e rel).sec = d.sec := by
  unfold Dev.lateAction
  dsimp only
  repeat' split
  all_goals simp

@[simp] theorem dropOuts_sec (e key inId : Nat) : (d.dropOuts e key inId).sec = d.sec := by simp [Dev.dropOuts]

@[simp] theorem holdLateWaves_sec : d.holdLateWaves.sec = d.sec := by
  simp [Dev.holdLateWaves, Dev.cancelWaves, Dev.lateWave, apply_ite Dev.sec]

@[simp] theorem markLate_sec (c : Nat) (ev : Option Ev) : (d.markLate c ev).sec = d.sec := by
  cases ev <;> simp [Dev.markLate]

@[simp] theorem lateAny_sec (e : Nat) (o : Out) : (d.lateAny e o).sec = d.sec := by
  simp [Dev.lateAny, Dev.lateInput, Dev.lateOut, Dev.setL, apply_ite Dev.sec]

@[simp] theorem holdLate_sec : d.holdLate.sec = d.sec := by simp [Dev.holdLate, apply_ite Dev.sec]

@[simp] theorem migrateEnd_sec (c : Nat) (m : Migration) : (d.migrateEnd c m).sec = d.sec := by
  simp [Dev.migrateEnd, apply_ite Dev.sec]

@[simp] theorem migrateDone_sec (c : Nat) : (d.migrateDone c).sec = d.sec := by
  unfold Dev.migrateDone
  split <;> simp [apply_ite Dev.sec]

@[simp] theorem actCommitted_sec : d.actCommitted.sec = d.sec := by simp [Dev.actCommitted]

@[simp] theorem withholdAll_sec : d.withholdAll.sec = d.sec := by simp [Dev.withholdAll]

@[simp] theorem modeLeave_keeps_sec (m : Mode) : (d.modeLeave m).sec = d.sec := by simp [Dev.modeLeave, apply_ite Dev.sec]

/-! ### Commands of the Cutter -/

@[simp] theorem freeBytes_sec (n : Nat) : (d.freeBytes n).2.sec = d.sec := by
  induction n generalizing d with
  | zero => rfl
  | succ n ih => exact ih d.free.2

@[simp] theorem remoteNode_sec (c : Nat) : (d.remoteNode c).2.sec = d.sec := by
  unfold Dev.remoteNode
  dsimp only
  split <;> rfl

@[simp] theorem remoteTry_sec (c r : Nat) : (d.remoteTry c r).2.sec = d.sec := by
  unfold Dev.remoteTry
  dsimp only
  split <;> rfl

@[simp] theorem placeRemote_sec (c n e : Nat) : (d.placeRemote c n e).sec = d.sec := by
  simp [Dev.placeRemote, Dev.free]

variable {d} in
theorem placeRanks_sec {c n : Nat} {own l : List Nat} {x : Dev} (h : d.placeRanks c n own l = .inr x) : x.sec = d.sec := by
  induction l generalizing d with
  | nil =>
    unfold Dev.placeRanks at h
    dsimp only at h
    split at h
    · have hsec := placeOn_sec h
      exact hsec
    · cases h
  | cons r l ih =>
    unfold Dev.placeRanks at h
    split at h <;> rename_i y hy
    · cases h
      rw [placeRemote_sec, ← remoteTry_sec d c r, hy]
    · have hd : y.sec = d.sec := by rw [← remoteTry_sec d c r, hy]
      split at h
      · rename_i z hz
        cases h
        exact (placeOn_sec hz).trans hd
      · exact (ih h).trans hd

variable {d} in
theorem placeCreate_sec {c : Nat} {x : Dev} (h : d.placeCreate c = .inr x) : x.sec = d.sec := by
  unfold Dev.placeCreate at h
  split at h <;> rename_i hy
  · rw [placeOn_sec h, ← remoteNode_sec d c, hy]
  · rw [placeRanks_sec h, ← remoteNode_sec d c, hy]

@[simp] theorem setGen_sec (kind i g : Nat) : (d.setGen kind i g).sec = d.sec := by
  simp [Dev.setGen, apply_ite Dev.sec]

@[simp] theorem createCmd_sec (k : Nat) : (d.createCmd k).sec = d.sec := by
  unfold Dev.createCmd
  dsimp only
  split
  · simp
  · simp
  · simp
  · split
    · simp
    · split
      · simp
      · rename_i x hx
        simp [apply_ite Dev.sec, placeCreate_sec hx]

@[simp] theorem onChannel_sec (k : Nat) (f : Dev → Nat → Dev) (h : ∀ c, (f d c).sec = d.sec) : (d.onChannel k f).sec = d.sec := by
  unfold Dev.onChannel
  split
  · exact h _
  · simp

@[simp] theorem armBoundaries_sec (c : Nat) (t : Option Word) : (d.armBoundaries c t).sec = d.sec := by
  simp [Dev.armBoundaries]

@[simp] theorem idleAct_sec (c : Nat) : (d.idleAct c).sec = d.sec := by simp [Dev.idleAct, apply_ite Dev.sec]

@[simp] theorem cmdOpenValue_sec (k : Nat) : (d.cmdOpenValue k).sec = d.sec := by simp [Dev.cmdOpenValue, Dev.free]

@[simp] theorem startFaulted_sec (k c : Nat) (t : Option Word) : (d.startFaulted k c t).sec = d.sec := by
  unfold Dev.startFaulted
  refine ite_keeps Dev.sec (cmdOpenValue_sec ..) ?_
  dsimp only
  split
  · simp
  · rename_i x hx
    have hd : x.sec = d.sec := by
      split at hx
      · cases hx
        rfl
      · cases hp : d.placeOn c (d.engineList c) with
        | inl y => rw [hp] at hx; cases hx
        | inr y =>
          rw [hp] at hx
          cases hx
          rw [mgmtTake_sec, placeOn_sec hp]
    simpa using hd

@[simp] theorem startCmd_sec (k c : Nat) : (d.startCmd k c).sec = d.sec := by
  unfold Dev.startCmd
  dsimp only
  split <;> simp

@[simp] theorem stopCmd_sec (k c : Nat) : (d.stopCmd k c).sec = d.sec := by
  unfold Dev.stopCmd
  split <;> simp

@[simp] theorem endWaits_sec (c : Nat) : (d.endWaits c).sec = d.sec := by simp [Dev.endWaits]

@[simp] theorem closeMbx_sec (m : Nat) : (d.closeMbx m).sec = d.sec := by simp [Dev.closeMbx]

@[simp] theorem destroyChan_sec (c : Nat) : (d.destroyChan c).sec = d.sec := by
  simp [Dev.destroyChan, apply_ite Dev.sec]

@[simp] theorem destroyCmd_sec (k c : Nat) : (d.destroyCmd k c).sec = d.sec := by
  unfold Dev.destroyCmd
  split <;> simp

@[simp] theorem queryCmd_sec (k c : Nat) : (d.queryCmd k c).sec = d.sec := by simp [Dev.queryCmd, apply_ite Dev.sec]

@[simp] theorem moveIdle_sec (c : Nat) : (d.moveIdle c).sec = d.sec := by simp [Dev.moveIdle, apply_ite Dev.sec]

variable {d} in
theorem migrateTo_sec {c : Nat} {l : List Nat} {p : Option Nat} {x : Dev} (h : d.migrateTo c l p = .inr x) : x.sec = d.sec := by
  unfold Dev.migrateTo at h
  split at h
  · cases h
  rename_i y hy
  dsimp only at h
  split at h
  · cases h
    simp [placeOn_sec hy]
  · cases h
    simp [placeOn_sec hy]

@[simp] theorem migrateCmd_sec (k c : Nat) : (d.migrateCmd k c).sec = d.sec := by
  unfold Dev.migrateCmd
  dsimp only
  split
  · split
    · simp
    · split
      · simp
      · exact migrateTo_sec ‹_›
  · simp

@[simp] theorem bookCkpt_sec (c : Nat) : (d.bookCkpt c).sec = d.sec := by
  unfold Dev.bookCkpt
  refine ite_keeps Dev.sec ?_ rfl
  exact (sec_of_still (bookChan_still ..)).trans (freeBytes_sec ..)

@[simp] theorem ckptNow_sec (c : Nat) : (d.ckptNow c).sec = d.sec := by simp [Dev.ckptNow]

@[simp] theorem checkpointCmd_sec (k c : Nat) : (d.checkpointCmd k c).sec = d.sec := by
  unfold Dev.checkpointCmd
  refine ite_keeps Dev.sec (cmdOpenValue_sec ..) ?_
  split <;> simp

@[simp] theorem openMbx_sec (k : Nat) : (d.openMbx k).sec = d.sec := by
  unfold Dev.openMbx
  dsimp only
  split
  · simp
  · refine ite_keeps Dev.sec (cmdDone_sec ..) ?_
    split <;> simp

@[simp] theorem openRoute_sec (k : Nat) : (d.openRoute k).sec = d.sec := by
  unfold Dev.openRoute
  extract_lets s same
  refine ite_keeps Dev.sec (cmdDone_sec ..) ?_
  split <;> simp

@[simp] theorem openPat_sec (k : Nat) : (d.openPat k).sec = d.sec := by
  unfold Dev.openPat
  dsimp only
  split <;> simp [apply_ite Dev.sec]

@[simp] theorem openRes_sec (k : Nat) : (d.openRes k).sec = d.sec := by
  unfold Dev.openRes
  dsimp only
  split <;> simp [apply_ite Dev.sec]

@[simp] theorem openCmd_sec (k : Nat) : (d.openCmd k).sec = d.sec := by simp [Dev.openCmd, apply_ite Dev.sec]

@[simp] theorem closeObj_sec (kind i : Nat) : (d.closeObj kind i).sec = d.sec := by simp [Dev.closeObj, apply_ite Dev.sec]

@[simp] theorem closeCmd_sec (k : Nat) : (d.closeCmd k).sec = d.sec := by
  unfold Dev.closeCmd
  dsimp only
  refine ite_keeps Dev.sec (cmdDone_sec ..) ?_
  split <;> simp

@[simp] theorem runCmd_sec (k code : Nat) : (d.runCmd k code).sec = d.sec := by
  unfold Dev.runCmd
  repeat' split
  all_goals simp

@[simp] theorem modeCmds_sec (old m : Mode) : (d.modeCmds old m).sec = d.sec := by
  simp [Dev.modeCmds, Dev.holdCmds, apply_ite Dev.sec]

/-! ### The entry to a mode -/

@[simp] theorem modeParts_sec (m : Mode) : (d.modeTreadles m).sec = d.sec ∧ (d.modeFrames m).sec = d.sec ∧
    (d.modeEngines m).sec = d.sec ∧ (d.modeTap m).sec = d.sec ∧ (d.modePair m).sec = d.sec :=
  ⟨ite_keeps Dev.sec (each_keeps Dev.sec _ _ trdModeStop_sec d) rfl, ite_keeps Dev.sec rfl rfl,
    ite_keeps Dev.sec (each_keeps Dev.sec _ _ engMode_sec d) rfl, ite_keeps Dev.sec rfl rfl, ite_keeps Dev.sec rfl rfl⟩

/-- An entry to any mode leaves the security unit alone. -/
@[simp] theorem enterMode_keeps_sec (m : Mode) : (d.enterMode m).sec = d.sec := by
  unfold Dev.enterMode
  simp only [roleView_sec, pinsSeen_parts, modeCmds_sec, modeParts_sec, modeBuses_sec]
  show (Dev.modeTreadles _ m).sec = d.sec
  rw [(modeParts_sec ..).1, Dev.modeSet]
  simp

@[simp] theorem safeEntry_sec : d.safeEntry.sec = d.sec := by
  simp [Dev.safeEntry, Dev.reqDone, Dev.modeBell, apply_ite Dev.sec]

/-! ### Recovery and retirement -/

@[simp] theorem rePlace_sec (c : Nat) (f : Word) (r : Bool) : (d.rePlace c f r).sec = d.sec := by
  unfold Dev.rePlace
  refine ite_keeps Dev.sec rfl ?_
  dsimp only
  split
  · rename_i x hx
    have hd := placeOn_sec hx
    simp [apply_ite Dev.sec, hd]
  · simp [apply_ite Dev.sec]

@[simp] theorem recover_sec (c : Nat) (f : Word) : (d.recover c f).sec = d.sec := by
  unfold Dev.recover
  split
  rename_i x lives hx
  have hd : x.sec = d.sec := by rw [← recoverMig_sec d c f, hx]
  dsimp only
  refine ite_keeps Dev.sec hd ?_
  refine ite_keeps Dev.sec ?_ ?_ <;> simp [hd]

@[simp] theorem drainLost_sec (c : Nat) (f : Word) : (d.drainLost c f).sec = d.sec := by
  unfold Dev.drainLost
  split <;> simp [Dev.drainEnd]

@[simp] theorem strikeKeys_sec (hit : Dev → Nat → Bool) : (d.strikeKeys hit).sec = d.sec := by simp [Dev.strikeKeys]

@[simp] theorem boltRetire_sec (r : Nat) : (d.boltRetire r).sec = d.sec := by simp [Dev.boltRetire, apply_ite Dev.sec]

@[simp] theorem portView_sec (p : Nat) : (d.portView p).sec = d.sec := by simp [Dev.portView, apply_ite Dev.sec]

variable {d} in
theorem journalPlace_sec {e : Dev} (h : e.sec = d.sec) (c : Nat) : (match e.poolPlace 4096 with
    | some x => e.setChan c (fun ch => { ch with journalAt := some x })
    | none => e).sec = d.sec := by
  cases e.poolPlace 4096 <;> simpa using h

/-- A journal in the region is placed anew. -/
theorem journalMove_sec (inReg : Nat → Bool) (c : Nat) : (match (d.chan c).journalAt with
    | some a => if inReg a then
        let d := d.setChan c (fun ch => { ch with journalAt := none })
        match d.poolPlace 4096 with
        | some x => d.setChan c (fun ch => { ch with journalAt := some x })
        | none => d
      else d
    | none => d).sec = d.sec := by
  have hplace := journalPlace_sec (e := d.setChan c (fun ch => { ch with journalAt := none })) (d := d) (by simp) c
  cases (d.chan c).journalAt with
  | none => rfl
  | some a =>
    refine ite_keeps Dev.sec (Eq.trans (congrArg Dev.sec ?_) hplace) rfl
    rfl

@[simp] theorem retire_sec (r : Nat) : (d.retire r).sec = d.sec := by
  unfold Dev.retire
  refine ite_keeps Dev.sec (by simp) (ite_keeps Dev.sec (by simp) (ite_keeps Dev.sec ?_ ?_))
  · simp only [strikeKeys_sec]
    refine (each_sec _ _ (fun d c => journalMove_sec d _ c) _).trans ?_
    simp [apply_ite Dev.sec]
  · simp [apply_ite Dev.sec]

@[simp] theorem permanent_sec (r : Nat) : (d.permanent r).sec = d.sec := by simp [Dev.permanent, apply_ite Dev.sec]

@[simp] theorem strike_sec (r : Nat) : (d.strike r).sec = d.sec := by simp [Dev.strike, apply_ite Dev.sec]

@[simp] theorem eccCount_sec (r : Nat) (u : Bool) : (d.eccCount r u).sec = d.sec := by simp [Dev.eccCount, apply_ite Dev.sec]

@[simp] theorem errLog_sec (r : Nat) (u : Bool) (reader sym a : Nat) : (d.errLog r u reader sym a).sec = d.sec := by
  simp [Dev.errLog, apply_ite Dev.sec]

/-- A codeword error, whatever it leads to, leaves the security unit alone. -/
@[simp] theorem readEcc_sec (k reader : Nat) (c : Ecc) : (d.readEcc k reader c).sec = d.sec := by
  cases c <;> simp [Dev.readEcc, Dev.ecc, Dev.corrected, Dev.uncorrectable, apply_ite Dev.sec]

end

end Sys2Proof.Machine
end

section
/-!
SUPPORT. The security unit's keys, cipher queues and random generator (R502-R506).
-/
namespace Sys2Proof.Machine

theorem jobKey_of_keys {d e : Dev} (h : d.sec.keys = e.sec.keys) (w : List Word) : d.jobKey w = e.jobKey w := by
  unfold Dev.jobKey
  rw [h]

/-- What the start of a queue's next job leaves: the queue keeps its jobs, of which the first may take its key. -/
theorem cipherStart_parts (d : Dev) (q : Nat) : (d.cipherStart q).mem = d.mem ∧ (d.cipherStart q).cut = d.cut ∧
    (tget [] (d.cipherStart q).sec.jobs q).length = (tget [] d.sec.jobs q).length ∧
    (d.cipherStart q).sec.jobSeq = d.sec.jobSeq ∧ (d.cipherStart q).sec.keys = d.sec.keys ∧
    (d.cipherStart q).sec.otp = d.sec.otp := by
  unfold Dev.cipherStart
  split
  · rename_i j t hq
    split
    · simp [Dev.setSec, hq]
    · exact ⟨rfl, rfl, rfl, rfl, rfl, rfl⟩
  · exact ⟨rfl, rfl, rfl, rfl, rfl, rfl⟩

/-- The first job of an enabled unit's queue takes its key. -/
theorem cipherStart_first {d : Dev} {q : Nat} {j : Job} (hq : tget [] d.sec.jobs q = [j]) (hc : d.b SEC_CTRL 1 = true)
    (hk : j.key = none) : tget [] (d.cipherStart q).sec.jobs q = [{ j with key := some (d.jobKey j.words) }] := by
  unfold Dev.cipherStart
  rw [hq]
  dsimp only
  rw [hc, hk, if_pos (by simp)]
  exact tget_tset_self ..

/-- The queue after a job that it takes. -/
def Dev.jobQueued (d : Dev) (q : Nat) (j : Job) : Dev :=
  (d.setSec (fun x => { x with jobs := tset x.jobs q (tget [] d.sec.jobs q ++ [j]) })).wf (SEC_CQ_STAT q) 3 0
    ((tget [] d.sec.jobs q).length + 1)

theorem jobQueued_parts (d : Dev) (q : Nat) (j : Job) : (d.jobQueued q j).mem = d.mem ∧ (d.jobQueued q j).cut = d.cut ∧
    tget [] (d.jobQueued q j).sec.jobs q = tget [] d.sec.jobs q ++ [j] ∧ (d.jobQueued q j).sec.keys = d.sec.keys := by
  simp [Dev.jobQueued, Dev.setSec]

section
variable {d : Dev}

/-- The job that the engine's channel asks for at its input `ev`. -/
def Dev.jobAsked (d : Dev) (q c : Nat) (ev : Ev) : Job :=
  ⟨(List.range 8).map (fun i => d.r (SEC_CQ_JOB q i)), c, (d.act c).ctx.cinSt, (d.act c).ctx.cinQ, ev.stamp.gen, none, d.tb.now⟩

theorem cipherGo_taken {e : Fin 96} {q c : Nat} {v : Word} {ev : Ev} (he : (d.eng e).cur = some c) (hlt : c < 512)
    (hc : d.chanOf (d.r (SEC_CQ_CFG q)) = some c) (hg : d.granted c 17 = true) (hv : bitOf v 0 = true)
    (hi : (d.act c).input = some ev) (hn : (tget [] d.sec.jobs q).length < 8)
    (hb : jobBad ((List.range 8).map (fun i => d.r (SEC_CQ_JOB q i))) = false) :
    d.cipherGo (.engine e) q v = (d.jobQueued q (d.jobAsked q c ev)).cipherStart q := by
  unfold Dev.cipherGo
  dsimp only
  rw [Dev.engChan, he, hc]
  dsimp only
  rw [keyChan, Nat.mod_eq_of_lt hlt, hg, if_neg (by simp), hv, if_neg (by simp), hi, if_neg (by simp), hb, if_neg (by simp; omega)]
  rfl

theorem jobQueued_b (q : Nat) (j : Job) : (d.jobQueued q j).b SEC_CTRL 1 = d.b SEC_CTRL 1 := by
  have hne : SEC_CTRL ≠ SEC_CQ_STAT q := by
    unfold SEC_CTRL SEC_CQ_STAT
    omega
  rw [Dev.b, Dev.jobQueued, Dev.r_wf, if_neg hne]
  rfl

/-- A job that an enabled unit takes into an empty queue starts. -/
theorem jobQueued_start {q : Nat} {j : Job} (hq : tget [] d.sec.jobs q = []) (hc : d.b SEC_CTRL 1 = true) (hk : j.key = none) :
    tget [] ((d.jobQueued q j).cipherStart q).sec.jobs q = [{ j with key := some (d.jobKey j.words) }] := by
  obtain ⟨-, -, hjobs, hkeys⟩ := jobQueued_parts d q j
  rw [cipherStart_first (by rw [hjobs, hq]; rfl) (by rw [jobQueued_b, hc]) hk, jobKey_of_keys hkeys]

/-- The end of the queue's first job: `rest` follows it. -/
def Dev.jobDone (y : Dev) (q : Nat) (rest : List Job) : Dev :=
  ((y.setSec (fun s => { s with jobs := tset s.jobs q rest, jobSeq := wrapAdd 16 s.jobSeq 1 })).wf
    (SEC_CQ_STAT q) 3 0 rest.length).cipherStart q

theorem jobDone_sec (y : Dev) (q : Nat) (rest : List Job) : (tget [] (y.jobDone q rest).sec.jobs q).length = rest.length ∧
    (y.jobDone q rest).sec.jobSeq = wrapAdd 16 y.sec.jobSeq 1 ∧ (y.jobDone q rest).sec.keys = y.sec.keys ∧
    (y.jobDone q rest).sec.otp = y.sec.otp := by
  unfold Dev.jobDone
  obtain ⟨-, -, hlen, hseq, hkeys, hotp⟩ := cipherStart_parts ((y.setSec (fun s =>
    { s with jobs := tset s.jobs q rest, jobSeq := wrapAdd 16 s.jobSeq 1 })).wf (SEC_CQ_STAT q) 3 0 rest.length) q
  rw [hlen, hseq, hkeys, hotp]
  simp [Dev.setSec]

/-- What a job that ends does before it leaves the queue (its read's codewords, its result) leaves the security unit alone. -/
theorem cipherDone_shape {q : Nat} {j : Job} {rest : List Job} (ecc : Ecc) (hq : tget [] d.sec.jobs q = j :: rest)
    (hk : j.key.isSome = true) (hc : d.b SEC_CTRL 1 = true) :
    ∃ (y : Dev) (ev : Ev), y.sec = d.sec ∧ d.cipherDone q ecc = ((y.jobDone q rest).post j.chan ev).ringBit .sec 3 := by
  have hnone : j.key.isNone = false := by cases hj : j.key with
    | none => rw [hj] at hk; cases hk
    | some k => rfl
  unfold Dev.cipherDone
  rw [hq]
  show ∃ (y : Dev) (ev : Ev), _ ∧ (if j.key.isNone || !(d.b SEC_CTRL 1) then d else _) = _
  rw [hnone, hc, if_neg (by simp)]
  extract_lets w0 op win base w2 n src res d1 dst ro status d2 d3 d4 st ev
  have h1 : d1.sec = d.sec := by
    unfold d1
    cases src <;> simp
  have h2 : d2.sec = d1.sec := by
    unfold d2
    cases dst with
    | none => rfl
    | some k => exact ite_keeps Dev.sec rfl (mwr_sec ..)
  exact ⟨d2, _, h2.trans h1, rfl⟩

/-- The end of a job: whatever its codewords led to, the queue has lost it and the unit kept its keys and its OTP. -/
theorem cipherDone_sec {q : Nat} {ecc : Ecc} {j : Job} {rest : List Job} (hq : tget [] d.sec.jobs q = j :: rest)
    (hk : j.key.isSome = true) (hc : d.b SEC_CTRL 1 = true) :
    (tget [] (d.cipherDone q ecc).sec.jobs q).length = rest.length ∧
    (d.cipherDone q ecc).sec.jobSeq = wrapAdd 16 d.sec.jobSeq 1 ∧ (d.cipherDone q ecc).sec.keys = d.sec.keys ∧
    (d.cipherDone q ecc).sec.otp = d.sec.otp := by
  obtain ⟨y, ev, hy, hdone⟩ := cipherDone_shape ecc hq hk hc
  have hsec : (d.cipherDone q ecc).sec = (y.jobDone q rest).sec := by rw [hdone]; simp
  rw [hsec, ← hy]
  exact jobDone_sec y q rest

theorem rngRead_word {held n : Nat} (hn : n = Nat.max (d.f SEC_RNG_STAT 6 0) held) (hz : 0 < n) (hf : d.sec.rngFail = false)
    (hc : d.b SEC_CTRL 0 = true) : d.rngRead held =
      (Config.randomWord d.freeCtr, { d.wf SEC_RNG_STAT 6 0 (n - 1) with freeCtr := d.freeCtr + 1 }) := by
  have hheld : d.rngHeld held = n := by
    unfold Dev.rngHeld Dev.rngUp
    rw [hf, hc, hn]
    rfl
  unfold Dev.rngRead
  dsimp only
  rw [hheld, if_neg hz.ne', hf, if_neg (by simp; omega)]
  rfl

theorem rngRead_empty (h : d.f SEC_RNG_STAT 6 0 = 0) : d.rngRead 0 = (0, d.satf SEC_RNG_STAT 31 16 1) := by
  have hheld : d.rngHeld 0 = 0 := by
    unfold Dev.rngHeld
    rw [h]
    exact ite_self _
  unfold Dev.rngRead
  dsimp only
  rw [hheld, if_pos rfl, if_pos (by simp)]

end

end Sys2Proof.Machine
end

section
namespace Sys2Proof.Machine

/-- Settles O15: each command with its lemma; a job's end rests on `readEcc_sec`. -/
theorem securityUnitComplete : Obligations.SecurityUnitComplete := by
  unfold Obligations.SecurityUnitComplete
  refine ⟨?write, ?erase, ?go, ?done, ?read, ?empty, ?fail⟩
  case write =>
    intro s who v hr
    refine completes_lift exec_keyWrite ?_
    rw [access_of_reaches hr]
    rfl
  case erase =>
    intro s who v hr
    refine completes_lift exec_keyErase ?_
    rw [access_of_reaches hr]
    rfl
  case go =>
    intro s e q v c ev hr he hlt hc hg hv hi hn hb
    refine completes_lift exec_cipherGo ?_
    rw [access_of_reaches hr, cipherGo_taken he hlt hc hg hv hi hn hb]
    obtain ⟨hmem, hcut, -, -⟩ := cipherStart_parts (s.dev.jobQueued q (s.dev.jobAsked q c ev)) q
    obtain ⟨hmem', hcut', -, -⟩ := jobQueued_parts s.dev q (s.dev.jobAsked q c ev)
    exact ⟨rfl, fun hq hctrl => ⟨_, jobQueued_start hq hctrl rfl, rfl⟩, hmem.trans hmem', hcut.trans hcut'⟩
  case done =>
    intro s q ecc j rest hq hk hc
    exact completes_lift exec_cipherJobDone (cipherDone_sec hq hk hc)
  case read =>
    intro s who held n hr hn hz hf hc
    refine completes_lift exec_rngRead ?_
    rw [accessR_of_reaches hr, rngRead_word hn hz hf hc]
  case empty =>
    intro s who hr h
    refine completes_lift exec_rngRead ?_
    rw [accessR_of_reaches hr, show s.dev.rngRead (0 : Fin 65).val = _ from rngRead_empty h]
  case fail =>
    intro s hu hh
    refine completes_lift exec_rngHealthFail ?_
    rw [hu, hh, if_pos (show (true && true) = true from rfl), Dev.rngBad]
    simp [Dev.setSec]

end Sys2Proof.Machine
end
